-- ==== Sys2Proof/Word.lean ====
section
/-! DEFINITION. The word types and their plainest arithmetic (spec/00 R2, R7; spec/02 R27). -/

namespace Sys2Proof

/-- A scalar register, an address operand, a control register (R169). -/
abbrev Word := BitVec 64

/-- One byte of memory. -/
abbrev Byte := BitVec 8

/-- The 64-bit sign extension of a narrower field (R7, sext). -/
def sx {n : Nat} (x : BitVec n) : Word := x.signExtend 64

/-- The 64-bit zero extension of a narrower field (R7, zext). -/
def zx {n : Nat} (x : BitVec n) : Word := x.setWidth 64

/-- Field [lo + len - 1 : lo] of a word given as a number (R2). -/
def fld (w lo len : Nat) : BitVec len := BitVec.ofNat len (w / 2 ^ lo)

/-- Field [lo + len - 1 : lo] of a bit vector, as a number (R2). -/
def bits {n : Nat} (x : BitVec n) (lo len : Nat) : Nat := x.toNat / 2 ^ lo % 2 ^ len

/-- A Bool as a one-bit number. -/
def bit (b : Bool) : Nat := if b then 1 else 0

end Sys2Proof
end

