-- ==== Sys2Proof/Syntax.lean ====
section
/-! DEFINITION. The instructions of Yalelm version 2 (spec/02, R24 to R53) and the steps of the module
(spec/95): one constructor for each row of spec/opcode_table.json. They stand in the table's order, but for the
two reserved-word rows, which stand before the micro-orders. -/

namespace Sys2Proof

/-- The extension word of a long instruction (R30). -/
structure Ext where
  d1 : BitVec 5
  d2 : BitVec 5
  d3 : BitVec 5
  np : BitVec 5
  ev : BitVec 4
  post : BitVec 1
  q : BitVec 3
  t : BitVec 4
  deriving DecidableEq, Repr

/-- One 128-byte line of a fabric data flit, with the check word and origin tag that travel beside it (R381). -/
structure FlitLine where
  bytes : List (BitVec 8)
  crc : BitVec 32
  tag : BitVec 16
  deriving DecidableEq, Repr

/-- One constructor per row of spec/opcode_table.json. Register fields are register numbers; `t` is the token
field (R28), `x` the extension word (R30). The module's own steps (from `instructionFetch` on) carry what the
world outside the sequencer supplies: the unit they concern, an address, the data of a packet, a value written. -/
inductive Instr where
  /-- R173: Writes rs1 + rs2 modulo 2^64 to rd. -/
  | add (d : BitVec 5) (a : BitVec 5) (b : BitVec 5) (t : BitVec 4)
  /-- R173: Writes rs1 - rs2 modulo 2^64 to rd. -/
  | sub (d : BitVec 5) (a : BitVec 5) (b : BitVec 5) (t : BitVec 4)
  /-- R173: Writes the bitwise AND of rs1 and rs2 to rd. -/
  | and (d : BitVec 5) (a : BitVec 5) (b : BitVec 5) (t : BitVec 4)
  /-- R173: Writes the bitwise OR of rs1 and rs2 to rd. -/
  | or (d : BitVec 5) (a : BitVec 5) (b : BitVec 5) (t : BitVec 4)
  /-- R173: Writes the bitwise XOR of rs1 and rs2 to rd. -/
  | xor (d : BitVec 5) (a : BitVec 5) (b : BitVec 5) (t : BitVec 4)
  /-- R173: Writes rs1 & ~rs2 to rd. -/
  | andn (d : BitVec 5) (a : BitVec 5) (b : BitVec 5) (t : BitVec 4)
  /-- R173: Writes rs1 | ~rs2 to rd. -/
  | orn (d : BitVec 5) (a : BitVec 5) (b : BitVec 5) (t : BitVec 4)
  /-- R173: Shifts rs1 left by rs2[5:0] into rd. -/
  | sll (d : BitVec 5) (a : BitVec 5) (b : BitVec 5) (t : BitVec 4)
  /-- R173: Shifts rs1 logically right by rs2[5:0] into rd. -/
  | srl (d : BitVec 5) (a : BitVec 5) (b : BitVec 5) (t : BitVec 4)
  /-- R173: Shifts rs1 arithmetically right by rs2[5:0] into rd. -/
  | sra (d : BitVec 5) (a : BitVec 5) (b : BitVec 5) (t : BitVec 4)
  /-- R173: Rotates rs1 right by rs2[5:0] into rd. -/
  | ror (d : BitVec 5) (a : BitVec 5) (b : BitVec 5) (t : BitVec 4)
  /-- R173: Writes 1 to rd when rs1 < rs2 signed, else 0. -/
  | slt (d : BitVec 5) (a : BitVec 5) (b : BitVec 5) (t : BitVec 4)
  /-- R173: Writes 1 to rd when rs1 < rs2 unsigned, else 0. -/
  | sltu (d : BitVec 5) (a : BitVec 5) (b : BitVec 5) (t : BitVec 4)
  /-- R173: Writes the signed minimum of rs1 and rs2 to rd. -/
  | min (d : BitVec 5) (a : BitVec 5) (b : BitVec 5) (t : BitVec 4)
  /-- R173: Writes the signed maximum of rs1 and rs2 to rd. -/
  | max (d : BitVec 5) (a : BitVec 5) (b : BitVec 5) (t : BitVec 4)
  /-- R173: Writes the unsigned minimum of rs1 and rs2 to rd. -/
  | minu (d : BitVec 5) (a : BitVec 5) (b : BitVec 5) (t : BitVec 4)
  /-- R173: Writes the unsigned maximum of rs1 and rs2 to rd. -/
  | maxu (d : BitVec 5) (a : BitVec 5) (b : BitVec 5) (t : BitVec 4)
  /-- R173: Writes the low 64 bits of rs1 × rs2 to rd. -/
  | mul (d : BitVec 5) (a : BitVec 5) (b : BitVec 5) (t : BitVec 4)
  /-- R173: Writes the high 64 bits of the signed product to rd. -/
  | mulh (d : BitVec 5) (a : BitVec 5) (b : BitVec 5) (t : BitVec 4)
  /-- R173: Writes the high 64 bits of the unsigned product to rd. -/
  | mulhu (d : BitVec 5) (a : BitVec 5) (b : BitVec 5) (t : BitVec 4)
  /-- R174: Writes the signed quotient, truncated toward zero, with defined results for zero and overflow. -/
  | div (d : BitVec 5) (a : BitVec 5) (b : BitVec 5) (t : BitVec 4)
  /-- R174: Writes the unsigned quotient, all ones on divide by zero. -/
  | divu (d : BitVec 5) (a : BitVec 5) (b : BitVec 5) (t : BitVec 4)
  /-- R174: Writes the signed remainder with the dividend's sign. -/
  | rem (d : BitVec 5) (a : BitVec 5) (b : BitVec 5) (t : BitVec 4)
  /-- R174: Writes the unsigned remainder, rs1 on divide by zero. -/
  | remu (d : BitVec 5) (a : BitVec 5) (b : BitVec 5) (t : BitVec 4)
  /-- R173: Writes the sign-extended low 32 bits of rs1 + rs2. -/
  | addw (d : BitVec 5) (a : BitVec 5) (b : BitVec 5) (t : BitVec 4)
  /-- R173: Writes the sign-extended low 32 bits of rs1 - rs2. -/
  | subw (d : BitVec 5) (a : BitVec 5) (b : BitVec 5) (t : BitVec 4)
  /-- R173: Writes the count of leading zeros of rs1, 64 for zero. -/
  | clz (d : BitVec 5) (a : BitVec 5) (t : BitVec 4)
  /-- R173: Writes the count of trailing zeros of rs1, 64 for zero. -/
  | ctz (d : BitVec 5) (a : BitVec 5) (t : BitVec 4)
  /-- R173: Writes the number of set bits of rs1. -/
  | popc (d : BitVec 5) (a : BitVec 5) (t : BitVec 4)
  /-- R173: Writes rs1 sign-extended from 32 bits. -/
  | sextw (d : BitVec 5) (a : BitVec 5) (t : BitVec 4)
  /-- R173: Writes rs1 zero-extended from 32 bits. -/
  | zextw (d : BitVec 5) (a : BitVec 5) (t : BitVec 4)
  /-- R173: Writes rs1[31:0] in the high half and rs2[31:0] in the low half. -/
  | pack (d : BitVec 5) (a : BitVec 5) (b : BitVec 5) (t : BitVec 4)
  /-- R173: Writes (rs1 << 1) + rs2. -/
  | sh1add (d : BitVec 5) (a : BitVec 5) (b : BitVec 5) (t : BitVec 4)
  /-- R173: Writes (rs1 << 2) + rs2. -/
  | sh2add (d : BitVec 5) (a : BitVec 5) (b : BitVec 5) (t : BitVec 4)
  /-- R173: Writes (rs1 << 3) + rs2. -/
  | sh3add (d : BitVec 5) (a : BitVec 5) (b : BitVec 5) (t : BitVec 4)
  /-- R175: Writes rs1 plus the sign-extended 12-bit immediate. -/
  | addi (d : BitVec 5) (a : BitVec 5) (i : BitVec 12) (t : BitVec 4)
  /-- R175: Writes rs1 AND the sign-extended immediate. -/
  | andi (d : BitVec 5) (a : BitVec 5) (i : BitVec 12) (t : BitVec 4)
  /-- R175: Writes rs1 OR the sign-extended immediate. -/
  | ori (d : BitVec 5) (a : BitVec 5) (i : BitVec 12) (t : BitVec 4)
  /-- R175: Writes rs1 XOR the sign-extended immediate. -/
  | xori (d : BitVec 5) (a : BitVec 5) (i : BitVec 12) (t : BitVec 4)
  /-- R175: Shifts rs1 left by the immediate amount. -/
  | slli (d : BitVec 5) (a : BitVec 5) (s : BitVec 6) (t : BitVec 4)
  /-- R175: Shifts rs1 logically right by the immediate amount. -/
  | srli (d : BitVec 5) (a : BitVec 5) (s : BitVec 6) (t : BitVec 4)
  /-- R175: Shifts rs1 arithmetically right by the immediate amount. -/
  | srai (d : BitVec 5) (a : BitVec 5) (s : BitVec 6) (t : BitVec 4)
  /-- R175: Rotates rs1 right by the immediate amount. -/
  | rori (d : BitVec 5) (a : BitVec 5) (s : BitVec 6) (t : BitVec 4)
  /-- R175: Writes 1 when rs1 is below the immediate, signed. -/
  | slti (d : BitVec 5) (a : BitVec 5) (i : BitVec 12) (t : BitVec 4)
  /-- R175: Writes 1 when rs1 is below the sign-extended immediate, unsigned. -/
  | sltiu (d : BitVec 5) (a : BitVec 5) (i : BitVec 12) (t : BitVec 4)
  /-- R176: Writes the sign-extended 21-bit immediate shifted left by 11. -/
  | lui (d : BitVec 5) (i : BitVec 21)
  /-- R176: Writes PC + 4 × the sign-extended 21-bit immediate. -/
  | adpc (d : BitVec 5) (i : BitVec 21)
  /-- R159: Checks and enters a sign-extending scalar slice load into the load queue. -/
  | ld (d : BitVec 5) (a : BitVec 5) (w : BitVec 2) (i : BitVec 10) (t : BitVec 4)
  /-- R159: Checks and enters a zero-extending scalar slice load into the load queue. -/
  | ldu (d : BitVec 5) (a : BitVec 5) (w : BitVec 2) (i : BitVec 10) (t : BitVec 4)
  /-- R159: Enters a weak scalar store into the store queue and retires at once. -/
  | st (b : BitVec 5) (a : BitVec 5) (w : BitVec 2) (i : BitVec 10) (t : BitVec 4)
  /-- R159: Performs a strong scalar store at module scope with precise faults, stalling issue until it retires. -/
  | sts (b : BitVec 5) (a : BitVec 5) (w : BitVec 2) (i : BitVec 10) (t : BitVec 4)
  /-- R161: Loads a spill word into rd, bounded by SPLIM. -/
  | ldsp (d : BitVec 5) (o : BitVec 10) (t : BitVec 4)
  /-- R161: Stores a register to a spill word, bounded by SPLIM. -/
  | stsp (s : BitVec 5) (o : BitVec 10) (t : BitVec 4)
  /-- R289: Atomically adds rs2 to memory at its home and returns the old value. -/
  | amoadd (d : BitVec 5) (a : BitVec 5) (b : BitVec 5) (o : BitVec 2) (w : BitVec 1) (t : BitVec 4)
  /-- R289: Atomically ANDs rs2 into memory and returns the old value. -/
  | amoand (d : BitVec 5) (a : BitVec 5) (b : BitVec 5) (o : BitVec 2) (w : BitVec 1) (t : BitVec 4)
  /-- R289: Atomically ORs rs2 into memory and returns the old value. -/
  | amoor (d : BitVec 5) (a : BitVec 5) (b : BitVec 5) (o : BitVec 2) (w : BitVec 1) (t : BitVec 4)
  /-- R289: Atomically XORs rs2 into memory and returns the old value. -/
  | amoxor (d : BitVec 5) (a : BitVec 5) (b : BitVec 5) (o : BitVec 2) (w : BitVec 1) (t : BitVec 4)
  /-- R289: Atomically stores the signed minimum and returns the old value. -/
  | amomin (d : BitVec 5) (a : BitVec 5) (b : BitVec 5) (o : BitVec 2) (w : BitVec 1) (t : BitVec 4)
  /-- R289: Atomically stores the signed maximum and returns the old value. -/
  | amomax (d : BitVec 5) (a : BitVec 5) (b : BitVec 5) (o : BitVec 2) (w : BitVec 1) (t : BitVec 4)
  /-- R289: Atomically stores the unsigned minimum and returns the old value. -/
  | amominu (d : BitVec 5) (a : BitVec 5) (b : BitVec 5) (o : BitVec 2) (w : BitVec 1) (t : BitVec 4)
  /-- R289: Atomically stores the unsigned maximum and returns the old value. -/
  | amomaxu (d : BitVec 5) (a : BitVec 5) (b : BitVec 5) (o : BitVec 2) (w : BitVec 1) (t : BitVec 4)
  /-- R289: Atomically swaps rs2 with memory and returns the old value. -/
  | amoswap (d : BitVec 5) (a : BitVec 5) (b : BitVec 5) (o : BitVec 2) (w : BitVec 1) (t : BitVec 4)
  /-- R289: Atomically writes rs2 when memory equals rd and returns the old value in rd. -/
  | amocas (d : BitVec 5) (a : BitVec 5) (b : BitVec 5) (o : BitVec 2) (w : BitVec 1) (t : BitVec 4)
  /-- R289: Atomically adds an FP32 value under RNE32, refused in deterministic regions. -/
  | amofadd (d : BitVec 5) (a : BitVec 5) (b : BitVec 5) (o : BitVec 2) (t : BitVec 4)
  /-- R286: Waits for earlier accesses of the selected kinds homed in its scope, and commands for ENG, then retires. -/
  | fence (s : BitVec 3) (k : BitVec 5) (t : BitVec 4)
  /-- R163: Enters both queues and retires when every earlier entry has performed at module scope. -/
  | mark (t : BitVec 4)
  /-- R180: Branches when rs1 equals rs2. -/
  | beq (a : BitVec 5) (b : BitVec 5) (o : BitVec 13)
  /-- R180: Branches when rs1 differs from rs2. -/
  | bne (a : BitVec 5) (b : BitVec 5) (o : BitVec 13)
  /-- R180: Branches when rs1 < rs2 signed. -/
  | blt (a : BitVec 5) (b : BitVec 5) (o : BitVec 13)
  /-- R180: Branches when rs1 >= rs2 signed. -/
  | bge (a : BitVec 5) (b : BitVec 5) (o : BitVec 13)
  /-- R180: Branches when rs1 < rs2 unsigned. -/
  | bltu (a : BitVec 5) (b : BitVec 5) (o : BitVec 13)
  /-- R180: Branches when rs1 >= rs2 unsigned. -/
  | bgeu (a : BitVec 5) (b : BitVec 5) (o : BitVec 13)
  /-- R181: Pops the stream's control-queue outcome and branches when bit b is 1. -/
  | bcqs (n : BitVec 4) (o : BitVec 13)
  /-- R181: Pops the stream's control-queue outcome and branches when bit b is 0. -/
  | bcqc (n : BitVec 4) (o : BitVec 13)
  /-- R181: Branches on bit b = 1 of the head outcome, leaving it queued. -/
  | bcqsK (n : BitVec 4) (o : BitVec 13)
  /-- R181: Branches on bit b = 0 of the head outcome, leaving it queued. -/
  | bcqcK (n : BitVec 4) (o : BitVec 13)
  /-- R182: Writes PC + 4 to rd and jumps PC-relative. -/
  | jal (d : BitVec 5) (o : BitVec 21)
  /-- R182: Writes PC + 4 to rd and jumps to rs1 + imm with bits [1:0] cleared, trapping on a non-canonical target. -/
  | jalr (d : BitVec 5) (a : BitVec 5) (i : BitVec 12) (t : BitVec 4)
  /-- R167: Appends a 16-bit branch outcome to every receiving control-queue copy, waiting for room. -/
  | cqp (a : BitVec 5) (i : BitVec 12) (t : BitVec 4)
  /-- R183: Adds n to an event counter, saturating, after earlier MARKs retire. -/
  | evpost (n : BitVec 6) (e : BitVec 4) (t : BitVec 4)
  /-- R183: Waits until an event counter reaches n, then subtracts n. -/
  | evwait (n : BitVec 6) (e : BitVec 4) (t : BitVec 4)
  /-- R183: Reads an event counter into rd and zeroes it. -/
  | evclr (d : BitVec 5) (e : BitVec 4) (t : BitVec 4)
  /-- R183: Waits until any counter of the slot is posted. -/
  | wfe (t : BitVec 4)
  /-- R186: Reads a control register into rd. -/
  | csrr (d : BitVec 5) (n : BitVec 10) (t : BitVec 4)
  /-- R186: Reads a control register into rd and writes rs1 field by field. -/
  | csrw (d : BitVec 5) (a : BitVec 5) (n : BitVec 10) (t : BitVec 4)
  /-- R186: Reads a control register into rd and sets the bits of rs1. -/
  | csrs (d : BitVec 5) (a : BitVec 5) (n : BitVec 10) (t : BitVec 4)
  /-- R186: Reads a control register into rd and clears the bits of rs1. -/
  | csrc (d : BitVec 5) (a : BitVec 5) (n : BitVec 10) (t : BitVec 4)
  /-- R189: Does nothing and retires at issue. -/
  | nop (t : BitVec 4)
  /-- R190: Waits for the sequencer's queues to perform, then stops with the software-trap fault. -/
  | trap (c : BitVec 8) (t : BitVec 4)
  /-- R191: Sends a beat record to the policy core and updates HBLAST. -/
  | hbeat (t : BitVec 4)
  /-- R317: Offers the slot to a ready task of equal or higher priority, checkpointing this task if one can use it. -/
  | yield (t : BitVec 4)
  /-- R308: Stops the task's streams, waits for its work, writes results and histograms, decrements successors and frees the slot; in H ends the handler run. -/
  | exit (a : BitVec 5) (t : BitVec 4)
  /-- R192: Waits until the named command of the slot has retired. -/
  | cwait (a : BitVec 5) (t : BitVec 4)
  /-- R178: Rounds the exact FP32 sum under rm. -/
  | fadd (d : BitVec 5) (a : BitVec 5) (b : BitVec 5) (r : BitVec 2) (t : BitVec 4)
  /-- R178: Rounds the exact FP32 difference under rm. -/
  | fsub (d : BitVec 5) (a : BitVec 5) (b : BitVec 5) (r : BitVec 2) (t : BitVec 4)
  /-- R178: Rounds the exact FP32 product under rm. -/
  | fmul (d : BitVec 5) (a : BitVec 5) (b : BitVec 5) (r : BitVec 2) (t : BitVec 4)
  /-- R178: Rounds the exact FP32 quotient under rm. -/
  | fdiv (d : BitVec 5) (a : BitVec 5) (b : BitVec 5) (r : BitVec 2) (t : BitVec 4)
  /-- R178: Rounds the exact square root under rm. -/
  | fsqrt (d : BitVec 5) (a : BitVec 5) (r : BitVec 2) (t : BitVec 4)
  /-- R178: Rounds rd + rs1 × rs2 once under rm. -/
  | fmac (d : BitVec 5) (a : BitVec 5) (b : BitVec 5) (r : BitVec 2) (t : BitVec 4)
  /-- R178: Writes the FP32 minimum under R64. -/
  | fmin (d : BitVec 5) (a : BitVec 5) (b : BitVec 5) (t : BitVec 4)
  /-- R178: Writes the FP32 maximum under R64. -/
  | fmax (d : BitVec 5) (a : BitVec 5) (b : BitVec 5) (t : BitVec 4)
  /-- R178: Writes 1 when the FP32 operands are equal. -/
  | feq (d : BitVec 5) (a : BitVec 5) (b : BitVec 5) (t : BitVec 4)
  /-- R178: Writes 1 when rs1 < rs2 in FP32. -/
  | flt (d : BitVec 5) (a : BitVec 5) (b : BitVec 5) (t : BitVec 4)
  /-- R178: Writes 1 when rs1 ≤ rs2 in FP32. -/
  | fle (d : BitVec 5) (a : BitVec 5) (b : BitVec 5) (t : BitVec 4)
  /-- R178: Converts a signed 64-bit integer to FP32 under rm. -/
  | fitof (d : BitVec 5) (a : BitVec 5) (r : BitVec 2) (t : BitVec 4)
  /-- R178: Converts FP32 to a signed 64-bit integer under RNE or RZ. -/
  | fftoi (d : BitVec 5) (a : BitVec 5) (r : BitVec 1) (t : BitVec 4)
  /-- R179: Loads a BF16 pattern extended exactly to FP32 into rd. -/
  | fli (d : BitVec 5) (i : BitVec 16) (t : BitVec 4)
  /-- R228: Checks and writes a tile descriptor for later commands. -/
  | tcfg (a : BitVec 5) (n : BitVec 3) (t : BitVec 4)
  /-- R229: Writes a value to the slot's shadow configuration register. -/
  | mcfg (a : BitVec 5) (n : BitVec 11) (t : BitVec 4)
  /-- R316: Releases earlier work, then atomically arrives at a stage barrier and returns its phase. -/
  | barr (d : BitVec 5) (a : BitVec 5) (t : BitVec 4)
  /-- R316: Waits until a barrier's phase passes the expected one and returns overruns. -/
  | bwait (d : BitVec 5) (a : BitVec 5) (b : BitVec 5) (t : BitVec 4)
  /-- R311: Reads a full future, or links the task as a waiter and squashes it. -/
  | frd (d : BitVec 5) (a : BitVec 5) (t : BitVec 4)
  /-- R311: Releases, then writes a future's value and takes its waiter list. -/
  | fwr (a : BitVec 5) (b : BitVec 5) (t : BitVec 4)
  /-- R306: As a strong release, decrements a TCB's dependence counter. -/
  | depdec (a : BitVec 5) (t : BitVec 4)
  /-- R307: Triggers the task early, decrementing its successors once its earlier work has performed. -/
  | trig (t : BitVec 4)
  /-- R309: Writes a value into shape register n of every successor TCB and records a guard point. -/
  | shapew (a : BitVec 5) (n : BitVec 3) (t : BitVec 4)
  /-- R344: Records or compares a shape value as a replay guard. -/
  | gshape (a : BitVec 5) (i : BitVec 10) (t : BitVec 4)
  /-- R344: Records or compares a 16-bit branch value as a replay guard. -/
  | gbr (a : BitVec 5) (i : BitVec 10) (t : BitVec 4)
  /-- R344: Records or compares HEALTH under a mask as a replay guard. -/
  | ghlth (a : BitVec 5) (i : BitVec 10) (t : BitVec 4)
  /-- R162: Reserves a data-queue entry and loads a 512-byte vector from a slice into it. -/
  | vld (q : BitVec 2) (a : BitVec 5) (i : BitVec 10) (t : BitVec 4)
  /-- R162: Pops a store-queue vector and enters a weak 512-byte store. -/
  | vst (q : BitVec 1) (a : BitVec 5) (i : BitVec 10) (t : BitVec 4)
  /-- R132: Copies a contiguous run of bytes between spaces through a copy queue. -/
  | cpy (ds : BitVec 1) (ss : BitVec 1) (a : BitVec 5) (b : BitVec 5) (c : BitVec 5) (x : Ext)
  /-- R132: Copies strided runs described by a shape record. -/
  | cpy2 (ds : BitVec 1) (ss : BitVec 1) (a : BitVec 5) (b : BitVec 5) (c : BitVec 5) (x : Ext)
  /-- R132: Copies a two-level strided shape described by a shape record. -/
  | cpy3 (ds : BitVec 1) (ss : BitVec 1) (a : BitVec 5) (b : BitVec 5) (c : BitVec 5) (x : Ext)
  /-- R133: Gathers indexed elements into a contiguous destination. -/
  | cpg (ds : BitVec 1) (ss : BitVec 1) (a : BitVec 5) (b : BitVec 5) (c : BitVec 5) (x : Ext)
  /-- R133: Scatters contiguous elements to indexed destinations in index order. -/
  | cps (ds : BitVec 1) (ss : BitVec 1) (a : BitVec 5) (b : BitVec 5) (c : BitVec 5) (x : Ext)
  /-- R132: Fills a destination with a 64-bit pattern. -/
  | cpf (ds : BitVec 1) (a : BitVec 5) (b : BitVec 5) (c : BitVec 5) (x : Ext)
  /-- R134: Writes a payload to a remote slice and delivers a handler start record. -/
  | cpm (ss : BitVec 1) (a : BitVec 5) (b : BitVec 5) (c : BitVec 5) (x : Ext)
  /-- R136: Pushes vectors from memory into one of the slot's data queues. -/
  | cpq (ss : BitVec 1) (q : BitVec 2) (b : BitVec 5) (c : BitVec 5) (x : Ext)
  /-- R140: Sends an FP32 add contribution to its home under time-slot or window ordering. -/
  | cprFaddF32 (ds : BitVec 1) (a : BitVec 5) (b : BitVec 5) (c : BitVec 5) (x : Ext)
  /-- R140: Sends a 32-bit wrapping add contribution to its home. -/
  | cprAddI32 (ds : BitVec 1) (a : BitVec 5) (b : BitVec 5) (c : BitVec 5) (x : Ext)
  /-- R140: Sends a 64-bit wrapping add contribution to its home. -/
  | cprAddI64 (ds : BitVec 1) (a : BitVec 5) (b : BitVec 5) (c : BitVec 5) (x : Ext)
  /-- R140: Sends an FP32 maximum contribution to its home. -/
  | cprMaxF32 (ds : BitVec 1) (a : BitVec 5) (b : BitVec 5) (c : BitVec 5) (x : Ext)
  /-- R140: Sends an FP32 minimum contribution to its home. -/
  | cprMinF32 (ds : BitVec 1) (a : BitVec 5) (b : BitVec 5) (c : BitVec 5) (x : Ext)
  /-- R140: Sends a signed 32-bit maximum contribution to its home. -/
  | cprMaxI32 (ds : BitVec 1) (a : BitVec 5) (b : BitVec 5) (c : BitVec 5) (x : Ext)
  /-- R140: Sends a signed 32-bit minimum contribution to its home. -/
  | cprMinI32 (ds : BitVec 1) (a : BitVec 5) (b : BitVec 5) (c : BitVec 5) (x : Ext)
  /-- R206: Runs a micro-order table body for N + TL passes with rotation and stage predicates. -/
  | vrun (a : BitVec 5) (b : BitVec 5) (c : BitVec 5) (x : Ext)
  /-- R203: Loads micro-orders into one bank of the micro-order store and raises its generation. -/
  | tbload (d : BitVec 5) (a : BitVec 5) (b : BitVec 5) (c : BitVec 5) (x : Ext)
  /-- R234: Runs the latched six-level loop nest on the matrix array. -/
  | mgo (x : Ext)
  /-- R250: Copies slice lines into a tile with their check words. -/
  | tld (n : BitVec 3) (a : BitVec 5) (b : BitVec 5) (c : BitVec 5) (x : Ext)
  /-- R250: Copies tile lines to a slice with their check words. -/
  | tst (n : BitVec 3) (a : BitVec 5) (b : BitVec 5) (c : BitVec 5) (x : Ext)
  /-- R250: Fills an accumulator window from FP32 rows in a slice. -/
  | afill (n : BitVec 2) (a : BitVec 5) (b : BitVec 5) (c : BitVec 5) (x : Ext)
  /-- R250: Drains an accumulator window to a slice with conversion and histogram. -/
  | adrn (n : BitVec 2) (a : BitVec 5) (b : BitVec 5) (c : BitVec 5) (x : Ext)
  /-- R258: Binds a slice or tile region to a new thunk handle. -/
  | tbind (d : BitVec 5) (a : BitVec 5) (b : BitVec 5) (c : BitVec 5) (x : Ext)
  /-- R258: Appends a matrix-product thunk node. -/
  | tmul (d : BitVec 5) (a : BitVec 5) (c : BitVec 5) (x : Ext)
  /-- R258: Appends a matrix multiply-accumulate thunk node. -/
  | tmac (d : BitVec 5) (a : BitVec 5) (c : BitVec 5) (x : Ext)
  /-- R258: Appends an elementwise add thunk node. -/
  | tadd (d : BitVec 5) (a : BitVec 5) (c : BitVec 5) (x : Ext)
  /-- R258: Appends an elementwise subtract thunk node. -/
  | tsub (d : BitVec 5) (a : BitVec 5) (c : BitVec 5) (x : Ext)
  /-- R258: Appends an elementwise product thunk node. -/
  | thad (d : BitVec 5) (a : BitVec 5) (c : BitVec 5) (x : Ext)
  /-- R258: Appends a scale-by-constant thunk node. -/
  | tscl (d : BitVec 5) (a : BitVec 5) (b : BitVec 5) (c : BitVec 5) (x : Ext)
  /-- R258: Appends a transpose thunk node. -/
  | ttrn (d : BitVec 5) (a : BitVec 5) (c : BitVec 5) (x : Ext)
  /-- R258: Appends a format conversion thunk node. -/
  | tcvt (d : BitVec 5) (a : BitVec 5) (c : BitVec 5) (x : Ext)
  /-- R258: Appends an activation-function thunk node. -/
  | tact (d : BitVec 5) (a : BitVec 5) (b : BitVec 5) (c : BitVec 5) (x : Ext)
  /-- R268: Forces a window's blocks of a node and copies the window to a target. -/
  | tstore (a : BitVec 5) (b : BitVec 5) (c : BitVec 5) (x : Ext)
  /-- R268: Forces every block of a node. -/
  | tforce (a : BitVec 5) (x : Ext)
  /-- R269: Frees a handle, or marks it dropped while it has users. -/
  | tdrop (a : BitVec 5) (x : Ext)
  /-- R276: Iterates a polynomial recurrence on a resident accumulator until the residual test passes. -/
  | miterPoly (fb : BitVec 1) (rel : BitVec 1) (d : BitVec 5) (a : BitVec 5) (b : BitVec 5) (c : BitVec 5) (x : Ext)
  /-- R276: Iterates a Newton–Schulz step on a resident accumulator until the residual test passes. -/
  | miterNs (fb : BitVec 1) (rel : BitVec 1) (d : BitVec 5) (a : BitVec 5) (b : BitVec 5) (c : BitVec 5) (x : Ext)
  /-- R276: Iterates an inverse refinement step on a resident accumulator until the residual test passes. -/
  | miterInv (fb : BitVec 1) (rel : BitVec 1) (d : BitVec 5) (a : BitVec 5) (b : BitVec 5) (c : BitVec 5) (x : Ext)
  /-- R115: Interns a 128-byte data line and writes its name. -/
  | caput (d : BitVec 5) (a : BitVec 5) (b : BitVec 5) (x : Ext)
  /-- R115: Interns a node line, counting each child, and writes its name. -/
  | canode (d : BitVec 5) (a : BitVec 5) (b : BitVec 5) (x : Ext)
  /-- R116: Computes a name for a byte record without entering it. -/
  | cahash (a : BitVec 5) (b : BitVec 5) (c : BitVec 5) (x : Ext)
  /-- R121: Reads the line of a name, locally or from a peer, into scratch. -/
  | caget (a : BitVec 5) (b : BitVec 5) (c : BitVec 5) (x : Ext)
  /-- R121: Walks a tree and writes its leaves into scratch. -/
  | cawalk (a : BitVec 5) (b : BitVec 5) (c : BitVec 5) (x : Ext)
  /-- R118: Applies a signed delta to a name's count and returns the count before. -/
  | caref (d : BitVec 5) (a : BitVec 5) (b : BitVec 5) (x : Ext)
  /-- R119: Counts the new name, then compare-and-swaps a root cell and adjusts counts. -/
  | caswap (d : BitVec 5) (a : BitVec 5) (b : BitVec 5) (c : BitVec 5) (x : Ext)
  /-- R122: Walks a tree and writes its leaves to ordinary virtual memory. -/
  | caout (a : BitVec 5) (b : BitVec 5) (c : BitVec 5) (x : Ext)
  /-- R118: Pins a name's count and returns the count before. -/
  | capin (d : BitVec 5) (a : BitVec 5) (x : Ext)
  /-- R302: Checks, arms and releases a TCB or team. -/
  | spawn (d : BitVec 5) (a : BitVec 5) (b : BitVec 5) (c : BitVec 5) (x : Ext)
  /-- R45: A sequencer issues a word with a reserved major, sub-operation or non-zero zero field and raises the illegal-instruction trap precisely. -/
  | reservedEncoding (word : BitVec 32)
  /-- R48: The vector engine reaches a micro-order with a reserved op7 and stops the run with an illegal-instruction trap record. -/
  | reservedOp7 (word : BitVec 32)
  /-- R224: Counts one micro-order with no other effect. -/
  | vnop
  /-- R219: Copies va to vd lane by lane. -/
  | vmov (d : BitVec 7) (a : BitVec 7) (g : BitVec 4)
  /-- R219: Selects each lane from va or vb by a lane mask. -/
  | vsel (d : BitVec 7) (a : BitVec 7) (b : BitVec 7) (g : BitVec 3)
  /-- R213: Adds f32 elements with one rounding. -/
  | vaddF32 (d : BitVec 7) (a : BitVec 7) (b : BitVec 7) (g : BitVec 4)
  /-- R213: Adds bf16 elements with one rounding. -/
  | vaddBf16 (d : BitVec 7) (a : BitVec 7) (b : BitVec 7) (g : BitVec 4)
  /-- R213: Adds f16 elements with one rounding. -/
  | vaddF16 (d : BitVec 7) (a : BitVec 7) (b : BitVec 7) (g : BitVec 4)
  /-- R213: Subtracts f32 elements with one rounding. -/
  | vsubF32 (d : BitVec 7) (a : BitVec 7) (b : BitVec 7) (g : BitVec 4)
  /-- R213: Subtracts bf16 elements with one rounding. -/
  | vsubBf16 (d : BitVec 7) (a : BitVec 7) (b : BitVec 7) (g : BitVec 4)
  /-- R213: Subtracts f16 elements with one rounding. -/
  | vsubF16 (d : BitVec 7) (a : BitVec 7) (b : BitVec 7) (g : BitVec 4)
  /-- R213: Multiplies f32 elements with one rounding. -/
  | vmulF32 (d : BitVec 7) (a : BitVec 7) (b : BitVec 7) (g : BitVec 4)
  /-- R213: Multiplies bf16 elements with one rounding. -/
  | vmulBf16 (d : BitVec 7) (a : BitVec 7) (b : BitVec 7) (g : BitVec 4)
  /-- R213: Multiplies f16 elements with one rounding. -/
  | vmulF16 (d : BitVec 7) (a : BitVec 7) (b : BitVec 7) (g : BitVec 4)
  /-- R213: Computes vd + va × vb in f32 with one rounding. -/
  | vfmaF32 (d : BitVec 7) (a : BitVec 7) (b : BitVec 7) (g : BitVec 4)
  /-- R213: Computes vd + va × vb in bf16 with one rounding. -/
  | vfmaBf16 (d : BitVec 7) (a : BitVec 7) (b : BitVec 7) (g : BitVec 4)
  /-- R213: Computes vd + va × vb in f16 with one rounding. -/
  | vfmaF16 (d : BitVec 7) (a : BitVec 7) (b : BitVec 7) (g : BitVec 4)
  /-- R213: Computes vd - va × vb in f32 with one rounding. -/
  | vfmsF32 (d : BitVec 7) (a : BitVec 7) (b : BitVec 7) (g : BitVec 4)
  /-- R213: Computes vd - va × vb in bf16 with one rounding. -/
  | vfmsBf16 (d : BitVec 7) (a : BitVec 7) (b : BitVec 7) (g : BitVec 4)
  /-- R213: Computes vd - va × vb in f16 with one rounding. -/
  | vfmsF16 (d : BitVec 7) (a : BitVec 7) (b : BitVec 7) (g : BitVec 4)
  /-- R213: Takes the f32 minimum under R64. -/
  | vminF32 (d : BitVec 7) (a : BitVec 7) (b : BitVec 7) (g : BitVec 4)
  /-- R213: Takes the bf16 minimum under R64. -/
  | vminBf16 (d : BitVec 7) (a : BitVec 7) (b : BitVec 7) (g : BitVec 4)
  /-- R213: Takes the f16 minimum under R64. -/
  | vminF16 (d : BitVec 7) (a : BitVec 7) (b : BitVec 7) (g : BitVec 4)
  /-- R213: Takes the f32 maximum under R64. -/
  | vmaxF32 (d : BitVec 7) (a : BitVec 7) (b : BitVec 7) (g : BitVec 4)
  /-- R213: Takes the bf16 maximum under R64. -/
  | vmaxBf16 (d : BitVec 7) (a : BitVec 7) (b : BitVec 7) (g : BitVec 4)
  /-- R213: Takes the f16 maximum under R64. -/
  | vmaxF16 (d : BitVec 7) (a : BitVec 7) (b : BitVec 7) (g : BitVec 4)
  /-- R213: Clears the sign of f32 elements. -/
  | vabsF32 (d : BitVec 7) (a : BitVec 7) (g : BitVec 4)
  /-- R213: Clears the sign of bf16 elements. -/
  | vabsBf16 (d : BitVec 7) (a : BitVec 7) (g : BitVec 4)
  /-- R213: Clears the sign of f16 elements. -/
  | vabsF16 (d : BitVec 7) (a : BitVec 7) (g : BitVec 4)
  /-- R213: Flips the sign of f32 elements. -/
  | vnegF32 (d : BitVec 7) (a : BitVec 7) (g : BitVec 4)
  /-- R213: Flips the sign of bf16 elements. -/
  | vnegBf16 (d : BitVec 7) (a : BitVec 7) (g : BitVec 4)
  /-- R213: Flips the sign of f16 elements. -/
  | vnegF16 (d : BitVec 7) (a : BitVec 7) (g : BitVec 4)
  /-- R214: Computes the correctly rounded f32 square root. -/
  | vsqrt (d : BitVec 7) (a : BitVec 7) (g : BitVec 4)
  /-- R214: Computes the correctly rounded f32 reciprocal. -/
  | vrcp (d : BitVec 7) (a : BitVec 7) (g : BitVec 4)
  /-- R214: Computes the correctly rounded f32 reciprocal square root. -/
  | vrsq (d : BitVec 7) (a : BitVec 7) (g : BitVec 4)
  /-- R214: Computes the correctly rounded f32 power of two. -/
  | vexp2 (d : BitVec 7) (a : BitVec 7) (g : BitVec 4)
  /-- R214: Computes the correctly rounded f32 base-2 logarithm. -/
  | vlog2 (d : BitVec 7) (a : BitVec 7) (g : BitVec 4)
  /-- R214: Computes the correctly rounded f32 hyperbolic tangent. -/
  | vtanh (d : BitVec 7) (a : BitVec 7) (g : BitVec 4)
  /-- R215: Adds i32 elements modulo 2^32. -/
  | viaddI32 (d : BitVec 7) (a : BitVec 7) (b : BitVec 7) (g : BitVec 4)
  /-- R215: Adds i16 elements modulo 2^16. -/
  | viaddI16 (d : BitVec 7) (a : BitVec 7) (b : BitVec 7) (g : BitVec 4)
  /-- R215: Adds i8 elements modulo 2^8. -/
  | viaddI8 (d : BitVec 7) (a : BitVec 7) (b : BitVec 7) (g : BitVec 4)
  /-- R215: Subtracts i32 elements modulo 2^32. -/
  | visubI32 (d : BitVec 7) (a : BitVec 7) (b : BitVec 7) (g : BitVec 4)
  /-- R215: Subtracts i16 elements modulo 2^16. -/
  | visubI16 (d : BitVec 7) (a : BitVec 7) (b : BitVec 7) (g : BitVec 4)
  /-- R215: Subtracts i8 elements modulo 2^8. -/
  | visubI8 (d : BitVec 7) (a : BitVec 7) (b : BitVec 7) (g : BitVec 4)
  /-- R215: Multiplies i32 elements, keeping the low half. -/
  | vimulI32 (d : BitVec 7) (a : BitVec 7) (b : BitVec 7) (g : BitVec 4)
  /-- R215: Multiplies i16 elements, keeping the low half. -/
  | vimulI16 (d : BitVec 7) (a : BitVec 7) (b : BitVec 7) (g : BitVec 4)
  /-- R215: Multiplies i8 elements, keeping the low half. -/
  | vimulI8 (d : BitVec 7) (a : BitVec 7) (b : BitVec 7) (g : BitVec 4)
  /-- R215: Takes the signed i32 minimum. -/
  | viminI32 (d : BitVec 7) (a : BitVec 7) (b : BitVec 7) (g : BitVec 4)
  /-- R215: Takes the signed i16 minimum. -/
  | viminI16 (d : BitVec 7) (a : BitVec 7) (b : BitVec 7) (g : BitVec 4)
  /-- R215: Takes the signed i8 minimum. -/
  | viminI8 (d : BitVec 7) (a : BitVec 7) (b : BitVec 7) (g : BitVec 4)
  /-- R215: Takes the signed i32 maximum. -/
  | vimaxI32 (d : BitVec 7) (a : BitVec 7) (b : BitVec 7) (g : BitVec 4)
  /-- R215: Takes the signed i16 maximum. -/
  | vimaxI16 (d : BitVec 7) (a : BitVec 7) (b : BitVec 7) (g : BitVec 4)
  /-- R215: Takes the signed i8 maximum. -/
  | vimaxI8 (d : BitVec 7) (a : BitVec 7) (b : BitVec 7) (g : BitVec 4)
  /-- R215: Adds i32 elements with saturation. -/
  | viaddsI32 (d : BitVec 7) (a : BitVec 7) (b : BitVec 7) (g : BitVec 4)
  /-- R215: Adds i16 elements with saturation. -/
  | viaddsI16 (d : BitVec 7) (a : BitVec 7) (b : BitVec 7) (g : BitVec 4)
  /-- R215: Adds i8 elements with saturation. -/
  | viaddsI8 (d : BitVec 7) (a : BitVec 7) (b : BitVec 7) (g : BitVec 4)
  /-- R215: Bitwise AND over all 512 bytes. -/
  | vand (d : BitVec 7) (a : BitVec 7) (b : BitVec 7) (g : BitVec 4)
  /-- R215: Bitwise OR over all 512 bytes. -/
  | vor (d : BitVec 7) (a : BitVec 7) (b : BitVec 7) (g : BitVec 4)
  /-- R215: Bitwise XOR over all 512 bytes. -/
  | vxor (d : BitVec 7) (a : BitVec 7) (b : BitVec 7) (g : BitVec 4)
  /-- R215: Shifts each i32 lane left by the count in vb. -/
  | vsll (d : BitVec 7) (a : BitVec 7) (b : BitVec 7) (g : BitVec 4)
  /-- R215: Shifts each i32 lane logically right by the count in vb. -/
  | vsrl (d : BitVec 7) (a : BitVec 7) (b : BitVec 7) (g : BitVec 4)
  /-- R215: Shifts each i32 lane arithmetically right by the count in vb. -/
  | vsra (d : BitVec 7) (a : BitVec 7) (b : BitVec 7) (g : BitVec 4)
  /-- R216: Sets mask bits where f32 lanes are equal. -/
  | vcmpeqF32 (k : BitVec 3) (a : BitVec 7) (b : BitVec 7) (g : BitVec 4)
  /-- R216: Sets mask bits where i32 lanes are equal. -/
  | vcmpeqI32 (k : BitVec 3) (a : BitVec 7) (b : BitVec 7) (g : BitVec 4)
  /-- R216: Sets mask bits where f32 va < vb. -/
  | vcmpltF32 (k : BitVec 3) (a : BitVec 7) (b : BitVec 7) (g : BitVec 4)
  /-- R216: Sets mask bits where signed i32 va < vb. -/
  | vcmpltI32 (k : BitVec 3) (a : BitVec 7) (b : BitVec 7) (g : BitVec 4)
  /-- R216: Sets mask bits where f32 va ≤ vb. -/
  | vcmpleF32 (k : BitVec 3) (a : BitVec 7) (b : BitVec 7) (g : BitVec 4)
  /-- R216: Sets mask bits where signed i32 va ≤ vb. -/
  | vcmpleI32 (k : BitVec 3) (a : BitVec 7) (b : BitVec 7) (g : BitVec 4)
  /-- R217: Converts each f32 lane to bf16. -/
  | vcvtBf16F32 (d : BitVec 7) (a : BitVec 7) (g : BitVec 4)
  /-- R217: Converts each f32 lane to f16. -/
  | vcvtF16F32 (d : BitVec 7) (a : BitVec 7) (g : BitVec 4)
  /-- R217: Converts each bf16 lane exactly to f32. -/
  | vcvtF32Bf16 (d : BitVec 7) (a : BitVec 7) (g : BitVec 4)
  /-- R217: Converts each f16 lane exactly to f32. -/
  | vcvtF32F16 (d : BitVec 7) (a : BitVec 7) (g : BitVec 4)
  /-- R217: Converts each f32 lane to FP8A with counted saturation. -/
  | vcvtFp8aF32 (d : BitVec 7) (a : BitVec 7) (g : BitVec 4)
  /-- R217: Converts each f32 lane to FP8B. -/
  | vcvtFp8bF32 (d : BitVec 7) (a : BitVec 7) (g : BitVec 4)
  /-- R217: Converts each FP8A lane exactly to f32. -/
  | vcvtF32Fp8a (d : BitVec 7) (a : BitVec 7) (g : BitVec 4)
  /-- R217: Converts each FP8B lane exactly to f32. -/
  | vcvtF32Fp8b (d : BitVec 7) (a : BitVec 7) (g : BitVec 4)
  /-- R217: Converts each f32 lane to i32 under RNE or RZ. -/
  | vcvtI32F32 (d : BitVec 7) (a : BitVec 7) (g : BitVec 4)
  /-- R217: Converts each i32 lane to f32 under the run's mode. -/
  | vcvtF32I32 (d : BitVec 7) (a : BitVec 7) (g : BitVec 4)
  /-- R217: Encodes each f32 lane as a one-element FP4X block. -/
  | vcvtFp4xF32 (d : BitVec 7) (a : BitVec 7) (g : BitVec 4)
  /-- R217: Decodes each one-element FP4X block lane to f32. -/
  | vcvtF32Fp4x (d : BitVec 7) (a : BitVec 7) (g : BitVec 4)
  /-- R218: Sums the f32 lanes by the NP3 tree. -/
  | vrsumF32 (d : BitVec 7) (a : BitVec 7) (g : BitVec 4)
  /-- R218: Reduces f32 lanes to their maximum. -/
  | vrmax (d : BitVec 7) (a : BitVec 7) (g : BitVec 4)
  /-- R218: Reduces f32 lanes to their minimum. -/
  | vrmin (d : BitVec 7) (a : BitVec 7) (g : BitVec 4)
  /-- R218: Sums i32 lanes modulo 2^32. -/
  | vrsumI32 (d : BitVec 7) (a : BitVec 7) (g : BitVec 4)
  /-- R219: Permutes lanes of va by indices in vb. -/
  | vperm (d : BitVec 7) (a : BitVec 7) (b : BitVec 7) (g : BitVec 4)
  /-- R219: Rotates lanes of va by the count in vb lane 0. -/
  | vrot (d : BitVec 7) (a : BitVec 7) (b : BitVec 7) (g : BitVec 4)
  /-- R219: Broadcasts one literal lane of va. -/
  | vbcast (d : BitVec 7) (a : BitVec 7) (l : BitVec 7) (g : BitVec 4)
  /-- R220: Interleaves the low halves of va and vb into lanes. -/
  | vpack (d : BitVec 7) (a : BitVec 7) (b : BitVec 7) (g : BitVec 4)
  /-- R220: Zero-extends the low half of each lane. -/
  | vunpkl (d : BitVec 7) (a : BitVec 7) (g : BitVec 4)
  /-- R220: Zero-extends the high half of each lane. -/
  | vunpkh (d : BitVec 7) (a : BitVec 7) (g : BitVec 4)
  /-- R221: Waits for and takes the head of a data queue into vd. -/
  | vpop (d : BitVec 7) (q : BitVec 2) (g : BitVec 3)
  /-- R221: Waits for room and appends va to a store-side data queue. -/
  | vpush (q : BitVec 1) (a : BitVec 7) (g : BitVec 3)
  /-- R222: Reads a tile row into vd, verifying check words, and steps the index register. -/
  | vtr (d : BitVec 7) (s : BitVec 3) (x : BitVec 3) (p : BitVec 3) (g : BitVec 4)
  /-- R222: Writes a vector to a tile row with check words and steps the index register. -/
  | vtw (d : BitVec 7) (s : BitVec 3) (x : BitVec 3) (p : BitVec 3) (g : BitVec 4)
  /-- R222: Reads an accumulator row into vd and steps the index register. -/
  | var (d : BitVec 7) (s : BitVec 2) (x : BitVec 3) (p : BitVec 3) (g : BitVec 4)
  /-- R222: Writes a vector to an accumulator row and steps the index register. -/
  | vaw (d : BitVec 7) (s : BitVec 2) (x : BitVec 3) (p : BitVec 3) (g : BitVec 4)
  /-- R223: Sets an index register to a signed immediate. -/
  | vixs (x : BitVec 3) (i : BitVec 16)
  /-- R223: Adds a signed immediate to an index register. -/
  | vixa (x : BitVec 3) (i : BitVec 16)
  /-- R223: Writes a vector to a spill vector, bounded by SPLIM. -/
  | vspl (d : BitVec 7) (v : BitVec 4)
  /-- R223: Reads a spill vector into a register, bounded by SPLIM. -/
  | vfil (d : BitVec 7) (v : BitVec 4)
  /-- R224: Writes a BF16 immediate extended to f32 to every element. -/
  | vmoviF32 (d : BitVec 7) (i : BitVec 16)
  /-- R224: Writes a BF16 immediate to every element. -/
  | vmoviBf16 (d : BitVec 7) (i : BitVec 16)
  /-- R224: Writes a BF16 immediate rounded to f16 to every element. -/
  | vmoviF16 (d : BitVec 7) (i : BitVec 16)
  /-- R224: Writes a sign-extended integer immediate to every i32 element. -/
  | vmoviI32 (d : BitVec 7) (i : BitVec 16)
  /-- R224: Writes an integer immediate to every i16 element. -/
  | vmoviI16 (d : BitVec 7) (i : BitVec 16)
  /-- R224: Writes the low 8 bits of the immediate to every i8 element. -/
  | vmoviI8 (d : BitVec 7) (i : BitVec 16)
  /-- R216: ANDs two lane masks. -/
  | kand (k : BitVec 3) (m : BitVec 3) (n : BitVec 3) (g : BitVec 4)
  /-- R216: ORs two lane masks. -/
  | kor (k : BitVec 3) (m : BitVec 3) (n : BitVec 3) (g : BitVec 4)
  /-- R216: Complements a lane mask. -/
  | knot (k : BitVec 3) (m : BitVec 3) (g : BitVec 4)
  /-- R216: Sets a lane mask where lanes of va are non-zero. -/
  | kmov (k : BitVec 3) (a : BitVec 7) (g : BitVec 4)
  /-- R170: Fetches stream words through TROOT, stalling and requesting the policy core on a missing page. -/
  | instructionFetch (key : Nat)
  /-- R126: An engine starts a ready command once its predecessors retired and earlier stores performed. -/
  | commandStart (uid : Nat) (units : Nat)
  /-- R128: A command whose writes have performed retires, pushing tokens, posting events and writing rd. -/
  | commandRetire (uid : Nat)
  /-- R156: A queued load performs at its home, verifying check words and writing rd or a data-queue entry. -/
  | loadPerform (key : Nat)
  /-- R156: A weak store at the store-queue head is window-checked and performs at its home. -/
  | storePerform (key : Nat)
  /-- R85: A background walk completes, refilling a TLB and setting accessed or dirty by atomic OR. -/
  | pageWalk (key : Nat) (va : BitVec 64) (write : Bool)
  /-- R89: The policy core's retry answer resumes held commands from the stopped byte. -/
  | retry (req : Nat)
  /-- R89: The policy core's decline answer ends the held command with a fault record. -/
  | decline (req : Nat)
  /-- R90: The policy core drops matching TLB entries module-wide and waits for translated accesses to perform. -/
  | shootdown (asid : BitVec 12) (lo : BitVec 64) (hi : BitVec 64)
  /-- R134: A waiting CPM start record is accepted into the target's handler queue when room frees. -/
  | handlerQueueAccept (core : Nat)
  /-- R135: A dormant handler slot takes the oldest start record and starts its H sequencer. -/
  | handlerStart (core : Nat)
  /-- R140: A reduction contribution arrives at its home and is applied, held or refused. -/
  | cprArrival (uid : Nat)
  /-- R140: A held contribution is applied when the table cursor reaches its slot, closing the round at the end. -/
  | cprAdmit (core : Nat)
  /-- R140: A refused contribution is sent again after 64 cycles. -/
  | cprRefusedRetry (uid : Nat)
  /-- R142: When every rank has contributed, switches merge by the canonical tree and the home performs the result. -/
  | roundClose (win : Nat)
  /-- R381: A fabric read packet is received and served at its home. -/
  | adoshRead (src : BitVec 8) (pa : BitVec 52) (lines : Nat)
  /-- R381: A fabric write packet is received, verified and performed at its home. -/
  | adoshWrite (src : BitVec 8) (pa : BitVec 52) (data : List FlitLine)
  /-- R381: A fabric read response arrives with lines verified at ingress. -/
  | adoshReadResponse (src : BitVec 8) (pa : BitVec 52) (data : List FlitLine)
  /-- R381: A fabric write acknowledgement arrives, completing the write's performance. -/
  | adoshWriteAcknowledgement (src : BitVec 8) (pa : BitVec 52)
  /-- R142: A reduction contribution packet reaches a switch for window merging. -/
  | adoshReductionContribution (src : BitVec 8) (win : Nat) (pa : BitVec 52) (data : List (BitVec 64))
  /-- R343: A stop notice ends a graph's replay at a core, and the rest of the graph is rebuilt for the dispatcher. -/
  | stopNotice (shape : BitVec 128) (ver : BitVec 32) (task : Nat) (gid : BitVec 10)
  /-- R381: A trace fetch packet from a gang peer is served. -/
  | traceFetch (src : BitVec 8) (shape : BitVec 128)
  /-- R107: The octant reclaimer takes a pending entry, frees it or returns it to live, and cascades child decrements. -/
  | reclaimer (octant : Nat)
  /-- R117: After two heartbeat periods without a free line the waiting CA command ends with status 6. -/
  | caPoolWaitTimeout (uid : Nat)
  /-- R321: The dispatcher examines its queues and launches, reserves or pre-empts for the first placeable record. -/
  | dispatchDecision (octant : Nat)
  /-- R325: A selected record's TCB is read, slot state written, streams primed and started. -/
  | taskLaunch (octant : Nat)
  /-- R366: A checkpointed task is restored from its save area and its commands and sequencers restarted. -/
  | taskResume (octant : Nat)
  /-- R320: Each 1 ms of waiting moves a ready record up one queue until its ceiling. -/
  | aging (octant : Nat) (tcb : BitVec 64)
  /-- R327: As places free, the dispatcher takes records back from overflow rings. -/
  | ringRefill (octant : Nat) (rcb : BitVec 64)
  /-- R328: A ring page unanswered for two heartbeat periods faults the region. -/
  | overflowRingUnmapped (octant : Nat) (rcb : BitVec 64)
  /-- R329: A SPAWN unretired for 50 us makes its task eligible for checkpoint pre-emption. -/
  | spawnStallTimeout (uid : Nat)
  /-- R360: A drained and stopped task's state is saved and its slot and engine grants returned. -/
  | checkpoint (slot : Nat) (reason : BitVec 8)
  /-- R367: At the end of its quantum a resident team is swapped out for the longest-waiting team. -/
  | teamQuantumExpiry (team : BitVec 32)
  /-- R352: A faulted task's other units stop, its queues drain and it is saved, then its region policy applies. -/
  | faultStop (slot : Nat)
  /-- R311: After FWR the module clears each waiter's link and decrements its counter. -/
  | futureWaiterDecrement
  /-- R191: Each HBPER period the core's timer posts one to slot 5's e15. -/
  | heartbeatTimer (core : Nat)
  /-- R368: Two missed beats make the policy core halt and capture the core. -/
  | heartbeatLoss (core : Nat)
  /-- R368: A task slot not saved within a further 2 × HBPER is faulted with code 15 and no save area. -/
  | captureCheckpointTimeout (slot : Nat)
  /-- R98: The patrol scrub visits a DRAM line, writing back corrections and reporting uncorrectable errors. -/
  | patrolScrub (line : BitVec 52) (found : BitVec 2)
  /-- R340: A replay sequencer fetches trace lines by name, ending the replay on an absent or mismatched line. -/
  | replayTraceFetch (graph : BitVec 32)
  /-- R340: A task start record launches its task once its semaphore waits are met and its slot is free. -/
  | replayTaskStart (core : Nat)
  /-- R340: A replay semaphore post is delivered to the target core's counter. -/
  | semaphorePost (core : Nat) (sem : Nat)
  /-- R340: A replay sequencer injects the next command record of a stream into its engine. -/
  | commandInjection (core : Nat) (stream : Nat)
  /-- R339: After a recorded graph's last exit the staged records are interned and entered as version 1. -/
  | traceIntern (graph : BitVec 32)
  /-- R345: The policy core rewrites a trace with hoisted copies or moved tasks as a new version. -/
  | refiner (shape : BitVec 128)
  /-- R346: A gang member fetches rank 0's trace by CAWALK, interns it and enters it: rank 0's directory entry, and the lines
  of the tree by name, as its responses bring them. -/
  | gangTraceFetch (shape : BitVec 128) (entry : List (BitVec 8)) (lines : List (BitVec 128 × List (BitVec 8)))
  /-- R377: A packet core takes a submission record, checks it, arms its TCBs and chooses the path. -/
  | graphSubmission
  /-- R378: When every task is done or faulted the completion record is written and the interrupt sent. -/
  | graphCompletion (graph : BitVec 32)
  /-- R373: A host write raises the submission ring tail or flags an out-of-range value. -/
  | wake (tail : BitVec 64)
  /-- R373: A host write of the ring base takes effect only when the ring is drained. -/
  | sqbaseWrite (val : BitVec 64)
  /-- R373: A host write of the ring size takes effect only when the ring is drained. -/
  | sqsizeWrite (val : BitVec 64)
  /-- R374: A doorbell write while a mailbox command runs only sets MBSTAT[1]. -/
  | mbdoorWhileBusy
  /-- R372: A host write to a BAR0 register without behaviour of its own updates it under its access code. -/
  | bar0RegisterWrite (off : Nat) (val : BitVec 64)
  /-- R379: Checks the configuration record and configures pool, directory, capture area and slots 4 and 5. -/
  | config
  /-- R374: Copies host bytes into module memory with check words made at the hub. -/
  | load
  /-- R380: Gives the module its rank and rank list in a gang. -/
  | gang
  /-- R382: Sets or clears a reduction window, ending unretired CPRs to a changed window. -/
  | redwin
  /-- R109: Waits until no CA command or trace is held, then frees every pool line and clears the index. -/
  | poolrst
  /-- R374: Releases a region halted under policy 0. -/
  | release
  /-- R354: Resumes a held task from its save area. -/
  | holdendResume
  /-- R354: Ends a held task with the effects of policy 2. -/
  | holdendEnd
  /-- R385: Verifies and applies a hot patch to one function table entry. -/
  | patch
  /-- R386: Writes, verifies and starts a new firmware image through a handover structure. -/
  | update
  /-- R386: Without a first heartbeat within 500 ms the old image slot is restarted. -/
  | updateRollback
  /-- R387: An SPDM challenge over DOE is answered with a signed response or UnspecifiedError. -/
  | challenge
  /-- R387: An SPDM measurement request over DOE returns the measurement indices. -/
  | getMeasurements (index : BitVec 8) (signed : Bool)
  /-- R388: Trains links and DRAM, zero-fills memories with check words and starts the firmware images. -/
  | moduleReset (octants : BitVec 8) (ports : BitVec 18) (host : Bool)
  /-- R333: The host link trains or goes down, updating HEALTH. -/
  | hostLinkStateChange (up : Bool)
  /-- R333: An Adosh port trains or goes down, updating HEALTH. -/
  | adoshPortStateChange (port : Nat) (up : Bool)
  /-- R389: A DRAM stack reaching 85 °C switches to all-bank refresh. -/
  | highTemperaturePoint (octant : Nat)
  /-- R389: A stack at 95 °C throttles its octant until below 90 °C. -/
  | thermalThrottle (octant : Nat)
  /-- R389: A stack at 105 °C halts its octant and sends an AER error to the host. -/
  | thermalHalt (octant : Nat)
  /-- R389: The power controller swallows pulses per octant to hold 7.2 kW averaged over 10 ms. -/
  | powerLimitThrottle (octant : Nat) (ratio : BitVec 16)
  /-- R390: Flow below 12 L/min lowers the module power limit. -/
  | coolantFlowShortfall (flow : Nat)
  /-- R269: A write to THA faults while handles are in use, else makes the next thunk command clear the arena header. -/
  | thaWrite (val : BitVec 64)
  /-- R277: Setting MICTL.stop requests MITER to stop at its next boundary. -/
  | mictlWrite (val : BitVec 64)
  /-- R199: A write to the index registers waits until no VRUN of the slot is in flight. -/
  | ixloIxhiWrite (high : Bool) (val : BitVec 64)
  /-- R68: A write to SEED affects only instructions and commands issued after it. -/
  | seedWrite (val : BitVec 64)
  /-- R207: When the current run has been unable to issue for 16 cycles waiting on a queue, the vector engine chooses again among started runs. -/
  | vectorRunSwitch (core : Nat)
  /-- R339: When a trace intern or gang trace fetch finds no free pool line within two heartbeat periods, the staged records are discarded and the entry returns to empty. -/
  | internPoolWaitTimeout (graph : BitVec 32)
  /-- R385: A hot patch whose listed functions are still active after 10 s is refused with result 6. -/
  | patchWaitTimeout
  /-- R386: The new image's first heartbeat reaches the security block's watchdog within 500 ms and the full update completes. -/
  | newImageFirstHeartbeat
  /-- R389: A throttled octant's DRAM stack falls below 90 °C and throttling of that octant ends. -/
  | thermalThrottleEnd (octant : Nat)
  /-- R374: A doorbell write while idle with an unknown command code or bad operand writes result 1. -/
  | mbdoorUnknownCode
  deriving DecidableEq, Repr

end Sys2Proof
end

