-- ==== Sys2Proof/WellFormed.lean ====
section
/-! DEFINITION. Which instruction terms are well formed: the reserved values of a field that its width admits
(R32, R33, R39 to R43, R45 checks 2 and 4). A term that fails is a reserved encoding. -/

namespace Sys2Proof

/-- The control register numbers that R187, R145, R197, R248, R271, R333 and R370 assign. -/
def csrAssigned (n : Nat) : Bool :=
  decide (n ≤ 0x009) || (decide (0x010 ≤ n) && decide (n ≤ 0x028)) || (decide (0x030 ≤ n) && decide (n ≤ 0x037)) ||
  (decide (0x040 ≤ n) && decide (n ≤ 0x049)) || (decide (0x050 ≤ n) && decide (n ≤ 0x054)) ||
  (decide (0x058 ≤ n) && decide (n ≤ 0x05B)) || (decide (0x060 ≤ n) && decide (n ≤ 0x064)) || decide (n = 0x06C) ||
  (decide (0x070 ≤ n) && decide (n ≤ 0x074)) || (decide (0x080 ≤ n) && decide (n ≤ 0x085))

/-- The configuration register numbers that R229 assigns to MCFG. -/
def mcfgAssigned (n : Nat) : Bool :=
  (decide (n < 0x030) && decide (n % 8 < 6)) || (decide (0x030 ≤ n) && decide (n ≤ 0x038)) ||
  (decide (0x040 ≤ n) && decide (n ≤ 0x047))

/-- The checks of R32 and R33 on an extension word: `np` is the list of accepted profiles, `copy` says that the
member belongs to the CP family or is CPR, which alone name a copy queue. -/
def Ext.wf (x : Ext) (np : List Nat) (copy : Bool) : Bool :=
  np.contains x.np.toNat && (decide (x.post.toNat = 1) || decide (x.ev.toNat = 0)) &&
  (if copy then decide (x.q.toNat < 4) else decide (x.q.toNat = 0))

/-- Well-formed instructions: no field holds a value its rule reserves. Steps of the module carry no encoding, so
every one of them is well formed. -/
def Instr.wf : Instr → Bool
  | .add _ _ _ _ => true
  | .sub _ _ _ _ => true
  | .and _ _ _ _ => true
  | .or _ _ _ _ => true
  | .xor _ _ _ _ => true
  | .andn _ _ _ _ => true
  | .orn _ _ _ _ => true
  | .sll _ _ _ _ => true
  | .srl _ _ _ _ => true
  | .sra _ _ _ _ => true
  | .ror _ _ _ _ => true
  | .slt _ _ _ _ => true
  | .sltu _ _ _ _ => true
  | .min _ _ _ _ => true
  | .max _ _ _ _ => true
  | .minu _ _ _ _ => true
  | .maxu _ _ _ _ => true
  | .mul _ _ _ _ => true
  | .mulh _ _ _ _ => true
  | .mulhu _ _ _ _ => true
  | .div _ _ _ _ => true
  | .divu _ _ _ _ => true
  | .rem _ _ _ _ => true
  | .remu _ _ _ _ => true
  | .addw _ _ _ _ => true
  | .subw _ _ _ _ => true
  | .clz _ _ _ => true
  | .ctz _ _ _ => true
  | .popc _ _ _ => true
  | .sextw _ _ _ => true
  | .zextw _ _ _ => true
  | .pack _ _ _ _ => true
  | .sh1add _ _ _ _ => true
  | .sh2add _ _ _ _ => true
  | .sh3add _ _ _ _ => true
  | .addi _ _ _ _ => true
  | .andi _ _ _ _ => true
  | .ori _ _ _ _ => true
  | .xori _ _ _ _ => true
  | .slli _ _ _ _ => true
  | .srli _ _ _ _ => true
  | .srai _ _ _ _ => true
  | .rori _ _ _ _ => true
  | .slti _ _ _ _ => true
  | .sltiu _ _ _ _ => true
  | .lui _ _ => true
  | .adpc _ _ => true
  | .ld _ _ _ _ _ => true
  | .ldu _ _ _ _ _ => true
  | .st _ _ _ _ _ => true
  | .sts _ _ _ _ _ => true
  | .ldsp _ _ _ => true
  | .stsp _ _ _ => true
  | .amoadd _ _ _ _ _ _ => true
  | .amoand _ _ _ _ _ _ => true
  | .amoor _ _ _ _ _ _ => true
  | .amoxor _ _ _ _ _ _ => true
  | .amomin _ _ _ _ _ _ => true
  | .amomax _ _ _ _ _ _ => true
  | .amominu _ _ _ _ _ _ => true
  | .amomaxu _ _ _ _ _ _ => true
  | .amoswap _ _ _ _ _ _ => true
  | .amocas _ _ _ _ _ _ => true
  | .amofadd _ _ _ _ _ => true
  | .fence s k _ => decide (s.toNat ≠ 7) && decide (k.toNat ≠ 0)
  | .mark _ => true
  | .beq _ _ _ => true
  | .bne _ _ _ => true
  | .blt _ _ _ => true
  | .bge _ _ _ => true
  | .bltu _ _ _ => true
  | .bgeu _ _ _ => true
  | .bcqs _ _ => true
  | .bcqc _ _ => true
  | .bcqsK _ _ => true
  | .bcqcK _ _ => true
  | .jal _ _ => true
  | .jalr _ _ _ _ => true
  | .cqp _ _ _ => true
  | .evpost n _ _ => decide (n.toNat ≠ 0)
  | .evwait n _ _ => decide (n.toNat ≠ 0)
  | .evclr _ _ _ => true
  | .wfe _ => true
  | .csrr _ n _ => csrAssigned n.toNat
  | .csrw _ _ n _ => csrAssigned n.toNat
  | .csrs _ _ n _ => csrAssigned n.toNat
  | .csrc _ _ n _ => csrAssigned n.toNat
  | .nop _ => true
  | .trap _ _ => true
  | .hbeat _ => true
  | .yield _ => true
  | .exit _ _ => true
  | .cwait _ _ => true
  | .fadd _ _ _ r _ => decide (r.toNat ≠ 3)
  | .fsub _ _ _ r _ => decide (r.toNat ≠ 3)
  | .fmul _ _ _ r _ => decide (r.toNat ≠ 3)
  | .fdiv _ _ _ r _ => decide (r.toNat ≠ 3)
  | .fsqrt _ _ r _ => decide (r.toNat ≠ 3)
  | .fmac _ _ _ r _ => decide (r.toNat ≠ 3)
  | .fmin _ _ _ _ => true
  | .fmax _ _ _ _ => true
  | .feq _ _ _ _ => true
  | .flt _ _ _ _ => true
  | .fle _ _ _ _ => true
  | .fitof _ _ r _ => decide (r.toNat ≠ 3)
  | .fftoi _ _ _ _ => true
  | .fli _ _ _ => true
  | .tcfg _ _ _ => true
  | .mcfg _ n _ => mcfgAssigned n.toNat
  | .barr _ _ _ => true
  | .bwait _ _ _ _ => true
  | .frd _ _ _ => true
  | .fwr _ _ _ => true
  | .depdec _ _ => true
  | .trig _ => true
  | .shapew _ _ _ => true
  | .gshape _ i _ => decide (i.toNat ≠ 0x3FF)
  | .gbr _ i _ => decide (i.toNat ≠ 0x3FF)
  | .ghlth _ i _ => decide (i.toNat ≠ 0x3FF)
  | .vld _ _ _ _ => true
  | .vst _ _ _ _ => true
  | .cpy _ _ _ _ _ x => x.wf [0] true
  | .cpy2 _ _ _ _ _ x => x.wf [0] true
  | .cpy3 _ _ _ _ _ x => x.wf [0] true
  | .cpg _ _ _ _ _ x => x.wf [0] true
  | .cps _ _ _ _ _ x => x.wf [0] true
  | .cpf _ _ _ _ x => x.wf [0] true
  | .cpm _ _ _ _ x => x.wf [0] true
  | .cpq _ _ _ _ x => x.wf [0] true
  | .cprFaddF32 _ _ _ _ x => x.wf [4] true
  | .cprAddI32 _ _ _ _ x => x.wf [0] true
  | .cprAddI64 _ _ _ _ x => x.wf [0] true
  | .cprMaxF32 _ _ _ _ x => x.wf [4] true
  | .cprMinF32 _ _ _ _ x => x.wf [4] true
  | .cprMaxI32 _ _ _ _ x => x.wf [0] true
  | .cprMinI32 _ _ _ _ x => x.wf [0] true
  | .vrun _ _ _ x => x.wf [3] false
  | .tbload _ _ _ _ x => x.wf [0] false
  | .mgo x => x.wf [0, 1, 2] false
  | .tld _ _ _ _ x => x.wf [0] false
  | .tst _ _ _ _ x => x.wf [0] false
  | .afill _ _ _ _ x => x.wf [0] false
  | .adrn _ _ _ _ x => x.wf [0] false
  | .tbind _ _ _ _ x => x.wf [0] false
  | .tmul _ _ _ x => x.wf [0, 1, 2] false
  | .tmac _ _ _ x => x.wf [0, 1, 2] false
  | .tadd _ _ _ x => x.wf [0] false
  | .tsub _ _ _ x => x.wf [0] false
  | .thad _ _ _ x => x.wf [0] false
  | .tscl _ _ _ _ x => x.wf [0] false
  | .ttrn _ _ _ x => x.wf [0] false
  | .tcvt _ _ _ x => x.wf [0] false
  | .tact _ _ _ _ x => x.wf [0] false
  | .tstore _ _ _ x => x.wf [0] false
  | .tforce _ x => x.wf [0] false
  | .tdrop _ x => x.wf [0] false
  | .miterPoly _ _ _ _ _ _ x => x.wf [0, 1] false
  | .miterNs _ _ _ _ _ _ x => x.wf [0, 1] false
  | .miterInv _ _ _ _ _ _ x => x.wf [0, 1] false
  | .caput _ _ _ x => x.wf [0] false
  | .canode _ _ _ x => x.wf [0] false
  | .cahash _ _ _ x => x.wf [0] false
  | .caget _ _ _ x => x.wf [0] false
  | .cawalk _ _ _ x => x.wf [0] false
  | .caref _ _ _ x => x.wf [0] false
  | .caswap _ _ _ _ x => x.wf [0] false
  | .caout _ _ _ x => x.wf [0] false
  | .capin _ _ x => x.wf [0] false
  | .spawn _ _ _ _ x => x.wf [0] false
  | .vnop => true
  | .vmov _ _ _ => true
  | .vsel _ _ _ _ => true
  | .vaddF32 _ _ _ _ => true
  | .vaddBf16 _ _ _ _ => true
  | .vaddF16 _ _ _ _ => true
  | .vsubF32 _ _ _ _ => true
  | .vsubBf16 _ _ _ _ => true
  | .vsubF16 _ _ _ _ => true
  | .vmulF32 _ _ _ _ => true
  | .vmulBf16 _ _ _ _ => true
  | .vmulF16 _ _ _ _ => true
  | .vfmaF32 _ _ _ _ => true
  | .vfmaBf16 _ _ _ _ => true
  | .vfmaF16 _ _ _ _ => true
  | .vfmsF32 _ _ _ _ => true
  | .vfmsBf16 _ _ _ _ => true
  | .vfmsF16 _ _ _ _ => true
  | .vminF32 _ _ _ _ => true
  | .vminBf16 _ _ _ _ => true
  | .vminF16 _ _ _ _ => true
  | .vmaxF32 _ _ _ _ => true
  | .vmaxBf16 _ _ _ _ => true
  | .vmaxF16 _ _ _ _ => true
  | .vabsF32 _ _ _ => true
  | .vabsBf16 _ _ _ => true
  | .vabsF16 _ _ _ => true
  | .vnegF32 _ _ _ => true
  | .vnegBf16 _ _ _ => true
  | .vnegF16 _ _ _ => true
  | .vsqrt _ _ _ => true
  | .vrcp _ _ _ => true
  | .vrsq _ _ _ => true
  | .vexp2 _ _ _ => true
  | .vlog2 _ _ _ => true
  | .vtanh _ _ _ => true
  | .viaddI32 _ _ _ _ => true
  | .viaddI16 _ _ _ _ => true
  | .viaddI8 _ _ _ _ => true
  | .visubI32 _ _ _ _ => true
  | .visubI16 _ _ _ _ => true
  | .visubI8 _ _ _ _ => true
  | .vimulI32 _ _ _ _ => true
  | .vimulI16 _ _ _ _ => true
  | .vimulI8 _ _ _ _ => true
  | .viminI32 _ _ _ _ => true
  | .viminI16 _ _ _ _ => true
  | .viminI8 _ _ _ _ => true
  | .vimaxI32 _ _ _ _ => true
  | .vimaxI16 _ _ _ _ => true
  | .vimaxI8 _ _ _ _ => true
  | .viaddsI32 _ _ _ _ => true
  | .viaddsI16 _ _ _ _ => true
  | .viaddsI8 _ _ _ _ => true
  | .vand _ _ _ _ => true
  | .vor _ _ _ _ => true
  | .vxor _ _ _ _ => true
  | .vsll _ _ _ _ => true
  | .vsrl _ _ _ _ => true
  | .vsra _ _ _ _ => true
  | .vcmpeqF32 _ _ _ _ => true
  | .vcmpeqI32 _ _ _ _ => true
  | .vcmpltF32 _ _ _ _ => true
  | .vcmpltI32 _ _ _ _ => true
  | .vcmpleF32 _ _ _ _ => true
  | .vcmpleI32 _ _ _ _ => true
  | .vcvtBf16F32 _ _ _ => true
  | .vcvtF16F32 _ _ _ => true
  | .vcvtF32Bf16 _ _ _ => true
  | .vcvtF32F16 _ _ _ => true
  | .vcvtFp8aF32 _ _ _ => true
  | .vcvtFp8bF32 _ _ _ => true
  | .vcvtF32Fp8a _ _ _ => true
  | .vcvtF32Fp8b _ _ _ => true
  | .vcvtI32F32 _ _ _ => true
  | .vcvtF32I32 _ _ _ => true
  | .vcvtFp4xF32 _ _ _ => true
  | .vcvtF32Fp4x _ _ _ => true
  | .vrsumF32 _ _ _ => true
  | .vrmax _ _ _ => true
  | .vrmin _ _ _ => true
  | .vrsumI32 _ _ _ => true
  | .vperm _ _ _ _ => true
  | .vrot _ _ _ _ => true
  | .vbcast _ _ _ _ => true
  | .vpack _ _ _ _ => true
  | .vunpkl _ _ _ => true
  | .vunpkh _ _ _ => true
  | .vpop _ _ _ => true
  | .vpush _ _ _ => true
  | .vtr _ _ _ _ _ => true
  | .vtw _ _ _ _ _ => true
  | .var _ _ _ _ _ => true
  | .vaw _ _ _ _ _ => true
  | .vixs _ _ => true
  | .vixa _ _ => true
  | .vspl _ _ => true
  | .vfil _ _ => true
  | .vmoviF32 _ _ => true
  | .vmoviBf16 _ _ => true
  | .vmoviF16 _ _ => true
  | .vmoviI32 _ _ => true
  | .vmoviI16 _ _ => true
  | .vmoviI8 _ _ => true
  | .kand _ _ _ _ => true
  | .kor _ _ _ _ => true
  | .knot _ _ _ => true
  | .kmov _ _ _ => true
  | .instructionFetch _ => true
  | .commandStart _ _ => true
  | .commandRetire _ => true
  | .loadPerform _ => true
  | .storePerform _ => true
  | .pageWalk _ _ _ => true
  | .retry _ => true
  | .decline _ => true
  | .shootdown _ _ _ => true
  | .handlerQueueAccept _ => true
  | .handlerStart _ => true
  | .cprArrival _ => true
  | .cprAdmit _ => true
  | .cprRefusedRetry _ => true
  | .roundClose _ => true
  | .adoshRead _ _ _ => true
  | .adoshWrite _ _ _ => true
  | .adoshReadResponse _ _ _ => true
  | .adoshWriteAcknowledgement _ _ => true
  | .adoshReductionContribution _ _ _ _ => true
  | .stopNotice _ _ _ _ => true
  | .traceFetch _ _ => true
  | .reclaimer _ => true
  | .caPoolWaitTimeout _ => true
  | .dispatchDecision _ => true
  | .taskLaunch _ => true
  | .taskResume _ => true
  | .aging _ _ => true
  | .ringRefill _ _ => true
  | .overflowRingUnmapped _ _ => true
  | .spawnStallTimeout _ => true
  | .checkpoint _ _ => true
  | .teamQuantumExpiry _ => true
  | .faultStop _ => true
  | .futureWaiterDecrement => true
  | .heartbeatTimer _ => true
  | .heartbeatLoss _ => true
  | .captureCheckpointTimeout _ => true
  | .patrolScrub _ _ => true
  | .replayTraceFetch _ => true
  | .replayTaskStart _ => true
  | .semaphorePost _ _ => true
  | .commandInjection _ _ => true
  | .traceIntern _ => true
  | .refiner _ => true
  | .gangTraceFetch _ _ _ => true
  | .graphSubmission => true
  | .graphCompletion _ => true
  | .wake _ => true
  | .sqbaseWrite _ => true
  | .sqsizeWrite _ => true
  | .mbdoorWhileBusy => true
  | .bar0RegisterWrite _ _ => true
  | .config => true
  | .load => true
  | .gang => true
  | .redwin => true
  | .poolrst => true
  | .release => true
  | .holdendResume => true
  | .holdendEnd => true
  | .patch => true
  | .update => true
  | .updateRollback => true
  | .challenge => true
  | .getMeasurements _ _ => true
  | .moduleReset _ _ _ => true
  | .hostLinkStateChange _ => true
  | .adoshPortStateChange _ _ => true
  | .highTemperaturePoint _ => true
  | .thermalThrottle _ => true
  | .thermalHalt _ => true
  | .powerLimitThrottle _ _ => true
  | .coolantFlowShortfall _ => true
  | .thaWrite _ => true
  | .mictlWrite _ => true
  | .ixloIxhiWrite _ _ => true
  | .seedWrite _ => true
  | .reservedEncoding _ => true
  | .reservedOp7 _ => true
  | .vectorRunSwitch _ => true
  | .internPoolWaitTimeout _ => true
  | .patchWaitTimeout => true
  | .newImageFirstHeartbeat => true
  | .thermalThrottleEnd _ => true
  | .mbdoorUnknownCode => true

end Sys2Proof
end

