-- ==== Sys2Proof/Decode.lean ====
section
/-! DEFINITION. The decoder of stream words (R24 to R45) and of micro-orders (R46 to R48), and the encoder beside it.
Each is read off the encoding tables of spec/02 and the chapters it names. Both decoders are total: a reserved
word is `reservedEncoding` or `reservedOp7`, the two rows of the opcode table that say what happens to it. -/

namespace Sys2Proof

/-- The extension word of a long instruction (R30). -/
def decodeExt (x : Nat) : Ext :=
  ⟨fld x 27 5, fld x 22 5, fld x 17 5, fld x 12 5, fld x 8 4, fld x 7 1, fld x 4 3, fld x 0 4⟩

/-- Words of major 0x00: ADD, SUB, AND, OR, XOR, ANDN, ORN, SLL, SRL, SRA, ROR, SLT, SLTU, MIN, MAX, MINU, MAXU, MUL, MULH, MULHU, DIV, DIVU, REM, REMU, ADDW, SUBW, CLZ, CTZ, POPC, SEXTW, ZEXTW, PACK, SH1ADD, SH2ADD, SH3ADD (R173, R34, R44). -/
def decodeMajor00 (w : Nat) : Instr :=
  match w / 2 ^ 4 % 2 ^ 7 with
  | 1 => .add (fld w 21 5) (fld w 16 5) (fld w 11 5) (fld w 0 4)
  | 2 => .sub (fld w 21 5) (fld w 16 5) (fld w 11 5) (fld w 0 4)
  | 3 => .and (fld w 21 5) (fld w 16 5) (fld w 11 5) (fld w 0 4)
  | 4 => .or (fld w 21 5) (fld w 16 5) (fld w 11 5) (fld w 0 4)
  | 5 => .xor (fld w 21 5) (fld w 16 5) (fld w 11 5) (fld w 0 4)
  | 6 => .andn (fld w 21 5) (fld w 16 5) (fld w 11 5) (fld w 0 4)
  | 7 => .orn (fld w 21 5) (fld w 16 5) (fld w 11 5) (fld w 0 4)
  | 8 => .sll (fld w 21 5) (fld w 16 5) (fld w 11 5) (fld w 0 4)
  | 9 => .srl (fld w 21 5) (fld w 16 5) (fld w 11 5) (fld w 0 4)
  | 10 => .sra (fld w 21 5) (fld w 16 5) (fld w 11 5) (fld w 0 4)
  | 11 => .ror (fld w 21 5) (fld w 16 5) (fld w 11 5) (fld w 0 4)
  | 12 => .slt (fld w 21 5) (fld w 16 5) (fld w 11 5) (fld w 0 4)
  | 13 => .sltu (fld w 21 5) (fld w 16 5) (fld w 11 5) (fld w 0 4)
  | 14 => .min (fld w 21 5) (fld w 16 5) (fld w 11 5) (fld w 0 4)
  | 15 => .max (fld w 21 5) (fld w 16 5) (fld w 11 5) (fld w 0 4)
  | 16 => .minu (fld w 21 5) (fld w 16 5) (fld w 11 5) (fld w 0 4)
  | 17 => .maxu (fld w 21 5) (fld w 16 5) (fld w 11 5) (fld w 0 4)
  | 18 => .mul (fld w 21 5) (fld w 16 5) (fld w 11 5) (fld w 0 4)
  | 19 => .mulh (fld w 21 5) (fld w 16 5) (fld w 11 5) (fld w 0 4)
  | 20 => .mulhu (fld w 21 5) (fld w 16 5) (fld w 11 5) (fld w 0 4)
  | 21 => .div (fld w 21 5) (fld w 16 5) (fld w 11 5) (fld w 0 4)
  | 22 => .divu (fld w 21 5) (fld w 16 5) (fld w 11 5) (fld w 0 4)
  | 23 => .rem (fld w 21 5) (fld w 16 5) (fld w 11 5) (fld w 0 4)
  | 24 => .remu (fld w 21 5) (fld w 16 5) (fld w 11 5) (fld w 0 4)
  | 25 => .addw (fld w 21 5) (fld w 16 5) (fld w 11 5) (fld w 0 4)
  | 26 => .subw (fld w 21 5) (fld w 16 5) (fld w 11 5) (fld w 0 4)
  | 27 => if w / 2 ^ 11 % 2 ^ 5 = 0 then .clz (fld w 21 5) (fld w 16 5) (fld w 0 4) else .reservedEncoding (BitVec.ofNat 32 w)
  | 28 => if w / 2 ^ 11 % 2 ^ 5 = 0 then .ctz (fld w 21 5) (fld w 16 5) (fld w 0 4) else .reservedEncoding (BitVec.ofNat 32 w)
  | 29 => if w / 2 ^ 11 % 2 ^ 5 = 0 then .popc (fld w 21 5) (fld w 16 5) (fld w 0 4) else .reservedEncoding (BitVec.ofNat 32 w)
  | 30 => if w / 2 ^ 11 % 2 ^ 5 = 0 then .sextw (fld w 21 5) (fld w 16 5) (fld w 0 4) else .reservedEncoding (BitVec.ofNat 32 w)
  | 31 => if w / 2 ^ 11 % 2 ^ 5 = 0 then .zextw (fld w 21 5) (fld w 16 5) (fld w 0 4) else .reservedEncoding (BitVec.ofNat 32 w)
  | 32 => .pack (fld w 21 5) (fld w 16 5) (fld w 11 5) (fld w 0 4)
  | 33 => .sh1add (fld w 21 5) (fld w 16 5) (fld w 11 5) (fld w 0 4)
  | 34 => .sh2add (fld w 21 5) (fld w 16 5) (fld w 11 5) (fld w 0 4)
  | 35 => .sh3add (fld w 21 5) (fld w 16 5) (fld w 11 5) (fld w 0 4)
  | _ => .reservedEncoding (BitVec.ofNat 32 w)

/-- Words of major 0x01: ADDI (R175, R34, R44). -/
def decodeMajor01 (w : Nat) : Instr :=
  .addi (fld w 21 5) (fld w 16 5) (fld w 4 12) (fld w 0 4)

/-- Words of major 0x02: ANDI (R175, R34, R44). -/
def decodeMajor02 (w : Nat) : Instr :=
  .andi (fld w 21 5) (fld w 16 5) (fld w 4 12) (fld w 0 4)

/-- Words of major 0x03: ORI (R175, R34, R44). -/
def decodeMajor03 (w : Nat) : Instr :=
  .ori (fld w 21 5) (fld w 16 5) (fld w 4 12) (fld w 0 4)

/-- Words of major 0x04: XORI (R175, R34, R44). -/
def decodeMajor04 (w : Nat) : Instr :=
  .xori (fld w 21 5) (fld w 16 5) (fld w 4 12) (fld w 0 4)

/-- Words of major 0x05: SLLI, SRLI, SRAI, RORI (R175, R34, R44). -/
def decodeMajor05 (w : Nat) : Instr :=
  match w / 2 ^ 14 % 2 ^ 2 with
  | 0 => if w / 2 ^ 10 % 2 ^ 4 = 0 then .slli (fld w 21 5) (fld w 16 5) (fld w 4 6) (fld w 0 4) else .reservedEncoding (BitVec.ofNat 32 w)
  | 1 => if w / 2 ^ 10 % 2 ^ 4 = 0 then .srli (fld w 21 5) (fld w 16 5) (fld w 4 6) (fld w 0 4) else .reservedEncoding (BitVec.ofNat 32 w)
  | 2 => if w / 2 ^ 10 % 2 ^ 4 = 0 then .srai (fld w 21 5) (fld w 16 5) (fld w 4 6) (fld w 0 4) else .reservedEncoding (BitVec.ofNat 32 w)
  | 3 => if w / 2 ^ 10 % 2 ^ 4 = 0 then .rori (fld w 21 5) (fld w 16 5) (fld w 4 6) (fld w 0 4) else .reservedEncoding (BitVec.ofNat 32 w)
  | _ => .reservedEncoding (BitVec.ofNat 32 w)

/-- Words of major 0x06: SLTI (R175, R34, R44). -/
def decodeMajor06 (w : Nat) : Instr :=
  .slti (fld w 21 5) (fld w 16 5) (fld w 4 12) (fld w 0 4)

/-- Words of major 0x07: SLTIU (R175, R34, R44). -/
def decodeMajor07 (w : Nat) : Instr :=
  .sltiu (fld w 21 5) (fld w 16 5) (fld w 4 12) (fld w 0 4)

/-- Words of major 0x08: LUI (R176, R34, R44). -/
def decodeMajor08 (w : Nat) : Instr :=
  .lui (fld w 21 5) (fld w 0 21)

/-- Words of major 0x09: ADPC (R176, R34, R44). -/
def decodeMajor09 (w : Nat) : Instr :=
  .adpc (fld w 21 5) (fld w 0 21)

/-- Words of major 0x0A: LD (R159, R34, R44). -/
def decodeMajor0A (w : Nat) : Instr :=
  .ld (fld w 21 5) (fld w 16 5) (fld w 14 2) (fld w 4 10) (fld w 0 4)

/-- Words of major 0x0B: LDU (R159, R34, R44). -/
def decodeMajor0B (w : Nat) : Instr :=
  .ldu (fld w 21 5) (fld w 16 5) (fld w 14 2) (fld w 4 10) (fld w 0 4)

/-- Words of major 0x0C: ST (R159, R34, R44). -/
def decodeMajor0C (w : Nat) : Instr :=
  .st (fld w 21 5) (fld w 16 5) (fld w 14 2) (fld w 4 10) (fld w 0 4)

/-- Words of major 0x0D: STS (R159, R34, R44). -/
def decodeMajor0D (w : Nat) : Instr :=
  .sts (fld w 21 5) (fld w 16 5) (fld w 14 2) (fld w 4 10) (fld w 0 4)

/-- Words of major 0x0E: LDSP (R161, R34, R44). -/
def decodeMajor0E (w : Nat) : Instr :=
  if w / 2 ^ 4 % 2 ^ 7 = 0 then .ldsp (fld w 21 5) (fld w 11 10) (fld w 0 4) else .reservedEncoding (BitVec.ofNat 32 w)

/-- Words of major 0x0F: STSP (R161, R34, R44). -/
def decodeMajor0F (w : Nat) : Instr :=
  if w / 2 ^ 4 % 2 ^ 7 = 0 then .stsp (fld w 21 5) (fld w 11 10) (fld w 0 4) else .reservedEncoding (BitVec.ofNat 32 w)

/-- Words of major 0x10: AMOADD, AMOAND, AMOOR, AMOXOR, AMOMIN, AMOMAX, AMOMINU, AMOMAXU, AMOSWAP, AMOCAS, AMOFADD (R289, R34, R44). -/
def decodeMajor10 (w : Nat) : Instr :=
  match w / 2 ^ 4 % 2 ^ 4 with
  | 1 => .amoadd (fld w 21 5) (fld w 16 5) (fld w 11 5) (fld w 9 2) (fld w 8 1) (fld w 0 4)
  | 2 => .amoand (fld w 21 5) (fld w 16 5) (fld w 11 5) (fld w 9 2) (fld w 8 1) (fld w 0 4)
  | 3 => .amoor (fld w 21 5) (fld w 16 5) (fld w 11 5) (fld w 9 2) (fld w 8 1) (fld w 0 4)
  | 4 => .amoxor (fld w 21 5) (fld w 16 5) (fld w 11 5) (fld w 9 2) (fld w 8 1) (fld w 0 4)
  | 5 => .amomin (fld w 21 5) (fld w 16 5) (fld w 11 5) (fld w 9 2) (fld w 8 1) (fld w 0 4)
  | 6 => .amomax (fld w 21 5) (fld w 16 5) (fld w 11 5) (fld w 9 2) (fld w 8 1) (fld w 0 4)
  | 7 => .amominu (fld w 21 5) (fld w 16 5) (fld w 11 5) (fld w 9 2) (fld w 8 1) (fld w 0 4)
  | 8 => .amomaxu (fld w 21 5) (fld w 16 5) (fld w 11 5) (fld w 9 2) (fld w 8 1) (fld w 0 4)
  | 9 => .amoswap (fld w 21 5) (fld w 16 5) (fld w 11 5) (fld w 9 2) (fld w 8 1) (fld w 0 4)
  | 10 => .amocas (fld w 21 5) (fld w 16 5) (fld w 11 5) (fld w 9 2) (fld w 8 1) (fld w 0 4)
  | 11 => if w / 2 ^ 8 % 2 ^ 1 = 1 then .amofadd (fld w 21 5) (fld w 16 5) (fld w 11 5) (fld w 9 2) (fld w 0 4) else .reservedEncoding (BitVec.ofNat 32 w)
  | _ => .reservedEncoding (BitVec.ofNat 32 w)

/-- Words of major 0x11: FENCE (R286, R34, R44). -/
def decodeMajor11 (w : Nat) : Instr :=
  if w / 2 ^ 4 % 2 ^ 4 = 0 ∧ w / 2 ^ 16 % 2 ^ 10 = 0 then .fence (fld w 13 3) (fld w 8 5) (fld w 0 4) else .reservedEncoding (BitVec.ofNat 32 w)

/-- Words of major 0x12: MARK (R163, R34, R44). -/
def decodeMajor12 (w : Nat) : Instr :=
  if w / 2 ^ 4 % 2 ^ 22 = 0 then .mark (fld w 0 4) else .reservedEncoding (BitVec.ofNat 32 w)

/-- Words of major 0x13: BEQ, BNE, BLT, BGE, BLTU, BGEU (R180, R34, R44). -/
def decodeMajor13 (w : Nat) : Instr :=
  match w / 2 ^ 13 % 2 ^ 3 with
  | 0 => .beq (fld w 21 5) (fld w 16 5) (fld w 0 13)
  | 1 => .bne (fld w 21 5) (fld w 16 5) (fld w 0 13)
  | 2 => .blt (fld w 21 5) (fld w 16 5) (fld w 0 13)
  | 3 => .bge (fld w 21 5) (fld w 16 5) (fld w 0 13)
  | 4 => .bltu (fld w 21 5) (fld w 16 5) (fld w 0 13)
  | 5 => .bgeu (fld w 21 5) (fld w 16 5) (fld w 0 13)
  | _ => .reservedEncoding (BitVec.ofNat 32 w)

/-- Words of major 0x14: BCQS, BCQC, BCQS_K, BCQC_K (R181, R34, R44). -/
def decodeMajor14 (w : Nat) : Instr :=
  match w / 2 ^ 13 % 2 ^ 3 with
  | 0 => if w / 2 ^ 16 % 2 ^ 5 = 0 ∧ w / 2 ^ 25 % 2 ^ 1 = 0 then .bcqs (fld w 21 4) (fld w 0 13) else .reservedEncoding (BitVec.ofNat 32 w)
  | 1 => if w / 2 ^ 16 % 2 ^ 5 = 0 ∧ w / 2 ^ 25 % 2 ^ 1 = 0 then .bcqc (fld w 21 4) (fld w 0 13) else .reservedEncoding (BitVec.ofNat 32 w)
  | 2 => if w / 2 ^ 16 % 2 ^ 5 = 0 ∧ w / 2 ^ 25 % 2 ^ 1 = 0 then .bcqsK (fld w 21 4) (fld w 0 13) else .reservedEncoding (BitVec.ofNat 32 w)
  | 3 => if w / 2 ^ 16 % 2 ^ 5 = 0 ∧ w / 2 ^ 25 % 2 ^ 1 = 0 then .bcqcK (fld w 21 4) (fld w 0 13) else .reservedEncoding (BitVec.ofNat 32 w)
  | _ => .reservedEncoding (BitVec.ofNat 32 w)

/-- Words of major 0x15: JAL (R182, R34, R44). -/
def decodeMajor15 (w : Nat) : Instr :=
  .jal (fld w 21 5) (fld w 0 21)

/-- Words of major 0x16: JALR (R182, R34, R44). -/
def decodeMajor16 (w : Nat) : Instr :=
  .jalr (fld w 21 5) (fld w 16 5) (fld w 4 12) (fld w 0 4)

/-- Words of major 0x17: CQP (R167, R34, R44). -/
def decodeMajor17 (w : Nat) : Instr :=
  if w / 2 ^ 21 % 2 ^ 5 = 0 then .cqp (fld w 16 5) (fld w 4 12) (fld w 0 4) else .reservedEncoding (BitVec.ofNat 32 w)

/-- Words of major 0x18: EVPOST, EVWAIT, EVCLR, WFE (R183, R34, R44). -/
def decodeMajor18 (w : Nat) : Instr :=
  match w / 2 ^ 14 % 2 ^ 2 with
  | 0 => if w / 2 ^ 16 % 2 ^ 10 = 0 then .evpost (fld w 8 6) (fld w 4 4) (fld w 0 4) else .reservedEncoding (BitVec.ofNat 32 w)
  | 1 => if w / 2 ^ 16 % 2 ^ 10 = 0 then .evwait (fld w 8 6) (fld w 4 4) (fld w 0 4) else .reservedEncoding (BitVec.ofNat 32 w)
  | 2 => if w / 2 ^ 8 % 2 ^ 6 = 0 ∧ w / 2 ^ 16 % 2 ^ 5 = 0 then .evclr (fld w 21 5) (fld w 4 4) (fld w 0 4) else .reservedEncoding (BitVec.ofNat 32 w)
  | 3 => if w / 2 ^ 4 % 2 ^ 10 = 0 ∧ w / 2 ^ 16 % 2 ^ 10 = 0 then .wfe (fld w 0 4) else .reservedEncoding (BitVec.ofNat 32 w)
  | _ => .reservedEncoding (BitVec.ofNat 32 w)

/-- Words of major 0x19: CSRR, CSRW, CSRS, CSRC (R186, R34, R44). -/
def decodeMajor19 (w : Nat) : Instr :=
  match w / 2 ^ 14 % 2 ^ 2 with
  | 0 => if w / 2 ^ 16 % 2 ^ 5 = 0 then .csrr (fld w 21 5) (fld w 4 10) (fld w 0 4) else .reservedEncoding (BitVec.ofNat 32 w)
  | 1 => .csrw (fld w 21 5) (fld w 16 5) (fld w 4 10) (fld w 0 4)
  | 2 => .csrs (fld w 21 5) (fld w 16 5) (fld w 4 10) (fld w 0 4)
  | 3 => .csrc (fld w 21 5) (fld w 16 5) (fld w 4 10) (fld w 0 4)
  | _ => .reservedEncoding (BitVec.ofNat 32 w)

/-- Words of major 0x1A: NOP, TRAP, HBEAT, YIELD, EXIT, CWAIT (R189, R34, R44). -/
def decodeMajor1A (w : Nat) : Instr :=
  match w / 2 ^ 12 % 2 ^ 4 with
  | 0 => if w / 2 ^ 4 % 2 ^ 8 = 0 ∧ w / 2 ^ 16 % 2 ^ 10 = 0 then .nop (fld w 0 4) else .reservedEncoding (BitVec.ofNat 32 w)
  | 1 => if w / 2 ^ 16 % 2 ^ 10 = 0 then .trap (fld w 4 8) (fld w 0 4) else .reservedEncoding (BitVec.ofNat 32 w)
  | 2 => if w / 2 ^ 4 % 2 ^ 8 = 0 ∧ w / 2 ^ 16 % 2 ^ 10 = 0 then .hbeat (fld w 0 4) else .reservedEncoding (BitVec.ofNat 32 w)
  | 3 => if w / 2 ^ 4 % 2 ^ 8 = 0 ∧ w / 2 ^ 16 % 2 ^ 10 = 0 then .yield (fld w 0 4) else .reservedEncoding (BitVec.ofNat 32 w)
  | 4 => if w / 2 ^ 4 % 2 ^ 8 = 0 ∧ w / 2 ^ 21 % 2 ^ 5 = 0 then .exit (fld w 16 5) (fld w 0 4) else .reservedEncoding (BitVec.ofNat 32 w)
  | 5 => if w / 2 ^ 4 % 2 ^ 8 = 0 ∧ w / 2 ^ 21 % 2 ^ 5 = 0 then .cwait (fld w 16 5) (fld w 0 4) else .reservedEncoding (BitVec.ofNat 32 w)
  | _ => .reservedEncoding (BitVec.ofNat 32 w)

/-- Words of major 0x1B: FADD, FSUB, FMUL, FDIV, FSQRT, FMAC, FMIN, FMAX, FEQ, FLT, FLE, FITOF, FFTOI, FLI (R178, R34, R44). -/
def decodeMajor1B (w : Nat) : Instr :=
  match w / 2 ^ 4 % 2 ^ 5 with
  | 2 => .fadd (fld w 21 5) (fld w 16 5) (fld w 11 5) (fld w 9 2) (fld w 0 4)
  | 4 => .fsub (fld w 21 5) (fld w 16 5) (fld w 11 5) (fld w 9 2) (fld w 0 4)
  | 6 => .fmul (fld w 21 5) (fld w 16 5) (fld w 11 5) (fld w 9 2) (fld w 0 4)
  | 8 => .fdiv (fld w 21 5) (fld w 16 5) (fld w 11 5) (fld w 9 2) (fld w 0 4)
  | 10 => if w / 2 ^ 11 % 2 ^ 5 = 0 then .fsqrt (fld w 21 5) (fld w 16 5) (fld w 9 2) (fld w 0 4) else .reservedEncoding (BitVec.ofNat 32 w)
  | 12 => .fmac (fld w 21 5) (fld w 16 5) (fld w 11 5) (fld w 9 2) (fld w 0 4)
  | 14 => if w / 2 ^ 9 % 2 ^ 2 = 0 then .fmin (fld w 21 5) (fld w 16 5) (fld w 11 5) (fld w 0 4) else .reservedEncoding (BitVec.ofNat 32 w)
  | 16 => if w / 2 ^ 9 % 2 ^ 2 = 0 then .fmax (fld w 21 5) (fld w 16 5) (fld w 11 5) (fld w 0 4) else .reservedEncoding (BitVec.ofNat 32 w)
  | 18 => if w / 2 ^ 9 % 2 ^ 2 = 0 then .feq (fld w 21 5) (fld w 16 5) (fld w 11 5) (fld w 0 4) else .reservedEncoding (BitVec.ofNat 32 w)
  | 20 => if w / 2 ^ 9 % 2 ^ 2 = 0 then .flt (fld w 21 5) (fld w 16 5) (fld w 11 5) (fld w 0 4) else .reservedEncoding (BitVec.ofNat 32 w)
  | 22 => if w / 2 ^ 9 % 2 ^ 2 = 0 then .fle (fld w 21 5) (fld w 16 5) (fld w 11 5) (fld w 0 4) else .reservedEncoding (BitVec.ofNat 32 w)
  | 24 => if w / 2 ^ 11 % 2 ^ 5 = 0 then .fitof (fld w 21 5) (fld w 16 5) (fld w 9 2) (fld w 0 4) else .reservedEncoding (BitVec.ofNat 32 w)
  | 26 => if w / 2 ^ 10 % 2 ^ 6 = 0 then .fftoi (fld w 21 5) (fld w 16 5) (fld w 9 1) (fld w 0 4) else .reservedEncoding (BitVec.ofNat 32 w)
  | 1 => .fli (fld w 21 5) (fld w 5 16) (fld w 0 4)
  | 3 => .fli (fld w 21 5) (fld w 5 16) (fld w 0 4)
  | 5 => .fli (fld w 21 5) (fld w 5 16) (fld w 0 4)
  | 7 => .fli (fld w 21 5) (fld w 5 16) (fld w 0 4)
  | 9 => .fli (fld w 21 5) (fld w 5 16) (fld w 0 4)
  | 11 => .fli (fld w 21 5) (fld w 5 16) (fld w 0 4)
  | 13 => .fli (fld w 21 5) (fld w 5 16) (fld w 0 4)
  | 15 => .fli (fld w 21 5) (fld w 5 16) (fld w 0 4)
  | 17 => .fli (fld w 21 5) (fld w 5 16) (fld w 0 4)
  | 19 => .fli (fld w 21 5) (fld w 5 16) (fld w 0 4)
  | 21 => .fli (fld w 21 5) (fld w 5 16) (fld w 0 4)
  | 23 => .fli (fld w 21 5) (fld w 5 16) (fld w 0 4)
  | 25 => .fli (fld w 21 5) (fld w 5 16) (fld w 0 4)
  | 27 => .fli (fld w 21 5) (fld w 5 16) (fld w 0 4)
  | 29 => .fli (fld w 21 5) (fld w 5 16) (fld w 0 4)
  | 31 => .fli (fld w 21 5) (fld w 5 16) (fld w 0 4)
  | _ => .reservedEncoding (BitVec.ofNat 32 w)

/-- Words of major 0x1C: TCFG, MCFG (R228, R34, R44). -/
def decodeMajor1C (w : Nat) : Instr :=
  match w / 2 ^ 15 % 2 ^ 1 with
  | 0 => if w / 2 ^ 7 % 2 ^ 8 = 0 ∧ w / 2 ^ 21 % 2 ^ 5 = 0 then .tcfg (fld w 16 5) (fld w 4 3) (fld w 0 4) else .reservedEncoding (BitVec.ofNat 32 w)
  | 1 => if w / 2 ^ 21 % 2 ^ 5 = 0 then .mcfg (fld w 16 5) (fld w 4 11) (fld w 0 4) else .reservedEncoding (BitVec.ofNat 32 w)
  | _ => .reservedEncoding (BitVec.ofNat 32 w)

/-- Words of major 0x1D: BARR, BWAIT (R316, R34, R44). -/
def decodeMajor1D (w : Nat) : Instr :=
  match w / 2 ^ 4 % 2 ^ 7 with
  | 1 => if w / 2 ^ 11 % 2 ^ 5 = 0 then .barr (fld w 21 5) (fld w 16 5) (fld w 0 4) else .reservedEncoding (BitVec.ofNat 32 w)
  | 2 => .bwait (fld w 21 5) (fld w 16 5) (fld w 11 5) (fld w 0 4)
  | _ => .reservedEncoding (BitVec.ofNat 32 w)

/-- Words of major 0x1E: FRD, FWR (R311, R34, R44). -/
def decodeMajor1E (w : Nat) : Instr :=
  match w / 2 ^ 4 % 2 ^ 7 with
  | 1 => if w / 2 ^ 11 % 2 ^ 5 = 0 then .frd (fld w 21 5) (fld w 16 5) (fld w 0 4) else .reservedEncoding (BitVec.ofNat 32 w)
  | 2 => if w / 2 ^ 21 % 2 ^ 5 = 0 then .fwr (fld w 16 5) (fld w 11 5) (fld w 0 4) else .reservedEncoding (BitVec.ofNat 32 w)
  | _ => .reservedEncoding (BitVec.ofNat 32 w)

/-- Words of major 0x1F: DEPDEC, TRIG, SHAPEW (R306, R34, R44). -/
def decodeMajor1F (w : Nat) : Instr :=
  match w / 2 ^ 4 % 2 ^ 7 with
  | 1 => if w / 2 ^ 11 % 2 ^ 5 = 0 ∧ w / 2 ^ 21 % 2 ^ 5 = 0 then .depdec (fld w 16 5) (fld w 0 4) else .reservedEncoding (BitVec.ofNat 32 w)
  | 2 => if w / 2 ^ 11 % 2 ^ 15 = 0 then .trig (fld w 0 4) else .reservedEncoding (BitVec.ofNat 32 w)
  | 3 => if w / 2 ^ 14 % 2 ^ 2 = 0 ∧ w / 2 ^ 21 % 2 ^ 5 = 0 then .shapew (fld w 16 5) (fld w 11 3) (fld w 0 4) else .reservedEncoding (BitVec.ofNat 32 w)
  | _ => .reservedEncoding (BitVec.ofNat 32 w)

/-- Words of major 0x20: GSHAPE, GBR, GHLTH (R344, R34, R44). -/
def decodeMajor20 (w : Nat) : Instr :=
  match w / 2 ^ 14 % 2 ^ 2 with
  | 0 => if w / 2 ^ 21 % 2 ^ 5 = 0 then .gshape (fld w 16 5) (fld w 4 10) (fld w 0 4) else .reservedEncoding (BitVec.ofNat 32 w)
  | 1 => if w / 2 ^ 21 % 2 ^ 5 = 0 then .gbr (fld w 16 5) (fld w 4 10) (fld w 0 4) else .reservedEncoding (BitVec.ofNat 32 w)
  | 2 => if w / 2 ^ 21 % 2 ^ 5 = 0 then .ghlth (fld w 16 5) (fld w 4 10) (fld w 0 4) else .reservedEncoding (BitVec.ofNat 32 w)
  | _ => .reservedEncoding (BitVec.ofNat 32 w)

/-- Words of major 0x21: VLD (R162, R34, R44). -/
def decodeMajor21 (w : Nat) : Instr :=
  if w / 2 ^ 14 % 2 ^ 2 = 0 ∧ w / 2 ^ 23 % 2 ^ 3 = 0 then .vld (fld w 21 2) (fld w 16 5) (fld w 4 10) (fld w 0 4) else .reservedEncoding (BitVec.ofNat 32 w)

/-- Words of major 0x30: CPY, CPY2, CPY3, CPG, CPS, CPF, CPM, CPQ (R132, R34, R44). -/
def decodeMajor30 (w x : Nat) : Instr :=
  match w / 2 ^ 0 % 2 ^ 4 with
  | 1 => if w / 2 ^ 21 % 2 ^ 5 = 0 then .cpy (fld w 5 1) (fld w 4 1) (fld w 16 5) (fld w 11 5) (fld w 6 5) (decodeExt x) else .reservedEncoding (BitVec.ofNat 32 w)
  | 2 => if w / 2 ^ 21 % 2 ^ 5 = 0 then .cpy2 (fld w 5 1) (fld w 4 1) (fld w 16 5) (fld w 11 5) (fld w 6 5) (decodeExt x) else .reservedEncoding (BitVec.ofNat 32 w)
  | 3 => if w / 2 ^ 21 % 2 ^ 5 = 0 then .cpy3 (fld w 5 1) (fld w 4 1) (fld w 16 5) (fld w 11 5) (fld w 6 5) (decodeExt x) else .reservedEncoding (BitVec.ofNat 32 w)
  | 4 => if w / 2 ^ 21 % 2 ^ 5 = 0 then .cpg (fld w 5 1) (fld w 4 1) (fld w 16 5) (fld w 11 5) (fld w 6 5) (decodeExt x) else .reservedEncoding (BitVec.ofNat 32 w)
  | 5 => if w / 2 ^ 21 % 2 ^ 5 = 0 then .cps (fld w 5 1) (fld w 4 1) (fld w 16 5) (fld w 11 5) (fld w 6 5) (decodeExt x) else .reservedEncoding (BitVec.ofNat 32 w)
  | 6 => if w / 2 ^ 4 % 2 ^ 1 = 0 ∧ w / 2 ^ 21 % 2 ^ 5 = 0 then .cpf (fld w 5 1) (fld w 16 5) (fld w 11 5) (fld w 6 5) (decodeExt x) else .reservedEncoding (BitVec.ofNat 32 w)
  | 7 => if w / 2 ^ 5 % 2 ^ 1 = 1 ∧ w / 2 ^ 21 % 2 ^ 5 = 0 then .cpm (fld w 4 1) (fld w 16 5) (fld w 11 5) (fld w 6 5) (decodeExt x) else .reservedEncoding (BitVec.ofNat 32 w)
  | 8 => if w / 2 ^ 5 % 2 ^ 1 = 0 ∧ w / 2 ^ 16 % 2 ^ 5 = 0 ∧ w / 2 ^ 23 % 2 ^ 3 = 0 then .cpq (fld w 4 1) (fld w 21 2) (fld w 11 5) (fld w 6 5) (decodeExt x) else .reservedEncoding (BitVec.ofNat 32 w)
  | _ => .reservedEncoding (BitVec.ofNat 32 w)

/-- Words of major 0x31: CPR_FADD_F32, CPR_ADD_I32, CPR_ADD_I64, CPR_MAX_F32, CPR_MIN_F32, CPR_MAX_I32, CPR_MIN_I32 (R140, R34, R44). -/
def decodeMajor31 (w x : Nat) : Instr :=
  match w / 2 ^ 0 % 2 ^ 4 with
  | 1 => if w / 2 ^ 4 % 2 ^ 1 = 0 ∧ w / 2 ^ 21 % 2 ^ 5 = 0 then .cprFaddF32 (fld w 5 1) (fld w 16 5) (fld w 11 5) (fld w 6 5) (decodeExt x) else .reservedEncoding (BitVec.ofNat 32 w)
  | 2 => if w / 2 ^ 4 % 2 ^ 1 = 0 ∧ w / 2 ^ 21 % 2 ^ 5 = 0 then .cprAddI32 (fld w 5 1) (fld w 16 5) (fld w 11 5) (fld w 6 5) (decodeExt x) else .reservedEncoding (BitVec.ofNat 32 w)
  | 3 => if w / 2 ^ 4 % 2 ^ 1 = 0 ∧ w / 2 ^ 21 % 2 ^ 5 = 0 then .cprAddI64 (fld w 5 1) (fld w 16 5) (fld w 11 5) (fld w 6 5) (decodeExt x) else .reservedEncoding (BitVec.ofNat 32 w)
  | 4 => if w / 2 ^ 4 % 2 ^ 1 = 0 ∧ w / 2 ^ 21 % 2 ^ 5 = 0 then .cprMaxF32 (fld w 5 1) (fld w 16 5) (fld w 11 5) (fld w 6 5) (decodeExt x) else .reservedEncoding (BitVec.ofNat 32 w)
  | 5 => if w / 2 ^ 4 % 2 ^ 1 = 0 ∧ w / 2 ^ 21 % 2 ^ 5 = 0 then .cprMinF32 (fld w 5 1) (fld w 16 5) (fld w 11 5) (fld w 6 5) (decodeExt x) else .reservedEncoding (BitVec.ofNat 32 w)
  | 6 => if w / 2 ^ 4 % 2 ^ 1 = 0 ∧ w / 2 ^ 21 % 2 ^ 5 = 0 then .cprMaxI32 (fld w 5 1) (fld w 16 5) (fld w 11 5) (fld w 6 5) (decodeExt x) else .reservedEncoding (BitVec.ofNat 32 w)
  | 7 => if w / 2 ^ 4 % 2 ^ 1 = 0 ∧ w / 2 ^ 21 % 2 ^ 5 = 0 then .cprMinI32 (fld w 5 1) (fld w 16 5) (fld w 11 5) (fld w 6 5) (decodeExt x) else .reservedEncoding (BitVec.ofNat 32 w)
  | _ => .reservedEncoding (BitVec.ofNat 32 w)

/-- Words of major 0x32: VRUN (R206, R34, R44). -/
def decodeMajor32 (w x : Nat) : Instr :=
  if w / 2 ^ 0 % 2 ^ 6 = 0 ∧ w / 2 ^ 21 % 2 ^ 5 = 0 then .vrun (fld w 16 5) (fld w 11 5) (fld w 6 5) (decodeExt x) else .reservedEncoding (BitVec.ofNat 32 w)

/-- Words of major 0x33: TBLOAD (R203, R34, R44). -/
def decodeMajor33 (w x : Nat) : Instr :=
  if w / 2 ^ 0 % 2 ^ 6 = 0 then .tbload (fld w 21 5) (fld w 16 5) (fld w 11 5) (fld w 6 5) (decodeExt x) else .reservedEncoding (BitVec.ofNat 32 w)

/-- Words of major 0x34: MGO (R234, R34, R44). -/
def decodeMajor34 (w x : Nat) : Instr :=
  if w / 2 ^ 0 % 2 ^ 26 = 0 then .mgo (decodeExt x) else .reservedEncoding (BitVec.ofNat 32 w)

/-- Words of major 0x35: TLD, TST, AFILL, ADRN (R250, R34, R44). -/
def decodeMajor35 (w x : Nat) : Instr :=
  match w / 2 ^ 0 % 2 ^ 6 with
  | 1 => if w / 2 ^ 24 % 2 ^ 2 = 0 then .tld (fld w 21 3) (fld w 16 5) (fld w 11 5) (fld w 6 5) (decodeExt x) else .reservedEncoding (BitVec.ofNat 32 w)
  | 2 => if w / 2 ^ 24 % 2 ^ 2 = 0 then .tst (fld w 21 3) (fld w 16 5) (fld w 11 5) (fld w 6 5) (decodeExt x) else .reservedEncoding (BitVec.ofNat 32 w)
  | 3 => if w / 2 ^ 23 % 2 ^ 3 = 0 then .afill (fld w 21 2) (fld w 16 5) (fld w 11 5) (fld w 6 5) (decodeExt x) else .reservedEncoding (BitVec.ofNat 32 w)
  | 4 => if w / 2 ^ 23 % 2 ^ 3 = 0 then .adrn (fld w 21 2) (fld w 16 5) (fld w 11 5) (fld w 6 5) (decodeExt x) else .reservedEncoding (BitVec.ofNat 32 w)
  | _ => .reservedEncoding (BitVec.ofNat 32 w)

/-- Words of major 0x36: TBIND, TMUL, TMAC, TADD, TSUB, THAD, TSCL, TTRN, TCVT, TACT (R258, R34, R44). -/
def decodeMajor36 (w x : Nat) : Instr :=
  match w / 2 ^ 0 % 2 ^ 6 with
  | 1 => .tbind (fld w 21 5) (fld w 16 5) (fld w 11 5) (fld w 6 5) (decodeExt x)
  | 2 => if w / 2 ^ 11 % 2 ^ 5 = 0 then .tmul (fld w 21 5) (fld w 16 5) (fld w 6 5) (decodeExt x) else .reservedEncoding (BitVec.ofNat 32 w)
  | 3 => if w / 2 ^ 11 % 2 ^ 5 = 0 then .tmac (fld w 21 5) (fld w 16 5) (fld w 6 5) (decodeExt x) else .reservedEncoding (BitVec.ofNat 32 w)
  | 4 => if w / 2 ^ 11 % 2 ^ 5 = 0 then .tadd (fld w 21 5) (fld w 16 5) (fld w 6 5) (decodeExt x) else .reservedEncoding (BitVec.ofNat 32 w)
  | 5 => if w / 2 ^ 11 % 2 ^ 5 = 0 then .tsub (fld w 21 5) (fld w 16 5) (fld w 6 5) (decodeExt x) else .reservedEncoding (BitVec.ofNat 32 w)
  | 6 => if w / 2 ^ 11 % 2 ^ 5 = 0 then .thad (fld w 21 5) (fld w 16 5) (fld w 6 5) (decodeExt x) else .reservedEncoding (BitVec.ofNat 32 w)
  | 7 => .tscl (fld w 21 5) (fld w 16 5) (fld w 11 5) (fld w 6 5) (decodeExt x)
  | 8 => if w / 2 ^ 11 % 2 ^ 5 = 0 then .ttrn (fld w 21 5) (fld w 16 5) (fld w 6 5) (decodeExt x) else .reservedEncoding (BitVec.ofNat 32 w)
  | 9 => if w / 2 ^ 11 % 2 ^ 5 = 0 then .tcvt (fld w 21 5) (fld w 16 5) (fld w 6 5) (decodeExt x) else .reservedEncoding (BitVec.ofNat 32 w)
  | 10 => .tact (fld w 21 5) (fld w 16 5) (fld w 11 5) (fld w 6 5) (decodeExt x)
  | _ => .reservedEncoding (BitVec.ofNat 32 w)

/-- Words of major 0x37: TSTORE, TFORCE, TDROP (R268, R34, R44). -/
def decodeMajor37 (w x : Nat) : Instr :=
  match w / 2 ^ 0 % 2 ^ 6 with
  | 1 => if w / 2 ^ 21 % 2 ^ 5 = 0 then .tstore (fld w 16 5) (fld w 11 5) (fld w 6 5) (decodeExt x) else .reservedEncoding (BitVec.ofNat 32 w)
  | 2 => if w / 2 ^ 6 % 2 ^ 10 = 0 ∧ w / 2 ^ 21 % 2 ^ 5 = 0 then .tforce (fld w 16 5) (decodeExt x) else .reservedEncoding (BitVec.ofNat 32 w)
  | 3 => if w / 2 ^ 6 % 2 ^ 10 = 0 ∧ w / 2 ^ 21 % 2 ^ 5 = 0 then .tdrop (fld w 16 5) (decodeExt x) else .reservedEncoding (BitVec.ofNat 32 w)
  | _ => .reservedEncoding (BitVec.ofNat 32 w)

/-- Words of major 0x38: MITER_POLY, MITER_NS, MITER_INV (R276, R34, R44). -/
def decodeMajor38 (w x : Nat) : Instr :=
  match w / 2 ^ 0 % 2 ^ 2 with
  | 1 => if w / 2 ^ 4 % 2 ^ 2 = 0 then .miterPoly (fld w 3 1) (fld w 2 1) (fld w 21 5) (fld w 16 5) (fld w 11 5) (fld w 6 5) (decodeExt x) else .reservedEncoding (BitVec.ofNat 32 w)
  | 2 => if w / 2 ^ 4 % 2 ^ 2 = 0 then .miterNs (fld w 3 1) (fld w 2 1) (fld w 21 5) (fld w 16 5) (fld w 11 5) (fld w 6 5) (decodeExt x) else .reservedEncoding (BitVec.ofNat 32 w)
  | 3 => if w / 2 ^ 4 % 2 ^ 2 = 0 then .miterInv (fld w 3 1) (fld w 2 1) (fld w 21 5) (fld w 16 5) (fld w 11 5) (fld w 6 5) (decodeExt x) else .reservedEncoding (BitVec.ofNat 32 w)
  | _ => .reservedEncoding (BitVec.ofNat 32 w)

/-- Words of major 0x39: CAPUT, CANODE, CAHASH, CAGET, CAWALK, CAREF, CASWAP, CAOUT, CAPIN (R115, R34, R44). -/
def decodeMajor39 (w x : Nat) : Instr :=
  match w / 2 ^ 0 % 2 ^ 6 with
  | 1 => if w / 2 ^ 6 % 2 ^ 5 = 0 then .caput (fld w 21 5) (fld w 16 5) (fld w 11 5) (decodeExt x) else .reservedEncoding (BitVec.ofNat 32 w)
  | 2 => if w / 2 ^ 6 % 2 ^ 5 = 0 then .canode (fld w 21 5) (fld w 16 5) (fld w 11 5) (decodeExt x) else .reservedEncoding (BitVec.ofNat 32 w)
  | 3 => if w / 2 ^ 21 % 2 ^ 5 = 0 then .cahash (fld w 16 5) (fld w 11 5) (fld w 6 5) (decodeExt x) else .reservedEncoding (BitVec.ofNat 32 w)
  | 4 => if w / 2 ^ 21 % 2 ^ 5 = 0 then .caget (fld w 16 5) (fld w 11 5) (fld w 6 5) (decodeExt x) else .reservedEncoding (BitVec.ofNat 32 w)
  | 5 => if w / 2 ^ 21 % 2 ^ 5 = 0 then .cawalk (fld w 16 5) (fld w 11 5) (fld w 6 5) (decodeExt x) else .reservedEncoding (BitVec.ofNat 32 w)
  | 6 => if w / 2 ^ 6 % 2 ^ 5 = 0 then .caref (fld w 21 5) (fld w 16 5) (fld w 11 5) (decodeExt x) else .reservedEncoding (BitVec.ofNat 32 w)
  | 7 => .caswap (fld w 21 5) (fld w 16 5) (fld w 11 5) (fld w 6 5) (decodeExt x)
  | 8 => if w / 2 ^ 21 % 2 ^ 5 = 0 then .caout (fld w 16 5) (fld w 11 5) (fld w 6 5) (decodeExt x) else .reservedEncoding (BitVec.ofNat 32 w)
  | 9 => if w / 2 ^ 6 % 2 ^ 10 = 0 then .capin (fld w 21 5) (fld w 16 5) (decodeExt x) else .reservedEncoding (BitVec.ofNat 32 w)
  | _ => .reservedEncoding (BitVec.ofNat 32 w)

/-- Words of major 0x3A: SPAWN (R302, R34, R44). -/
def decodeMajor3A (w x : Nat) : Instr :=
  if w / 2 ^ 0 % 2 ^ 6 = 0 then .spawn (fld w 21 5) (fld w 16 5) (fld w 11 5) (fld w 6 5) (decodeExt x) else .reservedEncoding (BitVec.ofNat 32 w)

/-- Major 0x21 in the S role: VST (R162). -/
def decodeVst (w : Nat) : Instr :=
  if w / 2 ^ 14 % 2 ^ 2 = 0 ∧ w / 2 ^ 22 % 2 ^ 4 = 0 then .vst (fld w 21 1) (fld w 16 5) (fld w 4 10) (fld w 0 4) else .reservedEncoding (BitVec.ofNat 32 w)

/-- The instruction a first word `w` and the word after it `x` stand for, before the checks of R45.2 on reserved
values of its fields. `store` selects the S role's reading of major 0x21 (R162). -/
def decodeRaw (store : Bool) (w x : Nat) : Instr :=
  match w / 2 ^ 26 % 2 ^ 6 with
  | 0 => decodeMajor00 w
  | 1 => decodeMajor01 w
  | 2 => decodeMajor02 w
  | 3 => decodeMajor03 w
  | 4 => decodeMajor04 w
  | 5 => decodeMajor05 w
  | 6 => decodeMajor06 w
  | 7 => decodeMajor07 w
  | 8 => decodeMajor08 w
  | 9 => decodeMajor09 w
  | 10 => decodeMajor0A w
  | 11 => decodeMajor0B w
  | 12 => decodeMajor0C w
  | 13 => decodeMajor0D w
  | 14 => decodeMajor0E w
  | 15 => decodeMajor0F w
  | 16 => decodeMajor10 w
  | 17 => decodeMajor11 w
  | 18 => decodeMajor12 w
  | 19 => decodeMajor13 w
  | 20 => decodeMajor14 w
  | 21 => decodeMajor15 w
  | 22 => decodeMajor16 w
  | 23 => decodeMajor17 w
  | 24 => decodeMajor18 w
  | 25 => decodeMajor19 w
  | 26 => decodeMajor1A w
  | 27 => decodeMajor1B w
  | 28 => decodeMajor1C w
  | 29 => decodeMajor1D w
  | 30 => decodeMajor1E w
  | 31 => decodeMajor1F w
  | 32 => decodeMajor20 w
  | 33 => if store then decodeVst w else decodeMajor21 w
  | 48 => decodeMajor30 w x
  | 49 => decodeMajor31 w x
  | 50 => decodeMajor32 w x
  | 51 => decodeMajor33 w x
  | 52 => decodeMajor34 w x
  | 53 => decodeMajor35 w x
  | 54 => decodeMajor36 w x
  | 55 => decodeMajor37 w x
  | 56 => decodeMajor38 w x
  | 57 => decodeMajor39 w x
  | 58 => decodeMajor3A w x
  | _ => .reservedEncoding (BitVec.ofNat 32 w)

/-- The micro-order a word of the micro-order store stands for (R46, R47); a malformed one (R48) is `reservedOp7`. -/
noncomputable def decodeMicro (w : Nat) : Instr :=
  match w / 2 ^ 25 % 2 ^ 7 with
  | 1 => if w / 2 ^ 0 % 2 ^ 25 = 0 then .vnop else .reservedOp7 (BitVec.ofNat 32 w)
  | 2 => if w / 2 ^ 4 % 2 ^ 7 = 0 then .vmov (fld w 18 7) (fld w 11 7) (fld w 0 4) else .reservedOp7 (BitVec.ofNat 32 w)
  | 3 => if w / 2 ^ 3 % 2 ^ 1 = 1 then .vsel (fld w 18 7) (fld w 11 7) (fld w 4 7) (fld w 0 3) else .reservedOp7 (BitVec.ofNat 32 w)
  | 4 => .vaddF32 (fld w 18 7) (fld w 11 7) (fld w 4 7) (fld w 0 4)
  | 5 => .vaddBf16 (fld w 18 7) (fld w 11 7) (fld w 4 7) (fld w 0 4)
  | 6 => .vaddF16 (fld w 18 7) (fld w 11 7) (fld w 4 7) (fld w 0 4)
  | 7 => .vsubF32 (fld w 18 7) (fld w 11 7) (fld w 4 7) (fld w 0 4)
  | 8 => .vsubBf16 (fld w 18 7) (fld w 11 7) (fld w 4 7) (fld w 0 4)
  | 9 => .vsubF16 (fld w 18 7) (fld w 11 7) (fld w 4 7) (fld w 0 4)
  | 10 => .vmulF32 (fld w 18 7) (fld w 11 7) (fld w 4 7) (fld w 0 4)
  | 11 => .vmulBf16 (fld w 18 7) (fld w 11 7) (fld w 4 7) (fld w 0 4)
  | 12 => .vmulF16 (fld w 18 7) (fld w 11 7) (fld w 4 7) (fld w 0 4)
  | 13 => .vfmaF32 (fld w 18 7) (fld w 11 7) (fld w 4 7) (fld w 0 4)
  | 14 => .vfmaBf16 (fld w 18 7) (fld w 11 7) (fld w 4 7) (fld w 0 4)
  | 15 => .vfmaF16 (fld w 18 7) (fld w 11 7) (fld w 4 7) (fld w 0 4)
  | 16 => .vfmsF32 (fld w 18 7) (fld w 11 7) (fld w 4 7) (fld w 0 4)
  | 17 => .vfmsBf16 (fld w 18 7) (fld w 11 7) (fld w 4 7) (fld w 0 4)
  | 18 => .vfmsF16 (fld w 18 7) (fld w 11 7) (fld w 4 7) (fld w 0 4)
  | 19 => .vminF32 (fld w 18 7) (fld w 11 7) (fld w 4 7) (fld w 0 4)
  | 20 => .vminBf16 (fld w 18 7) (fld w 11 7) (fld w 4 7) (fld w 0 4)
  | 21 => .vminF16 (fld w 18 7) (fld w 11 7) (fld w 4 7) (fld w 0 4)
  | 22 => .vmaxF32 (fld w 18 7) (fld w 11 7) (fld w 4 7) (fld w 0 4)
  | 23 => .vmaxBf16 (fld w 18 7) (fld w 11 7) (fld w 4 7) (fld w 0 4)
  | 24 => .vmaxF16 (fld w 18 7) (fld w 11 7) (fld w 4 7) (fld w 0 4)
  | 25 => if w / 2 ^ 4 % 2 ^ 7 = 0 then .vabsF32 (fld w 18 7) (fld w 11 7) (fld w 0 4) else .reservedOp7 (BitVec.ofNat 32 w)
  | 26 => if w / 2 ^ 4 % 2 ^ 7 = 0 then .vabsBf16 (fld w 18 7) (fld w 11 7) (fld w 0 4) else .reservedOp7 (BitVec.ofNat 32 w)
  | 27 => if w / 2 ^ 4 % 2 ^ 7 = 0 then .vabsF16 (fld w 18 7) (fld w 11 7) (fld w 0 4) else .reservedOp7 (BitVec.ofNat 32 w)
  | 28 => if w / 2 ^ 4 % 2 ^ 7 = 0 then .vnegF32 (fld w 18 7) (fld w 11 7) (fld w 0 4) else .reservedOp7 (BitVec.ofNat 32 w)
  | 29 => if w / 2 ^ 4 % 2 ^ 7 = 0 then .vnegBf16 (fld w 18 7) (fld w 11 7) (fld w 0 4) else .reservedOp7 (BitVec.ofNat 32 w)
  | 30 => if w / 2 ^ 4 % 2 ^ 7 = 0 then .vnegF16 (fld w 18 7) (fld w 11 7) (fld w 0 4) else .reservedOp7 (BitVec.ofNat 32 w)
  | 31 => if w / 2 ^ 4 % 2 ^ 7 = 0 then .vsqrt (fld w 18 7) (fld w 11 7) (fld w 0 4) else .reservedOp7 (BitVec.ofNat 32 w)
  | 32 => if w / 2 ^ 4 % 2 ^ 7 = 0 then .vrcp (fld w 18 7) (fld w 11 7) (fld w 0 4) else .reservedOp7 (BitVec.ofNat 32 w)
  | 33 => if w / 2 ^ 4 % 2 ^ 7 = 0 then .vrsq (fld w 18 7) (fld w 11 7) (fld w 0 4) else .reservedOp7 (BitVec.ofNat 32 w)
  | 34 => if w / 2 ^ 4 % 2 ^ 7 = 0 then .vexp2 (fld w 18 7) (fld w 11 7) (fld w 0 4) else .reservedOp7 (BitVec.ofNat 32 w)
  | 35 => if w / 2 ^ 4 % 2 ^ 7 = 0 then .vlog2 (fld w 18 7) (fld w 11 7) (fld w 0 4) else .reservedOp7 (BitVec.ofNat 32 w)
  | 36 => if w / 2 ^ 4 % 2 ^ 7 = 0 then .vtanh (fld w 18 7) (fld w 11 7) (fld w 0 4) else .reservedOp7 (BitVec.ofNat 32 w)
  | 40 => .viaddI32 (fld w 18 7) (fld w 11 7) (fld w 4 7) (fld w 0 4)
  | 41 => .viaddI16 (fld w 18 7) (fld w 11 7) (fld w 4 7) (fld w 0 4)
  | 42 => .viaddI8 (fld w 18 7) (fld w 11 7) (fld w 4 7) (fld w 0 4)
  | 43 => .visubI32 (fld w 18 7) (fld w 11 7) (fld w 4 7) (fld w 0 4)
  | 44 => .visubI16 (fld w 18 7) (fld w 11 7) (fld w 4 7) (fld w 0 4)
  | 45 => .visubI8 (fld w 18 7) (fld w 11 7) (fld w 4 7) (fld w 0 4)
  | 46 => .vimulI32 (fld w 18 7) (fld w 11 7) (fld w 4 7) (fld w 0 4)
  | 47 => .vimulI16 (fld w 18 7) (fld w 11 7) (fld w 4 7) (fld w 0 4)
  | 48 => .vimulI8 (fld w 18 7) (fld w 11 7) (fld w 4 7) (fld w 0 4)
  | 49 => .viminI32 (fld w 18 7) (fld w 11 7) (fld w 4 7) (fld w 0 4)
  | 50 => .viminI16 (fld w 18 7) (fld w 11 7) (fld w 4 7) (fld w 0 4)
  | 51 => .viminI8 (fld w 18 7) (fld w 11 7) (fld w 4 7) (fld w 0 4)
  | 52 => .vimaxI32 (fld w 18 7) (fld w 11 7) (fld w 4 7) (fld w 0 4)
  | 53 => .vimaxI16 (fld w 18 7) (fld w 11 7) (fld w 4 7) (fld w 0 4)
  | 54 => .vimaxI8 (fld w 18 7) (fld w 11 7) (fld w 4 7) (fld w 0 4)
  | 55 => .viaddsI32 (fld w 18 7) (fld w 11 7) (fld w 4 7) (fld w 0 4)
  | 56 => .viaddsI16 (fld w 18 7) (fld w 11 7) (fld w 4 7) (fld w 0 4)
  | 57 => .viaddsI8 (fld w 18 7) (fld w 11 7) (fld w 4 7) (fld w 0 4)
  | 58 => .vand (fld w 18 7) (fld w 11 7) (fld w 4 7) (fld w 0 4)
  | 59 => .vor (fld w 18 7) (fld w 11 7) (fld w 4 7) (fld w 0 4)
  | 60 => .vxor (fld w 18 7) (fld w 11 7) (fld w 4 7) (fld w 0 4)
  | 61 => .vsll (fld w 18 7) (fld w 11 7) (fld w 4 7) (fld w 0 4)
  | 62 => .vsrl (fld w 18 7) (fld w 11 7) (fld w 4 7) (fld w 0 4)
  | 63 => .vsra (fld w 18 7) (fld w 11 7) (fld w 4 7) (fld w 0 4)
  | 64 => if w / 2 ^ 21 % 2 ^ 4 = 0 then .vcmpeqF32 (fld w 18 3) (fld w 11 7) (fld w 4 7) (fld w 0 4) else .reservedOp7 (BitVec.ofNat 32 w)
  | 65 => if w / 2 ^ 21 % 2 ^ 4 = 0 then .vcmpeqI32 (fld w 18 3) (fld w 11 7) (fld w 4 7) (fld w 0 4) else .reservedOp7 (BitVec.ofNat 32 w)
  | 66 => if w / 2 ^ 21 % 2 ^ 4 = 0 then .vcmpltF32 (fld w 18 3) (fld w 11 7) (fld w 4 7) (fld w 0 4) else .reservedOp7 (BitVec.ofNat 32 w)
  | 67 => if w / 2 ^ 21 % 2 ^ 4 = 0 then .vcmpltI32 (fld w 18 3) (fld w 11 7) (fld w 4 7) (fld w 0 4) else .reservedOp7 (BitVec.ofNat 32 w)
  | 68 => if w / 2 ^ 21 % 2 ^ 4 = 0 then .vcmpleF32 (fld w 18 3) (fld w 11 7) (fld w 4 7) (fld w 0 4) else .reservedOp7 (BitVec.ofNat 32 w)
  | 69 => if w / 2 ^ 21 % 2 ^ 4 = 0 then .vcmpleI32 (fld w 18 3) (fld w 11 7) (fld w 4 7) (fld w 0 4) else .reservedOp7 (BitVec.ofNat 32 w)
  | 70 => if w / 2 ^ 4 % 2 ^ 7 = 0 then .vcvtBf16F32 (fld w 18 7) (fld w 11 7) (fld w 0 4) else .reservedOp7 (BitVec.ofNat 32 w)
  | 71 => if w / 2 ^ 4 % 2 ^ 7 = 0 then .vcvtF16F32 (fld w 18 7) (fld w 11 7) (fld w 0 4) else .reservedOp7 (BitVec.ofNat 32 w)
  | 72 => if w / 2 ^ 4 % 2 ^ 7 = 0 then .vcvtF32Bf16 (fld w 18 7) (fld w 11 7) (fld w 0 4) else .reservedOp7 (BitVec.ofNat 32 w)
  | 73 => if w / 2 ^ 4 % 2 ^ 7 = 0 then .vcvtF32F16 (fld w 18 7) (fld w 11 7) (fld w 0 4) else .reservedOp7 (BitVec.ofNat 32 w)
  | 74 => if w / 2 ^ 4 % 2 ^ 7 = 0 then .vcvtFp8aF32 (fld w 18 7) (fld w 11 7) (fld w 0 4) else .reservedOp7 (BitVec.ofNat 32 w)
  | 75 => if w / 2 ^ 4 % 2 ^ 7 = 0 then .vcvtFp8bF32 (fld w 18 7) (fld w 11 7) (fld w 0 4) else .reservedOp7 (BitVec.ofNat 32 w)
  | 76 => if w / 2 ^ 4 % 2 ^ 7 = 0 then .vcvtF32Fp8a (fld w 18 7) (fld w 11 7) (fld w 0 4) else .reservedOp7 (BitVec.ofNat 32 w)
  | 77 => if w / 2 ^ 4 % 2 ^ 7 = 0 then .vcvtF32Fp8b (fld w 18 7) (fld w 11 7) (fld w 0 4) else .reservedOp7 (BitVec.ofNat 32 w)
  | 78 => if w / 2 ^ 4 % 2 ^ 7 = 0 then .vcvtI32F32 (fld w 18 7) (fld w 11 7) (fld w 0 4) else .reservedOp7 (BitVec.ofNat 32 w)
  | 79 => if w / 2 ^ 4 % 2 ^ 7 = 0 then .vcvtF32I32 (fld w 18 7) (fld w 11 7) (fld w 0 4) else .reservedOp7 (BitVec.ofNat 32 w)
  | 80 => if w / 2 ^ 4 % 2 ^ 7 = 0 then .vcvtFp4xF32 (fld w 18 7) (fld w 11 7) (fld w 0 4) else .reservedOp7 (BitVec.ofNat 32 w)
  | 81 => if w / 2 ^ 4 % 2 ^ 7 = 0 then .vcvtF32Fp4x (fld w 18 7) (fld w 11 7) (fld w 0 4) else .reservedOp7 (BitVec.ofNat 32 w)
  | 82 => if w / 2 ^ 4 % 2 ^ 7 = 0 then .vrsumF32 (fld w 18 7) (fld w 11 7) (fld w 0 4) else .reservedOp7 (BitVec.ofNat 32 w)
  | 83 => if w / 2 ^ 4 % 2 ^ 7 = 0 then .vrmax (fld w 18 7) (fld w 11 7) (fld w 0 4) else .reservedOp7 (BitVec.ofNat 32 w)
  | 84 => if w / 2 ^ 4 % 2 ^ 7 = 0 then .vrmin (fld w 18 7) (fld w 11 7) (fld w 0 4) else .reservedOp7 (BitVec.ofNat 32 w)
  | 85 => if w / 2 ^ 4 % 2 ^ 7 = 0 then .vrsumI32 (fld w 18 7) (fld w 11 7) (fld w 0 4) else .reservedOp7 (BitVec.ofNat 32 w)
  | 86 => .vperm (fld w 18 7) (fld w 11 7) (fld w 4 7) (fld w 0 4)
  | 87 => .vrot (fld w 18 7) (fld w 11 7) (fld w 4 7) (fld w 0 4)
  | 88 => .vbcast (fld w 18 7) (fld w 11 7) (fld w 4 7) (fld w 0 4)
  | 89 => .vpack (fld w 18 7) (fld w 11 7) (fld w 4 7) (fld w 0 4)
  | 90 => if w / 2 ^ 4 % 2 ^ 7 = 0 then .vunpkl (fld w 18 7) (fld w 11 7) (fld w 0 4) else .reservedOp7 (BitVec.ofNat 32 w)
  | 91 => if w / 2 ^ 4 % 2 ^ 7 = 0 then .vunpkh (fld w 18 7) (fld w 11 7) (fld w 0 4) else .reservedOp7 (BitVec.ofNat 32 w)
  | 92 => if w / 2 ^ 3 % 2 ^ 8 = 0 ∧ w / 2 ^ 13 % 2 ^ 5 = 0 then .vpop (fld w 18 7) (fld w 11 2) (fld w 0 3) else .reservedOp7 (BitVec.ofNat 32 w)
  | 93 => if w / 2 ^ 3 % 2 ^ 8 = 0 ∧ w / 2 ^ 19 % 2 ^ 6 = 0 then .vpush (fld w 18 1) (fld w 11 7) (fld w 0 3) else .reservedOp7 (BitVec.ofNat 32 w)
  | 94 => if w / 2 ^ 4 % 2 ^ 4 = 0 ∧ w / 2 ^ 17 % 2 ^ 1 = 0 then .vtr (fld w 18 7) (fld w 14 3) (fld w 11 3) (fld w 8 3) (fld w 0 4) else .reservedOp7 (BitVec.ofNat 32 w)
  | 95 => if w / 2 ^ 4 % 2 ^ 4 = 0 ∧ w / 2 ^ 17 % 2 ^ 1 = 0 then .vtw (fld w 18 7) (fld w 14 3) (fld w 11 3) (fld w 8 3) (fld w 0 4) else .reservedOp7 (BitVec.ofNat 32 w)
  | 96 => if w / 2 ^ 4 % 2 ^ 4 = 0 ∧ w / 2 ^ 16 % 2 ^ 2 = 2 then .var (fld w 18 7) (fld w 14 2) (fld w 11 3) (fld w 8 3) (fld w 0 4) else .reservedOp7 (BitVec.ofNat 32 w)
  | 97 => if w / 2 ^ 4 % 2 ^ 4 = 0 ∧ w / 2 ^ 16 % 2 ^ 2 = 2 then .vaw (fld w 18 7) (fld w 14 2) (fld w 11 3) (fld w 8 3) (fld w 0 4) else .reservedOp7 (BitVec.ofNat 32 w)
  | 98 => if w / 2 ^ 0 % 2 ^ 2 = 0 ∧ w / 2 ^ 21 % 2 ^ 4 = 0 then .vixs (fld w 18 3) (fld w 2 16) else .reservedOp7 (BitVec.ofNat 32 w)
  | 99 => if w / 2 ^ 0 % 2 ^ 2 = 0 ∧ w / 2 ^ 21 % 2 ^ 4 = 0 then .vixa (fld w 18 3) (fld w 2 16) else .reservedOp7 (BitVec.ofNat 32 w)
  | 100 => if w / 2 ^ 0 % 2 ^ 2 = 0 ∧ w / 2 ^ 6 % 2 ^ 12 = 0 then .vspl (fld w 18 7) (fld w 2 4) else .reservedOp7 (BitVec.ofNat 32 w)
  | 101 => if w / 2 ^ 0 % 2 ^ 2 = 0 ∧ w / 2 ^ 6 % 2 ^ 12 = 0 then .vfil (fld w 18 7) (fld w 2 4) else .reservedOp7 (BitVec.ofNat 32 w)
  | 102 => if w / 2 ^ 0 % 2 ^ 2 = 0 then .vmoviF32 (fld w 18 7) (fld w 2 16) else .reservedOp7 (BitVec.ofNat 32 w)
  | 103 => if w / 2 ^ 0 % 2 ^ 2 = 0 then .vmoviBf16 (fld w 18 7) (fld w 2 16) else .reservedOp7 (BitVec.ofNat 32 w)
  | 104 => if w / 2 ^ 0 % 2 ^ 2 = 0 then .vmoviF16 (fld w 18 7) (fld w 2 16) else .reservedOp7 (BitVec.ofNat 32 w)
  | 105 => if w / 2 ^ 0 % 2 ^ 2 = 0 then .vmoviI32 (fld w 18 7) (fld w 2 16) else .reservedOp7 (BitVec.ofNat 32 w)
  | 106 => if w / 2 ^ 0 % 2 ^ 2 = 0 then .vmoviI16 (fld w 18 7) (fld w 2 16) else .reservedOp7 (BitVec.ofNat 32 w)
  | 107 => if w / 2 ^ 0 % 2 ^ 2 = 0 then .vmoviI8 (fld w 18 7) (fld w 2 16) else .reservedOp7 (BitVec.ofNat 32 w)
  | 108 => if w / 2 ^ 7 % 2 ^ 4 = 0 ∧ w / 2 ^ 14 % 2 ^ 4 = 0 ∧ w / 2 ^ 21 % 2 ^ 4 = 0 then .kand (fld w 18 3) (fld w 11 3) (fld w 4 3) (fld w 0 4) else .reservedOp7 (BitVec.ofNat 32 w)
  | 109 => if w / 2 ^ 7 % 2 ^ 4 = 0 ∧ w / 2 ^ 14 % 2 ^ 4 = 0 ∧ w / 2 ^ 21 % 2 ^ 4 = 0 then .kor (fld w 18 3) (fld w 11 3) (fld w 4 3) (fld w 0 4) else .reservedOp7 (BitVec.ofNat 32 w)
  | 110 => if w / 2 ^ 4 % 2 ^ 7 = 0 ∧ w / 2 ^ 14 % 2 ^ 4 = 0 ∧ w / 2 ^ 21 % 2 ^ 4 = 0 then .knot (fld w 18 3) (fld w 11 3) (fld w 0 4) else .reservedOp7 (BitVec.ofNat 32 w)
  | 111 => if w / 2 ^ 4 % 2 ^ 7 = 0 ∧ w / 2 ^ 21 % 2 ^ 4 = 0 then .kmov (fld w 18 3) (fld w 11 7) (fld w 0 4) else .reservedOp7 (BitVec.ofNat 32 w)
  | _ => .reservedOp7 (BitVec.ofNat 32 w)

/-- The instruction of a first word `w` and the word after it `x`, after the checks of R45.1, R45.2 and R45.4: a term
that is not well formed is a reserved encoding. -/
def decodeStream (store : Bool) (w x : Nat) : Instr :=
  if (decodeRaw store w x).wf then decodeRaw store w x else .reservedEncoding (BitVec.ofNat 32 w)

/-- Majors 0x30 to 0x3F are long: two words (R24). -/
def isLong (w : Nat) : Bool := decide (0x30 ≤ w / 2 ^ 26 % 2 ^ 6)

/-- The 32-bit little-endian word of four bytes (R2, R24). -/
def wordOf (b0 b1 b2 b3 : BitVec 8) : Nat :=
  b0.toNat + b1.toNat * 2 ^ 8 + b2.toNat * 2 ^ 16 + b3.toNat * 2 ^ 24

/-- Why bytes hold no instruction: fewer bytes than its words take (R24, R25). -/
inductive DecodeError where
  | tooShort
  deriving DecidableEq, Repr

/-- One instruction from the head of a list of bytes, with the bytes after it (R24: one word, or two for a long
instruction). -/
def decodeBytes (store : Bool) : List (BitVec 8) → Except DecodeError (Instr × List (BitVec 8))
  | b0 :: b1 :: b2 :: b3 :: rest =>
    if isLong (wordOf b0 b1 b2 b3) then
      match rest with
      | c0 :: c1 :: c2 :: c3 :: rest' =>
        .ok (decodeStream store (wordOf b0 b1 b2 b3) (wordOf c0 c1 c2 c3), rest')
      | _ => .error .tooShort
    else .ok (decodeStream store (wordOf b0 b1 b2 b3) 0, rest)
  | _ => .error .tooShort

/-- `n` bytes of a number, lowest first. -/
def bytesOf (w : Nat) : Nat → List (BitVec 8)
  | 0 => []
  | n + 1 => BitVec.ofNat 8 w :: bytesOf (w / 2 ^ 8) n

/-- What the decoders read from an instruction whose bits are `w`, its first word lowest: the stream decoder first
(a sequencer reads the words it fetches by it alone), and for a word it reserves, the micro-order decoder. The two
share one 32-bit space, and nothing in a word says which store it stands in. -/
noncomputable def decodeTableWord (_nbits w : Nat) : Option Instr :=
  match decodeBytes false (bytesOf w 8) with
  | .ok (.reservedEncoding v, _) =>
    match decodeMicro v.toNat with
    | .reservedOp7 _ => none
    | i => some i
  | .ok (i, _) => some i
  | .error _ => none

/-- The extension word (R30). -/
def encodeExt (x : Ext) : BitVec 32 :=
  BitVec.ofNat 32 (x.d1.toNat * 2 ^ 27 + x.d2.toNat * 2 ^ 22 + x.d3.toNat * 2 ^ 17 + x.np.toNat * 2 ^ 12 +
    x.ev.toNat * 2 ^ 8 + x.post.toNat * 2 ^ 7 + x.q.toNat * 2 ^ 4 + x.t.toNat)

/-- A word of fixed bits `m` with fields at [25:21], [20:16], [15:11], [3:0]. -/
def lay0 (m : Nat) (f0 : BitVec 5) (f1 : BitVec 5) (f2 : BitVec 5) (f3 : BitVec 4) : BitVec 32 :=
  BitVec.ofNat 32 (m + f0.toNat * 2 ^ 21 + f1.toNat * 2 ^ 16 + f2.toNat * 2 ^ 11 + f3.toNat * 2 ^ 0)

/-- A word of fixed bits `m` with fields at [25:21], [20:16], [3:0]. -/
def lay1 (m : Nat) (f0 : BitVec 5) (f1 : BitVec 5) (f2 : BitVec 4) : BitVec 32 :=
  BitVec.ofNat 32 (m + f0.toNat * 2 ^ 21 + f1.toNat * 2 ^ 16 + f2.toNat * 2 ^ 0)

/-- A word of fixed bits `m` with fields at [25:21], [20:16], [15:4], [3:0]. -/
def lay2 (m : Nat) (f0 : BitVec 5) (f1 : BitVec 5) (f2 : BitVec 12) (f3 : BitVec 4) : BitVec 32 :=
  BitVec.ofNat 32 (m + f0.toNat * 2 ^ 21 + f1.toNat * 2 ^ 16 + f2.toNat * 2 ^ 4 + f3.toNat * 2 ^ 0)

/-- A word of fixed bits `m` with fields at [25:21], [20:16], [9:4], [3:0]. -/
def lay3 (m : Nat) (f0 : BitVec 5) (f1 : BitVec 5) (f2 : BitVec 6) (f3 : BitVec 4) : BitVec 32 :=
  BitVec.ofNat 32 (m + f0.toNat * 2 ^ 21 + f1.toNat * 2 ^ 16 + f2.toNat * 2 ^ 4 + f3.toNat * 2 ^ 0)

/-- A word of fixed bits `m` with fields at [25:21], [20:0]. -/
def lay4 (m : Nat) (f0 : BitVec 5) (f1 : BitVec 21) : BitVec 32 :=
  BitVec.ofNat 32 (m + f0.toNat * 2 ^ 21 + f1.toNat * 2 ^ 0)

/-- A word of fixed bits `m` with fields at [25:21], [20:16], [15:14], [13:4], [3:0]. -/
def lay5 (m : Nat) (f0 : BitVec 5) (f1 : BitVec 5) (f2 : BitVec 2) (f3 : BitVec 10) (f4 : BitVec 4) : BitVec 32 :=
  BitVec.ofNat 32 (m + f0.toNat * 2 ^ 21 + f1.toNat * 2 ^ 16 + f2.toNat * 2 ^ 14 + f3.toNat * 2 ^ 4 + f4.toNat * 2 ^ 0)

/-- A word of fixed bits `m` with fields at [25:21], [20:11], [3:0]. -/
def lay6 (m : Nat) (f0 : BitVec 5) (f1 : BitVec 10) (f2 : BitVec 4) : BitVec 32 :=
  BitVec.ofNat 32 (m + f0.toNat * 2 ^ 21 + f1.toNat * 2 ^ 11 + f2.toNat * 2 ^ 0)

/-- A word of fixed bits `m` with fields at [25:21], [20:16], [15:11], [10:9], [8:8], [3:0]. -/
def lay7 (m : Nat) (f0 : BitVec 5) (f1 : BitVec 5) (f2 : BitVec 5) (f3 : BitVec 2) (f4 : BitVec 1) (f5 : BitVec 4) : BitVec 32 :=
  BitVec.ofNat 32 (m + f0.toNat * 2 ^ 21 + f1.toNat * 2 ^ 16 + f2.toNat * 2 ^ 11 + f3.toNat * 2 ^ 9 + f4.toNat * 2 ^ 8 + f5.toNat * 2 ^ 0)

/-- A word of fixed bits `m` with fields at [25:21], [20:16], [15:11], [10:9], [3:0]. -/
def lay8 (m : Nat) (f0 : BitVec 5) (f1 : BitVec 5) (f2 : BitVec 5) (f3 : BitVec 2) (f4 : BitVec 4) : BitVec 32 :=
  BitVec.ofNat 32 (m + f0.toNat * 2 ^ 21 + f1.toNat * 2 ^ 16 + f2.toNat * 2 ^ 11 + f3.toNat * 2 ^ 9 + f4.toNat * 2 ^ 0)

/-- A word of fixed bits `m` with fields at [15:13], [12:8], [3:0]. -/
def lay9 (m : Nat) (f0 : BitVec 3) (f1 : BitVec 5) (f2 : BitVec 4) : BitVec 32 :=
  BitVec.ofNat 32 (m + f0.toNat * 2 ^ 13 + f1.toNat * 2 ^ 8 + f2.toNat * 2 ^ 0)

/-- A word of fixed bits `m` with fields at [3:0]. -/
def lay10 (m : Nat) (f0 : BitVec 4) : BitVec 32 :=
  BitVec.ofNat 32 (m + f0.toNat * 2 ^ 0)

/-- A word of fixed bits `m` with fields at [25:21], [20:16], [12:0]. -/
def lay11 (m : Nat) (f0 : BitVec 5) (f1 : BitVec 5) (f2 : BitVec 13) : BitVec 32 :=
  BitVec.ofNat 32 (m + f0.toNat * 2 ^ 21 + f1.toNat * 2 ^ 16 + f2.toNat * 2 ^ 0)

/-- A word of fixed bits `m` with fields at [24:21], [12:0]. -/
def lay12 (m : Nat) (f0 : BitVec 4) (f1 : BitVec 13) : BitVec 32 :=
  BitVec.ofNat 32 (m + f0.toNat * 2 ^ 21 + f1.toNat * 2 ^ 0)

/-- A word of fixed bits `m` with fields at [20:16], [15:4], [3:0]. -/
def lay13 (m : Nat) (f0 : BitVec 5) (f1 : BitVec 12) (f2 : BitVec 4) : BitVec 32 :=
  BitVec.ofNat 32 (m + f0.toNat * 2 ^ 16 + f1.toNat * 2 ^ 4 + f2.toNat * 2 ^ 0)

/-- A word of fixed bits `m` with fields at [13:8], [7:4], [3:0]. -/
def lay14 (m : Nat) (f0 : BitVec 6) (f1 : BitVec 4) (f2 : BitVec 4) : BitVec 32 :=
  BitVec.ofNat 32 (m + f0.toNat * 2 ^ 8 + f1.toNat * 2 ^ 4 + f2.toNat * 2 ^ 0)

/-- A word of fixed bits `m` with fields at [25:21], [7:4], [3:0]. -/
def lay15 (m : Nat) (f0 : BitVec 5) (f1 : BitVec 4) (f2 : BitVec 4) : BitVec 32 :=
  BitVec.ofNat 32 (m + f0.toNat * 2 ^ 21 + f1.toNat * 2 ^ 4 + f2.toNat * 2 ^ 0)

/-- A word of fixed bits `m` with fields at [25:21], [13:4], [3:0]. -/
def lay16 (m : Nat) (f0 : BitVec 5) (f1 : BitVec 10) (f2 : BitVec 4) : BitVec 32 :=
  BitVec.ofNat 32 (m + f0.toNat * 2 ^ 21 + f1.toNat * 2 ^ 4 + f2.toNat * 2 ^ 0)

/-- A word of fixed bits `m` with fields at [25:21], [20:16], [13:4], [3:0]. -/
def lay17 (m : Nat) (f0 : BitVec 5) (f1 : BitVec 5) (f2 : BitVec 10) (f3 : BitVec 4) : BitVec 32 :=
  BitVec.ofNat 32 (m + f0.toNat * 2 ^ 21 + f1.toNat * 2 ^ 16 + f2.toNat * 2 ^ 4 + f3.toNat * 2 ^ 0)

/-- A word of fixed bits `m` with fields at [11:4], [3:0]. -/
def lay18 (m : Nat) (f0 : BitVec 8) (f1 : BitVec 4) : BitVec 32 :=
  BitVec.ofNat 32 (m + f0.toNat * 2 ^ 4 + f1.toNat * 2 ^ 0)

/-- A word of fixed bits `m` with fields at [20:16], [3:0]. -/
def lay19 (m : Nat) (f0 : BitVec 5) (f1 : BitVec 4) : BitVec 32 :=
  BitVec.ofNat 32 (m + f0.toNat * 2 ^ 16 + f1.toNat * 2 ^ 0)

/-- A word of fixed bits `m` with fields at [25:21], [20:16], [10:9], [3:0]. -/
def lay20 (m : Nat) (f0 : BitVec 5) (f1 : BitVec 5) (f2 : BitVec 2) (f3 : BitVec 4) : BitVec 32 :=
  BitVec.ofNat 32 (m + f0.toNat * 2 ^ 21 + f1.toNat * 2 ^ 16 + f2.toNat * 2 ^ 9 + f3.toNat * 2 ^ 0)

/-- A word of fixed bits `m` with fields at [25:21], [20:16], [9:9], [3:0]. -/
def lay21 (m : Nat) (f0 : BitVec 5) (f1 : BitVec 5) (f2 : BitVec 1) (f3 : BitVec 4) : BitVec 32 :=
  BitVec.ofNat 32 (m + f0.toNat * 2 ^ 21 + f1.toNat * 2 ^ 16 + f2.toNat * 2 ^ 9 + f3.toNat * 2 ^ 0)

/-- A word of fixed bits `m` with fields at [25:21], [20:5], [3:0]. -/
def lay22 (m : Nat) (f0 : BitVec 5) (f1 : BitVec 16) (f2 : BitVec 4) : BitVec 32 :=
  BitVec.ofNat 32 (m + f0.toNat * 2 ^ 21 + f1.toNat * 2 ^ 5 + f2.toNat * 2 ^ 0)

/-- A word of fixed bits `m` with fields at [20:16], [6:4], [3:0]. -/
def lay23 (m : Nat) (f0 : BitVec 5) (f1 : BitVec 3) (f2 : BitVec 4) : BitVec 32 :=
  BitVec.ofNat 32 (m + f0.toNat * 2 ^ 16 + f1.toNat * 2 ^ 4 + f2.toNat * 2 ^ 0)

/-- A word of fixed bits `m` with fields at [20:16], [14:4], [3:0]. -/
def lay24 (m : Nat) (f0 : BitVec 5) (f1 : BitVec 11) (f2 : BitVec 4) : BitVec 32 :=
  BitVec.ofNat 32 (m + f0.toNat * 2 ^ 16 + f1.toNat * 2 ^ 4 + f2.toNat * 2 ^ 0)

/-- A word of fixed bits `m` with fields at [20:16], [15:11], [3:0]. -/
def lay25 (m : Nat) (f0 : BitVec 5) (f1 : BitVec 5) (f2 : BitVec 4) : BitVec 32 :=
  BitVec.ofNat 32 (m + f0.toNat * 2 ^ 16 + f1.toNat * 2 ^ 11 + f2.toNat * 2 ^ 0)

/-- A word of fixed bits `m` with fields at [20:16], [13:11], [3:0]. -/
def lay26 (m : Nat) (f0 : BitVec 5) (f1 : BitVec 3) (f2 : BitVec 4) : BitVec 32 :=
  BitVec.ofNat 32 (m + f0.toNat * 2 ^ 16 + f1.toNat * 2 ^ 11 + f2.toNat * 2 ^ 0)

/-- A word of fixed bits `m` with fields at [20:16], [13:4], [3:0]. -/
def lay27 (m : Nat) (f0 : BitVec 5) (f1 : BitVec 10) (f2 : BitVec 4) : BitVec 32 :=
  BitVec.ofNat 32 (m + f0.toNat * 2 ^ 16 + f1.toNat * 2 ^ 4 + f2.toNat * 2 ^ 0)

/-- A word of fixed bits `m` with fields at [22:21], [20:16], [13:4], [3:0]. -/
def lay28 (m : Nat) (f0 : BitVec 2) (f1 : BitVec 5) (f2 : BitVec 10) (f3 : BitVec 4) : BitVec 32 :=
  BitVec.ofNat 32 (m + f0.toNat * 2 ^ 21 + f1.toNat * 2 ^ 16 + f2.toNat * 2 ^ 4 + f3.toNat * 2 ^ 0)

/-- A word of fixed bits `m` with fields at [21:21], [20:16], [13:4], [3:0]. -/
def lay29 (m : Nat) (f0 : BitVec 1) (f1 : BitVec 5) (f2 : BitVec 10) (f3 : BitVec 4) : BitVec 32 :=
  BitVec.ofNat 32 (m + f0.toNat * 2 ^ 21 + f1.toNat * 2 ^ 16 + f2.toNat * 2 ^ 4 + f3.toNat * 2 ^ 0)

/-- A word of fixed bits `m` with fields at [20:16], [15:11], [10:6], [5:5], [4:4]. -/
def lay30 (m : Nat) (f0 : BitVec 5) (f1 : BitVec 5) (f2 : BitVec 5) (f3 : BitVec 1) (f4 : BitVec 1) : BitVec 32 :=
  BitVec.ofNat 32 (m + f0.toNat * 2 ^ 16 + f1.toNat * 2 ^ 11 + f2.toNat * 2 ^ 6 + f3.toNat * 2 ^ 5 + f4.toNat * 2 ^ 4)

/-- A word of fixed bits `m` with fields at [20:16], [15:11], [10:6], [5:5]. -/
def lay31 (m : Nat) (f0 : BitVec 5) (f1 : BitVec 5) (f2 : BitVec 5) (f3 : BitVec 1) : BitVec 32 :=
  BitVec.ofNat 32 (m + f0.toNat * 2 ^ 16 + f1.toNat * 2 ^ 11 + f2.toNat * 2 ^ 6 + f3.toNat * 2 ^ 5)

/-- A word of fixed bits `m` with fields at [20:16], [15:11], [10:6], [4:4]. -/
def lay32 (m : Nat) (f0 : BitVec 5) (f1 : BitVec 5) (f2 : BitVec 5) (f3 : BitVec 1) : BitVec 32 :=
  BitVec.ofNat 32 (m + f0.toNat * 2 ^ 16 + f1.toNat * 2 ^ 11 + f2.toNat * 2 ^ 6 + f3.toNat * 2 ^ 4)

/-- A word of fixed bits `m` with fields at [22:21], [15:11], [10:6], [4:4]. -/
def lay33 (m : Nat) (f0 : BitVec 2) (f1 : BitVec 5) (f2 : BitVec 5) (f3 : BitVec 1) : BitVec 32 :=
  BitVec.ofNat 32 (m + f0.toNat * 2 ^ 21 + f1.toNat * 2 ^ 11 + f2.toNat * 2 ^ 6 + f3.toNat * 2 ^ 4)

/-- A word of fixed bits `m` with fields at [20:16], [15:11], [10:6]. -/
def lay34 (m : Nat) (f0 : BitVec 5) (f1 : BitVec 5) (f2 : BitVec 5) : BitVec 32 :=
  BitVec.ofNat 32 (m + f0.toNat * 2 ^ 16 + f1.toNat * 2 ^ 11 + f2.toNat * 2 ^ 6)

/-- A word of fixed bits `m` with fields at [25:21], [20:16], [15:11], [10:6]. -/
def lay35 (m : Nat) (f0 : BitVec 5) (f1 : BitVec 5) (f2 : BitVec 5) (f3 : BitVec 5) : BitVec 32 :=
  BitVec.ofNat 32 (m + f0.toNat * 2 ^ 21 + f1.toNat * 2 ^ 16 + f2.toNat * 2 ^ 11 + f3.toNat * 2 ^ 6)

/-- A word of fixed bits `m` with fields at none. -/
def lay36 (m : Nat) : BitVec 32 :=
  BitVec.ofNat 32 (m)

/-- A word of fixed bits `m` with fields at [23:21], [20:16], [15:11], [10:6]. -/
def lay37 (m : Nat) (f0 : BitVec 3) (f1 : BitVec 5) (f2 : BitVec 5) (f3 : BitVec 5) : BitVec 32 :=
  BitVec.ofNat 32 (m + f0.toNat * 2 ^ 21 + f1.toNat * 2 ^ 16 + f2.toNat * 2 ^ 11 + f3.toNat * 2 ^ 6)

/-- A word of fixed bits `m` with fields at [22:21], [20:16], [15:11], [10:6]. -/
def lay38 (m : Nat) (f0 : BitVec 2) (f1 : BitVec 5) (f2 : BitVec 5) (f3 : BitVec 5) : BitVec 32 :=
  BitVec.ofNat 32 (m + f0.toNat * 2 ^ 21 + f1.toNat * 2 ^ 16 + f2.toNat * 2 ^ 11 + f3.toNat * 2 ^ 6)

/-- A word of fixed bits `m` with fields at [25:21], [20:16], [10:6]. -/
def lay39 (m : Nat) (f0 : BitVec 5) (f1 : BitVec 5) (f2 : BitVec 5) : BitVec 32 :=
  BitVec.ofNat 32 (m + f0.toNat * 2 ^ 21 + f1.toNat * 2 ^ 16 + f2.toNat * 2 ^ 6)

/-- A word of fixed bits `m` with fields at [20:16]. -/
def lay40 (m : Nat) (f0 : BitVec 5) : BitVec 32 :=
  BitVec.ofNat 32 (m + f0.toNat * 2 ^ 16)

/-- A word of fixed bits `m` with fields at [25:21], [20:16], [15:11], [10:6], [3:3], [2:2]. -/
def lay41 (m : Nat) (f0 : BitVec 5) (f1 : BitVec 5) (f2 : BitVec 5) (f3 : BitVec 5) (f4 : BitVec 1) (f5 : BitVec 1) : BitVec 32 :=
  BitVec.ofNat 32 (m + f0.toNat * 2 ^ 21 + f1.toNat * 2 ^ 16 + f2.toNat * 2 ^ 11 + f3.toNat * 2 ^ 6 + f4.toNat * 2 ^ 3 + f5.toNat * 2 ^ 2)

/-- A word of fixed bits `m` with fields at [25:21], [20:16], [15:11]. -/
def lay42 (m : Nat) (f0 : BitVec 5) (f1 : BitVec 5) (f2 : BitVec 5) : BitVec 32 :=
  BitVec.ofNat 32 (m + f0.toNat * 2 ^ 21 + f1.toNat * 2 ^ 16 + f2.toNat * 2 ^ 11)

/-- A word of fixed bits `m` with fields at [25:21], [20:16]. -/
def lay43 (m : Nat) (f0 : BitVec 5) (f1 : BitVec 5) : BitVec 32 :=
  BitVec.ofNat 32 (m + f0.toNat * 2 ^ 21 + f1.toNat * 2 ^ 16)

/-- A word of fixed bits `m` with fields at [24:18], [17:11], [3:0]. -/
def lay44 (m : Nat) (f0 : BitVec 7) (f1 : BitVec 7) (f2 : BitVec 4) : BitVec 32 :=
  BitVec.ofNat 32 (m + f0.toNat * 2 ^ 18 + f1.toNat * 2 ^ 11 + f2.toNat * 2 ^ 0)

/-- A word of fixed bits `m` with fields at [24:18], [17:11], [10:4], [2:0]. -/
def lay45 (m : Nat) (f0 : BitVec 7) (f1 : BitVec 7) (f2 : BitVec 7) (f3 : BitVec 3) : BitVec 32 :=
  BitVec.ofNat 32 (m + f0.toNat * 2 ^ 18 + f1.toNat * 2 ^ 11 + f2.toNat * 2 ^ 4 + f3.toNat * 2 ^ 0)

/-- A word of fixed bits `m` with fields at [24:18], [17:11], [10:4], [3:0]. -/
def lay46 (m : Nat) (f0 : BitVec 7) (f1 : BitVec 7) (f2 : BitVec 7) (f3 : BitVec 4) : BitVec 32 :=
  BitVec.ofNat 32 (m + f0.toNat * 2 ^ 18 + f1.toNat * 2 ^ 11 + f2.toNat * 2 ^ 4 + f3.toNat * 2 ^ 0)

/-- A word of fixed bits `m` with fields at [20:18], [17:11], [10:4], [3:0]. -/
def lay47 (m : Nat) (f0 : BitVec 3) (f1 : BitVec 7) (f2 : BitVec 7) (f3 : BitVec 4) : BitVec 32 :=
  BitVec.ofNat 32 (m + f0.toNat * 2 ^ 18 + f1.toNat * 2 ^ 11 + f2.toNat * 2 ^ 4 + f3.toNat * 2 ^ 0)

/-- A word of fixed bits `m` with fields at [24:18], [12:11], [2:0]. -/
def lay48 (m : Nat) (f0 : BitVec 7) (f1 : BitVec 2) (f2 : BitVec 3) : BitVec 32 :=
  BitVec.ofNat 32 (m + f0.toNat * 2 ^ 18 + f1.toNat * 2 ^ 11 + f2.toNat * 2 ^ 0)

/-- A word of fixed bits `m` with fields at [18:18], [17:11], [2:0]. -/
def lay49 (m : Nat) (f0 : BitVec 1) (f1 : BitVec 7) (f2 : BitVec 3) : BitVec 32 :=
  BitVec.ofNat 32 (m + f0.toNat * 2 ^ 18 + f1.toNat * 2 ^ 11 + f2.toNat * 2 ^ 0)

/-- A word of fixed bits `m` with fields at [24:18], [16:14], [13:11], [10:8], [3:0]. -/
def lay50 (m : Nat) (f0 : BitVec 7) (f1 : BitVec 3) (f2 : BitVec 3) (f3 : BitVec 3) (f4 : BitVec 4) : BitVec 32 :=
  BitVec.ofNat 32 (m + f0.toNat * 2 ^ 18 + f1.toNat * 2 ^ 14 + f2.toNat * 2 ^ 11 + f3.toNat * 2 ^ 8 + f4.toNat * 2 ^ 0)

/-- A word of fixed bits `m` with fields at [24:18], [15:14], [13:11], [10:8], [3:0]. -/
def lay51 (m : Nat) (f0 : BitVec 7) (f1 : BitVec 2) (f2 : BitVec 3) (f3 : BitVec 3) (f4 : BitVec 4) : BitVec 32 :=
  BitVec.ofNat 32 (m + f0.toNat * 2 ^ 18 + f1.toNat * 2 ^ 14 + f2.toNat * 2 ^ 11 + f3.toNat * 2 ^ 8 + f4.toNat * 2 ^ 0)

/-- A word of fixed bits `m` with fields at [20:18], [17:2]. -/
def lay52 (m : Nat) (f0 : BitVec 3) (f1 : BitVec 16) : BitVec 32 :=
  BitVec.ofNat 32 (m + f0.toNat * 2 ^ 18 + f1.toNat * 2 ^ 2)

/-- A word of fixed bits `m` with fields at [24:18], [5:2]. -/
def lay53 (m : Nat) (f0 : BitVec 7) (f1 : BitVec 4) : BitVec 32 :=
  BitVec.ofNat 32 (m + f0.toNat * 2 ^ 18 + f1.toNat * 2 ^ 2)

/-- A word of fixed bits `m` with fields at [24:18], [17:2]. -/
def lay54 (m : Nat) (f0 : BitVec 7) (f1 : BitVec 16) : BitVec 32 :=
  BitVec.ofNat 32 (m + f0.toNat * 2 ^ 18 + f1.toNat * 2 ^ 2)

/-- A word of fixed bits `m` with fields at [20:18], [13:11], [6:4], [3:0]. -/
def lay55 (m : Nat) (f0 : BitVec 3) (f1 : BitVec 3) (f2 : BitVec 3) (f3 : BitVec 4) : BitVec 32 :=
  BitVec.ofNat 32 (m + f0.toNat * 2 ^ 18 + f1.toNat * 2 ^ 11 + f2.toNat * 2 ^ 4 + f3.toNat * 2 ^ 0)

/-- A word of fixed bits `m` with fields at [20:18], [13:11], [3:0]. -/
def lay56 (m : Nat) (f0 : BitVec 3) (f1 : BitVec 3) (f2 : BitVec 4) : BitVec 32 :=
  BitVec.ofNat 32 (m + f0.toNat * 2 ^ 18 + f1.toNat * 2 ^ 11 + f2.toNat * 2 ^ 0)

/-- A word of fixed bits `m` with fields at [20:18], [17:11], [3:0]. -/
def lay57 (m : Nat) (f0 : BitVec 3) (f1 : BitVec 7) (f2 : BitVec 4) : BitVec 32 :=
  BitVec.ofNat 32 (m + f0.toNat * 2 ^ 18 + f1.toNat * 2 ^ 11 + f2.toNat * 2 ^ 0)

/-- The words of an instruction or micro-order (R26, R41 to R44, R46); none for a step of the module, which no
word stands for. A reserved word encodes as itself. -/
def encode : Instr → List (BitVec 32)
  | .add d a b t => [lay0 16 d a b t]
  | .sub d a b t => [lay0 32 d a b t]
  | .and d a b t => [lay0 48 d a b t]
  | .or d a b t => [lay0 64 d a b t]
  | .xor d a b t => [lay0 80 d a b t]
  | .andn d a b t => [lay0 96 d a b t]
  | .orn d a b t => [lay0 112 d a b t]
  | .sll d a b t => [lay0 128 d a b t]
  | .srl d a b t => [lay0 144 d a b t]
  | .sra d a b t => [lay0 160 d a b t]
  | .ror d a b t => [lay0 176 d a b t]
  | .slt d a b t => [lay0 192 d a b t]
  | .sltu d a b t => [lay0 208 d a b t]
  | .min d a b t => [lay0 224 d a b t]
  | .max d a b t => [lay0 240 d a b t]
  | .minu d a b t => [lay0 256 d a b t]
  | .maxu d a b t => [lay0 272 d a b t]
  | .mul d a b t => [lay0 288 d a b t]
  | .mulh d a b t => [lay0 304 d a b t]
  | .mulhu d a b t => [lay0 320 d a b t]
  | .div d a b t => [lay0 336 d a b t]
  | .divu d a b t => [lay0 352 d a b t]
  | .rem d a b t => [lay0 368 d a b t]
  | .remu d a b t => [lay0 384 d a b t]
  | .addw d a b t => [lay0 400 d a b t]
  | .subw d a b t => [lay0 416 d a b t]
  | .clz d a t => [lay1 432 d a t]
  | .ctz d a t => [lay1 448 d a t]
  | .popc d a t => [lay1 464 d a t]
  | .sextw d a t => [lay1 480 d a t]
  | .zextw d a t => [lay1 496 d a t]
  | .pack d a b t => [lay0 512 d a b t]
  | .sh1add d a b t => [lay0 528 d a b t]
  | .sh2add d a b t => [lay0 544 d a b t]
  | .sh3add d a b t => [lay0 560 d a b t]
  | .addi d a i t => [lay2 67108864 d a i t]
  | .andi d a i t => [lay2 134217728 d a i t]
  | .ori d a i t => [lay2 201326592 d a i t]
  | .xori d a i t => [lay2 268435456 d a i t]
  | .slli d a s t => [lay3 335544320 d a s t]
  | .srli d a s t => [lay3 335560704 d a s t]
  | .srai d a s t => [lay3 335577088 d a s t]
  | .rori d a s t => [lay3 335593472 d a s t]
  | .slti d a i t => [lay2 402653184 d a i t]
  | .sltiu d a i t => [lay2 469762048 d a i t]
  | .lui d i => [lay4 536870912 d i]
  | .adpc d i => [lay4 603979776 d i]
  | .ld d a w i t => [lay5 671088640 d a w i t]
  | .ldu d a w i t => [lay5 738197504 d a w i t]
  | .st b a w i t => [lay5 805306368 b a w i t]
  | .sts b a w i t => [lay5 872415232 b a w i t]
  | .ldsp d o t => [lay6 939524096 d o t]
  | .stsp s o t => [lay6 1006632960 s o t]
  | .amoadd d a b o w t => [lay7 1073741840 d a b o w t]
  | .amoand d a b o w t => [lay7 1073741856 d a b o w t]
  | .amoor d a b o w t => [lay7 1073741872 d a b o w t]
  | .amoxor d a b o w t => [lay7 1073741888 d a b o w t]
  | .amomin d a b o w t => [lay7 1073741904 d a b o w t]
  | .amomax d a b o w t => [lay7 1073741920 d a b o w t]
  | .amominu d a b o w t => [lay7 1073741936 d a b o w t]
  | .amomaxu d a b o w t => [lay7 1073741952 d a b o w t]
  | .amoswap d a b o w t => [lay7 1073741968 d a b o w t]
  | .amocas d a b o w t => [lay7 1073741984 d a b o w t]
  | .amofadd d a b o t => [lay8 1073742256 d a b o t]
  | .fence s k t => [lay9 1140850688 s k t]
  | .mark t => [lay10 1207959552 t]
  | .beq a b o => [lay11 1275068416 a b o]
  | .bne a b o => [lay11 1275076608 a b o]
  | .blt a b o => [lay11 1275084800 a b o]
  | .bge a b o => [lay11 1275092992 a b o]
  | .bltu a b o => [lay11 1275101184 a b o]
  | .bgeu a b o => [lay11 1275109376 a b o]
  | .bcqs n o => [lay12 1342177280 n o]
  | .bcqc n o => [lay12 1342185472 n o]
  | .bcqsK n o => [lay12 1342193664 n o]
  | .bcqcK n o => [lay12 1342201856 n o]
  | .jal d o => [lay4 1409286144 d o]
  | .jalr d a i t => [lay2 1476395008 d a i t]
  | .cqp a i t => [lay13 1543503872 a i t]
  | .evpost n e t => [lay14 1610612736 n e t]
  | .evwait n e t => [lay14 1610629120 n e t]
  | .evclr d e t => [lay15 1610645504 d e t]
  | .wfe t => [lay10 1610661888 t]
  | .csrr d n t => [lay16 1677721600 d n t]
  | .csrw d a n t => [lay17 1677737984 d a n t]
  | .csrs d a n t => [lay17 1677754368 d a n t]
  | .csrc d a n t => [lay17 1677770752 d a n t]
  | .nop t => [lay10 1744830464 t]
  | .trap c t => [lay18 1744834560 c t]
  | .hbeat t => [lay10 1744838656 t]
  | .yield t => [lay10 1744842752 t]
  | .exit a t => [lay19 1744846848 a t]
  | .cwait a t => [lay19 1744850944 a t]
  | .fadd d a b r t => [lay8 1811939360 d a b r t]
  | .fsub d a b r t => [lay8 1811939392 d a b r t]
  | .fmul d a b r t => [lay8 1811939424 d a b r t]
  | .fdiv d a b r t => [lay8 1811939456 d a b r t]
  | .fsqrt d a r t => [lay20 1811939488 d a r t]
  | .fmac d a b r t => [lay8 1811939520 d a b r t]
  | .fmin d a b t => [lay0 1811939552 d a b t]
  | .fmax d a b t => [lay0 1811939584 d a b t]
  | .feq d a b t => [lay0 1811939616 d a b t]
  | .flt d a b t => [lay0 1811939648 d a b t]
  | .fle d a b t => [lay0 1811939680 d a b t]
  | .fitof d a r t => [lay20 1811939712 d a r t]
  | .fftoi d a r t => [lay21 1811939744 d a r t]
  | .fli d i t => [lay22 1811939344 d i t]
  | .tcfg a n t => [lay23 1879048192 a n t]
  | .mcfg a n t => [lay24 1879080960 a n t]
  | .barr d a t => [lay1 1946157072 d a t]
  | .bwait d a b t => [lay0 1946157088 d a b t]
  | .frd d a t => [lay1 2013265936 d a t]
  | .fwr a b t => [lay25 2013265952 a b t]
  | .depdec a t => [lay19 2080374800 a t]
  | .trig t => [lay10 2080374816 t]
  | .shapew a n t => [lay26 2080374832 a n t]
  | .gshape a i t => [lay27 2147483648 a i t]
  | .gbr a i t => [lay27 2147500032 a i t]
  | .ghlth a i t => [lay27 2147516416 a i t]
  | .vld q a i t => [lay28 2214592512 q a i t]
  | .vst q a i t => [lay29 2214592512 q a i t]
  | .cpy ds ss a b c x => [lay30 3221225473 a b c ds ss, encodeExt x]
  | .cpy2 ds ss a b c x => [lay30 3221225474 a b c ds ss, encodeExt x]
  | .cpy3 ds ss a b c x => [lay30 3221225475 a b c ds ss, encodeExt x]
  | .cpg ds ss a b c x => [lay30 3221225476 a b c ds ss, encodeExt x]
  | .cps ds ss a b c x => [lay30 3221225477 a b c ds ss, encodeExt x]
  | .cpf ds a b c x => [lay31 3221225478 a b c ds, encodeExt x]
  | .cpm ss a b c x => [lay32 3221225511 a b c ss, encodeExt x]
  | .cpq ss q b c x => [lay33 3221225480 q b c ss, encodeExt x]
  | .cprFaddF32 ds a b c x => [lay31 3288334337 a b c ds, encodeExt x]
  | .cprAddI32 ds a b c x => [lay31 3288334338 a b c ds, encodeExt x]
  | .cprAddI64 ds a b c x => [lay31 3288334339 a b c ds, encodeExt x]
  | .cprMaxF32 ds a b c x => [lay31 3288334340 a b c ds, encodeExt x]
  | .cprMinF32 ds a b c x => [lay31 3288334341 a b c ds, encodeExt x]
  | .cprMaxI32 ds a b c x => [lay31 3288334342 a b c ds, encodeExt x]
  | .cprMinI32 ds a b c x => [lay31 3288334343 a b c ds, encodeExt x]
  | .vrun a b c x => [lay34 3355443200 a b c, encodeExt x]
  | .tbload d a b c x => [lay35 3422552064 d a b c, encodeExt x]
  | .mgo x => [lay36 3489660928, encodeExt x]
  | .tld n a b c x => [lay37 3556769793 n a b c, encodeExt x]
  | .tst n a b c x => [lay37 3556769794 n a b c, encodeExt x]
  | .afill n a b c x => [lay38 3556769795 n a b c, encodeExt x]
  | .adrn n a b c x => [lay38 3556769796 n a b c, encodeExt x]
  | .tbind d a b c x => [lay35 3623878657 d a b c, encodeExt x]
  | .tmul d a c x => [lay39 3623878658 d a c, encodeExt x]
  | .tmac d a c x => [lay39 3623878659 d a c, encodeExt x]
  | .tadd d a c x => [lay39 3623878660 d a c, encodeExt x]
  | .tsub d a c x => [lay39 3623878661 d a c, encodeExt x]
  | .thad d a c x => [lay39 3623878662 d a c, encodeExt x]
  | .tscl d a b c x => [lay35 3623878663 d a b c, encodeExt x]
  | .ttrn d a c x => [lay39 3623878664 d a c, encodeExt x]
  | .tcvt d a c x => [lay39 3623878665 d a c, encodeExt x]
  | .tact d a b c x => [lay35 3623878666 d a b c, encodeExt x]
  | .tstore a b c x => [lay34 3690987521 a b c, encodeExt x]
  | .tforce a x => [lay40 3690987522 a, encodeExt x]
  | .tdrop a x => [lay40 3690987523 a, encodeExt x]
  | .miterPoly fb rel d a b c x => [lay41 3758096385 d a b c fb rel, encodeExt x]
  | .miterNs fb rel d a b c x => [lay41 3758096386 d a b c fb rel, encodeExt x]
  | .miterInv fb rel d a b c x => [lay41 3758096387 d a b c fb rel, encodeExt x]
  | .caput d a b x => [lay42 3825205249 d a b, encodeExt x]
  | .canode d a b x => [lay42 3825205250 d a b, encodeExt x]
  | .cahash a b c x => [lay34 3825205251 a b c, encodeExt x]
  | .caget a b c x => [lay34 3825205252 a b c, encodeExt x]
  | .cawalk a b c x => [lay34 3825205253 a b c, encodeExt x]
  | .caref d a b x => [lay42 3825205254 d a b, encodeExt x]
  | .caswap d a b c x => [lay35 3825205255 d a b c, encodeExt x]
  | .caout a b c x => [lay34 3825205256 a b c, encodeExt x]
  | .capin d a x => [lay43 3825205257 d a, encodeExt x]
  | .spawn d a b c x => [lay35 3892314112 d a b c, encodeExt x]
  | .reservedEncoding word => [word]
  | .reservedOp7 word => [word]
  | .vnop => [lay36 33554432]
  | .vmov d a g => [lay44 67108864 d a g]
  | .vsel d a b g => [lay45 100663304 d a b g]
  | .vaddF32 d a b g => [lay46 134217728 d a b g]
  | .vaddBf16 d a b g => [lay46 167772160 d a b g]
  | .vaddF16 d a b g => [lay46 201326592 d a b g]
  | .vsubF32 d a b g => [lay46 234881024 d a b g]
  | .vsubBf16 d a b g => [lay46 268435456 d a b g]
  | .vsubF16 d a b g => [lay46 301989888 d a b g]
  | .vmulF32 d a b g => [lay46 335544320 d a b g]
  | .vmulBf16 d a b g => [lay46 369098752 d a b g]
  | .vmulF16 d a b g => [lay46 402653184 d a b g]
  | .vfmaF32 d a b g => [lay46 436207616 d a b g]
  | .vfmaBf16 d a b g => [lay46 469762048 d a b g]
  | .vfmaF16 d a b g => [lay46 503316480 d a b g]
  | .vfmsF32 d a b g => [lay46 536870912 d a b g]
  | .vfmsBf16 d a b g => [lay46 570425344 d a b g]
  | .vfmsF16 d a b g => [lay46 603979776 d a b g]
  | .vminF32 d a b g => [lay46 637534208 d a b g]
  | .vminBf16 d a b g => [lay46 671088640 d a b g]
  | .vminF16 d a b g => [lay46 704643072 d a b g]
  | .vmaxF32 d a b g => [lay46 738197504 d a b g]
  | .vmaxBf16 d a b g => [lay46 771751936 d a b g]
  | .vmaxF16 d a b g => [lay46 805306368 d a b g]
  | .vabsF32 d a g => [lay44 838860800 d a g]
  | .vabsBf16 d a g => [lay44 872415232 d a g]
  | .vabsF16 d a g => [lay44 905969664 d a g]
  | .vnegF32 d a g => [lay44 939524096 d a g]
  | .vnegBf16 d a g => [lay44 973078528 d a g]
  | .vnegF16 d a g => [lay44 1006632960 d a g]
  | .vsqrt d a g => [lay44 1040187392 d a g]
  | .vrcp d a g => [lay44 1073741824 d a g]
  | .vrsq d a g => [lay44 1107296256 d a g]
  | .vexp2 d a g => [lay44 1140850688 d a g]
  | .vlog2 d a g => [lay44 1174405120 d a g]
  | .vtanh d a g => [lay44 1207959552 d a g]
  | .viaddI32 d a b g => [lay46 1342177280 d a b g]
  | .viaddI16 d a b g => [lay46 1375731712 d a b g]
  | .viaddI8 d a b g => [lay46 1409286144 d a b g]
  | .visubI32 d a b g => [lay46 1442840576 d a b g]
  | .visubI16 d a b g => [lay46 1476395008 d a b g]
  | .visubI8 d a b g => [lay46 1509949440 d a b g]
  | .vimulI32 d a b g => [lay46 1543503872 d a b g]
  | .vimulI16 d a b g => [lay46 1577058304 d a b g]
  | .vimulI8 d a b g => [lay46 1610612736 d a b g]
  | .viminI32 d a b g => [lay46 1644167168 d a b g]
  | .viminI16 d a b g => [lay46 1677721600 d a b g]
  | .viminI8 d a b g => [lay46 1711276032 d a b g]
  | .vimaxI32 d a b g => [lay46 1744830464 d a b g]
  | .vimaxI16 d a b g => [lay46 1778384896 d a b g]
  | .vimaxI8 d a b g => [lay46 1811939328 d a b g]
  | .viaddsI32 d a b g => [lay46 1845493760 d a b g]
  | .viaddsI16 d a b g => [lay46 1879048192 d a b g]
  | .viaddsI8 d a b g => [lay46 1912602624 d a b g]
  | .vand d a b g => [lay46 1946157056 d a b g]
  | .vor d a b g => [lay46 1979711488 d a b g]
  | .vxor d a b g => [lay46 2013265920 d a b g]
  | .vsll d a b g => [lay46 2046820352 d a b g]
  | .vsrl d a b g => [lay46 2080374784 d a b g]
  | .vsra d a b g => [lay46 2113929216 d a b g]
  | .vcmpeqF32 k a b g => [lay47 2147483648 k a b g]
  | .vcmpeqI32 k a b g => [lay47 2181038080 k a b g]
  | .vcmpltF32 k a b g => [lay47 2214592512 k a b g]
  | .vcmpltI32 k a b g => [lay47 2248146944 k a b g]
  | .vcmpleF32 k a b g => [lay47 2281701376 k a b g]
  | .vcmpleI32 k a b g => [lay47 2315255808 k a b g]
  | .vcvtBf16F32 d a g => [lay44 2348810240 d a g]
  | .vcvtF16F32 d a g => [lay44 2382364672 d a g]
  | .vcvtF32Bf16 d a g => [lay44 2415919104 d a g]
  | .vcvtF32F16 d a g => [lay44 2449473536 d a g]
  | .vcvtFp8aF32 d a g => [lay44 2483027968 d a g]
  | .vcvtFp8bF32 d a g => [lay44 2516582400 d a g]
  | .vcvtF32Fp8a d a g => [lay44 2550136832 d a g]
  | .vcvtF32Fp8b d a g => [lay44 2583691264 d a g]
  | .vcvtI32F32 d a g => [lay44 2617245696 d a g]
  | .vcvtF32I32 d a g => [lay44 2650800128 d a g]
  | .vcvtFp4xF32 d a g => [lay44 2684354560 d a g]
  | .vcvtF32Fp4x d a g => [lay44 2717908992 d a g]
  | .vrsumF32 d a g => [lay44 2751463424 d a g]
  | .vrmax d a g => [lay44 2785017856 d a g]
  | .vrmin d a g => [lay44 2818572288 d a g]
  | .vrsumI32 d a g => [lay44 2852126720 d a g]
  | .vperm d a b g => [lay46 2885681152 d a b g]
  | .vrot d a b g => [lay46 2919235584 d a b g]
  | .vbcast d a l g => [lay46 2952790016 d a l g]
  | .vpack d a b g => [lay46 2986344448 d a b g]
  | .vunpkl d a g => [lay44 3019898880 d a g]
  | .vunpkh d a g => [lay44 3053453312 d a g]
  | .vpop d q g => [lay48 3087007744 d q g]
  | .vpush q a g => [lay49 3120562176 q a g]
  | .vtr d s x p g => [lay50 3154116608 d s x p g]
  | .vtw d s x p g => [lay50 3187671040 d s x p g]
  | .var d s x p g => [lay51 3221356544 d s x p g]
  | .vaw d s x p g => [lay51 3254910976 d s x p g]
  | .vixs x i => [lay52 3288334336 x i]
  | .vixa x i => [lay52 3321888768 x i]
  | .vspl d v => [lay53 3355443200 d v]
  | .vfil d v => [lay53 3388997632 d v]
  | .vmoviF32 d i => [lay54 3422552064 d i]
  | .vmoviBf16 d i => [lay54 3456106496 d i]
  | .vmoviF16 d i => [lay54 3489660928 d i]
  | .vmoviI32 d i => [lay54 3523215360 d i]
  | .vmoviI16 d i => [lay54 3556769792 d i]
  | .vmoviI8 d i => [lay54 3590324224 d i]
  | .kand k m n g => [lay55 3623878656 k m n g]
  | .kor k m n g => [lay55 3657433088 k m n g]
  | .knot k m g => [lay56 3690987520 k m g]
  | .kmov k a g => [lay57 3724541952 k a g]
  | .instructionFetch _ => []
  | .commandStart _ _ => []
  | .commandRetire _ => []
  | .loadPerform _ => []
  | .storePerform _ => []
  | .pageWalk _ _ _ => []
  | .retry _ => []
  | .decline _ => []
  | .shootdown _ _ _ => []
  | .handlerQueueAccept _ => []
  | .handlerStart _ => []
  | .cprArrival _ => []
  | .cprAdmit _ => []
  | .cprRefusedRetry _ => []
  | .roundClose _ => []
  | .adoshRead _ _ _ => []
  | .adoshWrite _ _ _ => []
  | .adoshReadResponse _ _ _ => []
  | .adoshWriteAcknowledgement _ _ => []
  | .adoshReductionContribution _ _ _ _ => []
  | .stopNotice _ _ _ _ => []
  | .traceFetch _ _ => []
  | .reclaimer _ => []
  | .caPoolWaitTimeout _ => []
  | .dispatchDecision _ => []
  | .taskLaunch _ => []
  | .taskResume _ => []
  | .aging _ _ => []
  | .ringRefill _ _ => []
  | .overflowRingUnmapped _ _ => []
  | .spawnStallTimeout _ => []
  | .checkpoint _ _ => []
  | .teamQuantumExpiry _ => []
  | .faultStop _ => []
  | .futureWaiterDecrement => []
  | .heartbeatTimer _ => []
  | .heartbeatLoss _ => []
  | .captureCheckpointTimeout _ => []
  | .patrolScrub _ _ => []
  | .replayTraceFetch _ => []
  | .replayTaskStart _ => []
  | .semaphorePost _ _ => []
  | .commandInjection _ _ => []
  | .traceIntern _ => []
  | .refiner _ => []
  | .gangTraceFetch _ _ _ => []
  | .graphSubmission => []
  | .graphCompletion _ => []
  | .wake _ => []
  | .sqbaseWrite _ => []
  | .sqsizeWrite _ => []
  | .mbdoorWhileBusy => []
  | .bar0RegisterWrite _ _ => []
  | .config => []
  | .load => []
  | .gang => []
  | .redwin => []
  | .poolrst => []
  | .release => []
  | .holdendResume => []
  | .holdendEnd => []
  | .patch => []
  | .update => []
  | .updateRollback => []
  | .challenge => []
  | .getMeasurements _ _ => []
  | .moduleReset _ _ _ => []
  | .hostLinkStateChange _ => []
  | .adoshPortStateChange _ _ => []
  | .highTemperaturePoint _ => []
  | .thermalThrottle _ => []
  | .thermalHalt _ => []
  | .powerLimitThrottle _ _ => []
  | .coolantFlowShortfall _ => []
  | .thaWrite _ => []
  | .mictlWrite _ => []
  | .ixloIxhiWrite _ _ => []
  | .seedWrite _ => []
  | .vectorRunSwitch _ => []
  | .internPoolWaitTimeout _ => []
  | .patchWaitTimeout => []
  | .newImageFirstHeartbeat => []
  | .thermalThrottleEnd _ => []
  | .mbdoorUnknownCode => []

end Sys2Proof
end

