-- ==== Sys2Proof/Machine/Float.lean ====
section
/-! DEFINITION. Number formats, exact values and their rounding (R54 to R56, R63 to R67). A value is computed exactly
and rounded once at the end. -/

namespace Sys2Proof.Machine

/-- A floating format (R54): exponent and mantissa widths, bias, and whether the all-ones exponent is taken by
infinities and NaNs as in IEEE 754. FP8A alone is not so. -/
structure Fmt where
  ebits : Nat
  mbits : Nat
  bias : Nat
  ieee : Bool
  deriving DecidableEq, Repr

def fp32 : Fmt := ⟨8, 23, 127, true⟩
def bf16 : Fmt := ⟨8, 7, 127, true⟩
def fp16 : Fmt := ⟨5, 10, 15, true⟩
def fp8a : Fmt := ⟨4, 3, 7, false⟩
def fp8b : Fmt := ⟨5, 2, 15, true⟩

/-- An exact value: NaN, an infinity, or (-1)^neg × m × 2^e. A zero keeps its sign. A result that is no such number
(a quotient, a root) is given to more bits than any rounding reads, with its last bit set when bits remain. -/
inductive FVal where
  | nan
  | inf (neg : Bool)
  | num (neg : Bool) (m : Nat) (e : Int)
  deriving DecidableEq, Repr

/-- Rounding modes (R66); SR carries its draw. -/
inductive Rm where
  | rne
  | rz
  | sr (draw : Nat)
  deriving DecidableEq, Repr

/-- Positive zero. -/
def FVal.zero : FVal := .num false 0 0

/-- The canonical NaN of a format (R54). -/
def canon (f : Fmt) : Nat :=
  if f.ieee then (2 ^ f.ebits - 1) * 2 ^ f.mbits + (if f.mbits = 2 then 2 else 2 ^ (f.mbits - 1)) else 0x7F

/-- The value of a code (R54, R55). -/
def decodeF (f : Fmt) (c : Nat) : FVal :=
  let neg := decide (c / 2 ^ (f.ebits + f.mbits) % 2 = 1)
  let ex := c / 2 ^ f.mbits % 2 ^ f.ebits
  let m := c % 2 ^ f.mbits
  if ex = 2 ^ f.ebits - 1 ∧ f.ieee then (if m = 0 then .inf neg else .nan)
  else if ex = 2 ^ f.ebits - 1 ∧ m = 2 ^ f.mbits - 1 then .nan
  else if ex = 0 then .num neg m (1 - (f.bias : Int) - f.mbits)
  else .num neg (2 ^ f.mbits + m) ((ex : Int) - f.bias - f.mbits)

/-- The code of an infinity. -/
def infCode (f : Fmt) (neg : Bool) : Nat := bit neg * 2 ^ (f.ebits + f.mbits) + (2 ^ f.ebits - 1) * 2 ^ f.mbits

/-- The code of the largest finite value (R54). -/
def maxCode (f : Fmt) (neg : Bool) : Nat :=
  bit neg * 2 ^ (f.ebits + f.mbits) +
    (if f.ieee then (2 ^ f.ebits - 1) * 2 ^ f.mbits - 1 else 2 ^ (f.ebits + f.mbits) - 2)

/-- Whether a quotient n with remainder r out of 2^sh is rounded away from zero (R66). -/
def roundUp (rm : Rm) (n r sh : Nat) : Bool :=
  match rm with
  | .rz => false
  | .rne => decide (2 ^ sh < 2 * r) || (decide (2 * r = 2 ^ sh) && decide (n % 2 = 1))
  | .sr d => decide (d < 65536 * r / 2 ^ sh)

/-- m × 2^e rounded to a multiple of 2^q, as that multiple (R66). -/
def roundAt (rm : Rm) (m : Nat) (e q : Int) : Nat :=
  if q ≤ e then m * 2 ^ (e - q).toNat
  else
    let sh := (q - e).toNat
    let n := m / 2 ^ sh
    if roundUp rm n (m % 2 ^ sh) sh then n + 1 else n

/-- The exponent of the last place of a non-zero value in a format: subnormals share one (R54). -/
def quantum (f : Fmt) (m : Nat) (e : Int) : Int := max ((Nat.log2 m : Int) + e) (1 - (f.bias : Int)) - f.mbits

/-- The code, without sign, of n × 2^q for a rounded n: a carry out of the mantissa raises the exponent field. -/
def packF (f : Fmt) (n : Nat) (q : Int) : Nat :=
  if n < 2 ^ f.mbits then n
  else ((q + f.bias + f.mbits).toNat - 1) * 2 ^ f.mbits + n

/-- A value rounded to a format, and whether it saturated (R65, R66). Overflow past the largest finite value gives an
infinity under RNE and SR and the largest finite value under RZ; FP8A clamps and counts one saturation. -/
def roundF (f : Fmt) (rm : Rm) (x : FVal) : Nat × Bool :=
  match x with
  | .nan => (canon f, false)
  | .inf neg => if f.ieee then (infCode f neg, false) else (maxCode f neg, true)
  | .num neg m e =>
    if m = 0 then (bit neg * 2 ^ (f.ebits + f.mbits), false)
    else
      let q := quantum f m e
      let n := roundAt rm m e q
      let c := packF f n q
      if c ≤ maxCode f false then (bit neg * 2 ^ (f.ebits + f.mbits) + c, false)
      else if f.ieee then
        (match rm with
          | .rz => maxCode f neg
          | _ => infCode f neg, false)
      else (maxCode f neg, true)

/-- RNE32 and its kin: a value rounded to FP32 (R7). -/
def round32 (rm : Rm) (x : FVal) : Nat := (roundF fp32 rm x).1
/-- The value of an FP32 pattern. -/
def val32 (c : Nat) : FVal := decodeF fp32 c
/-- A value after RNE32 (R7). -/
def rne32 (x : FVal) : FVal := val32 (round32 .rne x)

/-! ### Exact arithmetic with the special values of R63 and R64 -/

/-- The negated value. -/
def FVal.neg : FVal → FVal
  | .nan => .nan
  | .inf n => .inf !n
  | .num n m e => .num (!n) m e

/-- The sign-magnitude value of an integer times 2^e; `z` is the sign of an exact zero. -/
def ofInt (i : Int) (e : Int) (z : Bool) : FVal := if i = 0 then .num z 0 0 else .num (decide (i < 0)) i.natAbs e

/-- The signed integer of a finite value at a lower exponent. -/
def scaled (neg : Bool) (m : Nat) (e q : Int) : Int :=
  let v : Int := (m * 2 ^ (e - q).toNat : Nat)
  if neg then -v else v

/-- An exact sum; a zero is +0 unless both operands are -0 (R63). -/
def FVal.add : FVal → FVal → FVal
  | .nan, _ => .nan
  | _, .nan => .nan
  | .inf a, .inf b => if a = b then .inf a else .nan
  | .inf a, _ => .inf a
  | _, .inf b => .inf b
  | .num n m e, .num n' m' e' =>
    if m = 0 ∧ m' = 0 then .num (n && n') 0 0
    else if m = 0 then .num n' m' e'
    else if m' = 0 then .num n m e
    else ofInt (scaled n m e (min e e') + scaled n' m' e' (min e e')) (min e e') false

/-- An exact difference: the sum with the negated operand, so (-0) - (-0) is +0: R63's exception for two operands -0 is
read of additions only (DESIGN CHOICE, log 93). -/
def FVal.sub (x y : FVal) : FVal := x.add y.neg

/-- An exact product; infinity times zero is NaN (R178). -/
def FVal.mul : FVal → FVal → FVal
  | .nan, _ => .nan
  | _, .nan => .nan
  | .inf a, .inf b => .inf (a != b)
  | .inf a, .num n m _ => if m = 0 then .nan else .inf (a != n)
  | .num n m _, .inf b => if m = 0 then .nan else .inf (n != b)
  | .num n m e, .num n' m' e' => if m = 0 ∨ m' = 0 then .num (n != n') 0 0 else .num (n != n') (m * m') (e + e')

/-- A quotient, exact but for its last bit (R178). -/
def FVal.div : FVal → FVal → FVal
  | .nan, _ => .nan
  | _, .nan => .nan
  | .inf _, .inf _ => .nan
  | .inf a, .num n _ _ => .inf (a != n)
  | .num n _ _, .inf b => .num (n != b) 0 0
  | .num n m e, .num n' m' e' =>
    if m' = 0 then (if m = 0 then .nan else .inf (n != n'))
    else if m = 0 then .num (n != n') 0 0
    else
      let k := Nat.log2 m' + 72
      let t := m * 2 ^ k
      .num (n != n') (2 * (t / m') + (if t % m' = 0 then 0 else 1)) (e - e' - k - 1)

/-- The integer square root, found bit by bit. -/
def isqrt (x : Nat) : Nat → Nat → Nat
  | 0, r => r
  | n + 1, r => isqrt x n (if (r + 2 ^ n) * (r + 2 ^ n) ≤ x then r + 2 ^ n else r)

/-- A square root, exact but for its last bit (R178). -/
def FVal.sqrt : FVal → FVal
  | .nan => .nan
  | .inf neg => if neg then .nan else .inf false
  | .num neg m e =>
    if m = 0 then .num neg 0 0
    else if neg then .nan
    else
      let k := 100 + (e % 2).toNat
      let t := m * 2 ^ k
      let r := isqrt t (Nat.log2 t / 2 + 1) 0
      .num false (2 * r + (if r * r = t then 0 else 1)) ((e - k) / 2 - 1)

/-- x < y of two values that are not NaN; zeros are equal. -/
def FVal.lt : FVal → FVal → Bool
  | .nan, _ => false
  | _, .nan => false
  | .inf a, .inf b => a && !b
  | .inf a, _ => a
  | _, .inf b => !b
  | .num n m e, .num n' m' e' => decide (scaled n m e (min e e') < scaled n' m' e' (min e e'))

/-- x = y; false of a NaN (R64). -/
def FVal.eq : FVal → FVal → Bool
  | .nan, _ => false
  | _, .nan => false
  | .inf a, .inf b => a == b
  | .inf _, _ => false
  | _, .inf _ => false
  | .num n m e, .num n' m' e' => decide (scaled n m e (min e e') = scaled n' m' e' (min e e'))

/-- x ≤ y; false of a NaN. -/
def FVal.le (x y : FVal) : Bool := x.lt y || x.eq y

/-- The sign of a value. -/
def FVal.isNeg : FVal → Bool
  | .nan => false
  | .inf n => n
  | .num n _ _ => n

/-- Minimum: a lone NaN gives the other operand, and -0 is below +0 (R64). -/
def FVal.min (x y : FVal) : FVal :=
  match x, y with
  | .nan, y => y
  | x, .nan => x
  | x, y => if x.lt y then x else if y.lt x then y else if x.isNeg then x else y

/-- Maximum, likewise. -/
def FVal.max (x y : FVal) : FVal :=
  match x, y with
  | .nan, y => y
  | x, .nan => x
  | x, y => if x.lt y then y else if y.lt x then x else if x.isNeg then y else x

/-- A value times 2^k. -/
def FVal.scale (x : FVal) (k : Int) : FVal :=
  match x with
  | .num n m e => .num n m (e + k)
  | x => x

/-- A finite value rounded to an integer (R65). -/
def toIntR (rm : Rm) (neg : Bool) (m : Nat) (e : Int) : Int :=
  let n : Int := (roundAt rm m e 0 : Nat)
  if neg then -n else n

/-- A conversion to a signed `w`-bit integer: NaN gives 0, and what lies beyond gives the limit (R65). -/
def toSigned (w : Nat) (rm : Rm) (x : FVal) : Int :=
  match x with
  | .nan => 0
  | .inf neg => if neg then -2 ^ (w - 1) else 2 ^ (w - 1) - 1
  | .num neg m e =>
    let i := toIntR rm neg m e
    if i < -2 ^ (w - 1) then -2 ^ (w - 1) else if 2 ^ (w - 1) - 1 < i then 2 ^ (w - 1) - 1 else i

/-- A stochastic draw (R67). -/
def draw (seed : Word) (kind seq : Nat) (j : Nat) : Nat :=
  let z := (seed.toNat + kind * 2 ^ 56 + seq * 2 ^ 40 + j * 0x9E3779B97F4A7C15) % 2 ^ 64
  let z := (z ^^^ (z / 2 ^ 30)) * 0xBF58476D1CE4E5B9 % 2 ^ 64
  let z := (z ^^^ (z / 2 ^ 27)) * 0x94D049BB133111EB % 2 ^ 64
  (z ^^^ (z / 2 ^ 31)) % 65536

/-! ### FP4X (R56, R60) -/

/-- The magnitudes of codes 0 to 7 in units of 2^-9. -/
def fp4Mags : List Nat := [0, 256, 512, 768, 1024, 1536, 2048, 3072]

/-- The value of an FP4X code in a block with an extra field (R56). -/
def decodeFp4 (extra c : Nat) : FVal :=
  if c % 16 = 8 then decodeF fp8a extra
  else .num (decide (8 ≤ c % 16)) (fp4Mags.getD (c % 8) 0) (-9)

/-- The codes with a sign and their magnitudes in units of 2^-9, least first: zero, the regular codes, and code 8
where the extra has the sign (R60). A regular code of the same magnitude comes first. -/
def fp4Side (extra : Nat) (neg : Bool) : List (Nat × Nat) :=
  let reg := (List.range 8).map fun i => (fp4Mags.getD i 0, if neg ∧ i ≠ 0 then 8 + i else i)
  match decodeF fp8a extra with
  | .num n m e =>
    let mag := m * 2 ^ (e + 9).toNat
    if m ≠ 0 ∧ n = neg ∧ !(reg.any fun p => p.1 == mag) then
      reg.filter (fun p => decide (p.1 < mag)) ++ [(mag, 8)] ++ reg.filter (fun p => decide (mag < p.1))
    else reg
  | _ => reg

/-- The rank of a code on a tie under RNE: an even regular code, any regular code, then code 8 (R60). -/
def fp4Rank (c : Nat) : Nat := if c = 8 then 2 else c % 2

/-- ENCODE of R60: m × 2^e with a sign rounded into the block's sixteen values; and whether it saturated. -/
def encodeFp4 (extra : Nat) (rm : Rm) (neg : Bool) (m : Nat) (e : Int) : Nat × Bool :=
  let side := fp4Side extra neg
  -- compare |y| with v × 2^-9 as integers at the lower of the two exponents
  let q := min e (-9)
  let y := m * 2 ^ (e - q).toNat
  let at' (v : Nat) : Nat := v * 2 ^ (-9 - q).toNat
  let lo := (side.filter fun p => decide (at' p.1 ≤ y)).getLast?.getD (0, 0)
  match side.find? fun p => decide (y < at' p.1) with
  | none => (lo.2, decide (at' lo.1 < y))
  | some hi =>
    if at' lo.1 = y then (lo.2, false)
    else
      let r := y - at' lo.1
      let w := at' hi.1 - at' lo.1
      let up :=
        match rm with
        | .rz => false
        | .rne => decide (w < 2 * r) || (decide (2 * r = w) && decide (fp4Rank hi.2 < fp4Rank lo.2))
        | .sr d => decide (d < 65536 * r / w)
      (if up then hi.2 else lo.2, false)

end Sys2Proof.Machine
end

