-- ==== Sys2Proof/Machine/Store.lean ====
section
/-! DEFINITION. Sparse stores: a list of key and value pairs, keys strictly rising. Memories are lists of
`Host.Cell`, where no listed byte equals what an unlisted address reads as (zero, R95). -/

namespace Sys2Proof.Machine

/-- The value at a key: that of the first entry with the key, else the default. -/
def Kv.get {α : Type} (d : α) : List (Nat × α) → Nat → α
  | [], _ => d
  | (k, v) :: r, a => if k = a then v else Kv.get d r a

/-- Whether a key is listed. -/
def Kv.has {α : Type} : List (Nat × α) → Nat → Bool
  | [], _ => false
  | (k, _) :: r, a => if k = a then true else Kv.has r a

/-- The store with one key set, in key order. -/
def Kv.put {α : Type} : List (Nat × α) → Nat → α → List (Nat × α)
  | [], a, v => [(a, v)]
  | (k, w) :: r, a, v =>
    if a < k then (a, v) :: (k, w) :: r else if a = k then (a, v) :: r else (k, w) :: Kv.put r a v

/-- The store without a key. -/
def Kv.del {α : Type} (l : List (Nat × α)) (a : Nat) : List (Nat × α) := l.filter fun c => decide (c.1 ≠ a)

/-- Keys strictly rising. -/
def Kv.sorted {α : Type} : List (Nat × α) → Bool
  | [] => true
  | (k, _) :: r => r.all (fun c => decide (k < c.1)) && Kv.sorted r

/-- A byte of a memory; an unlisted address reads as zero, the reset fill of R95. -/
def Mem.get (m : List Host.Cell) (a : Nat) : Byte := Kv.get 0 m a

/-- The cells of a run of bytes from an address: the non-zero ones. -/
def Mem.cells : Nat → List Byte → List Host.Cell
  | _, [] => []
  | a, b :: bs => if b = 0 then Mem.cells (a + 1) bs else (a, b) :: Mem.cells (a + 1) bs

/-- The memory with a run of bytes written from an address. -/
def Mem.write (m : List Host.Cell) (a : Nat) (bs : List Byte) : List Host.Cell :=
  m.filter (fun c => decide (c.1 < a)) ++ Mem.cells a bs ++ m.filter (fun c => decide (a + bs.length ≤ c.1))

/-- `n` bytes of a memory from an address. The cells of the range are taken out first. -/
def Mem.read (m : List Host.Cell) (a n : Nat) : List Byte :=
  let w := m.filter fun c => decide (a ≤ c.1) && decide (c.1 < a + n)
  (List.range n).map fun i => Mem.get w (a + i)

/-- The canonical form: keys strictly rising, no listed byte zero. -/
def Memory.wf (m : List Host.Cell) : Bool := Kv.sorted m && m.all fun c => decide (c.2 ≠ 0)

/-- The number whose little-endian bytes these are (R2). -/
def leNat : List Byte → Nat
  | [] => 0
  | b :: bs => b.toNat + 256 * leNat bs

/-- The `n` little-endian bytes of a number (R2). -/
def leBytes : Nat → Nat → List Byte
  | 0, _ => []
  | n + 1, x => BitVec.ofNat 8 x :: leBytes n (x / 256)

/-- `n` zero bytes. -/
def zeros (n : Nat) : List Byte := List.replicate n 0

/-- The `n` bytes from offset `o` of a list of bytes; bytes beyond its end read as zero. -/
def slice (l : List Byte) (o n : Nat) : List Byte := ((l.drop o).take n) ++ zeros (n - ((l.drop o).take n).length)

/-- The little-endian number at bytes [o, o + n) of a record. -/
def leAt (l : List Byte) (o n : Nat) : Nat := leNat ((l.drop o).take n)

/-- A record with the bytes at an offset replaced. -/
def patch (l : List Byte) (o : Nat) (bs : List Byte) : List Byte := l.take o ++ bs ++ l.drop (o + bs.length)

end Sys2Proof.Machine
end

