-- ==== Sys2Proof/Machine/Numerics.lean ====
section
/-! DEFINITION. The functions of R214, block scales (R57 to R60), the numerics profiles NP0 to NP3 and NP5 (R70 to R75)
and the bins of the exponent histogram (R76). A function value that is no exact number is given to 200 bits below its
place with its last bit set, which rounds as the exact value does. -/

namespace Sys2Proof.Machine

/-! ### Exact functions (R214) -/

/-- ln 2 in units of 2^-320. -/
def ln2Fix : Nat :=
  0xb17217f7d1cf79abc9e3b39803f2f6af40f343267298b62d8a0d175b8baafa2be7b876206debac98

/-- e^x in units of 2^-w, for x in the same units and below one: the power series from its `k`th term down. -/
def expSeries (w x : Nat) : Nat → Nat → Nat
  | 0, acc => acc
  | k + 1, acc => expSeries w x k (2 ^ w + x * acc / 2 ^ w / (k + 1))

/-- The sum of z^(2i) / (2i + 1) in units of 2^-w for z^2 = `z2`, from its `k`th term down. -/
def atanhSeries (w z2 : Nat) : Nat → Nat → Nat
  | 0, acc => acc
  | k + 1, acc => atanhSeries w z2 k (2 ^ w / (2 * k + 1) + z2 * acc / 2 ^ w)

/-- 2^a. -/
def FVal.exp2 : FVal → FVal
  | .nan => .nan
  | .inf neg => if neg then .num false 0 0 else .inf false
  | .num neg m e =>
    if m = 0 then .num false 1 0
    else if 8 ≤ (Nat.log2 m : Int) + e then .num false 1 (if neg then -400 else 400)
    else if 0 ≤ e then .num false 1 (scaled neg m e 0)
    else
      let den : Nat := 2 ^ (-e).toNat
      let a : Int := if neg then -(m : Int) else m
      let i := a / (den : Int)
      let f := (a % (den : Int)).toNat
      if f = 0 then .num false 1 i
      else .num false (expSeries 320 (f * ln2Fix / den) 90 (2 ^ 320) / 2 ^ 120 * 2 + 1) (i - 201)

/-- log2 a. -/
def FVal.log2 : FVal → FVal
  | .nan => .nan
  | .inf neg => if neg then .nan else .inf false
  | .num neg m e =>
    if m = 0 then .inf true
    else if neg then .nan
    else
      let l := Nat.log2 m
      if m = 2 ^ l then ofInt (l + e) 0 false
      else
        let z := (m - 2 ^ l) * 2 ^ 320 / (m + 2 ^ l)
        let ln := 2 * (z * atanhSeries 320 (z * z / 2 ^ 320) 120 0 / 2 ^ 320)
        let t : Int := (l + e) * 2 ^ 320 + (ln * 2 ^ 320 / ln2Fix : Nat)
        .num (decide (t < 0)) (t.natAbs / 2 ^ 120 * 2 + 1) (-201)

/-- A number squared `n` times, in units of 2^-w. -/
def squareTimes (w : Nat) : Nat → Nat → Nat
  | 0, y => y
  | n + 1, y => squareTimes w n (y * y / 2 ^ w)

/-- tanh a. Near zero it is a little nearer to zero than a; far out, a little nearer than one. -/
def FVal.tanh : FVal → FVal
  | .nan => .nan
  | .inf neg => .num neg 1 0
  | .num neg m e =>
    if m = 0 then .num neg 0 0
    else if (Nat.log2 m : Int) + e < -40 then .num neg (m * 2 ^ 80 - 1) (e - 80)
    else if 6 ≤ (Nat.log2 m : Int) + e then .num neg (2 ^ 201 - 1) (-201)
    else
      let y := squareTimes 400 8 (expSeries 400 (2 * m * 2 ^ (400 + e).toNat / 256) 100 (2 ^ 400))
      .num neg ((y - 2 ^ 400) * 2 ^ 200 / (y + 2 ^ 400) * 2 + 1) (-201)

/-- 1 / a. -/
def FVal.rcp (x : FVal) : FVal := (FVal.num false 1 0).div x

/-- 1 / √a. -/
def FVal.rsqrt : FVal → FVal
  | .nan => .nan
  | .inf neg => if neg then .nan else .num false 0 0
  | .num neg m e =>
    if m = 0 then .inf neg
    else if neg then .nan
    else
      let m := if e % 2 = 0 then m else 2 * m
      let e := if e % 2 = 0 then e else e - 1
      let k := 120 + Nat.log2 m
      let t := 2 ^ (2 * k) / m
      let r := isqrt t (Nat.log2 t / 2 + 1) 0
      .num false (2 * r + (if r * r * m = 2 ^ (2 * k) then 0 else 1)) (-(k : Int) - e / 2 - 1)

/-! ### Profiles (R70 to R75) -/

/-- The place of the leading bit of a finite non-zero value; none of any other. -/
def FVal.exponent : FVal → Option Int
  | .num _ m e => if m = 0 then none else some ((Nat.log2 m : Int) + e)
  | _ => none

/-- A finite value truncated toward zero to a multiple of 2^g, as that multiple (R70). -/
def FVal.truncTo (g : Int) : FVal → Int
  | .num n m e => scaled n (if g ≤ e then m * 2 ^ (e - g).toNat else m / 2 ^ (g - e).toNat) 0 0
  | _ => 0

/-- The sum of products, each truncated `w` places below the largest one's leading bit (R70, R71). -/
def blockSum (w : Nat) (ps : List FVal) : FVal :=
  match ps.filterMap FVal.exponent with
  | [] => .zero
  | x :: xs =>
    let g := xs.foldl max x - w
    ofInt (ps.foldl (fun s p => s + p.truncTo g) 0) g false

/-- The contribution of one pass to one element (R61, R70 to R72): the products with their k, whether a block of an
operand is a NaN block, and the power of two of the two scales. -/
def passValue (np : Nat) (ps : List (Nat × FVal)) (nanBlock : Bool) (sexp : Int) : FVal :=
  if nanBlock || ps.any (fun p => p.2 == .nan) then .nan
  else if ps.any (fun p => p.2 == .inf false) then (if ps.any (fun p => p.2 == .inf true) then .nan else .inf false)
  else if ps.any (fun p => p.2 == .inf true) then .inf true
  else if np = 0 then rne32 ((blockSum 80 (ps.map (·.2))).scale sexp)
  else
    let size := if np = 1 then 16 else 32
    let w := if np = 1 then 40 else 32
    let gs := (List.range (128 / size)).map fun g =>
      rne32 (blockSum w ((ps.filter fun p => decide (p.1 / size = g)).map (·.2)))
    let s := gs.tail.foldl (fun s g => rne32 (s.add g)) (gs.headD .zero)
    rne32 (s.scale sexp)

/-- An accumulator element after a pass (R70, R71). -/
def passAdd (np : Nat) (ps : List (Nat × FVal)) (nanBlock : Bool) (sexp : Int) (acc : BitVec 32) : BitVec 32 :=
  BitVec.ofNat 32 (round32 .rne ((val32 acc.toNat).add (passValue np ps nanBlock sexp)))

/-- One level of a tree. -/
def pairUp {α : Type} (f : α → α → α) : List α → List α
  | a :: b :: r => f a b :: pairUp f r
  | l => l

/-- A tree over 128 leaves (R73). -/
def tree128 {α : Type} (f : α → α → α) (d : α) (l : List α) : α :=
  (pairUp f (pairUp f (pairUp f (pairUp f (pairUp f (pairUp f (pairUp f l))))))).headD d

/-- NP3 (R73). -/
def np3 (l : List FVal) : FVal := tree128 (fun x y => rne32 (x.add y)) .zero l

/-! ### Formats of operands (R227, R231) and block scales -/

/-- The floating format of a descriptor's code; FP4X aside (R227). -/
def descFmt (c : Nat) : Fmt :=
  match c with
  | 0 => bf16
  | 1 => fp16
  | 2 => fp8a
  | 3 => fp8b
  | _ => fp32

/-- The width class of a format's code: 16, 8 or 4 bits; 0 of FP32, which the array refuses (R235). -/
def widthClass (c : Nat) : Nat :=
  match c with
  | 0 => 16
  | 1 => 16
  | 2 => 8
  | 3 => 8
  | 4 => 4
  | _ => 0

/-- Bytes of an element of a format that has whole bytes (R255). -/
def fmtBytes (c : Nat) : Nat :=
  match c with
  | 0 => 2
  | 1 => 2
  | 2 => 1
  | 3 => 1
  | _ => 4

/-- The value of a code in a format, under an extra for FP4X (R56). -/
def decodeIn (c extra code : Nat) : FVal := if c = 4 then decodeFp4 extra code else decodeF (descFmt c) code

/-- A magnitude rounded away from zero to FP8A (R60, RU). -/
def ruFp8a (m : Nat) (e : Int) : Nat :=
  if m = 0 then 0
  else
    let q := quantum fp8a m e
    let n := if q ≤ e then m * 2 ^ (e - q).toNat else (m + (2 ^ (q - e).toNat - 1)) / 2 ^ (q - e).toNat
    packF fp8a n q

/-- The least t with m ≤ 7 × 2^t. -/
def ceilLog7 (m : Nat) : Int :=
  let l : Int := (Nat.log2 m : Int) - 3
  match (List.range 5).find? fun (i : Nat) => decide (m * 8 ≤ 7 * 2 ^ (l + (i : Int) + 3).toNat) with
  | some i => l + (i : Int)
  | none => l + 5

/-- A block's scale, its extra, the codes of its elements, and which of them saturated (R60). -/
structure Block where
  scale : Nat
  extra : Nat
  codes : List Nat
  sats : List Bool
  deriving DecidableEq, Repr

/-- The largest magnitude of a block, and the first element that has it. -/
def blockMax : List FVal → FVal
  | [] => .zero
  | x :: xs =>
    let r := blockMax xs
    let mag (v : FVal) : FVal := if v.isNeg then v.neg else v
    if (mag x).lt (mag r) then r else x

/-- A block encoded under a computed scale (R60): `f` is 4 FP4X, 2 FP8A, 3 FP8B; `rm` gives the rounding of element j.
The extra of an FP4X block of zeros is 0x80 where its first element is -0 (DESIGN CHOICE, log 94). -/
def encodeBlock (f : Nat) (rm : Nat → Rm) (xs : List FVal) : Block :=
  if xs.any (fun x => match x with | .num _ _ _ => false | _ => true) then
    ⟨255, 0, xs.map fun _ => 0, xs.map fun _ => false⟩
  else
    match blockMax xs with
    | .num neg m e =>
      let s : Nat :=
        if m = 0 then 127
        else if f = 4 then (min 254 (max 0 ((Nat.log2 m : Int) + e - 2 + 127))).toNat
        else (min 254 (max 0 (ceilLog7 m + e - (if f = 2 then 6 else 13) + 127))).toNat
      let extra := if f = 4 then bit neg * 128 + ruFp8a m (e + 127 - s) else 0
      let r := xs.mapIdx fun j x =>
        match x with
        | .num n m e =>
          if f = 4 then encodeFp4 extra (rm j) n m (e + 127 - s)
          else roundF (descFmt f) (rm j) (x.scale (127 - s))
        | _ => (0, false)
      ⟨s, extra, r.map (·.1), r.map (·.2)⟩
    | _ => ⟨255, 0, xs.map fun _ => 0, xs.map fun _ => false⟩

/-- The bytes of a strip (R58). -/
def Block.bytes (b : Block) (f : Nat) : List Byte :=
  if f = 4 then
    (List.range 64).map (fun i => BitVec.ofNat 8 (b.codes.getD (2 * i) 0 % 16 + b.codes.getD (2 * i + 1) 0 % 16 * 16)) ++
      [BitVec.ofNat 8 b.scale, BitVec.ofNat 8 b.extra]
  else b.codes.map (BitVec.ofNat 8) ++ [BitVec.ofNat 8 b.scale, 0]

/-- The value of element j of an encoded block, its scale applied (R57). -/
def Block.value (b : Block) (f j : Nat) : FVal :=
  if b.scale = 255 then .nan else (decodeIn f b.extra (b.codes.getD j 0)).scale ((b.scale : Int) - 127)

/-- The bin of a value under a base (R76). -/
def histBin (hb : BitVec 8) (x : FVal) : Nat :=
  match x with
  | .num _ m e => if m = 0 then 0 else (min 30 (max 1 ((Nat.log2 m : Int) + e - hb.toInt + 15))).toNat
  | _ => 31

/-! ### Norm of MITER (R75) -/

/-- NP5 over rows of differences. -/
def np5 (rows : List (List FVal)) : Nat :=
  let rs := rows.map fun r =>
    np3 ((r.map fun d => rne32 (d.mul d)) ++ List.replicate (128 - r.length) FVal.zero)
  round32 .rne (rs.tail.foldl (fun t x => rne32 (t.add x)) (rs.headD .zero)).sqrt

end Sys2Proof.Machine
end

