-- ==== Sys2Proof/Config.lean ====
section
/-! DEFINITION. The values the spec leaves open, as constants with no body, and the sizes R1 binds to the ESF-8.
A constant without a body has no value that a proof could see. The free values are applied to the state's counter
`fresh`, so that two uses share nothing. -/

namespace Sys2Proof

/-- A value the spec calls unpredictable, wherever a rule leaves one (R5's dash, R200, R226): `n` tells the uses
apart. -/
opaque Config.freeWord : Nat → BitVec 64

/-- The content of a granted tile byte that the task has not written (R226): grant number, byte offset. -/
opaque Config.tileByte : Nat → Nat → BitVec 8

/-- The content of a granted accumulator element that the task has not written (R226): grant number, element. -/
opaque Config.accElem : Nat → Nat → BitVec 32

/-- A micro-order store word that no TBLOAD has written since reset (R200): core, word number. -/
opaque Config.microWord : Nat → Nat → BitVec 32

/-- Where firmware starts the runtime of a core's slot 5 (R388). -/
opaque Config.runtimeEntry : Nat → BitVec 64

/-- Whether the signature of a patch or of an image is valid (R385, R386): XMSS lies outside this spec. -/
opaque Config.signatureOk : List (BitVec 8) → Bool

/-- Fields of a patch, whose offsets the spec does not give (R385): base version and patch level, the table entry's
index, the word written there. -/
opaque Config.patchBase : List (BitVec 8) → BitVec 24
opaque Config.patchEntry : List (BitVec 8) → Nat
opaque Config.patchWord : List (BitVec 8) → BitVec 64

/-- The version of an image (R386). -/
opaque Config.imageVersion : List (BitVec 8) → BitVec 16

/-- What a module reset measures under an index (R387): the boot ROM's content, and those of the images of a version. -/
opaque Config.bootContent : Nat → BitVec 16 → List (BitVec 8)

/-- The bytes of an SPDM response (R387) from what it covers: SPDM and XMSS lie outside this spec. -/
opaque Config.spdmResponse : Nat → List (BitVec 8) → List (BitVec 8)

/-- The hash that spreads traffic over the Adosh ports (R380): of the line's number and the peer's rank. -/
opaque Config.portHash : Nat → Nat → Nat

/-- Bytes of DRAM below which a local offset names memory (R79): 768 GiB. -/
def Config.dramBytes : Nat := 0xC000000000

/-- Bytes of DRAM of one octant (R79). -/
def Config.octantBytes : Nat := 0x1800000000

/-- Bytes of a scratch slice (R147). -/
def Config.sliceBytes : Nat := 0x440000

end Sys2Proof
end

