-- ==== Sys2Proof/Machine/State.lean ====
section
/-! DEFINITION. The state of the module as plain data, the reasons a step can stop, and the state after reset.
Each structure lists the state of one unit with the rule that names it. -/

namespace Sys2Proof.Machine

/-- Why the machine cannot take a step at all. -/
inductive Fault where
  /-- Raised by no meaning of this model: every fault of the spec is a trap that leads to a next state (R347 to
  R355). Safe: nothing is stopped by it. -/
  | noSuchStep
  deriving DecidableEq, Repr

/-- Why an instruction has no meaning in this model. -/
inductive Refusal where
  /-- Raised by the dispatcher's arm of an instruction that has no meaning yet. Safe: the run stops. -/
  | notModelled (mnemonic : String)
  deriving DecidableEq, Repr

/-- A trap record's fields (R347). -/
structure TrapRec where
  time : BitVec 64 := 0
  crcNew : BitVec 32 := 0
  crcOld : BitVec 32 := 0
  otag : BitVec 16 := 0
  mstate : BitVec 113 := 0
  pc : Word := 0
  addr : BitVec 56 := 0
  status : BitVec 32 := 0
  task : BitVec 32 := 0
  oseq : BitVec 16 := 0
  ord : BitVec 16 := 0
  seq : BitVec 16 := 0
  stream : Nat := 0
  slot : Nat := 0
  core : Nat := 0
  ecc : Bool := false
  chk : Bool := false
  thk : Bool := false
  prec : Bool := false
  engine : Nat := 0
  code : Nat := 0
  /-- The key of the line with an uncorrectable error, for the soft-error counts (R369); no field of the record. -/
  line : Nat := 0
  deriving DecidableEq, Repr

/-- What a failed verification reports (R97, R98). -/
structure BadLine where
  addr : Nat
  stored : BitVec 32
  computed : BitVec 32
  tag : BitVec 16
  ecc : Bool
  /-- The line's key. -/
  key : Nat
  deriving DecidableEq, Repr

/-- An entry of a TLB, or a lookup's result that a command carries (R85, R87): the leaf's translation of one 64 KiB page
and its permissions; or that the page has none. -/
structure TlbEntry where
  asid : Nat
  page : Nat
  base : Nat
  w : Bool
  x : Bool
  cls : Nat
  /-- Loaded for a write, so that dirty is set (R85). -/
  dirty : Bool
  /-- Loaded for an access, so that accessed is set; a walk ahead of need does not set it (R85). -/
  acc : Bool := true
  /-- The address of the leaf's page-table entry. -/
  pte : Nat := 0
  /-- Why the page has no translation, by the reasons of R88; 0: it has one. `w` tells then whether a write asked. -/
  reason : Nat := 0
  /-- The line of a page-table entry that failed verification: the walk ahead of need holds it (R419). -/
  bad : Option BadLine := none
  deriving DecidableEq, Repr

/-- What waits on a fault request: a sequencer's fetch or atomic access, a command, the dispatcher of an octant at
some record, or a replay sequencer (R88). -/
inductive Waiter where
  | fetch (seq : Nat)
  | atomic (seq : Nat)
  | command (uid : Nat)
  | dispatcher (octant : Nat) (item : Nat)
  | replay (core : Nat)
  /-- The save area of a slot (R360). -/
  | save (slot : Nat)
  /-- The waiters of a future (R311), a graph record and a mailbox command of the packet cores (R374, R377), and the
  tasks of a graph that are to be released (R343, R377). -/
  | wake (id : Nat)
  | packet (n : Nat)
  | mailbox
  | graph (id : Nat)
  /-- Successors of a task that has no slot (R353). -/
  | ending (id : Nat)
  deriving DecidableEq, Repr

/-- A fault request to the policy core (R88), with what waits on it and whether the answer was decline (R89). -/
structure Request where
  id : Nat
  va : Word
  offset : BitVec 32
  num : BitVec 16
  core : Nat
  slot : Nat
  engine : Nat
  queue : Nat
  access : Nat
  reason : Nat
  asid : Nat
  time : BitVec 64
  waiters : List Waiter
  declined : Bool
  deriving DecidableEq, Repr

/-- Where an AMO, a future or a barrier cell stands: its home's space and address there (R280, R288). -/
inductive Home where
  | slice (a : Nat)
  | main (pa : Nat)
  deriving DecidableEq, Repr

/-- What an entry of a load or store queue does when it performs (R155, R159, R162, R163, R289, R309). -/
inductive QOp where
  | load (width : Nat) (signed : Bool) (rd : BitVec 5)
  | vload (dq : Nat) (ticket : Nat)
  | store (data : List Byte)
  | vstore (data : List Byte)
  | shape (n : Nat) (v : BitVec 32)
  | amo (home : Home) (op : Nat) (w32 : Bool) (order : Nat) (v c : Word) (rd : BitVec 5)
  | mark
  deriving DecidableEq, Repr

/-- An entry of a load or store queue: its place in program order, its slice address where it has one, the PC of
its instruction and the tokens it pushes. -/
structure QEntry where
  id : Nat
  op : QOp
  addr : Nat
  pc : Word
  t : BitVec 4
  /-- SEED at issue, and SEQ.last at issue, 0 when SEQ.any was 0 (R264). -/
  seed : Word
  num : BitVec 16
  deriving DecidableEq, Repr

/-- A FENCE that has issued and not retired (R286): the queue entries and commands it waits for. Or an EVPOST that has issued
and waits for MARKs (R171, R185): the counter and the count it posts. -/
structure Fence where
  id : Nat
  kinds : BitVec 5
  entries : List Nat
  cmds : List Nat
  t : BitVec 4
  post : Option (Nat × Nat) := none
  deriving DecidableEq, Repr

/-- A sequencer (R18, R169). -/
structure Seq where
  /-- Its stream is present, or its handler run is live. -/
  active : Bool := false
  /-- Stopped by a fault or a stop of its slot: issues nothing (R352). -/
  stopped : Bool := false
  pc : Word := 0
  /-- The entry point plus four times the stream's length: a PC that reaches it has finished (R298). 0: no end. -/
  stop : Word := 0
  regs : List (Nat × Word) := []
  srcnt : BitVec 32 := 0
  last : BitVec 16 := 0
  any : Bool := false
  loads : List QEntry := []
  stores : List QEntry := []
  nextEntry : Nat := 0
  fences : List Fence := []
  /-- Pushes of short instructions that have done their work and wait for room; the sequencer stalls (R28). -/
  owed : List (BitVec 4) := []
  /-- The entry of a store whose own pushes are owed, so that it has not retired and does not perform, and how many of the
  owed pushes stand up to its own (R28, R159). -/
  owing : Option (Nat × Nat) := none
  /-- Short instructions that have issued and whose retirement cycle is still to come (R171): the register each writes,
  and its token bits. -/
  late : List (BitVec 5 × BitVec 4) := []
  /-- Queue entries, MARKs and FENCEs that have nothing left to do but their pushes, and whose FIFOs are full: they do
  not retire, and the sequencer stalls (R28). -/
  full : List Nat := []
  tlb : List TlbEntry := []
  /-- The instruction at the PC has issued, so that its pops are taken, and waits (R28, R190, R286, R290). -/
  issued : Bool := false
  /-- That instruction is an STS or a release AMO: it has an entry of the store queue, the next one's number (R155). -/
  strong : Bool := false
  /-- The words of the instruction that has issued and waits. -/
  words : Nat × Nat := (0, 0)
  /-- What a TRIG waits for since its issue (R307): store-queue entries, by sequencer and number, and commands. -/
  trigWait : Option (List (Nat × Nat) × List Nat) := none
  /-- Posts counted when a WFE reached the head of issue (R183). -/
  wfe : Option Nat := none
  /-- The counter and count of the EVWAIT in which it waits (R184). -/
  evwait : Option (Nat × Nat) := none
  /-- Commands of a deterministic task whose retirement a CWAIT or an EVWAIT of this sequencer has seen (R293). -/
  seen : List Nat := []
  /-- When it issued last, in turns given to sequencers (R21, R330). -/
  turn : Nat := 0
  /-- An atomic access made at a peer whose acknowledgement is still to come (R284): the number its write goes by, and the
  value the access found. -/
  remote : Option (Nat × Nat) := none
  deriving DecidableEq, Repr

/-- An entry of a data queue: reserved until its vector of 512 bytes is there (R162, R165). -/
structure DqEntry where
  ticket : Nat
  data : Option (List Byte)
  deriving DecidableEq, Repr

/-- A shootdown that has not completed (R90): what it named, and the accesses translated before it that have still to
perform: entries of store queues, by sequencer and number, and commands with contributions at the switches or writes at
peers. -/
structure Shot where
  asid : BitVec 12
  lo : Word
  hi : Word
  entries : List (Nat × Nat)
  cmds : List Nat
  deriving DecidableEq, Repr

/-- Why a slot is being stopped and saved: the reasons of R363, and a fault (R352). -/
structure Stopping where
  reason : Nat
  deriving DecidableEq, Repr

/-- A 512-byte vector register: 128 lanes of 32 bits (R194). -/
abbrev VReg := List (BitVec 32)

/-- The vector engine's state of a slot (R194 to R198). -/
structure VecSt where
  /-- VLEN.lanes. -/
  lanes : BitVec 8 := 128
  /-- VTRIP.n and VTAIL.tl. -/
  trip : BitVec 32 := 0
  tail : BitVec 3 := 0
  /-- VPRED: the rotation offset, and c1 to c7 in bits 0 to 6. -/
  rot : Nat := 0
  pred : BitVec 7 := 0
  /-- Passes completed in the run. -/
  passes : Nat := 0
  bank : Bool := false
  upc : BitVec 12 := 0
  /-- VSTEP. -/
  steps : Word := 0
  /-- i0 to i7. -/
  ix : List (Nat × BitVec 16) := []
  /-- k0 to k7. -/
  masks : List (Nat × BitVec 128) := []
  /-- VRCFG. -/
  cfg : BitVec 32 := 0
  /-- Physical vector registers; an unlisted one is zero. -/
  regs : List (Nat × VReg) := []
  deriving DecidableEq, Repr

/-- The histogram of one tensor ID (R76, R77). -/
structure Hist where
  bins : List (Nat × Nat) := []
  sat : Nat := 0
  hb : BitVec 8 := 0
  deriving DecidableEq, Repr

/-- What MNCL, MNCH and MPASS show of a slot's last MGO (R248). -/
structure MatSt where
  idx : List Nat := [0, 0, 0, 0, 0, 0]
  w : Bool := false
  cpos : Nat := 0
  passes : Nat := 0
  /-- An MGO of the slot has started, so that MSTALL, whose value is one of timing, is free; before that it is 0. -/
  used : Bool := false
  deriving DecidableEq, Repr

/-- MIS of a slot (R277). -/
structure MisSt where
  prev : BitVec 32 := 0
  grew : Bool := false
  phase : Nat := 0
  k : Nat := 0
  deriving DecidableEq, Repr

/-- Who makes a demand of the thunk forcer (R262, R266): a command, the head of the store queue of a role, or the access of
the instruction at its PC. -/
inductive Demander where
  | cmd (uid : Nat)
  | store (role : Nat)
  | access (role : Nat)
  deriving DecidableEq, Repr

/-- A demand that the forcer has taken up and not met (R262, R264): who makes it, the kind and the sequence number of its
sub-commands' draws, the ordinal of its next sub-command, and when it was taken up. -/
structure Demand where
  by' : Demander
  kind : Nat
  seq : BitVec 16
  ord : Nat := 0
  since : Nat := 0
  /-- Ordinals whose sub-commands have retired. -/
  done : List Nat := []
  /-- Slice and tile bytes that its last sub-commands write: ordinal, space (false slice, true tile), address, length. -/
  wrote : List (Nat × Bool × Nat × Nat) := []
  deriving DecidableEq, Repr

/-- The block that the forcer of a core computes (R262, R271): the demand's slot and maker, the node's entry, the block, how
many of its sub-commands have been formed, and the ordinal of the next. -/
structure FBlock where
  sk : Nat
  by' : Demander
  entry : Nat
  bi : Nat
  bj : Nat
  next : Nat := 0
  ord : Nat
  deriving DecidableEq, Repr

/-- What marks a command as a sub-command of the forcer (R264, R338). -/
structure Sub where
  by' : Demander
  /-- The kind of its draws, and its ordinal. -/
  kind : Nat
  ord : Nat
  /-- The thunk origin: the node's seq and opc; a TSTORE's copy has none. -/
  node : Option (BitVec 16 × Word) := none
  /-- The node's handle, and the block that it computes; none for a TSTORE's copy. -/
  handle : Nat := 0
  block : Option (Nat × Nat) := none
  /-- The last sub-command of its block. -/
  last : Bool := false
  /-- Its words and its payload as a trace records them. -/
  words : Nat × Nat := (0, 0)
  payload : List Byte := []
  /-- The wait mask (R338): bit i names the ordinal i + 1 before its own. -/
  wait : Nat := 0
  deriving DecidableEq, Repr

/-- A node of a slot's thunk partition (R254): its entry, and its fields. Inputs are handles, present ones only; the
maps follow from the operation (R256). -/
structure Node where
  entry : Nat
  seq : BitVec 16
  opc : Word
  tid : Nat
  np : Nat
  rm : Nat
  op : Nat
  self : Nat
  ins : List Nat
  rows : Nat
  cols : Nat
  kdim : Nat
  ofmt : Nat
  alloc : Bool
  pitch : Nat
  addr : Nat
  imm : BitVec 32
  mask : BitVec 64
  /-- First word of the TOP that appended the node: what a record of its force runs holds (R338). -/
  word : BitVec 32 := 0
  deriving DecidableEq, Repr

/-- Where a released task's placement word leads (R304): not yet translated, nowhere, a core, or local DRAM. -/
inductive Placed where
  | unresolved
  | nowhere
  | core (c : Nat)
  | dram (pa : Nat)
  deriving DecidableEq, Repr

/-- A ready record (R318), with what the dispatcher computed at release. -/
structure ReadyRec where
  id : Nat
  octant : Nat
  tcb : Word
  task : BitVec 32
  graph : BitVec 32
  prio : Nat
  prio0 : Nat
  ring : Bool
  byDec : Bool
  tsize : Nat
  ready : BitVec 64
  /-- TIME of the last rise (R320). -/
  rose : BitVec 64
  place : Word
  home : Placed
  /-- Where the members whose paths and placement words have been read are placed, the first at index 0 (R297, R304). -/
  homes : List Placed := []
  spawner : Nat
  xroot : Word
  /-- The RCB path has been walked (R297): the region's ceiling and the addresses of the path's nodes. -/
  walked : Bool := false
  ceiling : Nat := 0
  regions : List Nat := []
  /-- Priority tokens left (R356). -/
  tokens : Nat := 0
  /-- Run time before a kill, in ns (R370). -/
  run : Word := 0
  /-- A checkpointed task that resumes on this core (R366). -/
  resume : Option Nat := none
  /-- Launched by a replay sequencer (R318, flag [3]). -/
  replay : Bool := false
  /-- TIME at which a checkpointed task's record entered the queue again (R367). -/
  back : Option (BitVec 64) := none
  /-- The slot whose task it has pre-empted and that has not freed yet (R356). -/
  victim : Option Nat := none
  deriving DecidableEq, Repr

/-- A slot of a core (R17): what its sequencers and commands share. Slots 0 to 3 hold tasks, slot 4 handler runs,
slot 5 the core runtime. -/
structure Slot where
  /-- A task or handler run holds the slot. -/
  busy : Bool := false
  tcb : Word := 0
  /-- The TROOT through which the module reads the task's TCB and RCB path (R298). -/
  xroot : Word := 0
  rcb : Word := 0
  taskid : Word := 0
  /-- The ID of the graph whose record lists the task, else its TCB's (R334, R376). -/
  graph : Nat := 0
  seed : Word := 0
  shapes : List (Nat × BitVec 32) := []
  events : List (Nat × Nat) := []
  evovf : BitVec 16 := 0
  /-- Posts to any counter of the slot (R183, WFE). -/
  posts : Nat := 0
  troot : Word := 0
  swin : List (Nat × Word) := []
  splim : Nat := 0
  lx : Nat := 0
  xl : Nat := 0
  xs : Nat := 0
  sx : Nat := 0
  cqL : List (BitVec 16) := []
  cqS : List (BitVec 16) := []
  rcvL : Bool := false
  rcvS : Bool := false
  /-- dq0 to dq3 under keys 0 to 3, sq0 and sq1 under 4 and 5, head first (R165). -/
  queues : List (Nat × List DqEntry) := []
  nextCmd : BitVec 16 := 0
  flast : Word := 0
  /-- PRUN (R370): run time before the present launch or resume, and TIME at it while the task runs. -/
  prunBase : Word := 0
  runSince : Option (BitVec 64) := none
  launched : BitVec 64 := 0
  /-- Effective fields of the task's region and of the task, taken at launch (R296, R299). -/
  prio : Nat := 0
  det : Bool := false
  policy : Nat := 0
  group : BitVec 64 := 0
  regions : List Word := []
  teamId : BitVec 32 := 0
  teamSize : Nat := 0
  member : Nat := 0
  killable : Bool := false
  /-- An instruction of R358's list has issued since launch. -/
  nokill : Bool := false
  sideEffect : Bool := false
  triggered : Bool := false
  est : Nat := 0
  stopping : Option Stopping := none
  trap : Option TrapRec := none
  vec : VecSt := {}
  /-- Histograms by tensor ID; an unlisted one has counted nothing (R76). -/
  hist : List (Nat × Hist) := []
  /-- Granted physical tiles and accumulators, in logical order (R225, MGRANT). -/
  tmap : List Nat := []
  amap : List Nat := []
  /-- Tile descriptors (R227) and the shadow set of the configuration registers (R229); unlisted: the reset value. -/
  desc : List (Nat × Word) := []
  mcfg : List (Nat × Word) := []
  mat : MatSt := {}
  mis : MisSt := {}
  /-- MICTL.stop (R277). -/
  miStop : Bool := false
  /-- The thunk partition (R251): the physical entries granted, and the live nodes in append order. -/
  thEntries : List Nat := []
  nodes : List Node := []
  /-- The TBIND that bound each handle, by its command (R266). -/
  binds : List (Nat × Nat) := []
  /-- The demands that the forcer has taken up for the slot (R262, R270). -/
  demands : List Demand := []
  /-- FCUR as it stood for a task that is out of its slot (R20, R270). -/
  cursor : Word := 0
  tha : Word := 0
  /-- THA has been written, so that the next TOP or TDEM clears the arena's directory (R252). -/
  thClear : Bool := false
  /-- Successors still to be decremented by an EXIT or TRIG under way, with the index of the first of them (R307,
  R308). -/
  decs : Option (Nat × List Nat) := none
  /-- The number of the launch that holds the slot's grants in the live allocation map (R324); 0: none. -/
  owner : Nat := 0
  /-- TCB.save. -/
  save : Word := 0
  /-- Bytes of the save area that a save under way has written, in the order it writes them (R89). -/
  saved : Nat := 0
  idempotent : Bool := false
  /-- RPST and RPVER (R333), and the guards executed by guard ID (R344). -/
  mode : Nat := 0
  gid : Nat := 0
  tix : Nat := 0
  ver : BitVec 32 := 0
  occ : List (Nat × Nat) := []
  /-- A load or store of a slice address has issued (R339, clean). -/
  touched : Bool := false
  /-- Recorded sub-commands, with their payloads, that a handover has kept for what forces them (R343). -/
  kept : List (List Byte × List Byte) := []
  /-- CSTALL (R333). -/
  cstall : Word := 0
  /-- EXIT has issued with this result word and waits for the slot's work (R308). -/
  exiting : Option Word := none
  /-- The ready record the task was launched from (R320, R358, R366). -/
  rcd : Option ReadyRec := none
  /-- Where the task's TCB stands in memory, and whether bit [5] of its status says that it has made a side effect
  (R298). -/
  tcbAt : Nat := 0
  noted : Bool := false
  /-- Tokens popped so far from LX, XL, XS and SX, and counts taken from each event counter by EVWAIT: they tell which
  push or post a pop or a wait has consumed (R293). -/
  popped : List (Nat × Nat) := []
  taken : List (Nat × Nat) := []
  /-- The task's dependence ancestors (R293): task IDs, and 2^32 times the number below which their commands' are ordered
  before the task (R307). -/
  anc : List Nat := []
  /-- That number for the task itself, while a TRIG waits and decrements: what has issued since is not ordered (R307). -/
  trigUid : Option Nat := none
  deriving DecidableEq, Repr

/-- What the module reports to the policy core (R190, R191, R351, R353). -/
inductive PolicyRec where
  | trap (r : TrapRec)
  | beat (core : Nat) (time : BitVec 64)
  | event (name : String) (a b : Word)
  | collision (name : BitVec 128) (core : Nat) (time : BitVec 64)
  deriving DecidableEq, Repr

/-- Waiters that an FWR took off a future, still to be decremented (R311): the TROOT they are reached through, the
next one's address, and the future's cell. -/
structure Wake where
  id : Nat
  slot : Nat
  /-- The task that wrote the future. -/
  task : BitVec 32
  troot : Word
  tcb : Word
  cell : Word
  /-- Task IDs of the writer and its dependence ancestors (R293). -/
  ids : List Nat
  deriving DecidableEq, Repr

/-- A start record of a message (R134). -/
structure HandlerRec where
  payload : Word
  length : Nat
  sender : Nat
  user : Word
  handler : Word
  deriving DecidableEq, Repr

/-- A core (R17, R20): what its slots share. -/
structure CoreSt where
  hbper : BitVec 16 := 50
  hblast : BitVec 64 := 0
  /-- TIME of the last period of the heartbeat timer (R191). -/
  hbmark : BitVec 64 := 0
  serrc : Word := 0
  serrd : Word := 0
  cacoll : BitVec 32 := 0
  halted : Bool := false
  /-- TIME at which the core was halted (R368). -/
  haltedAt : BitVec 64 := 0
  /-- The handler queue of 16 records, oldest first, and the records that wait for room with their commands (R134). -/
  hq : List HandlerRec := []
  hqWait : List (Nat × HandlerRec) := []
  /-- The engines' stream TLBs by engine code of R88 (R87). -/
  etlb : List (Nat × List TlbEntry) := []
  /-- Words of the micro-order store written since reset (R200). -/
  micro : List (Nat × BitVec 32) := []
  /-- VGEN (R198). -/
  gen0 : BitVec 16 := 0
  gen1 : BitVec 16 := 0
  /-- The run whose micro-orders the vector engine executes (R207), by its command's number. -/
  vrun : Option Nat := none
  /-- FCUR (R271), and the block in progress. -/
  fcur : Word := 0
  block : Option FBlock := none
  /-- Consecutive grants of the execute port to slot 5 while slot 4 was ready there (R330). -/
  run5 : Nat := 0
  deriving DecidableEq, Repr

/-- An element of a contribution (R142): its offset at the home, which follows from its number where the operator, and
with it the width, is not told; its number in the contribution; its value; and, where it runs over the end of a page, how
many of its bytes stand before the end, and the offset of the rest. -/
structure RedElem where
  at' : Nat
  num : Nat
  value : BitVec 64
  tail : Option (Nat × Nat) := none
  deriving DecidableEq, Repr

/-- A contribution to a reduction window that has reached the switches (R142): the window, the rank and, on this module,
the command it came from (0: another module's), the operator (0: not told), the offset of its first element at the home,
and the elements whose rounds have still to close. -/
structure Contribution where
  win : Nat
  rank : Nat
  uid : Nat
  op : Nat
  base : Nat
  elems : List RedElem
  deriving DecidableEq, Repr

/-- How far a command has come (R22, R126, R128). -/
inductive Phase where
  | waiting
  | running
  /-- Its work is done and its writes have performed; it waits for room for its pushes (R28) or its queue's order
  (R125). -/
  | done
  deriving DecidableEq, Repr

/-- What a command latched of its slot at issue, besides its registers and SEED: VLEN (R198), the shadow set and the
tile descriptors (R229). -/
structure Latched where
  vlen : Nat := 0
  mcfg : List (Nat × Word) := []
  desc : List (Nat × Word) := []
  deriving DecidableEq, Repr

/-- The micro-state of a nest (R234, R246): where its steps stand, and the latched weights. -/
structure NestSt where
  started : Bool := false
  idx : List Nat := [0, 0, 0, 0, 0, 0]
  w : Bool := false
  dcount : Nat := 0
  passes : Nat := 0
  /-- The BEGINs of this level and below come next, then a pass; unless `ending` names the END that comes next. -/
  lvl : Nat := 5
  ending : Option Nat := none
  /-- The actions of that END are made: the member of a chain waits at its CHAINWAIT (R234, R239). -/
  sync : Bool := false
  /-- The BEGINs before the coming pass are made. -/
  begun : Bool := false
  /-- The next pass reloads its weights whatever ACT says: the first pass, and the first after a resume. -/
  reload : Bool := true
  /-- Indices and swap bit of the last pass (R233). -/
  lastIdx : List Nat := [0, 0, 0, 0, 0, 0]
  lastW : Bool := false
  /-- The latched weights: two squares' bytes in a sparse nest. -/
  weights : List (List Byte) := []
  /-- Slice bytes its DRAINs have written: address and length (R242). -/
  drained : List (Nat × Nat) := []
  /-- The chain it has been gathered into, by its head's command, and, but for the head, what it has of the head's A: the A
  tile's descriptor and the scaled bit (R239). -/
  chain : Option Nat := none
  headA : Option (Option Word × Bool) := none
  deriving DecidableEq, Repr

/-- A command in flight (R22, R30): what its sequencer latched at issue, and its engine's micro-state. -/
structure Cmd where
  uid : Nat
  /-- The issuing sequencer. -/
  seqk : Nat
  num : BitVec 16
  ins : Instr
  ext : Ext
  pc : Word
  /-- Values of the registers named by rd, rs1, rs2 and rs3 at issue. -/
  vd : Word
  v1 : Word
  v2 : Word
  v3 : Word
  /-- The register written at retirement; 0: none. -/
  rd : BitVec 5
  /-- The value written there. -/
  result : Word := 0
  /-- What the lookups at issue gave of each virtual operand's first page, and what walks ahead of need found where they
  found no translation (R87). -/
  ops : List TlbEntry := []
  /-- Commands that must have retired before this one starts (R31, R201). -/
  preds : List Nat
  /-- Store-queue entries and MARKs of the sequencer from before the issue (R126, R163). -/
  entries : List Nat
  seed : Word
  /-- TIME of its issue (R329). -/
  issued : Nat := 0
  phase : Phase := .waiting
  /-- Byte offset, vector, pass or block the engine has reached. -/
  off : Nat := 0
  /-- Parameters read when the command started, in its engine's own order (R131). -/
  par : List Int := []
  /-- Where a contribution of a CPR stands: 0 not sent, 1 on its way, 2 held at the home, 3 refused, 4 at a switch
  (R140, R142). A CPM: 1 while its start record waits (R134). -/
  sent : Nat := 0
  /-- It faulted and has stopped (R352). -/
  failed : Bool := false
  lat : Latched := {}
  nest : NestSt := {}
  /-- The bank generation a run latched (R201). -/
  gen : BitVec 16 := 0
  /-- The micro-orders of a run that was stopped and has not gone on since it was put back (R202). -/
  body : List (BitVec 32) := []
  /-- It had started and was stopped, and goes on when its engine takes it up again (R202, R211, R244). -/
  resumed : Bool := false
  /-- The task's streams had issued no load or store of a slice address before it (R339). -/
  clean : Bool := true
  /-- A sub-command of the forcer (R264). -/
  sub : Option Sub := none
  /-- Bytes that a copy command has overwritten, as they stood before, by line key: the line's origin tag, and offset and
  byte of each (R132). -/
  old : List (Nat × BitVec 16 × List (Nat × BitVec 8)) := []
  /-- In a replay (R340, R341): 0 not replayed, 1 bound and not yet injected, 2 injected, 3 injected and not yet issued
  by its stream. -/
  inj : Nat := 0
  deriving DecidableEq, Repr

/-- An entry of the CA index (R105): the address of its pool line, and its state: 0 live, 1 reclaim pending, 2 free. -/
structure CaEntry where
  name : BitVec 128
  line : Nat
  hiord : Nat
  state : Nat
  count : BitVec 32
  deriving DecidableEq, Repr

/-- A grant in the live allocation map (R324). Kind 0: a window, `num` its base and `size` its bytes; 1, 2: physical
tile or accumulator `num`; 3: thunk entries from `num`, `size` of them; 4: a task slot reserved for a replay. -/
structure Alloc where
  kind : Nat
  core : Nat
  num : Nat
  size : Nat
  owner : Nat
  task : BitVec 32
  graph : BitVec 32
  /-- The TCB a reservation is for (R343); 0 in a grant. -/
  tcb : Word := 0
  deriving DecidableEq, Repr

/-- Whose grants they are (R296): the physical addresses of the region path, and the core whose slot it holds. -/
structure Holder where
  owner : Nat
  regions : List Nat
  core : Option Nat
  deriving DecidableEq, Repr

/-- A task out of its slot: checkpointed, or held (R353, R360). What its save area does not lay out is kept here. -/
structure Saved where
  tcb : Word
  core : Nat
  slot : Slot
  seqs : List Seq
  cmds : List Cmd
  reason : Nat
  /-- Held under policy 1 with this fault code. -/
  held : Option Nat
  deriving DecidableEq, Repr

/-- Successors that the module has still to decrement for a task that has no slot any more (R353, R354): the TROOT they
are reached through, the rest of the successor list, the task's core, and for R293 the tasks. -/
structure Ending where
  id : Nat
  task : BitVec 32
  xroot : Word
  /-- The next entry of the successor list, and how many are left. -/
  at' : Nat
  left : Nat
  core : Nat
  ids : List Nat
  deriving DecidableEq, Repr

/-- What a replay notes of a command at its retirement, for the refiner (R331, R345): its task, its stream, its number and,
of a sub-command, its ordinal; its stall count and cause, the virtual bytes it wrote and read, and the slice bytes it
wrote, as addresses and lengths. -/
structure ReplayNote where
  tix : Nat
  stream : Nat
  num : Nat
  ord : Option Nat
  cycles : Nat
  cause : Nat
  writes : List (Nat × Nat)
  reads : List (Nat × Nat)
  dest : List (Nat × Nat)
  deriving DecidableEq, Repr

/-- A graph (R334, R376) that has not finished, with its recording or its replay. -/
structure Graph where
  id : Nat
  tcbs : List Word
  troot : Word
  done : Word := 0
  vector : Nat := 0
  intr : Bool := false
  /-- 0 dynamic, 1 recording, 2 replaying, 3 handed over. -/
  mode : Nat := 0
  gid : Nat := 0
  shape : BitVec 128 := 0
  /-- Its directory entry, and the trace version. -/
  entry : Nat := 0
  ver : BitVec 32 := 0
  /-- Staged records by core × 8 + stream (R338). -/
  staged : List (Nat × List (List Byte)) := []
  /-- Recorded allocation entries and core × 8 + slot, by task index. -/
  allocs : List (Nat × List (List Byte)) := []
  places : List (Nat × Nat) := []
  /-- Task IDs by index. -/
  tasks : List (BitVec 32) := []
  /-- Edges: the successors of each task by index. -/
  edges : List (List Nat) := []
  /-- The octant of the first launch, and the cycles of its domain then (R337, R406). -/
  clock : Nat := 0
  began : Option Nat := none
  /-- Staging has been given up (R339). -/
  abandoned : Bool := false
  /-- The trace being replayed, the next record of each stream, semaphore counters by core × 1024 + index, posts on
  their way (R340). -/
  image : List Byte := []
  cursor : List (Nat × Nat) := []
  sems : List (Nat × Nat) := []
  posts : List (Nat × Nat) := []
  /-- Bound command records injected before their streams issued them: core, task index and number (R340). -/
  ahead : List (Nat × Nat × Nat) := []
  /-- Records of each task, stream and number that issued commands have been matched with (R341): how many. -/
  bound : List (Nat × Nat) := []
  reserved : Bool := false
  /-- Tasks started, and tasks done or triggered, by index. -/
  started : List Nat := []
  ended : List Nat := []
  /-- Tasks done and faulted for good (R378), by index. -/
  doneTasks : List Nat := []
  faultedTasks : List Nat := []
  /-- TIME at which an intern began to wait for a pool line (R339). -/
  poolWait : Option (BitVec 64) := none
  /-- Tasks to be released, or rebuilt after a handover, by index, that wait for a place or a translation (R343,
  R377). -/
  toRelease : List Nat := []
  /-- Domain cycles at the last retirement of a command of its tasks (R337, R406). -/
  finish : Nat := 0
  /-- Of a replay: its commands' notes, the span of each task by index, first and last domain cycle, and the tasks with
  no home and every window of placement 0 (R345). -/
  notes : List ReplayNote := []
  spans : List (Nat × Nat × Nat) := []
  movable : List Nat := []
  /-- Its completion record is written, and only its trace is still to be interned (R339). -/
  settled : Bool := false
  deriving DecidableEq, Repr

/-- A line range of a command's footprint (R292): the space, as 0 for a slice, 1 for what stands outside scratch, 2 for
a tile or an accumulator, 3 for the virtual addresses of a copy's destination; the first and the last line. -/
structure OvFoot where
  sp : Nat
  first : Nat
  last : Nat
  write : Bool
  deriving DecidableEq, Repr

/-- A command of a task of a deterministic region, as the overlap checker remembers it (R292, R293). -/
structure OvRec where
  uid : Nat
  slot : Nat
  seqk : Nat
  num : BitVec 16
  /-- Its place in its task's issue order. -/
  ord : Nat
  task : Nat
  /-- The dependence ancestors of its task: task IDs, and 2^32 times the number below which their commands' are ordered
  before the task (R307). -/
  anc : List Nat
  region : Word
  /-- The translation root of its task. -/
  root : Word
  /-- 0, or a kind that implicit predecessors relate: 1 TOP and TDEM, 2 and 3 a run of bank 0 and 1, 4 and 5 a TBLOAD
  into bank 0 and 1, 7 a sub-command that a store or an access forces, 8 + q a copy command of queue q. -/
  kind : Nat
  /-- The commands ordered before it. -/
  before : List Nat
  /-- It has no place in that order: an injected copy that its stream has not issued, or a sub-command that a store forces. -/
  early : Bool := false
  feet : List OvFoot := []
  started : Bool := false
  /-- What its retirement pushed and posted: FIFO and event with the number of the token or count. -/
  toks : List (Nat × Nat) := []
  post : List (Nat × Nat) := []
  deriving DecidableEq, Repr

/-- A reduction window (R382): virtual base and size, home position, participating ranks in ascending order; and how many
rounds of each element, by its offset at the home, have closed (R142). -/
structure RedWin where
  base : Nat
  size : Nat
  home : Nat
  ranks : List Nat
  closed : List (Nat × Nat) := []
  deriving DecidableEq, Repr

/-- A packet of the fabric (R381): its type and class, the ranks, the physical address, the lines of its data flits with
their check words and origin tags, for type 5 the window and the round, and for types 6 and 7 the shape name. -/
structure Packet where
  typ : Nat
  cls : Nat
  src : Nat
  dst : Nat
  pa : Nat
  data : List FlitLine
  window : Nat := 0
  round : Nat := 0
  shape : BitVec 128 := 0
  deriving DecidableEq, Repr

/-- What the module sends to the host: an MSI-X message, an AER error, a response over DOE (R378, R387, R389). -/
inductive HostMsg where
  | msix (vector : Nat)
  | aer
  | doe (response : List Byte)
  deriving DecidableEq, Repr

/-- The host interface, the firmware and the power controller (R372 to R390). -/
structure HostSt where
  sqbase : Word := 0
  sqsize : BitVec 13 := 0
  tail : BitVec 32 := 0
  sqhead : BitVec 32 := 0
  /-- Graph records that have been copied into the module and are not armed yet, with their numbers, in ring order (R373,
  R377). -/
  taken : List (Nat × List Byte) := []
  sqerr : BitVec 2 := 0
  mbox : List (Nat × Word) := []
  busy : Bool := false
  doorBusy : Bool := false
  /-- A POOLRST waits: no CA command and no replay starts (R374). -/
  poolrst : Bool := false
  result : BitVec 8 := 0
  msix : List (Nat × Word) := []
  msixPending : Word := 0
  sent : List HostMsg := []
  ready : Bool := false
  configured : Bool := false
  /-- TIME of CONFIG, from which the cores' first heartbeats are awaited (R368, R374). -/
  configuredAt : BitVec 64 := 0
  updating : Bool := false
  imageSlot : Bool := false
  /-- Versions of the images in slots A and B, and the patch level of the running one. -/
  version : BitVec 16 := 0
  otherVersion : BitVec 16 := 0
  patch : BitVec 8 := 0
  /-- The function table's entries that patches have written (R385). -/
  table : List (Nat × Word) := []
  /-- The command that runs, as MBOX held it when its door was written (R374). -/
  cmd : List Byte := []
  /-- Bytes that a LOAD under way has moved (R89), and the number under which it awaits the acknowledgements of lines sent
  to a peer (R374, R381). -/
  moved : Nat := 0
  loadUid : Nat := 0
  /-- TIME at which a patch began to wait for its functions, or a new image was started (R385, R386). -/
  since : Option (BitVec 64) := none
  rank : Nat := 0
  gang : List Word := []
  redwins : List (Nat × RedWin) := []
  /-- Measurements by index (R387): the content last extended, as bytes. -/
  measures : List (Nat × List Byte) := []
  /-- Signatures made (R387). -/
  signed : Nat := 0
  /-- Octants in all-bank refresh, and throttled by temperature (R389). -/
  hot : List Nat := []
  throttled : List Nat := []
  /-- Octants in which the power limit has pulses swallowed (R332, R389). -/
  limited : List Nat := []
  /-- The module's power limit in units of 0.1 kW (R389, R390). -/
  limit : Nat := 72
  deriving DecidableEq, Repr

/-- Who takes a step: a step of the module or of the world outside (an event of the opcode table), a sequencer, or the
vector engine of a core. -/
inductive Turn where
  | event (i : Instr)
  | seq (k : Nat)
  | run (core : Nat)
  /-- A sequencer issues an instruction that retires in a later cycle, and the retirement of the `n`-th of those (R171). -/
  | slow (k : Nat)
  | retire (k : Nat) (n : Nat)
  deriving DecidableEq, Repr

/-- The module. Units are listed by number: sequencers by core × 32 + slot × 4 + role, slots by core × 8 + slot,
cores by core ID. -/
structure State where
  seqs : List (Nat × Seq) := []
  slots : List (Nat × Slot) := []
  cores : List (Nat × CoreSt) := []
  /-- DRAM by offset (CA pool lines included), host and peer memory by physical address (R79, R80). -/
  mem : List Host.Cell := []
  /-- Scratch slices by slice address (R147). -/
  scratch : List Host.Cell := []
  /-- Lines of tile registers, by core × 2048 + tile × 256 + line: those written since the tile was granted (R226). -/
  tiles : List (Nat × List Byte) := []
  /-- Rows of accumulators, by core × 512 + accumulator × 128 + row: those written since the grant (R226). -/
  accs : List (Nat × List (BitVec 32)) := []
  /-- The number of the last grant of a tile (core × 8 + tile) or of an accumulator (core × 4 + accumulator). What the
  task has not written since is a free value of that number; 0: never granted, the reset fill. -/
  tileGrant : List (Nat × Nat) := []
  accGrant : List (Nat × Nat) := []
  /-- Lines whose stored check word is not that of their bytes, with the stored word (R93); by line key. -/
  bad : List (Nat × BitVec 32) := []
  /-- Lines with an uncorrectable ECC error (R98). -/
  ecc : List Nat := []
  /-- Origin tags of lines; an unlisted line has the reset fill's tag (R94, R95). -/
  tags : List (Nat × BitVec 16) := []
  /-- Spill words by slot × 1024 + word (R160). -/
  spill : List (Nat × Word) := []
  /-- Modules of the gang besides this one, by module number (R380). -/
  peers : List Nat := []
  /-- Pages of the CA pool in pool order, by DRAM offset (R99), and the index (R105). -/
  pool : List Nat := []
  caIndex : List CaEntry := []
  /-- Names that wait for the reclaimers, in home order (R107). -/
  reclaimQ : List (BitVec 128) := []
  /-- What the lookups of commands in the indexes of gang peers have found (R121): the command, the name, the physical
  address of the line. -/
  peerIndex : List (Nat × BitVec 128 × Nat) := []
  /-- Writes to peers' memory not yet acknowledged (R381): the number by which the writer awaits it (a command's, or one
  of an access; 0: nothing waits), the rank and the address. -/
  unacked : List (Nat × Nat × Nat) := []
  /-- Lines of peers that commands read (R381): the command, the line's physical address, or a name looked up there as
  `lookupKey` numbers it, and whether its response has come. -/
  peerReads : List (Nat × Nat × Bool) := []
  cmds : List Cmd := []
  requests : List Request := []
  shots : List Shot := []
  /-- Ready records of every octant, the live allocation map, whose grants they are, and slots promised to newcomers
  (slot key and record, R359). -/
  readies : List ReadyRec := []
  allocs : List Alloc := []
  holders : List Holder := []
  drains : List (Nat × Nat) := []
  /-- Overflow rings that hold records, oldest first (R327): the RCB that describes the ring, and its address space. -/
  rings : List (Word × Word) := []
  nextRec : Nat := 1
  nextOwner : Nat := 1
  /-- Tasks out of their slots, and regions halted, by the physical address of their RCB (R353). -/
  saved : List Saved := []
  endings : List Ending := []
  haltedRegions : List Nat := []
  graphs : List Graph := []
  /-- Stop notices on their way to the module's cores (R343): shape name, version, task index, guard ID, and whether
  the directory's failure count rises. -/
  notices : List (BitVec 128 × BitVec 32 × Nat × Nat × Bool) := []
  /-- The last complete replay of each shape, with its stall counts (R331, R337, R345). -/
  replays : List Graph := []
  /-- Fetched traces that wait for pool lines, with the TIME at which the wait began (R346): shape name, rank 0's
  directory entry, and the lines by name. -/
  fetches : List (BitVec 128 × List Byte × List (BitVec 128 × List Byte) × BitVec 64) := []
  /-- Trace directory (R335, R336): physical base and entries. 0 entries: not configured. -/
  dirBase : Nat := 0
  dirEntries : Nat := 0
  /-- Recording spill area (R339): base and bytes per octant. -/
  spillBase : Nat := 0
  spillBytes : Nat := 0
  captureBase : Nat := 0
  /-- HEALTH, and THROT of each octant (R333). -/
  health : Word := 0
  throt : List (Nat × Word) := []
  wakes : List Wake := []
  /-- Placement words that SPAWNs gave armed TCBs in place of their own, by physical address (R301, R304). -/
  placements : List (Nat × Word) := []
  /-- Open rounds by time-slot table: n and the entries, kept until the round closes (R139). -/
  rounds : List (Nat × List Nat) := []
  contribs : List Contribution := []
  /-- The overlap checker's commands (R292), and by the physical address of a TCB the tasks that have decremented its
  counter since its last launch, with their ancestors (R293). -/
  ovl : List OvRec := []
  deps : List (Nat × List Nat) := []
  host : HostSt := {}
  /-- Packets sent on the fabric, oldest first (R381). -/
  fabricOut : List Packet := []
  /-- What has been sent to the policy core, oldest first. -/
  policy : List PolicyRec := []
  time : BitVec 64 := 0
  /-- Domain cycles delivered in each octant (R3, R187). -/
  cycles : List (Nat × BitVec 64) := []
  pwin : Word := 0x000007D000140028
  chalt : BitVec 48 := 0
  taskCounter : BitVec 32 := 1
  /-- Numbers for commands and requests, and for the free values of Config: the model's own. -/
  nextUid : Nat := 1
  nextReq : Nat := 1
  fresh : Nat := 0
  /-- The sequencer that issues, or issued last: the model's own. -/
  cur : Nat := 0
  /-- Turns given to sequencers so far: by them R21 tells which issued least recently. -/
  turns : Nat := 0
  /-- Accesses and commands perform as soon as they may: the model's own choice of timing. -/
  eager : Bool := true
  /-- The instruction that issues now retires in a later cycle, if its unit takes more than one (R171): the model's own. -/
  delay : Bool := false
  /-- Who takes the coming steps: the model's own. -/
  agenda : List Turn := []
  /-- Choices the spec leaves to the module, taken in order; with none left, 0: the model's own. -/
  choices : List Nat := []
  /-- Stall cycles and their cause, for the commands that retire (R331), taken in order: the model's own. -/
  stalls : List (Nat × Nat) := []
  /-- Correctable ECC errors that consumers meet at the coming steps (R98): cores, for their SRAM, and 1024 and the octant,
  for its DRAM: the world's. -/
  softs : List (List Nat) := []
  /-- What passes at the coming steps: the domain cycles delivered in each octant, octant 0 first, whose clocks are not
  aligned and swallow pulses each for itself (R12, R332), and the nanoseconds: the model's own. -/
  elapse : List (List Nat × Nat) := []
  deriving DecidableEq, Repr

/-- The module right after reset: every field at its reset value. Nothing is listed in any memory, and no unit is
configured: MODULE_RESET and CONFIG bring the module up from here (R388). -/
def State.reset : State := {}

end Sys2Proof.Machine
end

