-- ==== Sys2Proof/Machine/Check.lean ====
section
/-! DEFINITION. Check words, origin tags, and the reads and writes of lines in main memory, scratch slices and tiles
(R93 to R97). A line's stored check word is that of its bytes unless `bad` lists it. -/

namespace Sys2Proof.Machine

/-- The three memories whose lines carry check words (R95). -/
inductive Space where
  | main
  | scratch
  | tile
  deriving DecidableEq, Repr

/-- The number of a space in a line key. -/
def Space.num : Space → Nat
  | .main => 0
  | .scratch => 1
  | .tile => 2

/-- The key of the line that holds a byte. -/
def lineKey (sp : Space) (a : Nat) : Nat := a / 128 * 4 + sp.num

/-- One bit of the reflected CRC-32C (R93). -/
def crcBit (c : Nat) : Nat := if c % 2 = 1 then (c / 2) ^^^ 0x82F63B78 else c / 2

/-- One byte of the CRC. -/
def crcByte (c : Nat) (b : Byte) : Nat :=
  crcBit (crcBit (crcBit (crcBit (crcBit (crcBit (crcBit (crcBit (c ^^^ b.toNat))))))))

/-- CRC-32C over bytes in address order: initial value and final XOR all ones (R93). -/
def crc32c (bs : List Byte) : BitVec 32 := BitVec.ofNat 32 (bs.foldl crcByte 0xFFFFFFFF ^^^ 0xFFFFFFFF)

/-- A line of a tile: core × 2048 + tile × 256 + line (R226). -/
def State.tileLine (s : State) (k : Nat) : List Byte :=
  let g := Kv.get 0 s.tileGrant (k / 256)
  if Kv.has s.tiles k then Kv.get [] s.tiles k
  else (List.range 128).map fun i => if g = 0 then 0 else Config.tileByte g (k % 256 * 128 + i)

/-- A run of bytes of a space, unverified. A tile byte's address is core × 2^18 + tile × 2^15 + byte. -/
def State.bytes (s : State) (sp : Space) (a n : Nat) : List Byte :=
  match sp with
  | .main => Mem.read s.mem a n
  | .scratch => Mem.read s.scratch a n
  | .tile =>
    slice ((List.range ((a + n + 127) / 128 - a / 128)).flatMap fun i => s.tileLine (a / 128 + i)) (a % 128) n

/-- Bytes put into a space from an address. -/
def State.put (s : State) (sp : Space) (a : Nat) (bs : List Byte) : State :=
  match sp with
  | .main => { s with mem := Mem.write s.mem a bs }
  | .scratch => { s with scratch := Mem.write s.scratch a bs }
  | .tile =>
    let n := (a + bs.length + 127) / 128 - a / 128
    let old := (List.range n).flatMap fun i => s.tileLine (a / 128 + i)
    let new := patch old (a % 128) bs
    { s with tiles := (List.range n).foldl (fun t i => Kv.put t (a / 128 + i) (slice new (128 * i) 128)) s.tiles }

/-- The origin tag of the line that holds a byte (R94). -/
def State.tag (s : State) (sp : Space) (a : Nat) : BitVec 16 := Kv.get 0x6000 s.tags (lineKey sp a)

/-- Verification of the line that holds a byte (R95): what fails, if anything does. -/
def State.verifyLine (s : State) (sp : Space) (a : Nat) : Option BadLine :=
  if s.ecc.contains (lineKey sp a) then some ⟨a / 128 * 128, 0x80000000, 0, s.tag sp a, true, lineKey sp a⟩
  else if Kv.has s.bad (lineKey sp a) then
    some ⟨a / 128 * 128, Kv.get 0 s.bad (lineKey sp a), crc32c (s.bytes sp (a / 128 * 128) 128), s.tag sp a, false, lineKey sp a⟩
  else none

/-- Verification of the lines that hold `n` bytes from `a`, in address order. With no bad line anywhere there is
nothing to look for. -/
def State.verify (s : State) (sp : Space) (a n : Nat) : Option BadLine :=
  if s.bad.isEmpty && s.ecc.isEmpty then none
  else (List.range ((a + n + 127) / 128 - a / 128)).findSome? fun i => s.verifyLine sp ((a / 128 + i) * 128)

/-- An origin tag (R94). -/
def originTag (kind source : Nat) : BitVec 16 := BitVec.ofNat 16 (kind * 4096 + source % 1024)

/-- Bytes written from an address, with the check words of the lines they touch made anew and the lines' tags set
(R95, R96). No verification. -/
def State.poke (s : State) (sp : Space) (a : Nat) (bs : List Byte) (tag : BitVec 16) : State :=
  let ks := (List.range ((a + bs.length + 127) / 128 - a / 128)).map fun i => lineKey sp ((a / 128 + i) * 128)
  let s1 := s.put sp a bs
  { s1 with
    bad := s.bad.filter (fun c => !ks.contains c.1)
    ecc := s.ecc.filter (fun c => !ks.contains c)
    tags := ks.foldl (fun t k => if tag = 0x6000 then Kv.del t k else Kv.put t k tag) s.tags }

/-- One access that writes bytes within one line (R96): a partial write verifies the old line first, and is refused
when it fails. `whole` is the tag of a whole line, `part` that of a merge. -/
def State.store (s : State) (sp : Space) (a : Nat) (bs : List Byte) (whole part : BitVec 16) :
    Except BadLine State :=
  if a % 128 = 0 ∧ bs.length = 128 then .ok (s.poke sp a bs whole)
  else
    match s.verifyLine sp a with
    | some b => .error b
    | none => .ok (s.poke sp a bs part)

/-- The pieces of `n` bytes from `a` that lie in one line each: address and length. -/
def pieces (a n : Nat) : List (Nat × Nat) :=
  (List.range ((a + n + 127) / 128 - a / 128)).map fun i =>
    let lo := max a ((a / 128 + i) * 128)
    (lo, min (a + n) ((a / 128 + i + 1) * 128) - lo)

/-- Bytes written line by line, in address order, stopping before the first line that fails (R96). -/
def State.storeAll (s : State) (sp : Space) (a : Nat) (bs : List Byte) (whole part : BitVec 16) :
    Except BadLine State :=
  (pieces a bs.length).foldlM (fun s p => s.store sp p.1 ((bs.drop (p.1 - a)).take p.2) whole part) s

/-- The same, and what was written before the line that fails stays written. -/
def State.storeLines (s : State) (sp : Space) (a : Nat) (bs : List Byte) (whole part : BitVec 16) :
    List (Nat × Nat) → State × Option BadLine
  | [] => (s, none)
  | p :: rest =>
    match s.store sp p.1 ((bs.drop (p.1 - a)).take p.2) whole part with
    | .error b => (s, some b)
    | .ok t => t.storeLines sp a bs whole part rest

/-- A long write (R96), with the line that stopped it, if one did. With no bad line anywhere none can. -/
def State.writeLines (s : State) (sp : Space) (a : Nat) (bs : List Byte) (whole part : BitVec 16) : State × Option BadLine :=
  if s.bad.isEmpty && s.ecc.isEmpty && decide (whole = part) then (s.poke sp a bs whole, none)
  else s.storeLines sp a bs whole part (pieces a bs.length)

/-- A record of an event for the policy core. -/
def State.event (s : State) (name : String) (a b : Word) : State := { s with policy := s.policy ++ [PolicyRec.event name a b] }

/-- A line as it leaves the module, if it passes verification (R95). -/
def State.egress (s : State) (a : Nat) : Option FlitLine :=
  match s.verifyLine .main a with
  | some _ => none
  | none =>
    let d := s.bytes .main a 128
    some ⟨d, crc32c d, s.tag .main a⟩

/-- Bytes as flit lines, filled up with zeros, their check words made where they leave. -/
def flitLines (tag : BitVec 16) (b : List Byte) : List FlitLine :=
  (List.range ((b.length + 127) / 128)).map fun i =>
    let d := slice b (128 * i) 128
    ⟨d, crc32c d, tag⟩

/-- The data flits of a packet: two lines in each (R381). -/
def Packet.flits (p : Packet) : Nat := (p.data.length + 1) / 2

/-- The lines that hold `n` bytes at a peer's address `pa` are sent to it, in packets of 16 data flits at most, and their
acknowledgements are awaited under a number (R284, R381). Any other address needs no packet. A line that fails
verification does not leave (R97). -/
def State.sendWrite (s : State) (uid cls pa n : Nat) : State :=
  if pa / 2 ^ 50 ≠ 3 then s
  else
    let l := pa / 128
    let rank := pa / 2 ^ 42 % 256
    let ps := (List.range (((pa + n + 127) / 128 - l + 31) / 32)).filterMap fun j =>
      let ls := (List.range (min 32 ((pa + n + 127) / 128 - l - 32 * j))).map fun i => s.egress ((l + 32 * j + i) * 128)
      if ls.any Option.isNone then none
      else some ({ typ := 2, cls := cls, src := s.host.rank, dst := rank, pa := (l + 32 * j) * 128 % 2 ^ 42
                   data := ls.filterMap id } : Packet)
    { s with
      unacked := s.unacked ++ ps.map fun p => (uid, rank, 3 * 2 ^ 50 + rank * 2 ^ 42 + p.pa)
      fabricOut := s.fabricOut ++ ps }

end Sys2Proof.Machine
end

