-- ==== Sys2Proof/Machine/Ops.lean ====
section
/-! DEFINITION. The named operations on units of the state: registers, tokens, the program counter, translation and
its requests (R81 to R89), taking a trap (R347 to R352), and the shared issue of short instructions (R28, R45,
R171). -/

namespace Sys2Proof.Machine

/-- The core of a sequencer. -/
def coreOf (k : Nat) : Nat := k / 32
/-- The slot key of a sequencer: core × 8 + slot. -/
def slotKey (k : Nat) : Nat := k / 4
/-- The slot number of a slot key. -/
def slotNum (sk : Nat) : Nat := sk % 8
/-- The role of a sequencer: 0 L, 1 X, 2 S, 3 H (R347). -/
def roleOf (k : Nat) : Nat := k % 4
/-- The octant of a core ID (R14). -/
def octantOf (c : Nat) : Nat := c / 128 % 8
/-- The mesh row of a core ID. -/
def rowOf (c : Nat) : Nat := c / 16 % 8
/-- The mesh column of a core ID. -/
def colOf (c : Nat) : Nat := c % 16
/-- The cluster of a core within its octant (R15). -/
def clusterOf (c : Nat) : Nat := rowOf c / 4 * 3 + colOf c / 4
/-- Core IDs that name a core (R14). -/
def coreExists (c : Nat) : Bool := decide (c < 1024) && decide (colOf c < 12)

/-- A slot before anything is set in it: SPLIM resets to 1024 in slots 4 and 5 (R160). -/
def Slot.init (sk : Nat) : Slot := { splim := if 4 ≤ slotNum sk then 1024 else 0 }

/-- A sequencer's state. -/
def State.seq (s : State) (k : Nat) : Seq := Kv.get {} s.seqs k
/-- The state with a sequencer replaced. -/
def State.setSeq (s : State) (k : Nat) (q : Seq) : State := { s with seqs := Kv.put s.seqs k q }
/-- A slot's state. -/
def State.slot (s : State) (sk : Nat) : Slot := Kv.get (Slot.init sk) s.slots sk
/-- The state with a slot replaced. -/
def State.setSlot (s : State) (sk : Nat) (c : Slot) : State := { s with slots := Kv.put s.slots sk c }
/-- A core's state. -/
def State.core (s : State) (c : Nat) : CoreSt := Kv.get {} s.cores c
/-- The state with a core replaced. -/
def State.setCore (s : State) (c : Nat) (x : CoreSt) : State := { s with cores := Kv.put s.cores c x }

/-- Scalar register `r` of sequencer `k`; s0 reads as zero (R18). -/
def State.reg (s : State) (k : Nat) (r : BitVec 5) : Word := if r = 0 then 0 else Kv.get 0 (s.seq k).regs r.toNat

/-- A write of scalar register `r`; s0 discards it (R18). -/
def State.setReg (s : State) (k : Nat) (r : BitVec 5) (v : Word) : State :=
  if r = 0 then s else s.setSeq k { s.seq k with regs := Kv.put (s.seq k).regs r.toNat v }

/-- The program counter of sequencer `k`. -/
def State.pc (s : State) (k : Nat) : Word := (s.seq k).pc

/-- A write of the program counter. -/
def State.setPc (s : State) (k : Nat) (v : Word) : State := s.setSeq k { s.seq k with pc := v }

/-- The program counter moved past the instruction's bytes (R24). -/
def State.adv (s : State) (k n : Nat) : State := s.setPc k (s.pc k + BitVec.ofNat 64 n)

/-! ### Tokens (R28, R29, R164) -/

/-- A T bit names a missing neighbour (R29). -/
def tokenMisuse (role : Nat) (t : BitVec 4) : Bool :=
  match role with
  | 0 => t.getLsbD 0 || t.getLsbD 2
  | 1 => false
  | 2 => t.getLsbD 1 || t.getLsbD 3
  | _ => decide (t ≠ 0)

/-- Tokens in the FIFOs that pop.l and pop.r take from (R29). -/
def Slot.inL (c : Slot) (role : Nat) : Nat := if role = 2 then c.xs else c.lx
def Slot.inR (c : Slot) (role : Nat) : Nat := if role = 0 then c.xl else c.sx
/-- Tokens in the FIFOs that push.l and push.r fill (R29). -/
def Slot.outL (c : Slot) (role : Nat) : Nat := if role = 2 then c.sx else c.xl
def Slot.outR (c : Slot) (role : Nat) : Nat := if role = 0 then c.lx else c.xs
def Slot.setInL (c : Slot) (role n : Nat) : Slot := if role = 2 then { c with xs := n } else { c with lx := n }
def Slot.setInR (c : Slot) (role n : Nat) : Slot := if role = 0 then { c with xl := n } else { c with sx := n }
def Slot.setOutL (c : Slot) (role n : Nat) : Slot := if role = 2 then { c with sx := n } else { c with xl := n }
def Slot.setOutR (c : Slot) (role n : Nat) : Slot := if role = 0 then { c with lx := n } else { c with xs := n }

/-- Every FIFO the T bits pop holds a token (R28). -/
def Slot.popOk (c : Slot) (role : Nat) (t : BitVec 4) : Bool :=
  (!t.getLsbD 0 || decide (0 < c.inL role)) && (!t.getLsbD 1 || decide (0 < c.inR role))

/-- All pops of one instruction, taken together (R28). -/
def Slot.pop (c : Slot) (role : Nat) (t : BitVec 4) : Slot :=
  let c := if t.getLsbD 0 then c.setInL role (c.inL role - 1) else c
  if t.getLsbD 1 then c.setInR role (c.inR role - 1) else c

/-- The FIFOs that pop.l and pop.r take from and push.l and push.r fill (R29): 0 LX, 1 XL, 2 XS, 3 SX. -/
def fifoInL (role : Nat) : Nat := if role = 2 then 2 else 0
def fifoInR (role : Nat) : Nat := if role = 0 then 1 else 3
def fifoOutL (role : Nat) : Nat := if role = 2 then 3 else 1
def fifoOutR (role : Nat) : Nat := if role = 0 then 0 else 2

/-- Tokens popped so far, after an instruction's pops (R293). -/
def countPops (l : List (Nat × Nat)) (role : Nat) (t : BitVec 4) : List (Nat × Nat) :=
  let l := if t.getLsbD 0 then Kv.put l (fifoInL role) (Kv.get 0 l (fifoInL role) + 1) else l
  if t.getLsbD 1 then Kv.put l (fifoInR role) (Kv.get 0 l (fifoInR role) + 1) else l

/-- The same with an instruction's pops given back. -/
def uncountPops (l : List (Nat × Nat)) (role : Nat) (t : BitVec 4) : List (Nat × Nat) :=
  let l := if t.getLsbD 0 then Kv.put l (fifoInL role) (Kv.get 0 l (fifoInL role) - 1) else l
  if t.getLsbD 1 then Kv.put l (fifoInR role) (Kv.get 0 l (fifoInR role) - 1) else l

/-- The issue of an instruction: its pops, and the side effect that a push is (R312). -/
def Slot.issue (c : Slot) (role : Nat) (t : BitVec 4) : Slot :=
  { c.pop role t with
    sideEffect := c.sideEffect || t.getLsbD 2 || t.getLsbD 3
    popped := if c.det then countPops c.popped role t else c.popped }

/-- The pops of an instruction given back: it has not issued after all (R45, R193). -/
def Slot.unpop (c : Slot) (role : Nat) (t : BitVec 4) : Slot :=
  let c := if t.getLsbD 0 then c.setInL role (c.inL role + 1) else c
  let c := if t.getLsbD 1 then c.setInR role (c.inR role + 1) else c
  { c with popped := if c.det then uncountPops c.popped role t else c.popped }

/-- Every FIFO the T bits push has room (R28). -/
def Slot.pushOk (c : Slot) (role : Nat) (t : BitVec 4) : Bool :=
  (!t.getLsbD 2 || decide (c.outL role < 16)) && (!t.getLsbD 3 || decide (c.outR role < 16))

/-- All pushes of one instruction. -/
def Slot.push (c : Slot) (role : Nat) (t : BitVec 4) : Slot :=
  let c := if t.getLsbD 2 then c.setOutL role (c.outL role + 1) else c
  if t.getLsbD 3 then c.setOutR role (c.outR role + 1) else c

/-- A slot changed by a function. -/
def State.modSlot (s : State) (sk : Nat) (f : Slot → Slot) : State := s.setSlot sk (f (s.slot sk))
/-- A sequencer changed by a function. -/
def State.modSeq (s : State) (k : Nat) (f : Seq → Seq) : State := s.setSeq k (f (s.seq k))
/-- A core changed by a function. -/
def State.modCore (s : State) (c : Nat) (f : CoreSt → CoreSt) : State := s.setCore c (f (s.core c))

/-- The rank of a slot at a role port and for an engine's choice (R21, R330): slot 5, slot 4, then by the priority its
task held at launch. -/
def State.rank (s : State) (sk : Nat) : Nat :=
  if slotNum sk = 5 then 0 else if slotNum sk = 4 then 1 else 2 + (s.slot sk).prio

/-- The commands of a slot in flight: those that its streams have issued (R22, R264). -/
def State.inFlight (s : State) (sk : Nat) : List Cmd := s.cmds.filter fun c => decide (slotKey c.seqk = sk) && c.sub.isNone

/-! ### Traps (R347 to R352) -/

/-- The start of a trap record of sequencer `k`: what every record of its units holds. -/
def State.trapBase (s : State) (k : Nat) : TrapRec :=
  { time := s.time, pc := s.pc k, task := ((s.slot (slotKey k)).taskid).setWidth 32, stream := roleOf k,
    slot := slotNum (slotKey k), core := coreOf k }

/-- A count of soft errors in one half of SERRC or SERRD, stopping at all ones (R370). -/
def countErr (r : Word) (uncorrectable : Bool) : Word :=
  let lo := r.toNat % 2 ^ 32
  let hi := r.toNat / 2 ^ 32
  BitVec.ofNat 64 (if uncorrectable then lo + min (hi + 1) (2 ^ 32 - 1) * 2 ^ 32 else min (lo + 1) (2 ^ 32 - 1) + hi * 2 ^ 32)

/-- The core IDs of an octant (R14). -/
def coresOf (o : Nat) : List Nat := (List.range 128).filterMap fun i => if i % 16 < 12 then some (o * 128 + i) else none

/-- An uncorrectable error of a line met by a consumer is counted: of SRAM at a core, of DRAM at the cores of the octant
(R369). -/
def State.countLine (s : State) (core line : Nat) : State :=
  if line % 4 = 0 then
    (coresOf (line / 4 * 128 % 2 ^ 40 / Config.octantBytes)).foldl
      (fun s c => s.modCore c fun x => { x with serrd := countErr x.serrd true }) s
  else s.modCore core fun x => { x with serrc := countErr x.serrc true }

/-- The uncorrectable error of a trap record is counted (R369). -/
def State.countSoft (s : State) (r : TrapRec) : State := if r.ecc then s.countLine r.core r.line else s

/-- A write of the module's own into main memory (R96); to a peer's it is sent. No command waits for its fault: where the
old line fails verification it keeps its bytes, and the policy core is told. -/
def State.putMain (s : State) (a : Nat) (bs : List Byte) : State :=
  match s.writeLines .main a bs (originTag 0 0) (originTag 0 0) with
  | (t, none) => t.sendWrite 0 2 a bs.length
  | (t, some b) =>
    (if b.ecc then t.countLine 0 b.key else t).event "integrity" (BitVec.ofNat 64 b.addr)
      (BitVec.ofNat 64 (b.stored.toNat * 2 ^ 32 + b.computed.toNat))

/-- What a stop is for: the reasons of R363, and 7 for a kill, of which nothing is saved (R358). -/
def killReason : Nat := 7

/-- A record made now governs the task's fate: it is the first, and the task is not being killed (R351, R358). -/
def Slot.governs (c : Slot) : Bool := c.trap.isNone && decide (c.stopping ≠ some ⟨killReason⟩)

/-- What FLAST holds of a slot's last fault (R370): code, engine and sequence number. -/
def TrapRec.flast (r : TrapRec) : Word := BitVec.ofNat 64 (r.code % 256 + r.engine % 16 * 256 + r.seq.toNat * 4096)

/-- Taking a trap: the record goes to the policy core; the first of a task governs its fate and begins the fault
stop; FLAST shows the last (R351, R352, R370). The slot's sequencers issue nothing more. -/
def State.takeTrap (s : State) (sk : Nat) (r : TrapRec) : State :=
  let s := { s.countSoft r with policy := s.policy ++ [PolicyRec.trap r] }
  s.modSlot sk fun c =>
    { c with
      trap := if c.governs then some r else c.trap
      stopping := if c.governs then some ⟨3⟩ else c.stopping
      saved := if c.governs then 0 else c.saved
      flast := r.flast }

/-- A trap of a sequencer's own instruction: the sequencer stops (R352). -/
def State.trapSeq (s : State) (k : Nat) (r : TrapRec) : State :=
  (s.takeTrap (slotKey k) r).modSeq k fun q => { q with stopped := true }

/-- A precise trap of the instruction at the PC of sequencer `k`: fault code, engine, address and status word. -/
def State.trapAt (s : State) (k code engine : Nat) (addr : Nat) (status : Nat := 0) : State :=
  s.trapSeq k { s.trapBase k with
    code := code, engine := engine, addr := BitVec.ofNat 56 addr, status := BitVec.ofNat 32 status, prec := true }

/-- The check-word fields of a record (R97, R98). -/
def TrapRec.withBad (r : TrapRec) (b : BadLine) : TrapRec :=
  { r with crcNew := b.computed, crcOld := b.stored, otag := b.tag, addr := BitVec.ofNat 56 b.addr, ecc := b.ecc,
           chk := !b.ecc, line := b.key }

/-- The 64 bytes of a trap record (R347). -/
def TrapRec.bytes (r : TrapRec) : List Byte :=
  leBytes 64 (r.code % 256 + r.engine % 16 * 2 ^ 10 + bit r.prec * 2 ^ 14 + bit r.thk * 2 ^ 15 + bit r.chk * 2 ^ 16 +
    bit r.ecc * 2 ^ 17 + r.core % 1024 * 2 ^ 18 + r.slot % 8 * 2 ^ 28 + r.stream % 8 * 2 ^ 31 + r.seq.toNat * 2 ^ 34 +
    r.ord.toNat * 2 ^ 50 + r.oseq.toNat * 2 ^ 66 + r.task.toNat * 2 ^ 82 + r.status.toNat * 2 ^ 114 +
    r.addr.toNat * 2 ^ 146 + bits r.pc 2 53 * 2 ^ 202 + r.mstate.toNat * 2 ^ 255 + r.otag.toNat * 2 ^ 368 +
    r.crcOld.toNat * 2 ^ 384 + r.crcNew.toNat * 2 ^ 416 + r.time.toNat * 2 ^ 448)

/-! ### The shared issue of short instructions (R28, R45, R171) -/

/-- What one part of an instruction leads to: it goes on, waits, or traps. A trap gives its pops back, for a precise
trap pops no token (R45); `stop` keeps them (R190). -/
inductive Res where
  | go (s : State)
  | hold (s : State)
  | trap (s : State)
  | stop (s : State)

/-- A load, an AMO, a command or a short instruction of the sequencer has still to write register `r` (R171). -/
def State.pendingReg (s : State) (k : Nat) (r : BitVec 5) : Bool :=
  decide (r ≠ 0) &&
    ((s.seq k).loads.any (fun e => match e.op with | .load _ _ d => decide (d = r) | _ => false) ||
     (s.seq k).stores.any (fun e => match e.op with | .amo _ _ _ _ _ _ d => decide (d = r) | _ => false) ||
     s.cmds.any (fun c => decide (c.seqk = k) && decide (c.rd = r)) || (s.seq k).late.any fun x => decide (x.1 = r))

/-- A SPAWN or a CASWAP of the sequencer has issued and not retired: both are precise, with no later instruction of the
sequencer before them (R291, R302). -/
def State.spawning (s : State) (k : Nat) : Bool :=
  s.cmds.any fun c => decide (c.seqk = k) && decide (c.inj ≠ 3) &&
    match c.ins with
    | .spawn _ _ _ _ _ => true
    | .caswap _ _ _ _ _ => true
    | _ => false

/-- A sequencer that may issue: live, not stopped, its slot neither stopping nor, for L and S, exiting, but for a store that
has issued already (R308, R352), its core not halted (R368), and no push of it waiting for room (R28). -/
def State.canIssue (s : State) (k : Nat) : Bool :=
  (s.seq k).active && !(s.seq k).stopped && (s.slot (slotKey k)).stopping.isNone &&
  ((s.slot (slotKey k)).exiting.isNone || decide (roleOf k = 1) || (s.seq k).strong) && !(s.core (coreOf k)).halted &&
  !s.spawning k && (s.seq k).owed.isEmpty && (s.seq k).full.isEmpty

/-- What the shared issue needs to know of an instruction: the role table's answer for slot and role (R34), whether
its fields are well formed (R45 checks 1, 2, 4), its token bits, the registers it reads or writes (R171), and whether
its pushes are made later, when a queue entry performs. -/
structure Form where
  roles : Nat → Nat → Bool
  ok : Bool
  t : BitVec 4
  uses : List (BitVec 5)
  late : Bool
  /-- The register of an instruction that writes it, and retires, in a later cycle than it issues in (R171, R172). -/
  slow : Option (BitVec 5) := none

/-- Every role (R34). -/
def rolesAll : Nat → Nat → Bool := fun _ _ => true
/-- The X role. -/
def rolesX : Nat → Nat → Bool := fun _ r => decide (r = 1)
/-- X and H. -/
def rolesXH : Nat → Nat → Bool := fun _ r => decide (r = 1) || decide (r = 3)
/-- L and H. -/
def rolesLH : Nat → Nat → Bool := fun _ r => decide (r = 0) || decide (r = 3)
/-- S and H. -/
def rolesSH : Nat → Nat → Bool := fun _ r => decide (r = 2) || decide (r = 3)
/-- L and S. -/
def rolesLS : Nat → Nat → Bool := fun _ r => decide (r = 0) || decide (r = 2)
/-- The L role. -/
def rolesL : Nat → Nat → Bool := fun _ r => decide (r = 0)
/-- The S role. -/
def rolesS : Nat → Nat → Bool := fun _ r => decide (r = 2)

/-- The pops of the instruction at the PC are given back, and it has not issued (R193). -/
def State.unissue (s : State) (k : Nat) (t : BitVec 4) : State :=
  (s.modSlot (slotKey k) (·.unpop (roleOf k) t)).modSeq k fun q => { q with issued := false }

/-- Pushes made (R28, R159). -/
def State.pushTokens (s : State) (k : Nat) (t : BitVec 4) : State := s.modSlot (slotKey k) (·.push (roleOf k) t)

/-- Room for pushes. -/
def State.room (s : State) (k : Nat) (t : BitVec 4) : Bool := (s.slot (slotKey k)).pushOk (roleOf k) t

/-- The pushes of an instruction whose retirement has come: made at once, or owed until there is room (R28). -/
def State.pushOwe (s : State) (k : Nat) (t : BitVec 4) : State :=
  if (s.seq k).owed.isEmpty && s.room k t then s.pushTokens k t
  else s.modSeq k fun q => { q with owed := q.owed ++ [t] }

/-- The pushes of a short instruction that has done its work: now, or, when it retires in a later cycle, then (R171). -/
def State.pushShort (s : State) (k : Nat) (f : Form) : State :=
  if f.late then s
  else
    match (if s.delay then f.slow else none) with
    | some d => s.modSeq k fun q => { q with late := q.late ++ [(d, f.t)] }
    | none => s.pushOwe k f.t

/-- The `n`-th instruction that has still to retire does (R171). -/
def State.retireLate (s : State) (k n : Nat) : State :=
  match (s.seq k).late[n]? with
  | none => s
  | some x => (s.modSeq k fun q => { q with late := q.late.eraseIdx n }).pushOwe k x.2

/-- The part of an issued short instruction after its pops: its work `eff`, in its issue cycle, and its retirement (R28,
R171). -/
def finishShort (f : Form) (eff : State → Res) (s : State) : State :=
  match eff s with
  | .go s' => (s'.pushShort s.cur f).modSeq s.cur fun q => { q with issued := false }
  | .hold s' => s'
  | .trap s' => s'.unissue s.cur f.t
  | .stop s' => s'.modSeq s.cur fun q => { q with issued := false }

/-- The shared issue of a short instruction of the current sequencer: the checks of R45 in order, the hazards and
pops of R171 and R28, the instruction's own conditions `pre`, its pops, and `finishShort`. A sequencer that waits
leaves the state as it is. -/
def issueShort (f : Form) (pre eff : State → Res) (s : State) : State :=
  if !s.canIssue s.cur then s
  else if !(f.ok && f.roles (slotNum (slotKey s.cur)) (roleOf s.cur)) then s.trapAt s.cur 1 0 0
  else if tokenMisuse (roleOf s.cur) f.t then s.trapAt s.cur 2 0 0
  else if (s.seq s.cur).issued then finishShort f eff s
  else if !(s.slot (slotKey s.cur)).popOk (roleOf s.cur) f.t || f.uses.any (s.pendingReg s.cur) then s
  else
    match pre s with
    | .go s' =>
      finishShort f eff ((s'.modSlot (slotKey s.cur) (·.issue (roleOf s.cur) f.t)).modSeq s.cur
        fun q => { q with issued := true })
    | .hold s' => s'
    | .trap s' => s'
    | .stop s' => s'

/-- No condition of the instruction's own. -/
def preGo : State → Res := .go

/-- A short instruction that writes the register `d` with a value and moves on. -/
def writeReg (d : BitVec 5) (v : State → Word) (s : State) : Res :=
  .go ((s.setReg s.cur d (v s)).adv s.cur 4)

/-! ### Slice addresses (R147 to R149) -/

/-- `n` bytes at slice address `a` lie in one core's slice (R147). -/
def sliceOk (a n : Nat) : Bool :=
  decide (a < 2 ^ 33) && decide (a / 2 ^ 23 % 16 < 12) && decide (a % 2 ^ 23 + n ≤ Config.sliceBytes)

/-- The bytes a window register grants: base and size; none when it is invalid (R148). -/
def windowOf (w : Word) : Option (Nat × Nat) :=
  let size := 4096 * 2 ^ bits w 36 4
  let base := bits w 12 21 * 4096
  if bits w 33 1 = 1 ∧ bits w 36 4 ≤ 10 ∧ base % size = 0 ∧ base % 2 ^ 23 + size ≤ Config.sliceBytes then
    some (base, size)
  else none

/-- The window check (R149): one valid window of the slot holds every byte. -/
def State.window (s : State) (sk a n : Nat) : Bool :=
  (List.range 4).any fun i =>
    match windowOf (Kv.get 0 (s.slot sk).swin i) with
    | some (b, z) => decide (b ≤ a) && decide (a + n ≤ b + z)
    | none => false

/-! ### Translation (R79 to R90) -/

/-- The key of a physical address in `mem`: local DRAM and CA pool lines by offset (R80). -/
def memKey (pa : Nat) : Nat := if pa / 2 ^ 50 = 0 ∨ pa / 2 ^ 50 = 1 then pa % 2 ^ 40 else pa

/-- An access for translation (R84): 0 read, 1 write, 2 fetch; by a copy command; atomic. -/
structure Acc where
  kind : Nat
  copy : Bool := false
  atomic : Bool := false
  deriving DecidableEq, Repr

/-- The origin tag made where a line of a peer enters the module: its Adosh port (R94, R95, R380). -/
def fabricTag (a rank : Nat) : BitVec 16 := originTag 4 (Config.portHash (a % 2 ^ 42 / 128) rank % 18)

/-- The origin tag with which a line of main memory reaches a consumer (R94, R95): one that enters from the host or over
the fabric gets its check word at the hub die. -/
def State.lineTag (s : State) (pa : Nat) : BitVec 16 :=
  match pa / 2 ^ 50 with
  | 2 => originTag 3 0
  | 3 => fabricTag pa (pa / 2 ^ 42 % 256)
  | _ => s.tag .main (memKey pa)

/-- A physical address names no memory (R79, R84 reason 6). Address bits above the memory (PA[49:40] of kinds 0 and 1,
PA[49:48] of kind 2) that are not zero name none: DESIGN CHOICE, log 95. -/
def State.noMemory (s : State) (pa : Nat) : Bool :=
  if pa / 2 ^ 50 = 3 then !s.peers.contains (pa / 2 ^ 42 % 2 ^ 8)
  else if pa / 2 ^ 50 = 2 then decide (pa / 2 ^ 48 % 4 ≠ 0)
  else decide (Config.dramBytes ≤ pa % 2 ^ 50)

/-- The class of a leaf agrees with the kind of its physical address (R84). -/
def classAgrees (cls pa : Nat) : Bool :=
  match cls, pa / 2 ^ 50 with
  | 0, 0 => true
  | 0, 3 => decide (pa / 2 ^ 40 % 4 = 0)
  | 1, 1 => true
  | 1, 3 => decide (pa / 2 ^ 40 % 4 = 1)
  | 2, 0 => true
  | 2, 3 => decide (pa / 2 ^ 40 % 4 = 0)
  | 3, 2 => true
  | _, _ => false

/-- The class of a leaf admits the access, its permissions aside (R84). -/
def classAdmits (cls : Nat) (a : Acc) : Bool :=
  match cls with
  | 1 => a.copy && !a.atomic
  | 3 => !a.atomic
  | _ => true

/-- What a walk finds (R82 to R84, R419): a leaf with the address of its entry, a reason, or a bad line. -/
inductive Walk where
  | leaf (pte : Word) (at' pa : Nat)
  | refused (reason : Nat)
  | bad (b : BadLine)

/-- A table entry that points to no table (R84). -/
def State.badTable (s : State) (e : Word) : Bool :=
  decide (bits e 2 14 ≠ 0) || decide (bits e 52 12 ≠ 0) || decide (bits e 16 36 * 2 ^ 16 / 2 ^ 50 ≠ 0) ||
  s.noMemory (bits e 16 36 * 2 ^ 16)

/-- A leaf that is malformed at its level (R84). -/
def badLeaf (e : Word) (level : Nat) : Bool :=
  decide (level = 1) || decide (bits e 8 8 ≠ 0) || decide (bits e 52 12 ≠ 0) ||
  (decide (level = 2) && decide (bits e 16 13 ≠ 0)) || (decide (bits e 4 2 = 1) && decide (bits e 2 1 = 1))

/-- The page-table entry at a physical address, its line verified (R419). -/
def State.pte (s : State) (pa : Nat) : Except BadLine Word :=
  match s.verify .main (memKey pa) 8 with
  | some b => .error b
  | none => .ok (BitVec.ofNat 64 (leNat (s.bytes .main (memKey pa) 8)))

/-- The walk from a table at `base`; `shifts` are the low bits of the indices of the levels left (R82). -/
def State.walk (s : State) (va : Nat) : Nat → List Nat → Nat → Walk
  | _, [], _ => .refused 5
  | level, sh :: rest, base =>
    let at' := base + va / 2 ^ sh % 8192 * 8
    match s.pte at' with
    | .error b => .bad b
    | .ok e =>
      if bits e 0 1 = 0 then .refused 1
      else if bits e 1 1 = 1 then
        if badLeaf e level then .refused 5
        else .leaf e at' (bits e 16 36 * 2 ^ 16 + va % 2 ^ sh)
      else if rest.isEmpty || s.badTable e then .refused 5
      else s.walk va (level + 1) rest (bits e 16 36 * 2 ^ 16)

/-- The first reason that applies to an access through a well-formed leaf, in the order of R84; 0: none. -/
def State.leafReason (s : State) (e : Word) (pa : Nat) (a : Acc) : Nat :=
  if !classAgrees (bits e 4 2) pa then 3
  else if s.noMemory pa then 6
  else if !classAdmits (bits e 4 2) a then 3
  else if a.kind = 2 ∧ bits e 3 1 = 0 then 4
  else if a.kind = 1 ∧ bits e 2 1 = 0 then 2
  else 0

/-- The atomic OR that sets accessed and dirty (R85, R419). -/
def State.orPte (s : State) (at' : Nat) (e : Word) (write : Bool) : Except BadLine State :=
  let e' := e ||| BitVec.ofNat 64 (64 + 128 * bit write)
  if e' = e then .ok s
  else s.store .main (memKey at') (leBytes 8 e'.toNat) (originTag 0 0) (originTag 0 0)

/-- What translating one access gives: a physical address with the leaf's class, a wait, a fault code with its
reason, or a bad line. -/
inductive XRes where
  | ok (pa cls : Nat)
  | hold
  | fault (code reason : Nat)
  | bad (b : BadLine)

/-- The fault code of a declined request (R89). -/
def reasonCode (r : Nat) : Nat := if r = 1 ∨ r = 5 ∨ r = 6 then 5 else 6

/-- The TROOT register that 64 bits of an RCB or of the configuration record give (R86): its reserved bits read zero. -/
def trootOf (w : Nat) : Word := BitVec.ofNat 64 w &&& 0xFFFFFFFFFFFF0001

/-- What a leaf gives a TLB (R85, R87). -/
def leafEntry (asid va : Nat) (e : Word) (at' pa : Nat) : TlbEntry :=
  { asid := asid, page := va / 2 ^ 16, base := pa / 2 ^ 16 * 2 ^ 16, w := decide (bits e 2 1 = 1)
    x := decide (bits e 3 1 = 1), cls := bits e 4 2, dirty := false, pte := at' }

/-- A walk of an access, with accessed and dirty set: the new state, the entry a TLB loads, and the result as a
reason (0: translated) or a bad line (R82 to R85). -/
def State.walkFor (s : State) (troot : Word) (va : Nat) (a : Acc) :
    Except BadLine (State × Option TlbEntry × Nat) :=
  if bits troot 0 1 = 0 then .ok (s, none, 1)
  else if s.noMemory (bits troot 16 36 * 2 ^ 16) || decide (bits troot 16 36 * 2 ^ 16 / 2 ^ 50 ≠ 0) then .ok (s, none, 5)
  else
    match s.walk va 1 [42, 29, 16] (bits troot 16 36 * 2 ^ 16) with
    | .bad b => .error b
    | .refused r => .ok (s, none, r)
    | .leaf e at' pa =>
      if s.leafReason e pa a ≠ 0 then .ok (s, none, s.leafReason e pa a)
      else
        match s.orPte at' e (decide (a.kind = 1)) with
        | .error b => .error b
        | .ok s' =>
          .ok (s', some { leafEntry (bits troot 52 12) va e at' pa with dirty := decide (a.kind = 1) }, 0)

/-- An entry of a TLB that translates the access without a walk (R85, R87). -/
def tlbHit (tlb : List TlbEntry) (asid va : Nat) (a : Acc) : Option TlbEntry :=
  tlb.find? fun e => decide (e.asid = asid) && decide (e.page = va / 2 ^ 16) && decide (e.reason = 0) && classAdmits e.cls a &&
    (decide (a.kind ≠ 1) || (e.w && e.dirty)) && (decide (a.kind ≠ 2) || e.x)

/-- A TLB of `n` entries with one more; the oldest goes when it is full (R87). -/
def tlbAdd (n : Nat) (tlb : List TlbEntry) (e : TlbEntry) : List TlbEntry :=
  let l := tlb.filter (fun x => !(decide (x.asid = e.asid) && decide (x.page = e.page))) ++ [e]
  l.drop (l.length - n)

/-- The first access through an entry that a walk ahead of need loaded sets accessed (R85, R419). -/
def State.setAccessed (s : State) (e : TlbEntry) : Except BadLine State :=
  if e.acc then .ok s
  else
    match s.pte e.pte with
    | .error b => .error b
    | .ok w => s.orPte e.pte w false

/-- The TLB after that access. -/
def tlbTouch (tlb : List TlbEntry) (e : TlbEntry) : List TlbEntry :=
  if e.acc then tlb else tlb.map fun x => if x = e then { x with acc := true } else x

/-- A walk ahead of need (R85, R87, R419): it sets neither accessed nor dirty and asks nobody; what it finds, a
translation or none, is an entry. -/
def State.walkAhead (s : State) (troot : Word) (va : Nat) (a : Acc) : TlbEntry :=
  let none' : TlbEntry :=
    { asid := bits troot 52 12, page := va / 2 ^ 16, base := 0, w := decide (a.kind = 1), x := false, cls := 0, dirty := false
      acc := false, reason := 1 }
  if bits troot 0 1 = 0 then none'
  else if s.noMemory (bits troot 16 36 * 2 ^ 16) || decide (bits troot 16 36 * 2 ^ 16 / 2 ^ 50 ≠ 0) then { none' with reason := 5 }
  else
    match s.walk va 1 [42, 29, 16] (bits troot 16 36 * 2 ^ 16) with
    | .bad b => { none' with reason := 5, bad := some b }
    | .refused r => { none' with reason := r }
    | .leaf e at' pa =>
      if s.leafReason e pa a ≠ 0 then { none' with reason := s.leafReason e pa a }
      else { leafEntry (bits troot 52 12) va e at' pa with acc := false }

/-- The parts of a fault request that its source supplies (R88). -/
structure Source where
  waiter : Waiter
  offset : Nat := 0
  num : BitVec 16 := 0
  core : Nat
  slot : Nat
  engine : Nat
  queue : Nat := 0

/-- A fault request made, or joined when one waits for the same asid and page (R88). -/
def State.request (s : State) (q : Source) (asid va : Nat) (a : Acc) (reason : Nat) : State :=
  if s.requests.any (fun r => decide (r.asid = asid) && decide (r.va.toNat / 2 ^ 16 = va / 2 ^ 16) && !r.declined) then
    { s with requests := s.requests.map fun r =>
        if r.asid = asid ∧ r.va.toNat / 2 ^ 16 = va / 2 ^ 16 ∧ r.declined = false then
          { r with waiters := r.waiters ++ [q.waiter] }
        else r }
  else
    { s with
      nextReq := s.nextReq + 1
      requests := s.requests ++
        [{ id := s.nextReq, va := BitVec.ofNat 64 va, offset := BitVec.ofNat 32 q.offset, num := q.num, core := q.core,
           slot := q.slot, engine := q.engine, queue := q.queue, access := a.kind, reason := reason, asid := asid,
           time := s.time, waiters := [q.waiter], declined := false }] }

/-- Something waits for the policy core's answer about this page (R88, R89). -/
def State.waitsPage (s : State) (w : Waiter) (asid va : Nat) : Option Request :=
  s.requests.find? fun r => r.waiters.contains w && decide (r.asid = asid) && decide (r.va.toNat / 2 ^ 16 = va / 2 ^ 16)

/-- The request that something waits on. -/
def State.waitsOn (s : State) (w : Waiter) : Option Request := s.requests.find? (·.waiters.contains w)

/-- It waits for no answer, and has none to take about this page. -/
def State.asksNothing (s : State) (w : Waiter) (asid va : Nat) : Bool :=
  (s.waitsPage w asid va).isNone && !s.requests.any fun r => r.waiters.contains w && !r.declined

/-- A declined request that nothing waits on any more is over; one without its answer stays with the policy core
(R88, R89). -/
def State.sweepRequests (s : State) : State :=
  { s with requests := s.requests.filter fun r => !(r.declined && r.waiters.isEmpty) }

/-- A declined request's answer is taken by one that waits (R89). -/
def State.takeAnswer (s : State) (w : Waiter) : State :=
  State.sweepRequests { s with requests := s.requests.map fun r => { r with waiters := r.waiters.filter (· ≠ w) } }

/-- One access translated (R84 to R89): a held source stays held until the policy core answers, and the access to the
page asked about takes a decline; a hit needs no walk;
a refusal becomes a request. `tlb` is the source's TLB of `n` entries; the result carries it on. -/
def State.xlate (s : State) (q : Source) (troot : Word) (tlb : List TlbEntry) (n va : Nat) (a : Acc) :
    State × List TlbEntry × XRes :=
  match s.waitsPage q.waiter (bits troot 52 12) va with
  | some r => if r.declined then (s.takeAnswer q.waiter, tlb, .fault (reasonCode r.reason) r.reason) else (s, tlb, .hold)
  | none =>
    if !s.asksNothing q.waiter (bits troot 52 12) va then (s, tlb, .hold)
    else
    match (if bits troot 0 1 = 1 then tlbHit tlb (bits troot 52 12) va a else none) with
    | some e =>
      match s.setAccessed e with
      | .error b => (s, tlb, .bad { b with addr := va })
      | .ok s' => (s', tlbTouch tlb e, .ok (e.base + va % 2 ^ 16) e.cls)
    | none =>
      match s.walkFor troot va a with
      | .error b => (s, tlb, .bad { b with addr := va })
      | .ok (s', some e, _) => (s', tlbAdd n tlb e, .ok (e.base + va % 2 ^ 16) e.cls)
      | .ok (s', none, r) => (s'.request q (bits troot 52 12) va a r, tlb, .hold)

/-- An access of a sequencer (fetch or atomic) translated through its address TLB (R87). -/
def State.xlateSeq (s : State) (k va : Nat) (w : Waiter) (engine : Nat) (a : Acc) : State × XRes :=
  let r := s.xlate { waiter := w, core := coreOf k, slot := slotNum (slotKey k), engine := engine }
    (s.slot (slotKey k)).troot (s.seq k).tlb 32 va a
  (r.1.modSeq k fun q => { q with tlb := r.2.1 }, r.2.2)

/-- A sequencer looks up the first page of a virtual operand at issue, without a stall (R87): translated, with the entry
attached; pending, with nothing; or deferred, the TLB's entry not valid. Without a valid entry a walk refills the TLB. -/
def State.lookPage (s : State) (k va : Nat) : State × List TlbEntry :=
  let troot := (s.slot (slotKey k)).troot
  match (s.seq k).tlb.find? fun e => decide (e.asid = bits troot 52 12) && decide (e.page = va / 2 ^ 16) with
  | some e =>
    if e.reason = 0 then (s, [e])
    else (s.modSeq k fun q => { q with tlb := tlbAdd 32 q.tlb (s.walkAhead troot va { kind := 0, copy := true }) }, [e])
  | none =>
    let e := s.walkAhead troot va { kind := 0, copy := true }
    (if e.reason ≤ 1 then s.modSeq k fun q => { q with tlb := tlbAdd 32 q.tlb e } else s, [])

/-- The lookups of all virtual operands of an instruction (R87). -/
def State.lookPages (s : State) (k : Nat) (vas : List Word) : State × List TlbEntry :=
  vas.foldl (fun r v => let x := r.1.lookPage k v.toNat; (x.1, r.2 ++ x.2)) (s, [])

/-- A held result that the access meets: the page is not present whoever asks, or refused to this kind of access. -/
def heldResult (ops : List TlbEntry) (asid va : Nat) (a : Acc) : Option TlbEntry :=
  ops.find? fun e => decide (e.asid = asid) && decide (e.page = va / 2 ^ 16) && decide (e.reason ≠ 0) &&
    (decide (e.reason = 1) || (e.w == decide (a.kind = 1)))

/-- A command's entries changed by a function. -/
def State.modOps (s : State) (uid : Nat) (f : List TlbEntry → List TlbEntry) : State :=
  { s with cmds := s.cmds.map fun (c : Cmd) => if c.uid = uid then { c with ops := f c.ops } else c }

/-- An access in the last 16 KiB of a page walks the next page ahead of need (R87): a translation enters the stream TLB,
and what has none is held for the command. -/
def State.prefetch (s : State) (q : Source) (uid : Nat) (ops : List TlbEntry) (troot : Word) (va : Nat) (a : Acc) : State :=
  let p := va / 2 ^ 16 + 1
  let asid := bits troot 52 12
  let known (l : List TlbEntry) : Bool := l.any fun e => decide (e.asid = asid) && decide (e.page = p)
  if va % 2 ^ 16 < 49152 || decide (2 ^ 39 ≤ p) || known ops || known (Kv.get [] (s.core q.core).etlb q.engine) then s
  else
    let e := s.walkAhead troot (p * 2 ^ 16) a
    if e.reason = 0 then
      s.modCore q.core fun c => { c with etlb := Kv.put c.etlb q.engine (tlbAdd 64 (Kv.get [] c.etlb q.engine) e) }
    else s.modOps uid (· ++ [e])

/-- An access of an engine translated through its stream TLB of 64 entries (R87). -/
def State.xlateStream (s : State) (q : Source) (troot : Word) (va : Nat) (a : Acc) : State × XRes :=
  let r := s.xlate q troot (Kv.get [] (s.core q.core).etlb q.engine) 64 va a
  (r.1.modCore q.core fun c => { c with etlb := Kv.put c.etlb q.engine r.2.1 }, r.2.2)

/-- The command that waits as an engine's source. -/
def State.sourceCmd (s : State) (q : Source) : Option Cmd :=
  match q.waiter with
  | .command u => s.cmds.find? (·.uid == u)
  | _ => none

/-- An access of an engine for a command (R87, R88): a result the command holds comes first, then the entry attached at
issue, then the stream TLB. -/
def State.xlateEngine (s : State) (q : Source) (troot : Word) (va : Nat) (a : Acc) : State × XRes :=
  match s.sourceCmd q with
  | none => s.xlateStream q troot va a
  | some c =>
    match (if s.asksNothing q.waiter (bits troot 52 12) va then heldResult c.ops (bits troot 52 12) va a else none) with
    | some e =>
      let s1 := s.modOps c.uid fun l => l.filter (· ≠ e)
      match e.bad with
      | some b => (s1, .bad { b with addr := va })
      | none => (s1.request q (bits troot 52 12) va a e.reason, .hold)
    | none =>
      match (if s.asksNothing q.waiter (bits troot 52 12) va && decide (bits troot 0 1 = 1) then tlbHit c.ops (bits troot 52 12) va a else none) with
      | some e =>
        match s.setAccessed e with
        | .error b => (s, .bad { b with addr := va })
        | .ok s1 => ((s1.modOps c.uid fun l => tlbTouch l e).prefetch q c.uid c.ops troot va a, .ok (e.base + va % 2 ^ 16) e.cls)
      | none =>
        match s.xlateStream q troot va a with
        | (s1, .ok pa cls) => (s1.prefetch q c.uid c.ops troot va a, .ok pa cls)
        | r => r

/-- An access of the dispatcher or the replay sequencer, which hold no TLB (R87). -/
def State.xlatePlain (s : State) (q : Source) (troot : Word) (va : Nat) (a : Acc) : State × XRes :=
  let r := s.xlate q troot [] 0 va a
  (r.1, r.2.2)

/-- A correctable error met by a consumer: the data returned are corrected, and it is counted (R98, R369). -/
def State.corrected (s : State) (n : Nat) : State :=
  if n < 1024 then s.modCore n fun x => { x with serrc := countErr x.serrc false }
  else (coresOf (n % 1024)).foldl (fun s c => s.modCore c fun x => { x with serrd := countErr x.serrd false }) s

/-- Nothing that a shootdown waits for is left (R90). -/
def State.shotOver (s : State) (x : Shot) : Bool :=
  x.entries.all (fun e => !(s.seq e.1).stores.any (·.id == e.2)) &&
  x.cmds.all fun u => !s.contribs.any (·.uid == u) && !s.unacked.any (·.1 == u)

/-- Shootdowns that have nothing left to wait for complete, and the policy core is told (R90). -/
def State.endShots (s : State) : State :=
  if s.shots.isEmpty then s
  else
    { s with
      shots := s.shots.filter fun x => !s.shotOver x
      policy := s.policy ++ (s.shots.filter fun x => s.shotOver x).map fun x => PolicyRec.event "shootdown complete" x.lo x.hi }

/-- Consumers meet the correctable errors of a step (R98): the first element of `softs`. -/
def State.softTick (s : State) : State :=
  match s.softs with
  | [] => s
  | l :: r => l.foldl State.corrected { s with softs := r }

/-- TIME moves on, and with it the cycle counters of the octants (R3, R187): the first element of `elapse`. -/
def State.timeTick (s : State) : State :=
  match s.elapse with
  | [] => s
  | (c, ns) :: r =>
    { s with
      time := s.time + BitVec.ofNat 64 ns
      cycles := (List.range 8).foldl (fun l o => Kv.put l o (Kv.get 0 l o + BitVec.ofNat 64 (c.getD o 0))) s.cycles
      elapse := r }

/-- What happens around a step whoever takes it: correctable errors, time, and shootdowns that complete. -/
def State.tick (s : State) : State := s.softTick.timeTick.endShots

/-- A choice the spec leaves open, below `n`. -/
def State.choose (s : State) (n : Nat) : State × Nat :=
  match s.choices with
  | [] => (s, 0)
  | c :: r => ({ s with choices := r }, if n = 0 then 0 else c % n)

end Sys2Proof.Machine
end

