-- ==== Sys2Proof/Machine/Queues.lean ====
section
/-! DEFINITION. The load and store queues of a sequencer: what its head entries do when they perform, MARK and FENCE
retirement (R155 to R163, R286, R289), and reads and writes of main memory through a translation. -/

namespace Sys2Proof.Machine

/-- What an access through a translation gives: the bytes or the new state, a wait, a fault code with its reason, or
a bad line. -/
inductive VRes (α : Type) where
  | ok (v : α)
  | hold
  | fault (code reason : Nat)
  | bad (b : BadLine)

/-- `n` bytes read through a translation, within one page (R95). -/
def readVia (x : State × XRes) (n : Nat) : State × VRes (List Byte) :=
  match x.2 with
  | .hold => (x.1, .hold)
  | .fault c r => (x.1, .fault c r)
  | .bad b => (x.1, .bad b)
  | .ok pa _ =>
    match x.1.verify .main (memKey pa) n with
    | some b => (x.1, .bad b)
    | none => (x.1, .ok (x.1.bytes .main (memKey pa) n))

/-- Bytes written through a translation, within one page (R96). At a peer they are sent, and their acknowledgement is
awaited under the number `uid` (R284). -/
def writeVia (x : State × XRes) (bs : List Byte) (src uid : Nat) : State × VRes Unit :=
  match x.2 with
  | .hold => (x.1, .hold)
  | .fault c r => (x.1, .fault c r)
  | .bad b => (x.1, .bad b)
  | .ok pa _ =>
    match x.1.storeAll .main (memKey pa) bs (originTag 0 src) (originTag 0 src) with
    | .error b => (x.1, .bad b)
    | .ok s => (s.sendWrite uid 2 pa bs.length, .ok ())

/-- A slice access writes bytes: whole lines as an engine or stream store, partial ones as a merge (R94, R96). -/
def State.storeSlice (s : State) (a : Nat) (bs : List Byte) (src : Nat) : Except BadLine State :=
  s.storeAll .scratch a bs (originTag 0 src) (originTag 5 (a / 2 ^ 23))

/-- Two byte ranges share a byte. -/
def overlap (a n b m : Nat) : Bool := decide (a < b + m) && decide (b < a + n)

/-- The slice bytes an entry touches: none for MARK and SHAPEW, and for an AMO in main memory. -/
def QEntry.range (e : QEntry) : Nat × Nat :=
  match e.op with
  | .load w _ _ => (e.addr, w)
  | .vload _ _ => (e.addr, 512)
  | .store d => (e.addr, d.length)
  | .vstore d => (e.addr, d.length)
  | .amo (.slice a) _ w32 _ _ _ _ => (a, if w32 then 4 else 8)
  | .amo (.main _) _ _ _ _ _ _ => (0, 0)
  | .shape _ _ => (0, 0)
  | .mark => (0, 0)

/-- An earlier entry of the other queue overlaps this one, so that program order decides (R155). -/
def blockedBy (e : QEntry) (other : List QEntry) : Bool :=
  other.any fun o => decide (o.id < e.id) && overlap e.range.1 e.range.2 o.range.1 o.range.2

/-- The first entry of a data queue with a ticket gets its vector. -/
def fillTicket (l : List DqEntry) (ticket : Nat) (d : List Byte) : List DqEntry :=
  l.map fun e => if e.ticket = ticket then { e with data := some d } else e

/-- An imprecise trap of a queue entry (R156): the sequencer stops, and the record names the entry's instruction. -/
def State.trapEntry (s : State) (k : Nat) (e : QEntry) (code engine : Nat) (addr status : Nat) : State :=
  s.trapSeq k { s.trapBase k with
    pc := e.pc, code := code, engine := engine, addr := BitVec.ofNat 56 addr, status := BitVec.ofNat 32 status }

/-- An imprecise integrity trap of a queue entry (R97, R156). -/
def State.trapEntryBad (s : State) (k : Nat) (e : QEntry) (b : BadLine) : State :=
  s.trapSeq k ({ s.trapBase k with pc := e.pc, code := 7 }.withBad b)

/-- A queue entry, a MARK or a FENCE may retire as far as its pushes go: they have room; or its slot stops, so that the
queues drain (R158), and its pushes are owed. -/
def State.roomNow (s : State) (k : Nat) (t : BitVec 4) : Bool := s.room k t || (s.slot (slotKey k)).stopping.isSome

/-- Something that has nothing left to do but its pushes finds a FIFO full: it does not retire, and its sequencer stalls
(R28). -/
def State.stall (s : State) (k id : Nat) : Option State :=
  if (s.seq k).full.contains id then none else some (s.modSeq k fun q => { q with full := q.full ++ [id] })

/-- The first push that a sequencer owes is made when it has room (R28). -/
def State.oweStep (s : State) (k : Nat) : Option State :=
  match (s.seq k).owed with
  | [] => none
  | t :: rest =>
    if s.room k t then
      some ((s.modSeq k fun q =>
        { q with owed := rest, owing := q.owing.bind fun x => if x.2 ≤ 1 then none else some (x.1, x.2 - 1) }).pushTokens k t)
    else none

/-- What a fault of queue entry `i` leaves of its sequencer's queues (R156, R158, R287, R291): `store` says that it stands
in the store queue, so that the entries behind it there are discarded. No MARK behind it retires, so nothing behind the
first of those performs; and no FENCE retires that covers it or a discarded entry. -/
def Seq.afterFault (q : Seq) (i : Nat) (store : Bool) : Seq :=
  let marks := ((q.loads ++ q.stores).filter fun e => decide (e.op = .mark) && decide (i < e.id)).map (·.id)
  let gone (e : QEntry) : Bool := decide (e.id = i) || marks.any fun m => decide (m ≤ e.id)
  let loads := q.loads.filter fun e => !gone e
  let stores := if store then [] else q.stores.filter fun e => !gone e
  let left := (loads ++ stores).map (·.id)
  let lost := ((q.loads ++ q.stores).map (·.id)).filter fun x => !left.contains x
  { q with loads := loads, stores := stores, fences := q.fences.filter fun f => !(f.entries.any lost.contains)
           full := q.full.filter fun x => !lost.contains x }

/-- A queue entry has faulted: its sequencer stops, and what can no longer perform is discarded. -/
def State.dropAfter (s : State) (k : Nat) (e : QEntry) (store : Bool) : State := s.modSeq k (·.afterFault e.id store)

/-- The head of the load queue performs and retires, if it may (R28, R156, R159, R162). -/
def State.loadStep (s : State) (k : Nat) : Option State :=
  match (s.seq k).loads with
  | [] => none
  | e :: rest =>
    if blockedBy e (s.seq k).stores then none
    else
      let s' := s.modSeq k fun q => { q with loads := rest, full := q.full.erase e.id }
      match e.op with
      | .load w sg rd =>
        match s.verify .scratch e.addr w with
        | some b => some ((s.dropAfter k e false).trapEntryBad k e b)
        | none =>
          if !s.roomNow k e.t then s.stall k e.id
          else
            let x := leNat (s.bytes .scratch e.addr w)
            let v : Word := if sg then (BitVec.ofNat (8 * w) x).signExtend 64 else BitVec.ofNat 64 x
            some ((s'.setReg k rd v).pushOwe k e.t)
      | .vload dq ticket =>
        match s.verify .scratch e.addr 512 with
        | some b => some ((s.dropAfter k e false).trapEntryBad k e b)
        | none =>
          if !s.roomNow k e.t then s.stall k e.id
          else
            let d := s.bytes .scratch e.addr 512
            some ((s'.modSlot (slotKey k) fun c =>
              { c with queues := Kv.put c.queues dq (fillTicket (Kv.get [] c.queues dq) ticket d) }).pushOwe k e.t)
      | _ => none

/-- What an AMO computes from the old value, its operand and its compare value, at `w` bits: the new value, and
whether a write is made (R289). FADD is given by `fadd`. -/
def amoResult (op w : Nat) (fadd : Nat → Nat → Nat) (old v c : Nat) : Nat × Bool :=
  let sgn (x : Nat) : Int := if 2 ^ (w - 1) ≤ x then (x : Int) - 2 ^ w else x
  match op with
  | 1 => ((old + v) % 2 ^ w, true)
  | 2 => (old &&& v, true)
  | 3 => (old ||| v, true)
  | 4 => (old ^^^ v, true)
  | 5 => (if sgn old ≤ sgn v then old else v, true)
  | 6 => (if sgn old ≤ sgn v then v else old, true)
  | 7 => (if old ≤ v then old else v, true)
  | 8 => (if old ≤ v then v else old, true)
  | 9 => (v, true)
  | 10 => (v, decide (old = c))
  | _ => (fadd old v, true)

/-- The value an AMO leaves in rd: the old value, sign-extended from 32 bits but for FADD (R289). -/
def amoOld (op : Nat) (w32 : Bool) (old : Nat) : Word :=
  if w32 then (if op = 11 then BitVec.ofNat 64 old else (BitVec.ofNat 32 old).signExtend 64) else BitVec.ofNat 64 old

/-- The space and the address in it of a home. -/
def Home.place : Home → Space × Nat
  | .slice a => (.scratch, a)
  | .main pa => (.main, memKey pa)

/-- The tag of a merge at a home (R94, R96). -/
def Home.mergeTag (h : Home) (src : Nat) : BitVec 16 :=
  match h with
  | .slice a => originTag 5 (a / 2 ^ 23)
  | .main _ => originTag 0 src

/-- An AMO performed at its home, read and write together (R280, R289): the new state and the old value. -/
def State.amoAt (s : State) (h : Home) (op : Nat) (w32 : Bool) (fadd : Nat → Nat → Nat) (v c : Word) (src : Nat) :
    Except BadLine (State × Nat) :=
  let n := if w32 then 4 else 8
  match s.verify h.place.1 h.place.2 n with
  | some b => .error b
  | none =>
    let old := leNat (s.bytes h.place.1 h.place.2 n)
    let r := amoResult op (8 * n) fadd old (v.toNat % 2 ^ (8 * n)) (c.toNat % 2 ^ (8 * n))
    if r.2 then
      match s.store h.place.1 h.place.2 (leBytes n r.1) (originTag 0 src) (h.mergeTag src) with
      | .error b => .error b
      | .ok s' => .ok (s', old)
    else .ok (s, old)

/-- A home is at a peer (R80). -/
def Home.peer (h : Home) : Bool :=
  match h with
  | .slice _ => false
  | .main pa => decide (pa / 2 ^ 50 = 3)

/-- Where a sequencer's atomic access at a peer stands: none is out, its acknowledgement is awaited, or it has performed
and found a value (R284). -/
inductive Remote where
  | idle
  | waits
  | done (s : State) (v : Nat)

/-- What has become of the sequencer's atomic access at a peer. -/
def State.remote (s : State) (k : Nat) : Remote :=
  match (s.seq k).remote with
  | none => .idle
  | some r => if s.unacked.any (fun u => u.1 == r.1) then .waits else .done (s.modSeq k fun q => { q with remote := none }) r.2

/-- An atomic access has been made, and found `v`: at a peer it is sent, and waits for its acknowledgement (R280, R284). -/
def State.sendRemote (s : State) (k : Nat) (h : Home) (v : Nat) : State × Bool :=
  match h with
  | .slice _ => (s, false)
  | .main pa =>
    if h.peer then
      ({ s.sendWrite s.nextUid 1 pa 1 with nextUid := s.nextUid + 1 }.modSeq k fun q => { q with remote := some (s.nextUid, v) }, true)
    else (s, false)

/-- The task's own source of a translation at a queue head or in the task unit (R88, engine 5). -/
def taskSource (k : Nat) : Source :=
  { waiter := .atomic k, core := coreOf k, slot := slotNum (slotKey k), engine := 5 }

/-- What going over a list of successors comes to: done, a wait, or a fault or a bad line at the successor of an index
(R314). -/
inductive Listed (α : Type) where
  | ok (s : State) (x : α)
  | hold (s : State)
  | fault (s : State) (code status index addr : Nat)
  | bad (s : State) (index : Nat) (b : BadLine)

/-- The entries of a successor list at `at'`, from index `i` on, `n` of them. -/
def State.readList (s : State) (k : Nat) (root : Word) (at' : Nat) : Nat → Nat → List Nat → Listed (List Nat)
  | 0, _, l => .ok s l
  | n + 1, i, l =>
    match readVia (s.xlatePlain (taskSource k) root (at' + 8 * i) { kind := 0 }) 8 with
    | (s, .ok b) => s.readList k root at' n (i + 1) (l ++ [leNat b])
    | (s, .hold) => .hold s
    | (s, .fault c _) => .fault s c 0 i (at' + 8 * i)
    | (s, .bad b) => .bad s i b

/-- The addresses of a task's successors: its TCB's list (R298). -/
def State.successors (s : State) (k : Nat) : Listed (List Nat) :=
  let c := s.slot (slotKey k)
  match readVia (s.xlatePlain (taskSource k) c.xroot c.tcb.toNat { kind := 0 }) 256 with
  | (s, .hold) => .hold s
  | (s, .fault a _) => .fault s a 0 0 c.tcb.toNat
  | (s, .bad b) => .bad s 0 b
  | (s, .ok t) => s.readList k c.xroot (leAt t 112 8) (leAt t 120 4) 0 []

/-- The address of a TCB: a multiple of 256 within the virtual addresses (R81, R298). -/
def tcbPlace (va : Nat) : Bool := decide (va % 256 = 0) && decide (va < 2 ^ 55)

/-- The static bytes of a list of TCBs read, the first of them of index `i`: the index of one in which shape `n` is
static (R309). -/
def State.anyStatic (s : State) (k n i : Nat) : List Nat → Listed (Option Nat)
  | [] => .ok s none
  | a :: rest =>
    if !tcbPlace a then .fault s 6 1 i a
    else
      match readVia (s.xlatePlain (taskSource k) (s.slot (slotKey k)).xroot (a + 160) { kind := 0 }) 1 with
      | (s, .ok b) => if leNat b / 2 ^ n % 2 = 1 then .ok s (some i) else s.anyStatic k n (i + 1) rest
      | (s, .hold) => .hold s
      | (s, .fault c _) => .fault s c 0 i a
      | (s, .bad b) => .bad s i b

/-- Shape register `n` written into each TCB of a list, in order (R309); `uid` awaits what peers have to acknowledge. -/
def State.writeShapes (s : State) (k n : Nat) (v : BitVec 32) (uid i : Nat) : List Nat → Listed (Option Nat)
  | [] => .ok s none
  | a :: rest =>
    match writeVia (s.xlatePlain (taskSource k) (s.slot (slotKey k)).xroot (a + 128 + 4 * n) { kind := 1 })
      (leBytes 4 v.toNat) (coreOf k) uid with
    | (s, .ok _) => s.writeShapes k n v uid (i + 1) rest
    | (s, .hold) => .hold s
    | (s, .fault c _) => .fault s c 0 i a
    | (s, .bad b) => .bad s i b

/-- The entry of a SHAPEW at the head of its store queue (R309): written, or the index of a successor in which the shape
is static. -/
def State.shapeStep (s : State) (k n : Nat) (v : BitVec 32) (uid : Nat) : Listed (Option Nat) :=
  match s.successors k with
  | .hold s => .hold s
  | .fault s c st i a => .fault s c st i a
  | .bad s i b => .bad s i b
  | .ok s l =>
    match s.anyStatic k n 0 l with
    | .ok s none => s.writeShapes k n v uid 0 l
    | x => x

/-- What the thunk forcer answers to something that must be forced first (R262, R266): it is forced; the forcer has gone
on, or waits, and has still to meet it; or it has faulted. -/
inductive Forced where
  | met (s : State)
  | more (s : State)
  | waits
  | trapped (s : State)

/-- The entry of a store that has not retired, since a push of its own waits for room (R28, R159). One whose slot stops
performs all the same (R158). -/
def State.unretired (s : State) (k i : Nat) : Bool :=
  (s.slot (slotKey k)).stopping.isNone && (s.seq k).owing.any fun x => x.1 == i

/-- The head of the store queue performs, if it may (R156, R159, R162, R289, R309). `fadd` is the FP32 addition of
AMO FADD; `force` asks the thunk forcer before slice bytes of the slot are written (R266). -/
def State.storeStep (s0 : State) (fadd : Nat → Nat → Nat) (force : State → Nat → QEntry → Forced) (k : Nat) :
    Option State :=
  match (s0.seq k).stores with
  | [] => none
  | e :: rest =>
    let slotOk : Bool :=
      match e.op with
      | .store d => s0.window (slotKey k) e.addr d.length
      | .vstore d => s0.window (slotKey k) e.addr d.length
      | _ => true
    let waits : Bool :=
      match e.op with
      | .mark => true
      | _ => s0.unretired k e.id
    if blockedBy e (s0.seq k).loads || waits then none
    else if !s0.roomNow k e.t then s0.stall k e.id
    else if !slotOk then some ((s0.trapEntry k e 3 0 e.addr 0).dropAfter k e true)
    else
      match force s0 k e with
      | .more s => some s
      | .waits => none
      | .trapped s => some s
      | .met s =>
        let s' := s.modSeq k fun q => { q with stores := rest, full := q.full.erase e.id }
        match e.op with
        | .store d =>
          match s'.storeSlice e.addr d (coreOf k) with
          | .error b => some ((s.trapEntryBad k e b).dropAfter k e true)
          | .ok s'' => some s''
        | .vstore d =>
          match s'.storeSlice e.addr d (coreOf k) with
          | .error b => some ((s.trapEntryBad k e b).dropAfter k e true)
          | .ok s'' => some s''
        | .amo h op w32 _ v c rd =>
          let finish (t : State) (old : Nat) : State :=
            ((t.modSeq k fun q => { q with stores := rest, full := q.full.erase e.id }).setReg k rd (amoOld op w32 old)).pushOwe k e.t
          match s.remote k with
          | .waits => none
          | .done t old => some (finish t old)
          | .idle =>
            match s.amoAt h op w32 fadd v c (coreOf k) with
            | .error b => some ((s.trapEntryBad k e b).dropAfter k e true)
            | .ok (t, old) =>
              match t.sendRemote k h old with
              | (t, true) => some t
              | (t, false) => some (finish t old)
        | .shape n v =>
          let pop (t : State) : State := t.modSeq k fun q => { q with stores := rest, full := q.full.erase e.id }
          match s.remote k with
          | .waits => none
          | .done t _ => some (pop t)
          | .idle =>
          match s.shapeStep k n v s.nextUid with
          | .ok s'' none =>
            some (if s''.unacked.any (·.1 == s.nextUid) then
                { s'' with nextUid := s.nextUid + 1 }.modSeq k fun q => { q with remote := some (s.nextUid, 0) }
              else pop s'')
          | .ok _ (some i) => some ((s.trapEntry k e 6 8 e.addr (6 + 256 * i)).dropAfter k e true)
          | .hold s'' =>
            if s''.nextReq = s.nextReq then none
            else some { s with requests := s''.requests, nextReq := s''.nextReq }
          | .fault s'' c st i a => some ((s''.trapEntry k e c 8 a (st + 256 * i)).dropAfter k e true)
          | .bad s'' i b =>
            some ((s''.trapSeq k ({ s''.trapBase k with pc := e.pc, code := 7, engine := 8, status := BitVec.ofNat 32 (256 * i) }.withBad
              b)).dropAfter k e true)
        | _ => none

/-- A MARK at the head of both queues retires (R28, R163). -/
def State.markStep (s : State) (k : Nat) : Option State :=
  match (s.seq k).loads, (s.seq k).stores with
  | a :: as, b :: bs =>
    if a.op = .mark ∧ b.op = .mark ∧ a.id = b.id then
      if !s.roomNow k a.t then s.stall k a.id
      else some ((s.modSeq k fun q => { q with loads := as, stores := bs, full := q.full.erase a.id }).pushOwe k a.t)
    else none
  | _, _ => none

/-- The earlier side of a FENCE, or the MARKs before an EVPOST, have performed (R185, R286): its entries have left the queues, and its commands have retired. -/
def State.fenceDone (s : State) (k : Nat) (f : Fence) : Bool :=
  f.entries.all (fun i => !((s.seq k).loads.any (·.id == i) || (s.seq k).stores.any (·.id == i))) &&
  f.cmds.all (fun u => !s.cmds.any (·.uid == u))

/-- The major of a long instruction's engine family: the CP family and CPR share the copy engine. -/
def isCopy : Instr → Bool
  | .cpy _ _ _ _ _ _ | .cpy2 _ _ _ _ _ _ | .cpy3 _ _ _ _ _ _ | .cpg _ _ _ _ _ _ | .cps _ _ _ _ _ _
  | .cpf _ _ _ _ _ | .cpm _ _ _ _ _ | .cpq _ _ _ _ _
  | .cprFaddF32 _ _ _ _ _ | .cprAddI32 _ _ _ _ _ | .cprAddI64 _ _ _ _ _ | .cprMaxF32 _ _ _ _ _
  | .cprMinF32 _ _ _ _ _ | .cprMaxI32 _ _ _ _ _ | .cprMinI32 _ _ _ _ _ => true
  | _ => false

/-- The commands of a core's copy queue, oldest first. -/
def State.copyQueue (s : State) (core q : Nat) : List Cmd :=
  s.cmds.filter fun c => isCopy c.ins && decide (coreOf c.seqk = core) && decide (c.ext.q.toNat = q)

/-- A task slot of a deterministic region. -/
def State.ovOn (s : State) (sk : Nat) : Bool := decide (slotNum sk < 4) && (s.slot sk).det

/-- The remembered commands of the task in a slot, oldest first. -/
def State.ovOf (s : State) (sk : Nat) : List OvRec :=
  s.ovl.filter fun r => decide (r.slot = sk) && decide (r.task = bits (s.slot sk).taskid 0 32)

/-- An ENG FENCE has retired, its pushes made or owed: their tokens follow the retirement of every command that its
sequencer has issued (R283, R293). -/
def State.ovFence (s : State) (k : Nat) (f : Fence) : State :=
  let sk := slotKey k
  if !s.ovOn sk || !f.kinds.getLsbD 0 then s
  else
    let c := s.slot sk
    let owed (i : Nat) : Nat := ((s.seq k).owed.filter (·.getLsbD i)).length
    let toks := (if f.t.getLsbD 2 then [(fifoOutL (roleOf k), Kv.get 0 c.popped (fifoOutL (roleOf k)) + c.outL (roleOf k) + owed 2)] else []) ++
      (if f.t.getLsbD 3 then [(fifoOutR (roleOf k), Kv.get 0 c.popped (fifoOutR (roleOf k)) + c.outR (roleOf k) + owed 3)] else [])
    let mine := (s.ovOf sk).filter fun r => decide (r.seqk = k)
    { s with ovl := s.ovl.map fun r => if mine.any (·.uid == r.uid) then { r with toks := r.toks ++ toks } else r }

/-- A counter after a post of `n`, and whether it saturated (R183). -/
def postCount (e n : Nat) : Nat × Bool := (min (e + n) 0xFFFF, decide (0xFFFF < e + n))

/-- A post of `n` to counter `e` of a slot (R183). -/
def Slot.post (c : Slot) (e n : Nat) : Slot :=
  let r := postCount (Kv.get 0 c.events e) n
  { c with
    events := Kv.put c.events e r.1
    evovf := if r.2 then c.evovf ||| BitVec.ofNat 16 (2 ^ e) else c.evovf
    posts := c.posts + 1 }

/-- What retires with its pushes: an EVPOST's post (R185). -/
def State.fencePost (s : State) (k : Nat) (f : Fence) : State :=
  match f.post with
  | some p => s.modSlot (slotKey k) (·.post p.1 p.2)
  | none => s

/-- The first FENCE or EVPOST whose earlier side has performed retires (R28, R185, R286). -/
def State.fenceStep (s : State) (k : Nat) : Option State :=
  match (s.seq k).fences.find? (s.fenceDone k) with
  | none => none
  | some f =>
    if !s.roomNow k f.t then s.stall k f.id
    else some ((s.modSeq k fun q => { q with fences := q.fences.erase f, full := q.full.erase f.id }).pushOwe k f.t |>.ovFence k f |>.fencePost k f)

/-- Owed pushes are made, and MARKs and FENCEs retire, where they may. -/
def State.settle (s : State) (k : Nat) : Nat → State
  | 0 => s
  | n + 1 =>
    match s.oweStep k with
    | some s' => s'.settle k n
    | none =>
      match s.markStep k with
      | some s' => s'.settle k n
      | none =>
        match s.fenceStep k with
        | some s' => s'.settle k n
        | none => s

/-- Everything in the queues of a sequencer that may perform does, stores first: the model's prompt timing. -/
def State.drain (s : State) (fadd : Nat → Nat → Nat) (force : State → Nat → QEntry → Forced) (k : Nat) :
    Nat → State
  | 0 => s
  | n + 1 =>
    match s.oweStep k with
    | some s' => s'.drain fadd force k n
    | none =>
      match s.storeStep fadd force k with
      | some s' => s'.drain fadd force k n
      | none =>
        match s.loadStep k with
        | some s' => s'.drain fadd force k n
        | none =>
          match s.markStep k with
          | some s' => s'.drain fadd force k n
          | none =>
            match s.fenceStep k with
            | some s' => s'.drain fadd force k n
            | none => s

/-- The queue entry of the instruction at the PC. -/
def State.entry (s : State) (k : Nat) (op : QOp) (addr : Nat) (t : BitVec 4) : QEntry :=
  ⟨(s.seq k).nextEntry, op, addr, s.pc k, t, (s.slot (slotKey k)).seed, if (s.seq k).any then (s.seq k).last else 0⟩

/-- A new entry at the end of the load queue. -/
def State.enterLoad (s : State) (k : Nat) (op : QOp) (addr : Nat) (t : BitVec 4) : State :=
  s.modSeq k fun q =>
    { q with loads := q.loads ++ [s.entry k op addr t], nextEntry := q.nextEntry + 1 }

/-- A new entry at the end of the store queue. -/
def State.enterStore (s : State) (k : Nat) (op : QOp) (addr : Nat) (t : BitVec 4) : State :=
  s.modSeq k fun q =>
    { q with stores := q.stores ++ [s.entry k op addr t], nextEntry := q.nextEntry + 1 }

/-- A store retires as it enters its queue (R159): its pushes are made, or owed, and then it performs after them. -/
def State.retireStore (s : State) (k : Nat) (t : BitVec 4) : State :=
  if (s.seq k).owed.isEmpty && s.room k t then s.pushTokens k t
  else s.modSeq k fun q => { q with owed := q.owed ++ [t], owing := some (q.nextEntry - 1, q.owed.length + 1) }

/-- An entry of a store queue has still to perform, that of an STS or a release AMO that waits included (R155, R307). -/
def State.entryLeft (s : State) (k i : Nat) : Bool :=
  (s.seq k).stores.any (·.id == i) || ((s.seq k).strong && (s.seq k).nextEntry == i)

/-- The entries of a sequencer's store queue, by number. -/
def State.entryIds (s : State) (k : Nat) : List Nat :=
  (s.seq k).stores.map (·.id) ++ if (s.seq k).strong then [(s.seq k).nextEntry] else []

/-- A MARK enters both queues (R163). -/
def State.enterMark (s : State) (k : Nat) (t : BitVec 4) : State :=
  s.modSeq k fun q =>
    { q with
      loads := q.loads ++ [s.entry k .mark 0 t], stores := q.stores ++ [s.entry k .mark 0 t]
      nextEntry := q.nextEntry + 1 }

/-- What an instruction is on the later side of a FENCE or an acquire AMO (R286, R290). -/
inductive Later where
  | load
  | store
  | amo
  | command
  | spill
  deriving DecidableEq, Repr

/-- A waiting FENCE or acquire AMO holds the instruction back (R286, R290). Kind bits: 4 LL, 3 LS, 2 SL, 1 SS, 0
ENG. -/
def State.heldBack (s : State) (k : Nat) (l : Later) : Bool :=
  (s.seq k).fences.any (fun f => f.post.isNone &&
    match l with
    | .load => f.kinds.getLsbD 4 || f.kinds.getLsbD 2 || f.kinds.getLsbD 0
    | .store => f.kinds.getLsbD 3 || f.kinds.getLsbD 1 || f.kinds.getLsbD 0
    | .amo => true
    | .command => true
    | .spill => f.kinds.getLsbD 0) ||
  (s.seq k).stores.any fun e =>
    match e.op with
    | .amo _ _ _ o _ _ _ => decide (o = 1)
    | _ => false

/-- Every entry of both queues has performed (R163, R290). -/
def State.queuesEmpty (s : State) (k : Nat) : Bool := (s.seq k).loads.isEmpty && (s.seq k).stores.isEmpty

end Sys2Proof.Machine
end

