-- ==== Sys2Proof/Machine/Matrix.lean ====
section
/-! DEFINITION. Tiles, accumulators, nests and the drain (R225 to R247), and the moves of TMOV (R249, R250), as
operations that a command, or the thunk forcer, runs. -/

namespace Sys2Proof.Machine

/-! ### Tiles and accumulators (R225, R226) -/

/-- The address in the tile space of a byte of a granted tile. -/
def State.tileAddr (s : State) (sk t off : Nat) : Nat := (sk / 8 * 8 + (s.slot sk).tmap.getD t 0) * 2 ^ 15 + off

/-- The key of a row of a granted accumulator. -/
def State.accKey (s : State) (sk a row : Nat) : Nat := (sk / 8 * 4 + (s.slot sk).amap.getD a 0) * 128 + row

/-- A row of a granted accumulator: what the task has written since the grant, else a free value (R226). -/
def State.accRow (s : State) (sk a row : Nat) : List (BitVec 32) :=
  let k := s.accKey sk a row
  let g := Kv.get 0 s.accGrant (k / 128)
  if Kv.has s.accs k then Kv.get [] s.accs k
  else (List.range 128).map fun i => if g = 0 then 0 else Config.accElem g (row * 128 + i)

/-- A row of a granted accumulator replaced. -/
def State.setAccRow (s : State) (sk a row : Nat) (l : List (BitVec 32)) : State :=
  { s with accs := Kv.put s.accs (s.accKey sk a row) l }

/-- A line copied with its check word and origin tag (R95). -/
def State.carryLine (s : State) (from' : Space) (a : Nat) (dst : Space) (b : Nat) : State :=
  let s1 := s.poke dst b (s.bytes from' (a / 128 * 128) 128) (s.tag from' a)
  if Kv.has s.bad (lineKey from' a) then
    { s1 with bad := Kv.put s1.bad (lineKey dst b) (Kv.get 0 s.bad (lineKey from' a)) }
  else s1

/-! ### Counters (R76) -/

/-- A 32-bit counter that stops at all ones. -/
def countTo32 (x n : Nat) : Nat := min (x + n) 0xFFFFFFFF

/-- Saturations counted against a tensor ID of a task; slots 4 and 5 keep no histogram (R76, R205). -/
def State.countSats (s : State) (sk tid n : Nat) : State :=
  if n = 0 ∨ 4 ≤ slotNum sk then s
  else
    s.modSlot sk fun c =>
      let h := Kv.get {} c.hist tid
      { c with hist := Kv.put c.hist tid { h with sat := countTo32 h.sat n } }

/-- Values counted in a histogram under a base (R76). -/
def State.countBins (s : State) (sk tid : Nat) (hb : BitVec 8) (xs : List FVal) : State :=
  if 4 ≤ slotNum sk then s
  else
    s.modSlot sk fun c =>
      let h := Kv.get {} c.hist tid
      let bins := xs.foldl (fun b x => Kv.put b (histBin hb x) (countTo32 (Kv.get 0 b (histBin hb x)) 1)) h.bins
      { c with hist := Kv.put c.hist tid { h with bins := bins, hb := hb } }

/-! ### What a nest runs on -/

/-- A nest's latched set, profile and draws (R67, R243, R264). -/
structure NestCfg where
  sk : Nat
  tab : List (Nat × Word)
  desc : List (Nat × Word)
  np : Nat
  seed : Word
  kind : Nat
  seq : Nat
  /-- Added to every draw's index: 2^24 times a sub-command's ordinal (R264). -/
  base : Nat
  /-- For a chain's member other than the head, what it has of the head's A: the A tile's descriptor and the scaled bit. -/
  head : Option (Option Word × Bool) := none

/-- A register of a shadow or latched set; CNT is 1 until it is written (R229). -/
def latchedReg (tab : List (Nat × Word)) (n : Nat) : Word := Kv.get (if n < 6 then 1 else 0) tab n

/-- A configuration register of the latched set. -/
def NestCfg.mc (c : NestCfg) (n : Nat) : Word := latchedReg c.tab n

/-- A fault of a nest or a move: matrix status, level, address, and the line that failed (R245). -/
structure MFault where
  status : Nat
  lvl : Nat := 15
  addr : Nat := 0
  bad : Option BadLine := none

/-- The fault code of a matrix status (R245). -/
def matrixCode (st : Nat) : Nat :=
  match st with
  | 2 => 3
  | 3 => 3
  | 5 => 1
  | 6 => 10
  | 8 => 7
  | 9 => 13
  | _ => 6

/-- 0 means 128 in a field of rows, columns or an edge (R227, R232). -/
def dim128 (x : Nat) : Nat := if x = 0 then 128 else x

/-- A descriptor with a reserved field or value set, or scaled without an FP8 format (R227, R228). -/
def descBad (x : Word) : Bool :=
  decide (5 < bits x 0 4) || decide (bits x 4 12 ≠ 0) || decide (128 < bits x 16 8) || decide (128 < bits x 24 8) ||
  decide (bits x 32 12 ≠ 0) || decide (bits x 45 3 ≠ 0) ||
  (decide (bits x 44 1 = 1) && decide (bits x 0 4 ≠ 2) && decide (bits x 0 4 ≠ 3))

/-- An operand word with a reserved bit set (R230). -/
def opWordBad (w : Word) : Bool :=
  if bits w 63 1 = 1 then decide (bits w 35 28 ≠ 0) || decide (bits w 15 17 ≠ 0) else decide (bits w 33 30 ≠ 0)

/-- The tile an operand word names. -/
def opTile (w : Word) : Option Nat := if bits w 63 1 = 1 then some (bits w 32 3) else none

/-- The start address or byte offset of an operand word. -/
def opBase (w : Word) : Int := if bits w 63 1 = 1 then (bits w 0 15 : Nat) else (bits w 0 33 : Nat)

/-- nest.mode and nest.edge fields (R231, R232). -/
def NestCfg.afmt (c : NestCfg) : Nat := bits (c.mc 0x34) 0 4
def NestCfg.ascaled (c : NestCfg) : Bool := (c.head.map (·.2)).getD (decide (bits (c.mc 0x34) 4 1 = 1))
def NestCfg.chain (c : NestCfg) : Nat := bits (c.mc 0x34) 5 2
def NestCfg.m (c : NestCfg) : Nat := bits (c.mc 0x34) 8 7 + 1
def NestCfg.sparse (c : NestCfg) : Nat := bits (c.mc 0x34) 16 2
def NestCfg.dfmt (c : NestCfg) : Nat := bits (c.mc 0x34) 20 4
def NestCfg.drm (c : NestCfg) : Nat := bits (c.mc 0x34) 24 2
def NestCfg.tid (c : NestCfg) : Nat := bits (c.mc 0x34) 26 6
def NestCfg.hb (c : NestCfg) : BitVec 8 := BitVec.ofNat 8 (bits (c.mc 0x34) 32 8)
def NestCfg.ctag (c : NestCfg) : Nat := bits (c.mc 0x34) 40 8
def NestCfg.me (c : NestCfg) : Nat := dim128 (bits (c.mc 0x35) 0 8)
def NestCfg.ne (c : NestCfg) : Nat := dim128 (bits (c.mc 0x35) 8 8)
def NestCfg.ke (c : NestCfg) : Nat := dim128 (bits (c.mc 0x35) 16 8)
def NestCfg.ap (c : NestCfg) : Nat := bits (c.mc 0x36) 0 32
def NestCfg.dp (c : NestCfg) : Nat := bits (c.mc 0x37) 0 32
def NestCfg.cnt (c : NestCfg) (l : Nat) : Nat := bits (c.mc l) 0 16
/-- Action `b` of level `l` (R233). -/
def NestCfg.act (c : NestCfg) (l b : Nat) : Bool := decide (bits (c.mc (0x28 + l)) b 1 = 1)
/-- The A word, which a chain reads of its head alone (R239). -/
def NestCfg.aWord (c : NestCfg) : Option Word := if c.head.isSome then none else some (c.mc 0x30)
/-- The A tile, if the nest reads A from one. -/
def NestCfg.aTile (c : NestCfg) : Option Nat := c.aWord.bind opTile
/-- The descriptor of the A tile, if A is a tile; the head's in a chain. -/
def NestCfg.adesc (c : NestCfg) : Option Word := (c.head.map (·.1)).getD (c.aTile.map fun t => Kv.get 0 c.desc t)
/-- The descriptor of B: its tile's, or nest.bd (R232). -/
def NestCfg.bdesc (c : NestCfg) : Word :=
  match opTile (c.mc 0x31) with
  | some t => Kv.get 0 c.desc t
  | none => c.mc 0x38

/-- Active rows, columns and K (R232). -/
def NestCfg.ma (c : NestCfg) : Nat :=
  min (min c.m c.me) (match c.adesc with | some d => dim128 (bits d 16 8) | none => 128)
def NestCfg.na (c : NestCfg) : Nat := min c.ne (dim128 (bits c.bdesc 24 8))
def NestCfg.ka (c : NestCfg) : Nat :=
  min (min c.ke (dim128 (bits c.bdesc 16 8))) (match c.adesc with | some d => dim128 (bits d 24 8) | none => 128)

/-- N elements kept of a sparse square (R62, R231). -/
def NestCfg.kept (c : NestCfg) : Nat := 8 * 2 ^ c.sparse

/-- The nest is a member of a chain of two or four (R231, R239). -/
def NestCfg.chained (c : NestCfg) : Bool := decide (c.chain = 1) || decide (c.chain = 2)

/-- The checks of R240, in order: the status of the first that fails; 0: none. Reserved bits of the other registers are
ignored (R4), and so are the A words of a chain's members (R239). A reserved format in nest.bd has no width class. -/
def State.nestCheck (s : State) (c : NestCfg) : Nat :=
  let nt := (s.slot c.sk).tmap.length
  let na := (s.slot c.sk).amap.length
  let lv := List.range 6
  let ungranted (w : Word) : Bool := match opTile w with | some t => decide (nt ≤ t) | none => false
  if c.aWord.any ungranted || ungranted (c.mc 0x31) || decide (na ≤ bits (c.mc 0x32) 7 2) then 2
  else if lv.any fun l => decide (c.cnt l = 0) then 1
  else if lv.any (fun l => decide (bits (c.mc (0x28 + l)) 6 58 ≠ 0)) ||
      c.aWord.any opWordBad || opWordBad (c.mc 0x31) || decide (bits (c.mc 0x32) 9 55 ≠ 0) ||
      decide (bits (c.mc 0x34) 48 16 ≠ 0) || decide (bits (c.mc 0x34) 18 2 ≠ 0) || decide (bits (c.mc 0x34) 15 1 ≠ 0) ||
      decide (bits (c.mc 0x34) 7 1 ≠ 0) || decide (4 < c.afmt) || decide (7 < c.dfmt) || decide (c.chain = 3) ||
      (decide (bits (c.mc 0x34) 4 1 = 1) && decide (c.afmt ≠ 2) && decide (c.afmt ≠ 3)) ||
      decide (bits (c.mc 0x35) 24 40 ≠ 0) || decide (128 < c.me) || decide (128 < c.ne) || decide (128 < c.ke) then 1
  else if lv.any fun l => c.act l 4 && !c.act l 1 then 1
  else if c.drm = 3 then 1
  else if 5 ≤ c.dfmt ∧ (bits (c.mc 0x35) 8 8 ≠ 0 ∨ bits c.bdesc 24 8 ≠ 0) then 1
  else if c.head.isNone && c.adesc.any (fun d => decide (bits d 0 4 ≠ c.afmt) || decide (bits d 44 1 ≠ bit c.ascaled)) then 4
  else if 4 < bits c.bdesc 0 4 then 4
  else if widthClass c.afmt ≠ widthClass (bits c.bdesc 0 4) then 4
  else if c.np = 2 ∧ widthClass c.afmt = 16 then 5
  else 0

/-- An address before the pass with the given indices (R230). -/
def NestCfg.sum (c : NestCfg) (base : Int) (stride : Nat) (idx : List Nat) : Int :=
  (List.range 6).foldl (fun a l => a + (idx.getD l 0 : Nat) * (c.mc (stride + l)).toInt) base

/-- The active region of a pass: logical accumulator and first row (R230, R232); a fault where it is not there. -/
def State.nestRegion (s : State) (c : NestCfg) (idx : List Nat) (w : Bool) (lvl : Nat) : Except MFault (Nat × Nat) :=
  let x := c.sum (bits (c.mc 0x32) 0 9 : Nat) 0x18 idx
  let a := x.toNat / 128 ^^^ bit w
  if x < 0 ∨ (s.slot c.sk).amap.length ≤ a ∨ 128 < x.toNat % 128 + c.ma then .error { status := 2, lvl := lvl }
  else .ok (a, x.toNat % 128)

/-- `n` operand bytes at an address of a slice or a tile, verified (R237, R238, R245 status 2, 3, 8 and 9). -/
def State.operand (s : State) (sk : Nat) (tile : Option Nat) (a : Int) (n align lvl : Nat)
    (drained : List (Nat × Nat)) : Except MFault (List Byte) :=
  match tile with
  | some t =>
    if a < 0 ∨ 32768 < a.toNat + n then .error { status := 2, lvl := lvl }
    else
      let x := s.tileAddr sk t a.toNat
      match s.verify .tile x n with
      | some b => .error { status := 8, lvl := lvl, addr := x, bad := some b }
      | none => .ok (s.bytes .tile x n)
  | none =>
    let x := a.toNat
    if a < 0 ∨ x % align ≠ 0 ∨ sliceOk x n = false ∨ s.window sk x n = false then
      .error { status := 3, lvl := lvl, addr := x }
    else if (s.slot sk).det && drained.any fun d => overlap (x / 128) ((x + n + 127) / 128 - x / 128) (d.1 / 128)
        ((d.1 + d.2 + 127) / 128 - d.1 / 128) then .error { status := 9, lvl := lvl, addr := x }
    else
      match s.verify .scratch x n with
      | some b => .error { status := 8, lvl := lvl, addr := x, bad := some b }
      | none => .ok (s.bytes .scratch x n)

/-! ### Weights (R59, R62, R235, R236) -/

/-- Bytes of one weight square. -/
def NestCfg.squareBytes (c : NestCfg) : Nat :=
  let wc := widthClass (bits c.bdesc 0 4)
  if c.sparse = 0 then 128 * 128 * wc / 8 else 128 * (16 + c.kept * wc / 8)

/-- The codes packed in bytes: `wc` bits each, low bits first. -/
def unpackCodes (wc : Nat) : List Byte → List Nat
  | [] => []
  | a :: r =>
    if wc = 16 then
      match r with
      | b :: r' => (a.toNat + 256 * b.toNat) :: unpackCodes wc r'
      | [] => [a.toNat]
    else if wc = 8 then a.toNat :: unpackCodes wc r
    else (a.toNat % 16) :: (a.toNat / 16) :: unpackCodes wc r

/-- A list cut in runs of `n`, at most `k` of them. -/
def chunks {α : Type} (n : Nat) : Nat → List α → List (List α)
  | 0, _ => []
  | k + 1, l => l.take n :: chunks n k (l.drop n)

/-- The K numbers a column's bitmap keeps (R62). -/
def keptK (bitmap : List Byte) : List Nat := (List.range 128).filter fun k => (leNat bitmap).testBit k

/-- The weights of a square by column: each kept k with its value (R59, R62). -/
def NestCfg.columns (c : NestCfg) (sq : List Byte) : List (List (Nat × FVal)) :=
  let f := bits c.bdesc 0 4
  let wc := widthClass f
  let val (code : Nat) : FVal := decodeIn f (bits c.bdesc 48 8) code
  if c.sparse = 0 then
    let rows := chunks 128 128 ((unpackCodes wc sq).map val)
    (List.range 128).map fun n => (List.range 128).map fun k => (k, (rows.getD k []).getD n .zero)
  else
    (chunks (16 + c.kept * wc / 8) 128 sq).map fun col =>
      (keptK (col.take 16)).zip ((unpackCodes wc (col.drop 16)).map val)

/-- A square whose bitmaps all keep N elements (R62). -/
def NestCfg.bitmapsOk (c : NestCfg) (sq : List Byte) : Bool :=
  decide (c.sparse = 0) || (chunks (16 + c.kept * widthClass (bits c.bdesc 0 4) / 8) 128 sq).all fun col =>
    decide ((keptK (col.take 16)).length = c.kept)

/-- RELOADB (R236): the squares at b. -/
def State.nestReload (s : State) (c : NestCfg) (st : NestSt) (lvl : Nat) : Except MFault (List (List Byte)) :=
  let b := c.sum (opBase (c.mc 0x31)) 0x10 st.idx
  let tile := opTile (c.mc 0x31)
  match s.operand c.sk tile b c.squareBytes 128 lvl st.drained with
  | .error f => .error f
  | .ok q0 =>
    let rest : Except MFault (List (List Byte)) :=
      if c.sparse = 0 then .ok []
      else
        match s.operand c.sk tile (b + c.squareBytes) c.squareBytes 128 lvl st.drained with
        | .error f => .error f
        | .ok q1 => .ok [q1]
    match rest with
    | .error f => .error f
    | .ok qs => if (q0 :: qs).all c.bitmapsOk then .ok (q0 :: qs) else .error { status := 6, lvl := lvl }

/-! ### A pass (R237) -/

/-- Bytes of the strip or run of 128 K of one A row (R58, R235). -/
def NestCfg.stripBytes (c : NestCfg) : Nat :=
  match widthClass c.afmt with
  | 16 => 256
  | 8 => if c.ascaled then 130 else 128
  | _ => 66

/-- The rows of A of a pass, verified before any is used (R237, R238). A line that an earlier DRAIN of the nest wrote is read as it
wrote it: R242 leaves old or new to timing, and the model reads new (DESIGN CHOICE, log 131). -/
def State.nestRows (s : State) (c : NestCfg) (st : NestSt) (ma : Nat) : Except MFault (List (List Byte)) :=
  let a := c.sum (opBase (c.mc 0x30)) 0x08 st.idx
  let n := c.stripBytes * (if c.sparse = 0 then 1 else 2)
  (List.range ma).mapM fun (i : Nat) =>
    s.operand c.sk c.aTile (a + (i * c.ap : Nat)) n (if widthClass c.afmt = 16 then 2 else 1) 15 st.drained

/-- A strip of A: its values by k, and its scale (R57, R58). -/
def NestCfg.strip (c : NestCfg) (b : List Byte) : Array FVal × Nat :=
  let wc := widthClass c.afmt
  let scale := if wc = 4 then leAt b 64 1 else if c.ascaled then leAt b 128 1 else 127
  let extra := if wc = 4 then leAt b 65 1 else 0
  (((unpackCodes wc (b.take (16 * wc))).map (decodeIn c.afmt extra)).toArray, scale)

/-- The scale of the weights (R59, R227). -/
def NestCfg.bscale (c : NestCfg) : Nat :=
  let f := bits c.bdesc 0 4
  if f = 4 ∨ ((f = 2 ∨ f = 3) ∧ bits c.bdesc 44 1 = 1) then bits c.bdesc 56 8 else 127

/-- One row of a pass on block `q`, added into the row's active columns (R237). -/
def NestCfg.addRow (c : NestCfg) (cols : List (List (Nat × FVal))) (strip : List Byte) (row : List (BitVec 32)) :
    List (BitVec 32) :=
  let a := c.strip strip
  let nan := decide (a.2 = 255) || decide (c.bscale = 255)
  let sexp : Int := (a.2 : Int) + c.bscale - 254
  row.mapIdx fun n x =>
    if n < c.na then
      let ps := ((cols.getD n []).filter fun p => decide (p.1 < c.ka)).map fun p => (p.1, (a.1.getD p.1 .zero).mul p.2)
      passAdd c.np ps nan sexp x
    else x

/-- PASS (R237): rows of A against the latched weights, block 0 before block 1. -/
def State.nestAdd (s : State) (c : NestCfg) (weights : List (List Byte)) (rows : List (List Byte)) (acc row0 : Nat) :
    State :=
  let cols := weights.map c.columns
  (List.range c.ma).foldl (fun s i =>
    let strips := chunks c.stripBytes cols.length (rows.getD i [])
    let r := (cols.zip strips).foldl (fun row q => c.addRow q.1 q.2 row) (s.accRow c.sk acc (row0 + i))
    s.setAccRow c.sk acc (row0 + i) r) s

/-- ZERO (R233): the active region of the coming pass set to +0. -/
def State.nestZero (s : State) (c : NestCfg) (acc row0 : Nat) : State :=
  (List.range c.ma).foldl (fun s i =>
    s.setAccRow c.sk acc (row0 + i)
      ((s.accRow c.sk acc (row0 + i)).mapIdx fun n x => if n < c.na then 0 else x)) s

/-! ### The drain (R241, R250) -/

/-- What a drain converts and where it writes: a window of an accumulator, a destination, a format and its rounding
for element (row, column), the histogram it counts in. -/
structure DrainCfg where
  sk : Nat
  acc : Nat
  row0 : Nat
  col0 : Nat
  rows : Nat
  cols : Nat
  dst : Int
  pitch : Nat
  dfmt : Nat
  rm : Nat → Nat → Rm
  tid : Nat
  histo : Bool
  hb : BitVec 8

/-- Bytes of an element of a drain format; 1 of a strip's (R231, R241). -/
def drainSize (dfmt : Nat) : Nat :=
  match dfmt with
  | 0 => 4
  | 1 => 2
  | 2 => 2
  | _ => 1

/-- Bytes of a drained row. -/
def DrainCfg.rowBytes (d : DrainCfg) : Nat :=
  if d.dfmt = 5 then 66 else if 6 ≤ d.dfmt then 130 else d.cols * drainSize d.dfmt

/-- The format of an unscaled drain. -/
def drainFmt (dfmt : Nat) : Fmt :=
  match dfmt with
  | 1 => bf16
  | 2 => fp16
  | 3 => fp8a
  | 4 => fp8b
  | _ => fp32

/-- A drained row: its bytes, its values for the histogram, and its saturations (R60, R241). -/
def DrainCfg.row (d : DrainCfg) (r : Nat) (xs : List (BitVec 32)) : List Byte × List FVal × Nat :=
  if 5 ≤ d.dfmt then
    let f := if d.dfmt = 5 then 4 else if d.dfmt = 6 then 2 else 3
    let b := encodeBlock f (fun n => d.rm r n) (xs.map fun x => val32 x.toNat)
    (b.bytes f, (List.range 128).map (b.value f), (b.sats.filter id).length)
  else
    let f := drainFmt d.dfmt
    let ys := ((xs.drop d.col0).take d.cols).mapIdx fun i x =>
      if d.dfmt = 0 then (x.toNat, false) else roundF f (d.rm r (d.col0 + i)) (val32 x.toNat)
    (ys.flatMap (fun y => leBytes (drainSize d.dfmt) y.1), ys.map (fun y => decodeF f y.1),
      (ys.filter (·.2)).length)

/-- DRAIN's rows from row `i`, `n` of them, in order; a line that fails its merge stops it, the lines before it written
and its row not counted (R96, R241, R245). -/
def State.drainRows (s : State) (d : DrainCfg) : Nat → Nat → State × Option MFault
  | _, 0 => (s, none)
  | i, n + 1 =>
    let r := d.row0 + i
    let y := d.row r (s.accRow d.sk d.acc r)
    let a := (d.dst + i * d.pitch).toNat
    match s.storeLines .scratch a y.1 (originTag 1 (d.sk / 8)) (originTag 5 (a / 2 ^ 23)) (pieces a y.1.length) with
    | (s, some b) => (s, some { status := 8, addr := a, bad := some b })
    | (s1, none) =>
      let s2 := s1.countSats d.sk d.tid y.2.2
      (if d.histo then s2.countBins d.sk d.tid d.hb y.2.1 else s2).drainRows d (i + 1) n

/-- Where the first row of a drain's destination fails R147, R149 or its alignment (R241, R245 status 3). -/
def State.drainBad (s : State) (d : DrainCfg) : Option Nat :=
  (List.range d.rows).findSome? fun (i : Nat) =>
    let a := d.dst + (i * d.pitch : Nat)
    if a < 0 ∨ a.toNat % drainSize d.dfmt ≠ 0 ∨ sliceOk a.toNat d.rowBytes = false ∨
        s.window d.sk a.toNat d.rowBytes = false then some a.toNat
    else none

/-- DRAIN (R241): every address first, then the rows. -/
def State.drainAll (s : State) (d : DrainCfg) : State × Option MFault :=
  match s.drainBad d with
  | some a => (s, some { status := 3, addr := a })
  | none => s.drainRows d 0 d.rows

/-- A rounding mode field, SR under the given draws. -/
def rmOf (c : Nat) (d : Nat) : Rm :=
  match c with
  | 0 => .rne
  | 1 => .rz
  | _ => .sr d

/-- The drain of a nest's last pass (R233, R241). -/
def NestCfg.drain (c : NestCfg) (st : NestSt) (acc row0 lvl : Nat) : DrainCfg :=
  { sk := c.sk, acc := acc, row0 := row0, col0 := 0, rows := c.ma, cols := c.na
    dst := c.sum (c.mc 0x33).toNat 0x20 st.lastIdx, pitch := c.dp, dfmt := c.dfmt
    rm := fun r n => rmOf c.drm (draw c.seed c.kind c.seq (c.base + st.dcount * 16384 + r * 128 + n))
    tid := c.tid, histo := c.act lvl 4, hb := c.hb }

/-! ### The steps of a nest (R234) -/

/-- What a part of a nest leads to. -/
structure NestOut where
  s : State
  st : NestSt
  fault : Option MFault

/-- BEGIN of level `m` and the levels below it. -/
def nestBegins (c : NestCfg) : List Nat → State → NestSt → NestOut
  | [], s, st => ⟨s, st, none⟩
  | m :: ms, s, st =>
    match (if c.act m 0 || st.reload then
        match s.nestReload c st (if c.act m 0 then m else 15) with
        | .error f => Except.error f
        | .ok w => .ok { st with weights := w, reload := false }
      else .ok st) with
    | .error f => ⟨s, st, some f⟩
    | .ok st =>
      if c.act m 2 then
        match s.nestRegion c st.idx st.w m with
        | .error f => ⟨s, st, some f⟩
        | .ok r => nestBegins c ms (s.nestZero c r.1 r.2) st
      else nestBegins c ms s st

/-- The levels from `l` down to 0. -/
def levelsDown (l : Nat) : List Nat := (List.range (l + 1)).reverse

/-- The actions of END of level `l` but its CHAINWAIT: DRAIN, then SWAPACC (R234). -/
def nestEndActs (c : NestCfg) (l : Nat) (s : State) (st : NestSt) : NestOut :=
  let swap (st : NestSt) : NestSt := if c.act l 3 then { st with w := !st.w } else st
  if c.act l 1 then
    match s.nestRegion c st.lastIdx st.lastW l with
    | .error f => ⟨s, st, some f⟩
    | .ok r =>
      let d := c.drain st r.1 r.2 l
      match s.drainAll d with
      | (s, some f) => ⟨s, st, some { f with lvl := l }⟩
      | (s, none) =>
        ⟨s, swap { st with
          dcount := st.dcount + 1
          drained := st.drained ++ (List.range d.rows).map fun (i : Nat) => ((d.dst + (i * d.pitch : Nat)).toNat, d.rowBytes) },
          none⟩
  else ⟨s, swap st, none⟩

/-- What follows END of level `l` (R234): END of the next level where the index returns to 0, else the BEGINs from this
level down. Past level 5 the nest has ended, and `lvl` is 6. -/
def nestNext (c : NestCfg) (l : Nat) (st : NestSt) : NestSt :=
  if st.idx.getD l 0 + 1 = c.cnt l then
    { st with idx := st.idx.set l 0, lvl := if l = 5 then 6 else st.lvl, ending := if l = 5 then none else some (l + 1) }
  else { st with idx := st.idx.set l (st.idx.getD l 0 + 1), lvl := l, ending := none }

/-- The ENDs from the one that comes next, `fuel` of them at most. A member of a chain stops at a CHAINWAIT (R239). -/
def nestEnds (c : NestCfg) : Nat → State → NestSt → NestOut
  | 0, s, st => ⟨s, st, none⟩
  | fuel + 1, s, st =>
    match st.ending with
    | none => ⟨s, st, none⟩
    | some l =>
      match nestEndActs c l s st with
      | ⟨s, st, some f⟩ => ⟨s, st, some f⟩
      | ⟨s, st, none⟩ =>
        if c.chained && c.act l 5 then ⟨s, { st with sync := true }, none⟩ else nestEnds c fuel s (nestNext c l st)

/-- A CHAINWAIT that every member has reached: the ENDs go on (R239). -/
def nestSynced (c : NestCfg) (s : State) (st : NestSt) : NestOut :=
  nestEnds c 6 s (nestNext c (st.ending.getD 0) { st with sync := false })

/-- The pass itself, on rows of A that have been read and verified. -/
def nestPass (c : NestCfg) (rows : List (List Byte)) (s : State) (st : NestSt) : NestOut :=
  match s.nestRegion c st.idx st.w 15 with
  | .error f => ⟨s, st, some f⟩
  | .ok r =>
    ⟨s.nestAdd c st.weights rows r.1 r.2,
      { st with passes := st.passes + 1, lastIdx := st.idx, lastW := st.w, ending := some 0, begun := false }, none⟩

/-- The BEGINs before a pass, once. -/
def nestBegin (c : NestCfg) (s : State) (st : NestSt) : NestOut :=
  if st.begun then ⟨s, st, none⟩
  else
    match nestBegins c (levelsDown st.lvl) s st with
    | ⟨s, st, none⟩ => ⟨s, { st with begun := true }, none⟩
    | r => r

/-- The nest up to its next pass boundary (R234, R246): the BEGINs and the pass, and the ENDs after it. An END action
that failed is taken up again first. -/
def nestUnit (c : NestCfg) (s : State) (st : NestSt) : NestOut :=
  match st.ending with
  | some _ => nestEnds c 6 s st
  | none =>
    match nestBegin c s st with
    | ⟨s, st, some f⟩ => ⟨s, st, some f⟩
    | ⟨s, st, none⟩ =>
      match s.nestRegion c st.idx st.w 15, s.nestRows c st c.ma with
      | .error f, _ => ⟨s, st, some f⟩
      | _, .error f => ⟨s, st, some f⟩
      | .ok _, .ok rows =>
        match nestPass c rows s st with
        | ⟨s, st, some f⟩ => ⟨s, st, some f⟩
        | ⟨s, st, none⟩ => nestEnds c 6 s st

/-- A nest with a single pass run whole: what the thunk forcer issues (R263). -/
def nestOnce (c : NestCfg) (s : State) : State × Option MFault :=
  match s.nestCheck c with
  | 0 =>
    let r := nestUnit c s { started := true }
    (r.s, r.fault)
  | st => (s, some { status := st })

/-- The span from the lowest to the highest byte an operand reaches over the whole nest (R242). -/
def NestCfg.span (c : NestCfg) (base : Int) (stride pitch rowBytes : Nat) (rows : Nat) : Int × Nat :=
  let e (l : Nat) : Int := ((c.cnt l : Nat) - 1) * (c.mc (stride + l)).toInt
  let lo := (List.range 6).foldl (fun a l => a + min 0 (e l)) base
  let hi := (List.range 6).foldl (fun a l => a + max 0 (e l)) base
  (lo, (hi - lo).toNat + (rows - 1) * pitch + rowBytes)

/-- A byte range that a command reads or writes in a slice or a tile (R242, R266, R292). -/
structure Foot where
  sp : Space
  a : Nat
  n : Nat
  write : Bool
  deriving DecidableEq, Repr

/-- The slice footprint of a nest: A, B and the drain (R242). -/
def NestCfg.feet (c : NestCfg) : List Foot :=
  let foot (sp : Int × Nat) (w : Bool) : Foot := ⟨.scratch, sp.1.toNat, sp.2, w⟩
  (if c.aTile.isSome || c.head.isSome then []
  else [foot (c.span (opBase (c.mc 0x30)) 0x08 c.ap (c.stripBytes * (if c.sparse = 0 then 1 else 2)) c.ma) false]) ++
  (match opTile (c.mc 0x31) with
    | some _ => []
    | none =>
      [foot (c.span (opBase (c.mc 0x31)) 0x10 0 (c.squareBytes * (if c.sparse = 0 then 1 else 2)) 1) false]) ++
  (if (List.range 6).any fun l => c.act l 1 then
    [foot (c.span (c.mc 0x33).toNat 0x20 c.dp
      (if c.dfmt = 5 then 66 else if 6 ≤ c.dfmt then 130 else c.na * drainSize c.dfmt) c.ma) true]
  else [])

/-- A granted accumulator as a whole, as a footprint beyond the tiles (R242). -/
def State.accFoot (s : State) (sk a : Nat) (write : Bool) : Foot :=
  ⟨.tile, 2 ^ 40 + (sk / 8 * 4 + (s.slot sk).amap.getD a 0) * 65536, 65536, write⟩

/-- How many times SWAPACC has acted for each step of the index of level `m`, modulo 2 (R234). -/
def NestCfg.swapsAt (c : NestCfg) (m : Nat) : Nat :=
  ((List.range (m + 1)).map fun l =>
    if c.act l 3 then ((List.range (m - l)).map fun k => c.cnt (l + k) % 2).foldl (· * ·) 1 else 0).foldl (· + ·) 0 % 2

/-- The C words and swap bits of a nest's passes, over the levels given, those that can still lead to an accumulator
(R230, R234). -/
def NestCfg.cWords (c : NestCfg) : List Nat → List (Int × Bool) → List (Int × Bool)
  | [], xs => xs
  | m :: ms, xs =>
    let stride := (c.mc (0x18 + m)).toInt
    let n := if stride = 0 then min 2 (c.cnt m) else c.cnt m
    let far (f : Int → Int) : Int := (ms.map fun k => f (((c.cnt k : Nat) - 1) * (c.mc (0x18 + k)).toInt)).foldl (· + ·) 0
    let lo := far (min 0)
    let hi := far (max 0)
    let ys := xs.flatMap fun x => (List.range n).map fun i =>
      (x.1 + (i : Nat) * stride, x.2 != decide (i * c.swapsAt m % 2 = 1))
    c.cWords ms ((ys.filter fun y => decide (0 ≤ y.1 + hi) && decide (y.1 + lo < 512)).eraseDups)

/-- The logical accumulators that a nest's passes use (R230, R242). -/
def NestCfg.accNames (c : NestCfg) : List Nat :=
  ((c.cWords (List.range 6) [((bits (c.mc 0x32) 0 9 : Nat), false)]).map fun x => x.1.toNat / 128 ^^^ bit x.2).eraseDups

/-- The tiles and accumulators that a nest names, as a whole (R242). -/
def State.nestWhole (s : State) (c : NestCfg) : List Foot :=
  (c.aTile.toList ++ (opTile (c.mc 0x31)).toList).map (fun t => ⟨.tile, s.tileAddr c.sk t 0, 32768, false⟩) ++
  (c.accNames.filter fun a => decide (a < (s.slot c.sk).amap.length)).map (s.accFoot c.sk · true)

/-! ### TMOV (R249, R250) -/

/-- TLD's and TST's lines from line `i`, `n` of them: each carried whole with its check word, verified by TLD. -/
def State.moveLines (s : State) (load : Bool) (tile slice' : Nat) : Nat → Nat → State × Nat × Option MFault
  | i, 0 => (s, i, none)
  | i, n + 1 =>
    let t := tile + 128 * i
    let a := slice' + 128 * i
    if load then
      match s.verifyLine .scratch a with
      | some b => (s, i, some { status := 8, addr := a, bad := some b })
      | none => (s.carryLine .scratch a .tile t).moveLines load tile slice' (i + 1) n
    else if s.ecc.contains (lineKey .tile t) then
      (s, i, (s.verifyLine .tile t).map fun b => { status := 8, addr := t, bad := some b })
    else (s.carryLine .tile t .scratch a).moveLines load tile slice' (i + 1) n

/-- AFILL's rows from row `i`, `n` of them: bit patterns copied unchanged, each source line verified as it is consumed;
what the lines before the one that fails hold stays written. -/
def State.fillRows (s : State) (sk acc row0 col0 cols src pitch : Nat) : Nat → Nat → State × Nat × Option MFault
  | i, 0 => (s, i, none)
  | i, n + 1 =>
    let a := src + i * pitch
    let d := s.bytes .scratch a (4 * cols)
    let bad := s.verify .scratch a (4 * cols)
    let good := bad.elim cols fun b => (b.addr - a) / 4
    let t := s.setAccRow sk acc (row0 + i) ((s.accRow sk acc (row0 + i)).mapIdx fun j x =>
      if col0 ≤ j ∧ j < col0 + good then BitVec.ofNat 32 (leAt d (4 * (j - col0)) 4) else x)
    match bad with
    | some b => (t, i, some { status := 8, addr := a, bad := some b })
    | none => t.fillRows sk acc row0 col0 cols src pitch (i + 1) n

/-- A window word with a reserved bit set or a window beyond the accumulator (R249). -/
def windowBad (w : Word) : Bool :=
  decide (bits w 32 32 ≠ 0) || decide (bits w 7 1 ≠ 0) || decide (bits w 15 1 ≠ 0) || decide (bits w 16 8 = 0) ||
  decide (bits w 24 8 = 0) || decide (128 < bits w 0 7 + bits w 16 8) || decide (128 < bits w 8 7 + bits w 24 8)

/-- The first row of a slice operand of a TMOV that fails R147, R149 or its alignment. -/
def State.rowsBad (s : State) (sk a pitch rows n align : Nat) : Option Nat :=
  (List.range rows).findSome? fun i =>
    let x := a + i * pitch
    if x % align ≠ 0 ∨ sliceOk x n = false ∨ s.window sk x n = false then some x else none

/-- The drain of an ADRN (R250). -/
def adrnCfg (sk acc : Nat) (dst win dw seed : Word) (seq : Nat) : DrainCfg :=
  { sk := sk, acc := acc, row0 := bits win 0 7, col0 := bits win 8 7, rows := bits win 16 8, cols := bits win 24 8
    dst := dst.toNat, pitch := bits dw 32 32, dfmt := bits dw 0 4
    rm := fun r n => rmOf (bits dw 4 2) (draw seed 0 seq (r * 128 + n))
    tid := bits dw 8 6, histo := decide (bits dw 6 1 = 1), hb := BitVec.ofNat 8 (bits dw 16 8) }

/-- The checks of a TMOV (member 1 TLD, 2 TST, 3 AFILL, 4 ADRN) in the order of status 2, 3, 10 (R250). R249 has the row pitch of an
AFILL a multiple of 4, and R245 names no status for one that is not: status 3, with one row as with more (DESIGN CHOICE, log 133). -/
def State.tmovCheck (s : State) (sk member lit : Nat) (r1 r2 r3 : Word) : Option MFault :=
  let bad (st a : Nat) : Option MFault := some { status := st, lvl := 14, addr := a }
  if member ≤ 2 then
    if (s.slot sk).tmap.length ≤ lit ∨ 32768 < r2.toNat + r3.toNat then bad 2 r2.toNat
    else if r1.toNat % 128 ≠ 0 ∨ sliceOk r1.toNat r3.toNat = false ∨ s.window sk r1.toNat r3.toNat = false then
      bad 3 r1.toNat
    else if r2.toNat % 128 ≠ 0 ∨ r3.toNat % 128 ≠ 0 ∨ r3.toNat < 128 then bad 10 0
    else none
  else if (s.slot sk).amap.length ≤ lit then bad 2 0
  else
    let rows := bits r2 16 8
    let cols := bits r2 24 8
    if member = 3 then
      match s.rowsBad sk r1.toNat r3.toNat rows (4 * cols) 4 with
      | some a => bad 3 a
      | none => if r3.toNat % 4 ≠ 0 then bad 3 r1.toNat else if windowBad r2 then bad 10 0 else none
    else
      match s.drainBad (adrnCfg sk lit r1 r2 r3 0 0) with
      | some a => bad 3 a
      | none =>
        if windowBad r2 || decide (7 < bits r3 0 4) || decide (bits r3 4 2 = 3) || decide (bits r3 7 1 ≠ 0) ||
            decide (bits r3 14 2 ≠ 0) || decide (bits r3 24 8 ≠ 0) ||
            (decide (5 ≤ bits r3 0 4) && (decide (bits r2 8 7 ≠ 0) || decide (cols ≠ 128))) then bad 10 0
        else none

/-- A TMOV that has passed its checks: the lines or rows completed, and what stopped it (R250). -/
def State.tmovRun (s : State) (sk member lit : Nat) (r1 r2 r3 seed : Word) (seq : Nat) : State × Nat × Option MFault :=
  if member ≤ 2 then
    s.moveLines (decide (member = 1)) (s.tileAddr sk lit r2.toNat) r1.toNat 0 (r3.toNat / 128)
  else if member = 3 then
    s.fillRows sk lit (bits r2 0 7) (bits r2 8 7) (bits r2 24 8) r1.toNat r3.toNat 0 (bits r2 16 8)
  else
    let d := adrnCfg sk lit r1 r2 r3 seed seq
    match s.drainRows d 0 d.rows with
    | (s, none) => (s, d.rows, none)
    | (s, some f) => (s, (f.addr - r1.toNat) / max 1 d.pitch, some f)

/-- The slice and tile bytes a TMOV reads and writes (R242, R266, R292). -/
def State.tmovFeet (s : State) (sk member lit : Nat) (r1 r2 r3 : Word) : List Foot :=
  match member with
  | 1 => [⟨.scratch, r1.toNat, r3.toNat, false⟩, ⟨.tile, s.tileAddr sk lit r2.toNat, r3.toNat, true⟩]
  | 2 => [⟨.scratch, r1.toNat, r3.toNat, true⟩]
  | 3 => [⟨.scratch, r1.toNat, (bits r2 16 8 - 1) * r3.toNat + 4 * bits r2 24 8, false⟩]
  | _ =>
    let d := adrnCfg sk lit r1 r2 r3 0 0
    [⟨.scratch, r1.toNat, (d.rows - 1) * d.pitch + d.rowBytes, true⟩]

end Sys2Proof.Machine
end

