-- ==== Sys2Proof/Machine/Operands.lean ====
section
/-! DEFINITION. The operand forms: immediates and offsets (R27, R69), load and store addresses (R159, R162), and the
checks of virtual and slice operands (R81, R147, R288). -/

namespace Sys2Proof.Machine

/-- imm12 of format I (R27). -/
def imm12 (i : BitVec 12) : Word := sx i
/-- The LUI immediate (R27). -/
def luiImm (i : BitVec 21) : Word := sx i <<< 11
/-- A word offset from the PC: off13, off21 and the ADPC immediate (R27). -/
def relTarget {n : Nat} (pc : Word) (o : BitVec n) : Word := pc + 4 * sx o
/-- The JALR target: bits [1:0] cleared (R27). -/
def jalrTarget (base : Word) (i : BitVec 12) : Word := (base + sx i) &&& 0xFFFFFFFFFFFFFFFC
/-- The width in bytes that w2 selects (R37). -/
def width2 (w : BitVec 2) : Nat := 2 ^ w.toNat
/-- The address of LD, LDU, ST and STS (R27, R159). -/
def memAddr (base : Word) (w : BitVec 2) (i : BitVec 10) : Word := base + sx i * BitVec.ofNat 64 (width2 w)
/-- The address of VLD and VST (R162). -/
def vecAddr (base : Word) (i : BitVec 10) : Word := base + sx i * 512

/-- A virtual operand has bits [63:55] zero (R81). -/
def virtOk (v : Word) : Bool := decide (bits v 55 9 = 0)

/-- The address of a scalar access passes R147 and its alignment (R159). -/
def scalarOk (a : Word) (w : BitVec 2) : Bool := sliceOk a.toNat (width2 w) && decide (a.toNat % width2 w = 0)

/-- The address of a vector access passes R147 and lies on a line (R162). -/
def vectorOk (a : Word) : Bool := sliceOk a.toNat 512 && decide (a.toNat % 128 = 0)

/-- The cell an AMO, FRD, FWR, BARR or BWAIT names (R288, R289, R310): a slice address under R147 and R149, or a
virtual address to translate. An atomic access of the sequencer's own. -/
inductive Cell where
  | slice (a : Nat)
  | virt (va : Nat)
  /-- Fails R81, R147 or R149. -/
  | bounds
  deriving DecidableEq, Repr

/-- The cell of an address operand, `n` bytes wide (R288). The alignment of a virtual address is checked after its
translation (R289). -/
def State.cellOf (s : State) (k : Nat) (a : Word) (n : Nat) : Cell :=
  if bits a 63 1 = 0 then
    if sliceOk a.toNat n && s.window (slotKey k) a.toNat n && decide (a.toNat % n = 0) then .slice a.toNat else .bounds
  else if bits a 55 8 ≠ 0 then .bounds
  else .virt (a.toNat % 2 ^ 55)

/-- The home of the cell an atomic access names (R289): a wait while its translation is asked for, and the precise
faults of R81, R89 and R147, the record's engine and status as given. -/
inductive Found where
  | home (s : State) (h : Home)
  | hold (s : State)
  | trap (s : State)

/-- A precise integrity trap of the instruction at the PC (R97). -/
def State.trapBad (s : State) (k engine : Nat) (b : BadLine) : State :=
  s.trapSeq k ({ s.trapBase k with code := 7, engine := engine, prec := true }.withBad b)

/-- The reduction window that holds a virtual address (R382). -/
def State.winAt (s : State) (va : Nat) : Option (Nat × RedWin) :=
  s.host.redwins.find? fun w => decide (w.2.base ≤ va) && decide (va < w.2.base + w.2.size)

/-- This module takes part in the reduction window that holds a virtual address (R382). -/
def State.inWindow (s : State) (va : Nat) : Bool := (s.winAt va).any fun w => w.2.ranks.contains s.host.rank

/-- The home of an atomic access (R81, R288, R289, R382). `write` says whether it needs the leaf's w. -/
def State.findHome (s : State) (k : Nat) (a : Word) (n engine status : Nat) (write : Bool) : Found :=
  match s.cellOf k a n with
  | .bounds => .trap (s.trapAt k 3 engine a.toNat status)
  | .slice x => .home s (.slice x)
  | .virt va =>
    match s.xlateSeq k va (.atomic k) 5 { kind := if write then 1 else 0, atomic := true } with
    | (s, .ok pa cls) =>
      if cls = 2 && !s.inWindow va then .trap (s.trapAt k 6 engine va)
      else if va % n ≠ 0 then .trap (s.trapAt k 3 engine a.toNat status)
      else .home s (.main pa)
    | (s, .hold) => .hold s
    | (s, .fault c _) => .trap (s.trapAt k c engine va)
    | (s, .bad b) => .trap (s.trapBad k engine b)

end Sys2Proof.Machine
end

