-- ==== Sys2Proof/Machine/Flags.lean ====
section
/-! DEFINITION. The conditions an instruction computes. The hardware has no flags register: no integer or FP32
instruction sets a flag (R173, R177). What takes a flag's place is the comparison of a branch (R38, R180), a bit of a
control-queue outcome (R181), an event counter with its saturation mark (R183, postCount beside the queues), and the 0 or 1 a comparison writes
(R173, R178). -/

namespace Sys2Proof.Machine

/-- The conditions of BR, by cond3 (R38). -/
def brCond (c : Nat) (x y : Word) : Bool :=
  match c with
  | 0 => decide (x = y)
  | 1 => decide (x ≠ y)
  | 2 => x.slt y
  | 3 => !x.slt y
  | 4 => x.ult y
  | _ => !x.ult y

/-- The 64-bit value of a condition (R173). -/
def flag (b : Bool) : Word := if b then 1 else 0

/-- A branch on bit `n` of an outcome: `want` is the bit value that takes it (R38, R181). -/
def bcqTaken (w : BitVec 16) (n : BitVec 4) (want : Bool) : Bool := w.getLsbD n.toNat == want

end Sys2Proof.Machine
end

