-- ==== Sys2Proof/Machine/Overlap.lean ====
section
/-! DEFINITION. The overlap checker of deterministic regions (R292, R293): what is remembered of each command, which
commands are ordered, and which footprints conflict. -/

namespace Sys2Proof.Machine

/-- The task of a slot of a deterministic region, with the number below which its commands' are ordered before what
depends on it (R307), and its dependence ancestors (R293). -/
def State.ovIds (s : State) (sk : Nat) : List Nat :=
  let c := s.slot sk
  if s.ovOn sk then (bits c.taskid 0 32 + c.trigUid.getD s.nextUid * 2 ^ 32) :: c.anc else c.anc

/-- A task's counter has been decremented by one that depends on `ids`. -/
def State.depEdge (s : State) (pa : Nat) (ids : List Nat) : State :=
  if ids = [] then s else { s with deps := Kv.put s.deps pa (Kv.get [] s.deps pa ++ ids).eraseDups }

/-- An EVWAIT has taken `n` counts of an event: the commands whose posts it consumed are seen (R185, R293). -/
def State.ovWait (s : State) (k e n : Nat) : State :=
  let sk := slotKey k
  if !s.ovOn sk then s
  else
    let t := Kv.get 0 (s.slot sk).taken e
    let us := (s.ovOf sk).filter fun r => r.post.any fun p => decide (p.1 = e) && decide (p.2 ≤ t + n)
    (s.modSlot sk fun c => { c with taken := Kv.put c.taken e (t + n) }).modSeq k fun q =>
      { q with seen := (q.seen ++ us.map (·.uid)).eraseDups }

/-- A CWAIT for a command number has passed (R192, R293). -/
def State.ovCwait (s : State) (k : Nat) (num : BitVec 16) : State :=
  let sk := slotKey k
  if !s.ovOn sk then s
  else
    match ((s.ovOf sk).filter fun r => decide (r.num = num)).getLast? with
    | some r => s.modSeq k fun q => { q with seen := (q.seen ++ [r.uid]).eraseDups }
    | none => s

/-- The role whose sequencer pops a FIFO (R29). -/
def fifoPopper (f : Nat) : Nat := if f = 0 then 1 else if f = 1 then 0 else if f = 2 then 2 else 1

/-- Kinds that implicit predecessors relate: thunk commands of a slot, and table loads and runs of a bank (R201, R260); the
sub-commands that stores force, which the forcer makes one after another, and the thunk commands after them (R260, R264). -/
def ovImplicit (a b : Nat) : Bool :=
  (decide (a = 1) && decide (b = 1)) || (decide (a = 1 ∨ a = 7) && decide (b = 7)) || (decide (4 ≤ a) && decide (a < 6) && decide (b = a - 2 ∨ b = a)) ||
  (decide (2 ≤ a) && decide (a < 4) && decide (b = a + 2 ∨ (2 ≤ b ∧ b < 4)))

/-- A command of a deterministic task has issued: it is remembered with the commands ordered before it. Its region is known by
the physical address of its own RCB, which tasks of several address spaces share (R292). -/
def State.ovEnter (s : State) (uid k : Nat) (num : BitVec 16) (kind : Nat) (preds : List Nat) (deltas : List (BitVec 5))
    (early : Bool := false) : State :=
  let sk := slotKey k
  if !s.ovOn sk then s
  else
    let mine := s.ovOf sk
    let c := s.slot sk
    let named := deltas.filterMap fun d =>
      if d = 0 then none else ((mine.filter fun r => decide (r.num = num - d.setWidth 16)).getLast?).map (·.uid)
    let kin := (s.ovl.filter fun r =>
      (decide (r.slot / 8 = sk / 8) && decide (8 ≤ kind) && decide (r.kind = kind)) ||
      (decide (r.slot = sk) && ovImplicit kind r.kind) ||
      (decide (r.slot / 8 = sk / 8) && decide (2 ≤ kind) && decide (4 ≤ max kind r.kind) && ovImplicit kind r.kind)).map (·.uid)
    let popped := (mine.filter fun r => r.toks.any fun t =>
      decide (fifoPopper t.1 = roleOf k) && decide (t.2 ≤ Kv.get 0 c.popped t.1)).map (·.uid)
    let direct := (preds ++ named ++ kin ++ popped ++ (s.seq k).seen).eraseDups
    let all := (direct ++ (s.ovl.filter fun r => direct.contains r.uid).flatMap (·.before)).eraseDups
    { s with ovl := s.ovl ++
        [{ uid := uid, slot := sk, seqk := k, num := num, ord := (mine.filter fun r => !r.early).length, task := bits c.taskid 0 32
           anc := c.anc, region := c.regions.getLastD 0, root := c.troot, kind := kind, before := all, early := early }] }

/-- A stream has issued a command that was injected ahead of it: the two are one, under the number of the first (R293, R341). -/
def State.ovJoin (s : State) (first issued : Nat) : State :=
  match s.ovl.find? (·.uid == first), s.ovl.find? (·.uid == issued) with
  | some a, some b =>
    { s with ovl := (s.ovl.filter (·.uid != issued)).map fun (r : OvRec) =>
        if r.uid = first then { b with uid := first, before := ((a.before ++ b.before).filter (· != first)).eraseDups, feet := a.feet, started := a.started }
        else r }
  | _, _ => s

/-- The lines of a byte range. -/
def ovLines (sp a n : Nat) (write : Bool) : OvFoot := ⟨sp, a / 128, (a + n - 1) / 128, write⟩

/-- Two line ranges conflict (R292). -/
def OvFoot.conflicts (a b : OvFoot) : Bool :=
  (a.write || b.write) && decide (a.sp = b.sp) && decide (a.first ≤ b.last) && decide (b.first ≤ a.last)

/-- A remembered command is ordered directly before another: it was when that one issued, it is 64 or more before it in
one slot, or its task is a dependence ancestor that counted it when it decremented (R293, R307). -/
def OvRec.first (a b : OvRec) : Bool :=
  b.before.contains a.uid ||
  (if a.task = b.task then decide (a.slot = b.slot) && decide (a.ord + 64 ≤ b.ord)
  else b.anc.any fun x => decide (x % 2 ^ 32 = a.task) && decide (a.uid < x / 2 ^ 32))

/-- The commands that a chain of at most `n` more such relations puts before those found so far (R293). -/
def ovPast (l : List OvRec) : Nat → List OvRec → List OvRec
  | 0, found => found
  | n + 1, found =>
    match l.filter fun a => !(found.any fun b => b.uid == a.uid) && found.any a.first with
    | [] => found
    | more => ovPast l n (found ++ more)

/-- A chain orders the first of two remembered commands before the second. -/
def ovBefore (l : List OvRec) (a b : OvRec) : Bool := (ovPast l l.length [b]).any fun x => x.uid == a.uid

/-- The physical bytes of a virtual range, page by page, as far as it is translated (R292). -/
def State.physOf (s : State) (troot : Word) (va n : Nat) : List (Nat × Nat) :=
  (List.range ((va % 2 ^ 16 + n + 65535) / 65536)).filterMap fun i =>
    let lo := max va (va / 2 ^ 16 * 2 ^ 16 + i * 2 ^ 16)
    let hi := min (va + n) (va / 2 ^ 16 * 2 ^ 16 + (i + 1) * 2 ^ 16)
    match s.walk lo 1 [42, 29, 16] (bits troot 16 36 * 2 ^ 16) with
    | .leaf _ _ pa => some (memKey pa, hi - lo)
    | _ => none

/-- The lines of a remembered command's footprint. A destination outside scratch counts by its virtual lines, which the
commands of a region share, and by its physical ones as far as its pages are translated now (R292). -/
def State.ovFeet (s : State) (r : OvRec) : List OvFoot :=
  r.feet.flatMap fun f =>
    if f.sp ≠ 3 then [f]
    else f :: (s.physOf r.root (f.first * 128) ((f.last + 1 - f.first) * 128)).map fun p => ovLines 1 p.1 p.2 f.write

/-- A remembered command starts with its footprint: whether it conflicts with one that has started and is not ordered
with it (R293). -/
def State.ovStart (s : State) (uid : Nat) (feet : List OvFoot) : State × Bool :=
  match s.ovl.find? (fun r => r.uid == uid) with
  | none => (s, false)
  | some r =>
    let r := { r with feet := (r.feet ++ feet).eraseDups, started := true }
    let mine := s.ovFeet r
    let past := ovPast s.ovl s.ovl.length [r]
    let clash := s.ovl.any fun b =>
      decide (b.uid ≠ uid) && decide (b.region = r.region) && b.started && (s.ovFeet b).any (fun f => mine.any f.conflicts) &&
        !(past.any fun x => x.uid == b.uid) && !ovBefore s.ovl r b
    if clash then (s, true) else ({ s with ovl := s.ovl.map fun b => if b.uid = uid then r else b }, false)

/-- What a command's retirement has pushed and posted is remembered: the number of each token and count. -/
def State.ovRetire (s : State) (uid k : Nat) (t : BitVec 4) (ev : Option Nat) : State :=
  let sk := slotKey k
  if !s.ovOn sk then s
  else
    let c := s.slot sk
    let tok (f n : Nat) : Nat × Nat := (f, Kv.get 0 c.popped f + n)
    let toks := (if t.getLsbD 2 then [tok (fifoOutL (roleOf k)) (c.outL (roleOf k))] else []) ++
      (if t.getLsbD 3 then [tok (fifoOutR (roleOf k)) (c.outR (roleOf k))] else [])
    let post := match ev with
      | some e => [(e, Kv.get 0 c.taken e + Kv.get 0 c.events e)]
      | none => []
    { s with ovl := s.ovl.map fun r => if r.uid = uid then { r with toks := r.toks ++ toks, post := post } else r }

end Sys2Proof.Machine
end

