-- ==== Sys2Proof/Machine/Force.lean ====
section
/-! DEFINITION. The thunk partition, its arena, and the forcer (R251 to R256, R261 to R267): which blocks a demand
computes, and the sub-commands of each block. -/

namespace Sys2Proof.Machine

/-! ### The arena and the handle directory (R252, R253, R271) -/

/-- THA fields (R271). -/
def thaOrder (w : Word) : Nat := bits w 36 4
def thaFen (w : Word) : Bool := decide (bits w 35 1 = 1)
def thaFacc (w : Word) : Nat := bits w 33 2
def thaBase (w : Word) : Nat := bits w 12 21 * 4096
def thaSize (w : Word) : Nat := 4096 * 2 ^ thaOrder w

/-- THA names an arena (R271). -/
def State.thaOk (s : State) (sk : Nat) : Bool :=
  let w := (s.slot sk).tha
  decide (4 ≤ thaOrder w) && decide (thaOrder w ≤ 10) && decide (thaBase w % thaSize w = 0) &&
  s.window sk (thaBase w) (thaSize w) && (!thaFen w || decide (thaFacc w < (s.slot sk).amap.length))

/-- The bytes a handle names: a rectangle in a slice or a tile (R253). -/
structure View where
  fmt : Nat
  rows : Nat
  cols : Nat
  pitch : Nat
  addr : Nat
  alloc : Bool
  tile : Option Nat
  deriving DecidableEq, Repr

/-- A directory entry (R253): kind 0 free, 1 node, 2 region. -/
structure Dir where
  kind : Nat
  dropped : Bool
  users : Nat
  entry : Nat
  view : View
  deriving DecidableEq, Repr

/-- A directory entry read from its 16 bytes. -/
def decodeDir (x : Nat) : Dir :=
  let f (lo n : Nat) : Nat := x / 2 ^ lo % 2 ^ n
  let t := decide (f 32 1 = 1)
  { kind := f 126 2, dropped := decide (f 125 1 = 1), users := f 117 8, entry := f 109 8
    view :=
      { fmt := f 105 4, rows := f 94 11, cols := f 83 11, pitch := f 67 16
        addr := if t then f 34 15 else f 34 33, alloc := decide (f 33 1 = 1), tile := if t then some (f 49 3) else none } }

/-- The 16 bytes of a directory entry, as a number. -/
def encodeDir (d : Dir) : Nat :=
  d.kind * 2 ^ 126 + bit d.dropped * 2 ^ 125 + d.users * 2 ^ 117 + d.entry * 2 ^ 109 + d.view.fmt * 2 ^ 105 +
  d.view.rows * 2 ^ 94 + d.view.cols * 2 ^ 83 + d.view.pitch * 2 ^ 67 + bit d.view.alloc * 2 ^ 33 +
  (match d.view.tile with
    | some t => t * 2 ^ 49 + d.view.addr * 2 ^ 34 + 2 ^ 32
    | none => d.view.addr * 2 ^ 34)

/-- Bytes of an arena written by the forcer: merges at the arena's slice (R94, R96). -/
def State.arenaPut (s : State) (sk off : Nat) (bs : List Byte) : State :=
  let a := thaBase (s.slot sk).tha + off
  s.poke .scratch a bs (originTag 5 (a / 2 ^ 23))

/-- The directory entry of a handle. -/
def State.dir (s : State) (sk h : Nat) : Dir :=
  decodeDir (leNat (s.bytes .scratch (thaBase (s.slot sk).tha + 16 * h) 16))

/-- A thunk format (R255). -/
def thunkFmt (f : Nat) : Bool := decide (f < 4) || decide (f = 5)

/-- The directory entry of a handle that is not free holds a reserved value (R252, R253). -/
def State.dirBad (s : State) (sk h : Nat) : Bool :=
  let x := leNat (s.bytes .scratch (thaBase (s.slot sk).tha + 16 * h) 16)
  let d := decodeDir x
  decide (d.kind = 3) || (decide (d.kind ≠ 0) &&
    (decide (x % 2 ^ 32 ≠ 0) || !thunkFmt d.view.fmt || decide (d.view.rows = 0) || decide (1024 < d.view.rows) ||
      decide (d.view.cols = 0) || decide (1024 < d.view.cols) || (d.view.tile.isSome && decide (x / 2 ^ 52 % 2 ^ 15 ≠ 0))))

/-- A directory entry written. -/
def State.setDir (s : State) (sk h : Nat) (d : Dir) : State := s.arenaPut sk (16 * h) (leBytes 16 (encodeDir d))

/-- The live node a handle names. -/
def State.nodeOf (s : State) (sk h : Nat) : Option Node :=
  let d := s.dir sk h
  if d.kind = 1 then (s.slot sk).nodes.find? fun n => n.entry == d.entry else none

/-- A node replaced. -/
def State.setNode (s : State) (sk : Nat) (n : Node) : State :=
  s.modSlot sk fun c => { c with nodes := c.nodes.map fun x => if x.entry = n.entry then n else x }

/-- The bytes from a view's first to its last (R255). -/
def View.extent (v : View) : Nat := (v.rows - 1) * v.pitch + v.cols * fmtBytes v.fmt

/-- A view's bytes as a footprint. -/
def State.viewFoot (s : State) (sk : Nat) (v : View) (write : Bool) : Foot :=
  match v.tile with
  | some t => ⟨.tile, s.tileAddr sk t v.addr, v.extent, write⟩
  | none => ⟨.scratch, v.addr, v.extent, write⟩

/-- The view of a node's output. -/
def Node.view (n : Node) : View := ⟨n.ofmt, n.rows, n.cols, n.pitch, n.addr, n.alloc, none⟩

/-! ### Blocks and demands (R254, R256, R262) -/

/-- The 128 × 128 blocks of a shape, in row-major order. -/
def blocksOf (rows cols : Nat) : List (Nat × Nat) :=
  (List.range ((rows + 127) / 128)).flatMap fun i => (List.range ((cols + 127) / 128)).map fun j => (i, j)

/-- A block's mask bit. -/
def Node.done (n : Node) (b : Nat × Nat) : Bool := n.mask.getLsbD (8 * b.1 + b.2)

/-- The mask of a new node: the blocks wholly outside its output (R254). -/
def freshMask (rows cols : Nat) : BitVec 64 :=
  (blocksOf rows cols).foldl (fun m b => m &&& ~~~((1 : BitVec 64) <<< (8 * b.1 + b.2))) (BitVec.allOnes 64)

/-- The index map of input `q` of an operation: sources of its block row and column (R256). -/
def inputMap (op q : Nat) : Nat × Nat :=
  if op = 2 ∨ op = 3 then (if q = 0 then (0, 2) else if q = 1 then (2, 1) else (0, 1))
  else if op = 8 then (1, 0)
  else (0, 1)

/-- The numbers a source gives for an output block. -/
def mapSource (src n : Nat) (b : Nat × Nat) : List Nat :=
  match src with
  | 0 => [b.1]
  | 1 => [b.2]
  | _ => List.range n

/-- MAP (R262): the blocks of an input that the given output blocks need. -/
def mapBlocks (m : Nat × Nat) (v : View) (bs : List (Nat × Nat)) : List (Nat × Nat) :=
  (bs.flatMap fun b =>
    (mapSource m.1 ((v.rows + 127) / 128) b).flatMap fun i =>
      (mapSource m.2 ((v.cols + 127) / 128) b).map fun j => (i, j)).eraseDups

/-- FORCE (R262) as a list: the blocks a demand computes, each with its node's entry, in order. Those of `acc` come
before and are not computed again. `fuel` bounds the depth of the nodes, at most 256. -/
def State.demand (s : State) (sk : Nat) : Nat → Nat → List (Nat × Nat) → List (Nat × Nat × Nat) →
    List (Nat × Nat × Nat)
  | 0, _, _, acc => acc
  | fuel + 1, h, d, acc =>
    match s.nodeOf sk h with
    | none => acc
    | some n =>
      let mb := (blocksOf n.rows n.cols).filter fun b =>
        d.contains b && !n.done b && !acc.contains (n.entry, b.1, b.2)
      if mb.isEmpty then acc
      else
        let r := n.ins.zipIdx.foldl (fun acc q =>
          s.demand sk fuel q.1 (mapBlocks (inputMap n.op q.2) (s.dir sk q.1).view mb) acc) acc
        r ++ mb.map fun b => (n.entry, b.1, b.2)

/-- Every block of a node. -/
def Node.all (n : Node) : List (Nat × Nat) := blocksOf n.rows n.cols

/-! ### The sub-commands of a block (R261, R263, R264) -/

/-- A demand's maker, and the seed and numbering of its sub-commands (R264). -/
structure ForceCtx where
  sk : Nat
  seed : Word
  kind : Nat
  seq : BitVec 16
  by' : Demander

/-- A fault that the forcer finds before a sub-command is there (R263, R252): code, engine, status and address, the
ordinal and the node. -/
structure FFault where
  code : Nat
  engine : Nat
  status : Nat
  addr : Nat
  ord : Nat
  node : Option Node

/-- Descriptor of a slice-sourced or staged operand: its format alone (R227, R263). -/
def plainDesc (fmt : Nat) : Word := BitVec.ofNat 64 fmt

/-- The drain format of an output format (R231, R263). -/
def drainOf (fmt : Nat) : Nat := if fmt = 5 then 0 else fmt + 1

/-- The latched table of a block's MGO (R263): A and B operand words, edges, actions, drain. -/
def blockTab (facc : Nat) (aw bw : Nat) (bfmt afmt ap me ne ke dst dp act : Nat) (n : Node) : List (Nat × Word) :=
  [(0x28, BitVec.ofNat 64 act), (0x30, BitVec.ofNat 64 aw), (0x31, BitVec.ofNat 64 bw),
   (0x32, BitVec.ofNat 64 (facc * 128)), (0x33, BitVec.ofNat 64 dst),
   (0x34, BitVec.ofNat 64 (afmt + (me - 1) * 2 ^ 8 + drainOf n.ofmt * 2 ^ 20 + n.rm * 2 ^ 24 + n.tid * 2 ^ 26)),
   (0x35, BitVec.ofNat 64 (me + ne * 2 ^ 8 + ke * 2 ^ 16)), (0x36, BitVec.ofNat 64 ap), (0x37, BitVec.ofNat 64 dp),
   (0x38, plainDesc bfmt)]

/-- The operand word of a view at a byte distance from its start (R230). -/
def View.word (v : View) (off : Nat) : Nat :=
  match v.tile with
  | some t => 2 ^ 63 + t * 2 ^ 32 + (v.addr + off)
  | none => v.addr + off

/-- What one 128-K step of a block of TMUL or TMAC uses (R263): the views of A and B, the active K, whether B is read in
place, the source of its staging copy, and the latched table of the MGO. -/
structure MulPlan where
  va : View
  vb : View
  ke : Nat
  inPlace : Bool
  src : Nat
  stage : Nat
  tab : List (Nat × Word)

/-- The plan of one 128-K step (R263). -/
def State.mulPlan (s : State) (sk : Nat) (n : Node) (bi bj kb last : Nat) : MulPlan :=
  let va := (s.dir sk (n.ins.getD 0 0)).view
  let vb := (s.dir sk (n.ins.getD 1 0)).view
  let tha := (s.slot sk).tha
  let sb := fmtBytes vb.fmt
  let ke := min 128 (n.kdim - 128 * kb)
  let inPlace := decide (vb.pitch = 128 * sb) && decide (vb.cols ≤ 128)
  let stage := thaBase tha + 8192
  let act := (if kb = 0 ∧ n.op = 2 then 4 else 0) + (if kb = last then 2 else 0)
  { va := va, vb := vb, ke := ke, inPlace := inPlace, stage := stage
    src := vb.addr + 128 * kb * vb.pitch + 128 * bj * sb
    tab := blockTab (thaFacc tha) (va.word (128 * bi * va.pitch + 128 * kb * fmtBytes va.fmt))
      (if inPlace then vb.word (128 * kb * vb.pitch) else stage) vb.fmt va.fmt va.pitch
      (min 128 (n.rows - 128 * bi)) (min 128 (n.cols - 128 * bj)) ke
      (n.addr + 128 * bi * n.pitch + 128 * bj * fmtBytes n.ofmt) n.pitch act n }

/-- The shape record of a CPY2 of the forcer (R131): run, n1 and the two strides. -/
def copyShape (run n1 ss1 ds1 : Nat) : List Byte := leBytes 4 run ++ leBytes 2 n1 ++ zeros 10 ++ leBytes 8 ss1 ++ leBytes 8 ds1

/-- A descriptor that disagrees with the view of a tile operand (R263): another format, scaled, or bounds within the part
of the view that a block uses. -/
def descDisagrees (d : Word) (v : View) (rows cols : Nat) : Bool :=
  decide (bits d 0 4 ≠ v.fmt) || decide (bits d 44 1 = 1) || decide (dim128 (bits d 16 8) < rows) || decide (dim128 (bits d 24 8) < cols)

/-- A tile operand of a plan disagrees with its descriptor in force (R263). -/
def State.planDisagrees (s : State) (sk : Nat) (n : Node) (bi bj : Nat) (p : MulPlan) : Bool :=
  let d (t : Nat) : Word := Kv.get 0 (s.slot sk).desc t
  (match p.va.tile with
    | some t => descDisagrees (d t) p.va (min 128 (n.rows - 128 * bi)) p.ke
    | none => false) ||
  (match p.vb.tile with
    | some t => p.inPlace && descDisagrees (d t) p.vb p.ke (min 128 (n.cols - 128 * bj))
    | none => false)

/-- An element of a view as a bit pattern. -/
def State.viewElem (s : State) (sk : Nat) (v : View) (i j : Nat) : Nat :=
  let z := fmtBytes v.fmt
  let o := i * v.pitch + j * z
  match v.tile with
  | some t => leNat (s.bytes .tile (s.tileAddr sk t (v.addr + o)) z)
  | none => leNat (s.bytes .scratch (v.addr + o) z)

/-- The line of a view's block that fails verification, if one does. -/
def State.viewBad (s : State) (sk : Nat) (v : View) (i0 rows j0 cols : Nat) : Option BadLine :=
  let z := fmtBytes v.fmt
  (List.range rows).findSome? fun i =>
    let o := (i0 + i) * v.pitch + j0 * z
    match v.tile with
    | some t => s.verify .tile (s.tileAddr sk t (v.addr + o)) (cols * z)
    | none => s.verify .scratch (v.addr + o) (cols * z)

/-- The exact result of an operation before it is rounded to FP32 (R261). -/
def thunkValue (op : Nat) (imm : BitVec 32) (a b : FVal) : FVal :=
  match op with
  | 4 => a.add b
  | 5 => a.sub b
  | 6 => a.mul b
  | 7 => a.mul (val32 imm.toNat)
  | 10 =>
    match imm.toNat with
    | 0 => a.max .zero
    | 1 => a.tanh
    | 2 => a.exp2
    | 3 => a.log2
    | 4 => a.sqrt
    | 5 => a.rcp
    | _ => a.rsqrt
  | _ => a

/-- What a force run computes, from its descriptor (R263, R338): the operation, its rounding and tensor ID, the
immediate, the block, and the views of its inputs and its output. -/
structure RunDesc where
  op : Nat
  rm : Nat
  tid : Nat
  imm : BitVec 32
  bi : Nat
  bj : Nat
  ins : List View
  out : View

/-- Inputs an operation takes. -/
def topArity (op : Nat) : Nat := if op = 3 then 3 else if op = 2 ∨ op = 4 ∨ op = 5 ∨ op = 6 then 2 else 1

/-- The 64-byte descriptor of a force run of a node (R338). The spec lists its contents and gives no layout. -/
def RunDesc.bytes (d : RunDesc) (np : Nat) : List Byte :=
  let view (v : View) : List Byte := leBytes 16 (encodeDir ⟨0, false, 0, 0, v⟩)
  [d.op, d.rm, d.tid, np].flatMap (leBytes 1 ·) ++ leBytes 4 d.imm.toNat ++ leBytes 1 d.bi ++ leBytes 1 d.bj ++ zeros 6 ++
    d.ins.flatMap view ++ zeros (16 * (2 - d.ins.length)) ++ view d.out

/-- The descriptor read back. -/
def runDesc (b : List Byte) : RunDesc :=
  let view (i : Nat) : View := (decodeDir (leAt b (16 * i) 16)).view
  let op := leAt b 0 1
  { op := op, rm := leAt b 1 1, tid := leAt b 2 1, imm := BitVec.ofNat 32 (leAt b 4 4), bi := leAt b 8 1, bj := leAt b 9 1
    ins := (List.range (topArity op)).map fun i => view (1 + i), out := view 3 }

/-- One element of a force run: its code in the output format, and whether it saturated (R261). -/
def State.thunkElem (s : State) (sk : Nat) (d : RunDesc) (dr : Nat → Nat) (i j : Nat) : Nat × Bool :=
  let v (q : Nat) : View := d.ins.getD q d.out
  let x := if d.op = 8 then s.viewElem sk (v 0) j i else s.viewElem sk (v 0) i j
  let r (t : Nat) : Rm := rmOf d.rm (dr (2 * (i * 1024 + j) + t))
  let a := decodeF (descFmt (v 0).fmt) x
  let out (y : FVal) : Nat × Bool := roundF (descFmt d.out.fmt) (r 1) y
  if d.op = 8 ∧ d.out.fmt = (v 0).fmt then (x, false)
  else if d.op = 8 ∨ d.op = 9 then out a
  else
    let b := if d.ins.length = 2 then decodeF (descFmt (v 1).fmt) (s.viewElem sk (v 1) i j) else .zero
    out (val32 (round32 (r 0) (thunkValue d.op d.imm a b)))

/-- A block computed by a force run (R263), with the line that fails, if one does: its inputs verified, then its rows from
the state before the run. -/
def State.runBlock (s : State) (sk : Nat) (d : RunDesc) (dr : Nat → Nat) : State × Option BadLine :=
  let rows := min 128 (d.out.rows - 128 * d.bi)
  let cols := min 128 (d.out.cols - 128 * d.bj)
  let bad := d.ins.findSome? fun v =>
    if d.op = 8 then s.viewBad sk v (128 * d.bj) cols (128 * d.bi) rows else s.viewBad sk v (128 * d.bi) rows (128 * d.bj) cols
  match bad with
  | some b => (s, some b)
  | none =>
    let z := fmtBytes d.out.fmt
    (List.range rows).foldl (fun (acc : State × Option BadLine) i =>
      match acc with
      | (t, some b) => (t, some b)
      | (t, none) =>
        let ys := (List.range cols).map fun j => s.thunkElem sk d dr (128 * d.bi + i) (128 * d.bj + j)
        match t.storeSlice (d.out.addr + (128 * d.bi + i) * d.out.pitch + 128 * d.bj * z) (ys.flatMap fun y => leBytes z y.1) (sk / 8) with
        | .error b => (t, some b)
        | .ok t => (t.countSats sk d.tid (ys.filter (·.2)).length, none)) (s, none)

/-- FCUR (R271) while a block is in progress. -/
def fcurWord (entry bi bj k slot : Nat) (active : Bool) : Word :=
  BitVec.ofNat 64 (entry % 256 + bi % 8 * 256 + bj % 8 * 2048 + k % 65536 * 65536 + slot % 8 * 2 ^ 32 + bit active * 2 ^ 35)

/-- A sub-command as the forcer forms it (R263, R338): the instruction and the words that a trace records, the values it
latches, its payload, the bytes it reads and writes, and whether it reads or writes the forcer's accumulator. -/
structure SubCmd where
  ins : Instr
  words : Nat × Nat
  v1 : Nat := 0
  v2 : Nat := 0
  v3 : Nat := 0
  lat : Latched := {}
  payload : List Byte
  reads : List Foot
  writes : List Foot
  readsAcc : Bool := false
  writesAcc : Bool := false
  /-- A tile operand of the MGO disagrees with its descriptor in force (R263). -/
  disagrees : Bool := false

/-- The two words of an instruction that the forcer forms. -/
def formed (i : Instr) : Nat × Nat :=
  match encode i with
  | [w, x] => (w.toNat, x.toNat)
  | _ => (0, 0)

/-- The extension word of a sub-command: its profile and copy queue alone. -/
def subExt (np q : Nat) : Ext := ⟨0, 0, 0, BitVec.ofNat 5 np, 0, 0, BitVec.ofNat 3 q, 0⟩

/-- Rows of bytes a pitch apart. -/
def rowFeet (sp : Space) (a rows pitch bytes : Nat) (w : Bool) : List Foot :=
  (List.range rows).map fun i => ⟨sp, a + i * pitch, bytes, w⟩

/-- The bytes of a view's rows from a byte distance. -/
def State.partFeet (s : State) (sk : Nat) (v : View) (off rows bytes : Nat) (w : Bool) : List Foot :=
  match v.tile with
  | some t => rowFeet .tile (s.tileAddr sk t (v.addr + off)) rows v.pitch bytes w
  | none => rowFeet .scratch (v.addr + off) rows v.pitch bytes w

/-- A CPY2. -/
def isCpy2 : Instr → Bool
  | .cpy2 _ _ _ _ _ _ => true
  | _ => false

/-- The extension word of a sub-command's instruction. -/
def subExtOf : Instr → Ext
  | .cpy2 _ _ _ _ _ x => x
  | .mgo x => x
  | .afill _ _ _ _ x => x
  | _ => subExt 0 0

/-- Where the forcer keeps its copy record in an arena (R252). -/
def copyRecAt (tha : Word) : Nat := thaBase tha + 4224

/-- The CPY2 sub-command with its shape record (R338): payload SEED, destination, source, record. -/
def subCopy (seed tha : Word) (dst src run n1 ss1 ds1 : Nat) : SubCmd :=
  let ins := Instr.cpy2 1 1 0 0 0 (subExt 0 3)
  { ins := ins, words := formed ins, v1 := dst, v2 := src, v3 := copyRecAt tha
    payload := leBytes 8 seed.toNat ++ leBytes 8 dst ++ leBytes 8 src ++ copyShape run n1 ss1 ds1
    reads := rowFeet .scratch src n1 ss1 run false, writes := rowFeet .scratch dst n1 ds1 run true }

/-- The bytes that a force run reads and writes, from its descriptor (R263, R292). -/
def State.descFeet (s : State) (sk : Nat) (d : RunDesc) : List Foot :=
  let rows := min 128 (d.out.rows - 128 * d.bi)
  let cols := min 128 (d.out.cols - 128 * d.bj)
  let part (v : View) (i j r c : Nat) (w : Bool) : List Foot :=
    s.partFeet sk v (128 * i * v.pitch + 128 * j * fmtBytes v.fmt) r (c * fmtBytes v.fmt) w
  (d.ins.flatMap fun v => if d.op = 8 then part v d.bj d.bi cols rows false else part v d.bi d.bj rows cols false) ++
    part d.out d.bi d.bj rows cols true

/-- The sub-commands of a block in order (R263). -/
def State.blockSubs (s : State) (f : ForceCtx) (n : Node) (bi bj : Nat) : List SubCmd :=
  let rows := min 128 (n.rows - 128 * bi)
  let cols := min 128 (n.cols - 128 * bj)
  let z := fmtBytes n.ofmt
  let seed := leBytes 8 f.seed.toNat
  let tha := (s.slot f.sk).tha
  let out := s.partFeet f.sk n.view (128 * bi * n.pitch + 128 * bj * z) rows (cols * z) true
  if n.op = 2 ∨ n.op = 3 then
    let facc := thaFacc tha
    let steps := (n.kdim + 127) / 128
    let vc := (s.dir f.sk (n.ins.getD 2 0)).view
    let src := 128 * bi * vc.pitch + 128 * bj * 4
    let win := rows * 2 ^ 16 + cols * 2 ^ 24
    let afill := Instr.afill (BitVec.ofNat 2 facc) 0 0 0 (subExt 0 0)
    let fill : List SubCmd := if n.op = 2 then [] else
      [{ ins := afill, words := formed afill, v1 := vc.addr + src, v2 := win, v3 := vc.pitch
         payload := seed ++ leBytes 8 (vc.addr + src) ++ leBytes 8 win ++ leBytes 8 vc.pitch
         reads := s.partFeet f.sk vc src rows (4 * cols) false, writes := [], writesAcc := true }]
    fill ++ (List.range steps).flatMap fun kb =>
      let p := s.mulPlan f.sk n bi bj kb (steps - 1)
      let sb := fmtBytes p.vb.fmt
      let copy := if p.inPlace then [] else [subCopy f.seed tha p.stage p.src (128 * sb) p.ke p.vb.pitch (128 * sb)]
      let b := if p.inPlace then s.partFeet f.sk p.vb (128 * kb * p.vb.pitch) p.ke (128 * sb) false
        else [⟨.scratch, p.stage, p.ke * 128 * sb, false⟩]
      let mgo := Instr.mgo (subExt n.np 0)
      copy ++ [{ ins := mgo, words := formed mgo, lat := { mcfg := p.tab, desc := (s.slot f.sk).desc }
                 payload := seed ++ (List.range 80).flatMap (fun m => leBytes 8 (latchedReg p.tab m).toNat) ++
                   (List.range 8).flatMap fun t => leBytes 8 (Kv.get 0 (s.slot f.sk).desc t).toNat
                 reads := s.partFeet f.sk p.va (128 * bi * p.va.pitch + 128 * kb * fmtBytes p.va.fmt) rows (p.ke * fmtBytes p.va.fmt) false ++ b
                 writes := if kb = steps - 1 then out else []
                 readsAcc := decide (kb ≠ 0) || decide (n.op = 3), writesAcc := true
                 disagrees := s.planDisagrees f.sk n bi bj p }]
  else
    let ins := n.ins.map fun h => (s.dir f.sk h).view
    let d : RunDesc := { op := n.op, rm := n.rm, tid := n.tid, imm := n.imm, bi := bi, bj := bj, ins := ins, out := n.view }
    [{ ins := .vrun 0 0 0 (subExt 0 0), words := (n.word.toNat, 0), payload := seed ++ d.bytes n.np
       reads := (s.descFeet f.sk d).filter fun w => !w.write
       writes := out }]

/-- What keeps a block from being computed (R252, R263): a reserved directory value, or no forcer accumulator. -/
def State.blockFault (s : State) (sk : Nat) (n : Node) (ord : Nat) : Option FFault :=
  match (n.self :: n.ins).find? (s.dirBad sk) with
  | some h => some ⟨6, 6, 1 + h * 256, 0, ord, some n⟩
  | none =>
    if n.op ≠ 2 ∧ n.op ≠ 3 then none
    else if !thaFen (s.slot sk).tha then some ⟨6, 6, 5 + n.self * 256, 0, ord, some n⟩
    else none

/-! ### Records of sub-commands (R264, R338) -/

/-- A 64-byte record of a kind from its fields: offset and bytes. -/
def traceRec (kind : Nat) (fs : List (Nat × List Byte)) : List Byte :=
  fs.foldl (fun r f => patch r f.1 f.2) (BitVec.ofNat 8 kind :: zeros 63)

/-- Payload records of 60 bytes each (R338). -/
def payloadRecs : Nat → List Byte → List (List Byte)
  | 0, _ => []
  | n + 1, b => if b.isEmpty then [] else traceRec 2 [(4, b.take 60)] :: payloadRecs n (b.drop 60)

/-- The wait mask of ordinal `k` (R338): the sixteen ordinals before it that wrote what it reads. -/
def waitMask (k : Nat) (c : SubCmd) (before : List (Nat × Bool × Nat × Nat)) : Nat :=
  let reads := c.reads.map (fun r => (decide (r.sp = .tile), r.a, r.n)) ++ (if c.readsAcc then [(true, 2 ^ 40, 1)] else [])
  ((List.range 16).filter fun i => decide (i < k) && before.any fun w =>
    decide (w.1 + 1 + i = k) && reads.any fun r => r.1 == w.2.1 && overlap r.2.1 r.2.2 w.2.2.1 w.2.2.2).foldl (fun m i => m + 2 ^ i) 0

/-- What a sub-command writes, by its ordinal; the accumulator stands as one byte beyond every tile. -/
def SubCmd.wrote (c : SubCmd) (k : Nat) : List (Nat × Bool × Nat × Nat) :=
  c.writes.map (fun w => (k, decide (w.sp = .tile), w.a, w.n)) ++ (if c.writesAcc then [(k, true, 2 ^ 40, 1)] else [])

/-- The record of a sub-command that starts, with its payload (R338, R339). -/
def Cmd.subRecord (c : Cmd) (x : Sub) (tix : Nat) : List (List Byte) :=
  let ps := payloadRecs 16 x.payload
  let b := x.block.getD (0, 0)
  traceRec 1 [(1, [BitVec.ofNat 8 (slotNum (slotKey c.seqk))]), (2, [BitVec.ofNat 8 (3 + 4 * bit c.clean)]),
    (3, [BitVec.ofNat 8 ps.length]), (4, leBytes 4 x.words.1), (8, leBytes 4 x.words.2), (12, leBytes 2 c.num.toNat),
    (14, leBytes 2 x.ord), (16, leBytes 4 tix), (20, leBytes 2 x.wait), (33, leBytes 1 x.handle),
    (34, leBytes 1 (b.1 + 8 * b.2)), (35, leBytes 1 (bit (x.block.isSome && x.last)))] :: ps

/-! ### Demands (R260, R262, R264, R270) -/

/-- A slot's demands changed. -/
def State.modDemands (s : State) (sk : Nat) (f : List Demand → List Demand) : State :=
  s.modSlot sk fun c => { c with demands := f c.demands }

/-- The demand of a maker. -/
def State.demandOf (s : State) (sk : Nat) (b : Demander) : Option Demand := (s.slot sk).demands.find? fun d => decide (d.by' = b)

/-- A command waits for a demand of its own. -/
def State.demanding (s : State) (c : Cmd) : Bool := (s.demandOf (slotKey c.seqk) (.cmd c.uid)).isSome

/-- A demand is over. -/
def State.endDemand (s : State) (sk : Nat) (b : Demander) : State := s.modDemands sk (·.filter fun d => decide (d.by' ≠ b))

/-- Another demand of the core goes first at a block boundary (R21, R260): by its slot's rank, then the older. A slot that
stops makes none, and in a replay the recorded sub-commands meet them (R341). -/
def State.demandAhead (s : State) (sk : Nat) (d : Demand) : Bool :=
  (List.range 6).any fun i =>
    let k := sk / 8 * 8 + i
    let c := s.slot k
    c.stopping.isNone && decide (c.mode ≠ 2) && c.demands.any fun x =>
      (decide (k ≠ sk) || decide (x.by' ≠ d.by')) &&
      (decide (s.rank k < s.rank sk) ||
        (decide (s.rank k = s.rank sk) &&
          (decide (x.since < d.since) || (decide (x.since = d.since) && decide (k < sk)))))

/-- The command that a sub-command of a demand is (R264). -/
def State.subCommand (s : State) (f : ForceCtx) (c : SubCmd) (x : Sub) : Cmd :=
  { uid := s.nextUid, seqk := f.sk * 4 + 3, num := f.seq, ins := c.ins, ext := subExtOf c.ins, pc := 0, vd := 0
    v1 := BitVec.ofNat 64 c.v1, v2 := BitVec.ofNat 64 c.v2, v3 := BitVec.ofNat 64 c.v3, rd := 0, preds := [], entries := []
    seed := f.seed, lat := c.lat, sub := some x
    clean := match f.by' with
      | .cmd u => (s.cmds.find? fun y => y.uid == u).any (·.clean)
      | _ => !(s.slot f.sk).touched }

/-- The overlap checker's record of a sub-command that a store or an access forces; another's is its forcing command's
(R264, R292). -/
def State.ovSub (s : State) (sk uid : Nat) (b : Demander) (num : BitVec 16) : State :=
  match b with
  | .cmd _ => s
  | .store r => s.ovEnter uid (sk * 4 + r) num 7 [] [] true
  | .access r => s.ovEnter uid (sk * 4 + r) num 7 [] [] true

/-- The record that a command's footprint belongs to. -/
def Cmd.ovUid (c : Cmd) : Nat :=
  match c.sub with
  | some x =>
    match x.by' with
    | .cmd u => u
    | _ => c.uid
  | none => c.uid

/-- A copy queue of a core is full (R125). -/
def State.queueFull (s : State) (core : Nat) (i : Instr) (q : Nat) : Bool := isCopy i && decide (64 ≤ (s.copyQueue core q).length)

/-- A sub-command of a demand formed: it goes to its engine (R264). -/
def State.formSub (s : State) (f : ForceCtx) (d : Demand) (c : SubCmd) (x : Sub) : State :=
  let before := d.wrote.filter fun w => decide (x.ord ≤ w.1 + 16)
  let x := { x with by' := f.by', kind := f.kind, words := c.words, payload := c.payload, wait := waitMask x.ord c before }
  ({ s with cmds := s.cmds ++ [s.subCommand f c x], nextUid := s.nextUid + 1 }.modDemands f.sk fun l =>
    l.map fun (y : Demand) => if y.by' = f.by' then { y with wrote := before ++ c.wrote x.ord } else y).ovSub f.sk s.nextUid f.by' f.seq

/-- The shape record of a copy of the forcer is in the arena before it starts (R252, R340). -/
def State.putShape (s : State) (c : Cmd) : State :=
  match c.sub with
  | some x => if isCpy2 c.ins then s.arenaPut (slotKey c.seqk) 4224 ((x.payload.drop 24).take 32) else s
  | none => s

/-- FCUR shows a block (R271). -/
def State.showBlock (s : State) (b : FBlock) (on : Bool) : State :=
  s.modCore (b.sk / 8) fun c => { c with fcur := fcurWord b.entry b.bi b.bj b.ord (slotNum b.sk) on, block := if on then some b else none }

/-- The block in progress given up, if it is one of a maker's: it is computed again from its first sub-command (R270). -/
def State.dropBlock (s : State) (sk : Nat) (p : Demander → Bool) : State :=
  match (s.core (sk / 8)).block with
  | some b => if b.sk = sk ∧ p b.by' = true then s.showBlock b false else s
  | none => s

/-- A demand's sub-commands are taken back, and its block. -/
def State.dropSubs (s : State) (sk : Nat) (b : Demander) : State :=
  { s with cmds := s.cmds.filter fun (c : Cmd) => !(decide (slotKey c.seqk = sk) && c.sub.any fun (x : Sub) => decide (x.by' = b)) }.dropBlock sk
    fun y => decide (y = b)

/-- A fault of a demand (R267): recorded against the forcing command, against the store, imprecisely, or against the access
at a PC, precisely; `f` fills in the record. -/
def State.trapDemand (s : State) (sk : Nat) (b : Demander) (f : TrapRec → TrapRec) : State :=
  let s1 := s.dropSubs sk b
  match b with
  | .cmd u =>
    match s1.cmds.find? (fun c => c.uid == u) with
    | none => s1
    | some c =>
      { s1.takeTrap sk (f { s.trapBase c.seqk with pc := c.pc, seq := c.num, stream := roleOf c.seqk }) with
        cmds := s1.cmds.map fun (x : Cmd) => if x.uid = u then { x with failed := true } else x }
  | .store role =>
    let k := sk * 4 + role
    match (s1.seq k).stores with
    | [] => s1
    | e :: _ => ((s1.trapSeq k (f { s.trapBase k with pc := e.pc })).dropAfter k e true).endDemand sk b
  | .access role => s1.trapSeq (sk * 4 + role) { f { s.trapBase (sk * 4 + role) with pc := s.pc (sk * 4 + role) } with prec := true }

/-- The trap record of a fault that the forcer finds itself (R267, R347), with FCUR as its micro-state when it is the
forcer's own (R349). -/
def FFault.rec' (e : FFault) (fcur : Word) (base : TrapRec) : TrapRec :=
  { base with
    code := e.code, engine := e.engine, status := BitVec.ofNat 32 e.status
    mstate := BitVec.ofNat 113 (if e.engine = 6 then bits fcur 0 36 else 0), addr := BitVec.ofNat 56 e.addr
    ord := BitVec.ofNat 16 e.ord, thk := e.node.isSome, oseq := match e.node with | some n => n.seq | none => 0
    pc := match e.node with | some n => n.opc | none => base.pc }

/-- The fault of a sub-command as its engine records it, moved to its demand (R267): its ordinal and the thunk origin. -/
def Sub.rec' (x : Sub) (r base : TrapRec) : TrapRec :=
  { base with
    code := r.code, engine := r.engine, status := r.status, mstate := r.mstate, addr := r.addr, crcNew := r.crcNew
    crcOld := r.crcOld, otag := r.otag, ecc := r.ecc, chk := r.chk, line := r.line, ord := BitVec.ofNat 16 x.ord
    thk := x.node.isSome, oseq := (x.node.map (·.1)).getD 0, pc := (x.node.map (·.2)).getD base.pc }

/-- A fault that the forcer finds in a block: FCUR shows the block that it has taken up (R267, R271). -/
def State.trapBlock (s : State) (f : ForceCtx) (b : FBlock) (e : FFault) : Forced :=
  let t := s.showBlock b true
  .trapped (t.trapDemand f.sk f.by' (e.rec' (t.core (f.sk / 8)).fcur))

/-- The next sub-command of a block in progress is formed, once a copy's queue has room (R125). A tile's descriptor is compared
with its view when the MGO that uses it issues: the MGO fault, status 4, under that MGO's ordinal (R245, R263, R267). -/
def State.formNext (s : State) (f : ForceCtx) (d : Demand) (b : FBlock) : Forced :=
  match (s.slot f.sk).nodes.find? (fun n => n.entry == b.entry) with
  | none => .more (s.showBlock b false)
  | some n =>
    let subs := s.blockSubs f n b.bi b.bj
    match subs[b.next]? with
    | none => .more (s.showBlock b false)
    | some c =>
      if c.disagrees then s.trapBlock f b ⟨6, 3, 4 + 15 * 16, 0, b.ord, some n⟩
      else if s.queueFull (f.sk / 8) c.ins 3 then .waits
      else
        .more ((s.showBlock b true).formSub f d c
          { by' := f.by', kind := f.kind, ord := b.ord, node := some (n.seq, n.opc), handle := n.self, block := some (b.bi, b.bj)
            last := decide (b.next + 1 = subs.length) } |>.modCore (f.sk / 8) fun x =>
          { x with block := some { b with next := b.next + 1, ord := b.ord + 1 } })

/-- sub6 of a TOP; 0: no TOP (R44). -/
def topOp : Instr → Nat
  | .tbind _ _ _ _ _ => 1
  | .tmul _ _ _ _ => 2
  | .tmac _ _ _ _ => 3
  | .tadd _ _ _ _ => 4
  | .tsub _ _ _ _ => 5
  | .thad _ _ _ _ => 6
  | .tscl _ _ _ _ _ => 7
  | .ttrn _ _ _ _ => 8
  | .tcvt _ _ _ _ => 9
  | .tact _ _ _ _ _ => 10
  | _ => 0

/-- The command of a record (R338). -/
def recIns (r : List Byte) : Instr := decodeStream false (leAt r 4 4) (leAt r 8 4)

/-- The payload of a sub-command's record, without the filling of its last payload record. -/
def subPayload (i : Instr) (p : List Byte) : List Byte :=
  p.take (match i with
    | .cpy2 _ _ _ _ _ _ => 56
    | .mgo _ => 712
    | .afill _ _ _ _ _ => 32
    | _ => 72)

/-- The sub-command of a record (R338), for a demand of its slot: what the record and its payload hold, the words being
those that the forcer forms, or for a force run the first word of its node's TOP. -/
def State.subOf (s : State) (sk : Nat) (d : Demand) (r payload : List Byte) : Cmd :=
  let i : Instr := if topOp (recIns r) ≠ 0 then .vrun 0 0 0 (subExt 0 0) else recIns r
  let p := subPayload i payload
  let f (n : Nat) : Word := BitVec.ofNat 64 (leAt p (8 * n) 8)
  let regs (n : Nat) : List (Nat × Word) := (List.range n).map fun m => (m, f (1 + m))
  let staged := decide ((f 1).toNat = thaBase (s.slot sk).tha + 8192)
  let own := isCpy2 i && !staged
  let h := leAt r 33 1
  let x : Sub :=
    { by' := d.by', kind := d.kind, ord := leAt r 14 2, handle := h, words := (leAt r 4 4, leAt r 8 4), payload := p, wait := leAt r 20 2
      node := if own then none else ((s.slot sk).nodes.find? fun n => n.self == h).map fun n => (n.seq, n.opc)
      block := if own then none else some (leAt r 34 1 % 8, leAt r 34 1 / 8 % 8), last := decide (leAt r 35 1 % 2 = 1) }
  let c : Cmd :=
    { uid := s.nextUid, seqk := sk * 4 + 3, num := BitVec.ofNat 16 (leAt r 12 2), ins := i, ext := subExtOf i, pc := 0, vd := 0
      v1 := 0, v2 := 0, v3 := 0, rd := 0, preds := [], entries := [], seed := f 0, sub := some x, inj := 2 }
  match i with
  | .cpy2 _ _ _ _ _ _ => { c with v1 := f 1, v2 := f 2, v3 := BitVec.ofNat 64 (copyRecAt (s.slot sk).tha) }
  | .afill _ _ _ _ _ => { c with v1 := f 1, v2 := f 2, v3 := f 3 }
  | .mgo _ =>
    { c with lat := { mcfg := regs 80, desc := (List.range 8).map fun t => (t, f (81 + t)) } }
  | _ => c

/-- A recorded sub-command that a handover has kept for a demand goes to its engine, in the order of the ordinals (R343). -/
def State.keptSub (s : State) (sk : Nat) (d : Demand) : Option State :=
  let mine := (s.slot sk).kept.filter fun r => decide (leAt r.1 12 2 = d.seq.toNat) && !d.done.contains (leAt r.1 14 2)
  ((mine.find? fun r => mine.all fun x => decide (leAt r.1 14 2 ≤ leAt x.1 14 2)).filter fun r => !s.queueFull (sk / 8) (recIns r.1) 3).map
    fun r => ({ s with cmds := s.cmds ++ [s.subOf sk d r.1 r.2], nextUid := s.nextUid + 1 }.modSlot sk fun c =>
      { c with kept := c.kept.erase r }).ovSub sk s.nextUid d.by' d.seq

/-- A demand goes on (R262, R264): its blocks `bs` in order, one sub-command after another, and then a TSTORE's copy. The
forcer takes it up, waits for its turn at a block boundary, and forms the next sub-command when the one before has
retired. -/
def State.forceNext (s : State) (f : ForceCtx) (bs : List (Nat × Nat × Nat)) (copy : Option SubCmd := none) : Forced :=
  let idle := bs.isEmpty && copy.isNone
  match s.demandOf f.sk f.by' with
  | none =>
    if idle then .met s
    else .more (s.modDemands f.sk (· ++ [{ by' := f.by', kind := f.kind, seq := f.seq, since := s.nextUid }]))
  | some d =>
    if s.cmds.any fun c => decide (slotKey c.seqk = f.sk) && c.sub.any fun (x : Sub) => decide (x.by' = f.by') then .waits
    else
      match (s.core (f.sk / 8)).block with
      | some b => if b.sk = f.sk ∧ b.by' = f.by' then s.formNext f d b else if idle then .met (s.endDemand f.sk f.by') else .waits
      | none =>
        if idle then .met (s.endDemand f.sk f.by')
        else if (s.slot f.sk).mode = 2 then .waits
        else
          match s.keptSub f.sk d with
          | some t => .more t
          | none =>
            if s.demandAhead f.sk d then .waits
            else
              match bs, copy with
              | (e, bi, bj) :: _, _ =>
                match (s.slot f.sk).nodes.find? fun n => n.entry == e with
                | none => .waits
                | some n =>
                  let b : FBlock := { sk := f.sk, by' := f.by', entry := e, bi := bi, bj := bj, ord := d.ord }
                  match s.blockFault f.sk n d.ord with
                  | some x => s.trapBlock f b x
                  | none => s.formNext f d b
              | [], some c => if s.queueFull (f.sk / 8) c.ins 3 then .waits else .more (s.formSub f d c { by' := f.by', kind := f.kind, ord := d.ord })
              | [], none => .waits

/-- A sub-command has retired (R262, R340): with the last of its block the block's mask bit is set; a TSTORE's copy is the
end of its command. -/
def State.subRetired (s : State) (sk : Nat) (x : Sub) : State :=
  let s1 := s.modDemands sk fun l => l.map fun d =>
    if d.by' = x.by' then { d with done := x.ord :: d.done, ord := if x.last then x.ord + 1 else d.ord } else d
  match x.block, x.by' with
  | none, .cmd u =>
    { s1.endDemand sk x.by' with cmds := s1.cmds.map fun (c : Cmd) => if c.uid = u then { c with phase := .done } else c }
  | none, _ => s1
  | some b, _ =>
    if !x.last then s1
    else
      (s1.modSlot sk fun c => { c with nodes := c.nodes.map fun n =>
        if n.self = x.handle then { n with mask := n.mask ||| (1 : BitVec 64) <<< (8 * b.1 + b.2) } else n }).dropBlock sk fun y => decide (y = x.by')

/-- The blocks that forcing nodes whole computes, in order (R265, R266). -/
def State.forceList (s : State) (sk : Nat) (ns : List Node) : List (Nat × Nat × Nat) :=
  ns.foldl (fun acc n => s.demand sk 257 n.self n.all acc) []

/-! ### Writes that force (R266) -/

/-- Two footprints share a byte. -/
def Foot.meets (a b : Foot) : Bool := decide (a.sp = b.sp) && overlap a.a a.n b.a b.n

/-- A region that a command issued later than the writing one has bound: only predecessor deltas and events order that write
with a force, so it forces nothing for the region's sake (R266, its last paragraph; DEDUCED, log 126). -/
def State.boundAfter (s : State) (sk : Nat) (by' : Demander) (h : Nat) : Bool :=
  match by' with
  | .cmd u => decide (u < Kv.get 0 (s.slot sk).binds h)
  | _ => false

/-- The live nodes, in append order, that a slot's writes to these bytes force first (R266). -/
def State.touched (s : State) (sk : Nat) (by' : Demander) (feet : List Foot) : List Node :=
  (s.slot sk).nodes.filter fun n =>
    decide (n.mask ≠ BitVec.allOnes 64) &&
      (feet.filter (·.write)).any fun w =>
        w.meets (s.viewFoot sk n.view false) ||
          n.ins.any fun h => !s.boundAfter sk by' h && w.meets (s.viewFoot sk (s.dir sk h).view false)

/-- An input of a live node, still to be materialised, whose directory entry holds a reserved value: a write that is compared with
its extent uses it (R252, R266). -/
def State.touchedBad (s : State) (sk : Nat) (feet : List Foot) : Option Nat :=
  if !feet.any (·.write) then none
  else (s.slot sk).nodes.findSome? fun n => if n.mask = BitVec.allOnes 64 then none else n.ins.find? (s.dirBad sk)

/-- The forces a write triggers (R266). A slot without live nodes has none. -/
def State.forceWrites (s : State) (f : ForceCtx) (feet : List Foot) : Forced :=
  if (s.slot f.sk).nodes.isEmpty && (s.slot f.sk).demands.isEmpty then .met s
  else
    match s.touchedBad f.sk feet with
    | some h =>
      .trapped (s.trapDemand f.sk f.by' (FFault.rec' ⟨6, 6, 1 + h * 256, 0, ((s.demandOf f.sk f.by').map (·.ord)).getD 0, none⟩
        (s.core (f.sk / 8)).fcur))
    | none => s.forceNext f (s.forceList f.sk (s.touched f.sk f.by' feet))

/-- The forces before the head of a store queue performs (R264, R266). In a slot that stops they go on, so that its queue drains
(R158, R352), though R270 has the forcer issue nothing more there (DESIGN CHOICE, log 127). -/
def State.forceEntry (s : State) (k : Nat) (e : QEntry) : Forced :=
  if e.range.2 = 0 then .met s
  else s.forceWrites ⟨slotKey k, e.seed, 4, e.num, .store (roleOf k)⟩ [⟨.scratch, e.range.1, e.range.2, true⟩]

/-- The forces before a strong access of the instruction at the PC performs. -/
def State.forceHere (s : State) (k a n : Nat) : Forced :=
  s.forceWrites ⟨slotKey k, (s.slot (slotKey k)).seed, 4, if (s.seq k).any then (s.seq k).last else 0, .access (roleOf k)⟩
    [⟨.scratch, a, n, true⟩]

/-- The forces before an atomic access of `n` bytes at a home performs. -/
def State.forceCell (s : State) (k : Nat) (h : Home) (n : Nat) : Forced :=
  match h with
  | .slice a => s.forceHere k a n
  | .main _ => .met s

/-- An instruction goes on once what its access forces has been forced. -/
def Forced.then' (x : Forced) (s : State) (f : State → Res) : Res :=
  match x with
  | .met t => f t
  | .more t => .hold t
  | .waits => .hold s
  | .trapped t => .trap t

/-- A strong access of the current sequencer at a home (R280, R284, R291): what it forces first, the access itself, which
answers a value or a trap, and, once it has performed there, what the instruction does with the value. -/
def State.atHome (s : State) (h : Home) (n : Nat) (access : State → Except State (State × Nat)) (finish : State → Nat → State) : Res :=
  match s.remote s.cur with
  | .waits => .hold s
  | .done s v => .go (finish s v)
  | .idle =>
    (s.forceCell s.cur h n).then' s fun s =>
      match access s with
      | .error t => .trap t
      | .ok (t, v) =>
        match t.sendRemote s.cur h v with
        | (t, true) => .hold t
        | (t, false) => .go (finish t v)

end Sys2Proof.Machine
end

