-- ==== Sys2Proof/Machine/Scalar.lean ====
section
/-! DEFINITION. The integer instructions, immediates, branches, jumps and events (R173 to R185), one meaning per
instruction. -/

namespace Sys2Proof.Machine

/-- What a meaning answers. -/
abbrev Out := Host.Outcome State Fault Refusal

/-- The form of an instruction that every role admits and whose fields are all in use. -/
def formAll (t : BitVec 4) (uses : List (BitVec 5)) : Form := ⟨rolesAll, true, t, uses, false, none⟩

/-- The form of one that takes more than a cycle to write `d` (R171, R172). -/
def formSlow (t : BitVec 4) (d : BitVec 5) (uses : List (BitVec 5)) : Form := ⟨rolesAll, true, t, d :: uses, false, some d⟩

/-- OPA with two sources: s[rd] := f (s[rs1], s[rs2]) (R173). -/
def alu3 (f : Word → Word → Word) (d a b : BitVec 5) (t : BitVec 4) (s : State) : Out :=
  .next (issueShort (formAll t [d, a, b]) preGo (writeReg d fun s => f (s.reg s.cur a) (s.reg s.cur b)) s)

/-- A multiplication or a division (R172, R173). -/
def mulDiv (f : Word → Word → Word) (d a b : BitVec 5) (t : BitVec 4) (s : State) : Out :=
  .next (issueShort (formSlow t d [a, b]) preGo (writeReg d fun s => f (s.reg s.cur a) (s.reg s.cur b)) s)

/-- A single-source operation: s[rd] := f (s[rs1]) (R173, R175). -/
def alu2 (f : Word → Word) (d a : BitVec 5) (t : BitVec 4) (s : State) : Out :=
  .next (issueShort (formAll t [d, a]) preGo (writeReg d fun s => f (s.reg s.cur a)) s)

/-- Signed division, truncated toward zero, with the limits of R174. -/
def divS (x y : Word) : Word := if y = 0 then -1 else BitVec.ofInt 64 (x.toInt.tdiv y.toInt)
/-- Unsigned division (R174). -/
def divU (x y : Word) : Word := if y = 0 then -1 else BitVec.ofNat 64 (x.toNat / y.toNat)
/-- Signed remainder with the dividend's sign (R174). -/
def remS (x y : Word) : Word := if y = 0 then x else BitVec.ofInt 64 (x.toInt.tmod y.toInt)
/-- Unsigned remainder (R174). -/
def remU (x y : Word) : Word := if y = 0 then x else BitVec.ofNat 64 (x.toNat % y.toNat)

/-- Bits [127:64] of an exact product (R173). -/
def high64 (p : Int) : Word := BitVec.ofInt 64 (p / 2 ^ 64)

/-- Leading zeros of the low `n` bits of a number, from bit n - 1 down (R173). -/
def clzNat (x : Nat) : Nat → Nat
  | 0 => 0
  | n + 1 => if x / 2 ^ n % 2 = 1 then 0 else 1 + clzNat x n
/-- Trailing zeros among `n` bits (R173). -/
def ctzNat (x : Nat) : Nat → Nat
  | 0 => 0
  | n + 1 => if x % 2 = 1 then 0 else 1 + ctzNat (x / 2) n
/-- Set bits among `n` bits (R173). -/
def popNat (x : Nat) : Nat → Nat
  | 0 => 0
  | n + 1 => x % 2 + popNat (x / 2) n

def execAdd (d a b : BitVec 5) (t : BitVec 4) (s : State) : Out := alu3 (· + ·) d a b t s
def execSub (d a b : BitVec 5) (t : BitVec 4) (s : State) : Out := alu3 (· - ·) d a b t s
def execAnd (d a b : BitVec 5) (t : BitVec 4) (s : State) : Out := alu3 (· &&& ·) d a b t s
def execOr (d a b : BitVec 5) (t : BitVec 4) (s : State) : Out := alu3 (· ||| ·) d a b t s
def execXor (d a b : BitVec 5) (t : BitVec 4) (s : State) : Out := alu3 (· ^^^ ·) d a b t s
def execAndn (d a b : BitVec 5) (t : BitVec 4) (s : State) : Out := alu3 (fun x y => x &&& ~~~y) d a b t s
def execOrn (d a b : BitVec 5) (t : BitVec 4) (s : State) : Out := alu3 (fun x y => x ||| ~~~y) d a b t s
def execSll (d a b : BitVec 5) (t : BitVec 4) (s : State) : Out := alu3 (fun x y => x <<< bits y 0 6) d a b t s
def execSrl (d a b : BitVec 5) (t : BitVec 4) (s : State) : Out := alu3 (fun x y => x >>> bits y 0 6) d a b t s
def execSra (d a b : BitVec 5) (t : BitVec 4) (s : State) : Out := alu3 (fun x y => x.sshiftRight (bits y 0 6)) d a b t s
def execRor (d a b : BitVec 5) (t : BitVec 4) (s : State) : Out := alu3 (fun x y => x.rotateRight (bits y 0 6)) d a b t s
def execSlt (d a b : BitVec 5) (t : BitVec 4) (s : State) : Out := alu3 (fun x y => flag (x.slt y)) d a b t s
def execSltu (d a b : BitVec 5) (t : BitVec 4) (s : State) : Out := alu3 (fun x y => flag (x.ult y)) d a b t s
def execMin (d a b : BitVec 5) (t : BitVec 4) (s : State) : Out := alu3 (fun x y => if x.slt y then x else y) d a b t s
def execMax (d a b : BitVec 5) (t : BitVec 4) (s : State) : Out := alu3 (fun x y => if x.slt y then y else x) d a b t s
def execMinu (d a b : BitVec 5) (t : BitVec 4) (s : State) : Out := alu3 (fun x y => if x.ult y then x else y) d a b t s
def execMaxu (d a b : BitVec 5) (t : BitVec 4) (s : State) : Out := alu3 (fun x y => if x.ult y then y else x) d a b t s
def execMul (d a b : BitVec 5) (t : BitVec 4) (s : State) : Out := mulDiv (· * ·) d a b t s
def execMulh (d a b : BitVec 5) (t : BitVec 4) (s : State) : Out :=
  mulDiv (fun x y => high64 (x.toInt * y.toInt)) d a b t s
def execMulhu (d a b : BitVec 5) (t : BitVec 4) (s : State) : Out :=
  mulDiv (fun x y => high64 ((x.toNat : Int) * y.toNat)) d a b t s
def execDiv (d a b : BitVec 5) (t : BitVec 4) (s : State) : Out := mulDiv divS d a b t s
def execDivu (d a b : BitVec 5) (t : BitVec 4) (s : State) : Out := mulDiv divU d a b t s
def execRem (d a b : BitVec 5) (t : BitVec 4) (s : State) : Out := mulDiv remS d a b t s
def execRemu (d a b : BitVec 5) (t : BitVec 4) (s : State) : Out := mulDiv remU d a b t s
def execAddw (d a b : BitVec 5) (t : BitVec 4) (s : State) : Out :=
  alu3 (fun x y => sx ((x + y).setWidth 32)) d a b t s
def execSubw (d a b : BitVec 5) (t : BitVec 4) (s : State) : Out :=
  alu3 (fun x y => sx ((x - y).setWidth 32)) d a b t s
def execClz (d a : BitVec 5) (t : BitVec 4) (s : State) : Out := alu2 (fun x => BitVec.ofNat 64 (clzNat x.toNat 64)) d a t s
def execCtz (d a : BitVec 5) (t : BitVec 4) (s : State) : Out := alu2 (fun x => BitVec.ofNat 64 (ctzNat x.toNat 64)) d a t s
def execPopc (d a : BitVec 5) (t : BitVec 4) (s : State) : Out := alu2 (fun x => BitVec.ofNat 64 (popNat x.toNat 64)) d a t s
def execSextw (d a : BitVec 5) (t : BitVec 4) (s : State) : Out := alu2 (fun x => sx (x.setWidth 32)) d a t s
def execZextw (d a : BitVec 5) (t : BitVec 4) (s : State) : Out := alu2 (fun x => zx (x.setWidth 32)) d a t s
def execPack (d a b : BitVec 5) (t : BitVec 4) (s : State) : Out :=
  alu3 (fun x y => zx (x.setWidth 32) <<< 32 ||| zx (y.setWidth 32)) d a b t s
def execSh1add (d a b : BitVec 5) (t : BitVec 4) (s : State) : Out := alu3 (fun x y => x <<< 1 + y) d a b t s
def execSh2add (d a b : BitVec 5) (t : BitVec 4) (s : State) : Out := alu3 (fun x y => x <<< 2 + y) d a b t s
def execSh3add (d a b : BitVec 5) (t : BitVec 4) (s : State) : Out := alu3 (fun x y => x <<< 3 + y) d a b t s

def execAddi (d a : BitVec 5) (i : BitVec 12) (t : BitVec 4) (s : State) : Out := alu2 (· + imm12 i) d a t s
def execAndi (d a : BitVec 5) (i : BitVec 12) (t : BitVec 4) (s : State) : Out := alu2 (· &&& imm12 i) d a t s
def execOri (d a : BitVec 5) (i : BitVec 12) (t : BitVec 4) (s : State) : Out := alu2 (· ||| imm12 i) d a t s
def execXori (d a : BitVec 5) (i : BitVec 12) (t : BitVec 4) (s : State) : Out := alu2 (· ^^^ imm12 i) d a t s
def execSlli (d a : BitVec 5) (n : BitVec 6) (t : BitVec 4) (s : State) : Out := alu2 (· <<< n.toNat) d a t s
def execSrli (d a : BitVec 5) (n : BitVec 6) (t : BitVec 4) (s : State) : Out := alu2 (· >>> n.toNat) d a t s
def execSrai (d a : BitVec 5) (n : BitVec 6) (t : BitVec 4) (s : State) : Out := alu2 (·.sshiftRight n.toNat) d a t s
def execRori (d a : BitVec 5) (n : BitVec 6) (t : BitVec 4) (s : State) : Out := alu2 (·.rotateRight n.toNat) d a t s
def execSlti (d a : BitVec 5) (i : BitVec 12) (t : BitVec 4) (s : State) : Out := alu2 (fun x => flag (x.slt (imm12 i))) d a t s
def execSltiu (d a : BitVec 5) (i : BitVec 12) (t : BitVec 4) (s : State) : Out := alu2 (fun x => flag (x.ult (imm12 i))) d a t s

/-- LUI (R176): no token bits. -/
def execLui (d : BitVec 5) (i : BitVec 21) (s : State) : Out :=
  .next (issueShort (formAll 0 [d]) preGo (writeReg d fun _ => luiImm i) s)
/-- ADPC (R176): PC is its own address. -/
def execAdpc (d : BitVec 5) (i : BitVec 21) (s : State) : Out :=
  .next (issueShort (formAll 0 [d]) preGo (writeReg d fun s => relTarget (s.pc s.cur) i) s)

/-- BR (R180): compared over all 64 bits. -/
def branch (c : Nat) (a b : BitVec 5) (o : BitVec 13) (s : State) : Out :=
  .next (issueShort (formAll 0 [a, b]) preGo (fun s =>
    .go (if brCond c (s.reg s.cur a) (s.reg s.cur b) then s.setPc s.cur (relTarget (s.pc s.cur) o)
         else s.adv s.cur 4)) s)

def execBeq (a b : BitVec 5) (o : BitVec 13) (s : State) : Out := branch 0 a b o s
def execBne (a b : BitVec 5) (o : BitVec 13) (s : State) : Out := branch 1 a b o s
def execBlt (a b : BitVec 5) (o : BitVec 13) (s : State) : Out := branch 2 a b o s
def execBge (a b : BitVec 5) (o : BitVec 13) (s : State) : Out := branch 3 a b o s
def execBltu (a b : BitVec 5) (o : BitVec 13) (s : State) : Out := branch 4 a b o s
def execBgeu (a b : BitVec 5) (o : BitVec 13) (s : State) : Out := branch 5 a b o s

/-- The stream's own control-queue copy and whether it receives one (R166). -/
def Slot.copyOf (c : Slot) (role : Nat) : List (BitVec 16) := if role = 0 then c.cqL else c.cqS
def Slot.receives (c : Slot) (role : Nat) : Bool := if role = 0 then c.rcvL else c.rcvS
def Slot.setCopy (c : Slot) (role : Nat) (l : List (BitVec 16)) : Slot :=
  if role = 0 then { c with cqL := l } else { c with cqS := l }

/-- BCQ (R181): a stream without a copy takes the token-misuse trap; an empty copy is waited on; `keep` is the .K
form. -/
def bcq (want keep : Bool) (n : BitVec 4) (o : BitVec 13) (s : State) : Out :=
  .next (issueShort ⟨rolesLS, true, 0, [], false, none⟩
    (fun s =>
      if !(s.slot (slotKey s.cur)).receives (roleOf s.cur) then .trap (s.trapAt s.cur 2 0 0)
      else if ((s.slot (slotKey s.cur)).copyOf (roleOf s.cur)).isEmpty then .hold s else .go s)
    (fun s =>
      match (s.slot (slotKey s.cur)).copyOf (roleOf s.cur) with
      | [] => .hold s
      | w :: rest =>
        let s' := if keep then s else s.modSlot (slotKey s.cur) (·.setCopy (roleOf s.cur) rest)
        .go (if bcqTaken w n want then s'.setPc s.cur (relTarget (s.pc s.cur) o) else s'.adv s.cur 4)) s)

def execBcqs (n : BitVec 4) (o : BitVec 13) (s : State) : Out := bcq true false n o s
def execBcqc (n : BitVec 4) (o : BitVec 13) (s : State) : Out := bcq false false n o s
def execBcqsK (n : BitVec 4) (o : BitVec 13) (s : State) : Out := bcq true true n o s
def execBcqcK (n : BitVec 4) (o : BitVec 13) (s : State) : Out := bcq false true n o s

/-- JAL (R182). -/
def execJal (d : BitVec 5) (o : BitVec 21) (s : State) : Out :=
  .next (issueShort (formAll 0 [d]) preGo (fun s =>
    .go ((s.setReg s.cur d (s.pc s.cur + 4)).setPc s.cur (relTarget (s.pc s.cur) o))) s)

/-- JALR (R182): a target with bits [63:55] set is a precise scratch bounds trap, and rd is not written. -/
def execJalr (d a : BitVec 5) (i : BitVec 12) (t : BitVec 4) (s : State) : Out :=
  .next (issueShort (formAll t [d, a])
    (fun s => if virtOk (jalrTarget (s.reg s.cur a) i) then .go s
              else .trap (s.trapAt s.cur 3 0 (jalrTarget (s.reg s.cur a) i).toNat))
    (fun s => .go ((s.setReg s.cur d (s.pc s.cur + 4)).setPc s.cur (jalrTarget (s.reg s.cur a) i))) s)

/-- EVPOST (R171, R183, R185): it retires, and posts, after every MARK before it has retired; what comes after it does not
wait for that. -/
def execEvpost (n : BitVec 6) (e : BitVec 4) (t : BitVec 4) (s : State) : Out :=
  .next (issueShort ⟨rolesAll, decide (n ≠ 0), t, [], true, none⟩ preGo
    (fun s =>
      let marks := ((s.seq s.cur).loads.filter fun x => decide (x.op = .mark)).map (·.id)
      .go (if marks.isEmpty then ((s.modSlot (slotKey s.cur) (·.post e.toNat n.toNat)).adv s.cur 4).pushOwe s.cur t
        else (s.modSeq s.cur fun q =>
          { q with fences := q.fences ++ [⟨q.nextEntry, 0, marks, [], t, some (e.toNat, n.toNat)⟩], nextEntry := q.nextEntry + 1 }).adv
            s.cur 4)) s)

/-- One of the first `n` sequencers of the slot, in the order L, X, S, waits in an EVWAIT of the counter that its count
would end (R184). -/
def State.evTaken (s : State) (k e n : Nat) : Bool :=
  (List.range n).any fun r =>
    let j := slotKey k * 4 + r
    s.canIssue j &&
      match (s.seq j).evwait with
      | some (e', n) => decide (e' = e) && decide (n ≤ Kv.get 0 (s.slot (slotKey k)).events e)
      | none => false

/-- A sequencer before this one takes the counter's count (R184). -/
def State.evBefore (s : State) (k e : Nat) : Bool := s.evTaken k e (roleOf k)

/-- EVWAIT (R183, R184): not issued until the counter reaches n, and no sequencer before it in the order of R184 takes
the count. -/
def execEvwait (n : BitVec 6) (e : BitVec 4) (t : BitVec 4) (s : State) : Out :=
  .next (issueShort ⟨rolesAll, decide (n ≠ 0), t, [], false, none⟩
    (fun s =>
      if Kv.get 0 (s.slot (slotKey s.cur)).events e.toNat < n.toNat || s.evBefore s.cur e.toNat then
        .hold (s.modSeq s.cur fun q => { q with evwait := some (e.toNat, n.toNat) })
      else .go (((s.modSeq s.cur fun q => { q with evwait := none }).modSlot (slotKey s.cur) fun c =>
        { c with events := Kv.put c.events e.toNat (Kv.get 0 c.events e.toNat - n.toNat) }).ovWait s.cur e.toNat n.toNat))
    (fun s => .go (s.adv s.cur 4)) s)

/-- EVCLR (R183): an EVWAIT of the slot that the counter ends takes its count first (R184). -/
def execEvclr (d : BitVec 5) (e : BitVec 4) (t : BitVec 4) (s : State) : Out :=
  .next (issueShort (formSlow t d []) (fun s => if s.evTaken s.cur e.toNat 4 then .hold s else .go s) (fun s =>
    .go (((s.setReg s.cur d (BitVec.ofNat 64 (Kv.get 0 (s.slot (slotKey s.cur)).events e.toNat))).modSlot
      (slotKey s.cur) fun c => { c with events := Kv.put c.events e.toNat 0 }).adv s.cur 4)) s)

/-- A WFE that reaches the head of issue notes the posts made so far, whatever its pops wait for (R183). -/
def State.noteWfe (s : State) (t : BitVec 4) : State :=
  if s.canIssue s.cur && !tokenMisuse (roleOf s.cur) t && (s.seq s.cur).wfe.isNone && !(s.seq s.cur).issued then
    s.modSeq s.cur fun q => { q with wfe := some (s.slot (slotKey s.cur)).posts }
  else s

/-- WFE (R183): waits for a post made after it reached the head of issue. -/
def execWfe (t : BitVec 4) (s : State) : Out :=
  .next (issueShort (formAll t [])
    (fun s =>
      match (s.seq s.cur).wfe with
      | none => .hold s
      | some n =>
        if (s.slot (slotKey s.cur)).posts ≤ n then .hold s
        else .go (s.modSeq s.cur fun q => { q with wfe := none }))
    (fun s => .go (s.adv s.cur 4)) (s.noteWfe t))

/-- CQP (R167): the outcome goes to every receiving copy at once, when each has room. -/
def execCqp (a : BitVec 5) (i : BitVec 12) (t : BitVec 4) (s : State) : Out :=
  .next (issueShort ⟨rolesX, true, t, [a], false, none⟩ preGo
    (fun s =>
      let c := s.slot (slotKey s.cur)
      let v : BitVec 16 := (s.reg s.cur a + imm12 i).setWidth 16
      if (c.rcvL && decide (16 ≤ c.cqL.length)) || (c.rcvS && decide (16 ≤ c.cqS.length)) then .hold s
      else .go ((s.modSlot (slotKey s.cur) fun c =>
        { c with cqL := if c.rcvL then c.cqL ++ [v] else c.cqL, cqS := if c.rcvS then c.cqS ++ [v] else c.cqS
                 sideEffect := true }).adv s.cur 4)) s)

end Sys2Proof.Machine
end

