-- ==== Sys2Proof/Machine/Memory.lean ====
section
/-! DEFINITION. Loads, stores, spill accesses, vector loads and stores, MARK, FENCE and AMO (R147 to R163, R284 to
R290), one meaning per instruction. -/

namespace Sys2Proof.Machine

/-- The FP32 sum of two patterns under RNE32 (R289). -/
def fadd32 (x y : Nat) : Nat := round32 .rne ((val32 x).add (val32 y))

/-- With prompt timing, what may perform in the sequencer's queues does; otherwise performing is a step of its own. -/
def State.prompt (s : State) (k : Nat) : State :=
  if s.eager then s.drain fadd32 State.forceEntry k 80 else s

/-- The slot's side effect and kill marks (R312, R358). -/
def State.mark' (s : State) (k : Nat) (nokill : Bool) : State :=
  s.modSlot (slotKey k) fun c => { c with sideEffect := true, nokill := c.nokill || nokill }

/-- An instruction of R358's list has issued and may wait: it is a side effect, and its task no longer killable, from then
on (R312, R358). `strong` says that it is an STS or a release AMO, which has an entry of the store queue (R155). -/
def Res.issuedMark (k : Nat) (strong : Bool) : Res → Res
  | .hold s => .hold ((s.mark' k true).modSeq k fun q => { q with strong := strong })
  | .go s => .go (if strong then s.modSeq k fun q => { q with strong := false, nextEntry := q.nextEntry + 1 } else s)
  | .trap s => .trap (if strong then s.modSeq k fun q => { q with strong := false } else s)
  | .stop s => .stop s

/-- A load or store of a slice address has issued (R339). -/
def State.touch (s : State) (k : Nat) : State := s.modSlot (slotKey k) fun c => { c with touched := true }

/-- A scratch bounds trap of a load or store at issue: precise, but the instruction counts as issued (R159), so that it
leaves the marks of one: `store` that of a side effect, `nokill` that of R358's list. -/
def State.trapIssued (s : State) (k a : Nat) (store nokill : Bool) : State :=
  ((if store then s.mark' k nokill else s).touch k).trapAt k 3 0 a

/-- LD and LDU (R159): checked at issue, entered in the load queue. -/
def loadInstr (signed : Bool) (d a : BitVec 5) (w : BitVec 2) (i : BitVec 10) (t : BitVec 4) (s : State) : Out :=
  .next (issueShort ⟨rolesLH, true, t, [d, a], true, none⟩
    (fun s =>
      let x := memAddr (s.reg s.cur a) w i
      if s.heldBack s.cur .load || decide (16 ≤ (s.seq s.cur).loads.length) then .hold s
      else if !scalarOk x w || !s.window (slotKey s.cur) x.toNat (width2 w) then
        .trap (s.trapIssued s.cur x.toNat false false)
      else .go s)
    (fun s =>
      .go ((((s.enterLoad s.cur (.load (width2 w) signed d) (memAddr (s.reg s.cur a) w i).toNat t).adv s.cur 4).touch
        s.cur).prompt s.cur)) s)

def execLd (d a : BitVec 5) (w : BitVec 2) (i : BitVec 10) (t : BitVec 4) (s : State) : Out :=
  loadInstr true d a w i t s
def execLdu (d a : BitVec 5) (w : BitVec 2) (i : BitVec 10) (t : BitVec 4) (s : State) : Out :=
  loadInstr false d a w i t s

/-- ST (R159): address and alignment at issue, the window at the queue head. -/
def execSt (b a : BitVec 5) (w : BitVec 2) (i : BitVec 10) (t : BitVec 4) (s : State) : Out :=
  .next (issueShort ⟨rolesSH, true, t, [b, a], true, none⟩
    (fun s =>
      let x := memAddr (s.reg s.cur a) w i
      if s.heldBack s.cur .store || decide (16 ≤ (s.seq s.cur).stores.length) then .hold s
      else if !scalarOk x w then .trap (s.trapIssued s.cur x.toNat true false)
      else .go s)
    (fun s =>
      .go (((((s.enterStore s.cur (.store (leBytes (width2 w) (s.reg s.cur b).toNat))
        (memAddr (s.reg s.cur a) w i).toNat 0).adv s.cur 4).mark' s.cur false).touch s.cur).retireStore s.cur t |>.prompt
          s.cur)) s)

/-- STS (R156, R159): performs at its place in both orders before anything later issues; every fault is precise. -/
def execSts (b a : BitVec 5) (w : BitVec 2) (i : BitVec 10) (t : BitVec 4) (s : State) : Out :=
  .next (issueShort ⟨rolesSH, true, t, [b, a], false, none⟩
    (fun s =>
      let x := memAddr (s.reg s.cur a) w i
      if s.heldBack s.cur .store || decide (16 ≤ (s.seq s.cur).stores.length) then .hold s
      else if !scalarOk x w || !s.window (slotKey s.cur) x.toNat (width2 w) then
        .trap (s.trapIssued s.cur x.toNat true true)
      else .go s)
    (fun s =>
      let x := (memAddr (s.reg s.cur a) w i).toNat
      Res.issuedMark s.cur true
        (if !(s.seq s.cur).stores.isEmpty ||
            (s.seq s.cur).loads.any (fun e => overlap x (width2 w) e.range.1 e.range.2) then .hold (s.touch s.cur)
        else
          (s.forceHere s.cur x (width2 w)).then' s fun s =>
            match s.storeSlice x (leBytes (width2 w) (s.reg s.cur b).toNat) (coreOf s.cur) with
            | .error bad => .trap (s.trapBad s.cur 0 bad)
            | .ok s' => .go (((s'.adv s.cur 4).mark' s.cur true).touch s.cur))) s)

/-- The spill words a slot may use (R160). -/
def Slot.spillLimit (c : Slot) : Nat := min c.splim 1024

/-- What an LDSP or STSP of the current sequencer waits for, and its bounds (R161, R286). -/
def State.spillCheck (s : State) (o : BitVec 10) : Res :=
  if s.heldBack s.cur .spill then .hold s
  else if (s.slot (slotKey s.cur)).spillLimit ≤ o.toNat then .trap (s.trapAt s.cur 4 0 (o.toNat * 8))
  else .go s

/-- LDSP (R161). -/
def execLdsp (d : BitVec 5) (o : BitVec 10) (t : BitVec 4) (s : State) : Out :=
  .next (issueShort (formSlow t d [])
    (fun s => s.spillCheck o)
    (writeReg d fun s => Kv.get 0 s.spill (slotKey s.cur * 1024 + o.toNat)) s)

/-- STSP (R161): the source stands in the rd field. -/
def execStsp (b : BitVec 5) (o : BitVec 10) (t : BitVec 4) (s : State) : Out :=
  .next (issueShort (formAll t [b])
    (fun s => s.spillCheck o)
    (fun s =>
      .go ({ s with spill := Kv.put s.spill (slotKey s.cur * 1024 + o.toNat) (s.reg s.cur b) }.adv s.cur 4)) s)

/-- A CPQ that names the data queue is in the slot's copy engine (R136). -/
def State.cpqBusy (s : State) (sk dq : Nat) : Bool :=
  s.cmds.any fun c =>
    decide (slotKey c.seqk = sk) &&
      match c.ins with
      | .cpq _ q _ _ _ => decide (q.toNat = dq)
      | _ => false

/-- VLD (R162): reserves an entry of its data queue at issue. -/
def execVld (q : BitVec 2) (a : BitVec 5) (i : BitVec 10) (t : BitVec 4) (s : State) : Out :=
  .next (issueShort ⟨rolesL, true, t, [a], true, none⟩
    (fun s =>
      let x := vecAddr (s.reg s.cur a) i
      if s.heldBack s.cur .load || decide (16 ≤ (s.seq s.cur).loads.length) then .hold s
      else if !vectorOk x || !s.window (slotKey s.cur) x.toNat 512 then
        .trap (s.trapIssued s.cur x.toNat false false)
      else if 8 ≤ (Kv.get [] (s.slot (slotKey s.cur)).queues q.toNat).length || s.cpqBusy (slotKey s.cur) q.toNat then
        .hold s
      else .go s)
    (fun s =>
      let n := s.fresh
      let s1 := ({ s with fresh := s.fresh + 1 }.modSlot (slotKey s.cur) fun c =>
        { c with queues := Kv.put c.queues q.toNat (Kv.get [] c.queues q.toNat ++ [DqEntry.mk n none]), sideEffect := true
                 touched := true })
      .go (((s1.enterLoad s.cur (.vload q.toNat n) (vecAddr (s.reg s.cur a) i).toNat t).adv s.cur 4).prompt s.cur)) s)

/-- VST (R162): pops the head vector of its queue at issue. -/
def execVst (q : BitVec 1) (a : BitVec 5) (i : BitVec 10) (t : BitVec 4) (s : State) : Out :=
  .next (issueShort ⟨rolesS, true, t, [a], true, none⟩
    (fun s =>
      let x := vecAddr (s.reg s.cur a) i
      if s.heldBack s.cur .store || decide (16 ≤ (s.seq s.cur).stores.length) then .hold s
      else if !vectorOk x then .trap (s.trapIssued s.cur x.toNat true false)
      else if (Kv.get [] (s.slot (slotKey s.cur)).queues (4 + q.toNat)).isEmpty then .hold s
      else .go s)
    (fun s =>
      match Kv.get [] (s.slot (slotKey s.cur)).queues (4 + q.toNat) with
      | [] => .hold s
      | e :: rest =>
        let s1 := s.modSlot (slotKey s.cur) fun c => { c with queues := Kv.put c.queues (4 + q.toNat) rest }
        .go (((((s1.enterStore s.cur (.vstore (e.data.getD (zeros 512))) (vecAddr (s.reg s.cur a) i).toNat 0).adv
          s.cur 4).mark' s.cur false).touch s.cur).retireStore s.cur t |>.prompt s.cur)) s)

/-- MARK (R163). -/
def execMark (t : BitVec 4) (s : State) : Out :=
  .next (issueShort ⟨rolesAll, true, t, [], true, none⟩
    (fun s =>
      if 16 ≤ (s.seq s.cur).loads.length ∨ 16 ≤ (s.seq s.cur).stores.length then .hold s else .go s)
    (fun s => .go ((((s.enterMark s.cur t).adv s.cur 4).settle s.cur 40).prompt s.cur)) s)

/-- Whether a home lies in a scope of the issuing sequencer (R284): 0 slot, 1 core, 2 cluster, 3 group, 4 octant,
5 module, 6 gang. -/
def State.inScope (s : State) (k scope : Nat) (h : Home) : Bool :=
  let me := coreOf k
  let c := s.slot (slotKey k)
  let scope := if scope = 3 ∧ (c.group = 0 ∨ 4 ≤ slotNum (slotKey k)) then 5 else scope
  match h with
  | .slice a =>
    let o := a / 2 ^ 23
    match scope with
    | 0 => decide (o = me)
    | 1 => decide (o = me)
    | 2 => decide (octantOf o = octantOf me) && decide (clusterOf o = clusterOf me)
    | 3 => decide (o = me) || c.group.getLsbD (6 * octantOf o + clusterOf o)
    | 4 => decide (octantOf o = octantOf me)
    | _ => true
  | .main pa =>
    match scope with
    | 4 => decide (pa / 2 ^ 50 < 2) && decide (pa % 2 ^ 40 / Config.octantBytes = octantOf me)
    | 5 => decide (pa / 2 ^ 50 < 2)
    | 6 => true
    | _ => false

/-- An entry's access has a home in a scope (R284). A SHAPEW writes the TCBs of its task's successors, wherever they are
homed; one whose translation is not there yet counts as in scope where any page of main memory may be (DESIGN CHOICE, log
90). MARK accesses nothing. -/
def State.entryInScope (s : State) (k scope : Nat) (e : QEntry) : Bool :=
  match e.op with
  | .amo h _ _ _ _ _ _ => s.inScope k scope h
  | .mark => false
  | .shape _ _ =>
    let wide := s.inScope k scope (.main (octantOf (coreOf k) * Config.octantBytes))
    match s.successors k with
    | .ok t l => l.any fun a =>
        match (t.xlatePlain (taskSource k) (t.slot (slotKey k)).xroot (a + 128) { kind := 1 }).2 with
        | .ok pa _ => s.inScope k scope (.main pa)
        | _ => wide
    | _ => wide
  | _ => s.inScope k scope (.slice e.addr)

/-- An entry is on the earlier side of a FENCE's kinds (R285). -/
def earlierSide (kinds : BitVec 5) (e : QEntry) : Bool :=
  match e.op with
  | .load _ _ _ => kinds.getLsbD 4 || kinds.getLsbD 3
  | .vload _ _ => kinds.getLsbD 4 || kinds.getLsbD 3
  | .amo _ _ _ _ _ _ _ => kinds.getLsbD 4 || kinds.getLsbD 3 || kinds.getLsbD 2 || kinds.getLsbD 1
  | .mark => false
  | _ => kinds.getLsbD 2 || kinds.getLsbD 1

/-- FENCE (R285, R286): waits for what its kinds and scope select, with ENG for the commands that its sequencer has issued,
not for those that a replay has injected ahead of it; what is on no later side issues past it. -/
def execFence (sc : BitVec 3) (kd : BitVec 5) (t : BitVec 4) (s : State) : Out :=
  .next (issueShort ⟨rolesAll, decide (sc ≠ 7) && decide (kd ≠ 0), t, [], true, none⟩ preGo
    (fun s =>
      let q := s.seq s.cur
      let es := (q.loads ++ q.stores).filter fun e =>
        earlierSide kd e && s.entryInScope s.cur sc.toNat e
      let cs := if kd.getLsbD 0 then (s.cmds.filter fun c => decide (c.seqk = s.cur) && decide (c.inj ≠ 3)).map (·.uid) else []
      .go ((((s.modSeq s.cur fun q =>
        { q with fences := q.fences ++ [⟨q.nextEntry, kd, es.map (·.id), cs, t, none⟩], nextEntry := q.nextEntry + 1 }).adv s.cur 4).settle
        s.cur 40).prompt s.cur)) s)

/-- AMO (R288 to R290): `op` is the operation code of R39. Relaxed and acquire forms enter the store queue; release
forms wait until both queues are empty and perform at once, so that every fault of theirs is precise. -/
def amo (op : Nat) (w32 : Bool) (d a b : BitVec 5) (o : BitVec 2) (t : BitVec 4) (s : State) : Out :=
  let n := if w32 then 4 else 8
  .next (issueShort ⟨rolesSH, true, t, [d, a, b], decide (o.toNat < 2), none⟩
    (fun s =>
      if s.heldBack s.cur .amo || decide (16 ≤ (s.seq s.cur).stores.length) then .hold s
      else
        match s.findHome s.cur (s.reg s.cur a) n 0 0 true with
        | .hold s => .hold s
        | .trap s => .trap s
        | .home s _ =>
          if op = 11 ∧ (s.slot (slotKey s.cur)).det = true then .trap (s.trapAt s.cur 1 0 0) else .go s)
    (fun s =>
      Res.issuedMark s.cur (decide (2 ≤ o.toNat)) <| match s.findHome s.cur (s.reg s.cur a) n 0 0 true with
      | .hold s => .hold s
      | .trap s => .trap s
      | .home s h =>
        if o.toNat < 2 then
          .go ((((s.enterStore s.cur (.amo h op w32 o.toNat (s.reg s.cur b) (s.reg s.cur d) d) 0 t).adv s.cur 4).mark'
            s.cur true).prompt s.cur)
        else if !s.queuesEmpty s.cur then .hold s
        else
          s.atHome h n (fun s =>
            match s.amoAt h op w32 fadd32 (s.reg s.cur b) (s.reg s.cur d) (coreOf s.cur) with
            | .error bad => .error (s.trapBad s.cur 0 bad)
            | .ok x => .ok x) fun s old => ((s.setReg s.cur d (amoOld op w32 old)).adv s.cur 4).mark' s.cur true) s)

/-- The width bit of an AMO (R39): 1 is 32-bit. -/
def w32 (w : BitVec 1) : Bool := decide (w = 1)

def execAmoadd (d a b : BitVec 5) (o : BitVec 2) (w : BitVec 1) (t : BitVec 4) (s : State) : Out := amo 1 (w32 w) d a b o t s
def execAmoand (d a b : BitVec 5) (o : BitVec 2) (w : BitVec 1) (t : BitVec 4) (s : State) : Out := amo 2 (w32 w) d a b o t s
def execAmoor (d a b : BitVec 5) (o : BitVec 2) (w : BitVec 1) (t : BitVec 4) (s : State) : Out := amo 3 (w32 w) d a b o t s
def execAmoxor (d a b : BitVec 5) (o : BitVec 2) (w : BitVec 1) (t : BitVec 4) (s : State) : Out := amo 4 (w32 w) d a b o t s
def execAmomin (d a b : BitVec 5) (o : BitVec 2) (w : BitVec 1) (t : BitVec 4) (s : State) : Out := amo 5 (w32 w) d a b o t s
def execAmomax (d a b : BitVec 5) (o : BitVec 2) (w : BitVec 1) (t : BitVec 4) (s : State) : Out := amo 6 (w32 w) d a b o t s
def execAmominu (d a b : BitVec 5) (o : BitVec 2) (w : BitVec 1) (t : BitVec 4) (s : State) : Out := amo 7 (w32 w) d a b o t s
def execAmomaxu (d a b : BitVec 5) (o : BitVec 2) (w : BitVec 1) (t : BitVec 4) (s : State) : Out := amo 8 (w32 w) d a b o t s
def execAmoswap (d a b : BitVec 5) (o : BitVec 2) (w : BitVec 1) (t : BitVec 4) (s : State) : Out := amo 9 (w32 w) d a b o t s
def execAmocas (d a b : BitVec 5) (o : BitVec 2) (w : BitVec 1) (t : BitVec 4) (s : State) : Out := amo 10 (w32 w) d a b o t s
/-- AMO FADD (R289): 32-bit only. -/
def execAmofadd (d a b : BitVec 5) (o : BitVec 2) (t : BitVec 4) (s : State) : Out := amo 11 true d a b o t s

/-- LOAD_PERFORM (R156): the head of a sequencer's load queue performs, if it may. -/
def execLoadPerform (k : Nat) (s : State) : Out := .next (((s.loadStep k).getD s).settle k 40)

/-- STORE_PERFORM (R156, R163): the head of a sequencer's store queue performs, if it may. -/
def execStorePerform (k : Nat) (s : State) : Out := .next (((s.storeStep fadd32 State.forceEntry k).getD s).settle k 40)

end Sys2Proof.Machine
end

