-- ==== Sys2Proof/Machine/Sync.lean ====
section
/-! DEFINITION. SYS operations of one sequencer, barriers, FWR, fetch and the TLB steps (R85 to R90, R170, R189 to
R192, R310 to R316), one meaning per instruction. -/

namespace Sys2Proof.Machine

/-- NOP (R189). -/
def execNop (t : BitVec 4) (s : State) : Out := .next (issueShort (formAll t []) preGo (fun s => .go (s.adv s.cur 4)) s)

/-- TRAP (R190): after its sequencer's queues have performed, the software-trap fault; it never retires, so it pushes
nothing and keeps its pops. -/
def execTrap (c : BitVec 8) (t : BitVec 4) (s : State) : Out :=
  .next (issueShort ⟨rolesAll, true, t, [], true, none⟩ preGo
    (fun s => if s.queuesEmpty s.cur then .stop (s.trapAt s.cur 16 0 c.toNat) else .hold s) s)

/-- HBEAT (R191): slot 5's H sequencer alone. -/
def execHbeat (t : BitVec 4) (s : State) : Out :=
  .next (issueShort ⟨fun slot role => decide (slot = 5) && decide (role = 3), true, t, [], false, none⟩ preGo
    (fun s =>
      let s1 := { s with policy := s.policy ++ [PolicyRec.beat (coreOf s.cur) s.time] }
      .go ((s1.modCore (coreOf s.cur) fun c => { c with hblast := s.time }).adv s.cur 4)) s)

/-- CWAIT (R192): not issued while the named command of the slot is in flight. -/
def execCwait (a : BitVec 5) (t : BitVec 4) (s : State) : Out :=
  .next (issueShort (formAll t [a])
    (fun s =>
      if (s.inFlight (slotKey s.cur)).any (fun c => decide (c.num = (s.reg s.cur a).setWidth 16) && decide (c.inj ≠ 3)) then .hold s
      else .go s)
    (fun s => .go ((s.ovCwait s.cur ((s.reg s.cur a).setWidth 16)).adv s.cur 4)) s)

/-- HEARTBEAT_TIMER (R191): a period of HBPER, no less than 10 µs, has passed: one to slot 5's e15. -/
def execHeartbeatTimer (core : Nat) (s : State) : Out :=
  let per := 1000 * max 10 (s.core core).hbper.toNat
  .next (if s.time.toNat < (s.core core).hbmark.toNat + per then s
    else (s.modCore core fun c => { c with hbmark := BitVec.ofNat 64 (c.hbmark.toNat + per) }).modSlot (core * 8 + 5)
      (·.post 15 1))

/-- The sixteen bytes of a future or barrier cell, verified. -/
def State.cell16 (s : State) (h : Home) : Except BadLine Nat :=
  match s.verify h.place.1 h.place.2 16 with
  | some b => .error b
  | none => .ok (leNat (s.bytes h.place.1 h.place.2 16))

/-- Bytes of a cell written at its home (R280). -/
def State.writeCell (s : State) (h : Home) (n x src : Nat) : Except BadLine State :=
  s.store h.place.1 h.place.2 (leBytes n x) (originTag 0 src) (h.mergeTag src)

/-- BARR (R316): after the sequencer's queues and commands, an arrival at the barrier. -/
def execBarr (d a : BitVec 5) (t : BitVec 4) (s : State) : Out :=
  .next (issueShort ⟨rolesX, true, t, [d, a], false, none⟩
    (fun s =>
      if s.heldBack s.cur .amo then .hold s
      else
        match s.findHome s.cur (s.reg s.cur a) 16 8 9 true with
        | .hold s => .hold s
        | .trap s => .trap s
        | .home s _ => .go s)
    (fun s =>
      Res.issuedMark s.cur false <| match s.findHome s.cur (s.reg s.cur a) 16 8 9 true with
      | .hold s => .hold s
      | .trap s => .trap s
      | .home s h =>
        if !s.queuesEmpty s.cur || s.cmds.any (fun c => decide (c.seqk = s.cur)) then .hold s
        else
          s.atHome h 16 (fun s =>
            match s.cell16 h with
            | .error b => .error (s.trapBad s.cur 8 b)
            | .ok x =>
              let expected := x / 2 ^ 32 % 2 ^ 32
              let phase := x / 2 ^ 64 % 2 ^ 32
              let arrive := x % 2 ^ 32 + 1
              if expected = 0 then .error (s.trapAt s.cur 6 8 0 5)
              else
                let y :=
                  if expected ≤ arrive then expected * 2 ^ 32 + (phase + 1) % 2 ^ 32 * 2 ^ 64
                  else arrive + expected * 2 ^ 32 + phase * 2 ^ 64
                match s.writeCell h 12 y (coreOf s.cur) with
                | .error b => .error (s.trapBad s.cur 8 b)
                | .ok t => .ok (t, phase))
            fun s phase => ((s.setReg s.cur d (BitVec.ofNat 64 phase)).adv s.cur 4).mark' s.cur true) s)

/-- BWAIT (R316): not issued until the phase has passed the expected one. -/
def execBwait (d a b : BitVec 5) (t : BitVec 4) (s : State) : Out :=
  let wait (s : State) (f : State → Nat → Res) : Res :=
    match s.findHome s.cur (s.reg s.cur a) 16 8 9 false with
    | .hold s => .hold s
    | .trap s => .trap s
    | .home s h =>
      match s.cell16 h with
      | .error bad => .trap (s.trapBad s.cur 8 bad)
      | .ok x => f s ((x / 2 ^ 64 % 2 ^ 32 + 2 ^ 32 - (s.reg s.cur b).toNat % 2 ^ 32) % 2 ^ 32)
  .next (issueShort ⟨rolesX, true, t, [d, a, b], false, none⟩
    (fun s =>
      if s.heldBack s.cur .amo then .hold s
      else wait s fun s n => if 1 ≤ n ∧ n < 2 ^ 31 then .go s else .hold s)
    (fun s => wait s fun s n =>
      if 1 ≤ n ∧ n < 2 ^ 31 then .go ((s.setReg s.cur d (BitVec.ofNat 64 (n - 1))).adv s.cur 4) else .hold s) s)

/-- FWR (R311): a release, then the cell written and its waiters taken off; the module decrements them afterwards. -/
def execFwr (a b : BitVec 5) (t : BitVec 4) (s : State) : Out :=
  .next (issueShort ⟨rolesXH, true, t, [a, b], false, none⟩
    (fun s =>
      if s.heldBack s.cur .amo then .hold s
      else
        match s.findHome s.cur (s.reg s.cur a) 16 8 9 true with
        | .hold s => .hold s
        | .trap s => .trap s
        | .home s _ => .go s)
    (fun s =>
      Res.issuedMark s.cur false <| match s.findHome s.cur (s.reg s.cur a) 16 8 9 true with
      | .hold s => .hold s
      | .trap s => .trap s
      | .home s h =>
        if !s.queuesEmpty s.cur then .hold s
        else
          s.atHome h 16 (fun s =>
            match s.cell16 h with
            | .error bad => .error (s.trapBad s.cur 8 bad)
            | .ok x =>
              if x / 2 ^ 64 % 2 = 1 then .error (s.trapAt s.cur 6 8 0 3)
              else
                match s.writeCell h 16 ((s.reg s.cur b).toNat + 2 ^ 64) (coreOf s.cur) with
                | .error bad => .error (s.trapBad s.cur 8 bad)
                | .ok t => .ok (t, x / 2 ^ 81 * 256))
            fun s head =>
              let s1 := if head = 0 then s else
                { s with
                  nextRec := s.nextRec + 1
                  wakes := s.wakes ++
                    [⟨s.nextRec, slotKey s.cur, (s.slot (slotKey s.cur)).taskid.setWidth 32, (s.slot (slotKey s.cur)).troot,
                      BitVec.ofNat 64 head, s.reg s.cur a, s.ovIds (slotKey s.cur)⟩] }
              (s1.adv s.cur 4).mark' s.cur true) s)

/-! ### Fetch (R170, R419) -/

/-- What a fetch gives: the words at the PC, a wait, or a stop. -/
inductive Fetched where
  | words (s : State) (w x : Nat)
  | hold (s : State)
  | stop (s : State)

/-- One word fetched through the slot's translation (R170): its line verified, a bad one faults the word precisely. -/
def State.fetchWord (s : State) (k : Nat) (va : Nat) : State × VRes Nat :=
  match readVia (s.xlateSeq k va (.fetch k) 2 { kind := 2 }) 4 with
  | (s, .ok b) => (s, .ok (leNat b))
  | (s, .hold) => (s, .hold)
  | (s, .fault c r) => (s, .fault c r)
  | (s, .bad b) => (s, .bad b)

/-- The words of the next instruction (R24, R25, R170): a PC beyond bit 54 takes the scratch bounds trap, and a
declined or unverified fetch stops the stream at the word. -/
def State.fetch (s : State) (k : Nat) : Fetched :=
  let pc := s.pc k
  if !virtOk pc then .stop (s.trapAt k 3 0 pc.toNat)
  else
    match s.fetchWord k pc.toNat with
    | (s, .hold) => .hold s
    | (s, .fault c _) => .stop (s.trapAt k c 0 pc.toNat)
    | (s, .bad b) => .stop (s.trapBad k 0 b)
    | (s, .ok w) =>
      if w / 2 ^ 26 % 2 ^ 6 < 0x30 then .words s w 0
      else if !virtOk (pc + 4) then .stop (s.trapAt k 3 0 (pc + 4).toNat)
      else
        match s.fetchWord k (pc + 4).toNat with
        | (s, .hold) => .hold s
        | (s, .fault c _) => .stop (s.trapAt k c 0 (pc + 4).toNat)
        | (s, .bad b) => .stop (s.trapSeq k ({ s.trapBase k with code := 7, pc := pc + 4, prec := true }.withBad b))
        | (s, .ok x) => .words s w x

/-- INSTRUCTION_FETCH (R170): a sequencer fetches its next words; what it fetches has no effect before it issues. -/
def execInstructionFetch (k : Nat) (s : State) : Out :=
  .next (if s.canIssue k then
    match s.fetch k with
    | .words s _ _ => s
    | .hold s => s
    | .stop s => s
  else s)

/-- PAGE_WALK (R85, R87): a background walk refills a sequencer's TLB, setting accessed, and dirty for a write. -/
def execPageWalk (k : Nat) (va : Word) (write : Bool) (s : State) : Out :=
  .next (match s.walkFor (s.slot (slotKey k)).troot (va.toNat % 2 ^ 55) { kind := bit write, copy := true } with
    | .ok (s', some e, _) => s'.modSeq k fun q => { q with tlb := tlbAdd 32 q.tlb e }
    | _ => s)

/-- RETRY (R89): the request is answered; what waited on it goes on from where it stopped. While a
new image is started, requests wait unanswered (R386). -/
def execRetry (id : Nat) (s : State) : Out :=
  .next (if s.host.updating then s else { s with requests := s.requests.filter fun r => r.id != id })

/-- An entry a shootdown drops (R90). -/
def shotDown (asid : BitVec 12) (lo hi : Word) (e : TlbEntry) : Bool :=
  decide (e.asid = asid.toNat) && decide (lo.toNat / 2 ^ 16 ≤ e.page) && decide (e.page ≤ hi.toNat / 2 ^ 16)

/-- Entries of store queues whose addresses have been translated and that have not performed: by sequencer and number. -/
def State.mainEntries (s : State) : List (Nat × Nat) :=
  s.seqs.flatMap fun q => q.2.stores.filterMap fun e =>
    match e.op with
    | .amo (.main _) _ _ _ _ _ _ => some (q.1, e.id)
    | _ => none

/-- SHOOTDOWN (R90): every TLB of the module drops the matching entries, and so does every command in flight. It completes
when every access already translated has performed. -/
def execShootdown (asid : BitVec 12) (lo hi : Word) (s : State) : Out :=
  let drop (l : List TlbEntry) := l.filter fun e => !shotDown asid lo hi e
  .next (State.endShots { s with
    seqs := s.seqs.map fun q => (q.1, { q.2 with tlb := drop q.2.tlb })
    cores := s.cores.map fun c => (c.1, { c.2 with etlb := c.2.etlb.map fun t => (t.1, drop t.2) })
    cmds := s.cmds.map fun (c : Cmd) => { c with ops := drop c.ops }
    shots := s.shots ++ [⟨asid, lo, hi, s.mainEntries, (s.contribs.filterMap fun c => if c.uid = 0 then none else some c.uid) ++ s.unacked.map (·.1)⟩] })

/-- PATROL_SCRUB (R98, R369): a visit to a DRAM line. `found`: 0 no error, 1 a correctable one, else uncorrectable;
an uncorrectable line stays as it stands and is reported. -/
def execPatrolScrub (line : BitVec 52) (found : BitVec 2) (s : State) : Out :=
  let pa := line.toNat / 128 * 128
  let unc := decide (2 ≤ found.toNat) || s.ecc.contains (lineKey .main (memKey pa))
  if s.host.updating = true ∨ (found = 0 ∧ unc = false) then .next s
  else
    let s1 := (coresOf (pa % 2 ^ 40 / Config.octantBytes)).foldl
      (fun s c => s.modCore c fun x => { x with serrd := countErr x.serrd unc }) s
    .next (if unc then
      { s1 with
        policy := s1.policy ++ [PolicyRec.event "scrub" (zx line) 0]
        ecc := s1.ecc.filter (fun k => k != lineKey .main (memKey pa)) ++ [lineKey .main (memKey pa)] }
    else s1)

end Sys2Proof.Machine
end

