-- ==== Sys2Proof/Machine/Commands.lean ====
section
/-! DEFINITION. Commands: their issue (R22, R30 to R33, R45, R81), the conditions of their start (R125, R126), their
traps, and their retirement (R28, R128). -/

namespace Sys2Proof.Machine

/-- What the shared issue of long instructions needs to know of one. -/
structure LongForm where
  roles : Nat → Nat → Bool
  ok : Bool
  ins : Instr
  ext : Ext
  /-- The registers in the rd, rs1, rs2 and rs3 fields; 0 where a field names none. -/
  rd : BitVec 5 := 0
  rs1 : BitVec 5 := 0
  rs2 : BitVec 5 := 0
  rs3 : BitVec 5 := 0
  /-- rd is written at retirement. -/
  writes : Bool := false
  /-- The values that are virtual operands (R81). -/
  virt : State → List Word := fun _ => []
  /-- A condition the issue waits for besides those of every command. -/
  ready : State → Bool := fun _ => true
  /-- Commands that precede this one without a delta (R201, R244, R260). -/
  implicit : State → List Nat := fun _ => []
  latch : State → Latched := fun _ => {}
  /-- On R358's list. -/
  nokill : Bool := false
  /-- Its kind for the overlap checker (R293). -/
  kind : State → Nat := fun _ => 0

/-- The in-flight command a delta names (R31). -/
def State.named (s : State) (sk : Nat) (num : BitVec 16) (d : BitVec 5) : List Nat :=
  if d = 0 then []
  else ((s.inFlight sk).filter fun c => decide (c.num = num - d.setWidth 16)).map (·.uid)

/-- An entry of SHAPEW, for which no command waits: R309 names TRIG, EXIT and DEPDEC as what covers its writes, and in the run
of R416 a copy issued after it retires before it performs (DEDUCED, log 80). -/
def QEntry.isShape (e : QEntry) : Bool :=
  match e.op with
  | .shape _ _ => true
  | _ => false

/-- The command that issues now (R22, R31, R68, R126). -/
def mkCmd (f : LongForm) (s : State) : Cmd :=
  let k := s.cur
  let num := (s.slot (slotKey k)).nextCmd
  { uid := s.nextUid, seqk := k, num := num, ins := f.ins, ext := f.ext, pc := s.pc k
    vd := s.reg k f.rd, v1 := s.reg k f.rs1, v2 := s.reg k f.rs2, v3 := s.reg k f.rs3
    rd := if f.writes then f.rd else 0
    preds := (s.named (slotKey k) num f.ext.d1 ++ s.named (slotKey k) num f.ext.d2 ++
      s.named (slotKey k) num f.ext.d3 ++ f.implicit s).eraseDups
    entries := ((s.seq k).stores.filter fun e => !e.isShape).map (·.id)
    seed := (s.slot (slotKey k)).seed, issued := s.time.toNat, lat := f.latch s, clean := !(s.slot (slotKey k)).touched }

/-- The issue of a command: its number, its place among the slot's commands, and the PC past both words. -/
def enterCmd (f : LongForm) (s : State) : State :=
  let k := s.cur
  let c := mkCmd f s
  let kind := if isCopy f.ins then 8 + f.ext.q.toNat else f.kind s
  let l := s.lookPages k ((f.virt s).map fun v => v &&& 0x7FFFFFFFFFFFFF)
  let s1 := { l.1 with cmds := s.cmds ++ [{ c with ops := l.2 }], nextUid := s.nextUid + 1 }.ovEnter c.uid k c.num kind c.preds
    [f.ext.d1, f.ext.d2, f.ext.d3]
  (((s1.modSlot (slotKey k) fun x => { x with nextCmd := x.nextCmd + 1 }).modSeq k fun q =>
    { q with last := c.num, any := true }).mark' k f.nokill).adv k 8

/-- The shared issue of a long instruction (R45, R81, R125): a task slot holds at most 64 commands, a copy queue at
most 64, and a virtual operand with bits [63:55] set is a precise scratch bounds trap. Its pops are taken; its pushes
are made at retirement. -/
def issueLong (f : LongForm) (s : State) : State :=
  issueShort ⟨f.roles, f.ok, f.ext.t, [f.rd, f.rs1, f.rs2, f.rs3], true, none⟩
    (fun s =>
      if s.heldBack s.cur .command || !f.ready s ||
          (decide (slotNum (slotKey s.cur) < 4) && decide (64 ≤ (s.inFlight (slotKey s.cur)).length)) ||
          (isCopy f.ins && decide (64 ≤ (s.copyQueue (coreOf s.cur) f.ext.q.toNat).length)) then .hold s
      else
        match (f.virt s).find? (fun v => !virtOk v) with
        | some v => .trap (s.trapAt s.cur 3 0 v.toNat)
        | none => .go s)
    (fun s => .go (enterCmd f s)) s

/-- A command in the list. -/
def State.cmd (s : State) (uid : Nat) : Option Cmd := s.cmds.find? (·.uid == uid)

/-- A command replaced. -/
def State.setCmd (s : State) (c : Cmd) : State := { s with cmds := s.cmds.map fun x => if x.uid = c.uid then c else x }

/-- sub6 of a CA command; 0: none (R44). -/
def caSub : Instr → Nat
  | .caput _ _ _ _ => 1
  | .canode _ _ _ _ => 2
  | .cahash _ _ _ _ => 3
  | .caget _ _ _ _ => 4
  | .cawalk _ _ _ _ => 5
  | .caref _ _ _ _ => 6
  | .caswap _ _ _ _ _ => 7
  | .caout _ _ _ _ => 8
  | .capin _ _ _ => 9
  | _ => 0

/-- A trap against a command (R347, R352): the command stops where it stands. Those of CASWAP are precise (R291); that of
a sub-command stops its demand (R267). -/
def State.trapCmd (s : State) (c : Cmd) (r : TrapRec) : State :=
  match c.sub with
  | some x => s.trapDemand (slotKey c.seqk) x.by' (x.rec' r ·)
  | none =>
    (s.takeTrap (slotKey c.seqk)
      { r with seq := c.num, pc := c.pc, stream := roleOf c.seqk, prec := r.prec || decide (caSub c.ins = 7) }).setCmd { c with failed := true }

/-- The record of a command's trap: fault code, engine, status word, micro-state and address. -/
def State.cmdRec (s : State) (c : Cmd) (code engine status mstate addr : Nat) : TrapRec :=
  { s.trapBase c.seqk with
    code := code, engine := engine, status := BitVec.ofNat 32 status, mstate := BitVec.ofNat 113 mstate,
    addr := BitVec.ofNat 56 addr }

/-- The engine code of a command's unit (R348). -/
def engineOf : Instr → Nat
  | .vrun _ _ _ _ | .tbload _ _ _ _ _ => 2
  | .mgo _ => 3
  | .tld _ _ _ _ _ | .tst _ _ _ _ _ | .afill _ _ _ _ _ | .adrn _ _ _ _ _ => 4
  | .miterPoly _ _ _ _ _ _ _ | .miterNs _ _ _ _ _ _ _ | .miterInv _ _ _ _ _ _ _ => 5
  | .tbind _ _ _ _ _ | .tmul _ _ _ _ | .tmac _ _ _ _ | .tadd _ _ _ _ | .tsub _ _ _ _ | .thad _ _ _ _
  | .tscl _ _ _ _ _ | .ttrn _ _ _ _ | .tcvt _ _ _ _ | .tact _ _ _ _ _ | .tstore _ _ _ _ | .tforce _ _ | .tdrop _ _ => 6
  | .caput _ _ _ _ | .canode _ _ _ _ | .cahash _ _ _ _ | .caget _ _ _ _ | .cawalk _ _ _ _ | .caref _ _ _ _
  | .caswap _ _ _ _ _ | .caout _ _ _ _ | .capin _ _ _ => 7
  | .spawn _ _ _ _ _ => 8
  | _ => 1

/-- A footprint as the overlap checker compares it (R292). -/
def Foot.ov (f : Foot) : OvFoot := ovLines (match f.sp with | .scratch => 0 | .main => 1 | .tile => 2) f.a f.n f.write

/-- The forcer's context of a command (R264). -/
def Cmd.force (c : Cmd) : ForceCtx := ⟨slotKey c.seqk, c.seed, 3, c.num, .cmd c.uid⟩

/-- Before a command makes any access: the overlap checker's comparison (R293), with what its footprint holds besides
`feet` and `dests`, and the forces that its writes trigger (R264, R266), of kind 3 under its own seed and number; the forcer's own
sub-commands trigger none. An error: a fault is recorded against the command, or it starts when it has been forced. -/
def State.forceCmd (s : State) (c : Cmd) (feet : List Foot) (more : List Foot := []) (dests : List OvFoot := []) :
    Except State State :=
  match s.ovStart c.ovUid (((feet ++ more).filter (fun f => decide (0 < f.n)) |>.map (·.ov)) ++ dests) with
  | (s, true) => .error (s.trapCmd c (s.cmdRec c 13 (engineOf c.ins) 0 0 0))
  | (s, false) =>
    if c.sub.isSome then .ok s
    else
      match s.forceWrites c.force feet with
      | .met s => .ok s
      | .more s => .error s
      | .trapped s => .error s
      | .waits => .error s

/-- The commands before one in its copy queue (R125). A command that waits for a demand of its own has not entered the
engine: a sub-command of the forcer, which may be what it waits for, does not stand behind it. -/
def State.queueAhead (s : State) (c : Cmd) : List Cmd :=
  if isCopy c.ins then
    ((s.copyQueue (coreOf c.seqk) c.ext.q.toNat).takeWhile fun x => x.uid != c.uid).filter fun x =>
      !(c.sub.isSome && decide (x.phase = .waiting) && s.demanding x)
  else []

/-- An earlier command of the same copy queue has still to retire (R125). -/
def State.behindInQueue (s : State) (c : Cmd) : Bool := !(s.queueAhead c).isEmpty

/-- What a sub-command reads has been written (R264, R338): the ordinals that its wait mask names, and every ordinal 17 or
more before its own, have retired. -/
def State.waitMet (s : State) (c : Cmd) : Bool :=
  match c.sub with
  | none => true
  | some x =>
    let done := ((s.demandOf (slotKey c.seqk) x.by').map (·.done)).getD []
    (List.range x.ord).all fun k =>
      (decide (x.ord ≤ k + 16) && !x.wait.testBit (x.ord - k - 1)) || done.contains k

/-- A command has started: it is under way, or it was stopped and waits to go on (R202, R211, R244). -/
def Cmd.begun (c : Cmd) : Bool := decide (c.phase ≠ .waiting) || c.resumed

/-- The commands of checkpointed tasks that had not started: they have issued and not retired. That a TBLOAD among them still
holds back the later runs of its bank, whatever slot issues them, is read from R201 (DEDUCED, log 122). -/
def State.keptCmds (s : State) : List Cmd := s.saved.flatMap fun v => v.cmds.filter fun c => !c.begun

/-- A command that runs to retirement even in a slot that stops (R203, R361). -/
def runsToEnd (i : Instr) : Bool :=
  decide (engineOf i = 4) || decide (engineOf i = 7) || decide (engineOf i = 8) || match i with
    | .tbload _ _ _ _ _ => true
    | _ => false

/-- A command whose predecessors have retired, whose earlier store-queue entries have performed, and which heads its
copy queue or follows only commands that have issued their last access (R31, R125, R126). Its slot is not stopping; the
sub-commands that the forcer has issued go on in one (R270). -/
def State.canStart (s : State) (c : Cmd) : Bool :=
  !c.failed && ((s.slot (slotKey c.seqk)).stopping.isNone || c.sub.isSome) &&
  c.preds.all (fun u => !s.cmds.any (·.uid == u) && !s.keptCmds.any (·.uid == u)) &&
  c.entries.all (fun i => !(s.seq c.seqk).stores.any (·.id == i)) &&
  s.waitMet c && (s.queueAhead c).all fun x => x.phase == .done

/-- Two instructions push one FIFO. -/
def sharesPush (t u : BitVec 4) : Bool := (t.getLsbD 2 && u.getLsbD 2) || (t.getLsbD 3 && u.getLsbD 3)

/-- A command's pushes need not find room: its slot stops, and waits for its retirement (R203, R361). Its sequencer then owes
those that find none, as it does those of its queues (R352; DEDUCED, log 88). -/
def State.owesPushes (s : State) (c : Cmd) : Bool := (s.slot (slotKey c.seqk)).stopping.isSome && runsToEnd c.ins

/-- A command may retire but for the order of the pushes that meet at a FIFO: its work is done, its queue's order and the
peers' acknowledgements allow it, and its pushes have room or are owed (R28, R125, R128, R381). -/
def State.retirable (s : State) (c : Cmd) : Bool :=
  decide (c.phase = .done) && !s.behindInQueue c && !s.unacked.any (fun u => decide (u.1 = c.uid)) &&
    (s.room c.seqk c.ext.t || s.owesPushes c)

/-- Commands of one slot number in issue order, at most 64 in flight and their numbers modulo 65,536 (R22): `a` issued
before `b`. -/
def issuedBefore (a b : Cmd) : Bool := decide (a.num ≠ b.num) && decide ((b.num - a.num).toNat < 2 ^ 15)

/-- The pushes of a sequencer's short instructions that have nothing left to do but make them: the first that is owed,
and those of queue entries, MARKs and FENCEs that have found a FIFO full (R28). -/
def Seq.shortPushes (q : Seq) : List (BitVec 4) :=
  q.owed.take 1 ++ ((q.loads ++ q.stores).filter fun e => q.full.contains e.id).map (·.t) ++
    (q.fences.filter fun f => q.full.contains f.id).map (·.t)

/-- The order in which pushes take the room of a FIFO (R28): those of the stream's short instructions first, then those
of its commands in issue order. -/
def State.pushTurn (s : State) (c : Cmd) : Bool :=
  (s.seq c.seqk).shortPushes.all (fun t => !(sharesPush t c.ext.t && s.room c.seqk t)) &&
  !s.cmds.any fun x => decide (x.seqk = c.seqk) && issuedBefore x c && sharesPush x.ext.t c.ext.t && s.retirable x

/-- COMMAND_RETIRE (R28, R125, R128, R381): a command whose work is done pushes its tokens, posts its event and writes
rd, once its queue's order, the peers' acknowledgements and the FIFOs' room allow. -/
def State.retire (s : State) (c : Cmd) : Option State :=
  let sk := slotKey c.seqk
  if s.retirable c = false ∨ (s.pushTurn c || s.owesPushes c) = false then none
  else
    let s1 := { s with cmds := s.cmds.filter fun x => x.uid != c.uid }
    let s2 := let t := s1.setReg c.seqk c.rd c.result; if s.owesPushes c then t.pushOwe c.seqk c.ext.t else t.pushTokens c.seqk c.ext.t
    let s3 := if c.ext.post = 1 then s2.modSlot sk (·.post c.ext.ev.toNat 1) else s2
    some ((s3.ovRetire c.uid c.seqk c.ext.t (if c.ext.post = 1 then some c.ext.ev.toNat else none)).settle c.seqk 40)

/-- The class of a command's traffic (R91, R119, R127): 1 when the replay sequencer injected it, and of CASWAP; else by its
member. -/
def Cmd.traffic (c : Cmd) : Nat :=
  if 2 ≤ c.inj then 1
  else
    match c.ins with
    | .cpm _ _ _ _ _ => 0
    | .caswap _ _ _ _ _ => 1
    | .cpy _ _ _ _ _ _ | .cpy2 _ _ _ _ _ _ | .cpy3 _ _ _ _ _ _ | .cpg _ _ _ _ _ _ | .cps _ _ _ _ _ _ | .cpf _ _ _ _ _ => 3
    | _ => 2

/-- A write to a peer's memory has been sent (R381): the command retires after its acknowledgement. The packet carries
the line written. -/
def State.noteWrite (s : State) (c : Cmd) (pa : Nat) : State :=
  s.sendWrite c.uid c.traffic pa 1

/-- The number of a lookup of a name in the index of a rank, apart from every address. -/
def lookupKey (rank : Nat) (n : BitVec 128) : Nat := rank + 2 ^ 60 * (n.toNat + 1)

/-- A command reads a line of a peer (R381): a read packet is sent once, and the line is there when its response has
come. -/
def State.readPeer (s : State) (c : Cmd) (pa : Nat) : State × Bool :=
  let l := pa / 128 * 128
  match s.peerReads.find? fun r => decide (r.1 = c.uid) && decide (r.2.1 = l) with
  | some r => if r.2.2 then ({ s with peerReads := s.peerReads.erase r }, true) else (s, false)
  | none =>
    ({ s with
      peerReads := s.peerReads ++ [(c.uid, l, false)]
      fabricOut := s.fabricOut ++ [{ typ := 1, cls := c.traffic, src := s.host.rank, dst := pa / 2 ^ 42 % 256, pa := l % 2 ^ 42, data := [] }] }, false)

/-- A command changed by a function. -/
def State.modCmd (s : State) (uid : Nat) (f : Cmd → Cmd) : State :=
  { s with cmds := s.cmds.map fun (c : Cmd) => if c.uid = uid then f c else c }

/-- A command whose work is done, with the value for its rd. -/
def State.complete (s : State) (c : Cmd) (v : Word) : State := s.setCmd { c with phase := .done, result := v }

/-- The source of a command's translations (R88). -/
def cmdSource (c : Cmd) (engine : Nat) : Source :=
  { waiter := .command c.uid, offset := c.off, num := c.num, core := coreOf c.seqk, slot := slotNum (slotKey c.seqk),
    engine := engine, queue := if isCopy c.ins then c.ext.q.toNat else 0 }

end Sys2Proof.Machine
end

