-- ==== Sys2Proof/Machine/Copy.lean ====
section
/-! DEFINITION. The copy engine (R125 to R145): the CP family, messages and their handlers, CPQ and CPR. A command
moves in pieces that lie in one line each; its byte offset counts what has performed. -/

namespace Sys2Proof.Machine

/-- What one piece of an engine's work leads to. -/
inductive Piece (α : Type) where
  | ok (s : State) (v : α)
  | hold (s : State)
  | trap (s : State)

/-- The member number and space bits of a CP-family command (R130): member, destination slice, source slice. -/
def cpMember : Instr → Nat × Bool × Bool
  | .cpy d s _ _ _ _ => (1, decide (d = 1), decide (s = 1))
  | .cpy2 d s _ _ _ _ => (2, decide (d = 1), decide (s = 1))
  | .cpy3 d s _ _ _ _ => (3, decide (d = 1), decide (s = 1))
  | .cpg d s _ _ _ _ => (4, decide (d = 1), decide (s = 1))
  | .cps d s _ _ _ _ => (5, decide (d = 1), decide (s = 1))
  | .cpf d _ _ _ _ => (6, decide (d = 1), true)
  | .cpm s _ _ _ _ => (7, true, decide (s = 1))
  | .cpq s _ _ _ _ => (8, true, decide (s = 1))
  | _ => (0, true, true)

/-- The operator of a CPR (R44) and its destination space; 0: no CPR. -/
def cprOp : Instr → Nat × Bool
  | .cprFaddF32 d _ _ _ _ => (1, decide (d = 1))
  | .cprAddI32 d _ _ _ _ => (2, decide (d = 1))
  | .cprAddI64 d _ _ _ _ => (3, decide (d = 1))
  | .cprMaxF32 d _ _ _ _ => (4, decide (d = 1))
  | .cprMinF32 d _ _ _ _ => (5, decide (d = 1))
  | .cprMaxI32 d _ _ _ _ => (6, decide (d = 1))
  | .cprMinI32 d _ _ _ _ => (7, decide (d = 1))
  | _ => (0, false)

/-- The fault code of a copy status (R144). -/
def copyCode (status : Nat) : Nat :=
  match status with
  | 1 => 3
  | 2 => 3
  | 6 => 7
  | 7 => 13
  | _ => 6

/-- A trap of the copy engine against a command: status and the index its status word holds (R144). -/
def State.trapCopy (s : State) (c : Cmd) (status index addr : Nat) : State :=
  s.trapCmd c (s.cmdRec c (copyCode status) 1 (status + (cpMember c.ins).1 * 16 + index * 256) c.off addr)

/-- A trap of the copy engine for a line that fails verification (R97, status 6). -/
def State.trapCopyBad (s : State) (c : Cmd) (index : Nat) (b : BadLine) : State :=
  s.trapCmd c ((s.cmdRec c 7 1 (6 + (cpMember c.ins).1 * 16 + index * 256) c.off 0).withBad b)

/-- A declined translation of a copy command (R89, R144): status 0, with the index of its status word. -/
def State.trapCopyFault (s : State) (c : Cmd) (code index va : Nat) : State :=
  s.trapCmd c (s.cmdRec c code 1 ((cpMember c.ins).1 * 16 + index * 256) c.off va)

/-- The translation of a copy command's access (R87, R88). -/
def State.xlateCopy (s : State) (c : Cmd) (va kind : Nat) (atomic : Bool) : State × XRes :=
  s.xlateEngine (cmdSource c 0) (s.slot (slotKey c.seqk)).troot va { kind := kind, copy := true, atomic := atomic }

/-- A piece of a source within one line, with the line's origin tag and key (R95). -/
def State.readPiece (s : State) (c : Cmd) (inSlice : Bool) (a : Int) (n index : Nat) : Piece (List Byte × BitVec 16 × Nat) :=
  let x := a.toNat
  if inSlice then
    if a < 0 ∨ sliceOk x n = false ∨ s.window (slotKey c.seqk) x n = false then .trap (s.trapCopy c 1 index x)
    else
      match s.verifyLine .scratch x with
      | some b => .trap (s.trapCopyBad c index b)
      | none => .ok s (s.bytes .scratch x n, s.tag .scratch x, lineKey .scratch x)
  else if a < 0 ∨ 2 ^ 55 ≤ x then .trap (s.trapCopy c 1 index x)
  else
    match s.xlateCopy c x 0 false with
    | (s, .hold) => .hold s
    | (s, .fault code _) => .trap (s.trapCopyFault c code index x)
    | (s, .bad b) => .trap (s.trapCopyBad c index b)
    | (s, .ok pa _) =>
      let r := if pa / 2 ^ 50 = 3 then s.readPeer c pa else (s, true)
      if !r.2 then .hold r.1
      else
        match r.1.verifyLine .main (memKey pa) with
        | some b => .trap (r.1.trapCopyBad c index b)
        | none => .ok r.1 (r.1.bytes .main (memKey pa) n, r.1.lineTag pa, lineKey .main (memKey pa))

/-- A piece of a destination within one line (R95, R96): a whole line takes `whole` as its tag, a part is merged. It answers the line's
key, its tag before, and the bytes that stood there. -/
def State.writePiece (s : State) (c : Cmd) (inSlice : Bool) (a : Int) (bs : List Byte) (whole : BitVec 16)
    (index : Nat) : Piece (Nat × BitVec 16 × List Byte) :=
  let x := a.toNat
  let src := coreOf c.seqk
  if inSlice then
    if a < 0 ∨ sliceOk x bs.length = false ∨ s.window (slotKey c.seqk) x bs.length = false then
      .trap (s.trapCopy c 1 index x)
    else
      match s.store .scratch x bs whole (originTag 5 src) with
      | .error b => .trap (s.trapCopyBad c index b)
      | .ok t => .ok t (lineKey .scratch x, s.tag .scratch x, s.bytes .scratch x bs.length)
  else if a < 0 ∨ 2 ^ 55 ≤ x then .trap (s.trapCopy c 1 index x)
  else
    match s.xlateCopy c x 1 false with
    | (s, .hold) => .hold s
    | (s, .fault code _) => .trap (s.trapCopyFault c code index x)
    | (s, .bad b) => .trap (s.trapCopyBad c index b)
    | (s, .ok pa _) =>
      match s.store .main (memKey pa) bs whole (originTag 0 src) with
      | .error b => .trap (s.trapCopyBad c index b)
      | .ok t => .ok (t.noteWrite c pa) (lineKey .main (memKey pa), s.tag .main (memKey pa), s.bytes .main (memKey pa) bs.length)

/-- A signed 64-bit field of a record. -/
def fieldI (r : List Byte) (o : Nat) : Int := (BitVec.ofNat 64 (leAt r o 8)).toInt

/-- What the checks of R144 give at a command's start: its parameters, or the status and address of the first failure. -/
inductive Checked where
  | ok (par : List Int)
  | bad (status addr : Nat)
  | line (b : BadLine)

/-- A parameter record of `n` bytes (R131, R144 step 1). -/
def State.record (s : State) (c : Cmd) (a : Word) (n : Nat) (f : List Byte → Checked) : Checked :=
  if !sliceOk a.toNat n || !s.window (slotKey c.seqk) a.toNat n then .bad 1 a.toNat
  else if a.toNat % 32 ≠ 0 then .bad 2 a.toNat
  else
    match s.verify .scratch a.toNat n with
    | some b => .line b
    | none => f (s.bytes .scratch a.toNat n)

/-- The lowest address and the length of what a strided operand covers. -/
def extent (base : Int) (run n1 n2 : Nat) (s1 s2 : Int) : Int × Nat :=
  let lo (n : Nat) (st : Int) : Int := if st < 0 then (n - 1 : Nat) * st else 0
  let hi (n : Nat) (st : Int) : Int := if st < 0 then 0 else (n - 1 : Nat) * st
  (base + lo n1 s1 + lo n2 s2, (hi n1 s1 + hi n2 s2 - lo n1 s1 - lo n2 s2).toNat + run)

/-- A slice extent lies in one window of the slot (R144 step 3). -/
def State.extentOk (s : State) (c : Cmd) (e : Int × Nat) : Bool :=
  decide (0 ≤ e.1) && sliceOk e.1.toNat e.2 && s.window (slotKey c.seqk) e.1.toNat e.2

/-- Two extents of one space share a byte. -/
def extentsMeet (a b : Int × Nat) : Bool := decide (a.1 < b.1 + b.2) && decide (b.1 < a.1 + a.2)

/-- Steps 3 and 5 of R144 for a strided copy: extents within windows, and in deterministic mode no overlap of its
own. `par` is run, n1, n2, ss1, ds1, ss2, ds2. -/
def State.checkStrided (s : State) (c : Cmd) (run n1 n2 : Nat) (ss1 ds1 ss2 ds2 : Int) : Checked :=
  let m := cpMember c.ins
  let de := extent c.v1.toNat run n1 n2 ds1 ds2
  let se := extent c.v2.toNat run n1 n2 ss1 ss2
  let fill := decide (m.1 = 6)
  if m.2.1 && !s.extentOk c de then .bad 1 de.1.toNat
  else if m.2.2 && !fill && !s.extentOk c se then .bad 1 se.1.toNat
  else if (s.slot (slotKey c.seqk)).det && !fill && (m.2.1 == m.2.2) && extentsMeet de se then .bad 7 de.1.toNat
  else .ok [run, n1, n2, ss1, ds1, ss2, ds2]

/-- The checks of R144 of a CP-family command. -/
def State.checkCopy (s : State) (c : Cmd) : Checked :=
  let m := cpMember c.ins
  match m.1 with
  | 2 => s.record c c.v3 32 fun r =>
      let run := leAt r 0 4
      let n1 := leAt r 4 2
      if run = 0 ∨ 16777216 < run ∨ n1 = 0 ∨ leAt r 6 10 ≠ 0 ∨ 0xFFFFFFFF < run * n1 then .bad 3 c.v3.toNat
      else s.checkStrided c run n1 1 (fieldI r 16) (fieldI r 24) 0 0
  | 3 => s.record c c.v3 48 fun r =>
      let run := leAt r 0 4
      let n1 := leAt r 4 2
      let n2 := leAt r 6 2
      if run = 0 ∨ 16777216 < run ∨ n1 = 0 ∨ n2 = 0 ∨ leAt r 8 8 ≠ 0 ∨ 0xFFFFFFFF < run * n1 * n2 then
        .bad 3 c.v3.toNat
      else s.checkStrided c run n1 n2 (fieldI r 16) (fieldI r 24) (fieldI r 32) (fieldI r 40)
  | 7 => s.record c c.v3 32 fun r =>
      let len := leAt r 16 4
      if leAt r 0 8 % 4 ≠ 0 ∨ 2 ^ 55 ≤ leAt r 0 8 then .bad 2 (leAt r 0 8)
      else if len = 0 ∨ 4096 < len ∨ leAt r 20 12 ≠ 0 then .bad 3 c.v3.toNat
      else
        match s.checkStrided c len 1 1 0 0 0 0 with
        | .ok p => .ok (p ++ [(leAt r 0 8 : Int), (leAt r 8 8 : Int)])
        | x => x
  | 8 =>
      if c.v3.toNat = 0 ∨ 65535 < c.v3.toNat then .bad 3 c.v3.toNat
      else if m.2.2 && !s.extentOk c (c.v2.toNat, 512 * c.v3.toNat) then .bad 1 c.v2.toNat
      else if c.v2.toNat % 128 ≠ 0 then .bad 2 c.v2.toNat
      else .ok [c.v3.toNat]
  | _ =>
      if m.1 = 4 ∨ m.1 = 5 then
        s.record c c.v3 32 fun r =>
          let esize := leAt r 0 4
          let count := leAt r 4 4
          let list := leAt r 8 8
          if esize = 0 ∨ 4096 < esize ∨ count = 0 ∨ 65536 < count ∨ leAt r 24 8 ≠ 0 then .bad 3 c.v3.toNat
          else if !s.extentOk c (list, 4 * count) then .bad 1 list
          else if m.1 = 4 && m.2.1 && !s.extentOk c (c.v1.toNat, esize * count) then .bad 1 c.v1.toNat
          else if m.1 = 5 && m.2.2 && !s.extentOk c (c.v2.toNat, esize * count) then .bad 1 c.v2.toNat
          else if list % 4 ≠ 0 then .bad 2 list
          else
            let flat := (((if m.1 = 4 then c.v1 else c.v2).toNat : Int), esize * count)
            let base : Int := (if m.1 = 4 then c.v2 else c.v1).toNat
            if (s.slot (slotKey c.seqk)).det && (m.2.1 == m.2.2) && ((List.range count).any fun j =>
                extentsMeet flat (base + (leNat (s.bytes .scratch (list + 4 * j) 4) : Int) * fieldI r 16, esize)) then .bad 7 c.v1.toNat
            else .ok [esize, count, list, fieldI r 16]
      else if c.v3.toNat = 0 ∨ 0xFFFFFFFF < c.v3.toNat then .bad 3 c.v3.toNat
      else s.checkStrided c c.v3.toNat 1 1 0 0 0 0

/-- Parameter `i` of a command, as a number. -/
def Cmd.parN (c : Cmd) (i : Nat) : Nat := (c.par.getD i 0).toNat

/-- The eight bytes of the fill pattern repeated from a position (R132). -/
def fillBytes (pattern : Word) (pos n : Nat) : List Byte :=
  (List.range n).map fun i => BitVec.ofNat 8 (pattern.toNat / 256 ^ ((pos + i) % 8))

/-- Bytes from an address to the end of its line. -/
def toLineEnd (a : Int) : Nat := 128 - (a % 128).toNat

/-- The bytes of a piece whose source starts at offset `so` of line `sk` and whose destination starts at offset `dof` of
line `dk`, from `d`, what stands at the source now. A byte whose source this command has overwritten takes the source's
original value, or, where `pick` has its bit, the value written there earlier in copy order: the spec leaves which to
timing (R132). With it, whether a byte has taken the original value of a place overwritten by an earlier piece. -/
def pickBytes (c : Cmd) (sk so dk dof pick : Nat) (d : List Byte) : List Byte × Bool :=
  let kept := (Kv.get (0, []) c.old sk).2
  (List.range d.length).foldl (fun acc i =>
    let x := d.getD i 0
    let first := (kept.find? fun q => decide (q.1 = so + i)).map (·.2)
    if sk = dk ∧ dof ≤ so + i ∧ so < dof then
      (acc.1 ++ [if pick.testBit i then acc.1.getD (so + i - dof) 0 else first.getD x], acc.2 || (first.isSome && !pick.testBit i))
    else (acc.1 ++ [if pick.testBit i then x else first.getD x], acc.2 || (first.isSome && !pick.testBit i))) ([], false)

/-- A byte of the piece has a source that this command has overwritten, or overwrites in this piece before it (R132). -/
def pickNeeded (c : Cmd) (sk so dk dof n : Nat) : Bool :=
  (sk == dk && decide (so < dof) && decide (dof < so + n)) ||
    (Kv.get (0, []) c.old sk).2.any fun q => decide (so ≤ q.1) && decide (q.1 < so + n)

/-- The command's record of what it has overwritten, after a write of bytes in one line (R132). -/
def Cmd.overwrote (c : Cmd) (k : Nat) (tag : BitVec 16) (dof : Nat) (was : List Byte) : Cmd :=
  let o := Kv.get (tag, []) c.old k
  { c with old := Kv.put c.old k (o.1, o.2 ++ ((List.range was.length).map fun i => (dof + i, was.getD i 0)).filter fun q =>
      !o.2.any fun p => decide (p.1 = q.1)) }

/-- The key of the line that a copy writes, where source and destination are of one space and the line is translated. -/
def State.lineOf (s : State) (c : Cmd) (inSlice same : Bool) (dst : Int) : Option Nat :=
  if !same then none
  else if inSlice then some (lineKey .scratch dst.toNat)
  else
    match (s.xlateCopy c dst.toNat 1 false).2 with
    | .ok pa _ => some (lineKey .main (memKey pa))
    | _ => none

/-- The answer that the command waits for is a decline of its write at `dst`, though it would read the same page at `src`
first (R89): the read translates without it. -/
def State.writeDeclined (s : State) (c : Cmd) (src dst : Int) : Bool :=
  let w := Waiter.command c.uid
  decide (src.toNat / 65536 = dst.toNat / 65536) &&
  (s.waitsPage w (bits (s.slot (slotKey c.seqk)).troot 52 12) dst.toNat).any (·.declined) &&
  match ((s.takeAnswer w).xlateCopy c src.toNat 0 false).2 with
  | .ok _ _ => true
  | _ => false

/-- One piece of a copy from `src` to `dst`, at most `left` bytes: its length is what fits the lines of both
(R95, R132). A whole line moved to a whole line keeps its tag. -/
def State.movePiece (s : State) (c : Cmd) (src dst : Int) (left index : Nat) : Piece Nat :=
  let m := cpMember c.ins
  let n := min left (min (toLineEnd dst) (if m.1 = 6 then left else toLineEnd src))
  let mine := originTag 0 (coreOf c.seqk)
  if m.1 = 6 then
    match s.writePiece c m.2.1 dst (fillBytes c.v2 c.off n) mine index with
    | .ok s _ => .ok s n
    | .hold s => .hold s
    | .trap s => .trap s
  else if !m.2.1 && !m.2.2 && s.writeDeclined c src dst then
    match s.xlateCopy c dst.toNat 1 false with
    | (s, .fault code _) => .trap (s.trapCopyFault c code index dst.toNat)
    | (s, _) => .hold s
  else
    match s.readPiece c m.2.2 src n index with
    | .hold s => .hold s
    | .trap s => .trap s
    | .ok s d =>
      let so := (src % 128).toNat
      let dof := (dst % 128).toNat
      let dk := s.lineOf c m.2.1 (m.2.1 == m.2.2) dst
      let needed := pickNeeded c d.2.2 so (dk.getD (d.2.2 + 1)) dof n
      let x := if needed then s.choose (2 ^ 128) else (s, 0)
      let p := if needed then pickBytes c d.2.2 so (dk.getD (d.2.2 + 1)) dof x.2 d.1 else (d.1, false)
      let tag := if src % 128 ≠ 0 then mine else if p.2 then (Kv.get (d.2.1, []) c.old d.2.2).1 else d.2.1
      match s.writePiece c m.2.1 dst p.1 tag index with
      | .ok t w =>
        let t1 := { t with choices := x.1.choices }
        .ok (if m.2.1 == m.2.2 then t1.setCmd (c.overwrote w.1 w.2.1 dof w.2.2) else t1) n
      | .hold s => .hold s
      | .trap s => .trap s

/-- The bytes a command moves in all (R131). -/
def Cmd.total (c : Cmd) : Nat :=
  match (cpMember c.ins).1 with
  | 4 => c.parN 0 * c.parN 1
  | 5 => c.parN 0 * c.parN 1
  | _ => c.parN 0 * c.parN 1 * c.parN 2

/-- The next piece of a strided copy at its offset (R132). -/
def State.stridedPiece (s : State) (c : Cmd) : Piece Nat :=
  let run := c.parN 0
  let r := c.off / run
  let b := c.off % run
  let j1 : Int := (r % c.parN 1 : Nat)
  let j2 : Int := (r / c.parN 1 : Nat)
  s.movePiece c (c.v2.toNat + j2 * c.par.getD 5 0 + j1 * c.par.getD 3 0 + b)
    (c.v1.toNat + j2 * c.par.getD 6 0 + j1 * c.par.getD 4 0 + b) (run - b) r

/-- Index `j` of an indexed copy: read once, as its element is reached, and kept with the command (R133). -/
def State.indexOf (s : State) (c : Cmd) (j : Nat) : Piece Cmd :=
  if c.par.getD 4 0 = (j : Int) + 1 then .ok s c
  else
    match s.readPiece c true ((c.parN 2 + 4 * j : Nat) : Int) 4 j with
    | .hold s => .hold s
    | .trap s => .trap s
    | .ok s d =>
      let c := { c with par := c.par.take 4 ++ [(j : Int) + 1, (leNat d.1 : Int)] }
      .ok (s.setCmd c) c

/-- The next piece of an indexed copy at its offset (R133): the element's address is checked whole as it is reached. -/
def State.indexedPiece (s : State) (c : Cmd) : Piece Nat :=
  let m := cpMember c.ins
  let esize := c.parN 0
  let j := c.off / esize
  let b := c.off % esize
  match s.indexOf c j with
  | .hold s => .hold s
  | .trap s => .trap s
  | .ok s c =>
    let x : Int := c.par.getD 5 0 * c.par.getD 3 0
    let e : Int := (if m.1 = 4 then (c.v2.toNat : Int) else c.v1.toNat) + x
    if (if m.1 = 4 then m.2.2 else m.2.1) && !s.extentOk c (e, esize) then .trap (s.trapCopy c 1 j e.toNat)
    else if m.1 = 4 then s.movePiece c (e + b) (c.v1.toNat + j * esize + b) (esize - b) j
    else s.movePiece c (c.v2.toNat + j * esize + b) (e + b) (esize - b) j

/-- The lines of vector `j` of a CPQ, from line 4 - `n` on (R136). A line at which it stops is its micro-state, 512j + b;
a vector is pushed whole, and read from its first line when it goes on (R137). -/
def State.cpqLines (s : State) (c : Cmd) (j : Nat) : Nat → List Byte → Piece (List Byte)
  | 0, acc => .ok s acc
  | n + 1, acc =>
    let off := 512 * j + 128 * (3 - n)
    match s.readPiece { c with off := off } (cpMember c.ins).2.2 ((c.v2.toNat + off : Nat) : Int) 128 j with
    | .ok s d => s.cpqLines c j n (acc ++ d.1)
    | .hold s => .hold (s.modCmd c.uid fun x => { x with off := off })
    | .trap s => .trap s

/-- The queue a CPQ feeds. -/
def cpqQueue : Instr → Nat
  | .cpq _ q _ _ _ => q.toNat
  | _ => 0

/-- The next vector of a CPQ (R136): after every earlier VLD and CPQ to the queue has pushed, for its vectors enter in
program order, and when the queue has room. -/
def State.cpqPiece (s : State) (c : Cmd) : Piece Nat :=
  let sk := slotKey c.seqk
  let dq := cpqQueue c.ins
  let j := c.off / 512
  if (s.seq (sk * 4)).loads.any (fun e => match e.op with | .vload q _ => decide (q = dq) | _ => false) then .hold s
  else if s.cmds.any (fun x => decide (slotKey x.seqk = sk) && decide ((cpMember x.ins).1 = 8) && decide (cpqQueue x.ins = dq) &&
      decide (x.phase ≠ .done) && issuedBefore x c) then .hold s
  else if 8 ≤ (Kv.get [] (s.slot sk).queues dq).length then .hold s
  else
    match s.cpqLines c j 4 [] with
    | .hold s => .hold s
    | .trap s => .trap s
    | .ok s d =>
      .ok (({ s with fresh := s.fresh + 1 }.modSlot sk fun x =>
        { x with queues := Kv.put x.queues dq (Kv.get [] x.queues dq ++ [DqEntry.mk s.fresh (some d)]) }).modCmd c.uid
          fun x => { x with off := 512 * j }) 512

/-- A start record reaches the target's handler queue, or waits for room there (R134). -/
def State.sendMessage (s : State) (c : Cmd) : State :=
  let target := c.v1.toNat / 2 ^ 23
  let r : HandlerRec :=
    ⟨c.v1, c.parN 0, coreOf c.seqk, BitVec.ofInt 64 (c.par.getD 8 0), BitVec.ofInt 64 (c.par.getD 7 0)⟩
  if (s.core target).hq.length < 16 then
    (s.modCore target fun x => { x with hq := x.hq ++ [r] }).complete c 0
  else (s.modCore target fun x => { x with hqWait := x.hqWait ++ [(c.uid, r)] }).setCmd { c with sent := 1 }

/-- A started CP-family command moves on by at most `n` pieces (R132 to R137). -/
def State.copyLoop (s : State) (uid : Nat) : Nat → State
  | 0 => s
  | n + 1 =>
    match s.cmd uid with
    | none => s
    | some c =>
      let m := (cpMember c.ins).1
      if c.failed || decide (c.sent = 1) then s
      else if (if m = 8 then decide (512 * c.parN 0 ≤ c.off) else decide (c.total ≤ c.off)) then
        if m = 7 then s.sendMessage c else s.complete c 0
      else
        match (if m = 8 then s.cpqPiece c else if m = 4 ∨ m = 5 then s.indexedPiece c else s.stridedPiece c) with
        | .ok s k => (s.modCmd uid fun x => { x with off := x.off + k }).copyLoop uid n
        | .hold s => s
        | .trap s => s

/-- An extent as a slice footprint. -/
def footOf (e : Int × Nat) (write : Bool) : Foot := ⟨.scratch, e.1.toNat, e.2, write⟩

/-- The slice bytes a CP-family command reads and writes, its record among them, from its checked parameters (R131, R266,
R292). -/
def State.copyFeet (s : State) (c : Cmd) : List Foot :=
  let m := cpMember c.ins
  let d := c.v1.toNat
  let a := c.v2.toNat
  let keep (w : Bool) (l : List Foot) : List Foot := if (if w then m.2.1 else m.2.2) then l else []
  let elems (base : Nat) : List (Int × Nat) := (List.range (c.parN 1)).map fun j =>
    ((base : Int) + (leNat (s.bytes .scratch (c.parN 2 + 4 * j) 4) : Int) * c.par.getD 3 0, c.parN 0)
  let r : List Foot := if m.1 = 3 then [footOf (c.v3.toNat, 48) false]
    else if m.1 = 2 ∨ m.1 = 4 ∨ m.1 = 5 ∨ m.1 = 7 then [footOf (c.v3.toNat, 32) false] else []
  r ++ match m.1 with
  | 4 => keep true [footOf (d, c.parN 0 * c.parN 1) true] ++ keep false ((elems a).map (footOf · false)) ++
      [footOf (c.parN 2, 4 * c.parN 1) false]
  | 5 => keep true ((elems d).map (footOf · true)) ++ keep false [footOf (a, c.parN 0 * c.parN 1) false] ++
      [footOf (c.parN 2, 4 * c.parN 1) false]
  | 8 => keep false [footOf (a, 512 * c.parN 0) false]
  | _ =>
    keep true [footOf (extent d (c.parN 0) (c.parN 1) (c.parN 2) (c.par.getD 4 0) (c.par.getD 6 0)) true] ++
    (if m.1 = 6 then []
    else keep false [footOf (extent a (c.parN 0) (c.parN 1) (c.parN 2) (c.par.getD 3 0) (c.par.getD 5 0)) false])

/-- The runs of a strided side (R131), from base, run, counts and strides: runs that follow one another within a row are one. -/
def runsOf (base : Int) (run n1 n2 : Nat) (s1 s2 : Int) : List (Int × Nat) :=
  let row : List (Int × Nat) := if s1 = run then [(0, n1 * run)] else (List.range n1).map fun (j : Nat) => ((j : Int) * s1, run)
  (List.range n2).flatMap fun (i : Nat) => row.map fun r => (base + (i : Int) * s2 + r.1, r.2)

/-- The destination bytes of a CP-family command outside scratch (R292). -/
def State.copyDests (s : State) (c : Cmd) : List OvFoot :=
  let m := cpMember c.ins
  if m.2.1 ∨ m.1 = 8 then []
  else
    let d := c.v1.toNat
    let es : List (Int × Nat) :=
      if m.1 = 4 then [((d : Int), c.parN 0 * c.parN 1)]
      else if m.1 = 5 then (List.range (c.parN 1)).map fun j =>
        ((d : Int) + (leNat (s.bytes .scratch (c.parN 2 + 4 * j) 4) : Int) * c.par.getD 3 0, c.parN 0)
      else runsOf d (c.parN 0) (c.parN 1) (c.parN 2) (c.par.getD 4 0) (c.par.getD 6 0)
    es.map fun e => ovLines 3 e.1.toNat e.2 true

/-- A CP-family command starts or goes on by at most `n` pieces: the checks of R144 once, then its pieces. -/
def State.runCopy (s : State) (c : Cmd) (n : Nat) : State :=
  if c.phase = .done then s
  else if c.par = [] then
    match s.checkCopy c with
    | .bad st a => s.trapCopy c st 0 a
    | .line b => s.trapCopyBad c 0 b
    | .ok p =>
      let c := { c with phase := .running, par := p }
      match s.forceCmd c (s.copyFeet c) [] (if s.ovOn (slotKey c.seqk) then s.copyDests c else []) with
      | .error s => s
      | .ok s => (s.setCmd c).copyLoop c.uid n
  else s.copyLoop c.uid n

/-- HANDLER_QUEUE_ACCEPT (R134): room has freed at the target, and the oldest waiting record is accepted. -/
def execHandlerQueueAccept (core : Nat) (s : State) : Out :=
  .next (match (s.core core).hqWait with
    | [] => s
    | (uid, r) :: rest =>
      if 16 ≤ (s.core core).hq.length then s
      else
        let s1 := s.modCore core fun x => { x with hq := x.hq ++ [r], hqWait := rest }
        match s1.cmd uid with
        | some c => s1.complete { c with sent := 0 } 0
        | none => s1)

/-- HANDLER_START (R135): a dormant slot 4 takes the oldest record and starts its H sequencer. -/
def execHandlerStart (core : Nat) (s : State) : Out :=
  let sk := core * 8 + 4
  .next (match (s.core core).hq with
    | [] => s
    | r :: rest =>
      if (s.slot sk).busy || (s.slot sk).stopping.isSome || (s.core core).halted then s
      else
        let s1 := s.modCore core fun x => { x with hq := rest }
        let s2 := s1.modSlot sk fun c => { c with busy := true, nextCmd := 0, trap := none }
        s2.setSeq (sk * 4 + 3)
          { active := true, pc := r.handler, tlb := (s.seq (sk * 4 + 3)).tlb
            regs := [(1, r.payload), (2, BitVec.ofNat 64 r.length), (3, BitVec.ofNat 64 r.sender), (4, r.user)] })

/-! ### Reductions at memory (R138 to R141) -/

/-- OPER of R140 on patterns of the operator's width. -/
def reduceOp (op x y : Nat) : Nat :=
  match op with
  | 1 => fadd32 x y
  | 2 => (x + y) % 2 ^ 32
  | 3 => (x + y) % 2 ^ 64
  | 4 => round32 .rne ((val32 x).max (val32 y))
  | 5 => round32 .rne ((val32 x).min (val32 y))
  | 6 => (amoResult 6 32 fadd32 x y 0).1
  | _ => (amoResult 5 32 fadd32 x y 0).1

/-- Bytes of an element of an operator (R138). -/
def reduceBytes (op : Nat) : Nat := if op = 3 then 8 else 4

/-- The checks of R144 of a CPR: its record, its table's place, its operands, its own overlap. `par` is count, slot,
table. -/
def State.checkCpr (s : State) (c : Cmd) : Checked :=
  let o := cprOp c.ins
  s.record c c.v3 32 fun r =>
    let table := leAt r 8 8
    let n := leAt r 0 4
    let len := n * reduceBytes o.1
    if decide (table ≠ 0) && !s.extentOk c (table, 144) then .bad 1 table
    else if decide (table ≠ 0) && decide (table % 256 ≠ 0) then .bad 2 table
    else if n = 0 ∨ 65536 < n ∨ 64 ≤ leAt r 4 1 ∨ leAt r 5 3 ≠ 0 ∨ leAt r 16 16 ≠ 0 then .bad 3 c.v3.toNat
    else if o.2 && !s.extentOk c (c.v1.toNat, len) then .bad 1 c.v1.toNat
    else if !s.extentOk c (c.v2.toNat, len) then .bad 1 c.v2.toNat
    else if !o.2 && decide (table ≠ 0) then .bad 3 c.v3.toNat
    else if (s.slot (slotKey c.seqk)).det && o.2 && extentsMeet (c.v1.toNat, len) (c.v2.toNat, len) then
      .bad 7 c.v1.toNat
    else .ok [n, leAt r 4 1, table]

/-- The pattern of element `i` of a contribution's source, read and verified at its turn (R95, R140). -/
def State.cprElem (s : State) (c : Cmd) (i : Nat) : Except BadLine Nat :=
  let w := reduceBytes (cprOp c.ins).1
  match s.verify .scratch (c.v2.toNat + i * w) w with
  | some b => .error b
  | none => .ok (leNat (s.bytes .scratch (c.v2.toNat + i * w) w))

/-- A line of element `i` of a contribution fails verification (R144 status 6). -/
def State.trapElem (s : State) (c : Cmd) (i : Nat) (b : BadLine) : State :=
  s.trapCopyBad { c with off := i * reduceBytes (cprOp c.ins).1, sent := 0 } i b

/-- APPLY of R140 to a slice destination: the `n` elements from number `i` on, each in order. -/
def State.applySlice (s : State) (c : Cmd) : Nat → Nat → State
  | 0, i => s.complete { c with off := i * reduceBytes (cprOp c.ins).1 } 0
  | n + 1, i =>
    let op := (cprOp c.ins).1
    let w := reduceBytes op
    let a := c.v1.toNat + i * w
    match s.cprElem c i with
    | .error b => s.trapElem c i b
    | .ok x =>
      match s.verify .scratch a w with
      | some b => s.trapElem c i b
      | none =>
        match s.storeSlice a (leBytes w (reduceOp op (leNat (s.bytes .scratch a w)) x)) (coreOf c.seqk) with
        | .error b => s.trapElem c i b
        | .ok s => s.applySlice c n (i + 1)

/-- A contribution applied at its home slice. -/
def State.applyCpr (s : State) (c : Cmd) : State := s.applySlice { c with sent := 0 } (c.parN 0) 0

/-- The time-slot table of an open round: n and the entries, read afresh when the cursor is 0 (R139). -/
def State.roundOf (s : State) (table : Nat) : State × List Nat :=
  if Kv.has s.rounds table then (s, Kv.get [] s.rounds table)
  else
    let n := leNat (s.bytes .scratch table 1)
    let es := (List.range 64).map fun i => leNat (s.bytes .scratch (table + 16 + 2 * i) 2) % 1024
    ({ s with rounds := Kv.put s.rounds table (n :: es) }, n :: es)

/-- The cursor of a table block (R139). -/
def State.cursor (s : State) (table : Nat) : Nat := leNat (s.bytes .scratch (table + 8) 1)

/-- The cursor moves past an admitted contribution; the last one closes the round (R140). -/
def State.advanceRound (s : State) (table n : Nat) : State :=
  let cur := s.cursor table + 1
  let tag := originTag 5 (table / 2 ^ 23)
  if cur < n then s.poke .scratch (table + 8) [BitVec.ofNat 8 cur] tag
  else
    let r := leNat (s.bytes .scratch (table + 4) 4) + 1
    { (s.poke .scratch (table + 8) [0] tag).poke .scratch (table + 4) (leBytes 4 r) tag with
      rounds := Kv.del s.rounds table }

/-- A contribution whose turn has come at its home (R140): it is applied and the cursor moves on, if the line of the table
that holds the cursor and the round passes verification (R96). -/
def State.admitCpr (s : State) (c : Cmd) (n : Nat) : State :=
  match s.verify .scratch (c.parN 2) 16 with
  | some b => s.trapCopyBad { c with sent := 0 } 0 b
  | none =>
    let s1 := s.applyCpr c
    if (s1.cmd c.uid).any (·.failed) then s1 else s1.advanceRound (c.parN 2) n

/-- A CPR with a slice destination (R138, R140). -/
def sliceCpr (i : Instr) : Bool := decide (engineOf i = 1) && decide ((cpMember i).1 = 0) && (cprOp i).2

/-- CPR_ARRIVAL (R140): a contribution with a slice destination reaches its home: applied, held, refused, or faulted
by its table. R144 names nothing for bits [31:8] of status 4; they hold the sender's slot in the table (DESIGN CHOICE,
log 101). -/
def State.cprArrive (s : State) (c : Cmd) : State :=
  let op := (cprOp c.ins).1
  let table := c.parN 2
  let home := c.v1.toNat / 2 ^ 23
  if c.sent ≠ 1 ∨ sliceCpr c.ins = false ∨ c.failed = true then s
  else if table = 0 then (if op = 1 then s.trapCopy c 5 0 c.v1.toNat else s.applyCpr c)
  else if table / 2 ^ 23 ≠ home then s.trapCopy c 4 0 table
  else
    match s.verify .scratch table 144 with
    | some b => s.trapCopyBad c 0 b
    | none =>
      let r := s.roundOf table
      let n := r.2.headD 0
      let slot := c.parN 1
      if slot < n ∧ coreExists (r.2.getD (slot + 1) 0) = false then s.trapCopy c 1 slot table
      else if n ≤ slot ∨ r.2.getD (slot + 1) 0 ≠ coreOf c.seqk then s.trapCopy c 4 slot table
      else if s.cursor table = slot then r.1.admitCpr c n
      else if ((s.cmds.filter fun x => decide (x.sent = 2) && decide (x.v1.toNat / 2 ^ 23 = home)).length) < 16 then
        r.1.setCmd { c with sent := 2 }
      else r.1.setCmd { c with sent := 3 }

/-- CPR_ARRIVAL of the opcode table. -/
def execCprArrival (uid : Nat) (s : State) : Out :=
  .next (match s.cmd uid with
    | some c => s.cprArrive c
    | none => s)

/-- A held contribution at a home whose table's cursor has reached its slot. -/
def State.admissible (s : State) (core : Nat) : Option Cmd :=
  s.cmds.find? fun c => decide (c.sent = 2) && !c.failed && decide (c.v1.toNat / 2 ^ 23 = core) &&
    decide (s.cursor (c.parN 2) = c.parN 1)

/-- CPR_ADMIT (R140): a held contribution is applied once the cursor reaches its slot. -/
def execCprAdmit (core : Nat) (s : State) : Out :=
  .next (match s.admissible core with
    | none => s
    | some c => (s.roundOf (c.parN 2)).1.admitCpr c ((s.roundOf (c.parN 2)).2.headD 0))

/-- CPR_REFUSED_RETRY (R140): a refused contribution is sent again. -/
def execCprRefusedRetry (uid : Nat) (s : State) : Out :=
  .next (match s.cmd uid with
    | some c => if c.sent = 3 ∧ sliceCpr c.ins = true then s.setCmd { c with sent := 1 } else s
    | none => s)

/-- Where element `i` of a CPR with a virtual destination stands: physical address, class and length, in one piece, or in
two where it runs over the end of a page (R84, R141). An element that runs past 2^55 ends the command with status 1, as a
copy's piece does (DESIGN CHOICE, log 10). `c` stands at the element. -/
def State.elemPlaces (s : State) (c : Cmd) (i : Nat) : Piece (List (Nat × Nat × Nat)) :=
  let w := reduceBytes (cprOp c.ins).1
  let va := c.v1.toNat + i * w
  let n := min w (65536 - va % 65536)
  let look (s : State) (va n : Nat) : Piece (Nat × Nat × Nat) :=
    match s.xlateCopy c va 1 true with
    | (s, .hold) => .hold s
    | (s, .fault code _) => .trap (s.trapCopyFault c code i va)
    | (s, .bad b) => .trap (s.trapCopyBad c i b)
    | (s, .ok pa cls) => .ok s (pa, cls, n)
  if 2 ^ 55 < va + w then .trap (s.trapCopy c 1 i va)
  else
    match look s va n with
    | .hold s => .hold s
    | .trap s => .trap s
    | .ok s x =>
      if n = w then .ok s [x]
      else
        match look s (va + n) (w - n) with
        | .hold s => .hold s
        | .trap s => .trap s
        | .ok s y => .ok s [x, y]

/-- Bytes of an element written over its places. -/
def State.writePlaces (s : State) (c : Cmd) : List (Nat × Nat × Nat) → List Byte → Except BadLine State
  | [], _ => .ok s
  | p :: rest, bs =>
    match s.storeAll .main (memKey p.1) (bs.take p.2.2) (originTag 0 (coreOf c.seqk)) (originTag 0 (coreOf c.seqk)) with
    | .error b => .error b
    | .ok s => (s.noteWrite c p.1).writePlaces c rest (bs.drop p.2.2)

/-- The `n` elements from number `i` on of a CPR to a normal page, each performed atomically at the memory-side atomic unit
(R141). R141 and R144 name the class of a contribution's first page; a later page of another class ends it with code 6
there (DESIGN CHOICE, log 102). -/
def State.applyMain (s : State) (c : Cmd) : Nat → Nat → State
  | 0, i => s.complete { c with off := i * reduceBytes (cprOp c.ins).1 } 0
  | n + 1, i =>
    let op := (cprOp c.ins).1
    let w := reduceBytes op
    let c := { c with off := i * w }
    match s.cprElem c i with
    | .error b => s.trapElem c i b
    | .ok x =>
      match s.elemPlaces c i with
      | .hold s => s.modCmd c.uid fun x => { x with off := i * w }
      | .trap s => s
      | .ok s ps =>
        match ps.findSome? fun p => s.verify .main (memKey p.1) p.2.2 with
        | some b => s.trapElem c i b
        | none =>
          if ps.any fun p => decide (p.2.1 ≠ 0) then s.trapCopyFault c 6 i (c.v1.toNat + i * w)
          else
            let old := leNat (ps.flatMap fun p => s.bytes .main (memKey p.1) p.2.2)
            match s.writePlaces c ps (leBytes w (reduceOp op old x)) with
            | .error b => s.trapElem c i b
            | .ok s => s.applyMain c n (i + 1)

/-- The `n` elements from number `i` on of a contribution to reduction windows, each with its window, its offset at the
home, page by page, and its value (R142); none while it waits or when it faults. -/
def State.windowElems (s : State) (c : Cmd) : Nat → Nat → List (Nat × RedElem) → State × Option (List (Nat × RedElem))
  | 0, _, acc => (s, some acc)
  | n + 1, i, acc =>
    let w := reduceBytes (cprOp c.ins).1
    let va := c.v1.toNat + i * w
    match s.cprElem c i with
    | .error b => (s.trapElem c i b, none)
    | .ok x =>
      match s.elemPlaces { c with off := i * w } i with
      | .hold s => (s, none)
      | .trap s => (s, none)
      | .ok s ps =>
        if ps.any (fun p => decide (p.2.1 ≠ 2)) || !s.inWindow va then (s.trapCopyFault { c with off := i * w } 6 i va, none)
        else
          let e : RedElem :=
            { at' := (ps.headD (0, 0, 0)).1 % 2 ^ 40, num := i, value := BitVec.ofNat 64 x
              tail := match ps with
                | [p, q] => some (p.2.2, q.1 % 2 ^ 40)
                | _ => none }
          s.windowElems c n (i + 1) (acc ++ [((s.winAt va).elim 0 (·.1), e)])

/-- Elements of a contribution, of `w` bytes each, in packets: of one window, one round and one run of addresses, in at most
16 data flits (R381). -/
def redRuns (w : Nat) : List (Nat × Nat × RedElem) → List (Nat × Nat × List RedElem)
  | [] => []
  | (win, round, e) :: rest =>
    match redRuns w rest with
    | (win', round', f :: l) :: t =>
      if win = win' ∧ round = round' ∧ e.at' + w = f.at' ∧ (l.length + 2) * w ≤ 4096 then (win, round, e :: f :: l) :: t
      else (win, round, [e]) :: (win', round', f :: l) :: t
    | t => (win, round, [e]) :: t

/-- The round that a rank's next contribution to an element joins (R142): those closed, and those it is held behind. -/
def State.roundAt (s : State) (win rank at' : Nat) : Nat :=
  ((s.host.redwins.find? fun w => w.1 == win).elim 0 fun w => Kv.get 0 w.2.closed at') +
  (s.contribs.filter fun c => decide (c.win = win) && decide (c.rank = rank) && c.elems.any fun e => decide (e.at' = at')).length

/-- A contribution sent to the switches (R142, R381): its elements go to the windows that their own addresses lie in. The
packets name the home's rank and carry the elements in lines filled up with zeros (DESIGN CHOICE, log 121). -/
def State.cprWindow (s : State) (c : Cmd) : State :=
  match s.windowElems c (c.parN 0) 0 [] with
  | (s, none) => s
  | (s, some es) =>
    let op := (cprOp c.ins).1
    let runs := redRuns (reduceBytes op) (es.map fun e => (e.1, s.roundAt e.1 s.host.rank e.2.at', e.2))
    { s.modCmd c.uid fun x => { x with sent := 4 } with
      contribs := s.contribs ++ (es.map (·.1)).eraseDups.map fun w =>
        ⟨w, s.host.rank, c.uid, op, 0, (es.filter fun e => decide (e.1 = w)).map (·.2)⟩
      fabricOut := s.fabricOut ++ runs.map fun r =>
        { typ := 5, cls := c.traffic, src := s.host.rank
          dst := (s.host.redwins.find? fun w => w.1 == r.1).elim 0 fun w => w.2.ranks.getD w.2.home 0
          pa := (r.2.2.map (·.at')).headD 0
          data := flitLines (originTag 0 (coreOf c.seqk)) (r.2.2.flatMap fun e => leBytes (reduceBytes op) e.value.toNat)
          window := r.1, round := r.2.1 % 256 } }

/-- Bytes of a CPR's contribution. -/
def cprLen (c : Cmd) : Nat := c.parN 0 * reduceBytes (cprOp c.ins).1

/-- The slice bytes a CPR reads and writes: its record, its table, its source and its destination (R138, R292). -/
def cprFeet (c : Cmd) : List Foot :=
  [⟨.scratch, c.v3.toNat, 32, false⟩, ⟨.scratch, c.v2.toNat, cprLen c, false⟩] ++
  (if c.parN 2 = 0 then [] else [⟨.scratch, c.parN 2, 144, false⟩]) ++
  (if (cprOp c.ins).2 then [⟨.scratch, c.v1.toNat, cprLen c, true⟩] else [])

/-- A CPR with a virtual destination, by the class of its page (R141, R142): the class is the last check of its start
(R144 step 4), and what R293 compares comes before its first access. -/
def State.cprVirtual (s : State) (c : Cmd) : State :=
  let op := (cprOp c.ins).1
  let i := c.off / reduceBytes op
  match s.elemPlaces c i with
  | .hold s => s
  | .trap s => s
  | .ok s ps =>
    let cls := (ps.headD (0, 0, 0)).2.1
    let begun := decide (c.par.getD 3 0 = 1)
    let c := { (s.cmd c.uid).getD c with par := c.par.take 3 ++ [1] }
    if cls = 0 ∧ op = 1 then s.trapCopy c 5 0 c.v1.toNat
    else
      match (if begun then .ok s else s.forceCmd c (cprFeet c) [] [ovLines 3 c.v1.toNat (cprLen c) true]) with
      | .error s => s
      | .ok s => if cls = 2 then (s.setCmd c).cprWindow c else (s.setCmd c).applyMain c (c.parN 0 - i) i

/-- A CPR starts, or goes on after an answer (R138 to R142): a contribution to a slice is sent to its home. -/
def State.runCpr (s : State) (c : Cmd) : State :=
  if c.phase = .done ∨ c.failed = true ∨ c.sent ≠ 0 then s
  else if c.par = [] then
    match s.checkCpr c with
    | .bad st a => s.trapCopy c st 0 a
    | .line b => s.trapCopyBad c 0 b
    | .ok p =>
      let c := { c with phase := .running, par := p }
      if !(cprOp c.ins).2 then (s.setCmd c).cprVirtual c
      else
        match s.forceCmd c (cprFeet c) with
        | .error s => s
        | .ok s => s.setCmd { c with sent := 1 }
  else if (cprOp c.ins).2 then s.setCmd { c with sent := 1 } else s.cprVirtual c

end Sys2Proof.Machine
end

