-- ==== Sys2Proof/Machine/Keccak.lean ====
section
/-! DEFINITION. SHAKE256 as far as names need it (R101): the first 112 bits of its output. The permutation's state is a
list of 25 words, that of column x and row y at 5y + x; its constants are computed, not listed. -/

namespace Sys2Proof.Machine

/-- A word turned by `n` places towards its high end. -/
def turnWord (n v : Nat) : Nat := v * 2 ^ n % 2 ^ 64 + v / 2 ^ (64 - n)

/-- The parity of each column, folded into the words of its right and left neighbours. -/
def mixColumns (a : List Nat) : List Nat :=
  let parity := (List.range 5).map fun x => (a.zipIdx.filter fun w => decide (w.2 % 5 = x)).foldl (fun p w => p ^^^ w.1) 0
  a.zipIdx.map fun w => w.1 ^^^ parity.getD ((w.2 + 4) % 5) 0 ^^^ turnWord 1 (parity.getD ((w.2 + 1) % 5) 0)

/-- The words but the first move along one closed path from (1, 0): each goes to the next place, turned by the triangular
number of its step. -/
def moveWords (a : List Nat) : List Nat :=
  ((List.range 24).foldl (fun (acc : List Nat × Nat × Nat) t =>
    let x := acc.2.1
    let y := acc.2.2
    let z := (2 * x + 3 * y) % 5
    (acc.1.set (5 * z + y) (turnWord ((t + 1) * (t + 2) / 2 % 64) (a.getD (5 * y + x) 0)), y, z)) (a, 1, 0)).1

/-- Each word takes the bits that its right neighbour lacks and the next one has; a row is five words. -/
def mixRow : List Nat → List Nat
  | [p, q, r, s, t] =>
    let without (u v : Nat) : Nat := v ^^^ (u &&& v)
    [p ^^^ without q r, q ^^^ without r s, r ^^^ without s t, s ^^^ without t p, t ^^^ without p q]
  | l => l

/-- Rows mixed, `n` of them. -/
def mixRows : Nat → List Nat → List Nat
  | 0, _ => []
  | n + 1, a => mixRow (a.take 5) ++ mixRows n (a.drop 5)

/-- The next state of the register of eight bits whose lowest bit makes the round constants. -/
def nextTap (r : Nat) : Nat := if 128 ≤ r then (2 * r) ^^^ 0x171 else 2 * r

/-- A round's constant from the register's state, with the state after its seven bits: bit j stands at 2^j - 1. -/
def roundConstant (r : Nat) : Nat × Nat :=
  (List.range 7).foldl (fun (acc : Nat × Nat) j => (acc.1 + acc.2 % 2 * 2 ^ (2 ^ j - 1), nextTap acc.2)) (0, r)

/-- `n` rounds from a state of the register. -/
def permute : Nat → Nat → List Nat → List Nat
  | 0, _, a => a
  | n + 1, r, a =>
    let c := roundConstant r
    permute n c.2 ((mixRows 5 (moveWords (mixColumns a))).modify 0 (· ^^^ c.1))

/-- Blocks of 136 bytes taken into the state, `n` of them, each followed by the 24 rounds. -/
def takeIn : Nat → List Byte → List Nat → List Nat
  | 0, _, a => a
  | n + 1, bs, a => takeIn n (bs.drop 136) (permute 24 1 (a.zipIdx.map fun w => w.1 ^^^ leAt (bs.take 136) (8 * w.2) 8))

/-- Bytes 0 to 13 of SHAKE256, byte 0 the most significant (R101). The message is closed by the bits 1111 and a 1, and by
a 1 at the end of its last block. -/
def shake112 (m : List Byte) : BitVec 112 :=
  let free := 135 - m.length % 136
  let closed := m ++ (if free = 0 then [0x9F] else 0x1F :: (zeros (free - 1) ++ [0x80]))
  let a := takeIn (closed.length / 136) closed (List.replicate 25 0)
  BitVec.ofNat 112 ((((a.take 2).flatMap (leBytes 8)).take 14).foldl (fun v b => v * 256 + b.toNat) 0)

end Sys2Proof.Machine
end

