-- ==== Sys2Proof/Machine/Hatbox.lean ====
section
/-! DEFINITION. The CA pool, its index and the nine CA commands (R99 to R123). -/

namespace Sys2Proof.Machine

/-! ### Names (R101 to R103) -/

/-- The zero name (R102). -/
def zeroName : BitVec 128 := 0x200

/-- Fields of a name. -/
def nameHash (n : BitVec 128) : BitVec 112 := BitVec.ofNat 112 (bits n 16 112)
def nameOrd (n : BitVec 128) : Nat := bits n 12 4
def nameKind (n : BitVec 128) : Nat := bits n 8 4
/-- The octant of a name's index entry (R105). -/
def nameHome (n : BitVec 128) : Nat := bits n 16 3

/-- A name of its fields. -/
def mkName (h : BitVec 112) (ord kind : Nat) : BitVec 128 :=
  BitVec.ofNat 128 (h.toNat * 65536 + ord * 4096 + kind * 256)

/-- A well-formed name (R103); the null name is none. -/
def nameOk (n : BitVec 128) : Bool :=
  decide (n ≠ 0) && decide (bits n 0 8 = 0) && decide (nameKind n < 3) && (decide (nameKind n ≠ 2) || decide (n = zeroName))

/-- The hash bits of tagged content; an all-zero hash becomes 1 (R101). -/
def contentHash (tag : Nat) (content : List Byte) : BitVec 112 :=
  let h := shake112 (BitVec.ofNat 8 tag :: content)
  if h = 0 then 1 else h

/-- The name of a byte record (R116). -/
def recordName (content : List Byte) : BitVec 128 := mkName (contentHash 2 content) 0 0

/-- The children of a node line (R104). -/
def nodeChildren (line : List Byte) : List (BitVec 128) := (List.range 8).map fun j => BitVec.ofNat 128 (leAt line (16 * j) 16)

/-! ### The index and counts (R105 to R108) -/

/-- The entry of a name that is not absent (R108). -/
def State.entryOf (s : State) (n : BitVec 128) : Option CaEntry :=
  s.caIndex.find? fun e => decide (e.name = n) && decide (e.state ≠ 2)

/-- An entry replaced. -/
def State.setEntry (s : State) (e : CaEntry) : State :=
  { s with caIndex := s.caIndex.map fun x => if x.name = e.name then e else x }

/-- The pinned count (R106). -/
def pinned : BitVec 32 := 0xFFFFFFFF

/-- A count changed by a signed delta (R106, R107): none on underflow. A count of 0 waits for the reclaimer; any
other revives the entry. -/
def State.addCount (s : State) (e : CaEntry) (d : Int) : Option State :=
  if e.count = pinned ∨ d = 0 then some s
  else
    let n : Int := (e.count.toNat : Int) + d
    if n < 0 then none
    else if n = 0 then
      some { s.setEntry { e with count := 0, state := 1 } with
        reclaimQ := if s.reclaimQ.contains e.name then s.reclaimQ else s.reclaimQ ++ [e.name] }
    else some (s.setEntry { e with count := BitVec.ofNat 32 (min n.toNat pinned.toNat), state := 0 })

/-- A decrement that never faults: the reclaimer's, or a withdrawal (R106). The zero and null names have no count. -/
def State.softDrop (s : State) (n : BitVec 128) : State :=
  if n = zeroName ∨ n = 0 then s
  else
    match s.entryOf n with
    | none => { s with policy := s.policy ++ [PolicyRec.event "reclaim underflow" (BitVec.ofNat 64 (bits n 64 64)) (BitVec.ofNat 64 (bits n 0 64))] }
    | some e =>
      match s.addCount e (-1) with
      | some s => s
      | none =>
        { s with policy := s.policy ++ [PolicyRec.event "reclaim underflow" (BitVec.ofNat 64 (bits n 64 64)) (BitVec.ofNat 64 (bits n 0 64))] }

/-- An increment of a present name's count; the zero and null names have none. -/
def State.raise (s : State) (n : BitVec 128) : State :=
  match s.entryOf n with
  | none => s
  | some e => (s.addCount e 1).getD s

/-- RECLAIMER (R107): the octant's reclaimer takes its next entry, and frees it or returns it to live. The children of a
node line that fails verification are read as they stand (DESIGN CHOICE, log 99). -/
def State.reclaim (s : State) (octant : Nat) : State :=
  match s.reclaimQ.find? fun n => decide (nameHome n = octant) with
  | none => s
  | some n =>
    let s1 := { s with reclaimQ := s.reclaimQ.erase n }
    match s1.entryOf n with
    | none => s1
    | some e =>
      if e.count ≠ 0 then s1.setEntry { e with state := 0 }
      else
        let kids := if nameKind n = 1 then nodeChildren (s1.bytes .main e.line 128) else []
        kids.foldl (fun s k => s.softDrop k) (s1.setEntry { e with state := 2 })

def execReclaimer (octant : Nat) (s : State) : Out := .next (s.reclaim octant)

/-- Addresses of the pool lines of an octant, by number (R99). -/
def poolLine (pages : List Nat) (i : Nat) : Nat := pages.getD (i / 512) 0 + i % 512 * 128

/-- ALLOC_LINE (R117): a free line of the home octant's portion, if there is one. Which one is the module's choice:
the choice made, where that line is free, else the lowest. -/
def State.allocLine (s : State) (octant : Nat) : State × Option Nat :=
  let pages := s.pool.filter fun p => decide (p / Config.octantBytes = octant)
  let held := (s.caIndex.filter fun e => decide (e.state ≠ 2)).map (·.line)
  let free (i : Nat) : Bool := !held.contains (poolLine pages i)
  let r := s.choose (512 * pages.length)
  if pages.isEmpty then (s, none)
  else if r.2 ≠ 0 ∧ free r.2 = true then (r.1, some (poolLine pages r.2))
  else (r.1, ((List.range (min (512 * pages.length) (held.length + 1))).find? free).map (poolLine pages))

/-- What a lookup by content finds (R110): a match, or the lowest ordinal that is free or absent (16: none), with the
names of the true collisions met; or a pool line that fails verification. -/
inductive Probe where
  | hit (e : CaEntry) (collisions : List (BitVec 128))
  | miss (ord : Nat) (collisions : List (BitVec 128))
  | bad (b : BadLine) (collisions : List (BitVec 128))

/-- The entry, free ones included, of a hash at an ordinal. -/
def State.place (s : State) (h : BitVec 112) (ord : Nat) : Option CaEntry :=
  s.caIndex.find? fun e => decide (nameHash e.name = h) && decide (nameOrd e.name = ord)

/-- The highest ordinal held for a hash. -/
def State.hiord (s : State) (h : BitVec 112) : Nat :=
  match s.place h 0 with
  | some e => e.hiord
  | none => 0

/-- The probe of ordinals from `ord` on, `n` of them. -/
def State.probe (s : State) (h : BitVec 112) (c : List Byte) : Nat → Nat → Option Nat → List (BitVec 128) → Probe
  | 0, ord, free, cs => .miss (free.getD ord) cs
  | n + 1, ord, free, cs =>
    match s.place h ord with
    | none => s.probe h c n (ord + 1) (some (free.getD ord)) cs
    | some e =>
      if e.state = 2 then s.probe h c n (ord + 1) (some (free.getD ord)) cs
      else
        match s.verify .main e.line 128 with
        | some b => .bad b cs
        | none =>
          if s.bytes .main e.line 128 = c then .hit e cs
          else s.probe h c n (ord + 1) free (cs ++ [e.name])

/-- A lookup for content (R110). -/
def State.lookup (s : State) (h : BitVec 112) (c : List Byte) : Probe := s.probe h c (s.hiord h + 1) 0 none []

/-- True collisions counted and reported (R110, R111). -/
def State.collide (s : State) (core : Nat) (ns : List (BitVec 128)) : State :=
  ns.foldl (fun s n =>
    { s.modCore core fun c => { c with cacoll := if c.cacoll = pinned then pinned else c.cacoll + 1 } with
      policy := s.policy ++ [PolicyRec.collision n core s.time] }) s

/-- A new entry with count 1 at an ordinal, its line written with origin kind 2 (R99, R115). -/
def State.enterLine (s : State) (h : BitVec 112) (ord kind p core : Nat) (line : List Byte) : State :=
  let n := mkName h ord kind
  let top := max (s.hiord h) ord
  let s1 := s.poke .main p line (originTag 2 core)
  let keep := s1.caIndex.filter fun e => !(decide (nameHash e.name = h) && decide (nameOrd e.name = ord))
  let hi := keep.map fun e => if nameHash e.name = h ∧ nameOrd e.name = 0 then { e with hiord := top } else e
  { s1 with caIndex := hi ++ [⟨n, p, top, 0, 1⟩] }

/-- What INTERN gives (R115): a name with its status, a wait for a pool line, or a CA status with the child's index
and the collision's name. -/
inductive Interned where
  | ok (s : State) (name : BitVec 128) (status : Nat)
  | wait (s : State)
  | fault (s : State) (status index : Nat) (name : BitVec 128)
  | bad (s : State) (b : BadLine)

/-- INTERN from the probe on (R115), for a line that is not the zero line. `first` is false when the probe is made
again after a wait. -/
def State.intern (s : State) (line : List Byte) (kind core : Nat) (first : Bool) : Interned :=
  let h := contentHash kind line
  let kids := if kind = 1 then nodeChildren line else []
  match s.lookup h line with
  | .bad b cs => .bad (if first then s.collide core cs else s) b
  | .hit e cs =>
    let s := if first then s.collide core cs else s
    .ok ((s.addCount e 1).getD s) (mkName h (nameOrd e.name) kind) (nameOrd e.name * 16)
  | .miss ord cs =>
    let s := if first then s.collide core cs else s
    if 16 ≤ ord then .fault s 8 0 (match s.place h 0 with | some e => e.name | none => 0)
    else
      match s.allocLine (nameHome (mkName h ord kind)) with
      | (s, none) => .wait s
      | (s', some p) =>
        match kids.zipIdx.find? fun c => c.1 ≠ zeroName && (s.entryOf c.1).isNone with
        | some c => .fault s 3 c.2 0
        | none =>
          .ok ((kids.foldl (fun s c => s.raise c) s').enterLine h ord kind p core line) (mkName h ord kind) (1 + ord * 16)

/-! ### The commands (R112 to R122) -/

/-- The fault code of a CA status (R123). -/
def caCode (st : Nat) : Nat :=
  match st with
  | 5 => 3
  | 6 => 5
  | 7 => 5
  | 8 => 8
  | 9 => 9
  | 10 => 7
  | _ => 6

/-- A trap of the CA unit: its status, level and index (R123). -/
def State.trapCa (s : State) (c : Cmd) (status level index addr : Nat) : State :=
  s.trapCmd c (s.cmdRec c (caCode status) 7 (status + level % 16 * 16 + index * 256) 0 addr)

/-- A trap of the CA unit for a line that fails verification. -/
def State.trapCaBad (s : State) (c : Cmd) (level index : Nat) (b : BadLine) : State :=
  s.trapCmd c ((s.cmdRec c 7 7 (10 + level % 16 * 16 + index * 256) 0 0).withBad b)

/-- The CA collision fault (R110, R347). -/
def State.trapCollision (s : State) (c : Cmd) (n : BitVec 128) : State :=
  s.trapCmd c (s.cmdRec c 8 7 8 (bits n 0 72) (bits n 72 56))

/-- The fault of a declined request (R89). -/
def State.trapCaFault (s : State) (c : Cmd) (code va : Nat) : State := s.trapCmd c (s.cmdRec c code 7 0 0 va)

/-- Slice operands of a command: address, bytes, alignment (R112). -/
def caOperands (c : Cmd) : List (Nat × Nat × Nat) :=
  let a := c.v1.toNat
  let b := c.v2.toNat
  match caSub c.ins with
  | 1 => [(a, 128, 128), (b, 16, 16)]
  | 2 => [(a, 128, 128), (b, 16, 16)]
  | 3 => [(a, c.v3.toNat, 1), (b, 16, 16)]
  | 4 => [(a, 16, 16), (b, 128, 128)]
  | 5 => [(a, 16, 16), (b, 128 * bits c.v3 0 24, 128)]
  | 7 => [(b, 16, 16), (c.v3.toNat, 16, 16)]
  | _ => [(a, 16, 16)]

/-- The slice bytes a command writes, or may write. -/
def caFeet (c : Cmd) : List Foot :=
  let b := c.v2.toNat
  let reads := (caOperands c).map fun o => (⟨.scratch, o.1, o.2.1, false⟩ : Foot)
  match caSub c.ins with
  | 4 => ⟨.scratch, b, 128, true⟩ :: reads
  | 5 => ⟨.scratch, b, 128 * bits c.v3 0 24, true⟩ :: reads
  | 6 => reads
  | 8 => reads
  | 9 => reads
  | _ => ⟨.scratch, b, 16, true⟩ :: reads

/-- The name in a cell of a slice. -/
def State.nameAt (s : State) (a : Nat) : BitVec 128 := BitVec.ofNat 128 (leNat (s.bytes .scratch a 16))

/-- The addresses of the name cells a command reads. -/
def caCells (c : Cmd) : List Nat :=
  match caSub c.ins with
  | 4 => [c.v1.toNat]
  | 5 => [c.v1.toNat]
  | 6 => [c.v1.toNat]
  | 7 => [c.v2.toNat, c.v3.toNat]
  | 8 => [c.v1.toNat]
  | 9 => [c.v1.toNat]
  | _ => []

/-- What the checks of R113 give: status, address, or a bad line; none: they pass. -/
inductive CaCheck where
  | ok
  | bad (status addr : Nat)
  | line (b : BadLine)

/-- The checks of R113 in order. -/
def State.checkCa (s : State) (c : Cmd) : CaCheck :=
  let sub := caSub c.ins
  let sk := slotKey c.seqk
  let ops := caOperands c
  let virt := if sub = 7 then c.v1.toNat else if sub = 8 then c.v2.toNat else 0
  let l := bits c.v3 0 24
  let peer := if sub = 4 then c.v3.toNat else bits c.v3 32 9
  let walk := decide (sub = 5) || decide (sub = 8)
  match ops.find? fun o => !(sliceOk o.1 o.2.1 && s.window sk o.1 o.2.1) with
  | some o => .bad 5 o.1
  | none =>
    match ops.find? fun o => decide (o.1 % o.2.2 ≠ 0) with
    | some o => .bad 5 o.1
    | none =>
      if virt % (if sub = 8 then 128 else 16) ≠ 0 then .bad 5 virt
      else if sub = 3 ∧ (c.v3.toNat = 0 ∨ 65536 < c.v3.toNat) then .bad 4 0
      else if (sub = 4 ∨ walk = true) ∧ 256 < peer then .bad 4 0
      else if walk = true ∧ (l = 0 ∨ 34816 < l ∨ bits c.v3 24 8 ≠ 0 ∨ bits c.v3 41 23 ≠ 0 ∨ (sub = 8 ∧ peer ≠ 0)) then
        .bad 4 0
      else
        match (caCells c).findSome? fun a => s.verify .scratch a 16 with
        | some b => .line b
        | none =>
          let names := (caCells c).map s.nameAt
          if walk = true ∧ 1 < l ∧ names.any (fun n => decide (nameKind n = 0)) then .bad 4 0
          else if names.any fun n => !(nameOk n || (decide (sub = 7) && decide (n = 0))) then .bad 1 0
          else .ok

/-- A name written to a cell of a slice; the line that fails, if one does. -/
def State.putName (s : State) (c : Cmd) (a : Nat) (n : BitVec 128) : Except BadLine State :=
  s.storeSlice a (leBytes 16 n.toNat) (coreOf c.seqk)

/-- CAPUT and CANODE (R115, R117). `c.par` holds the line as read at the start, and the TIME at which the wait for a
pool line began, when `c.sent` is 1. -/
def State.caIntern (s : State) (c : Cmd) : State :=
  let kind := caSub c.ins - 1
  let a := c.v1.toNat
  let line := leBytes 128 (c.parN 0)
  let kids := if kind = 1 then nodeChildren line else []
  let core := coreOf c.seqk
  let finish (t : State) (n : BitVec 128) (st : Nat) : State :=
    match t.putName c c.v2.toNat n with
    | .error b => { s with cores := t.cores, policy := t.policy }.trapCaBad c 0 0 b
    | .ok t => t.complete { c with sent := 0 } (BitVec.ofNat 64 st)
  match kids.zipIdx.find? fun k => !nameOk k.1 with
  | some k => s.trapCa c 1 0 k.2 a
  | none =>
    if (kind = 0 ∧ line = zeros 128) ∨ (kind = 1 ∧ kids.all (fun k => decide (k = zeroName)) = true) then finish s zeroName 0
    else
      match (if c.sent = 0 then s.verify .scratch a 128 else none) with
      | some b => s.trapCaBad c 0 0 b
      | none =>
        match s.intern line kind core (decide (c.sent = 0)) with
        | .ok t n st => finish t n st
        | .bad t b => t.trapCaBad c 0 0 b
        | .fault t st i n => if st = 8 then t.trapCollision c n else t.trapCa c st 0 i a
        | .wait t =>
          if c.sent = 1 then t
          else
            { t.setCmd { c with sent := 1, par := [c.par.headD 0, (s.time.toNat : Int)] } with
              policy := t.policy ++ [PolicyRec.event "pool wait" (BitVec.ofNat 64 core) s.time] }

/-- Two heartbeat periods of a core, in nanoseconds (R188, R191). -/
def State.twoBeats (s : State) (core : Nat) : Nat := 2000 * max 10 (s.core core).hbper.toNat

/-- CA_POOL_WAIT_TIMEOUT (R117): status 6 when two heartbeat periods have passed since the wait began. -/
def execCaPoolWaitTimeout (uid : Nat) (s : State) : Out :=
  .next (match s.cmd uid with
    | none => s
    | some c =>
      if c.sent = 1 ∧ c.failed = false ∧ engineOf c.ins = 7 ∧ (caSub c.ins = 1 ∨ caSub c.ins = 2) ∧
          c.parN 1 + s.twoBeats (coreOf c.seqk) ≤ s.time.toNat then s.trapCa { c with sent := 0 } 6 0 0 0
      else s)

/-- CAHASH (R116). -/
def State.caHash (s : State) (c : Cmd) : State :=
  match s.verify .scratch c.v1.toNat c.v3.toNat with
  | some b => s.trapCaBad c 0 0 b
  | none =>
    match s.putName c c.v2.toNat (recordName (s.bytes .scratch c.v1.toNat c.v3.toNat)) with
    | .error b => s.trapCaBad c 0 0 b
    | .ok s => s.complete c 0

/-- Why a line could not be read: a CA status, a line that fails verification, or a name that has still to be looked up at
a rank. -/
inductive CaMiss where
  | status (n : Nat)
  | bad (b : BadLine)
  | ask (rank : Nat) (n : BitVec 128)

/-- A peer's answer to a read of a command has come (R381). -/
def State.answered' (s : State) (uid pa : Nat) : Bool := s.peerReads.any fun r => decide (r.1 = uid) && decide (r.2.1 = pa) && r.2.2

/-- Where the line of a name stands: in this module, when the peer is none or this module itself, or at a peer, in whose
index the name is looked up over the fabric (R121). -/
def State.caPlace (s : State) (uid peer : Nat) (n : BitVec 128) : Except CaMiss Nat :=
  if peer = 0 ∨ peer - 1 = s.host.rank then
    match s.entryOf n with
    | some e => .ok e.line
    | none => .error (.status 2)
  else
    match s.peerIndex.find? fun e => decide (e.1 = uid) && decide (e.2.1 = n) with
    | some e => .ok e.2.2
    | none => .error (if s.answered' uid (lookupKey (peer - 1) n) then .status 2 else .ask (peer - 1) n)

/-- A line by name, here or at a peer (R121): its bytes and tag. ZN's line is made at the core. -/
def State.caLine (s : State) (uid core peer : Nat) (n : BitVec 128) : Except CaMiss (List Byte × BitVec 16) :=
  if n = zeroName then .ok (zeros 128, originTag 2 core)
  else
    match s.caPlace uid peer n with
    | .error e => .error e
    | .ok p =>
      match s.verify .main p 128 with
      | some b => .error (.bad b)
      | none =>
        let d := s.bytes .main p 128
        if peer ≠ 0 ∧ contentHash (nameKind n) d ≠ nameHash n then .error (.status 10) else .ok (d, s.lineTag p)

/-- A command looks a name up at a peer (R121, R381): one packet for each name. No packet of R381 carries a name; the model's
holds it in its first line (DESIGN CHOICE, log 108). -/
def State.askPeer (s : State) (c : Cmd) (rank : Nat) (n : BitVec 128) : State :=
  if s.peerReads.any fun r => decide (r.1 = c.uid) && decide (r.2.1 = lookupKey rank n) then s
  else
    { s with
      peerReads := s.peerReads ++ [(c.uid, lookupKey rank n, false)]
      fabricOut := s.fabricOut ++ [{ typ := 1, cls := c.traffic, src := s.host.rank, dst := rank, pa := 2 ^ 40
                                     data := flitLines (originTag 0 (coreOf c.seqk)) (leBytes 16 n.toNat) }] }

/-- A command's reads and lookups at peers are over. -/
def State.dropReads (s : State) (c : Cmd) : State :=
  { s with
    peerReads := s.peerReads.filter fun r => decide (r.1 ≠ c.uid)
    peerIndex := s.peerIndex.filter fun e => decide (e.1 ≠ c.uid) }

/-- A line that could not be read: a trap, or a wait for the peer. -/
def State.trapCaLine (s : State) (c : Cmd) (level index : Nat) (e : CaMiss) : State :=
  match e with
  | .bad b => (s.dropReads c).trapCaBad c level index b
  | .status n => (s.dropReads c).trapCa c n level index 0
  | .ask rank n => s.askPeer c rank n

/-- The peer named is a member of the gang, this module among them (R121). -/
def State.peerOk (s : State) (peer : Nat) : Bool :=
  decide (peer = 0) || s.peers.contains (peer - 1) || (!s.host.gang.isEmpty && decide (peer - 1 = s.host.rank))

/-- CAGET (R121). -/
def State.caGet (s : State) (c : Cmd) : State :=
  if !s.peerOk c.v3.toNat then s.trapCa c 7 0 0 0
  else
    match s.caLine c.uid (coreOf c.seqk) c.v3.toNat (BitVec.ofNat 128 (c.parN 0)) with
    | .error e => s.trapCaLine c 0 0 e
    | .ok d => ((s.dropReads c).poke .scratch c.v2.toNat d.1 d.2).complete c 0

/-- The depth of a tree of `l` lines (R104). -/
def treeDepth (l : Nat) : Nat := ((List.range 8).find? fun d => decide (l ≤ 8 ^ d)).getD 8

/-- What a walk collects: lines with tags, or what stops it, with its level (the root is level 0) and leaf index (of an
inner name, the first leaf under it): DESIGN CHOICE, log 97. -/
abbrev Walked := Except (CaMiss × Nat × Nat) (List (List Byte × BitVec 16))

/-- Leaves `first` to `l` − 1 under a name, `left` levels above the leaves (R104, R121). A malformed child name has
R104's status 3, not R103's 1 (DESIGN CHOICE, log 98). -/
def State.caWalk (s : State) (uid core peer l depth : Nat) : Nat → BitVec 128 → Nat → Walked
  | left, n, first =>
    let span := min (8 ^ left) (l - first)
    if n = zeroName then .ok (List.replicate span (zeros 128, originTag 2 core))
    else if nameOk n = false ∨ nameKind n ≠ (if left = 0 then 0 else 1) then .error (.status 3, depth - left, first)
    else
      match s.caLine uid core peer n with
      | .error e => .error (e, depth - left, first)
      | .ok d =>
        match left with
        | 0 => .ok [d]
        | left + 1 =>
          (nodeChildren d.1).zipIdx.foldl (fun (acc : Walked) k =>
            match acc with
            | .error e => .error e
            | .ok ls =>
              if l ≤ first + k.2 * 8 ^ left then .ok ls
              else
                match s.caWalk uid core peer l depth left k.1 (first + k.2 * 8 ^ left) with
                | .error e => .error e
                | .ok m => .ok (ls ++ m)) (.ok [])

/-- The leaves of a walk from a root name (R104). -/
def State.leaves (s : State) (uid core peer l : Nat) (root : BitVec 128) : Walked :=
  s.caWalk uid core peer l (treeDepth l) (treeDepth l) root 0

/-- Lines written one after the other to a slice. -/
def State.putLines (s : State) (a : Nat) (ls : List (List Byte × BitVec 16)) : State :=
  ls.zipIdx.foldl (fun s x => s.poke .scratch (a + 128 * x.2) x.1.1 x.1.2) s

/-- A walk that stopped: a trap, or a wait for the peer. -/
def State.trapWalk (s : State) (c : Cmd) (e : CaMiss × Nat × Nat) : State := s.trapCaLine c e.2.1 e.2.2 e.1

/-- CAWALK (R121). -/
def State.caWalkCmd (s : State) (c : Cmd) : State :=
  let peer := bits c.v3 32 9
  if !s.peerOk peer then s.trapCa c 7 0 0 0
  else
    match s.leaves c.uid (coreOf c.seqk) peer (bits c.v3 0 24) (BitVec.ofNat 128 (c.parN 0)) with
    | .error e => s.trapWalk c e
    | .ok ls => ((s.dropReads c).putLines c.v2.toNat ls).complete c 0

/-- CAREF and CAPIN (R118). -/
def State.caRef (s : State) (c : Cmd) : State :=
  let n := s.nameAt c.v1.toNat
  if n = zeroName then s.complete c 0
  else
    match s.entryOf n with
    | none => s.trapCa c 2 0 0 0
    | some e =>
      if caSub c.ins = 9 then (s.setEntry { e with count := pinned, state := 0 }).complete c (zx e.count)
      else
        match s.addCount e (c.v2.setWidth 32).toInt with
        | none => s.trapCa c 9 0 0 0
        | some s => s.complete c (zx e.count)

/-- The withdrawal of a CASWAP's increment (R106, R119): none when it would underflow. -/
def State.withdraw (s : State) (n : BitVec 128) : Option State :=
  if n = 0 ∨ n = zeroName then some s
  else
    match s.entryOf n with
    | none => none
    | some e => s.addCount e (-1)

/-- A CASWAP that faults before its exchange gives its increment back (R123). -/
def State.giveBack (s : State) (n : BitVec 128) : State := (s.withdraw n).getD s

/-- CASWAP (R119, R123): the new name's increment first, then the exchange at the cell's home, then the decrement of
the name that leaves, or the withdrawal. `c.par` holds the expected and the new name as read at the start; `c.sent` is
1 once the increment has been made, and `c.off` is 1 in a fault after the exchange (R123, bit 8). A cell at a peer is read
and written over the fabric (R381). -/
def State.caSwap (s : State) (c : Cmd) : State :=
  let va := c.v1.toNat
  let e := BitVec.ofNat 128 (c.parN 0)
  let n := BitVec.ofNat 128 (c.parN 1)
  if c.sent = 0 ∧ n ≠ 0 ∧ n ≠ zeroName ∧ (s.entryOf n).isNone = true then s.trapCa c 2 0 0 0
  else
    let s1 := if c.sent = 0 then s.raise n else s
    match s1.xlateEngine (cmdSource c 1) (s.slot (slotKey c.seqk)).troot va { kind := 1, atomic := true } with
    | (t, .hold) => t.modCmd c.uid fun x => { x with sent := 1 }
    | (t, .fault code _) => (t.giveBack n).trapCaFault { c with sent := 0 } code va
    | (t, .bad b) => (t.giveBack n).trapCaBad { c with sent := 0 } 0 0 b
    | (t, .ok pa cls) =>
      let r := if pa / 2 ^ 50 = 3 then t.readPeer c pa else (t, true)
      if cls = 2 ∧ t.inWindow va = false then (t.giveBack n).trapCaFault { c with sent := 0 } 6 va
      else if !r.2 then r.1.modCmd c.uid fun x => { x with sent := 1 }
      else
        let t := r.1
        let c := { c with sent := 0 }
        match t.verify .main (memKey pa) 16 with
        | some b => (t.giveBack n).trapCaBad c 0 0 b
        | none =>
          let old := BitVec.ofNat 128 (leNat (t.bytes .main (memKey pa) 16))
          if old ≠ e then
            match t.withdraw n with
            | none => t.trapCa c 9 0 0 va
            | some u =>
              match u.putName c c.v2.toNat old with
              | .error b => u.trapCaBad c 0 0 b
              | .ok u => u.complete c 0
          else if e ≠ 0 ∧ e ≠ zeroName ∧ (t.entryOf e).isNone = true then (t.giveBack n).trapCa c 2 0 0 va
          else
            match t.storeAll .main (memKey pa) (leBytes 16 n.toNat) (originTag 0 (coreOf c.seqk)) (originTag 0 (coreOf c.seqk)) with
            | .error b => (t.giveBack n).trapCaBad c 0 0 b
            | .ok t =>
              match (t.noteWrite c pa).withdraw e with
              | none => (t.noteWrite c pa).trapCmd { c with off := 1 } (t.cmdRec c 9 7 (9 + 256) 0 va)
              | some t => t.complete c 1

/-- A destination page of a CAOUT whose leaf is of another class than normal or host, or not writable (R113). -/
def State.outClassBad (s : State) (c : Cmd) : Option Nat :=
  let troot := (s.slot (slotKey c.seqk)).troot
  let first := c.v2.toNat / 65536
  let last := (c.v2.toNat + 128 * bits c.v3 0 24 - 1) / 65536
  (List.range (last + 1 - first)).findSome? fun i =>
    let va := (first + i) * 65536
    if bits troot 0 1 = 0 then none
    else
      match s.walk va 1 [42, 29, 16] (bits troot 16 36 * 2 ^ 16) with
      | .leaf e _ _ => if (bits e 4 2 = 0 ∨ bits e 4 2 = 3) ∧ bits e 2 1 = 1 then none else some va
      | _ => none

/-- CAOUT goes on by at most `n` lines (R122); `c.par` holds the root's name. A destination past 2^55 wraps as the walk's
index does (DEDUCED, log 10). -/
def State.caOutLoop (s : State) (uid : Nat) : Nat → State
  | 0 => s
  | n + 1 =>
    match s.cmd uid with
    | none => s
    | some c =>
      let l := bits c.v3 0 24
      let i := c.off / 128
      if c.failed || decide (c.phase = .done) then s
      else if l ≤ i then s.complete c 0
      else
        match s.leaves c.uid (coreOf c.seqk) 0 l (BitVec.ofNat 128 (c.parN 0)) with
        | .error e => s.trapWalk c e
        | .ok ls =>
          let d := ls.getD i (zeros 128, originTag 2 (coreOf c.seqk))
          let va := c.v2.toNat + c.off
          match s.xlateEngine (cmdSource c 1) (s.slot (slotKey c.seqk)).troot va { kind := 1, copy := true } with
          | (s, .hold) => s
          | (s, .fault code _) => s.trapCaFault c code va
          | (s, .bad b) => s.trapCaBad c 0 i b
          | (s, .ok pa cls) =>
            if cls ≠ 0 ∧ cls ≠ 3 then s.trapCaFault c 6 va
            else (((s.poke .main (memKey pa) d.1 d.2).noteWrite c pa).modCmd c.uid fun x => { x with off := x.off + 128 }).caOutLoop uid n

/-- What a command keeps of its operands from its start (R114): a line, or names. -/
def caLatch (s : State) (c : Cmd) : List Int :=
  if caSub c.ins = 1 ∨ caSub c.ins = 2 then [(leNat (s.bytes .scratch c.v1.toNat 128) : Int)]
  else (caCells c).map fun a => ((s.nameAt a).toNat : Int)

/-- A CA command starts, or goes on after a wait (R113, R114). -/
def State.runCa (s : State) (c : Cmd) (n : Nat) : State :=
  let sub := caSub c.ins
  let go (s : State) (c : Cmd) : State :=
    match sub with
    | 1 => s.caIntern c
    | 2 => s.caIntern c
    | 3 => s.caHash c
    | 4 => s.caGet c
    | 5 => s.caWalkCmd c
    | 7 => s.caSwap c
    | 8 => s.caOutLoop c.uid n
    | _ => s.caRef c
  if c.phase = .done ∨ c.failed = true then s
  else if c.phase = .running then go s c
  else
    match s.checkCa c with
    | .bad st a => s.trapCa c st 0 0 a
    | .line b => s.trapCaBad c 0 0 b
    | .ok =>
      match (if sub = 8 then s.outClassBad c else none) with
      | some va => s.trapCaFault c 6 va
      | none =>
        let c := { c with phase := .running, par := caLatch s c }
        match s.forceCmd c (caFeet c) with
        | .error s => s
        | .ok s => go (s.setCmd c) c

end Sys2Proof.Machine
end

