-- ==== Sys2Proof/Machine/Vector.lean ====
section
/-! DEFINITION. The vector engine: its registers, guards and runs (R194 to R212), TBLOAD and VRUN (R203 to R209), and
the shared forms of the micro-orders (R213 to R224). -/

namespace Sys2Proof.Machine

/-! ### Registers, masks, guards (R194 to R196) -/

/-- Lane `j` of a register. -/
def lane (v : VReg) (j : Nat) : BitVec 32 := v.getD j 0

/-- A register of zeros. -/
def zeroReg : VReg := List.replicate 128 0

/-- The physical register that a name reaches under a rotation offset (R195). -/
def physReg (rot n : Nat) : Nat := if n < 32 then n else 32 + (n - 32 + rot) % 96

/-- A vector register of a slot, by the name a micro-order gives it. -/
def State.vreg (s : State) (sk : Nat) (r : BitVec 7) : VReg :=
  Kv.get zeroReg (s.slot sk).vec.regs (physReg (s.slot sk).vec.rot r.toNat)

/-- The vector state of a slot changed. -/
def State.modVec (s : State) (sk : Nat) (f : VecSt → VecSt) : State :=
  s.modSlot sk fun c => { c with vec := f c.vec }

/-- The lanes of `m` taken from `new`, the others from `old` (R196). -/
def mergeLanes (m : BitVec 128) (old new : VReg) : VReg :=
  (List.range 128).map fun j => if m.getLsbD j then lane new j else lane old j

/-- A vector register written in the lanes that a guard permits. -/
def State.setVreg (s : State) (sk : Nat) (r : BitVec 7) (m : BitVec 128) (v : VReg) : State :=
  s.modVec sk fun x =>
    { x with regs := Kv.put x.regs (physReg x.rot r.toNat) (mergeLanes m (Kv.get zeroReg x.regs (physReg x.rot r.toNat)) v) }

/-- A lane mask. -/
def State.vmask (s : State) (sk : Nat) (k : Nat) : BitVec 128 := Kv.get 0 (s.slot sk).vec.masks k

/-- A lane mask written in the lanes that a guard permits (R196). -/
def State.setVmask (s : State) (sk : Nat) (k : Nat) (m v : BitVec 128) : State :=
  s.modVec sk fun x => { x with masks := Kv.put x.masks k ((v &&& m) ||| (Kv.get 0 x.masks k &&& ~~~m)) }

/-- Whether the stage predicate a guard names, if it names one, is 1 (R196). -/
def State.predOn (s : State) (sk g : Nat) : Bool :=
  decide (g = 0) || decide (8 ≤ g) || (s.slot sk).vec.pred.getLsbD (g - 1)

/-- The lanes a guard permits (R196). -/
def State.guardMask (s : State) (sk g : Nat) : BitVec 128 :=
  if g < 8 then BitVec.allOnes 128 else s.vmask sk (g - 8)

/-- Element `e` of `w` bits (R194). -/
def elem (w : Nat) (v : VReg) (e : Nat) : Nat := (lane v (e / (32 / w))).toNat / 2 ^ (w * (e % (32 / w))) % 2 ^ w

/-- The register whose elements of `w` bits a function gives (R194). -/
def ofElems (w : Nat) (f : Nat → Nat) : VReg :=
  (List.range 128).map fun j =>
    BitVec.ofNat 32 ((List.range (32 / w)).foldl (fun a q => a + f (j * (32 / w) + q) % 2 ^ w * 2 ^ (w * q)) 0)

/-- The register whose lanes a function gives. -/
def ofLanes (f : Nat → BitVec 32) : VReg := (List.range 128).map f

/-- The 512 bytes of a register (R194). -/
def vregBytes (v : VReg) : List Byte := (List.range 128).flatMap fun j => leBytes 4 (lane v j).toNat

/-- The register of 512 bytes. -/
def vregOf (b : List Byte) : VReg := (List.range 128).map fun j => BitVec.ofNat 32 (leAt b (4 * j) 4)

/-- An index register. -/
def State.index (s : State) (sk x : Nat) : BitVec 16 := Kv.get 0 (s.slot sk).vec.ix x

/-- An index register written. -/
def State.setIndex (s : State) (sk x : Nat) (v : BitVec 16) : State :=
  s.modVec sk fun y => { y with ix := Kv.put y.ix x v }

/-! ### Runs (R206, R207) -/

/-- The table word of a run (R204). -/
def Cmd.start (c : Cmd) : Nat := bits c.v1 0 12
def Cmd.last (c : Cmd) : Nat := bits c.v1 12 12
def Cmd.tid (c : Cmd) : Nat := bits c.v1 24 6
def Cmd.rmc (c : Cmd) : Nat := bits c.v1 30 2
/-- Trip count and tail passes of a run. -/
def Cmd.trips (c : Cmd) : Nat := bits c.v2 0 32
def Cmd.tails (c : Cmd) : Nat := bits c.v3 0 3

/-- The stage predicates of pass `p` of a run of `n` iterations: c_s in bit s - 1 (R206). -/
def predsOf (p n : Nat) : BitVec 7 :=
  BitVec.ofNat 7 ((List.range 7).foldl (fun a i => a + bit (decide (i ≤ p) && decide (p - i < n)) * 2 ^ i) 0)

/-- The first by rank, then the oldest, of some commands (R21). -/
def State.chooseCmd (s : State) (cs : List Cmd) : Option Cmd :=
  cs.foldl (fun (best : Option Cmd) c =>
    match best with
    | none => some c
    | some b => if s.rank (slotKey c.seqk) < s.rank (slotKey b.seqk) then some c else some b) none

/-- A run that has started and may execute: in a slot that stops, only a force run goes on (R270). -/
def State.runLive (s : State) (c : Cmd) : Bool :=
  decide (c.phase = .running) && !c.failed && ((s.slot (slotKey c.seqk)).stopping.isNone || c.sub.isSome) &&
    match c.ins with
    | .vrun _ _ _ _ => true
    | _ => false

/-- The started runs of a core, oldest first. -/
def State.runs (s : State) (core : Nat) : List Cmd :=
  s.cmds.filter fun c => decide (coreOf c.seqk = core) && s.runLive c

/-- The vector engine chooses among the started runs (R207). -/
def State.chooseRun (s : State) (core : Nat) : State :=
  s.modCore core fun x => { x with vrun := (s.chooseCmd (s.runs core)).map (·.uid) }

/-- The run that a core's vector engine executes (R207): the one it chose last; once that one has left, faulted or begun to
stop, the engine chooses again. -/
def State.current (s : State) (core : Nat) : Option Cmd :=
  match (s.core core).vrun.bind s.cmd with
  | some c => if s.runLive c then some c else s.chooseCmd (s.runs core)
  | none => s.chooseCmd (s.runs core)

/-- The VRUN whose micro-orders the current core's vector engine executes; a force run has none (R263). -/
def State.run (s : State) : Option Cmd := (s.current (coreOf s.cur)).filter fun c => c.sub.isNone

/-- The micro-state of a run in a trap record (R349). -/
def State.runState (s : State) (c : Cmd) : Nat :=
  let v := (s.slot (slotKey c.seqk)).vec
  v.upc.toNat + v.passes % 2 ^ 32 * 2 ^ 12 + c.trips * 2 ^ 44 + c.tails * 2 ^ 76 + v.rot * 2 ^ 79 + v.pred.toNat * 2 ^ 86

/-- A trap of the vector engine against a command (R210). -/
def State.trapVec (s : State) (c : Cmd) (code status index addr mstate : Nat) (bad : Option BadLine) : State :=
  let r := s.cmdRec c code 2 (status + index * 2 ^ 20) mstate addr
  (s.trapCmd c (match bad with | some b => r.withBad b | none => r)).chooseRun (coreOf c.seqk)

/-- A micro-order of a run has executed: VSTEP counts it, and the micro-PC, the pass and its predicates move on; after
the last pass the run's work is done (R206). At a pass end the engine chooses again (R207). -/
def State.advRun (s : State) (c : Cmd) : State :=
  let sk := slotKey c.seqk
  let v := (s.slot sk).vec
  let s1 := s.modVec sk fun x => { x with steps := x.steps + 1 }
  if v.upc.toNat < c.last then s1.modVec sk fun x => { x with upc := x.upc + 1 }
  else
    let p := v.passes + 1
    let s2 := s1.modVec sk fun x => { x with passes := p }
    (if p < c.trips + c.tails then
      s2.modVec sk fun x => { x with rot := p % 96, pred := predsOf p c.trips, upc := BitVec.ofNat 12 c.start }
    else s2.setCmd { c with phase := .done }).chooseRun (coreOf c.seqk)

/-- What a micro-order leads to: it has executed, waits on a queue, or faults with a fault code and a vector status. -/
inductive MRes where
  | ok (s : State)
  | hold
  | fault (code status addr : Nat) (bad : Option BadLine)

/-- One micro-order of the current run (R212): guarded off, it counts and has no effect; a fault stops the run and it
has no effect. Without a run there is nothing to execute. -/
def microOrder (g : Nat) (eff : State → Cmd → MRes) (s : State) : State :=
  match s.run with
  | none => s
  | some c =>
    if s.predOn (slotKey c.seqk) g then
      match eff s c with
      | .ok s' => s'.advRun c
      | .hold => s
      | .fault code status addr bad =>
        s.trapVec c code status (s.slot (slotKey c.seqk)).vec.upc.toNat addr (s.runState c) bad
    else s.advRun c

/-- The rounding of element `e` of the micro-order that executes now (R67, R212). -/
def State.runRm (s : State) (c : Cmd) (e : Nat) : Rm :=
  rmOf c.rmc (draw c.seed 0 c.num.toNat ((s.slot (slotKey c.seqk)).vec.steps.toNat * 512 + e))

/-! ### Shared forms -/

/-- A micro-order that writes a vector register under its guard. -/
def vop (d : BitVec 7) (g : BitVec 4) (f : State → Cmd → VReg) (s : State) : State :=
  microOrder g.toNat (fun s c =>
    .ok (s.setVreg (slotKey c.seqk) d (s.guardMask (slotKey c.seqk) g.toNat) (f s c))) s

/-- A micro-order that writes a mask under its guard. -/
def kop (k : BitVec 3) (g : BitVec 4) (f : State → Cmd → BitVec 128) (s : State) : State :=
  microOrder g.toNat (fun s c =>
    .ok (s.setVmask (slotKey c.seqk) k.toNat (s.guardMask (slotKey c.seqk) g.toNat) (f s c))) s

/-- The bits of an element of a floating format. -/
def fmtWidth (f : Fmt) : Nat := 1 + f.ebits + f.mbits

/-- op.T vd, va (R213, R214). -/
def vFloat1 (f : Fmt) (op : FVal → FVal) (d a : BitVec 7) (g : BitVec 4) (s : State) : State :=
  vop d g (fun s c =>
    let w := fmtWidth f
    let x := s.vreg (slotKey c.seqk) a
    ofElems w fun e => (roundF f (s.runRm c e) (op (decodeF f (elem w x e)))).1) s

/-- op.T vd, va, vb (R213). -/
def vFloat2 (f : Fmt) (op : FVal → FVal → FVal) (d a b : BitVec 7) (g : BitVec 4) (s : State) : State :=
  vop d g (fun s c =>
    let w := fmtWidth f
    let x := s.vreg (slotKey c.seqk) a
    let y := s.vreg (slotKey c.seqk) b
    ofElems w fun e => (roundF f (s.runRm c e) (op (decodeF f (elem w x e)) (decodeF f (elem w y e)))).1) s

/-- VFMA and VFMS: the old destination plus or minus the product, one rounding (R213). -/
def vFma (f : Fmt) (sub : Bool) (d a b : BitVec 7) (g : BitVec 4) (s : State) : State :=
  vop d g (fun s c =>
    let w := fmtWidth f
    let x := s.vreg (slotKey c.seqk) a
    let y := s.vreg (slotKey c.seqk) b
    let z := s.vreg (slotKey c.seqk) d
    ofElems w fun e =>
      let p := (decodeF f (elem w x e)).mul (decodeF f (elem w y e))
      (roundF f (s.runRm c e) ((decodeF f (elem w z e)).add (if sub then p.neg else p))).1) s

/-- |x| (R213). -/
def FVal.abs (x : FVal) : FVal := if x.isNeg then x.neg else x

/-- Integer operations on packed patterns (R215). -/
def vInt2 (w : Nat) (op : Nat → Nat → Nat) (d a b : BitVec 7) (g : BitVec 4) (s : State) : State :=
  vop d g (fun s c =>
    let x := s.vreg (slotKey c.seqk) a
    let y := s.vreg (slotKey c.seqk) b
    ofElems w fun e => op (elem w x e) (elem w y e)) s

/-- The signed value of a `w`-bit pattern. -/
def signedOf (w x : Nat) : Int := if 2 ^ (w - 1) ≤ x then (x : Int) - 2 ^ w else x

/-- The `w`-bit pattern of an integer. -/
def patternOf (w : Nat) (i : Int) : Nat := (i % 2 ^ w).toNat

/-- Operations of R215 on `w`-bit patterns. -/
def intSub (w x y : Nat) : Nat := (x + 2 ^ w - y) % 2 ^ w
def intMin (w x y : Nat) : Nat := if signedOf w x ≤ signedOf w y then x else y
def intMax (w x y : Nat) : Nat := if signedOf w x ≤ signedOf w y then y else x
def intAdds (w x y : Nat) : Nat :=
  patternOf w (max (-2 ^ (w - 1)) (min (2 ^ (w - 1) - 1) (signedOf w x + signedOf w y)))

/-- Lane operations on two registers. -/
def vLane2 (op : BitVec 32 → BitVec 32 → BitVec 32) (d a b : BitVec 7) (g : BitVec 4) (s : State) : State :=
  vop d g (fun s c =>
    let x := s.vreg (slotKey c.seqk) a
    let y := s.vreg (slotKey c.seqk) b
    ofLanes fun j => op (lane x j) (lane y j)) s

/-- Lane operations on one register. -/
def vLane1 (op : BitVec 32 → BitVec 32) (d a : BitVec 7) (g : BitVec 4) (s : State) : State :=
  vop d g (fun s c => ofLanes fun j => op (lane (s.vreg (slotKey c.seqk) a) j)) s

/-- The mask of the lanes where a condition holds. -/
def maskOf (f : Nat → Bool) : BitVec 128 :=
  BitVec.ofNat 128 ((List.range 128).foldl (fun a j => a + bit (f j) * 2 ^ j) 0)

/-- A compare into a mask (R216). -/
def vCmp (op : BitVec 32 → BitVec 32 → Bool) (k : BitVec 3) (a b : BitVec 7) (g : BitVec 4) (s : State) : State :=
  kop k g (fun s c =>
    let x := s.vreg (slotKey c.seqk) a
    let y := s.vreg (slotKey c.seqk) b
    maskOf fun j => op (lane x j) (lane y j)) s

/-- A conversion of one element a lane (R217): the lane's new bits and whether it saturated; the saturations of the
permitted lanes count against the run's tensor ID. -/
def vCvt (f : Rm → Nat → Nat × Bool) (d a : BitVec 7) (g : BitVec 4) (s : State) : State :=
  microOrder g.toNat (fun s c =>
    let sk := slotKey c.seqk
    let m := s.guardMask sk g.toNat
    let x := s.vreg sk a
    let r := (List.range 128).map fun j => f (s.runRm c j) (lane x j).toNat
    let sats := ((List.range 128).filter fun j => m.getLsbD j && (r.getD j (0, false)).2).length
    .ok ((s.countSats sk c.tid sats).setVreg sk d m (r.map fun y => BitVec.ofNat 32 y.1))) s

/-- To a floating format from FP32. -/
def cvtFrom32 (f : Fmt) (rm : Rm) (x : Nat) : Nat × Bool := roundF f rm (val32 (x % 2 ^ 32))
/-- To FP32, exactly, from the low bits of the lane. -/
def cvtTo32 (f : Fmt) (rm : Rm) (x : Nat) : Nat × Bool := (round32 rm (decodeF f (x % 2 ^ fmtWidth f)), false)
/-- FP32 to INT32, under RNE or RZ (R65). -/
def cvtI32F32 (rm : Rm) (x : Nat) : Nat × Bool :=
  (patternOf 32 (toSigned 32 (match rm with | .rz => .rz | _ => .rne) (val32 x)), false)
/-- INT32 to FP32. -/
def cvtF32I32 (rm : Rm) (x : Nat) : Nat × Bool := (round32 rm (ofInt (signedOf 32 x) 0 false), false)
/-- FP32 to a one-element FP4X block: code, scale 127, extra 0; or a NaN block (R217). -/
def cvtFp4F32 (rm : Rm) (x : Nat) : Nat × Bool :=
  match val32 x with
  | .num n m e =>
    let r := encodeFp4 0 rm n m e
    (r.1 + 127 * 256, r.2)
  | _ => (255 * 256, false)
/-- A one-element FP4X block to FP32 (R217). -/
def cvtF32Fp4 (rm : Rm) (x : Nat) : Nat × Bool :=
  let scale := x / 256 % 256
  if scale = 255 then (canon fp32, false)
  else (round32 rm ((decodeFp4 (x / 65536 % 256) (x % 16)).scale ((scale : Int) - 127)), false)

/-- A reduction (R218): the lanes that a mask guard excludes contribute `out`. -/
def vReduce (f : List (Option (BitVec 32)) → BitVec 32) (d a : BitVec 7) (g : BitVec 4) (s : State) : State :=
  vop d g (fun s c =>
    let m := s.guardMask (slotKey c.seqk) g.toNat
    let x := s.vreg (slotKey c.seqk) a
    let r := f ((List.range 128).map fun j => if m.getLsbD j then some (lane x j) else none)
    ofLanes fun _ => r) s

/-- Leaves of a floating reduction with the value of an excluded lane. -/
def leaves (out : FVal) (l : List (Option (BitVec 32))) : List FVal :=
  l.map fun x => match x with | some v => val32 v.toNat | none => out

/-- A tile, or an accumulator when `acc`, that the slot holds, and a row in range (R222). -/
def State.rowOk (s : State) (sk n : Nat) (acc : Bool) (row : BitVec 16) : Bool :=
  let c := s.slot sk
  decide (n < if acc then c.amap.length else c.tmap.length) && decide (0 ≤ row.toInt) &&
    decide (row.toInt < if acc then 128 else 64)

/-- An access to a row through an index register, which moves on after it (R222). -/
def rowOp (acc : Bool) (n x p : Nat) (g : BitVec 4) (f : State → Cmd → Nat → MRes) (s : State) : State :=
  microOrder g.toNat (fun s c =>
    let sk := slotKey c.seqk
    let r := s.index sk x
    if !s.rowOk sk n acc r then .fault 3 4 0 none
    else
      match f s c r.toNat with
      | .ok s' => .ok (s'.setIndex sk x (r + BitVec.ofNat 16 p))
      | e => e) s

/-- The lanes of line `l` of a row that a mask permits. -/
def lineMask (m : BitVec 128) (l : Nat) : BitVec 32 := BitVec.ofNat 32 (bits m (32 * l) 32)

/-- VTW's write of a row (R222): a line written whole takes origin kind 0; one written in part merges, its old line
verified first. -/
def State.writeTileRow (s : State) (sk t row : Nat) (m : BitVec 128) (v : VReg) : Except BadLine State :=
  let a := s.tileAddr sk t (row * 512)
  let part := (List.range 4).filter fun l => decide (lineMask m l ≠ 0) && decide (lineMask m l ≠ BitVec.allOnes 32)
  match part.findSome? fun l => s.verifyLine .tile (a + 128 * l) with
  | some b => .error b
  | none =>
    let b := vregBytes (mergeLanes m (vregOf (s.bytes .tile a 512)) v)
    .ok ((List.range 4).foldl (fun s l =>
      if lineMask m l = 0 then s
      else s.poke .tile (a + 128 * l) (slice b (128 * l) 128)
        (originTag (if lineMask m l = BitVec.allOnes 32 then 0 else 5) (sk / 8))) s)

/-- A spill vector within SPLIM (R223). -/
def State.spillOk (s : State) (sk v : Nat) : Bool := decide (64 * v + 63 < (s.slot sk).spillLimit)

/-- The immediate of a VMOVI in a floating format (R69, R224). -/
def moviFloat (f : Fmt) (i : BitVec 16) : Nat := (roundF f .rne (decodeF bf16 i.toNat)).1

/-! ### TBLOAD and VRUN (R200 to R209) -/

/-- The bank of an index (R200). -/
def bankOf (i : Nat) : Nat := i / 2048

/-- The bank that a TBLOAD or VRUN uses, from its operands at issue; 2: none. A force run uses none. -/
def Cmd.bank (c : Cmd) : Nat :=
  match c.ins with
  | .vrun _ _ _ _ => if c.sub.isSome then 2 else bankOf c.start
  | .tbload _ _ _ _ _ => if c.v2.toNat < 4096 then bankOf c.v2.toNat else 2
  | _ => 2

/-- A command is a TBLOAD. -/
def Cmd.isTbload (c : Cmd) : Bool := match c.ins with | .tbload _ _ _ _ _ => true | _ => false
/-- A command is a VRUN, and no force run (R263). -/
def Cmd.isVrun (c : Cmd) : Bool := c.sub.isNone && match c.ins with | .vrun _ _ _ _ => true | _ => false

/-- The implicit predecessors of a TBLOAD into a bank: the TBLOADs and VRUNs of it issued before, those of a checkpointed
task that have not started among them (R201). -/
def State.tbloadPreds (s : State) (bank : Nat) : List Nat :=
  ((s.cmds ++ s.keptCmds).filter fun c => decide (coreOf c.seqk = coreOf s.cur) && (c.isTbload || c.isVrun) &&
    decide (c.bank = bank)).map (·.uid)

/-- The implicit predecessors of a VRUN: the TBLOADs into its bank, and its slot's previous runs (R201, R207). -/
def State.vrunPreds (s : State) (bank : Nat) : List Nat :=
  ((s.keptCmds.filter fun c => decide (coreOf c.seqk = coreOf s.cur) && c.isTbload && decide (c.bank = bank)) ++
    s.cmds.filter fun c => decide (coreOf c.seqk = coreOf s.cur) &&
      ((c.isTbload && decide (c.bank = bank)) || (c.isVrun && decide (slotKey c.seqk = slotKey s.cur)))).map (·.uid)

/-- A word of the micro-order store (R200). -/
def State.microWord (s : State) (core i : Nat) : BitVec 32 :=
  let m := (s.core core).micro
  if Kv.has m i then Kv.get 0 m i else Config.microWord core i

/-- A bank's generation. -/
def CoreSt.gen (c : CoreSt) (bank : Nat) : BitVec 16 := if bank = 0 then c.gen0 else c.gen1

/-- A bank's generation raised by one (R200). -/
def CoreSt.raiseGen (c : CoreSt) (bank : Nat) : CoreSt :=
  if bank = 0 then { c with gen0 := c.gen0 + 1 } else { c with gen1 := c.gen1 + 1 }

/-- Words written in the micro-order store from an index. -/
def CoreSt.putMicro (c : CoreSt) (i : Nat) (ws : List (BitVec 32)) : CoreSt :=
  { c with micro := ws.zipIdx.foldl (fun m w => Kv.put m (i + w.2) w.1) c.micro }

/-- A TBLOAD run whole (R203); the implicit one of a resume has its words in `par` (R202). A line that fails its check
word stops it, and the words before that line stay. No micro-order is in hand when an operand fails: the record's micro-state and
index are 0 (R210; DESIGN CHOICE, log 130). -/
def State.runTbload (s : State) (c : Cmd) : State :=
  let src := c.v1.toNat
  let dst := c.v2.toNat
  let cnt := c.v3.toNat
  let core := coreOf c.seqk
  if c.phase = .done then s
  else if c.par ≠ [] then
    (s.modCore core (·.putMicro dst (c.par.map (BitVec.ofInt 32)))).complete c 0
  else if !sliceOk src (4 * cnt) || !s.window (slotKey c.seqk) src (4 * cnt) || decide (src % 4 ≠ 0) then
    s.trapVec c 3 7 0 src 0 none
  else if 4095 < dst ∨ cnt = 0 ∨ 2048 < cnt ∨ bankOf dst ≠ bankOf (dst + cnt - 1) then s.trapVec c 6 8 0 0 0 none
  else
    let words (n : Nat) : List (BitVec 32) :=
      (List.range n).map fun i => BitVec.ofNat 32 (leNat (s.bytes .scratch (src + 4 * i) 4))
    match s.forceCmd c [⟨.scratch, src, 4 * cnt, false⟩] with
    | .error s => s
    | .ok s =>
    match s.verify .scratch src (4 * cnt) with
    | some b =>
      let n := (max b.addr src - src) / 4
      (s.modCore core (·.putMicro dst (words n))).trapVec c 7 6 (dst + n) 0 0 (some b)
    | none => (s.modCore core (·.putMicro dst (words cnt))).complete c 0

/-- A TBLOAD retires: its bank's generation rises, and rd receives the new one (R200, R203). -/
def State.risen (s : State) (c : Cmd) : State × Cmd :=
  if c.isTbload then
    let b := bankOf c.v2.toNat
    let s1 := s.modCore (coreOf c.seqk) (·.raiseGen b)
    (s1, { c with result := BitVec.ofNat 64 ((s1.core (coreOf c.seqk)).gen b).toNat })
  else (s, c)

/-- The tiles that the body of a run may write: those its VTW micro-orders name (R209, R266). -/
def State.runFeet (s : State) (c : Cmd) : List Foot :=
  (List.range (c.last + 1 - c.start)).filterMap fun i =>
    let w := (s.microWord (coreOf c.seqk) (c.start + i)).toNat
    if w / 2 ^ 25 % 128 = 0x5F then
      some ⟨.tile, s.tileAddr (slotKey c.seqk) (w / 2 ^ 14 % 8) 0, 32768, true⟩
    else none

/-- A VRUN starts (R205, R206): the checks, then the first pass; one of no iterations makes no pass. A resumed one
goes on where it stopped, with the bank's generation (R202). No micro-order is in hand when an operand fails: the record's
micro-state and index are 0 (R210; DESIGN CHOICE, log 130). -/
def State.startVrun (s : State) (c : Cmd) : State :=
  let sk := slotKey c.seqk
  let core := coreOf c.seqk
  if c.phase ≠ .waiting then s
  else if c.resumed then
    (s.setCmd { c with phase := .running, resumed := false, body := [], gen := (s.core core).gen (bankOf c.start) }).chooseRun core
  else if bits c.v1 32 32 ≠ 0 ∨ bits c.v2 32 32 ≠ 0 ∨ bits c.v3 3 61 ≠ 0 ∨ c.rmc = 3 ∨ c.last < c.start ∨
      bankOf c.start ≠ bankOf c.last then s.trapVec c 6 2 0 0 0 none
  else
    match s.forceCmd c (s.runFeet c) with
    | .error s => s
    | .ok s =>
      let s1 := s.modVec sk fun v =>
        { v with
          masks := Kv.put v.masks 0 (maskOf fun j => decide (j < min c.lat.vlen 128))
          trip := BitVec.ofNat 32 c.trips, tail := BitVec.ofNat 3 c.tails, steps := 0, passes := 0, rot := 0
          pred := if c.trips = 0 then 0 else predsOf 0 c.trips
          upc := BitVec.ofNat 12 c.start, bank := decide (bankOf c.start = 1), cfg := BitVec.ofNat 32 (bits c.v1 0 32) }
      (s1.setCmd { c with phase := if c.trips = 0 then .done else .running, gen := (s.core core).gen (bankOf c.start) }).chooseRun core

/-- The micro-order the current run executes next waits on a data queue (R221): a VPOP or VPUSH of a task's run. In slots 4
and 5, or malformed, it faults and waits for nothing. -/
def State.runBlocked (s : State) (c : Cmd) : Bool :=
  let sk := slotKey c.seqk
  let w := (s.microWord (coreOf c.seqk) (s.slot sk).vec.upc.toNat).toNat
  let q (n : Nat) := Kv.get [] (s.slot sk).queues n
  c.sub.isNone && decide (slotNum sk < 4) && s.predOn sk (w % 16) && decide (w / 2 ^ 3 % 2 ^ 8 = 0) &&
    match w / 2 ^ 25 % 128 with
    | 0x5C => decide (w / 2 ^ 13 % 2 ^ 5 = 0) && match q (w / 2 ^ 11 % 4) with | e :: _ => e.data.isNone | [] => true
    | 0x5D => decide (w / 2 ^ 19 % 2 ^ 6 = 0) && decide (8 ≤ (q (4 + w / 2 ^ 18 % 2)).length)
    | _ => false

/-- The vector engine may choose among runs (R207): it has none, its run is between passes, or waits on a queue. -/
def State.atChoice (s : State) (core : Nat) : Bool :=
  match s.current core with
  | none => true
  | some r => r.sub.isSome || decide ((s.slot (slotKey r.seqk)).vec.upc.toNat = r.start) || s.runBlocked r

/-- A force run starts at a point where the engine may choose (R263). -/
def State.startForceRun (s : State) (c : Cmd) : State :=
  let core := coreOf c.seqk
  if c.phase ≠ .waiting ∨ s.atChoice core = false then s
  else
    match s.forceCmd c (s.descFeet (slotKey c.seqk) (runDesc ((c.sub.map (·.payload)).getD [] |>.drop 8))) with
    | .error s => s
    | .ok s => (s.setCmd { c with phase := .running }).chooseRun core

/-- A force run executes, as one pass (R263): its block computed, with its own draws (R264), or a line of it fails. Its slice
operands pass the window check (R149); the spec gives a force run that fails it no status, and the model gives it that of a
TBLOAD's source, 7 (DESIGN CHOICE, log 128). -/
def State.forceRunStep (s : State) (c : Cmd) (x : Sub) : State :=
  let d := runDesc (x.payload.drop 8)
  let sk := slotKey c.seqk
  match (d.ins ++ [d.out]).find? fun v => v.tile.isNone && !(sliceOk v.addr v.extent && s.window sk v.addr v.extent) with
  | some v => s.trapVec c 3 7 0 v.addr 0 none
  | none =>
  match s.runBlock sk d fun j => draw c.seed x.kind c.num.toNat (x.ord * 2 ^ 24 + j) with
  | (s, none) => (s.complete c 0).chooseRun (coreOf c.seqk)
  | (s, some b) => s.trapVec c 7 6 0 0 0 (some b)

/-- VECTOR_RUN_SWITCH (R207): the current run has waited on a queue for 16 cycles, and the engine chooses among the
runs that do not. -/
def execVectorRunSwitch (core : Nat) (s : State) : Out :=
  .next (match s.current core with
    | some c =>
      if s.runBlocked c then
        match s.chooseCmd ((s.runs core).filter fun r => !s.runBlocked r) with
        | some r => s.modCore core fun x => { x with vrun := some r.uid }
        | none => s
      else s
    | none => s)

end Sys2Proof.Machine
end

