-- ==== Sys2Proof/Machine/Mgo.lean ====
section
/-! DEFINITION. TCFG and MCFG (R228, R229), MGO with its chains (R239, R240, R243 to R246), the TMOV commands (R249,
R250), and MITER (R273 to R278). -/

namespace Sys2Proof.Machine

/-- TCFG (R228): a tile's descriptor, checked precisely at issue. -/
def execTcfg (a : BitVec 5) (n : BitVec 3) (t : BitVec 4) (s : State) : Out :=
  .next (issueShort ⟨rolesX, true, t, [a], false, none⟩
    (fun s =>
      if (s.slot (slotKey s.cur)).tmap.length ≤ n.toNat then .trap (s.trapAt s.cur 3 0 n.toNat)
      else if descBad (s.reg s.cur a) then .trap (s.trapAt s.cur 6 0 0)
      else .go s)
    (fun s =>
      .go ((s.modSlot (slotKey s.cur) fun c => { c with desc := Kv.put c.desc n.toNat (s.reg s.cur a) }).adv s.cur 4)) s)

/-- MCFG (R229): a shadow register, unchecked but for its number. -/
def execMcfg (a : BitVec 5) (n : BitVec 11) (t : BitVec 4) (s : State) : Out :=
  .next (issueShort ⟨rolesX, mcfgAssigned n.toNat, t, [a], false, none⟩ preGo
    (fun s =>
      .go ((s.modSlot (slotKey s.cur) fun c => { c with mcfg := Kv.put c.mcfg n.toNat (s.reg s.cur a) }).adv s.cur 4)) s)

/-! ### MGO -/

/-- The nest of an MGO (R243); one of the forcer draws by its kind and ordinal (R264). -/
def Cmd.cfg (c : Cmd) : NestCfg :=
  { sk := slotKey c.seqk, tab := c.lat.mcfg, desc := c.lat.desc, np := c.ext.np.toNat, seed := c.seed
    kind := (c.sub.map (·.kind)).getD 0, seq := c.num.toNat, base := (c.sub.map (·.ord)).getD 0 * 2 ^ 24 }

/-- The kind of a MITER: 1 POLY, 2 NS, 3 INV; split feedback; relative tolerance (R44, R273). -/
def miterParts : Instr → Nat × Bool × Bool
  | .miterPoly fb rel _ _ _ _ _ => (1, decide (fb = 1), decide (rel = 1))
  | .miterNs fb rel _ _ _ _ _ => (2, decide (fb = 1), decide (rel = 1))
  | .miterInv fb rel _ _ _ _ _ => (3, decide (fb = 1), decide (rel = 1))
  | _ => (0, false, false)

/-- The kind of a MITER; 0: another instruction. -/
def miterKind (i : Instr) : Nat := (miterParts i).1

/-- What an MGO latches at issue (R229). -/
def latchNest (s : State) : Latched :=
  { mcfg := (s.slot (slotKey s.cur)).mcfg, desc := (s.slot (slotKey s.cur)).desc }

/-- The command uses the core's array: an MGO or a MITER (R244, R273). -/
def Cmd.usesArray (c : Cmd) : Bool :=
  match c.ins with
  | .mgo _ => true
  | i => decide (miterKind i ≠ 0)

/-- A MITER in its write-back, which it completes with its tests even when its slot stops (R278). -/
def State.writesBack (s : State) (c : Cmd) : Bool :=
  decide (miterKind c.ins ≠ 0) && decide (c.phase = .running) && !c.failed && decide ((s.slot (slotKey c.seqk)).mis.phase = 11)

/-- No other command holds the array of the command's core (R244). A faulted or stopping one has let it go, but for a
write-back; a sub-command of a slot that stops goes on (R270). -/
def State.arrayFree (s : State) (c : Cmd) : Bool :=
  !s.cmds.any fun x => x.uid != c.uid && decide (coreOf x.seqk = coreOf c.seqk) && x.usesArray &&
    decide (x.phase = .running) && !x.failed && ((s.slot (slotKey x.seqk)).stopping.isNone || x.sub.isSome || s.writesBack x)

/-- MNCL, MNCH and MPASS follow a nest's micro-state (R248). -/
def State.showNest (s : State) (c : Cmd) (st : NestSt) : State :=
  s.modSlot (slotKey c.seqk) fun x =>
    { x with mat := { x.mat with idx := st.idx, w := st.w, passes := st.passes, used := true } }

/-- The micro-state of a nest in a trap record (R349). -/
def NestSt.word (st : NestSt) : Nat :=
  (List.range 6).foldl (fun a l => a + st.idx.getD l 0 % 65536 * 2 ^ (16 * l)) 0 + bit st.w * 2 ^ 96 +
    st.dcount % 65536 * 2 ^ 97

/-- A trap of the array against an MGO, its micro-state kept where it stands (R245). -/
def State.trapNest (s : State) (c : Cmd) (st : NestSt) (f : MFault) : State :=
  let r := s.cmdRec c (matrixCode f.status) 3 (f.status + f.lvl * 16 + st.passes % 2 ^ 24 * 256) st.word f.addr
  (s.showNest c st).trapCmd { c with nest := st } (match f.bad with | some b => r.withBad b | none => r)

/-- A nest's new micro-state stored; one past its last level is done. -/
def State.keepNest (s : State) (c : Cmd) (st : NestSt) : State :=
  (s.showNest c st).setCmd { c with nest := st, phase := if st.lvl = 6 then .done else .running }

/-- An MGO starts: the checks of R240, and the forces of R266. No level is at work when a check or an announcement fails: the
record's level is 15, that of a pass (R245; DESIGN CHOICE, log 132). -/
def State.startNest (s : State) (c : Cmd) (cfg : NestCfg) : Except State State :=
  match s.nestCheck cfg with
  | 0 =>
    match s.forceCmd c cfg.feet (s.nestWhole cfg) with
    | .error s => .error s
    | .ok s => .ok (s.keepNest c { c.nest with started := true, reload := true })
  | st => .error (s.trapNest c c.nest { status := st })

/-- An unchained MGO goes on by at most `n` pass steps. -/
def State.nestLoop (s : State) (uid : Nat) : Nat → State
  | 0 => s
  | n + 1 =>
    match s.cmd uid with
    | none => s
    | some c =>
      if c.failed || decide (c.phase = .done) then s
      else
        match nestUnit c.cfg s c.nest with
        | ⟨s, st, some f⟩ => s.trapNest c st f
        | ⟨s, st, none⟩ => (s.keepNest c st).nestLoop uid n

/-! #### Chains (R239) -/

/-- The length of a chain. -/
def NestCfg.chainLen (c : NestCfg) : Nat := 2 ^ c.chain

/-- The cores of a chain that a core of a mesh row belongs to, head first. -/
def chainCores (core len : Nat) : List Nat := (List.range len).map fun i => core / len * len + i

/-- What a chained MGO announces (R239). -/
def NestCfg.announce (c : NestCfg) : List Nat :=
  [c.chain, c.ctag, c.m, c.afmt, c.sparse] ++ (List.range 6).flatMap fun l => [c.cnt l, bit (c.act l 5)]

/-- The chained MGO of a core that may be a member of a chain: of those gathered into it the one, of those with the tag and in
no chain the one that the engine ranks first (R21); it is ready or running, with the array free for it. -/
def State.chainMember (s : State) (core ctag : Nat) (chain : Option Nat) : Option Cmd :=
  s.chooseCmd (s.cmds.filter fun c => decide (coreOf c.seqk = core) && decide (c.cfg.chain ≠ 0) && decide (c.cfg.ctag = ctag) &&
    decide (c.nest.chain = chain) && decide (c.phase ≠ .done) && s.canStart c && s.arrayFree c &&
    match c.ins with
    | .mgo _ => true
    | _ => false)

/-- Every member of a chain, when all are there. -/
def State.chainAll (s : State) (c : Cmd) : Option (List Cmd) :=
  (chainCores (coreOf c.seqk) c.cfg.chainLen).mapM fun k => s.chainMember k c.cfg.ctag c.nest.chain

/-- A gathered member has a part of its nest to make that waits for no other: ENDs, or the BEGINs of its next pass. Only a
pass and a CHAINWAIT wait (R239). -/
def State.chainAlone (_s : State) (c : Cmd) : Bool :=
  c.nest.chain.isSome && c.nest.started && !c.nest.sync && (c.nest.ending.isSome || !c.nest.begun)

/-- A position in the chain shown by MNCH (R248). -/
def State.showPos (s : State) (c : Cmd) (p : Nat) : State :=
  s.modSlot (slotKey c.seqk) fun x => { x with mat := { x.mat with cpos := p, used := true } }

/-- The nest of a member: all but the head have the head's A (R239). -/
def Cmd.chainCfg (c : Cmd) : NestCfg := { c.cfg with head := c.nest.headA }

/-- The members of a chain are gathered, the head first (R239): a differing announcement faults every one. -/
def State.chainGather (s : State) (cs : List Cmd) : State :=
  match cs with
  | [] => s
  | h :: _ =>
    if cs.any fun c => decide (h.cfg.announce ≠ c.cfg.announce) then cs.foldl (fun s c => s.trapNest c c.nest { status := 7 }) s
    else
      cs.zipIdx.foldl (fun s p =>
        (s.showPos p.1 p.2).setCmd { p.1 with nest := { p.1.nest with
          chain := some h.uid, headA := if p.2 = 0 then none else some (h.cfg.adesc, h.cfg.ascaled) } }) s

/-- A gathered member starts (R239, R240). -/
def State.chainStart (s : State) (c : Cmd) : State :=
  match s.startNest c c.chainCfg with
  | .ok s => s
  | .error s => s

/-- What a part of a member's nest has led to. -/
def State.nestDone (c : Cmd) (o : NestOut) : State :=
  match o.fault with
  | some f => o.s.trapNest c o.st f
  | none => o.s.keepNest c o.st

/-- The pass of a chain whose members have all made their BEGINs: every member's region, then the head's rows of A, then
every member's pass and its ENDs. -/
def State.chainPass (s : State) (ms : List (Cmd × NestCfg)) : State :=
  match ms.findSome? fun m => match s.nestRegion m.2 m.1.nest.idx m.1.nest.w 15 with
      | .error f => some (m.1, f)
      | .ok _ => none with
  | some p => s.trapNest p.1 p.1.nest p.2
  | none =>
    match ms.head? with
    | none => s
    | some (h, cfg) =>
      match s.nestRows cfg h.nest (ms.foldl (fun a m => max a m.2.ma) 0) with
      | .error f => s.trapNest h h.nest f
      | .ok rows =>
        ms.foldl (fun s m =>
          match nestPass m.2 rows s m.1.nest with
          | ⟨s, st, none⟩ => State.nestDone m.1 (nestEnds m.2 6 s st)
          | o => State.nestDone m.1 o) s

/-- The part of a nest that a member makes alone: its ENDs, or the BEGINs before a pass. -/
def State.chainPart (s : State) (c : Cmd) : State :=
  if c.nest.ending.isSome then State.nestDone c (nestEnds c.chainCfg 6 s c.nest) else State.nestDone c (nestBegin c.chainCfg s c.nest)

/-- The part that members make together, in lock-step (R239): they leave a CHAINWAIT that all have reached, or make the pass
that all have made their BEGINs for. Till then the ones that are there wait. -/
def State.chainStep (s : State) (cs : List Cmd) : Option State :=
  if cs.any fun c => decide (c.phase ≠ .running) || !c.nest.started then none
  else if cs.all (·.nest.sync) then some (cs.foldl (fun s c => State.nestDone c (nestSynced c.chainCfg s c.nest)) s)
  else if cs.all fun c => c.nest.begun && c.nest.ending.isNone then some (s.chainPass (cs.map fun c => (c, c.chainCfg)))
  else none

/-- A member of a chain goes on by at most `n` parts: it is gathered and starts with the others; its own parts it makes, and with
the others the passes. A member that faults keeps what it has done, and the others stay where they are. -/
def State.chainLoop (s : State) (uid : Nat) : Nat → State
  | 0 => s
  | n + 1 =>
    match s.cmd uid with
    | none => s
    | some c =>
      if c.failed || decide (c.phase = .done) then s
      else if c.nest.chain.isNone then
        match s.chainAll c with
        | none => s
        | some cs => ((cs.filterMap fun m => ((s.chainGather cs).cmd m.uid).filter fun m => !m.failed).foldl
            (fun s m => s.chainStart ((s.cmd m.uid).getD m)) (s.chainGather cs)).chainLoop uid n
      else if !c.nest.started then (s.chainStart c).chainLoop uid n
      else if c.phase = .waiting then (s.setCmd { c with phase := .running, resumed := false }).chainLoop uid n
      else if s.chainAlone c then (s.chainPart c).chainLoop uid n
      else
        match (s.chainAll c).bind s.chainStep with
        | none => s
        | some t => t.chainLoop uid n

/-- An MGO starts or goes on by at most `n` steps (R234, R239, R244). -/
def State.runMgo (s : State) (c : Cmd) (n : Nat) : State :=
  if c.phase = .done ∨ s.arrayFree c = false then s
  else if c.cfg.chained then s.chainLoop c.uid (n + 1)
  else if c.nest.started then s.nestLoop c.uid n
  else
    match (s.showPos c 0).startNest c c.cfg with
    | .ok s => s.nestLoop c.uid n
    | .error s => s

/-! ### TMOV -/

/-- The member and the literal of a TMOV. -/
def tmovParts : Instr → Nat × Nat
  | .tld n _ _ _ _ => (1, n.toNat)
  | .tst n _ _ _ _ => (2, n.toNat)
  | .afill n _ _ _ _ => (3, n.toNat)
  | .adrn n _ _ _ _ => (4, n.toNat)
  | _ => (0, 0)

/-- A trap of the move port: lines or rows completed, level 14 (R245). -/
def State.trapTmov (s : State) (c : Cmd) (done : Nat) (f : MFault) : State :=
  let r := s.cmdRec c (matrixCode f.status) 4 (f.status + 14 * 16 + done % 2 ^ 24 * 256) (done % 65536) f.addr
  s.trapCmd { c with off := done } (match f.bad with | some b => r.withBad b | none => r)

/-- A TMOV run whole (R250). -/
def State.runTmov (s : State) (c : Cmd) : State :=
  let p := tmovParts c.ins
  let sk := slotKey c.seqk
  if c.phase = .done then s
  else
    match s.tmovCheck sk p.1 p.2 c.v1 c.v2 c.v3 with
    | some f => s.trapTmov c 0 f
    | none =>
      match s.forceCmd c (s.tmovFeet sk p.1 p.2 c.v1 c.v2 c.v3)
          (if p.1 = 2 then [⟨.tile, s.tileAddr sk p.2 c.v2.toNat, c.v3.toNat, false⟩]
          else if 3 ≤ p.1 then [s.accFoot sk p.2 (decide (p.1 = 3))] else []) with
      | .error s => s
      | .ok s =>
        match s.tmovRun sk p.1 p.2 c.v1 c.v2 c.v3 c.seed c.num.toNat with
        | (s, done, some f) => s.trapTmov c done f
        | (s, _, none) => s.complete c 0

/-! ### MITER -/

/-- MIS (R277), the active bit aside. -/
def MisSt.word (m : MisSt) : Nat :=
  m.k % 256 + m.phase % 16 * 256 + bit m.grew * 2 ^ 14 + m.prev.toNat * 2 ^ 32

/-- MIS as a stop keeps it: at the boundary (R278). An iteration whose tests have trapped is repeated, from the X that its
write-back left (R354; DEDUCED, log 92). -/
def MisSt.kept (m : MisSt) : MisSt := { m with phase := 0, k := if m.phase = 11 then m.k - 1 else m.k }

/-- A trap of MITER, with MIS as its micro-state (R272, R276). -/
def State.trapMiter (s : State) (c : Cmd) (status : Nat) : State :=
  s.trapCmd c (s.cmdRec c (if status = 8 then 3 else if status = 10 then 11 else 6) 5 status
    ((s.slot (slotKey c.seqk)).mis.word + bit (decide (c.phase = .running)) * 2 ^ 13) 0)

/-- A matrix of exact values. -/
abbrev Mat := List (List FVal)

/-- Element (i, j). -/
def Mat.at' (m : Mat) (i j : Nat) : FVal := (m.getD i []).getD j .zero

/-- The matrix of n rows and m columns that a function gives. -/
def Mat.of (n m : Nat) (f : Nat → Nat → FVal) : Mat :=
  (List.range n).map fun i => (List.range m).map fun j => f i j

/-- BF16 of a value, RNE (R274). -/
def bfRound (x : FVal) : FVal := decodeF bf16 (roundF bf16 .rne x).1

/-- The split of a value in three BF16 parts (R274): part 0, 1 or 2. -/
def bfPart (p : Nat) (x : FVal) : FVal :=
  let x1 := bfRound x
  let x2 := bfRound (x.sub x1)
  match p with
  | 0 => x1
  | 1 => x2
  | _ => bfRound ((x.sub x1).sub x2)

/-- One pass of a product, added to an accumulator (R70, R71, R274). -/
def prodPass (np q : Nat) (u v : Mat) (acc : List (List (BitVec 32))) : List (List (BitVec 32)) :=
  acc.mapIdx fun i row => row.mapIdx fun j x =>
    passAdd np ((List.range q).map fun k => (k, (u.at' i k).mul (v.at' k j))) false 0 x

/-- PROD(U, V) of a p × q and a q × r matrix (R274). -/
def prod (np : Nat) (split : Bool) (p q r : Nat) (u v : Mat) : Mat :=
  let part (m : Mat) (k : Nat) : Mat := m.map fun row => row.map (bfPart k)
  let acc0 := List.replicate p (List.replicate r (0 : BitVec 32))
  let order : List (Nat × Nat) := if split then [(2, 0), (1, 1), (0, 2), (1, 0), (0, 1), (0, 0)] else [(0, 0)]
  let acc := order.foldl (fun a o => prodPass np q (part u o.1) (part v o.2) a) acc0
  acc.map fun row => row.map fun x => val32 x.toNat

/-- A coefficient register of the latched set. -/
def Cmd.coef (c : Cmd) (i : Nat) : FVal := val32 ((Kv.get 0 c.lat.mcfg (0x40 + i)).toNat % 2 ^ 32)

/-- The product of RNE32 of two values, the sum of RNE32 of two values. -/
def mul32 (x y : FVal) : FVal := rne32 (x.mul y)
def add32 (x y : FVal) : FVal := rne32 (x.add y)

/-- The polynomial's steps for coefficients i down to 0 (R275). -/
def polySteps (c : Cmd) (np : Nat) (split : Bool) (n : Nat) (x : Mat) : Nat → Mat → Mat
  | 0, z => z
  | i + 1, z =>
    let y := prod np split n n n z x
    polySteps c np split n x i (Mat.of n n fun a b => if a = b then add32 (y.at' a b) (c.coef i) else y.at' a b)

/-- One iteration's Y (R275). -/
def miterStep (c : Cmd) (a x : Mat) : Mat :=
  let p := miterParts c.ins
  let np := c.ext.np.toNat
  let n := bits c.v1 8 7 + 1
  let m := bits c.v1 16 7 + 1
  match p.1 with
  | 2 =>
    let g := prod np p.2.1 n m n x (Mat.of m n fun i j => x.at' j i)
    let t1 := prod np p.2.1 n n m g x
    let t2 := prod np p.2.1 n n m g t1
    Mat.of n m fun i j =>
      add32 (add32 (mul32 (c.coef 0) (x.at' i j)) (mul32 (c.coef 1) (t1.at' i j))) (mul32 (c.coef 2) (t2.at' i j))
  | 3 =>
    let q := prod np p.2.1 n n n a x
    let r := Mat.of n n fun i j => if i = j then rne32 ((FVal.num false 2 0).sub (q.at' i i)) else (q.at' i j).neg
    prod np p.2.1 n n n x r
  | _ =>
    let d := bits c.v1 4 3
    polySteps c np p.2.1 n x d (Mat.of n n fun i j => if i = j then c.coef d else .zero)

/-- The checks of R273 at the start: the status of the first that fails; 0: none. -/
def State.miterCheck (s : State) (c : Cmd) : Nat :=
  let kind := (miterParts c.ins).1
  let na := (s.slot (slotKey c.seqk)).amap.length
  let w := c.v1
  if na ≤ bits w 0 2 ∨ (kind = 3 ∧ na ≤ bits w 2 2) then 8
  else if bits w 7 1 ≠ 0 ∨ bits w 15 1 ≠ 0 ∨ bits w 23 41 ≠ 0 ∨ (kind ≠ 3 ∧ bits w 2 2 ≠ 0) ∨
      (kind ≠ 1 ∧ bits w 4 3 ≠ 0) ∨ (kind ≠ 2 ∧ bits w 8 7 ≠ bits w 16 7) ∨ (kind = 3 ∧ bits w 2 2 = bits w 0 2) ∨
      c.v2.toNat = 0 ∨ 255 < c.v2.toNat ∨ 0x7F800000 < c.v3.toNat ∨
      (List.range 8).any (fun i => decide (bits (Kv.get 0 c.lat.mcfg (0x40 + i)) 32 32 ≠ 0)) = true then 9
  else 0

/-- The window of an accumulator, as values (R273). -/
def State.window' (s : State) (sk acc n m : Nat) : Mat :=
  (List.range n).map fun i => ((s.accRow sk acc i).take m).map fun x => val32 x.toNat

/-- A window written. -/
def State.putWindow (s : State) (sk acc : Nat) (y : Mat) : State :=
  y.zipIdx.foldl (fun s r =>
    s.setAccRow sk acc r.2 ((s.accRow sk acc r.2).mapIdx fun j x =>
      if j < r.1.length then BitVec.ofNat 32 (round32 .rne (r.1.getD j .zero)) else x)) s

/-- MIS of a slot changed. -/
def State.modMis (s : State) (sk : Nat) (f : MisSt → MisSt) : State := s.modSlot sk fun c => { c with mis := f c.mis }

/-- A MITER leaves with a reason (R276). -/
def State.miterLeave (s : State) (c : Cmd) (reason : Nat) : State :=
  let m := (s.slot (slotKey c.seqk)).mis
  s.complete c (BitVec.ofNat 64 (m.k + reason * 256 + m.prev.toNat * 2 ^ 32))

/-- The phases of an iteration in order (R279): products 1 to 8, 9 combine, 10 residual, 11 write-back. -/
def miterPhases (kind d : Nat) : List Nat :=
  match kind with
  | 2 => [1, 2, 3, 9, 10, 11]
  | 3 => [1, 9, 2, 10, 11]
  | _ => 9 :: (List.range d).map (· + 1) ++ [10, 11]

/-- The phase that follows another of an iteration; after the boundary, the first. -/
def nextPhase (l : List Nat) (p : Nat) : Nat :=
  if p = 0 then l.headD 0 else (l.dropWhile (· ≠ p)).getD 1 0

/-- The write-back and the tests of an iteration, whose Y is of X as it stands here (R276). -/
def State.miterEnd (s : State) (c : Cmd) : State :=
  let sk := slotKey c.seqk
  let m := (s.slot sk).mis
  let n := bits c.v1 8 7 + 1
  let cols := bits c.v1 16 7 + 1
  let xacc := bits c.v1 0 2
  let x := s.window' sk xacc n cols
  let y := miterStep c (s.window' sk (bits c.v1 2 2) n cols) x
  let nm := np5 (Mat.of n cols fun i j => rne32 ((y.at' i j).sub (x.at' i j)))
  let s1 := (s.putWindow sk xacc y).modMis sk fun m => { m with k := m.k + 1 }
  let grown := ((val32 m.prev.toNat).scale 2).lt (val32 nm)
  if 255 ≤ nm / 2 ^ 23 % 256 ∨ (grown = true ∧ m.grew = true) then s1.trapMiter c 10
  else
    let s2 := s1.modMis sk fun m => { m with grew := grown, prev := BitVec.ofNat 32 nm, phase := 0 }
    let tol := val32 (c.v3.toNat % 2 ^ 32)
    let lim := if (miterParts c.ins).2.2 then rne32 (tol.mul (val32 (np5 y))) else tol
    if (val32 nm).le lim then s2.miterLeave c 0 else s2

/-- MITER goes on by one phase (R276, R279); its intermediates are not architectural. -/
def State.miterUnit (s : State) (c : Cmd) : State :=
  let sk := slotKey c.seqk
  let m := (s.slot sk).mis
  if m.phase = 11 then s.miterEnd c
  else if m.phase = 0 ∧ (s.slot sk).miStop = true then (s.modSlot sk fun x => { x with miStop := false }).miterLeave c 2
  else if m.phase = 0 ∧ m.k = c.v2.toNat then s.miterLeave c 1
  else s.modMis sk fun m => { m with phase := nextPhase (miterPhases (miterKind c.ins) (bits c.v1 4 3)) m.phase }

/-- MITER's loop for at most `n` phases; in a slot that stops it ends at the boundary (R278). -/
def State.miterLoop (s : State) (uid : Nat) : Nat → State
  | 0 => s
  | n + 1 =>
    match s.cmd uid with
    | none => s
    | some c =>
      if c.failed || decide (c.phase ≠ .running) ||
          ((s.slot (slotKey c.seqk)).stopping.isSome && decide ((s.slot (slotKey c.seqk)).mis.phase = 0)) then s
      else (s.miterUnit c).miterLoop uid n

/-- A MITER starts or goes on by at most `n` phases. -/
def State.runMiter (s : State) (c : Cmd) (n : Nat) : State :=
  if c.phase = .done ∨ s.arrayFree c = false then s
  else if c.phase = .running then s.miterLoop c.uid n
  else if c.resumed then (s.setCmd { c with phase := .running, resumed := false }).miterLoop c.uid n
  else
    match s.miterCheck c with
    | 0 =>
      let c := { c with phase := .running }
      let sk := slotKey c.seqk
      match s.forceCmd c [] (s.accFoot sk (bits c.v1 0 2) true ::
          (if (miterParts c.ins).1 = 3 then [s.accFoot sk (bits c.v1 2 2) false] else [])) with
      | .error s => s
      | .ok s => ((s.setCmd c).modMis (slotKey c.seqk) fun _ => { prev := 0x7F800000 }).miterLoop c.uid n
    | st => s.trapMiter c st

end Sys2Proof.Machine
end

