-- ==== Sys2Proof/Machine/Thunk.lean ====
section
/-! DEFINITION. TOP and TDEM (R257 to R260, R265, R268 to R270): the acceptance of nodes, the freeing of handles and
the demands of commands. -/

namespace Sys2Proof.Machine

/-- The fault code of a thunk status (R272). -/
def thunkCode (st : Nat) : Nat := if st = 7 ∨ st = 8 then 3 else 6

/-- A trap of the thunk forcer against a command: a status, and the handle it concerns (R272). -/
def State.trapThunk (s : State) (c : Cmd) (status h : Nat) : State :=
  s.trapCmd c (s.cmdRec c (thunkCode status) 6 (status + h % 256 * 256) (bits (s.core (coreOf c.seqk)).fcur 0 36) 0)

/-- A trap of the forcer whose code the rules give apart from a status. -/
def State.trapForcer (s : State) (c : Cmd) (code : Nat) (bad : Option BadLine) : State :=
  let r := s.cmdRec c code 6 0 (bits (s.core (coreOf c.seqk)).fcur 0 36) 0
  s.trapCmd c (match bad with | some b => r.withBad b | none => r)

/-! ### Handles and granules (R251, R259, R269) -/

/-- Handles that are not free. -/
def State.liveHandles (s : State) (sk : Nat) : List Nat :=
  if !s.thaOk sk || (s.slot sk).thClear then [] else (List.range 256).filter fun h => decide ((s.dir sk h).kind ≠ 0)

/-- The lowest free handle. -/
def State.freeHandle? (s : State) (sk : Nat) : Option Nat := (List.range 256).find? fun h => decide ((s.dir sk h).kind = 0)

/-- Granules of the arena. -/
def granuleCount (tha : Word) : Nat := (thaSize tha - 40960) / 4096

/-- A granule's bit of the bitmap. -/
def State.granule (s : State) (sk g : Nat) : Bool :=
  (leNat (s.bytes .scratch (thaBase (s.slot sk).tha + 4096 + g / 8) 1)).testBit (g % 8)

/-- The lowest run of `n` free granules. -/
def State.findGranules (s : State) (sk n : Nat) : Option Nat :=
  let total := granuleCount (s.slot sk).tha
  (List.range total).find? fun g => decide (g + n ≤ total) && (List.range n).all fun i => !s.granule sk (g + i)

/-- Granules marked allocated or free. -/
def State.markGranules (s : State) (sk g n : Nat) (on : Bool) : State :=
  let base := thaBase (s.slot sk).tha + 4096
  let old := leNat (s.bytes .scratch base 128)
  let m := (2 ^ n - 1) * 2 ^ g
  s.arenaPut sk 4096 (leBytes 128 (if on then old ||| m else old - (old &&& m)))

/-- The granules of a view's bytes. -/
def View.granules (v : View) : Nat := (v.rows * v.pitch + 4095) / 4096

/-- A handle loses a user, or is freed outright when `free`: freeing returns its granules and its entry, and takes a
user from each input; an input left dropped without users is freed in turn (R269). With the handle whose entry holds a reserved
value, if one that it uses does (R252). -/
def State.release (s : State) (sk : Nat) : Nat → Bool → Nat → State × Option Nat
  | 0, _, _ => (s, none)
  | fuel + 1, free, h =>
    let d := s.dir sk h
    if s.dirBad sk h then (s, some h)
    else if !free && (decide (d.users ≠ 1) || !d.dropped) then (s.setDir sk h { d with users := d.users - 1 }, none)
    else
      let s1 :=
        if d.view.alloc then
          s.markGranules sk ((d.view.addr - (thaBase (s.slot sk).tha + 40960)) / 4096) d.view.granules false
        else s
      let s2 := s1.arenaPut sk (16 * h) (zeros 16)
      match s.nodeOf sk h with
      | none => (s2, none)
      | some n =>
        n.ins.foldl (fun x i => if x.2.isSome then x else x.1.release sk fuel false i)
          (s2.modSlot sk fun c => { c with nodes := c.nodes.filter fun x => x.entry != n.entry }, none)

/-- A node becomes a region: its entry is freed and its inputs lose a user each (R265 steps 2 to 4). -/
def State.retireNode (s : State) (sk : Nat) (n : Node) : State × Option Nat :=
  if s.dirBad sk n.self then (s, some n.self)
  else
    let s1 := s.setDir sk n.self { s.dir sk n.self with kind := 2, entry := 0 }
    n.ins.foldl (fun x i => if x.2.isSome then x else x.1.release sk 300 false i)
      (s1.modSlot sk fun c => { c with nodes := c.nodes.filter fun x => x.entry != n.entry }, none)

/-! ### What every TOP and TDEM does first -/

/-- THA valid, the directory cleared after a write to THA, and the lines the forcer keeps verified (R252, R258). -/
def State.openArena (s : State) (c : Cmd) : Except State State :=
  let sk := slotKey c.seqk
  if !s.thaOk sk then .error (s.trapThunk c 5 0)
  else
    let s := if (s.slot sk).thClear then
        (s.arenaPut sk 0 (zeros 4224)).modSlot sk fun x => { x with thClear := false }
      else s
    match s.verify .scratch (thaBase (s.slot sk).tha) 4224 with
    | some b => .error (s.trapForcer c 7 (some b))
    | none => .ok s

/-- A handle that may be named: a node or a region, not dropped (R269), its entry without a reserved value (R252). Its
status when it may not; 0: it may. -/
def State.handleBad (s : State) (sk h : Nat) (input : Bool) : Nat :=
  let d := s.dir sk h
  if d.kind = 0 ∨ s.dirBad sk h = true ∨ d.dropped = true ∨ (input = true ∧ d.users = 255) then 1 else 0

/-- The first input of a TOP that may not be named (R258). Each occurrence is a user, and users stops at 255 (R253). -/
def State.inputBad (s : State) (sk : Nat) (ins : List Nat) : Option Nat :=
  (ins.zipIdx.find? fun x => decide (s.handleBad sk x.1 true ≠ 0) || decide (255 ≤ (s.dir sk x.1).users + (ins.take x.2).count x.1)).map (·.1)

/-! ### TOP (R255, R257, R258) -/

/-- The view a TBIND names, or the status that refuses it: its operand words, and R255. -/
def bindView (c : Cmd) : Except Nat View :=
  let a := c.v1
  let tile := decide (bits a 40 1 = 1)
  let rows := bits c.v2 0 11
  let cols := bits c.v2 11 11
  let fmt := bits c.v2 22 4
  let pitch := c.v3.toNat
  let v : View := ⟨fmt, rows, cols, pitch, if tile then bits a 0 15 else bits a 0 33, false,
    if tile then some (bits a 36 3) else none⟩
  if bits a 41 23 ≠ 0 ∨ (tile = true ∧ (bits a 39 1 ≠ 0 ∨ bits a 15 21 ≠ 0)) ∨ (tile = false ∧ bits a 33 7 ≠ 0) ∨
      bits c.v2 26 38 ≠ 0 ∨ pitch = 0 ∨ 65535 < pitch ∨ rows = 0 ∨ cols = 0 then .error 6
  else if 1024 < rows ∨ 1024 < cols then .error 2
  else if !thunkFmt fmt then .error 3
  else if tile = true ∧ v.addr % fmtBytes fmt ≠ 0 then .error 6
  else .ok v

/-- The bytes of a view that a TBIND names are the slot's (R258). R257 has a tile view end within 32,768 bytes of its tile and gives
one that does not no status: the model gives it 7, as an extent outside a window (DESIGN CHOICE, log 129). -/
def State.viewHeld (s : State) (sk : Nat) (v : View) : Bool :=
  match v.tile with
  | some t => decide (t < (s.slot sk).tmap.length) && decide (v.addr + v.extent ≤ 32768)
  | none => sliceOk v.addr v.extent && s.window sk v.addr v.extent

/-- The shape of an operation's output, rows, columns and K, or the status that refuses its inputs (R255). R255 gives its refusals
no order: the model tries the output format first, then for TMUL and TMAC the class of A and B, K, the format and the shape of C,
and what must not lie in a tile (DESIGN CHOICE, log 129). -/
def topShape (op ofmt : Nat) (vs : List View) : Except Nat (Nat × Nat × Nat) :=
  let v (i : Nat) : View := vs.getD i ⟨0, 0, 0, 0, 0, false, none⟩
  if !thunkFmt ofmt then .error 3
  else if op = 2 ∨ op = 3 then
    if widthClass (v 0).fmt = 0 ∨ widthClass (v 0).fmt ≠ widthClass (v 1).fmt then .error 3
    else if (v 0).cols ≠ (v 1).rows then .error 2
    else if op = 3 ∧ (v 2).fmt ≠ 5 then .error 3
    else if op = 3 ∧ ((v 2).rows ≠ (v 0).rows ∨ (v 2).cols ≠ (v 1).cols) then .error 2
    else if (v 1).tile.isSome ∧ ((v 1).pitch ≠ 128 * fmtBytes (v 1).fmt ∨ 128 < (v 1).cols) then .error 7
    else if op = 3 ∧ (v 2).tile.isSome then .error 7
    else .ok ((v 0).rows, (v 1).cols, (v 0).cols)
  else if op = 4 ∨ op = 5 ∨ op = 6 then
    if (v 0).rows ≠ (v 1).rows ∨ (v 0).cols ≠ (v 1).cols then .error 2 else .ok ((v 0).rows, (v 0).cols, 0)
  else if op = 8 then .ok ((v 0).cols, (v 0).rows, 0)
  else .ok ((v 0).rows, (v 0).cols, 0)

/-- The output view at an explicit address, or the status that refuses it (R255). -/
def State.outputView (s : State) (sk ofmt rows cols : Nat) (w : Word) (ins : List View) : Except Nat View :=
  let z := fmtBytes ofmt
  let v : View := ⟨ofmt, rows, cols, bits w 48 16, bits w 0 33, false, none⟩
  if v.addr % z ≠ 0 ∨ v.pitch % z ≠ 0 ∨ v.pitch < cols * z then .error 6
  else if !sliceOk v.addr v.extent || !s.window sk v.addr v.extent then .error 7
  else if ins.any fun i => (s.viewFoot sk i false).meets (s.viewFoot sk v false) then .error 2
  else .ok v

/-- A TOP that finds the partition full forces the oldest node whole and releases it (R265); it goes on when that is
done. -/
def State.makeRoom (s : State) (c : Cmd) : Except State State :=
  let sk := slotKey c.seqk
  match (s.slot sk).nodes with
  | [] => .ok s
  | n :: _ =>
    if (s.slot sk).nodes.length < (s.slot sk).thEntries.length then .ok s
    else
      match s.forceNext c.force (s.forceList sk [n]) with
      | .met s =>
        match (s.slot sk).nodes with
        | n :: _ =>
          match s.retireNode sk n with
          | (t, none) => .ok t
          | (_, some h) => .error (s.trapThunk c 1 h)
        | [] => .ok s
      | .more s => .error s
      | .trapped s => .error s
      | .waits => .error s

/-- A node appended (R258): its entry, its mask, its inputs' users and its directory entry. -/
def State.appendNode (s : State) (c : Cmd) (h op : Nat) (hw : Word) (ins : List Nat) (v : View) (kdim : Nat) : State :=
  let sk := slotKey c.seqk
  let e := ((s.slot sk).thEntries.find? fun e => !(s.slot sk).nodes.any (·.entry == e)).getD 0
  let n : Node :=
    { entry := e, seq := c.num, opc := c.pc, tid := bits hw 30 6, np := if op = 2 ∨ op = 3 then c.ext.np.toNat else 0
      rm := bits hw 28 2, op := op, self := h, ins := ins, rows := v.rows, cols := v.cols, kdim := kdim, ofmt := v.fmt
      alloc := v.alloc, pitch := v.pitch, addr := v.addr, imm := BitVec.ofNat 32 (bits c.v2 0 32)
      mask := freshMask v.rows v.cols, word := (encode c.ins).headD 0 }
  let s1 := ins.foldl (fun s i => s.setDir sk i { s.dir sk i with users := (s.dir sk i).users + 1 }) s
  ((s1.modSlot sk fun x => { x with nodes := x.nodes ++ [n], binds := Kv.del x.binds h }).setDir sk h ⟨1, false, 0, e, v⟩).complete c
    (BitVec.ofNat 64 h)

/-- The operand words of a TOP other than TBIND with a reserved value (R257). -/
def topWordsBad (c : Cmd) (op : Nat) : Bool :=
  let n := topArity op
  decide (bits c.v1 36 28 ≠ 0) || decide (bits c.v1 28 2 = 3) || (decide (n < 2) && decide (bits c.v1 8 8 ≠ 0)) ||
  (decide (n < 3) && decide (bits c.v1 16 8 ≠ 0)) || decide (bits c.v3 33 15 ≠ 0) ||
  (if op = 7 then decide (bits c.v2 32 32 ≠ 0) else if op = 10 then decide (6 < c.v2.toNat) else decide (c.v2 ≠ 0))

/-- A TOP accepted (R258). The rs2 value is read only where the operation has one. R257 gives bits [63:48] of the output word for an
explicit address; beside address 0 they are ignored (DESIGN CHOICE, log 129). -/
def State.runTop (s : State) (c : Cmd) : State :=
  let sk := slotKey c.seqk
  let op := topOp c.ins
  if c.phase = .done then s
  else
    match s.openArena c with
    | .error s => s
    | .ok s =>
      if op = 1 then
        match bindView c with
        | .error st => s.trapThunk c st 0
        | .ok v =>
          match s.freeHandle? sk with
          | none => s.trapThunk c 4 0
          | some h =>
            if s.viewHeld sk v then
              ((s.setDir sk h ⟨2, false, 0, 0, v⟩).modSlot sk fun x => { x with binds := Kv.put x.binds h c.uid }).complete c (BitVec.ofNat 64 h)
            else s.trapThunk c 7 0
      else if topWordsBad c op then s.trapThunk c 6 0
      else
        let ins := (List.range (topArity op)).map fun i => bits c.v1 (8 * i) 8
        match s.inputBad sk ins with
        | some h => s.trapThunk c 1 h
        | none =>
          let vs := ins.map fun h => (s.dir sk h).view
          let ofmt := bits c.v1 24 4
          match topShape op ofmt vs with
          | .error st => s.trapThunk c st 0
          | .ok (rows, cols, kdim) =>
            let z := fmtBytes ofmt
            let explicit := decide (bits c.v3 0 33 ≠ 0)
            let given : Except Nat View :=
              if explicit then s.outputView sk ofmt rows cols c.v3 vs
              else .ok ⟨ofmt, rows, cols, (cols * z + 127) / 128 * 128, 0, true, none⟩
            match given with
            | .error st => s.trapThunk c st 0
            | .ok v =>
              if (op = 2 ∨ op = 3) ∧ c.ext.np.toNat = 2 ∧ widthClass ((vs.getD 0 v).fmt) = 16 then s.trapForcer c 1 none
              else
                match s.freeHandle? sk with
                | none => s.trapThunk c 4 0
                | some h =>
                  if (s.slot sk).thEntries.isEmpty then s.trapThunk c 4 0
                  else
                    match s.makeRoom c with
                    | .error s => s
                    | .ok s =>
                      if explicit then s.appendNode c h op c.v1 ins v kdim
                      else
                        match s.findGranules sk v.granules with
                        | none => s.trapThunk c 5 0
                        | some g =>
                          (s.markGranules sk g v.granules true).appendNode c h op c.v1 ins
                            { v with addr := thaBase (s.slot sk).tha + 40960 + 4096 * g } kdim

/-! ### TDEM (R268, R269) -/

/-- sub6 of a TDEM; 0: no TDEM. -/
def tdemOp : Instr → Nat
  | .tstore _ _ _ _ => 1
  | .tforce _ _ => 2
  | .tdrop _ _ => 3
  | _ => 0

/-- The window of a TSTORE: row0, col0, rows, cols, pitch (R268). -/
def tstoreWindow (w : Word) (z : Nat) : Nat × Nat × Nat × Nat × Nat :=
  let cols := bits w 33 11
  (bits w 0 11, bits w 11 11, bits w 22 11, cols, if bits w 44 16 = 0 then cols * z else bits w 44 16)

/-- The blocks that meet a window (R262). -/
def windowBlocks (w : Nat × Nat × Nat × Nat × Nat) : List (Nat × Nat) :=
  (List.range 8).flatMap fun i => ((List.range 8).filter fun j =>
    overlap w.1 w.2.2.1 (128 * i) 128 && overlap w.2.1 w.2.2.2.1 (128 * j) 128).map fun j => (i, j)

/-- The checks of a TDEM at its start: the status of the first that fails; 0: none. R268 has the handle in [7:0] of its register and
says nothing of the rest: bits that are not zero there are refused with status 6 before all else (DESIGN CHOICE, log 129). -/
def State.tdemCheck (s : State) (c : Cmd) : Nat :=
  let sk := slotKey c.seqk
  let h := bits c.v1 0 8
  let v := (s.dir sk h).view
  let w := tstoreWindow c.v3 (fmtBytes v.fmt)
  if bits c.v1 8 56 ≠ 0 then 6
  else if s.handleBad sk h false ≠ 0 then 1
  else if tdemOp c.ins ≠ 1 then 0
  else if bits c.v3 60 4 ≠ 0 ∨ w.2.2.1 = 0 ∨ w.2.2.2.1 = 0 ∨ v.rows < w.1 + w.2.2.1 ∨ v.cols < w.2.1 + w.2.2.2.1 then 6
  else if v.tile.isSome then 7
  else if !sliceOk c.v2.toNat (w.2.2.1 * w.2.2.2.2) || !s.window sk c.v2.toNat (w.2.2.1 * w.2.2.2.2) then 7
  else 0

/-- The copy of a TSTORE (R268): of the window's rows. -/
def State.tstoreCopy (s : State) (c : Cmd) : SubCmd :=
  let sk := slotKey c.seqk
  let v := (s.dir sk (bits c.v1 0 8)).view
  let z := fmtBytes v.fmt
  let w := tstoreWindow c.v3 z
  subCopy c.seed (s.slot sk).tha c.v2.toNat (v.addr + w.1 * v.pitch + w.2.1 * z) (w.2.2.2.1 * z) w.2.2.1 v.pitch w.2.2.2.2

/-- The target of a TSTORE; nothing is written by a TFORCE. -/
def State.tdemFeet (s : State) (c : Cmd) : List Foot :=
  let z := fmtBytes (s.dir (slotKey c.seqk) (bits c.v1 0 8)).view.fmt
  let w := tstoreWindow c.v3 z
  if tdemOp c.ins = 1 then [⟨.scratch, c.v2.toNat, (w.2.2.1 - 1) * w.2.2.2.2 + w.2.2.2.1 * z, true⟩] else []

/-- The blocks a TSTORE or TFORCE still has to compute (R262): first those of the nodes that its writes force (R266). -/
def State.tdemBlocks (s : State) (c : Cmd) : List (Nat × Nat × Nat) :=
  let sk := slotKey c.seqk
  let h := bits c.v1 0 8
  let d := if tdemOp c.ins = 1 then windowBlocks (tstoreWindow c.v3 (fmtBytes (s.dir sk h).view.fmt))
    else (List.range 8).flatMap fun i => (List.range 8).map fun j => (i, j)
  s.demand sk 257 h d (s.forceList sk (s.touched sk (.cmd c.uid) (s.tdemFeet c)))

/-- A TSTORE or TFORCE goes on with its demand (R262, R268): a TSTORE ends when its copy has retired, a TFORCE when its
blocks have. -/
def State.goDemand (s : State) (c : Cmd) : State :=
  let copy := if tdemOp c.ins = 1 then some (s.tstoreCopy c) else none
  match s.touchedBad (slotKey c.seqk) (s.tdemFeet c) with
  | some h => s.trapThunk c 1 h
  | none =>
  match s.forceNext c.force (s.tdemBlocks c) copy with
  | .met s => s.complete c 0
  | .more s => s
  | .trapped s => s
  | .waits => s

/-- A TDEM starts or goes on. -/
def State.runTdem (s : State) (c : Cmd) : State :=
  let sk := slotKey c.seqk
  let h := bits c.v1 0 8
  if c.phase = .done then s
  else if c.phase = .running then s.goDemand c
  else
    match s.openArena c with
    | .error s => s
    | .ok s =>
      match s.tdemCheck c with
      | 0 =>
        if tdemOp c.ins = 3 then
          let d := s.dir sk h
          if d.users ≠ 0 then (s.setDir sk h { d with dropped := true }).complete c 0
          else
            match s.release sk 300 true h with
            | (t, none) => t.complete c 0
            | (_, some h) => s.trapThunk c 1 h
        else
          match s.ovStart c.uid ((s.tdemFeet c).map (·.ov)) with
          | (s, true) => s.trapCmd c (s.cmdRec c 13 6 0 (bits (s.core (coreOf c.seqk)).fcur 0 36) 0)
          | (s, false) => (s.setCmd { c with phase := .running }).goDemand { c with phase := .running }
      | st => s.trapThunk c st h

/-- The TOPs and TDEMs of the issuing slot: those a new one follows (R260). -/
def State.thunkPreds (s : State) : List Nat :=
  (s.cmds.filter fun c => decide (slotKey c.seqk = slotKey s.cur) &&
    (decide (topOp c.ins ≠ 0) || decide (tdemOp c.ins ≠ 0))).map (·.uid)

end Sys2Proof.Machine
end

