-- ==== Sys2Proof/Machine/Trace.lean ====
section
/-! DEFINITION. The trace directory (R335, R336) and the records Milliner stages while a graph is recorded (R337 to
R339, R344). -/

namespace Sys2Proof.Machine

/-! ### The trace directory (R335, R336) -/

/-- Address of a directory entry. -/
def State.dirAt (s : State) (e : Nat) : Nat := s.dirBase + 64 * e

/-- Field of a directory entry: `n` bytes from `o`. -/
def State.dirField (s : State) (e o n : Nat) : Nat := leNat (s.bytes .main (s.dirAt e + o) n)

/-- A field of a directory entry written by the policy core. -/
def State.setDirField (s : State) (e o n x : Nat) : State :=
  s.poke .main (s.dirAt e + o) (leBytes n x) (originTag 0 0)

/-- The eight entries a shape name may occupy. -/
def State.dirPlaces (s : State) (shape : BitVec 128) : List Nat :=
  if s.dirEntries = 0 then []
  else (List.range 8).map fun i => (bits shape 96 32 % s.dirEntries + i) % s.dirEntries

/-- The entry of a shape name. -/
def State.dirFind (s : State) (shape : BitVec 128) : Option Nat :=
  (s.dirPlaces shape).find? fun e => decide (s.dirField e 0 16 = shape.toNat) && decide (s.dirField e 44 1 ≠ 0)

/-- The entry's reference to its root is dropped (CAREF −1). -/
def State.dirDrop (s : State) (e : Nat) : State :=
  let r := BitVec.ofNat 128 (s.dirField e 16 16)
  if r = 0 then s else (s.softDrop r).setDirField e 16 16 0

/-- An entry returned to empty with fails 0 (R335, R339). -/
def State.dirEmpty (s : State) (e : Nat) : State := ((s.dirDrop e).setDirField e 44 1 0).setDirField e 40 4 0

/-- The entry in a given state with the earliest last time, first on a tie. -/
def State.dirOldest (s : State) (es : List Nat) (st : Nat) : Option Nat :=
  (es.filter fun e => decide (s.dirField e 44 1 = st)).foldl (fun b e =>
    match b with
    | none => some e
    | some x => if s.dirField e 48 8 < s.dirField x 48 8 then some e else some x) none

/-- The claim of an entry on a miss (R336). An entry in state 2 is claimed only when no member of the gang replays its
graph; what the other members replay is a choice, bit by bit of the eight entries. -/
def State.dirClaim (s : State) (shape : BitVec 128) : State × Option Nat :=
  let es := s.dirPlaces shape
  let afar := if s.peers.isEmpty then 0 else s.choices.headD 0
  let s := if s.peers.isEmpty then s else { s with choices := s.choices.drop 1 }
  let idle := es.zipIdx.filterMap fun e =>
    if afar.testBit e.2 || s.graphs.any (fun g => decide (g.mode = 2) && decide (g.entry = e.1)) then none else some e.1
  let pick : Option Nat :=
    match (es.filter fun e => decide (s.dirField e 44 1 = 0)).min? with
    | some e => some e
    | none =>
      match s.dirOldest es 3 with
      | some e => some e
      | none => s.dirOldest idle 2
  match pick with
  | none => (s, none)
  | some e =>
    let s1 := s.dirDrop e
    let rec' := leBytes 16 shape.toNat ++ zeros 28 ++ [1, 0, 0, 0] ++ leBytes 8 s.time.toNat ++ zeros 8
    (s1.poke .main (s1.dirAt e) rec' (originTag 0 0), some e)

/-! ### Graphs -/

/-- A graph that has not finished. -/
def State.graph (s : State) (id : Nat) : Option Graph := s.graphs.find? fun g => decide (g.id = id) && !g.settled

/-- A graph replaced. -/
def State.setGraph (s : State) (g : Graph) : State := { s with graphs := s.graphs.map fun x => if x.id = g.id ∧ x.settled = g.settled then g else x }

/-- The graph that a TCB's task belongs to: the unfinished one whose record lists the TCB, that of its own graph field
`field` first; else `field` (R298, R334). -/
def State.graphOf (s : State) (tcb : Word) (field : Nat) : BitVec 32 :=
  if (s.graph field).any (·.tcbs.contains tcb) then BitVec.ofNat 32 field
  else
    match s.graphs.find? fun g => !g.settled && g.tcbs.contains tcb with
    | some g => BitVec.ofNat 32 g.id
    | none => BitVec.ofNat 32 field

/-- RPST's mode in every slot that runs a task of a graph; a task that runs dynamically keeps mode 0 at a handover. -/
def State.setModes (s : State) (g mode gid : Nat) : State :=
  { s with slots := s.slots.map fun c =>
      (c.1, if c.2.busy && decide (c.2.graph = g) && decide (c.2.mode ≠ 0 ∨ mode ≠ 3) then { c.2 with mode := mode, gid := gid } else c.2) }

/-- A recording given up (R339): its staged records are discarded and its tasks go on without recording; the entry
becomes dynamic only (`st` = 3) or empty (0). -/
def State.abandon (s : State) (g : Graph) (st : Nat) (event : Bool) : State :=
  if g.mode ≠ 1 then s
  else
    let s1 := (s.setGraph { g with mode := 0, abandoned := true, staged := [], allocs := [] }).setModes g.id 0 0
    let s2 := if event then s1.event "recording discarded" (BitVec.ofNat 64 g.id) 0 else s1
    if st = 3 then s2.setDirField g.entry 44 1 3 else s2.dirEmpty g.entry

/-! ### Records (R338) -/

/-- Bytes staged in an octant by a graph. -/
def Graph.stagedIn (g : Graph) (octant : Nat) : Nat :=
  64 * (((g.staged.filter fun x => decide (octantOf (x.1 / 8) = octant)).map fun x => x.2.length).foldl (· + ·) 0)

/-- The bytes from `a` to `b` of the excess over the trace store, written to the octant's recording spill area (R339,
R379). The spec gives the area no layout: what stands there is free. -/
def State.spillExcess (s : State) (octant a b : Nat) : State :=
  if b ≤ a then s
  else
    let n := (b - a) / 8
    { s.poke .main (s.spillBase + octant * 0x1800000000 + a)
        ((List.range n).flatMap fun i => leBytes 8 (Config.freeWord (s.fresh + i)).toNat) (originTag 0 0) with
      fresh := s.fresh + n }

/-- Records staged at the end of a stream of a core. Beyond the trace store's 8 MiB and the spill area, the recording
is abandoned and its entry becomes dynamic only (R339). -/
def State.stage (s : State) (gid core stream : Nat) (rs : List (List Byte)) : State :=
  match s.graph gid with
  | none => s
  | some g =>
    if g.mode ≠ 1 then s
    else
      let key := core * 8 + stream
      let g1 := { g with staged := Kv.put g.staged key (Kv.get [] g.staged key ++ rs) }
      let o := octantOf core
      if 2 ^ 23 + s.spillBytes < g1.stagedIn o then s.abandon g 3 true
      else (s.setGraph g1).spillExcess o (g.stagedIn o - 2 ^ 23) (g1.stagedIn o - 2 ^ 23)

/-- Staged records of a stream rewritten. -/
def Graph.mapStaged (g : Graph) (f : List (List Byte) → List (List Byte)) : Graph :=
  { g with staged := g.staged.map fun x => (x.1, f x.2) }

/-- The record stream of a command's engine (R337); a TOP and a TDEM have no record of their own (R264, R341). -/
def traceStream (i : Instr) : Option Nat :=
  if isCopy i then some 1
  else if caSub i ≠ 0 then some 5
  else if topOp i ≠ 0 ∨ tdemOp i ≠ 0 then none
  else
    match i with
    | .vrun _ _ _ _ => some 2
    | .tbload _ _ _ _ _ => some 2
    | .mgo _ => some 3
    | .miterPoly _ _ _ _ _ _ _ => some 3
    | .miterNs _ _ _ _ _ _ _ => some 3
    | .miterInv _ _ _ _ _ _ _ => some 3
    | .tld _ _ _ _ _ => some 4
    | .tst _ _ _ _ _ => some 4
    | .afill _ _ _ _ _ => some 4
    | .adrn _ _ _ _ _ => some 4
    | _ => some 0

/-- SEED, the shadow set and the tile descriptors (R338). -/
def Cmd.latchedBytes (c : Cmd) : List Byte :=
  leBytes 8 c.seed.toNat ++ (List.range 80).flatMap (fun n => leBytes 8 (latchedReg c.lat.mcfg n).toNat) ++
    (List.range 8).flatMap fun t => leBytes 8 (Kv.get 0 c.lat.desc t).toNat

/-- The latched state of a command as its payload holds it (R338): SEED, then VLEN of a VRUN, or the shadow set and
the tile descriptors of an MGO or MITER; of an ADRN, which draws, SEED alone. A command with no latched state that
bears on its work has none (R409). -/
def Cmd.payload (c : Cmd) : List Byte :=
  match c.ins with
  | .vrun _ _ _ _ => leBytes 8 c.seed.toNat ++ leBytes 8 c.lat.vlen
  | .mgo _ => c.latchedBytes
  | .miterPoly _ _ _ _ _ _ _ => c.latchedBytes
  | .miterNs _ _ _ _ _ _ _ => c.latchedBytes
  | .miterInv _ _ _ _ _ _ _ => c.latchedBytes
  | .adrn _ _ _ _ _ => leBytes 8 c.seed.toNat
  | _ => []

/-- The words of a command. -/
def Cmd.words (c : Cmd) : Nat × Nat := formed c.ins

/-- Absolute numbers of the predecessors 1 to 3 that a command's deltas name; none where the delta is zero (R338). -/
def Cmd.predNums (c : Cmd) : List (Option (BitVec 16)) :=
  [c.ext.d1, c.ext.d2, c.ext.d3].map fun d => if d = 0 then none else some (c.num - d.setWidth 16)

/-- The command record in the layout of kind 1 (R338), bound or not, with `n` payload records. -/
def cmdRecord (s : State) (c : Cmd) (flags n stall cause : Nat) : List Byte :=
  let sl := s.slot (slotKey c.seqk)
  let ps := c.predNums
  traceRec 1 [(1, [BitVec.ofNat 8 (slotNum (slotKey c.seqk))]),
    (2, [BitVec.ofNat 8 (flags + (ps.zipIdx.foldl (fun m p => m + bit p.1.isSome * 2 ^ p.2) 0) * 16)]), (3, [BitVec.ofNat 8 n]),
    (4, leBytes 4 c.words.1), (8, leBytes 4 c.words.2), (12, leBytes 2 c.num.toNat), (16, leBytes 4 sl.tix),
    (20, ps.flatMap fun p => leBytes 2 (p.getD 0).toNat), (28, leBytes 4 stall), (32, [BitVec.ofNat 8 cause]),
    (40, leBytes 8 c.v1.toNat), (48, leBytes 8 c.v2.toNat), (56, leBytes 8 c.v3.toNat)]

/-- The record of a command start while its graph is recorded (R339). -/
def State.recordCommand (s : State) (c : Cmd) : State :=
  let sl := s.slot (slotKey c.seqk)
  match traceStream c.ins with
  | none => s
  | some st =>
    if sl.mode ≠ 1 then s
    else
      let ps := payloadRecs 12 c.payload
      s.stage sl.graph (coreOf c.seqk) st (match c.sub with
        | some x => c.subRecord x sl.tix
        | none => cmdRecord s c (1 + 4 * bit c.clean) ps.length 0 0 :: ps)

/-- A record is that of a command of a task: by its number, and a sub-command's by its ordinal too. -/
def Cmd.isRecord (c : Cmd) (tix : Nat) (r : List Byte) : Bool :=
  decide (leAt r 0 1 % 16 = 1) && decide (leAt r 12 2 = c.num.toNat) && decide (leAt r 16 4 = tix) &&
    match c.sub with
    | some x => decide (leAt r 2 1 / 2 % 2 = 1) && decide (leAt r 14 2 = x.ord)
    | none => decide (leAt r 2 1 / 2 % 2 = 0)

/-- A record with a stall count and its cause (R338). -/
def stallRec (cycles cause : Nat) (r : List Byte) : List Byte := patch (patch r 28 (leBytes 4 cycles)) 32 [BitVec.ofNat 8 cause]

/-- The last element of a list that passes a test, changed. -/
def modLast {α : Type} (p : α → Bool) (f : α → α) (l : List α) : List α :=
  match l.reverse.findIdx? p with
  | some i => l.modify (l.length - 1 - i) f
  | none => l

/-- A command of a slot has retired: its graph's span reaches to here, in cycles of the octant where it began (R337,
R406). -/
def State.spanTo (s : State) (sk : Nat) : State :=
  match s.graph (s.slot sk).graph with
  | none => s
  | some g => s.setGraph { g with finish := (Kv.get 0 s.cycles g.clock).toNat }

/-- The stall count of a command of a recorded graph, entered in its record at retirement (R331, R338): the last record
by its number, since numbers wrap. -/
def State.recordStall (s : State) (c : Cmd) (cycles cause : Nat) : State :=
  let sl := s.slot (slotKey c.seqk)
  if sl.mode ≠ 1 then s
  else
    match s.graph sl.graph with
    | none => s
    | some g =>
      match traceStream c.ins with
      | none => s
      | some st =>
        let key := coreOf c.seqk * 8 + st
        s.setGraph { g with staged := Kv.put g.staged key (modLast (c.isRecord sl.tix) (stallRec cycles cause) (Kv.get [] g.staged key)) }

/-- A guard record: 0 GSHAPE, 1 GBR, 2 GHLTH, 3 SHAPEW (R338). -/
def guardRec (kind id occ tix value mask : Nat) : List Byte :=
  traceRec 5 [(1, [BitVec.ofNat 8 kind]), (4, leBytes 2 id), (8, leBytes 4 occ), (12, leBytes 4 tix),
    (16, leBytes 8 value), (24, leBytes 8 mask)]

/-- A guard point of a recorded task (R339, R344). -/
def State.recordGuard (s : State) (sk kind id value mask : Nat) : State :=
  let sl := s.slot sk
  if sl.mode ≠ 1 then s
  else s.stage sl.graph (sk / 8) 0 [guardRec kind id (Kv.get 0 sl.occ id) sl.tix value mask]

/-- SHAPEW's guard point (R309, R344). Its guard ID is the register it writes, and its occurrences are counted apart
(DESIGN CHOICE, log 49). -/
def State.recordShape (s : State) (sk n value : Nat) : State :=
  let sl := s.slot sk
  let o := Kv.get 0 sl.occ (1024 + n)
  if sl.mode ≠ 1 then s
  else (s.stage sl.graph (sk / 8) 0 [guardRec 3 n o sl.tix value 0]).modSlot sk fun c => { c with occ := Kv.put c.occ (1024 + n) (o + 1) }

/-! ### A trace's image (R337) -/

/-- The records of a stream of a core in a trace image. -/
def imageRecs (image : List Byte) (core stream : Nat) : List (List Byte) :=
  let dir := leAt image 40 4 * 128
  match (List.range (leAt image 52 4)).find? fun i =>
      decide (leAt image (dir + 16 * i) 2 = core) && decide (leAt image (dir + 16 * i + 2) 1 = stream) with
  | none => []
  | some i =>
    (List.range (leAt image (dir + 16 * i + 8) 4)).map fun j => slice image (leAt image (dir + 16 * i + 4) 4 * 128 + 64 * j) 64

/-- The streams of a trace image: core and stream. -/
def imageStreams (image : List Byte) : List (Nat × Nat) :=
  (List.range (leAt image 52 4)).map fun i =>
    (leAt image (leAt image 40 4 * 128 + 16 * i) 2, leAt image (leAt image 40 4 * 128 + 16 * i + 2) 1)

/-- The entry of a task in the task table. -/
def imageTask (image : List Byte) (t : Nat) : List Byte := slice image (leAt image 32 4 * 128 + 32 * t) 32

/-- The allocation entries of a task. -/
def imageAllocs (image : List Byte) (t : Nat) : List (List Byte) :=
  let e := imageTask image t
  (List.range (leAt e 16 1)).map fun i => slice image (leAt image 36 4 * 128 + 16 * (leAt e 12 4 + i)) 16

/-- The guard record of a replayed trace for a task, guard ID and occurrence (R344); SHAPEW's records are compared with
nothing. -/
def Graph.guard (g : Graph) (core tix id occ : Nat) : Option (List Byte) :=
  (imageRecs g.image core 0).find? fun r =>
    decide (leAt r 0 1 % 16 = 5) && decide (leAt r 1 1 ≠ 3) && decide (leAt r 4 2 = id) && decide (leAt r 8 4 = occ) && decide (leAt r 12 4 = tix)

/-- Where a replay stands in a stream. -/
def Graph.cursorOf (g : Graph) (core stream : Nat) : Nat := Kv.get 0 g.cursor (core * 8 + stream)

/-- The payload bytes that follow a command record (R338). -/
def payloadAfter (rs : List (List Byte)) : List Byte := (rs.takeWhile fun r => decide (leAt r 0 1 % 16 = 2)).flatMap (·.drop 4)

/-! ### The end of a slot's replay (R343) -/

/-- A stop notice for a replay is on its way to the cores. -/
def State.noticed (s : State) (g : Graph) : Bool := s.notices.any fun n => decide (n.1 = g.shape) && decide (n.2.1 = g.ver)

/-- What forces under a sequence number has issued (R343): a command in flight, an entry of a store queue, or what has a
demand. -/
def State.forcerIssued (s : State) (sk num : Nat) : Bool :=
  (s.inFlight sk).any (fun c => decide (c.num.toNat = num)) || (s.slot sk).demands.any (fun d => decide (d.seq.toNat = num)) ||
    [0, 1, 2].any fun r => (s.seq (sk * 4 + r)).stores.any fun e => decide (e.num.toNat = num)

/-- The recorded sub-commands of a slot's task that have not been injected and whose forcing instructions have issued,
with their payloads (R343). -/
def State.keptOf (s : State) (g : Graph) (sk : Nat) : List (List Byte × List Byte) :=
  [1, 2, 3, 4].flatMap fun st =>
    let rs := (imageRecs g.image (sk / 8) st).drop (g.cursorOf (sk / 8) st)
    rs.zipIdx.filterMap fun r =>
      if leAt r.1 0 1 % 16 = 1 ∧ leAt r.1 2 1 / 2 % 2 = 1 ∧ leAt r.1 1 1 = slotNum sk ∧ leAt r.1 16 4 = (s.slot sk).tix ∧
          s.forcerIssued sk (leAt r.1 12 2) = true then
        some (r.1, payloadAfter (rs.drop (r.2 + 1)))
      else none

/-- The commands of a slot whose replay has ended (R343): the bound ones go on as on the dynamic path, those injected
ahead that have not started are dropped. -/
def handOverCmd (c : Cmd) : Option Cmd :=
  match c.inj with
  | 1 => some { c with inj := 0 }
  | 2 => some { c with inj := 0 }
  | 3 => if c.phase = .waiting ∧ c.failed = false then none else some c
  | _ => some c

/-- The replay of a task in a slot ends at a guard (R343): its commands are handed over, the recorded sub-commands of what
has issued are kept, and the slot is in mode 3. -/
def State.leaveReplay (s : State) (g : Graph) (gid sk : Nat) : State :=
  if (s.slot sk).mode ≠ 2 then s
  else
    let kept := s.keptOf g sk
    { s with cmds := s.cmds.filterMap fun (c : Cmd) => if slotKey c.seqk = sk then handOverCmd c else some c }.modSlot sk fun c =>
      { c with mode := 3, gid := gid, kept := c.kept ++ kept }

/-- The predecessor occurrences of each task by index (R340, R343). -/
def Graph.predsOf (g : Graph) (t : Nat) : List Nat :=
  g.edges.zipIdx.flatMap fun e => (e.1.filter (· = t)).map fun _ => e.2

end Sys2Proof.Machine
end

