-- ==== Sys2Proof/Machine/Region.lean ====
section
/-! DEFINITION. TCBs, RCBs and ready records in memory (R295 to R298, R318), effective region fields, the live
allocation map and budgets (R296, R323, R324). -/

namespace Sys2Proof.Machine

/-- A source of dispatcher translations for a record of an octant (R420). -/
def dispSource (octant item : Nat) : Source := { waiter := .dispatcher octant item, core := octant * 128, slot := 0, engine := 3 }

/-- Bytes written to virtual memory in pieces of one page each, with the number of them that have performed: a hold keeps
them, and they are not written again (R89, R96). `tag` is that of whole lines. What goes to a peer's memory is sent there, and
its acknowledgement awaited under the number `uid` (R381). -/
def State.writeVirt (s : State) (src : Source) (troot : Word) (tag : BitVec 16) (uid : Nat) : Nat → Nat → List Byte → Nat → State × Nat × VRes Unit
  | 0, _, _, d => (s, d, .ok ())
  | n + 1, va, bs, d =>
    if bs.isEmpty then (s, d, .ok ())
    else
      let k := 65536 - va % 65536
      match s.xlatePlain src troot va { kind := 1 } with
      | (s, .hold) => (s, d, .hold)
      | (s, .fault c r) => (s, d, .fault c r)
      | (s, .bad b) => (s, d, .bad b)
      | (s, .ok pa _) =>
        match s.writeLines .main (memKey pa) (bs.take k) tag (originTag 0 src.core) with
        | (s, some b) => (s, d, .bad b)
        | (s, none) =>
          (s.sendWrite uid 2 (memKey pa) (bs.take k).length).writeVirt src troot tag uid n (va + k) (bs.drop k) (d + (bs.take k).length)

/-- Parts written in order, each at its virtual address, but for the first `skip` bytes of them all, with the number of
bytes that have performed counted on from `d` (R89). -/
def State.writeAll (s : State) (src : Source) (troot : Word) (tag : BitVec 16) :
    List (Nat × List Byte) → Nat → Nat → State × Nat × VRes Unit
  | [], _, d => (s, d, .ok ())
  | (va, b) :: rest, skip, d =>
    if b.length ≤ skip then s.writeAll src troot tag rest (skip - b.length) d
    else
      match s.writeVirt src troot tag 0 (b.length / 65536 + 2) (va + skip) (b.drop skip) d with
      | (s, d, .ok _) => s.writeAll src troot tag rest 0 d
      | x => x

/-- A TCB or RCB found for reading and writing: its place in memory, its 256 bytes verified. -/
def State.blockAt (s : State) (src : Source) (troot : Word) (va : Nat) (write : Bool) : State × VRes Nat :=
  match s.xlatePlain src troot va { kind := bit write, atomic := write } with
  | (s, .hold) => (s, .hold)
  | (s, .fault c r) => (s, .fault c r)
  | (s, .bad b) => (s, .bad b)
  | (s, .ok pa _) =>
    match s.verify .main (memKey pa) 256 with
    | some b => (s, .bad b)
    | none => (s, .ok (memKey pa))

/-- A field of a block written by the module. -/
def State.blockSet (s : State) (m o n x : Nat) : State := s.putMain (m + o) (leBytes n x)

/-- The 256 bytes of a block. -/
def State.block (s : State) (m : Nat) : List Byte := s.bytes .main m 256

/-- Bytes [a, b) of a record are zero. -/
def zeroAt (t : List Byte) (a b : Nat) : Bool := decide (leAt t a (b - a) = 0)

/-- A window request in range (R298). -/
def windowReqOk (w : Nat) : Bool :=
  let order := w / 2 % 16
  let p := w / 32 % 4
  decide (w / 128 % 8 = 0) && decide (w / 2 ^ 43 = 0) && decide (order ≤ 10) && decide (p ≠ 3) &&
  (decide (w % 2 = 0) ||
    ((decide (p ≠ 1) || coreExists (w / 2 ^ 33 % 1024)) && (decide (p ≠ 2) || decide (w / 2 ^ 10 % 2 ^ 33 % (4096 * 2 ^ order) = 0))))

/-- The field ranges and zeros of a TCB (R298), the state apart. R4 has the module ignore what software leaves in the
reserved fields of TCBs, R298 and R302 have it check them and fault; the model follows R298 and R302 (DESIGN CHOICE, log
82). -/
def tcbOk (t : List Byte) : Bool :=
  zeroAt t 14 16 && zeroAt t 61 62 && zeroAt t 66 72 && zeroAt t 124 128 && zeroAt t 161 168 && zeroAt t 204 208 &&
  zeroAt t 234 240 && decide (leAt t 232 2 < 1024) && decide (leAt t 200 2 / 64 = 0) && decide (leAt t 184 8 < 2 ^ 55) &&
  decide (leAt t 13 1 < 16) && decide (leAt t 20 4 < 2 ^ 20) &&
  (List.range 4).all (fun i => decide (leAt t 20 4 / 32 ^ i % 32 ≤ 16)) &&
  (List.range 3).all (fun i => decide (leAt t (24 + 8 * i) 8 % 4 = 0) && decide (leAt t (24 + 8 * i) 8 < 2 ^ 55)) &&
  decide (leAt t 52 4 ≠ 0) && decide (leAt t 60 1 % 16 ≤ 8) && decide (leAt t 60 1 / 16 ≤ 4) &&
  decide (leAt t 62 2 ≤ 256) && decide (leAt t 64 2 ≤ 1024) &&
  (List.range 4).all (fun i => windowReqOk (leAt t (72 + 8 * i) 8)) &&
  decide (leAt t 104 8 / 2 ^ 62 ≠ 3) && decide (leAt t 104 8 / 2 ^ 55 % 128 = 0) &&
  decide (leAt t 112 8 % 8 = 0) && decide (leAt t 112 8 < 2 ^ 55) &&
  (decide (leAt t 112 8 = 0) == decide (leAt t 120 4 = 0)) && decide (leAt t 120 4 ≤ 65535) &&
  decide (leAt t 176 8 ≠ 0) && decide (leAt t 176 8 % 256 = 0) && decide (leAt t 176 8 < 2 ^ 55)

/-- The state in a TCB's status word. -/
def tcbState (t : List Byte) : Nat := leAt t 200 4 % 16

/-! ### Regions (R295 to R297) -/

/-- A node of an RCB path: its virtual address, its place in memory, its bytes. -/
structure RcbNode where
  va : Nat
  at' : Nat
  b : List Byte

/-- The effective fields of a region (R296). `ring` is the virtual address of the RCB whose ring it uses; `budgets`
holds a node's place and its own budgets of cores, tiles, accumulators and scratch bytes, 0 for none. -/
structure Region where
  ceiling : Nat := 0
  policy : Nat := 0
  det : Bool := false
  troot : Word := 0
  group : Word := 0
  ring : Nat := 0
  budgets : List (Nat × Nat × Nat × Nat × Nat) := []

/-- A node is well formed at its level (R297). Its reserved fields are checked, as R297 says, where R4 would have them
ignored (DESIGN CHOICE, log 82). -/
def rcbOk (b : List Byte) (level : Nat) : Bool :=
  decide (leAt b 8 1 = level) && decide (level ≤ 7) && zeroAt b 9 10 && decide (leAt b 10 2 < 4096) &&
  decide (leAt b 12 1 < 16) && decide (leAt b 13 1 / 4 % 4 = 0) && decide (leAt b 13 1 / 32 = 0) &&
  decide (leAt b 13 1 % 4 ≠ 3) && zeroAt b 14 16 && decide (leAt b 24 8 < 2 ^ 48) && zeroAt b 68 72 && zeroAt b 88 96 &&
  zeroAt b 128 256

/-- A node's own fields over its parent's effective ones (R296). A root's fields are its own. -/
def effNode (p : Region) (n : RcbNode) (root : Bool) : Region :=
  let own (f : Nat) : Bool := root || decide (leAt n.b 10 2 / 2 ^ f % 2 = 1)
  let num (f o k : Nat) : Nat := if own f then leAt n.b o k else 0
  { ceiling := if own 0 then max (leAt n.b 12 1 % 16) p.ceiling else p.ceiling
    policy := if own 1 then leAt n.b 13 1 % 4 else p.policy
    det := p.det || decide (leAt n.b 13 1 / 16 % 2 = 1)
    troot := if own 3 then trootOf (leAt n.b 16 8) else p.troot
    group := if own 4 then BitVec.ofNat 64 (leAt n.b 24 8) else p.group
    ring := if own 11 then n.va else p.ring
    budgets := p.budgets ++ [(n.at', num 5 32 2, num 6 34 2, num 7 36 2, num 9 40 8)] }

/-- The effective fields of a path, root first; none when it is malformed. -/
def effPath : Nat → Region → List RcbNode → Option Region
  | _, r, [] => some r
  | level, r, n :: rest =>
    if rcbOk n.b level then effPath (level + 1) (effNode r n (decide (level = 0))) rest else none

/-- What reading a region path gives (R297): its effective fields, a wait, a malformed path, or a line that fails
verification. -/
inductive PathRes where
  | ok (r : Region)
  | hold
  | malformed
  | bad (b : BadLine)

/-- The nodes of a path from an RCB up, at most `n`, added before those found. -/
def State.readNodes (s : State) (src : Source) (xroot : Word) : Nat → Nat → List RcbNode → State × VRes (List RcbNode)
  | n, va, acc =>
    if va = 0 then (s, .ok acc)
    else
      match n with
      | 0 => (s, .fault 6 0)
      | n + 1 =>
        if va % 256 ≠ 0 ∨ 2 ^ 55 ≤ va then (s, .fault 6 0)
        else
          match s.blockAt src xroot va false with
          | (s, .ok m) => s.readNodes src xroot n (leAt (s.block m) 0 8) (⟨va, m, s.block m⟩ :: acc)
          | (s, .hold) => (s, .hold)
          | (s, .fault c r) => (s, .fault c r)
          | (s, .bad b) => (s, .bad b)

/-- The effective fields of the region of an RCB (R296, R297). A path whose translation is declined is malformed. -/
def State.region (s : State) (src : Source) (xroot : Word) (rcb : Nat) : State × PathRes :=
  match s.readNodes src xroot 8 rcb [] with
  | (s, .hold) => (s, .hold)
  | (s, .fault _ _) => (s, .malformed)
  | (s, .bad b) => (s, .bad b)
  | (s, .ok ns) =>
    match effPath 0 {} ns with
    | some r => (s, .ok r)
    | none => (s, .malformed)

/-! ### Ready records (R318, R319) -/

/-- The 128 bytes of a ready record. -/
def ReadyRec.bytes (r : ReadyRec) : List Byte :=
  leBytes 8 r.tcb.toNat ++ leBytes 4 r.task.toNat ++ leBytes 4 r.graph.toNat ++
  [BitVec.ofNat 8 (r.prio + 16 * r.prio0),
   BitVec.ofNat 8 (bit (decide (1 < r.tsize)) + 2 * bit r.ring + 4 * bit r.byDec + 8 * bit r.replay), BitVec.ofNat 8 r.tsize] ++ zeros 5 ++
  leBytes 8 r.ready.toNat ++ leBytes 8 r.place.toNat ++ leBytes 2 r.spawner ++ zeros 6 ++ leBytes 8 r.xroot.toNat ++ zeros 72

/-- A record read back from its bytes. -/
def readyOf (id octant : Nat) (b : List Byte) : ReadyRec :=
  { id := id, octant := octant, tcb := BitVec.ofNat 64 (leAt b 0 8), task := BitVec.ofNat 32 (leAt b 8 4)
    graph := BitVec.ofNat 32 (leAt b 12 4), prio := leAt b 16 1 % 16, prio0 := leAt b 16 1 / 16, ring := true
    byDec := decide (leAt b 17 1 / 4 % 2 = 1), tsize := leAt b 18 1, ready := BitVec.ofNat 64 (leAt b 24 8)
    rose := BitVec.ofNat 64 (leAt b 24 8), place := BitVec.ofNat 64 (leAt b 32 8), home := .unresolved
    spawner := leAt b 40 2 % 1024, xroot := BitVec.ofNat 64 (leAt b 48 8) }

/-- A record replaced, and removed. -/
def State.setRec (s : State) (r : ReadyRec) : State := { s with readies := s.readies.map fun x => if x.id = r.id then r else x }
def State.delRec (s : State) (id : Nat) : State := { s with readies := s.readies.filter fun x => x.id != id }

/-- A place of a kind is free in an octant's queues (R319). -/
def State.placeFree (s : State) (octant : Nat) (byDec : Bool) : Bool :=
  decide ((s.readies.filter fun r => decide (r.octant = octant) && (r.byDec == byDec) && r.resume.isNone).length <
    (if byDec then 64 else 4032))

/-! ### Placement (R304, R322) -/

/-- Cores of a cluster of an octant, in core ID order (R15). -/
def clusterCores (o k : Nat) : List Nat :=
  (List.range 4).flatMap fun y => (List.range 4).map fun x => o * 128 + (k / 3 * 4 + y) * 16 + (k % 3 * 4 + x)

/-- The candidate cores of a record, in tiers (R322). A team member whose slice address lies in another octant than the
team's is placed as with no home (R304; DESIGN CHOICE, log 87). -/
def ReadyRec.candidates (r : ReadyRec) : List (List Nat) :=
  let near := if octantOf r.spawner = r.octant then clusterCores r.octant (clusterOf r.spawner) else clusterCores r.octant 0
  match r.resume with
  | some c => [[c]]
  | none =>
    match r.home with
    | .core c => if octantOf c = r.octant then [[c]] else [near]
    | .dram pa =>
      [(List.range 12).map fun x => r.octant * 128 + pa / 256 % 8 * 16 + x] ++
        (if octantOf r.spawner = r.octant then [near] else [])
    | _ => [near]

/-- The core recorded for a task that is rebuilt after a handover: a slot is kept for it there (R343, R417). -/
def State.keptCore (s : State) (tcb : Word) : Option Nat :=
  (s.allocs.find? fun a => decide (a.kind = 4) && decide (a.owner = 0) && decide (a.tcb = tcb) && decide (tcb ≠ 0)).map (·.core)

/-- The cores a record may take, tier by tier (R322, R417). -/
def State.tiers (s : State) (r : ReadyRec) : List (List Nat) :=
  match s.keptCore r.tcb with
  | some c => [[c]]
  | none => r.candidates

/-- A record of a halted region, or of a descendant of one (R353). -/
def State.blockedRec (s : State) (r : ReadyRec) : Bool := r.regions.any fun a => s.haltedRegions.contains a

/-! ### Grants (R323, R324) and budgets (R296) -/

/-- Two address ranges of the map. -/
def State.windowHeld (s : State) (a n : Nat) (more : List (Nat × Nat)) : Bool :=
  (s.allocs.any fun x => decide (x.kind = 0) && overlap a n x.num x.size) || more.any fun x => overlap a n x.1 x.2

/-- The scratch granted to slots 4 and 5 of a core (R379). -/
def State.firmwareWindow (s : State) (core a n : Nat) : Bool :=
  [4, 5].any fun i => [0, 1, 2, 3].any fun j =>
    match windowOf (Kv.get 0 (s.slot (core * 8 + i)).swin j) with
    | some (b, z) => overlap a n b z
    | none => false

/-- The base of a window request on a core (R298, R323): none while it cannot be granted. -/
def State.grantWindow (s : State) (w core : Nat) (more : List (Nat × Nat)) : Option Nat :=
  let size := 4096 * 2 ^ (w / 2 % 16)
  let p := w / 32 % 4
  if p = 2 then
    let b := w / 2 ^ 10 % 2 ^ 33
    if sliceOk b size && !s.windowHeld b size more then some b else none
  else
    let c := if p = 0 then core else w / 2 ^ 33 % 1024
    ((List.range (Config.sliceBytes / size)).map fun i => c * 2 ^ 23 + i * size).find? fun b =>
      coreExists c && !s.windowHeld b size more && !s.firmwareWindow c b size

/-- The windows of a TCB's requests on a core: register values in request order, and their ranges. -/
def State.grantWindows (s : State) (core : Nat) : List Nat → List Word → List (Nat × Nat) → Option (List Word × List (Nat × Nat))
  | [], regs, got => some (regs, got)
  | w :: ws, regs, got =>
    if w % 2 = 0 then s.grantWindows core ws (regs ++ [0]) got
    else
      match s.grantWindow w core got with
      | none => none
      | some b =>
        let o := w / 2 % 16
        s.grantWindows core ws (regs ++ [BitVec.ofNat 64 (b + 2 ^ 33 + o * 2 ^ 36)]) (got ++ [(b, 4096 * 2 ^ o)])

/-- What keeps a unit from a task of a graph: a grant, or a reservation for another graph (R324, R343). A reservation
for a graph's own tasks, `graph` of them, keeps nothing from another of them. -/
def Alloc.keeps (a : Alloc) (graph : Nat) : Bool := decide (a.owner ≠ 0) || decide (graph = 0) || decide (a.graph.toNat ≠ graph)

/-- The lowest `n` free numbers of a kind on a core, of `total`, for a task of a graph. -/
def State.freeUnits (s : State) (graph kind core total n : Nat) : Option (List Nat) :=
  let l := ((List.range total).filter fun i =>
    !s.allocs.any fun x => x.keeps graph && decide (x.kind = kind) && decide (x.core = core) && decide (x.num = i)).take n
  if l.length = n then some l else none

/-- The lowest run of `n` free thunk entries of a core (R251), for a task of a graph. -/
def State.freeThunks (s : State) (graph core n : Nat) : Option Nat :=
  (List.range (257 - n)).find? fun f =>
    !s.allocs.any fun x => x.keeps graph && decide (x.kind = 3) && decide (x.core = core) && overlap f n x.num x.size

/-- Everything a launch is granted. -/
structure Grants where
  wins : List Word
  ranges : List (Nat × Nat)
  tiles : List Nat
  accs : List Nat
  thunk : Nat
  nthunk : Nat

/-- Holdings of a region node (R296): tiles, accumulators, scratch bytes, and the cores that hold its tasks. -/
def State.usage (s : State) (node : Nat) : Nat × Nat × Nat × List Nat :=
  let hs := s.holders.filter fun h => h.regions.contains node
  let mine := s.allocs.filter fun a => hs.any fun h => decide (h.owner = a.owner)
  let count (k : Nat) : Nat := (mine.filter fun a => decide (a.kind = k)).length
  (count 1, count 2, ((mine.filter fun a => decide (a.kind = 0)).map (·.size)).foldl (· + ·) 0, (hs.filterMap (·.core)).eraseDups)

/-- A grant keeps every budget of a region's path (R296). -/
def State.withinBudgets (s : State) (r : Region) (core tiles accs scratch : Nat) : Bool :=
  r.budgets.all fun b =>
    let u := s.usage b.1
    (decide (b.2.1 = 0) || u.2.2.2.contains core || decide (u.2.2.2.length < b.2.1)) &&
    (decide (b.2.2.1 = 0) || decide (u.1 + tiles ≤ b.2.2.1)) &&
    (decide (b.2.2.2.1 = 0) || decide (u.2.1 + accs ≤ b.2.2.2.1)) &&
    (decide (b.2.2.2.2 = 0) || decide (u.2.2.1 + scratch ≤ b.2.2.2.2))

/-- The usage words of the nodes of a path made anew (R295, R296). -/
def State.writeUsage (s : State) (nodes : List Nat) : State :=
  nodes.foldl (fun s m =>
    let u := s.usage m
    s.putMain (m + 96) (leBytes 2 u.2.2.2.length ++ leBytes 2 u.1 ++ leBytes 2 u.2.1 ++ zeros 2 ++ leBytes 8 u.2.2.1 ++ zeros 16)) s

/-- Grants of one owner returned: all of them, or all but its windows (R323). -/
def State.returnGrants (s : State) (owner : Nat) (keepWindows : Bool) : State :=
  let nodes := ((s.holders.filter fun h => decide (h.owner = owner)).flatMap (·.regions)).eraseDups
  let s1 := { s with
    allocs := s.allocs.filter fun a => decide (a.owner ≠ owner) || (keepWindows && decide (a.kind = 0))
    holders := if keepWindows then s.holders.map fun (h : Holder) => if h.owner = owner then { h with core := none } else h
      else s.holders.filter fun h => decide (h.owner ≠ owner) }
  s1.writeUsage nodes

/-- What a slot holds waits for no translation any more (R308, R313): its streams, its commands `us`, its save area. -/
def State.dropWaiters (s : State) (sk : Nat) (us : List Nat) : State :=
  State.sweepRequests { s with
    requests := s.requests.map fun (r : Request) => { r with waiters := r.waiters.filter fun w =>
        match w with
        | .command u => !us.contains u
        | .fetch k => decide (slotKey k ≠ sk)
        | .atomic k => decide (slotKey k ≠ sk)
        | .save k => decide (k ≠ sk)
        | _ => true } }

/-- A slot left by its task: nothing of it waits for a translation, its sequencers are inactive, and its state is as
before a launch, but for FLAST, CSTALL, the command count (R413) and what the map of grants keeps. -/
def State.clearSlot (s0 : State) (sk : Nat) : State :=
  let c := s0.slot sk
  let s := s0.dropWaiters sk []
  let s1 := (List.range 4).foldl (fun s r => s.setSeq (sk * 4 + r) { tlb := (s.seq (sk * 4 + r)).tlb }) s
  { s1.setSlot sk { Slot.init sk with flast := c.flast, cstall := c.cstall, nextCmd := c.nextCmd } with
    spill := s.spill.filter fun x => decide (x.1 / 1024 ≠ sk) }

end Sys2Proof.Machine
end

