-- ==== Sys2Proof/Machine/Tasks.lean ====
section
/-! DEFINITION. Tasks (R301 to R317): release, SPAWN, dependence counters, TRIG, EXIT, SHAPEW, futures, YIELD, and the
guard instructions (R344). -/

namespace Sys2Proof.Machine

/-! ### Release (R297, R304, R318, R420) -/

/-- A graph's task has ended for good: done, or faulted with no hold outstanding (R378). -/
def State.taskOver (s : State) (graph : Nat) (tcb : Word) (faulted : Bool) : State :=
  match s.graph graph with
  | none => s
  | some g =>
    let i := g.tcbs.idxOf tcb
    if g.tcbs.length ≤ i then s
    else
      s.setGraph (if faulted then { g with faultedTasks := (g.faultedTasks ++ [i]).eraseDups }
        else { g with doneTasks := (g.doneTasks ++ [i]).eraseDups })

/-- The successors of a task without a slot are still to be decremented (R305, R353); the first `skip` already are. -/
def State.endingOf (s : State) (xroot : Word) (m core skip : Nat) (ids : List Nat) : State :=
  let t := s.block m
  if leAt t 120 4 ≤ skip then s
  else
    { s with
      nextRec := s.nextRec + 1
      endings := s.endings ++
        [⟨s.nextRec, BitVec.ofNat 32 (leAt t 0 4), xroot, leAt t 112 8 + 8 * skip, leAt t 120 4 - skip, core, ids⟩] }

/-- The TCB of member `j` of a record is faulted with a code, where it can be reached; with `ends`, its successors are
decremented (R353, policy 2). -/
def State.faultMember (s : State) (r : ReadyRec) (code : Nat) (ends : Bool) (j : Nat) : State :=
  let va := r.tcb + BitVec.ofNat 64 (256 * j)
  let s1 : State :=
    match s.blockAt (dispSource r.octant r.id) r.xroot va.toNat true with
    | (t, .ok m) =>
      let t := t.blockSet m 200 4 (7 + code * 65536)
      if ends then t.endingOf r.xroot m r.spawner 0 [] else t
    | _ => s
  s1.taskOver r.graph.toNat va true

/-- A released task, or a team, that cannot run (R297, R304, R420): its TCBs are faulted, the record names member `j` and
goes to the policy core, and the ready record is gone. That the members of a team are faulted together is a DESIGN CHOICE
(log 83). -/
def State.refuseRec (s : State) (r : ReadyRec) (code engine status j : Nat) (bad : Option BadLine) : State :=
  let t : TrapRec := { time := s.time, task := r.task, stream := 4, core := r.spawner, engine := engine, code := code
                       addr := BitVec.ofNat 56 (r.tcb.toNat + 256 * j), status := BitVec.ofNat 32 (status + 256 * j) }
  let t1 := match bad with
    | some b => t.withBad b
    | none => t
  let s1 := (List.range r.tsize).foldl (fun s j => s.faultMember r code (decide (code = 5)) j) s
  { s1.countSoft t1 with policy := s1.policy ++ [PolicyRec.trap t1] }.delRec r.id

/-- What a placement word gives (R304): a place, a wait, a slice address that fails R147, or a page-table line that fails
verification. -/
inductive HomeRes where
  | ok (h : Placed)
  | hold
  | bounds
  | bad (b : BadLine)

/-- A placement word of a task translated (R304): an unreachable or refused one acts as no home. -/
def State.homeOf (s : State) (src : Source) (xroot w tcb : Word) : State × HomeRes :=
  if bits w 62 2 = 1 then
    (s, if sliceOk (bits w 0 55) 1 then .ok (.core (bits w 23 10)) else .bounds)
  else if bits w 62 2 = 2 then
    match s.xlatePlain src xroot (bits w 0 55) { kind := 0, copy := true } with
    | (s, .hold) => (s, .hold)
    | (s, .ok pa _) => (s, .ok (if pa / 2 ^ 50 < 2 then .dram (pa % 2 ^ 40) else .nowhere))
    | (s, .bad b) => (s, .bad b)
    | (s, .fault _ _) => (s.event "placement declined" tcb w, .ok .nowhere)
  else (s, .ok .nowhere)

/-- The octant of a place (R304), the spawning core's where it names none. -/
def Placed.octant (h : Placed) (spawner : Nat) : Nat :=
  match h with
  | .core c => octantOf c
  | .dram pa => pa / Config.octantBytes
  | _ => octantOf spawner

/-- The placement word of a record translated, and the record routed by it (R304). -/
def State.placeRec (s : State) (r : ReadyRec) : State :=
  match s.homeOf (dispSource (octantOf r.spawner) r.id) r.xroot r.place r.tcb with
  | (s, .hold) => s
  | (s, .bounds) => s.refuseRec r 3 8 9 0 none
  | (s, .bad b) => s.refuseRec r 7 8 0 0 (some b)
  | (s, .ok h) => s.setRec { r with home := h, octant := ((s.keptCore r.tcb).map octantOf).getD (h.octant r.spawner) }

/-- The RCB paths of a record's members walked, and the placement words of those after the first (R297, R304): the
priority at release of the first, and its priority tokens (R356). A wait keeps what has been read. -/
def State.walkRec (s : State) (r : ReadyRec) : Nat → State
  | 0 => s
  | n + 1 =>
    let src := dispSource r.octant r.id
    let j := r.homes.length
    if r.tsize ≤ j then s.setRec { r with walked := true }
    else
      match s.blockAt src r.xroot (r.tcb.toNat + 256 * j) false with
      | (s, .hold) => s
      | (s, .fault _ _) => s.refuseRec r 6 9 7 j none
      | (s, .bad b) => s.refuseRec r 7 9 0 j (some b)
      | (s, .ok m) =>
        let t := s.block m
        match s.region src r.xroot (leAt t 176 8) with
        | (s, .hold) => s
        | (s, .malformed) => s.refuseRec r 6 9 7 j none
        | (s, .bad b) => s.refuseRec r 7 9 0 j (some b)
        | (s, .ok g) =>
          let h := if j = 0 then (s, HomeRes.ok r.home) else s.homeOf src r.xroot (BitVec.ofNat 64 (leAt t 104 8)) r.tcb
          match h with
          | (s, .hold) => s
          | (s, .bounds) => s.refuseRec r 3 8 9 j none
          | (s, .bad b) => s.refuseRec r 7 8 0 j (some b)
          | (s, .ok h) =>
            let p := max (leAt t 12 1 % 16) g.ceiling
            let r1 := { r with homes := r.homes ++ [h] }
            let r2 := if j = 0 then
                { r1 with ceiling := g.ceiling, regions := g.budgets.map (·.1), prio := p, prio0 := p, tokens := leAt t 12 1 / 16 }
              else r1
            (s.setRec r2).walkRec r2 n

/-- A record goes as far towards its queue as it can. -/
def State.settleRec (s : State) (id : Nat) : State :=
  let s1 : State :=
    match s.readies.find? (fun r => r.id == id) with
    | some r => if r.home = .unresolved then s.placeRec r else s
    | none => s
  match s1.readies.find? (fun r => r.id == id) with
  | some r => if r.home = .unresolved || r.walked then s1 else s1.walkRec r (r.tsize + 1)
  | none => s1

/-- The octant whose queues a released task enters, as far as its placement word says without a translation (R304): of a
task that is rebuilt, that of its recorded core (R417). -/
def State.releaseOctant (s : State) (tcb place : Word) (spawner : Nat) : Nat :=
  match s.keptCore tcb with
  | some c => octantOf c
  | none => if bits place 62 2 = 1 ∧ sliceOk (bits place 0 55) 1 = true then octantOf (bits place 23 10) else octantOf spawner

/-- The record of a released task or team, from the bytes of its first TCB (R318). -/
def State.newRec (s : State) (t : List Byte) (tcb xroot place : Word) (spawner : Nat) (byDec : Bool) : ReadyRec :=
  { id := s.nextRec, octant := s.releaseOctant tcb place spawner, tcb := tcb, task := BitVec.ofNat 32 (leAt t 0 4)
    graph := s.graphOf tcb (leAt t 4 4), prio := leAt t 12 1 % 16, prio0 := leAt t 12 1 % 16, ring := false
    byDec := byDec, tsize := max 1 (leAt t 220 1), ready := s.time, rose := s.time, place := place
    home := .unresolved, spawner := spawner, xroot := xroot }

/-- The TCBs of a released task or team, at places `ms`, become ready (R298). -/
def State.setReady (s : State) (ms : List Nat) : State := ms.foldl (fun s m => s.blockSet m 200 4 2) s

/-- A record enters an octant's queues (R304, R318): its TCBs become ready. -/
def State.enterRec (s : State) (ms : List Nat) (tcb xroot place : Word) (spawner : Nat) (byDec : Bool) : State :=
  let r := s.newRec (s.block (ms.headD 0)) tcb xroot place spawner byDec
  let s1 := s.setReady ms
  ({ s1 with readies := s1.readies ++ [r], nextRec := s1.nextRec + 1 }).settleRec r.id

/-- What spilling a record to an overflow ring comes to (R327): done, no room, a wait, a declined page of the ring, or a
record that cannot run: its fault code, status and bad line. -/
inductive Spilled where
  | done (s : State)
  | full (s : State)
  | hold (s : State)
  | unmapped (s : State) (rcb : Nat)
  | refused (s : State) (code status : Nat) (bad : Option BadLine)

/-- A record spilled to the ring of its region at wr, and wr raised (R318, R326, R327). A base that is no virtual address
or no multiple of 65,536 (R81, R326) is met as a page of the ring that is declined (DESIGN CHOICE, log 84). -/
def State.spillRec (s : State) (src : Source) (r : ReadyRec) (rcb : Nat) : Spilled :=
  match s.region src r.xroot rcb with
  | (s, .hold) => .hold s
  | (s, .malformed) => .refused s 6 7 none
  | (s, .bad b) => .refused s 7 0 (some b)
  | (s, .ok g) =>
    if g.ring = 0 then .full s
    else
      match s.blockAt src r.xroot g.ring true with
      | (s, .hold) => .hold s
      | (s, .fault _ _) => .unmapped s rcb
      | (s, .bad b) => .refused s 7 0 (some b)
      | (s, .ok m) =>
        let b := s.block m
        let size := leAt b 64 4
        let wr := leAt b 72 8
        let base := leAt b 56 8
        if size = 0 ∨ size ≤ wr - leAt b 80 8 then .full s
        else if base % 65536 ≠ 0 ∨ 2 ^ 55 < base + 128 * size then .unmapped s rcb
        else
          let p := max r.prio g.ceiling
          match s.writeVirt src r.xroot (originTag 0 0) 0 1 (base + 128 * (wr % size)) { r with prio := p, prio0 := p }.bytes 0 with
          | (s, _, .hold) => .hold s
          | (s, _, .ok _) =>
            let entry := (BitVec.ofNat 64 g.ring, r.xroot)
            .done { s.blockSet m 72 8 (wr + 1) with rings := if s.rings.contains entry then s.rings else s.rings ++ [entry] }
          | (s, _, .fault _ _) => .unmapped s rcb
          | (s, _, .bad b) => .refused s 7 0 (some b)

/-- RELEASE (R304, R319, R327): into a free place, else into the ring. `change` makes the task's changes, only when there
is room; `ms` are the places of its TCBs. -/
def State.releaseTask (s : State) (src : Source) (ms : List Nat) (tcb xroot place : Word) (spawner : Nat) (byDec : Bool)
    (change : State → State) : Spilled :=
  if s.placeFree (s.releaseOctant tcb place spawner) byDec then .done ((change s).enterRec ms tcb xroot place spawner byDec)
  else
    let t := (change s).block (ms.headD 0)
    let r := { s.newRec t tcb xroot place spawner byDec with id := 0 }
    match s.spillRec src r (leAt t 176 8) with
    | .done s => .done ((change s).setReady ms)
    | .refused s code st bad => .done ((change s).refuseRec r code 9 st 0 bad)
    | x => x

/-! ### Decrements (R305) -/

/-- The places of a team's members from the second on, `n` of them, reached through the team's own translation root
(R298), after those in `ms`; and what came of the last one asked for. -/
def State.memberPlaces (s : State) (src : Source) (xroot : Word) (va : Nat) : Nat → List Nat → State × List Nat × VRes Unit
  | 0, ms => (s, ms, .ok ())
  | n + 1, ms =>
    match s.blockAt src xroot (va + 256) true with
    | (s, .hold) => (s, ms, .hold)
    | (s, .ok m) => s.memberPlaces src xroot (va + 256) n (ms ++ [m])
    | (s, .fault c r) => (s, ms, .fault c r)
    | (s, .bad b) => (s, ms, .bad b)

/-- The placement word with which an armed TCB is released (R301, R304): its SPAWN's, or its own. -/
def State.placement (s : State) (m : Nat) : Word :=
  ((s.placements.find? fun p => p.1 == m).map (·.2)).getD (BitVec.ofNat 64 (leAt (s.block m) 104 8))

/-- A decrement of a TCB's counter: true when it was 0 already. One that brings it to 0 on a spawned TCB releases it;
it waits while its record finds no room, and a team with a member that cannot be reached is refused as at any release
(R297). `ids` are the tasks that a deterministic decrementing task depends on, itself
included (R293). -/
def State.decrement (s : State) (src : Source) (troot : Word) (va : Nat) (ids : List Nat) : State × VRes Bool :=
  match s.blockAt src troot va true with
  | (s, .hold) => (s, .hold)
  | (s, .fault c r) => (s, .fault c r)
  | (s, .bad b) => (s, .bad b)
  | (s, .ok m) =>
    let t := s.block m
    let n := leAt t 8 4
    if n = 0 then (s, .ok true)
    else if 1 < n ∨ (tcbState t ≠ 1 ∧ tcbState t ≠ 4) then ((s.depEdge m ids).blockSet m 8 4 (n - 1), .ok false)
    else
      let xroot := BitVec.ofNat 64 (leAt t 248 8)
      let tcb := BitVec.ofNat 64 va
      let zero (s : State) : State := (s.depEdge m ids).blockSet m 8 4 0
      let refuse (s : State) (code j : Nat) (bad : Option BadLine) : State × VRes Bool :=
        ((zero s).refuseRec { s.newRec t tcb xroot (s.placement m) (leAt t 232 2 % 1024) true with id := 0 } code 9
          (if code = 6 then 7 else 0) j bad, .ok false)
      match s.memberPlaces src xroot va (leAt t 220 1 - 1) [m] with
      | (s, _, .hold) => (s, .hold)
      | (s, ms, .fault _ _) => refuse s 6 ms.length none
      | (s, ms, .bad b) => refuse s 7 ms.length (some b)
      | (s, ms, .ok _) =>
        match s.releaseTask src ms tcb xroot (s.placement m) (leAt t 232 2 % 1024) true zero with
        | .done s => (s, .ok false)
        | .full s => (s, .hold)
        | .hold s => (s, .hold)
        | .unmapped s _ => (s, .fault 14 0)
        | .refused s _ _ _ => (s, .hold)

/-- A trap of the task unit against the instruction at the PC: code, status and index (R314). -/
def State.trapTask (s : State) (k code status index addr : Nat) : State := s.trapAt k code 8 addr (status + index * 256)

/-- An integrity trap of the task unit against the instruction at the PC, at the successor of an index (R97, R314). -/
def State.trapListed (s : State) (k index : Nat) (b : BadLine) : State :=
  s.trapSeq k ({ s.trapBase k with code := 7, engine := 8, status := BitVec.ofNat 32 (index * 256), prec := true }.withBad b)

/-- The graph of a task is being rebuilt after a handover, or is to be, since the notice that ends its replay is on its
way: decrements of its tasks wait (R343). -/
def State.rebuilding (s : State) (graph : Nat) : Bool :=
  s.graphs.any fun g => decide (g.id = graph) &&
    if g.mode = 2 then s.noticed g else decide (g.mode = 3) && !g.toRelease.isEmpty

/-- What decrementing the successors that are left comes to: all are done, one waits, or one has faulted. -/
inductive Decs where
  | done (s : State)
  | wait (s : State)
  | trap (s : State)

/-- The successors still listed, the first of index `i`, are decremented as far as they may be (R305, R314, R327, R328,
R343). -/
def State.runDecs (s : State) (k : Nat) : Nat → Nat → List Nat → Decs
  | _, i, [] => .done (s.modSlot (slotKey k) fun c => { c with decs := some (i, []) })
  | 0, i, l => .wait (s.modSlot (slotKey k) fun c => { c with decs := some (i, l) })
  | n + 1, i, va :: rest =>
    let c := s.slot (slotKey k)
    let left (s : State) : State := s.modSlot (slotKey k) fun c => { c with decs := some (i, va :: rest) }
    if s.rebuilding c.graph then .wait (left s)
    else if !tcbPlace va then .trap ((left s).trapTask k 6 1 i va)
    else
      match s.decrement (taskSource k) c.xroot va (s.ovIds (slotKey k)) with
      | (s, .ok false) => s.runDecs k n (i + 1) rest
      | (s, .ok true) => (s.event "decrement of zero" c.tcb (BitVec.ofNat 64 va)).runDecs k n (i + 1) rest
      | (s, .hold) => .wait (left s)
      | (s, .fault 14 _) => .trap ((left s).trapAt k 14 9 va)
      | (s, .fault code _) => .trap ((left s).trapTask k code 0 i va)
      | (s, .bad b) => .trap ((left s).trapListed k i b)

/-- A fault of something that the module does for a task after the instruction has retired: the task's, while it is in
its slot; else the record goes to the policy core only (R328, R351). -/
def State.blame (s : State) (sk : Nat) (task : BitVec 32) (r : TrapRec) : State :=
  let t := { r with time := s.time, task := task, core := sk / 8, slot := slotNum sk }
  if (s.slot sk).busy && decide (slotNum sk < 4) && decide ((s.slot sk).taskid.setWidth 32 = task) then s.takeTrap sk t
  else { s.countSoft t with policy := s.policy ++ [PolicyRec.trap t] }

/-- The next waiter of a future's list: its link cleared and its counter decremented; whether that led anywhere. A waiter
that cannot be reached, or whose record's ring is refused, stays, and those after it (R311, R328; DESIGN CHOICE, log
85). -/
def State.serveWake (s : State) (w : Wake) : State × Bool :=
  let src : Source := { waiter := .wake w.id, core := w.slot / 8, slot := slotNum w.slot, engine := 5 }
  let put (s : State) (l : List Wake) : State := { s with wakes := s.wakes.flatMap fun x => if x.id = w.id then l else [x] }
  let drop (s : State) : State := (put s []).event "future waiter refused" w.cell w.tcb
  match s.blockAt src w.troot w.tcb.toNat true with
  | (s, .hold) => (s, false)
  | (s, .fault _ _) => (drop s, true)
  | (s, .bad b) => ((drop s).blame w.slot w.task ({ stream := 1, engine := 8, code := 7 : TrapRec }.withBad b), true)
  | (s, .ok m) =>
    let next := leAt (s.block m) 192 8
    match (s.blockSet m 192 8 0).decrement src w.troot w.tcb.toNat w.ids with
    | (t, .hold) => ({ s with requests := t.requests, nextReq := t.nextReq }, false)
    | (t, .ok z) =>
      let t1 := if z then t.event "decrement of zero" w.cell w.tcb else t
      (put t1 (if next = 0 then [] else [{ w with tcb := BitVec.ofNat 64 next }]), true)
    | (t, .fault 14 _) => ((drop t).blame w.slot w.task { stream := 1, engine := 9, code := 14, addr := w.tcb.setWidth 56 }, true)
    | (t, .fault _ _) => (drop t, true)
    | (t, .bad b) => ((drop t).blame w.slot w.task ({ stream := 1, engine := 8, code := 7 : TrapRec }.withBad b), true)

/-- FUTURE_WAITER_DECREMENT (R311): one waiter of the first future whose list can go on. -/
def State.wakeStep (s : State) : List Wake → State
  | [] => s
  | w :: rest =>
    match s.serveWake w with
    | (t, true) => t
    | (t, false) => t.wakeStep rest

def execFutureWaiterDecrement (s : State) : Out := .next (s.wakeStep s.wakes)

/-- DEPDEC (R306): a strong release; its decrement has performed when it retires. -/
def execDepdec (a : BitVec 5) (t : BitVec 4) (s : State) : Out :=
  .next (issueShort ⟨rolesX, true, t, [a], false, none⟩
    (fun s =>
      let va := s.reg s.cur a
      if s.heldBack s.cur .amo then .hold s
      else if !virtOk va then .trap (s.trapAt s.cur 3 0 va.toNat)
      else if va.toNat % 256 ≠ 0 then .trap (s.trapTask s.cur 6 1 0 va.toNat)
      else .go s)
    (fun s =>
      let va := s.reg s.cur a
      Res.issuedMark s.cur false <| if !s.queuesEmpty s.cur || s.cmds.any (fun c => decide (c.seqk = s.cur)) then .hold s
      else
        match s.decrement (taskSource s.cur) (s.slot (slotKey s.cur)).troot va.toNat (s.ovIds (slotKey s.cur)) with
        | (s, .hold) => .hold s
        | (s, .fault 14 _) => .trap (s.trapAt s.cur 14 9 va.toNat)
        | (s, .fault c _) => .trap (s.trapTask s.cur c 0 0 va.toNat)
        | (s, .bad b) => .trap (s.trapBad s.cur 8 b)
        | (s, .ok true) => .trap (s.trapTask s.cur 6 2 0 va.toNat)
        | (s, .ok false) => .go ((s.adv s.cur 4).mark' s.cur true)) s)

/-! ### Task ends (R307, R308, R339, R342) -/

/-- The posts that follow a task's end in its control stream (R338, R340). -/
def Graph.endPosts (g : Graph) (core tix : Nat) : List (Nat × Nat) :=
  let after := ((imageRecs g.image core 0).dropWhile fun r =>
    !(decide (leAt r 0 1 % 16 = 7) && decide (leAt r 4 4 = tix))).drop 1
  (after.takeWhile fun r => decide (leAt r 0 1 % 16 = 4)).map fun r => (leAt r 8 2, leAt r 4 2)

/-- What a task's end means to its successors: whether the module decrements them. A recorded task's end is staged; a
replayed one posts its semaphores instead (R339, R342). -/
def State.taskEnds (s : State) (sk : Nat) (trig : Bool) : State × Bool :=
  let c := s.slot sk
  match s.graph c.graph with
  | none => (s, true)
  | some g =>
    let s1 := s.setGraph { g with ended := (g.ended ++ [c.tix]).eraseDups }
    if c.mode = 1 then (s1.stage g.id (sk / 8) 0 [traceRec 7 [(4, leBytes 4 c.tix), (8, [BitVec.ofNat 8 (bit trig)])]], true)
    else if c.mode = 2 then
      let now := (Kv.get 0 s.cycles g.clock).toNat
      (s.setGraph { g with
        ended := (g.ended ++ [c.tix]).eraseDups, posts := g.posts ++ g.endPosts (sk / 8) c.tix
        spans := g.spans.map fun x => if x.1 = c.tix then (x.1, x.2.1, now) else x }, false)
    else (s1, true)

/-- TRIG (R307). -/
def execTrig (t : BitVec 4) (s : State) : Out :=
  .next (issueShort ⟨rolesX, true, t, [], false, none⟩
    (fun s => if s.heldBack s.cur .amo then .hold s else .go s)
    (fun s =>
      let k := s.cur
      let sk := slotKey k
      let c := s.slot sk
      let finish (d : Decs) : Res :=
        match d with
        | .done s => .go (((s.modSlot sk fun c => { c with decs := none, trigUid := none }).adv k 4).mark' k true)
        | .wait s => .hold s
        | .trap s => .trap s
      Res.issuedMark k false <| match c.decs with
      | some l => finish (s.runDecs k 65536 l.1 l.2)
      | none =>
        if c.triggered then .go ((s.adv k 4).mark' k true)
        else
          match (s.seq k).trigWait with
          | none =>
            let es := [0, 1, 2].flatMap fun r => (s.entryIds (sk * 4 + r)).map fun i => (sk * 4 + r, i)
            .hold ((s.modSlot sk fun c => { c with trigUid := some s.nextUid }).modSeq k fun q =>
              { q with trigWait := some (es, (s.inFlight sk).map (·.uid)) })
          | some w =>
            if w.1.any (fun e => s.entryLeft e.1 e.2) || w.2.any (fun u => s.cmds.any (·.uid == u)) then
              .hold s
            else
              match s.successors k with
              | .hold s => .hold s
              | .fault s code st i a => .trap (s.trapTask k code st i a)
              | .bad s i b => .trap (s.trapListed k i b)
              | .ok s l =>
                match s.blockAt (taskSource k) c.xroot c.tcb.toNat true with
                | (s, .hold) => .hold s
                | (s, .fault code _) => .trap (s.trapTask k code 0 0 c.tcb.toNat)
                | (s, .bad b) => .trap (s.trapBad k 8 b)
                | (s, .ok m) =>
                  let s1 := s.blockSet m 200 4 (leAt (s.block m) 200 4 ||| 16)
                  let s2 := (s1.modSlot sk fun c => { c with triggered := true }).modSeq k fun q => { q with trigWait := none }
                  match s2.taskEnds sk true with
                  | (s, false) => finish (.done s)
                  | (s, true) => finish (s.runDecs k 65536 0 l)) s)

/-- The record of a histogram (R77). -/
def histRecord (tid : Nat) (h : Hist) : List Byte :=
  ((List.range 32).flatMap fun b => leBytes 4 (Kv.get 0 h.bins b)) ++ leBytes 4 h.sat ++ [h.hb, BitVec.ofNat 8 tid] ++
  leBytes 2 1 ++ zeros 8

/-- The source of a slot's accesses to its task's save area (R360). -/
def saveSource (sk : Nat) : Source := { waiter := .save sk, core := sk / 8, slot := slotNum sk, engine := 3 }

/-- The histogram records of a slot (R77): their places in its task's save area. -/
def Slot.histParts (c : Slot) : List (Nat × List Byte) :=
  c.hist.map fun h => (c.save.toNat + 0x1000 + 144 * h.1, histRecord h.1 h.2)

/-- The histogram records of a slot written to its task's save area (R77). What has performed when a page has to be waited
for is not written again (R89). -/
def State.writeHists (s : State) (sk : Nat) : State × VRes Unit :=
  let c := s.slot sk
  match s.writeAll (saveSource sk) c.troot (originTag 0 (sk / 8)) c.histParts c.saved c.saved with
  | (s, d, .hold) => (s.modSlot sk fun c => { c with saved := d }, .hold)
  | (s, d, .ok _) => (s.modSlot sk fun c => { c with saved := d }, .ok ())
  | (s, _, x) => (s, x)

/-- The present length of PRUN (R370): earlier run time, and TIME since the launch or resume. -/
def State.prun (s : State) (sk : Nat) : Nat :=
  let c := s.slot sk
  c.prunBase.toNat + (match c.runSince with
    | some t => s.time.toNat - t.toNat
    | none => 0)

/-- The slot of a finished task freed, with every grant (R308). -/
def State.freeTask (s : State) (sk : Nat) : State := (s.returnGrants (s.slot sk).owner false).clearSlot sk

/-- EXIT of a task once its slot's work has performed (R308): histogram records, result and status, the successors,
the slot. -/
def State.exitTask (s : State) (k : Nat) (result : Word) : Res :=
  let sk := slotKey k
  let c := s.slot sk
  let free (s : State) : Res := .hold ((s.taskOver c.graph c.tcb false).freeTask sk)
  let finish (d : Decs) : Res :=
    match d with
    | .done s => free s
    | .wait s => .hold s
    | .trap s => .trap s
  match c.decs with
  | some l => finish (s.runDecs k 65536 l.1 l.2)
  | none =>
    match s.writeHists sk with
    | (s, .hold) => .hold s
    | (s, .fault code _) => .trap (s.trapTask k code 0 0 c.save.toNat)
    | (s, .bad b) => .trap (s.trapBad k 8 b)
    | (s, .ok _) =>
      match if c.triggered then .ok s [] else s.successors k with
      | .hold s => .hold s
      | .fault s code st i a => .trap (s.trapTask k code st i a)
      | .bad s i b => .trap (s.trapListed k i b)
      | .ok s l =>
        match s.blockAt (taskSource k) c.xroot c.tcb.toNat true with
        | (s, .hold) => .hold s
        | (s, .fault code _) => .trap (s.trapTask k code 0 0 c.tcb.toNat)
        | (s, .bad b) => .trap (s.trapBad k 8 b)
        | (s, .ok m) =>
          let s1 := (s.blockSet m 208 8 result.toNat).blockSet m 200 4 ((leAt (s.block m) 200 4 &&& 16) + 6)
          let s2 := s1.modSlot sk fun c => { c with nodes := [], queues := [], cqL := [], cqS := [], lx := 0, xl := 0, xs := 0, sx := 0 }
          let ends := if c.triggered then (s2, false) else s2.taskEnds sk false
          if ends.2 then finish (ends.1.runDecs k 65536 0 l) else free ends.1

/-- A handler run ends (R135, R308): its result is discarded and slot 4 is dormant again. -/
def State.exitHandler (s : State) (k : Nat) : State :=
  (s.modSeq k fun q => { q with active := false, issued := false }).modSlot (slotKey k) fun c => { c with busy := false }

/-- EXIT with a result word (R308). In X, L and S issue nothing more from here on. -/
def exitWith (f : Form) (result : State → Word) (s : State) : State :=
  issueShort f preGo
    (fun s =>
      let k := s.cur
      let sk := slotKey k
      if roleOf k = 3 then
        if s.queuesEmpty k && (s.inFlight sk).isEmpty then .hold (s.exitHandler k) else .hold s
      else
        let r := (s.slot sk).exiting.getD (result s)
        let s1 := s.modSlot sk fun c => { c with exiting := some r }
        if [0, 1, 2].any (fun i => !s1.queuesEmpty (sk * 4 + i) || (s1.seq (sk * 4 + i)).strong) ||
            s1.cmds.any (fun c => decide (slotKey c.seqk = sk)) then .hold s1
        else s1.exitTask k r) s

/-- EXIT (R308): X and H; in slot 5 an illegal instruction. -/
def execExit (a : BitVec 5) (t : BitVec 4) (s : State) : Out :=
  .next (exitWith ⟨fun slot role => decide (slot ≠ 5) && (decide (role = 1) || decide (role = 3)), true, t, [a], true, none⟩
    (fun s => s.reg s.cur a) s)

/-- The end of an X stream acts as EXIT of s0 (R308). -/
def State.endStream (s : State) : State := exitWith ⟨rolesX, true, 0, [], true, none⟩ (fun _ => 0) s

/-! ### SPAWN (R301 to R304) -/

/-- The operand of a SPAWN, and whether the command is one. -/
def isSpawn : Instr → Bool
  | .spawn _ _ _ _ _ => true
  | _ => false

/-- A trap of the task unit against a SPAWN (R314). -/
def State.trapSpawn (s : State) (c : Cmd) (code status index addr : Nat) : State :=
  s.trapCmd c (s.cmdRec c code 8 (status + index * 256) 0 addr)

/-- What reading the members of a SPAWN gives: their places in memory, or a state to stop in. -/
inductive Members where
  | ok (s : State) (ms : List Nat)
  | stop (s : State)

/-- Members `j` on, `n` of them, read and checked (R302); the places of the first 64 are kept. A member that would lie past
the virtual addresses is out of range (DESIGN CHOICE, log 86). -/
def State.spawnMembers (s : State) (c : Cmd) : Nat → Nat → List Nat → Members
  | 0, _, ms => .ok s ms
  | n + 1, j, ms =>
    let va := c.v1.toNat + 256 * j
    if 2 ^ 55 ≤ va then .stop (s.trapSpawn c 6 1 j va)
    else
      match s.blockAt (cmdSource c 3) (s.slot (slotKey c.seqk)).troot va true with
      | (s, .hold) => .stop s
      | (s, .fault code _) => .stop (s.trapSpawn c code 0 j va)
      | (s, .bad b) => .stop (s.trapCmd c ((s.cmdRec c 7 8 (j * 256) 0 va).withBad b))
      | (s, .ok m) =>
        let t := s.block m
        if !tcbOk t || decide (tcbState t ≠ 0 ∧ tcbState t ≠ 6) then .stop (s.trapSpawn c 6 1 j va)
        else if 0 < j ∧ leAt t 8 4 ≠ 0 then .stop (s.trapSpawn c 6 8 j va)
        else s.spawnMembers c n (j + 1) (if j < 64 then ms ++ [m] else ms)

/-- The next value of the task counter (R303). -/
def State.nextTask (s : State) : State × BitVec 32 :=
  ({ s with taskCounter := if s.taskCounter + 1 = 0 then 1 else s.taskCounter + 1 }, s.taskCounter)

/-- The members of a SPAWN armed (R302): task IDs, status, team, spawner, xroot; each placed by its own word until a SPAWN
says otherwise (R301). `lead` is the ID of the first. -/
def State.armMembers (s : State) (xroot : Word) (spawner n : Nat) : Nat → Option (BitVec 32) → List Nat → State
  | _, _, [] => s
  | j, lead, m :: rest =>
    let own := leAt (s.block m) 0 4
    let r := if own = 0 then s.nextTask else (s, BitVec.ofNat 32 own)
    let id := lead.getD r.2
    let s1 := ((((r.1.blockSet m 0 4 r.2.toNat).blockSet m 200 4 1).blockSet m 216 8
      (id.toNat + n * 2 ^ 32 + j * 2 ^ 40)).blockSet m 232 2 spawner).blockSet m 248 8 xroot.toNat
    { s1 with placements := s1.placements.filter fun p => p.1 != m }.armMembers xroot spawner n (j + 1) (some id) rest

/-- A placement word with a reserved kind or bit (R298). -/
def badPlace (w : Nat) : Bool := decide (w / 2 ^ 62 = 3) || decide (w / 2 ^ 55 % 128 ≠ 0)

/-- A placement word that names a slice address outside the slices (R147, R304). -/
def sliceMiss (w : Nat) : Bool := decide (w / 2 ^ 62 = 1) && !sliceOk (w % 2 ^ 55) 1

/-- A SPAWN starts, or tries again (R302). -/
def State.runSpawn (s : State) (c : Cmd) : State :=
  let sk := slotKey c.seqk
  let core := coreOf c.seqk
  let n := if c.v3 = 0 then 1 else c.v3.toNat
  if c.phase = .done ∨ c.failed = true then s
  else if c.v1.toNat % 256 ≠ 0 then s.trapSpawn c 6 1 0 c.v1.toNat
  else
    let c := { c with phase := .running }
    let s0 := s.setCmd c
    match s0.spawnMembers c n 0 [] with
    | .stop s => s
    | .ok s ms =>
      if 64 < n then s.trapSpawn c 6 8 0 c.v1.toNat
      else
        let m0 := ms.headD 0
        let now := decide (leAt (s.block m0) 8 4 = 0)
        let places := ms.zipIdx.map fun m => if m.2 = 0 ∧ c.v2 ≠ 0 then c.v2.toNat else leAt (s.block m.1) 104 8
        match places.zipIdx.find? fun p => badPlace p.1 || (now && sliceMiss p.1) with
        | some p => s.trapSpawn c 3 9 p.2 (p.1 % 2 ^ 55)
        | none =>
          let xroot := (s.slot sk).troot
          let arm (s : State) : State :=
            let t := s.armMembers xroot core n 0 none ms
            if c.v2 = 0 then t else { t with placements := t.placements ++ [(m0, c.v2)] }
          let id (s : State) : Word := BitVec.ofNat 64 (leAt (s.block m0) 0 4)
          if !now then
            let t := arm s
            t.complete c (id t)
          else
            match s.releaseTask (cmdSource c 3) ms c.v1 xroot (BitVec.ofNat 64 (places.headD 0)) core false arm with
            | .done t => t.complete c (id t)
            | .full s => s
            | .hold s => s
            | .unmapped s _ => s.trapCmd c (s.cmdRec c 14 9 0 0 c.v1.toNat)
            | .refused s _ _ _ => s

/-! ### Futures: FRD and the squash (R310 to R313) -/

/-- The slot of a squashed task freed: everything its streams hold is discarded, and no save area is written (R313). -/
def State.squash (s : State) (sk : Nat) : State :=
  ({ s with cmds := s.cmds.filter fun c => decide (slotKey c.seqk ≠ sk) }).freeTask sk

/-- Milliner drops the task start of a squashed task from what it has staged (R339); a replayed one may start again. -/
def State.unstart (s : State) (sk : Nat) : State :=
  let c := s.slot sk
  match s.graph c.graph with
  | none => s
  | some g =>
    s.setGraph { g.mapStaged (fun rs => rs.filter fun r => !(decide (leAt r 0 1 % 16 = 6) && decide (leAt r 4 4 = c.tix))) with
      started := g.started.filter fun t => decide (t ≠ c.tix) }

/-- FRD (R311): reads a full future; on an empty one links the task and squashes it. -/
def execFrd (d a : BitVec 5) (t : BitVec 4) (s : State) : Out :=
  .next (issueShort ⟨rolesX, true, t, [d, a], false, none⟩
    (fun s =>
      if s.heldBack s.cur .amo then .hold s
      else if (s.slot (slotKey s.cur)).sideEffect then .trap (s.trapTask s.cur 12 10 0 0)
      else
        match s.findHome s.cur (s.reg s.cur a) 16 8 9 true with
        | .hold s => .hold s
        | .trap s => .trap s
        | .home s _ => .go s)
    (fun s =>
      let k := s.cur
      let sk := slotKey k
      let c := s.slot sk
      match s.findHome k (s.reg k a) 16 8 9 true with
      | .hold s => .hold s
      | .trap s => .trap s
      | .home s h =>
        match s.cell16 h with
        | .error b => .trap (s.trapBad k 8 b)
        | .ok x =>
          if x / 2 ^ 64 % 2 = 1 then .go ((s.setReg k d (BitVec.ofNat 64 x)).adv k 4)
          else if 1 < c.teamSize then .trap (s.trapTask k 6 4 0 0)
          else
            (s.forceCell k h 16).then' s fun s =>
              match s.blockAt (taskSource k) c.xroot c.tcb.toNat true with
              | (s, .hold) => .hold s
              | (s, .fault code _) => .trap (s.trapTask k code 0 0 c.tcb.toNat)
              | (s, .bad b) => .trap (s.trapBad k 8 b)
              | (s, .ok m) =>
                let n := (leAt (s.block m) 8 4 + 1) % 2 ^ 32
                let s1 := ((s.blockSet m 8 4 n).blockSet m 192 8 (x / 2 ^ 81 * 256)).blockSet m 200 4 4
                let y := bits c.tcb 8 47 * 2 ^ 81 + min (x / 2 ^ 65 % 2 ^ 16 + 1) 0xFFFF * 2 ^ 65 + x % 2 ^ 65
                match s1.writeCell h 16 y (coreOf k) with
                | .error b => .trap (s.trapBad k 8 b)
                | .ok s2 => .hold ((s2.unstart sk).squash sk)) s)

/-! ### SHAPEW, guards and YIELD (R309, R344, R317) -/

/-- SHAPEW (R309): a guard point, and a weak store into the successors' TCBs. -/
def execShapew (a : BitVec 5) (n : BitVec 3) (t : BitVec 4) (s : State) : Out :=
  .next (issueShort ⟨rolesX, true, t, [a], true, none⟩
    (fun s =>
      if s.heldBack s.cur .store || decide (16 ≤ (s.seq s.cur).stores.length) then .hold s
      else if (s.slot (slotKey s.cur)).triggered then .trap (s.trapTask s.cur 6 6 0 0)
      else .go s)
    (fun s =>
      let v := (s.reg s.cur a).setWidth 32
      .go (((((s.recordShape (slotKey s.cur) n.toNat v.toNat).enterStore s.cur (.shape n.toNat v) 0 0).adv s.cur 4).mark'
        s.cur true).retireStore s.cur t |>.prompt s.cur)) s)

/-- A guard failure of the task in a slot (R343): the stop notice that ends the replay is sent, and the task itself goes on
in mode 3 at once (R416). `count` says whether the directory's failure count rises. -/
def State.guardFail (s : State) (sk gid : Nat) (count : Bool) : State :=
  let c := s.slot sk
  match s.graph c.graph with
  | none => s
  | some g =>
    if g.mode ≠ 2 then s
    else { s with notices := s.notices ++ [(g.shape, g.ver, c.tix, gid, count)] }.leaveReplay g gid sk

/-- The shared meaning of GSHAPE, GBR and GHLTH (R344). -/
def guardInstr (kind : Nat) (a : BitVec 5) (i : BitVec 10) (t : BitVec 4) (live : State → Nat) (mask : State → Nat)
    (s : State) : State :=
  issueShort ⟨rolesX, decide (i ≠ 0x3FF), t, [a], false, none⟩ preGo
    (fun s =>
      let k := s.cur
      let sk := slotKey k
      let c := s.slot sk
      let o := Kv.get 0 c.occ i.toNat
      let s1 := s.recordGuard sk kind i.toNat (live s) (mask s)
      let fails : Bool :=
        decide (c.mode = 2) &&
          match s.graph c.graph with
          | none => false
          | some g =>
            match g.guard (coreOf k) c.tix i.toNat o with
            | none => true
            | some r => decide (leAt r 1 1 ≠ kind) || decide (leAt r 16 8 ≠ live s)
      let s2 := if fails then s1.guardFail sk i.toNat true else s1
      .go ((s2.modSlot sk fun c => { c with occ := Kv.put c.occ i.toNat (o + 1) }).adv k 4)) s

def execGshape (a : BitVec 5) (i : BitVec 10) (t : BitVec 4) (s : State) : Out :=
  .next (guardInstr 0 a i t (fun s => (s.reg s.cur a).toNat % 2 ^ 32) (fun _ => 0) s)
def execGbr (a : BitVec 5) (i : BitVec 10) (t : BitVec 4) (s : State) : Out :=
  .next (guardInstr 1 a i t (fun s => (s.reg s.cur a).toNat % 2 ^ 16) (fun _ => 0) s)
def execGhlth (a : BitVec 5) (i : BitVec 10) (t : BitVec 4) (s : State) : Out :=
  .next (guardInstr 2 a i t (fun s => (s.health &&& s.reg s.cur a).toNat) (fun s => (s.reg s.cur a).toNat) s)

end Sys2Proof.Machine
end

