-- ==== Sys2Proof/Machine/Csr.lean ====
section
/-! DEFINITION. Control registers (R145, R186 to R188, R197 to R199, R248, R271, R277, R333, R370): what each reads
as, and the fields a write changes. -/

namespace Sys2Proof.Machine

/-- A word of fields: each value at its lowest bit, the least significant first. -/
def pack : List (Nat × Nat) → Nat
  | [] => 0
  | (lo, v) :: r => v * 2 ^ lo + pack r

/-- A command of the slot that has started and not retired, and is one of these. -/
def State.slotRunning (s : State) (sk : Nat) (p : Instr → Bool) : Bool :=
  s.cmds.any fun c => decide (slotKey c.seqk = sk) && p c.ins && decide (c.phase ≠ .waiting)

/-- A VRUN. -/
def isVrun : Instr → Bool
  | .vrun _ _ _ _ => true
  | _ => false

/-- An MGO. -/
def isMgo : Instr → Bool
  | .mgo _ => true
  | _ => false

/-- A MITER. -/
def isMiter (i : Instr) : Bool := decide (miterKind i ≠ 0)

/-- CQ0POS to CQ3POS (R145). -/
def State.cqPos (s : State) (core q : Nat) : Nat :=
  match s.copyQueue core q with
  | [] => 0
  | c :: _ => pack [(0, c.off % 2 ^ 32), (32, c.num.toNat), (48, slotNum (slotKey c.seqk)),
      (51, bit (decide (c.phase ≠ .waiting)))]

/-- CQOCC (R145): occupancies, and the queues whose head waits on a translation request. -/
def State.cqOcc (s : State) (core : Nat) : Nat :=
  pack ((List.range 4).map (fun q => (7 * q, (s.copyQueue core q).length)) ++
    (List.range 4).map fun q => (28 + q, match s.copyQueue core q with
      | [] => 0
      | c :: _ => bit ((s.waitsOn (.command c.uid)).isSome)))

/-- Filled entries of a data queue (R165). -/
def Slot.filled (c : Slot) (q : Nat) : Nat := ((Kv.get [] c.queues q).filter fun e => e.data.isSome).length

/-- UPC (R198). -/
def State.upcWord (s : State) (sk : Nat) : Nat :=
  let v := (s.slot sk).vec
  pack [(0, v.upc.toNat), (12, bit v.bank), (13, bit ((s.inFlight sk).any fun c => c.isVrun && c.begun)), (32, v.passes % 2 ^ 32)]

/-- Index registers i_m to i_(m+3) (R198). -/
def ixWord (v : VecSt) (m : Nat) : Nat := pack ((List.range 4).map fun i => (16 * i, (Kv.get 0 v.ix (m + i)).toNat))

/-- PRUN (R370): run time of earlier stays, and of the present one. -/
def State.prunWord (s : State) (sk : Nat) : Word :=
  match (s.slot sk).runSince with
  | none => (s.slot sk).prunBase
  | some t => (s.slot sk).prunBase + (s.time - t)

/-- What a register of the slot reads as, from 0x040 on. -/
def State.csrHigh (s : State) (k n : Nat) : Word :=
  let sk := slotKey k
  let c := s.slot sk
  let co := s.core (coreOf k)
  let w (x : Nat) : Word := BitVec.ofNat 64 x
  match n with
  | 0x040 => zx c.vec.lanes
  | 0x041 => zx c.vec.trip
  | 0x042 => zx c.vec.tail
  | 0x043 => w (pack [(0, c.vec.rot), (8, c.vec.pred.toNat)])
  | 0x044 => w (s.upcWord sk)
  | 0x045 => c.vec.steps
  | 0x046 => w (ixWord c.vec 0)
  | 0x047 => w (ixWord c.vec 4)
  | 0x048 => w (pack [(0, co.gen0.toNat), (16, co.gen1.toNat)])
  | 0x049 => zx c.vec.cfg
  | 0x050 => w (pack ((List.range 4).map fun i => (16 * i, c.mat.idx.getD i 0 % 2 ^ 16)))
  | 0x051 => w (pack [(0, c.mat.idx.getD 4 0 % 2 ^ 16), (16, c.mat.idx.getD 5 0 % 2 ^ 16), (36, bit c.mat.w),
      (37, bit (s.slotRunning sk isMgo)), (38, c.mat.cpos % 4)])
  | 0x052 => w c.mat.passes
  | 0x053 => w (pack ([(0, c.tmap.length), (4, c.amap.length)] ++
      (List.range c.tmap.length).map (fun m => (8 + 3 * m, c.tmap.getD m 0)) ++
      (List.range c.amap.length).map (fun m => (32 + 2 * m, c.amap.getD m 0))))
  | 0x054 => if c.mat.used then Config.freeWord s.fresh else 0
  | 0x058 => c.tha
  | 0x059 => w (pack [(0, c.thEntries.length), (9, c.nodes.length), (18, (s.liveHandles sk).length)])
  | 0x05A => w (pack [(0, c.mis.k % 256), (8, c.mis.phase % 16), (13, bit (s.slotRunning sk isMiter)),
      (14, bit c.mis.grew), (32, c.mis.prev.toNat)])
  | 0x05B => w (bit c.miStop)
  | 0x064 => w (s.cqOcc (coreOf k))
  | 0x06C => co.fcur
  | 0x070 => Kv.get 0 s.throt (octantOf (coreOf k))
  | 0x071 => w (pack [(0, c.mode), (10, c.tix), (30, c.gid)])
  | 0x072 => zx c.ver
  | 0x073 => c.cstall
  | 0x074 => s.health
  | 0x080 => co.serrc
  | 0x081 => co.serrd
  | 0x082 => c.flast
  | 0x083 => s.pwin
  | 0x084 => s.prunWord sk
  | 0x085 => zx s.chalt
  | _ => if 0x060 ≤ n ∧ n ≤ 0x063 then w (s.cqPos (coreOf k) (n - 0x060)) else 0

/-- What control register `n` reads as for sequencer `k` (R187, R188). -/
def State.csr (s : State) (k n : Nat) : Word :=
  let sk := slotKey k
  let c := s.slot sk
  let q := s.seq k
  let co := s.core (coreOf k)
  let w (x : Nat) : Word := BitVec.ofNat 64 x
  match n with
  | 0x000 => Kv.get 0 s.cycles (octantOf (coreOf k))
  | 0x001 => s.time
  | 0x002 => w (pack [(0, coreOf k), (10, slotNum sk)])
  | 0x003 => c.taskid
  | 0x004 => c.seed
  | 0x005 => zx q.srcnt
  | 0x006 => w (pack [(0, q.last.toNat), (16, c.nextCmd.toNat), (32, bit q.any)])
  | 0x007 => zx c.evovf
  | 0x008 => zx co.hbper
  | 0x009 => co.hblast
  | 0x020 => c.troot
  | 0x025 => w c.splim
  | 0x026 => w (pack [(0, c.lx), (5, c.xl), (10, c.xs), (15, c.sx)])
  | 0x027 => w (pack ((List.range 6).map (fun i => (4 * i, c.filled i)) ++ [(24, c.cqL.length), (29, c.cqS.length)]))
  | 0x028 => zx co.cacoll
  | _ =>
    if 0x010 ≤ n ∧ n ≤ 0x01F then w (Kv.get 0 c.events (n - 0x010))
    else if 0x021 ≤ n ∧ n ≤ 0x024 then Kv.get 0 c.swin (n - 0x021)
    else if 0x030 ≤ n ∧ n ≤ 0x037 then zx (Kv.get 0 c.shapes (n - 0x030))
    else s.csrHigh k n

/-- What is done to a register (R186): read only, write, set, clear. -/
inductive CsrOp where
  | read
  | write
  | set
  | clear
  deriving DecidableEq, Repr

/-- The word written to RW fields (R186). -/
def CsrOp.word (o : CsrOp) (old a : Word) : Word :=
  match o with
  | .read => old
  | .write => a
  | .set => old ||| a
  | .clear => old &&& ~~~a

/-- The ones that clear W1C fields (R186). -/
def CsrOp.ones (o : CsrOp) (a : Word) : Word :=
  match o with
  | .write | .set => a
  | _ => 0

/-- The fields of THA that exist (R271). -/
def thaMask : Word := 0xFFFFFFF000

/-- The fields of PWIN that exist (R370). -/
def pwinMask : Word := 0xFFFFFFFFFFFF

/-- A write to THA (R269, R271): a precise protection trap with status 5 while a handle is not free; else the next TOP
or TDEM clears the arena's directory (R252). -/
def State.writeTha (s : State) (k : Nat) (v : Word) : Res :=
  let sk := slotKey k
  if (s.liveHandles sk).isEmpty then .go (s.modSlot sk fun c => { c with tha := v &&& thaMask, thClear := true })
  else .trap (s.trapAt k 6 6 0 5)

/-- A write to IXLO or IXHI (R198, R199). -/
def State.writeIx (s : State) (k : Nat) (m : Nat) (v : Word) : State :=
  s.modSlot (slotKey k) fun c =>
    { c with vec := { c.vec with
        ix := (List.range 4).foldl (fun l i => Kv.put l (m + i) (BitVec.ofNat 16 (v.toNat / 2 ^ (16 * i)))) c.vec.ix } }

/-- A VRUN of the slot has issued and not retired (R199). -/
def State.runInFlight (s : State) (sk : Nat) : Bool := (s.inFlight sk).any fun c => isVrun c.ins

/-- A control register written, field by field (R186): `v` for RW fields, `ones` for W1C fields; RO fields and
reserved ones ignore it (R4, R5). -/
def State.writeCsr (s : State) (k n : Nat) (v ones : Word) : Res :=
  let sk := slotKey k
  let five := decide (slotNum sk = 5)
  match n with
  | 0x004 => .go (s.modSlot sk fun c => { c with seed := v })
  | 0x007 => .go (s.modSlot sk fun c => { c with evovf := c.evovf &&& ~~~(ones.setWidth 16) })
  | 0x008 => .go (if five then s.modCore (coreOf k) fun c => { c with hbper := v.setWidth 16 } else s)
  | 0x028 => .go (s.modCore (coreOf k) fun c => { c with cacoll := c.cacoll &&& ~~~(ones.setWidth 32) })
  | 0x040 => .go (s.modSlot sk fun c => { c with vec := { c.vec with lanes := v.setWidth 8 } })
  | 0x046 => .go (s.writeIx k 0 v)
  | 0x047 => .go (s.writeIx k 4 v)
  | 0x058 => s.writeTha k v
  | 0x05B => .go (s.modSlot sk fun c => { c with miStop := decide (bits v 0 1 = 1) })
  | 0x080 => .go (if five then s.modCore (coreOf k) fun c => { c with serrc := c.serrc &&& ~~~ones } else s)
  | 0x081 => .go (if five then s.modCore (coreOf k) fun c => { c with serrd := c.serrd &&& ~~~ones } else s)
  | 0x083 => .go (if five then { s with pwin := v &&& pwinMask } else s)
  | 0x085 => .go (if five then { s with chalt := s.chalt &&& ~~~(ones.setWidth 48) } else s)
  | _ => .go s

/-- The issue of a CSR instruction (R186, R187, R199). -/
def csrIssue (o : CsrOp) (d a : BitVec 5) (n : BitVec 10) (t : BitVec 4) (s : State) : Out :=
  .next (issueShort ⟨rolesAll, csrAssigned n.toNat, t, [d, a], false, some d⟩
    (fun s =>
      if decide (o ≠ .read) && (decide (n = 0x046) || decide (n = 0x047)) && s.runInFlight (slotKey s.cur) then .hold s
      else .go s)
    (fun s =>
      let old := s.csr s.cur n.toNat
      let x := s.reg s.cur a
      let s1 := if n = 0x054 then { s with fresh := s.fresh + 1 } else s
      match (if o = .read then .go s1 else s1.writeCsr s.cur n.toNat (o.word old x) (o.ones x)) with
      | .go s' => .go ((s'.setReg s.cur d old).adv s.cur 4)
      | r => r) s)

/-- CSRR (R186). -/
def execCsrr (d : BitVec 5) (n : BitVec 10) (t : BitVec 4) (s : State) : Out := csrIssue .read d 0 n t s
/-- CSRW (R186). -/
def execCsrw (d a : BitVec 5) (n : BitVec 10) (t : BitVec 4) (s : State) : Out := csrIssue .write d a n t s
/-- CSRS (R186). -/
def execCsrs (d a : BitVec 5) (n : BitVec 10) (t : BitVec 4) (s : State) : Out := csrIssue .set d a n t s
/-- CSRC (R186). -/
def execCsrc (d a : BitVec 5) (n : BitVec 10) (t : BitVec 4) (s : State) : Out := csrIssue .clear d a n t s

/-- What a write of a register leads to, as a step. -/
def writeStep (r : Res) : Out :=
  match r with
  | .go s | .hold s | .trap s | .stop s => .next s

/-- THA_WRITE (R252, R269): the effect of a write to THA by the current sequencer. -/
def execThaWrite (v : BitVec 64) (s : State) : Out := writeStep (s.writeCsr s.cur 0x058 v 0)
/-- MICTL_WRITE (R277). -/
def execMictlWrite (v : BitVec 64) (s : State) : Out := writeStep (s.writeCsr s.cur 0x05B v 0)
/-- IXLO_IXHI_WRITE (R199): not while a VRUN of the slot is in flight. -/
def execIxloIxhiWrite (high : Bool) (v : BitVec 64) (s : State) : Out :=
  if s.runInFlight (slotKey s.cur) then .next s
  else writeStep (s.writeCsr s.cur (if high then 0x047 else 0x046) v 0)
/-- SEED_WRITE (R68). -/
def execSeedWrite (v : BitVec 64) (s : State) : Out := writeStep (s.writeCsr s.cur 0x004 v 0)

end Sys2Proof.Machine
end

