-- ==== Sys2Proof/Machine/Long.lean ====
section
/-! DEFINITION. The long instructions (R44): their issue, one meaning each; in a replay the match of R341. Then what
every command does once issued: COMMAND_START and COMMAND_RETIRE (R126, R128). -/

namespace Sys2Proof.Machine

/-! ### Issue in a replay (R341) -/

/-- The key under which a replay counts the records of a task, a stream and a number that have been matched. -/
def boundKey (tix stream num : Nat) : Nat := (tix * 8 + stream) * 65536 + num

/-- The task's next command record of a sequence number in a stream, with its payload: no sub-command (R341). Numbers wrap,
so those that earlier commands were matched with come before it. -/
def Graph.commandRec (g : Graph) (core tix stream num : Nat) : Option (List Byte × List Byte) :=
  let rs := imageRecs g.image core stream
  (rs.zipIdx.filterMap fun r =>
    if leAt r.1 0 1 % 16 = 1 ∧ leAt r.1 2 1 / 2 % 2 = 0 ∧ leAt r.1 12 2 = num ∧ leAt r.1 16 4 = tix then
      some (r.1, payloadAfter (rs.drop (r.2 + 1)))
    else none)[Kv.get 0 g.bound (boundKey tix stream num)]?

/-- A record agrees with an issued command: the words, the register values, the latched state (R341). -/
def recMatches (c : Cmd) (r : List Byte × List Byte) : Bool :=
  decide (leAt r.1 4 4 = c.words.1) && decide (leAt r.1 8 4 = c.words.2) && decide (leAt r.1 40 8 = c.v1.toNat) &&
  decide (leAt r.1 48 8 = c.v2.toNat) && decide (leAt r.1 56 8 = c.v3.toNat) &&
  decide (r.2.take c.payload.length = c.payload)

/-- A command of the slot that the replay sequencer injected ahead of its stream (R340). -/
def State.aheadCmd (s : State) (c : Cmd) : Option Cmd :=
  s.cmds.find? fun x => decide (x.uid ≠ c.uid) && decide (slotKey x.seqk = slotKey c.seqk) && decide (x.num = c.num) &&
    decide (x.inj = 3) && decide (x.ins = c.ins)

/-- A long instruction has just issued in a slot of a replayed graph: it is matched with its record, and bound to the
injected command or left to wait for its injection (R341). A mismatch is the implicit guard's failure. A TOP and a TDEM
have no record of their own, and the forcer accepts them as on the dynamic path. -/
def State.bindReplay (s : State) (c : Cmd) : State :=
  let sk := slotKey c.seqk
  let sl := s.slot sk
  let join (s : State) (a : Cmd) : State :=
    { s with cmds := (s.cmds.filter fun (x : Cmd) => x.uid != c.uid).map fun (x : Cmd) =>
        if x.uid = a.uid then
          { a with seqk := c.seqk, pc := c.pc, rd := c.rd, ext := c.ext, vd := c.vd, inj := 2 }
        else x }.ovJoin a.uid c.uid
  if topOp c.ins ≠ 0 ∨ tdemOp c.ins ≠ 0 then s
  else if sl.mode = 3 then
    match s.aheadCmd c with
    | some a => join s a
    | none => s
  else if sl.mode ≠ 2 then s
  else
    match s.graph sl.graph with
    | none => s
    | some g =>
      let st := (traceStream c.ins).getD 0
      match g.commandRec (coreOf c.seqk) sl.tix st c.num.toNat with
      | none => s.guardFail sk 0x3FF true
      | some r =>
        if !recMatches c r then s.guardFail sk 0x3FF true
        else
          let key := boundKey sl.tix st c.num.toNat
          let early := (coreOf c.seqk, sl.tix, c.num.toNat)
          let s := s.setGraph { g with bound := Kv.put g.bound key (Kv.get 0 g.bound key + 1), ahead := g.ahead.erase early }
          match s.aheadCmd c with
          | some a => join s a
          | none => s.setCmd { c with inj := if g.ahead.contains early then 2 else 1 }

/-- The issue of a long instruction, in a replay with its match. -/
def longIssue (f : LongForm) (s : State) : State :=
  let s' := issueLong f s
  if s'.nextUid = s.nextUid ∨ (s.slot (slotKey s.cur)).mode < 2 then s'
  else
    match s'.cmd s.nextUid with
    | some c => s'.bindReplay c
    | none => s'

/-! ### The members -/

/-- The value of a register that names an address, if its space bit says that it is virtual (R44, R81). -/
def virtOf (s : State) (space : BitVec 1) (a : BitVec 5) : List Word := if space = 0 then [s.reg s.cur a] else []

/-- The form of a CP or CPR member. -/
def copyForm (i : Instr) (x : Ext) (a b c : BitVec 5) (virt : List Word) : LongForm :=
  { roles := rolesAll, ok := i.wf, ins := i, ext := x, rs1 := a, rs2 := b, rs3 := c, virt := fun _ => virt }

/-- The form of a member that X alone admits. -/
def xForm (i : Instr) (x : Ext) (d a b c : BitVec 5) (writes : Bool) : LongForm :=
  { roles := rolesX, ok := i.wf, ins := i, ext := x, rd := d, rs1 := a, rs2 := b, rs3 := c, writes := writes }

/-- The form of a TOP or TDEM: it follows every earlier one of its slot (R260). -/
def thunkForm (i : Instr) (x : Ext) (d a b c : BitVec 5) (writes : Bool) : LongForm :=
  { xForm i x d a b c writes with implicit := fun s => s.thunkPreds, kind := fun _ => 1 }

/-- The form of a CA member. -/
def caForm (i : Instr) (x : Ext) (d a b c : BitVec 5) (writes nokill : Bool) (virt : List Word) : LongForm :=
  { roles := rolesXH, ok := i.wf, ins := i, ext := x, rd := d, rs1 := a, rs2 := b, rs3 := c, writes := writes
    nokill := nokill, virt := fun _ => virt }

/-- The shadow set and the tile descriptors of the issuing slot (R229). -/
def latchSet (s : State) : Latched :=
  { mcfg := (s.slot (slotKey s.cur)).mcfg, desc := (s.slot (slotKey s.cur)).desc }

/-- CPY (R132). -/
def execCpy (ds ss : BitVec 1) (a b c : BitVec 5) (x : Ext) (s : State) : Out :=
  .next (longIssue (copyForm (.cpy ds ss a b c x) x a b c (virtOf s ds a ++ virtOf s ss b)) s)

/-- CPY2 (R132). -/
def execCpy2 (ds ss : BitVec 1) (a b c : BitVec 5) (x : Ext) (s : State) : Out :=
  .next (longIssue (copyForm (.cpy2 ds ss a b c x) x a b c (virtOf s ds a ++ virtOf s ss b)) s)

/-- CPY3 (R132). -/
def execCpy3 (ds ss : BitVec 1) (a b c : BitVec 5) (x : Ext) (s : State) : Out :=
  .next (longIssue (copyForm (.cpy3 ds ss a b c x) x a b c (virtOf s ds a ++ virtOf s ss b)) s)

/-- CPG (R133). -/
def execCpg (ds ss : BitVec 1) (a b c : BitVec 5) (x : Ext) (s : State) : Out :=
  .next (longIssue (copyForm (.cpg ds ss a b c x) x a b c (virtOf s ds a ++ virtOf s ss b)) s)

/-- CPS (R133). -/
def execCps (ds ss : BitVec 1) (a b c : BitVec 5) (x : Ext) (s : State) : Out :=
  .next (longIssue (copyForm (.cps ds ss a b c x) x a b c (virtOf s ds a ++ virtOf s ss b)) s)

/-- CPF (R132). -/
def execCpf (ds : BitVec 1) (a b c : BitVec 5) (x : Ext) (s : State) : Out :=
  .next (longIssue (copyForm (.cpf ds a b c x) x a b c (virtOf s ds a)) s)

/-- CPM (R134). -/
def execCpm (ss : BitVec 1) (a b c : BitVec 5) (x : Ext) (s : State) : Out :=
  .next (longIssue { copyForm (.cpm ss a b c x) x a b c (virtOf s ss b) with nokill := true } s)

/-- CPQ (R136), in the L role only. -/
def execCpq (ss : BitVec 1) (q : BitVec 2) (b c : BitVec 5) (x : Ext) (s : State) : Out :=
  .next (longIssue { copyForm (.cpq ss q b c x) x 0 b c (virtOf s ss b) with roles := rolesL } s)

/-- CPR (R138 to R142). -/
def execCprFaddF32 (ds : BitVec 1) (a b c : BitVec 5) (x : Ext) (s : State) : Out :=
  .next (longIssue { copyForm (.cprFaddF32 ds a b c x) x a b c (virtOf s ds a) with nokill := true } s)

/-- CPR (R138 to R142). -/
def execCprAddI32 (ds : BitVec 1) (a b c : BitVec 5) (x : Ext) (s : State) : Out :=
  .next (longIssue { copyForm (.cprAddI32 ds a b c x) x a b c (virtOf s ds a) with nokill := true } s)

/-- CPR (R138 to R142). -/
def execCprAddI64 (ds : BitVec 1) (a b c : BitVec 5) (x : Ext) (s : State) : Out :=
  .next (longIssue { copyForm (.cprAddI64 ds a b c x) x a b c (virtOf s ds a) with nokill := true } s)

/-- CPR (R138 to R142). -/
def execCprMaxF32 (ds : BitVec 1) (a b c : BitVec 5) (x : Ext) (s : State) : Out :=
  .next (longIssue { copyForm (.cprMaxF32 ds a b c x) x a b c (virtOf s ds a) with nokill := true } s)

/-- CPR (R138 to R142). -/
def execCprMinF32 (ds : BitVec 1) (a b c : BitVec 5) (x : Ext) (s : State) : Out :=
  .next (longIssue { copyForm (.cprMinF32 ds a b c x) x a b c (virtOf s ds a) with nokill := true } s)

/-- CPR (R138 to R142). -/
def execCprMaxI32 (ds : BitVec 1) (a b c : BitVec 5) (x : Ext) (s : State) : Out :=
  .next (longIssue { copyForm (.cprMaxI32 ds a b c x) x a b c (virtOf s ds a) with nokill := true } s)

/-- CPR (R138 to R142). -/
def execCprMinI32 (ds : BitVec 1) (a b c : BitVec 5) (x : Ext) (s : State) : Out :=
  .next (longIssue { copyForm (.cprMinI32 ds a b c x) x a b c (virtOf s ds a) with nokill := true } s)

/-- VRUN (R205): VLEN is latched at issue (R198). -/
def execVrun (a b c : BitVec 5) (x : Ext) (s : State) : Out :=
  .next (longIssue { roles := rolesXH, ok := (Instr.vrun a b c x).wf, ins := .vrun a b c x, ext := x
                     rs1 := a, rs2 := b, rs3 := c
                     implicit := fun s => s.vrunPreds (bankOf (bits (s.reg s.cur a) 0 12))
                     latch := fun s => { vlen := (s.slot (slotKey s.cur)).vec.lanes.toNat }
                     kind := fun s => 2 + bankOf (bits (s.reg s.cur a) 0 12) } s)

/-- TBLOAD (R203). -/
def execTbload (d a b c : BitVec 5) (x : Ext) (s : State) : Out :=
  .next (longIssue { roles := rolesXH, ok := (Instr.tbload d a b c x).wf, ins := .tbload d a b c x, ext := x
                     rd := d, rs1 := a, rs2 := b, rs3 := c, writes := true
                     implicit := fun s => s.tbloadPreds (bankOf (s.reg s.cur b).toNat)
                     kind := fun s => 4 + bankOf (s.reg s.cur b).toNat } s)

/-- MGO (R234): the shadow set and the descriptors are latched at issue, for at most four MGOs of a slot (R229). -/
def execMgo (x : Ext) (s : State) : Out :=
  .next (longIssue { roles := rolesX, ok := (Instr.mgo x).wf, ins := .mgo x, ext := x
                     ready := fun s => decide (((s.inFlight (slotKey s.cur)).filter fun c => isMgo c.ins).length < 4)
                     latch := latchSet } s)

/-- TLD (R250). -/
def execTld (n : BitVec 3) (a b c : BitVec 5) (x : Ext) (s : State) : Out :=
  .next (longIssue (xForm (.tld n a b c x) x 0 a b c false) s)

/-- TST (R250). -/
def execTst (n : BitVec 3) (a b c : BitVec 5) (x : Ext) (s : State) : Out :=
  .next (longIssue (xForm (.tst n a b c x) x 0 a b c false) s)

/-- AFILL (R250). -/
def execAfill (n : BitVec 2) (a b c : BitVec 5) (x : Ext) (s : State) : Out :=
  .next (longIssue (xForm (.afill n a b c x) x 0 a b c false) s)

/-- ADRN (R250). -/
def execAdrn (n : BitVec 2) (a b c : BitVec 5) (x : Ext) (s : State) : Out :=
  .next (longIssue (xForm (.adrn n a b c x) x 0 a b c false) s)

/-- TBIND (R257, R258). -/
def execTbind (d a b c : BitVec 5) (x : Ext) (s : State) : Out :=
  .next (longIssue (thunkForm (.tbind d a b c x) x d a b c true) s)

/-- TMUL (R257, R258). -/
def execTmul (d a c : BitVec 5) (x : Ext) (s : State) : Out :=
  .next (longIssue (thunkForm (.tmul d a c x) x d a 0 c true) s)

/-- TMAC (R257, R258). -/
def execTmac (d a c : BitVec 5) (x : Ext) (s : State) : Out :=
  .next (longIssue (thunkForm (.tmac d a c x) x d a 0 c true) s)

/-- TADD (R257, R258). -/
def execTadd (d a c : BitVec 5) (x : Ext) (s : State) : Out :=
  .next (longIssue (thunkForm (.tadd d a c x) x d a 0 c true) s)

/-- TSUB (R257, R258). -/
def execTsub (d a c : BitVec 5) (x : Ext) (s : State) : Out :=
  .next (longIssue (thunkForm (.tsub d a c x) x d a 0 c true) s)

/-- THAD (R257, R258). -/
def execThad (d a c : BitVec 5) (x : Ext) (s : State) : Out :=
  .next (longIssue (thunkForm (.thad d a c x) x d a 0 c true) s)

/-- TTRN (R257, R258). -/
def execTtrn (d a c : BitVec 5) (x : Ext) (s : State) : Out :=
  .next (longIssue (thunkForm (.ttrn d a c x) x d a 0 c true) s)

/-- TCVT (R257, R258). -/
def execTcvt (d a c : BitVec 5) (x : Ext) (s : State) : Out :=
  .next (longIssue (thunkForm (.tcvt d a c x) x d a 0 c true) s)

/-- TSCL (R257, R258). -/
def execTscl (d a b c : BitVec 5) (x : Ext) (s : State) : Out :=
  .next (longIssue (thunkForm (.tscl d a b c x) x d a b c true) s)

/-- TACT (R257, R258). -/
def execTact (d a b c : BitVec 5) (x : Ext) (s : State) : Out :=
  .next (longIssue (thunkForm (.tact d a b c x) x d a b c true) s)

/-- TSTORE (R268). -/
def execTstore (a b c : BitVec 5) (x : Ext) (s : State) : Out :=
  .next (longIssue (thunkForm (.tstore a b c x) x 0 a b c false) s)

/-- TFORCE (R268). -/
def execTforce (a : BitVec 5) (x : Ext) (s : State) : Out :=
  .next (longIssue (thunkForm (.tforce a x) x 0 a 0 0 false) s)

/-- TDROP (R269). -/
def execTdrop (a : BitVec 5) (x : Ext) (s : State) : Out :=
  .next (longIssue (thunkForm (.tdrop a x) x 0 a 0 0 false) s)

/-- MITER (R273 to R276). -/
def execMiterPoly (fb rel : BitVec 1) (d a b c : BitVec 5) (x : Ext) (s : State) : Out :=
  .next (longIssue { xForm (.miterPoly fb rel d a b c x) x d a b c true with latch := latchSet } s)

/-- MITER (R273 to R276). -/
def execMiterNs (fb rel : BitVec 1) (d a b c : BitVec 5) (x : Ext) (s : State) : Out :=
  .next (longIssue { xForm (.miterNs fb rel d a b c x) x d a b c true with latch := latchSet } s)

/-- MITER (R273 to R276). -/
def execMiterInv (fb rel : BitVec 1) (d a b c : BitVec 5) (x : Ext) (s : State) : Out :=
  .next (longIssue { xForm (.miterInv fb rel d a b c x) x d a b c true with latch := latchSet } s)

/-- CAPUT (R115). -/
def execCaput (d a b : BitVec 5) (x : Ext) (s : State) : Out :=
  .next (longIssue (caForm (.caput d a b x) x d a b 0 true true []) s)

/-- CANODE (R115). -/
def execCanode (d a b : BitVec 5) (x : Ext) (s : State) : Out :=
  .next (longIssue (caForm (.canode d a b x) x d a b 0 true true []) s)

/-- CAHASH (R116). -/
def execCahash (a b c : BitVec 5) (x : Ext) (s : State) : Out :=
  .next (longIssue (caForm (.cahash a b c x) x 0 a b c false false []) s)

/-- CAGET (R121). -/
def execCaget (a b c : BitVec 5) (x : Ext) (s : State) : Out :=
  .next (longIssue (caForm (.caget a b c x) x 0 a b c false false []) s)

/-- CAWALK (R121). -/
def execCawalk (a b c : BitVec 5) (x : Ext) (s : State) : Out :=
  .next (longIssue (caForm (.cawalk a b c x) x 0 a b c false false []) s)

/-- CAREF (R118). -/
def execCaref (d a b : BitVec 5) (x : Ext) (s : State) : Out :=
  .next (longIssue (caForm (.caref d a b x) x d a b 0 true true []) s)

/-- CASWAP (R119). -/
def execCaswap (d a b c : BitVec 5) (x : Ext) (s : State) : Out :=
  .next (longIssue (caForm (.caswap d a b c x) x d a b c true true [s.reg s.cur a]) s)

/-- CAOUT (R122). -/
def execCaout (a b c : BitVec 5) (x : Ext) (s : State) : Out :=
  .next (longIssue (caForm (.caout a b c x) x 0 a b c false false [s.reg s.cur b]) s)

/-- CAPIN (R118). -/
def execCapin (d a : BitVec 5) (x : Ext) (s : State) : Out :=
  .next (longIssue (caForm (.capin d a x) x d a 0 0 true true []) s)

/-- SPAWN (R301, R302). -/
def execSpawn (d a b c : BitVec 5) (x : Ext) (s : State) : Out :=
  .next (longIssue { roles := rolesXH, ok := (Instr.spawn d a b c x).wf, ins := .spawn d a b c x, ext := x
                     rd := d, rs1 := a, rs2 := b, rs3 := c, writes := true, nokill := true
                     virt := fun s => [s.reg s.cur a] } s)

/-- RESERVED_ENCODING (R45): a word that no rule assigns raises the illegal-instruction trap, precisely. -/
def execReservedEncoding (_w : BitVec 32) (s : State) : Out := .next (issueShort ⟨rolesAll, false, 0, [], false, none⟩ preGo preGo s)

/-! ### COMMAND_START and COMMAND_RETIRE (R126, R128) -/

/-- A command that waits and that nothing but its engine's choice keeps from starting. -/
def State.mayStart (s : State) (c : Cmd) : Bool :=
  !c.failed && decide (c.phase = .waiting) && s.canStart c && decide (c.inj ≠ 1) &&
    !(s.host.poolrst && decide (caSub c.ins ≠ 0))

/-- The engine of a core that a command starts on alone, MGO and MITER sharing the array (R20, R244); 0: the copy
engine's queues and the started runs of the vector engine are chosen among as they go on. -/
def unitOf (i : Instr) : Nat :=
  if isCopy i || isVrun i then 0 else if engineOf i = 5 then 3 else engineOf i

/-- A command comes before another for an engine's choice (R21): by its slot's rank, then the older. -/
def State.outranks (s : State) (x c : Cmd) : Bool :=
  decide (s.rank (slotKey x.seqk) < s.rank (slotKey c.seqk)) ||
    (decide (s.rank (slotKey x.seqk) = s.rank (slotKey c.seqk)) && (s.cmds.takeWhile (·.uid != c.uid)).any (·.uid == x.uid))

/-- A ready command that its engine can take up now: one that waits for no demand of its own, and a member of a chain only
when all are there or it has a part of its own to make (R239). -/
def State.startable (s : State) (c : Cmd) : Bool :=
  s.mayStart c && !s.demanding c && match c.ins with
    | .mgo _ => !c.cfg.chained || s.chainAlone c || ((s.chainAll c).getD []).any (·.uid == c.uid)
    | _ => true

/-- A ready command that the engine of a command's core would choose before it (R21), among those that pass a test. -/
def State.behind (s : State) (c : Cmd) (p : Cmd → Bool) : Bool :=
  s.cmds.any fun x => x.uid != c.uid && decide (coreOf x.seqk = coreOf c.seqk) && decide (unitOf x.ins = unitOf c.ins) &&
    s.outranks x c && s.startable x && p x

/-- A command that takes the array of every core it needs by R21 alone: an MGO of a chain, where no member is behind. -/
def State.foremost (s : State) (c : Cmd) : Bool := !c.cfg.chained || ((s.chainAll c).getD [c]).all fun m => !s.behind m fun _ => true

/-- The engine takes this command among those that are ready (R21); one with a demand goes on with it. The members of a chain
start together, so each must be its own core's choice; a chain that is itself behind on one core keeps nothing waiting on
another (DESIGN CHOICE, log 123). -/
def State.engineTurn (s : State) (c : Cmd) : Bool :=
  decide (unitOf c.ins = 0) || s.demanding c ||
    ((if c.cfg.chained && c.nest.chain.isNone then (s.chainAll c).getD [c] else [c]).all fun m => !s.behind m s.foremost)

/-- A command that may make progress: one that waits may start, or one that has started goes on. -/
def State.canRun (s : State) (c : Cmd) : Bool :=
  !c.failed &&
  match c.phase with
  | .done => false
  | .waiting => s.mayStart c && s.engineTurn c
  | .running => (s.slot (slotKey c.seqk)).stopping.isNone || runsToEnd c.ins || c.sub.isSome || s.writesBack c

/-- The work of a command's engine: at most `n` units of it. -/
def State.runCmd (s : State) (c : Cmd) (n : Nat) : State :=
  match engineOf c.ins with
  | 1 => if (cpMember c.ins).1 = 0 then s.runCpr c else s.runCopy c n
  | 2 => if c.sub.isSome then s.startForceRun c else if isVrun c.ins then s.startVrun c else s.runTbload c
  | 3 => s.runMgo c n
  | 4 => s.runTmov c
  | 5 => s.runMiter c n
  | 6 => if topOp c.ins ≠ 0 then s.runTop c else s.runTdem c
  | 7 => s.runCa c n
  | _ => s.runSpawn c

/-- A command starts or goes on (R126): a start is recorded while its graph is recorded (R339). -/
def State.startCmd (s : State) (uid n : Nat) : State :=
  match s.cmd uid with
  | none => s
  | some c =>
    if !s.canRun c then s
    else
      let s1 := (if c.begun then s else s.putShape c).runCmd c n
      let begun : Bool :=
        match s1.cmd uid with
        | some x => decide (x.phase ≠ .waiting) || x.failed
        | none => true
      if !c.begun && begun then s1.recordCommand c else s1

/-- The extent of one side of a command's move (R131), for the refiner: base, and stride parameters. -/
def moveExtent (c : Cmd) (base i j : Nat) : Nat × Nat :=
  let e := extent base (c.parN 0) (c.parN 1) (c.parN 2) (c.par.getD i 0) (c.par.getD j 0)
  (e.1.toNat, e.2)

/-- The virtual bytes a command writes (R345). -/
def State.virtWrites (s : State) (c : Cmd) : List (Nat × Nat) :=
  let m := cpMember c.ins
  if engineOf c.ins = 1 ∧ m.1 = 0 then
    (if (cprOp c.ins).2 then [] else [(c.v1.toNat, c.parN 0 * reduceBytes (cprOp c.ins).1)])
  else if engineOf c.ins = 1 then
    if m.2.1 ∨ m.1 = 8 then []
    else if m.1 = 4 then [(c.v1.toNat, c.parN 0 * c.parN 1)]
    else if m.1 = 5 then (List.range (c.parN 1)).map fun j =>
      (((c.v1.toNat : Int) + (leNat (s.bytes .scratch (c.parN 2 + 4 * j) 4) : Int) * c.par.getD 3 0).toNat, c.parN 0)
    else [moveExtent c c.v1.toNat 4 6]
  else
    match caSub c.ins with
    | 7 => [(c.v1.toNat, 16)]
    | 8 => [(c.v2.toNat, 128 * bits c.v3 0 24)]
    | _ => if isSpawn c.ins then [(c.v1.toNat, 256 * max 1 c.v3.toNat)] else []

/-- What a replay notes of a command that retires (R331, R345). -/
def State.noteReplay (s : State) (c : Cmd) (cycles cause : Nat) : State :=
  let sl := s.slot (slotKey c.seqk)
  if sl.mode ≠ 2 then s
  else
    match s.graph sl.graph with
    | none => s
    | some g =>
      let stream := (traceStream c.ins).getD 0
      let m := cpMember c.ins
      let plain := decide (1 ≤ m.1) && (decide (m.1 ≤ 3) || decide (m.1 = 6))
      s.setGraph { g with notes := g.notes ++
        [{ tix := sl.tix, stream := stream, num := c.num.toNat, ord := c.sub.map (·.ord), cycles := cycles, cause := cause, writes := if c.sub.isSome then [] else s.virtWrites c
           reads := if plain && decide (m.1 ≠ 6) && !m.2.2 then [moveExtent c c.v2.toNat 3 5] else []
           dest := if plain && m.2.1 then [moveExtent c c.v1.toNat 4 6] else [] }] }

/-- A command has retired with this many stall cycles of a cause, which go to CSTALL and to its record (R331, R338), and the
span of its graph has grown (R406); a sub-command's demand goes on (R262). -/
def State.noteStall (s : State) (c : Cmd) (cycles cause : Nat) : State :=
  let sk := slotKey c.seqk
  let s1 := (((s.spanTo sk).recordStall c cycles cause).noteReplay c cycles cause).modSlot sk fun sl =>
    { sl with cstall := BitVec.ofNat 64 (cycles + cause * 2 ^ 32) }
  match c.sub with
  | some x => s1.subRetired sk x
  | none => s1

/-- A command retires (R128): a TBLOAD raises its bank's generation (R200); its stall cycles are noted. -/
def State.retireCmd (s : State) (c : Cmd) : Option State :=
  if c.inj = 1 ∨ c.inj = 3 then none
  else
    let r := s.risen c
    match r.1.retire r.2 with
    | none => none
    | some s1 =>
      let x := s1.stalls.headD (0, 0)
      some ({ s1 with stalls := s1.stalls.drop 1 }.noteStall c (x.1 % 2 ^ 32) (x.2 % 12))

/-- COMMAND_START (R126). -/
def execCommandStart (uid units : Nat) (s : State) : Out := .next (s.startCmd uid units)

/-- COMMAND_RETIRE (R128). -/
def execCommandRetire (uid : Nat) (s : State) : Out :=
  .next (match (s.cmd uid).bind s.retireCmd with
    | some s' => s'
    | none => s)

end Sys2Proof.Machine
end

