-- ==== Sys2Proof/Machine/Launch.lean ====
section
/-! DEFINITION. Launching a task (R300, R322 to R325): which core and slot a ready record can take, its grants, and the
state its slot starts from. -/

namespace Sys2Proof.Machine

/-! ### Order and places (R319, R321, R322) -/

/-- TIME since which a record waits in its queue. -/
def ReadyRec.since (r : ReadyRec) : BitVec 64 := r.back.getD r.ready

/-- The order of the ready queues: priority, ready time, task ID (R319); of two teams of one region, the one that has
waited longer comes first (R367). -/
def ReadyRec.before (a b : ReadyRec) : Bool :=
  let teams := decide (1 < a.tsize) && decide (1 < b.tsize) && decide (a.regions = b.regions)
  let x := if teams then a.since.toNat else a.ready.toNat
  let y := if teams then b.since.toNat else b.ready.toNat
  decide (a.prio < b.prio) ||
  (decide (a.prio = b.prio) && (decide (x < y) || (decide (x = y) && decide (a.task.toNat < b.task.toNat))))

/-- A record put in its place in a sorted list; equal ones keep their order. -/
def insertRec (r : ReadyRec) : List ReadyRec → List ReadyRec
  | [] => [r]
  | x :: xs => if r.before x then r :: x :: xs else x :: insertRec r xs

/-- A record the dispatcher waits for at a translation request is not examined (R420). -/
def State.recHeld (s : State) (r : ReadyRec) : Bool :=
  s.requests.any fun q => !q.declined && q.waiters.contains (.dispatcher r.octant r.id)

/-- The records of an octant that a decision examines, in order (R321): released, walked, of no halted region. -/
def State.queue (s : State) (o : Nat) : List ReadyRec :=
  (s.readies.filter fun r => decide (r.octant = o) && r.walked && !s.recHeld r && !s.blockedRec r).foldl
    (fun l r => insertRec r l) []

/-- Tasks in task slots of a core. -/
def State.occupied (s : State) (core : Nat) : Nat := ((List.range 4).filter fun i => (s.slot (core * 8 + i)).busy).length

/-- Cores by fewest occupied task slots, then by lowest core ID (R322). -/
def State.byLoad (s : State) (cores : List Nat) : List Nat :=
  [0, 1, 2, 3, 4].flatMap fun n => cores.filter fun c => decide (s.occupied c = n)

/-- The ring-drain slot of an octant takes the record that has come from a ring first, when no queued record of equal or
higher priority could use it (R327). -/
def State.drainOk (s : State) (r : ReadyRec) (core : Nat) : Bool :=
  r.ring && !(s.queue r.octant).any fun x => decide (x.id ≠ r.id) && ((s.tiers x).any fun t => t.contains core) &&
    (if x.ring then decide (x.id < r.id) else decide (x.prio ≤ r.prio))

/-- A task slot is kept for a graph that is replayed, or for tasks of one that was handed over, another than this one
(R324, R340, R343). -/
def State.slotReserved (s : State) (core i graph : Nat) : Bool :=
  s.allocs.any fun a => decide (a.kind = 4) && decide (a.core = core) && decide (a.num = i) && a.keeps graph

/-- A task slot of a core is open to a record (R324, R327, R359), whether or not it is free. -/
def State.slotOpen (s : State) (r : ReadyRec) (core i : Nat) : Bool :=
  !s.slotReserved core i r.graph.toNat &&
  !(s.drains.any fun d => decide (d.1 = core * 8 + i) && decide (d.2 ≠ r.id) && s.readies.any fun x => x.id == d.2) &&
  (decide (i ≠ 3) || decide (core % 128 ≠ 0) || s.drainOk r core)

/-- The lowest free task slot of a core that a record may take (R322). -/
def State.slotFor (s : State) (r : ReadyRec) (core : Nat) : Option Nat :=
  if (s.core core).halted || !coreExists core then none
  else (List.range 4).find? fun i => !(s.slot (core * 8 + i)).busy && s.slotOpen r core i

/-- A ready task of equal or higher effective priority could use the slot of a task that yields (R317): one that a decision
examines, with this core among its candidates and the slot open to it. -/
def State.readyFor (s : State) (sk : Nat) : Bool :=
  (s.queue (octantOf (sk / 8))).any fun r => decide (r.prio ≤ (s.slot sk).prio) &&
    ((s.tiers r).any fun t => t.contains (sk / 8)) && s.slotOpen r (sk / 8) (slotNum sk)

/-! ### Grants (R323) -/

/-- The windows reserved for a task of a graph that was handed over, in request order (R343). -/
def State.reservedWins (s : State) (tcb : Word) : List Alloc :=
  s.allocs.filter fun a => decide (a.kind = 0) && decide (a.owner = 0) && decide (a.tcb = tcb)

/-- The window register of a base and a size of 4 KiB << order (R148). -/
def winWord (b size : Nat) : Word := BitVec.ofNat 64 (b + 2 ^ 33 + Nat.log2 (size / 4096) * 2 ^ 36)

/-- Recorded windows given to the valid requests in order (R343). -/
def recordedWins : List Nat → List Alloc → List Word
  | [], _ => []
  | w :: ws, as =>
    match as with
    | [] => 0 :: recordedWins ws []
    | a :: rest => if w % 2 = 0 then 0 :: recordedWins ws as else winWord a.num a.size :: recordedWins ws rest

/-- Everything a task needs of a core, when all of it can be granted within every budget (R296, R323). -/
def State.grantsFor (s : State) (t : List Byte) (tcb : Word) (graph : Nat) (g : Region) (core : Nat) : Option Grants :=
  let reqs := (List.range 4).map fun i => leAt t (72 + 8 * i) 8
  let kept := s.reservedWins tcb
  let wins :=
    if kept.isEmpty then s.grantWindows core reqs [] []
    else if kept.any fun a => s.allocs.any fun b => decide (b.kind = 0) && decide (b.owner ≠ 0) && overlap a.num a.size b.num b.size then none
    else some (recordedWins reqs kept, [])
  match wins, s.freeUnits graph 1 core 8 (leAt t 60 1 % 16), s.freeUnits graph 2 core 4 (leAt t 60 1 / 16 % 8),
    s.freeThunks graph core (leAt t 62 2) with
  | some (ws, rs), some ts, some as, some f =>
    if s.withinBudgets g core ts.length as.length ((rs.map (·.2) ++ kept.map (·.size)).foldl (· + ·) 0) then
      some ⟨ws, rs, ts, as, f, leAt t 62 2⟩
    else none
  | _, _, _, _ => none

/-- Grants entered in the live allocation map under a new owner, and the usage words of the region path (R296, R324).
Windows reserved for the task become its own. -/
def State.takeGrants (s : State) (owner core : Nat) (task graph : BitVec 32) (tcb : Word) (g : Region) (gr : Grants) : State :=
  let new (kind num size : Nat) : Alloc := ⟨kind, core, num, size, owner, task, graph, 0⟩
  let mine := gr.ranges.map (fun r => new 0 r.1 r.2) ++ gr.tiles.map (fun t => new 1 t 1) ++
    gr.accs.map (fun a => new 2 a 1) ++ (if gr.nthunk = 0 then [] else [new 3 gr.thunk gr.nthunk])
  let old := s.allocs.filterMap fun a =>
    if a.owner = 0 ∧ a.tcb = tcb ∧ tcb ≠ 0 then (if a.kind = 0 then some { a with owner := owner, tcb := 0 } else none) else some a
  let nodes := g.budgets.map (·.1)
  let s1 := { s with allocs := old ++ mine, holders := s.holders ++ [(⟨owner, nodes, some core⟩ : Holder)] }
  s1.writeUsage nodes

/-- Physical tiles and accumulators newly granted: what they held is gone, and what they hold is a free value until it
is written (R226). -/
def State.freshUnits (s : State) (core : Nat) (tiles accs : List Nat) : State :=
  let t (l : Nat) : Bool := tiles.any fun i => decide (l / 256 = core * 8 + i)
  let a (r : Nat) : Bool := accs.any fun i => decide (r / 128 = core * 4 + i)
  let s1 := { s with
    tiles := s.tiles.filter fun x => !t x.1
    accs := s.accs.filter fun x => !a x.1
    tags := s.tags.filter fun x => !(decide (x.1 % 4 = 2) && t (x.1 / 4))
    bad := s.bad.filter fun x => !(decide (x.1 % 4 = 2) && t (x.1 / 4))
    ecc := s.ecc.filter fun x => !(decide (x % 4 = 2) && t (x / 4)) }
  let s2 := tiles.foldl (fun s i => { s with tileGrant := Kv.put s.tileGrant (core * 8 + i) (s.fresh + 1), fresh := s.fresh + 1 }) s1
  accs.foldl (fun s i => { s with accGrant := Kv.put s.accGrant (core * 4 + i) (s.fresh + 1), fresh := s.fresh + 1 }) s2

/-! ### The slot's state at launch (R300) -/

/-- How a task's slot shows the graph it belongs to: mode, guard ID, task index, version (R333). -/
def State.replayShow (s : State) (graph : BitVec 32) (tcb : Word) : Nat × Nat × Nat × BitVec 32 :=
  match s.graph graph.toNat with
  | none => (0, 0, 0, 0)
  | some g => if g.tcbs.contains tcb then (g.mode, g.gid, g.tcbs.idxOf tcb, g.ver) else (0, 0, 0, 0)

/-- A slot as a launch leaves it, from the TCB's bytes and the effective fields of its region (R300). -/
def launchedSlot (old : Slot) (r : ReadyRec) (t : List Byte) (m : Nat) (g : Region) (gr : Grants) (owner : Nat)
    (show' : Nat × Nat × Nat × BitVec 32) (anc : List Nat) (time : BitVec 64) : Slot :=
  let tok (i : Nat) : Nat := leAt t 20 4 / 32 ^ i % 32
  { busy := true, tcb := r.tcb, xroot := r.xroot, rcb := BitVec.ofNat 64 (leAt t 176 8)
    taskid := BitVec.ofNat 64 (leAt t 0 8), graph := r.graph.toNat, seed := BitVec.ofNat 64 (leAt t 168 8)
    shapes := (List.range 8).map fun i => (i, BitVec.ofNat 32 (leAt t (128 + 4 * i) 4))
    troot := g.troot, swin := (List.range 4).map fun i => (i, gr.wins.getD i 0), splim := leAt t 64 2
    lx := tok 0, xl := tok 1, xs := tok 2, sx := tok 3
    rcvL := decide (leAt t 13 1 / 4 % 2 = 1), rcvS := decide (leAt t 13 1 / 8 % 2 = 1)
    flast := old.flast, cstall := old.cstall, prunBase := r.run, runSince := some time, launched := time
    prio := r.prio, det := g.det, policy := g.policy, group := g.group, regions := g.budgets.map fun b => BitVec.ofNat 64 b.1
    teamId := BitVec.ofNat 32 (leAt t 216 4), teamSize := leAt t 220 1, member := leAt t 221 1
    killable := decide (leAt t 13 1 % 2 = 1), idempotent := decide (leAt t 13 1 / 2 % 2 = 1), est := leAt t 16 4
    tmap := gr.tiles, amap := gr.accs, thEntries := (List.range gr.nthunk).map (gr.thunk + ·)
    owner := owner, save := BitVec.ofNat 64 (leAt t 184 8), rcd := some r, tcbAt := m, anc := anc
    mode := show'.1, gid := show'.2.1, tix := show'.2.2.1, ver := show'.2.2.2 }

/-- A sequencer at launch: its entry point, its end, s2 and s3 (R298, R300). A stream of length 0 is absent. -/
def launchedSeq (old : Seq) (entry len : Nat) (arg tcb : Word) : Seq :=
  if len = 0 then { tlb := old.tlb }
  else { active := true, pc := BitVec.ofNat 64 entry, stop := BitVec.ofNat 64 (entry + 4 * len), regs := [(2, arg), (3, tcb)], tlb := old.tlb }

/-- The allocation entries of a trace for a launch (R337). -/
def allocEntries (tix : Nat) (t : List Byte) (gr : Grants) : List (List Byte) :=
  let e (kind b5 n : Nat) (a : Nat) : List Byte :=
    leBytes 4 tix ++ [BitVec.ofNat 8 kind, BitVec.ofNat 8 b5] ++ leBytes 2 n ++ leBytes 8 a
  let reqs := (List.range 4).filterMap fun i =>
    if leAt t (72 + 8 * i) 8 % 2 = 1 then some (e 0 (leAt t (72 + 8 * i) 8 / 2 % 16) 0 (bits (gr.wins.getD i 0) 0 33)) else none
  reqs ++ gr.tiles.map (e 1 · 0 0) ++ gr.accs.map (e 2 · 0 0) ++
    (if gr.nthunk = 0 then [] else [e 3 0 gr.nthunk gr.thunk])

/-- A launch noted by its graph: started; while it is recorded its start record, its place and its allocation entries
(R339); while it is replayed, what the refiner asks of it (R345). -/
def State.noteLaunch (s : State) (r : ReadyRec) (t : List Byte) (core i : Nat) (gr : Grants) : State :=
  match s.graph r.graph.toNat with
  | none => s
  | some g =>
    if !g.tcbs.contains r.tcb then s
    else
      let tix := g.tcbs.idxOf r.tcb
      let clock := if g.began.isSome then g.clock else octantOf core
      let now := (Kv.get 0 s.cycles clock).toNat
      let g1 := { g with started := (g.started ++ [tix]).eraseDups, clock := clock, began := some (g.began.getD now) }
      if g.mode = 1 then
        let g2 := { g1 with allocs := Kv.put g1.allocs tix (allocEntries tix t gr), places := Kv.put g1.places tix (core * 8 + i) }
        (s.setGraph g2).stage g.id core 0 [traceRec 6 [(4, leBytes 4 tix)]]
      else if g.mode = 2 then
        let free := (List.range 4).all (fun i => decide (leAt t (72 + 8 * i) 8 % 2 = 0) || decide (leAt t (72 + 8 * i) 8 / 32 % 4 = 0)) &&
          decide (leAt t 104 8 / 2 ^ 62 = 0)
        s.setGraph { g1 with
          spans := g1.spans.filter (fun x => x.1 != tix) ++ [(tix, now, now)]
          movable := if free then (g1.movable ++ [tix]).eraseDups else g1.movable }
      else s.setGraph g1

/-- A task launched in a slot (R300, R325): grants, slot state, streams, the TCB's status and launch time. -/
def State.launchInto (s : State) (r : ReadyRec) (m : Nat) (t : List Byte) (g : Region) (core i : Nat) (gr : Grants) : State :=
  let sk := core * 8 + i
  let owner := s.nextOwner
  let s0 := { s with nextOwner := s.nextOwner + 1 }.takeGrants owner core r.task r.graph r.tcb g gr
  let s1 := s0.freshUnits core gr.tiles gr.accs
  let s2 := { s1 with
    spill := s1.spill.filter fun x => decide (x.1 / 1024 ≠ sk)
    drains := s1.drains.filter fun d => decide (d.1 ≠ sk) && decide (d.2 ≠ r.id)
    deps := Kv.del s1.deps m }
  let s3 := s2.setSlot sk (launchedSlot (s.slot sk) r t m g gr owner (s.replayShow r.graph r.tcb) (Kv.get [] s.deps m) s.time)
  let arg := BitVec.ofNat 64 (leAt t 224 8)
  let s4 := [0, 1, 2].foldl (fun s j =>
    s.setSeq (sk * 4 + j) (launchedSeq (s.seq (sk * 4 + j)) (leAt t (24 + 8 * j) 8) (leAt t (48 + 4 * j) 4) arg r.tcb)) s3
  let s5 := ((s4.blockSet m 200 4 3).blockSet m 240 8 s.time.toNat)
  s5.noteLaunch r t core i gr

/-! ### Placing records (R322, R314) -/

/-- What trying to place a record comes to: done, not now, a wait for a translation, or that the task cannot run: a fault
code and status, the member and the bad line. -/
inductive Tried where
  | done (s : State)
  | no (s : State)
  | hold (s : State)
  | refused (s : State) (code status j : Nat) (bad : Option BadLine)

/-- A member of a team, or a task of its own, placed on the first core that can take it. -/
def State.placeOn (s : State) (r : ReadyRec) (m : Nat) (t : List Byte) (g : Region) : Option State :=
  ((s.tiers r).flatMap s.byLoad).findSome? fun core =>
    match s.slotFor r core with
    | none => none
    | some i => (s.grantsFor t r.tcb r.graph.toNat g core).map (s.launchInto r m t g core i)

/-- The record of member `j` of a record's team (R314): its TCB, and where it is placed. -/
def State.memberRec (s : State) (r : ReadyRec) (j : Nat) (t : List Byte) : ReadyRec :=
  let va := r.tcb + BitVec.ofNat 64 (256 * j)
  if j = 0 then r
  else
    { r with tcb := va, home := r.homes.getD j .nowhere, task := BitVec.ofNat 32 (leAt t 0 4), graph := s.graphOf va (leAt t 4 4) }

/-- Members `j` on of a record's team, `n` of them, placed in one decision, or none (R314, R322). A TCB that cannot be read
any more is the unresolvable page fault of R420, a path that cannot be walked the fault of R297. -/
def State.placeMembers (s : State) (r : ReadyRec) : Nat → Nat → Tried
  | 0, _ => .done s
  | n + 1, j =>
    let src := dispSource r.octant r.id
    match s.blockAt src r.xroot (r.tcb.toNat + 256 * j) true with
    | (s, .hold) => .hold s
    | (s, .fault _ _) => .refused s 5 0 j none
    | (s, .bad b) => .refused s 7 0 j (some b)
    | (s, .ok m) =>
      let t := s.block m
      match s.region src r.xroot (leAt t 176 8) with
      | (s, .hold) => .hold s
      | (s, .malformed) => .refused s 6 7 j none
      | (s, .bad b) => .refused s 7 0 j (some b)
      | (s, .ok g) =>
        match s.placeOn (s.memberRec r j t) m t g with
        | none => .no s
        | some s => s.placeMembers r n (j + 1)

/-- What was asked of the policy core in an attempt that changes nothing else. -/
def State.asked (s t : State) : State := { s with requests := t.requests, nextReq := t.nextReq }

/-- A record launched whole, or left where it is (R321). -/
def State.tryLaunch (s : State) (r : ReadyRec) : Tried :=
  match s.placeMembers r r.tsize 0 with
  | .done t => .done (t.delRec r.id)
  | .no t => .no (s.asked t)
  | .hold t => .hold (s.asked t)
  | .refused t code st j bad => .done ((s.asked t).refuseRec r code 9 st j bad)

end Sys2Proof.Machine
end

