-- ==== Sys2Proof/Machine/Save.lean ====
section
/-! DEFINITION. The save area of a task (R360, R362 to R365): what a checkpoint writes and what a resume reads back
(R202, R366). -/

namespace Sys2Proof.Machine

/-! ### Bytes through a translation -/

/-- `len` bytes of virtual memory read page by page, their lines verified. -/
def State.readVirt (s : State) (src : Source) (troot : Word) : Nat → Nat → Nat → List Byte → State × VRes (List Byte)
  | 0, _, _, acc => (s, .ok acc)
  | n + 1, va, len, acc =>
    if len = 0 then (s, .ok acc)
    else
      let k := min len (65536 - va % 65536)
      match readVia (s.xlatePlain src troot va { kind := 0 }) k with
      | (s, .ok b) => s.readVirt src troot n (va + k) (len - k) (acc ++ b)
      | x => x

/-- Lines of tiles copied to or from virtual memory with their check words, unverified (R95, R360): pairs of a tile address
and a virtual one, with the number of bytes counted on from `d`. A line that fails verification leaves the module for the
host as an event only, and for a peer not at all (R97): no other line leaves for the host unverified (DEDUCED, log 103). One
that comes in from the host or a peer gets its check word at the hub die (R94, R95). -/
def State.carryTiles (s : State) (src : Source) (troot : Word) (out : Bool) : List (Nat × Nat) → Nat → State × Nat × VRes Unit
  | [], d => (s, d, .ok ())
  | (a, va) :: rest, d =>
    match s.xlatePlain src troot va { kind := bit out } with
    | (s, .hold) => (s, d, .hold)
    | (s, .fault c r) => (s, d, .fault c r)
    | (s, .bad b) => (s, d, .bad b)
    | (s, .ok pa _) =>
      if !out then
        (if pa / 2 ^ 50 < 2 then s.carryLine .main (memKey pa) .tile a
          else s.poke .tile a (s.bytes .main (memKey pa) 128) (s.lineTag pa)).carryTiles src troot out rest (d + 128)
      else
        match if pa / 2 ^ 50 < 2 then none else s.verifyLine .tile a with
        | none => (s.carryLine .tile a .main (memKey pa)).carryTiles src troot out rest (d + 128)
        | some b =>
          if pa / 2 ^ 50 = 2 then
            (s.event "egress verification" (BitVec.ofNat 64 va) (BitVec.ofNat 64 pa)).carryTiles src troot out rest (d + 128)
          else (s, d, .bad b)

/-! ### The parts (R254, R363 to R365) -/

/-- The index maps of an operation, map0 lowest (R256). -/
def opMaps (op : Nat) : Nat :=
  match op with
  | 2 => 0x2 + 0x9 * 16 + 0xF * 256
  | 3 => 0x2 + 0x9 * 16 + 0x1 * 256
  | 4 | 5 | 6 => 0x1 + 0x1 * 16 + 0xF * 256
  | 8 => 0x4 + 0xF * 16 + 0xF * 256
  | _ => 0x1 + 0xF * 16 + 0xF * 256

/-- The 64 bytes of a node (R254). -/
def Node.bytes (n : Node) : List Byte :=
  leBytes 64 (pack [(0, n.mask.toNat), (259, n.imm.toNat), (291, n.addr % 2 ^ 33), (324, n.pitch % 2 ^ 16), (340, bit n.alloc),
    (341, n.ofmt % 16), (345, n.kdim % 2 ^ 11), (356, n.cols % 2 ^ 11), (367, n.rows % 2 ^ 11), (378, opMaps n.op),
    (390, 2 ^ n.ins.length - 1), (393, n.ins.getD 0 0 % 256), (401, n.ins.getD 1 0 % 256), (409, n.ins.getD 2 0 % 256),
    (417, n.self % 256), (425, 1), (426, n.op % 16), (430, n.rm % 4), (432, n.np % 32), (437, n.tid % 64),
    (443, bits n.opc 2 53), (496, n.seq.toNat)])

/-- The body of a run in flight (R202): as it stands in the store, or for one that has not gone on since it was put back as
it was saved. -/
def State.bodyOf (s : State) (c : Cmd) : List (BitVec 32) :=
  if c.phase = .waiting then c.body
  else (List.range (c.last + 1 - c.start)).map fun i => s.microWord (coreOf c.seqk) (c.start + i)

/-- FCUR of a slot's own block: the core's, or what the slot kept of it (R270, R271). -/
def State.cursorWord (s : State) (sk : Nat) : Word :=
  let f := (s.core (sk / 8)).fcur
  if bits f 32 3 = slotNum sk then BitVec.ofNat 64 (bits f 0 35) else (s.slot sk).cursor

/-- The micro-state of a command as a trap record's mstate shows it (R349, R365): zero before it has started. A faulted move
shows the lines or rows it had completed. -/
def State.mstateOf (s : State) (c : Cmd) : Nat :=
  if !c.begun && !c.failed then 0
  else
    match engineOf c.ins with
    | 1 => c.off % 2 ^ 32
    | 2 => if c.isVrun then s.runState c else 0
    | 3 => c.nest.word
    | 4 => c.off % 65536
    | 5 => ((s.slot (slotKey c.seqk)).mis.kept.word + bit (decide (c.phase = .running)) * 2 ^ 13)
    | 6 => (s.cursorWord (slotKey c.seqk)).toNat
    | _ => 0

/-- A command put before the first of those, in sequence order, that come after it; `next` is the slot's next number. -/
def insertNum (next : BitVec 16) (c : Cmd) : List Cmd → List Cmd
  | [] => [c]
  | x :: rest =>
    if (c.num - next + 0x8000).toNat ≤ (x.num - next + 0x8000).toNat then c :: x :: rest else x :: insertNum next c rest

/-- The commands of a slot that have issued and not retired, in sequence order (R365). The implicit TBLOAD of a resume is none
of them: it is made again, if it is still needed, at the next (R202). -/
def State.savedCmds (s : State) (sk : Nat) : List Cmd :=
  ((s.inFlight sk).filter fun c => !(c.isTbload && decide (c.par ≠ []))).foldr (insertNum (s.slot sk).nextCmd) []

/-- The commands of a slot that hold a latched set, at most four (R229, R362). -/
def State.latchedCmds (s : State) (sk : Nat) : List Cmd := ((s.savedCmds sk).filter fun c => isMgo c.ins || isMiter c.ins).take 4

/-- An entry of the command block (R365). -/
def State.cmdEntry (s : State) (sk : Nat) (c : Cmd) : List Byte :=
  let set := (s.latchedCmds sk).map (·.uid)
  cmdRecord s c 1 0 0 0 ++
  [BitVec.ofNat 8 (bit c.begun), if set.contains c.uid then BitVec.ofNat 8 (set.idxOf c.uid) else 0xFF] ++
  zeros 14 ++ leBytes 16 (s.mstateOf c) ++ leBytes 8 c.seed.toNat ++ zeros 24

/-- A latched set: MCFG 0x000 to 0x04F, then eight descriptors. -/
def latchBytes (m d : List (Nat × Word)) : List Byte :=
  (List.range 80).flatMap (fun n => leBytes 8 (latchedReg m n).toNat) ++ (List.range 8).flatMap fun t => leBytes 8 (Kv.get 0 d t).toNat

/-- A sequencer's 512 bytes (R362). -/
def State.seqBytes (s : State) (k : Nat) : List Byte :=
  leBytes 8 (s.pc k).toNat ++ (List.range 32).flatMap (fun r => leBytes 8 (s.reg k (BitVec.ofNat 5 r)).toNat) ++
  leBytes 8 (s.csr k 0x005).toNat ++ leBytes 8 (s.csr k 0x006).toNat ++ zeros 232

/-- Sixteen outcomes of a control-queue copy, head first. -/
def cqBytes (q : List (BitVec 16)) : List Byte := (List.range 16).flatMap fun i => leBytes 2 (q.getD i 0).toNat

/-- The slot block (R364). -/
def State.slotBlock (s : State) (sk : Nat) : List Byte :=
  let c := s.slot sk
  let k := sk * 4 + 1
  let w (n : Nat) : List Byte := leBytes 8 (s.csr k n).toNat
  w 0x004 ++ w 0x040 ++ (List.range 16).flatMap (fun e => leBytes 2 (Kv.get 0 c.events e)) ++ w 0x007 ++ w 0x026 ++
  cqBytes c.cqL ++ cqBytes c.cqS ++ w 0x027 ++ w 0x046 ++ w 0x047 ++
  (List.range 8).flatMap (fun m => leBytes 16 (Kv.get 0 c.vec.masks m).toNat) ++ w 0x058 ++ w 0x05B ++ w 0x025 ++
  leBytes 8 c.nextCmd.toNat ++ zeros 8 ++ latchBytes c.mcfg c.desc

/-- The header (R363). -/
def State.saveHeader (s : State) (sk reason : Nat) : List Byte :=
  let c := s.slot sk
  leBytes 4 1 ++ [BitVec.ofNat 8 reason, BitVec.ofNat 8 (c.tmap.length + 16 * c.amap.length)] ++ leBytes 2 c.thEntries.length ++
  leBytes 8 (s.prun sk) ++ leBytes 2 (sk / 8) ++ [BitVec.ofNat 8 (slotNum sk), BitVec.ofNat 8 (s.savedCmds sk).length] ++
  leBytes 4 c.mode ++ zeros 232

/-- The six data queues, eight places each, head first (R168): the vectors that have arrived. R168 has the entries reserved by
VLDs filled first; one left reserved by a VLD that has faulted is never filled, and is not saved (DESIGN CHOICE, log 124). -/
def queueBytes (c : Slot) : List Byte :=
  (List.range 6).flatMap fun q =>
    let l := (Kv.get [] c.queues q).filterMap (·.data)
    (List.range 8).flatMap fun i => match l[i]? with
      | some d => slice d 0 512
      | none => zeros 512

/-- A demand in 16 bytes: who makes it (0 a command, 1 the store queue, 2 an access, of a role), the kind and the sequence
number of its draws, and its ordinal. -/
def demandBytes (cmds : List Cmd) (d : Demand) : List Byte :=
  let x : Nat × Nat := match d.by' with
    | .cmd u => (0, ((cmds.find? fun c => c.uid == u).elim 0 (·.num.toNat)))
    | .store r => (1, r)
    | .access r => (2, r)
  [BitVec.ofNat 8 x.1, BitVec.ofNat 8 d.kind] ++ leBytes 2 x.2 ++ leBytes 2 d.seq.toNat ++ leBytes 2 d.ord ++ zeros 8

/-- The run state (R202, R270, R362): a header with the generation, the number and the length of the run in flight, FCUR, the
number of demands and VSTEP; the demands; and the micro-orders of the body. R362 names what the area holds and gives it no
layout, and 4096 bytes: what a longer body has beyond them stands in the reserved bytes that follow (DESIGN CHOICE, log 52). -/
def State.runBytes (s : State) (sk : Nat) : List Byte :=
  let c := s.slot sk
  let r := (s.inFlight sk).find? fun x => x.isVrun && x.begun
  let body := (r.elim [] s.bodyOf)
  let l := r.elim (zeros 4) (fun x => leBytes 2 x.gen.toNat ++ leBytes 2 x.num.toNat) ++ leBytes 4 body.length ++
    leBytes 8 (s.cursorWord sk).toNat ++ leBytes 2 c.demands.length ++ zeros 6 ++ leBytes 8 c.vec.steps.toNat ++ zeros 32 ++
    c.demands.flatMap (demandBytes s.cmds) ++ body.flatMap fun w => leBytes 4 w.toNat
  slice l 0 (max 4096 l.length)

/-- The bytes of the run state that a saved task's area holds. -/
def runLength (demands body : Nat) : Nat := max 4096 (64 + 16 * demands + 4 * body)

/-- The save area but for its tiles: offsets and bytes (R362). -/
def State.saveParts (s : State) (sk reason : Nat) : List (Nat × List Byte) :=
  let c := s.slot sk
  [(0, s.saveHeader sk reason)] ++
  (match c.trap with
    | some r => [(0x100, r.bytes)]
    | none => []) ++
  (List.range 3).map (fun j => (0x200 + 512 * j, s.seqBytes (sk * 4 + j))) ++ [(0x800, s.slotBlock sk)] ++
  c.hist.map (fun h => (0x1000 + 144 * h.1, histRecord h.1 h.2)) ++
  (s.savedCmds sk).zipIdx.map (fun x => (0x3400 + 128 * x.2, s.cmdEntry sk x.1)) ++
  (s.latchedCmds sk).zipIdx.map (fun x => (0x5400 + 1024 * x.2, latchBytes x.1.lat.mcfg x.1.lat.desc)) ++
  [(0x6400, s.runBytes sk), (0x9400, queueBytes c)] ++
  c.thEntries.zipIdx.map (fun e => (0xF400 + 64 * e.2, match c.nodes.find? fun n => n.entry == e.1 with
    | some n => n.bytes
    | none => zeros 64)) ++
  [(0x13400, (List.range c.splim).flatMap fun i => leBytes 8 (Kv.get 0 s.spill (sk * 1024 + i)).toNat),
   (0x15400, (List.range 128).flatMap fun r => (List.range 128).flatMap fun l =>
      leBytes 4 ((Kv.get [] c.vec.regs r).getD l 0).toNat)] ++
  (List.range c.amap.length).map fun a =>
    (0x25400 + 65536 * a, (List.range 128).flatMap fun row => (s.accRow sk a row).flatMap fun x => leBytes 4 x.toNat)

/-- The lines of a slot's granted tiles, in logical order, with their places in the save area (R362). -/
def State.tileLines (s : State) (sk : Nat) (save : Word) (tiles : Nat) : List (Nat × Nat) :=
  (List.range tiles).flatMap fun t => (List.range 256).map fun i =>
    (s.tileAddr sk t 0 + 128 * i, save.toNat + 0x65400 + 32768 * t + 128 * i)

/-- The whole save area written (R362). What has performed when a page has to be waited for is not written again (R89). -/
def State.writeSave (s : State) (sk reason : Nat) : State × VRes Unit :=
  let c := s.slot sk
  let parts := (s.saveParts sk reason).map fun p => (c.save.toNat + p.1, p.2)
  let n := (parts.map (·.2.length)).foldl (· + ·) 0
  let note (x : State × Nat × VRes Unit) : State × VRes Unit := (x.1.modSlot sk fun c => { c with saved := x.2.1 }, x.2.2)
  match s.writeAll (saveSource sk) c.troot (originTag 0 (sk / 8)) parts c.saved c.saved with
  | (s, d, .ok _) =>
    note (s.carryTiles (saveSource sk) c.troot true ((s.tileLines sk c.save c.tmap.length).drop ((c.saved - n) / 128)) d)
  | x => note x

/-! ### Reading it back (R366) -/

/-- 32-bit words of bytes. -/
def words32 (n : Nat) (b : List Byte) : List (BitVec 32) := (chunks 4 n b).map fun x => BitVec.ofNat 32 (leNat x)

/-- A sequencer restored over what was kept of it. -/
def seqOf (kept now : Seq) (b : List Byte) : Seq :=
  { kept with
    stopped := false
    pc := BitVec.ofNat 64 (leAt b 0 8)
    regs := (List.range 32).filterMap fun r => if r = 0 ∨ leAt b (8 + 8 * r) 8 = 0 then none else some (r, BitVec.ofNat 64 (leAt b (8 + 8 * r) 8))
    srcnt := BitVec.ofNat 32 (leAt b 264 4), last := BitVec.ofNat 16 (leAt b 272 2), any := decide (leAt b 276 1 % 2 = 1), tlb := now.tlb }

/-- The slot block and the queues restored over what was kept of a slot (R364). -/
def slotOf (c : Slot) (b q : List Byte) : Slot :=
  let w (o : Nat) : Word := BitVec.ofNat 64 (leAt b o 8)
  let cq (o n : Nat) : List (BitVec 16) := (List.range n).map fun i => BitVec.ofNat 16 (leAt b (o + 2 * i) 2)
  let ix (o m : Nat) (l : List (Nat × BitVec 16)) : List (Nat × BitVec 16) :=
    (List.range 4).foldl (fun l i => Kv.put l (m + i) (BitVec.ofNat 16 (leAt b (o + 2 * i) 2))) l
  { c with
    seed := w 0
    events := (List.range 16).map fun e => (e, leAt b (16 + 2 * e) 2)
    evovf := BitVec.ofNat 16 (leAt b 0x30 2)
    lx := bits (w 0x38) 0 5, xl := bits (w 0x38) 5 5, xs := bits (w 0x38) 10 5, sx := bits (w 0x38) 15 5
    cqL := cq 0x40 (bits (w 0x80) 24 5), cqS := cq 0x60 (bits (w 0x80) 29 5)
    queues := (List.range 6).map fun i => (i, (List.range (bits (w 0x80) (4 * i) 4)).map fun j =>
      DqEntry.mk 0 (some (slice q ((i * 8 + j) * 512) 512)))
    tha := w 0x118, miStop := decide (leAt b 0x120 1 % 2 = 1), splim := leAt b 0x128 8, nextCmd := BitVec.ofNat 16 (leAt b 0x130 2)
    mcfg := (List.range 80).map fun n => (n, w (0x140 + 8 * n))
    desc := (List.range 8).map fun t => (t, w (0x3C0 + 8 * t))
    vec := { c.vec with
      lanes := BitVec.ofNat 8 (leAt b 8 1)
      ix := ix 0x90 4 (ix 0x88 0 c.vec.ix)
      masks := (List.range 8).map fun m => (m, BitVec.ofNat 128 (leAt b (0x98 + 16 * m) 16)) } }

/-- A histogram read back from its record (R77). -/
def histOf (b : List Byte) : Hist :=
  { bins := (List.range 32).map fun i => (i, leAt b (4 * i) 4), sat := leAt b 128 4, hb := BitVec.ofNat 8 (leAt b 132 1) }

/-- A command restored from its entry of the command block over what was kept of it (R365): what it was issued as, its place,
and its micro-state. -/
def cmdOf (c : Cmd) (b : List Byte) : Cmd :=
  let m := leAt b 80 16
  { c with
    ins := decodeStream false (leAt b 4 4) (leAt b 8 4), ext := decodeExt (leAt b 8 4), num := BitVec.ofNat 16 (leAt b 12 2)
    v1 := BitVec.ofNat 64 (leAt b 40 8), v2 := BitVec.ofNat 64 (leAt b 48 8), v3 := BitVec.ofNat 64 (leAt b 56 8)
    seed := BitVec.ofNat 64 (leAt b 96 8)
    off := if engineOf c.ins = 1 then c.off / 2 ^ 32 * 2 ^ 32 + m % 2 ^ 32 else c.off
    nest := if isMgo c.ins then
        { c.nest with idx := (List.range 6).map fun l => m / 2 ^ (16 * l) % 65536, w := m.testBit 96, dcount := m / 2 ^ 97 % 65536 }
      else c.nest }

/-- A latched set restored from its entry (R229, R362). -/
def latchOf (l : Latched) (b : List Byte) : Latched :=
  { l with
    mcfg := (List.range 80).map fun n => (n, BitVec.ofNat 64 (leAt b (8 * n) 8))
    desc := (List.range 8).map fun t => (t, BitVec.ofNat 64 (leAt b (640 + 8 * t) 8)) }

/-- A slot's own part of a command's micro-state, restored (R349): a run's registers, or MIS. -/
def Slot.withState (c : Slot) (x : Cmd) (m steps : Nat) : Slot :=
  if !x.begun then c
  else if x.isVrun then
    { c with vec := { c.vec with
        upc := BitVec.ofNat 12 m, bank := decide (m % 2 ^ 12 / 2048 = 1), passes := m / 2 ^ 12 % 2 ^ 32, trip := BitVec.ofNat 32 (m / 2 ^ 44)
        tail := BitVec.ofNat 3 (m / 2 ^ 76), rot := m / 2 ^ 79 % 2 ^ 7, pred := BitVec.ofNat 7 (m / 2 ^ 86), steps := BitVec.ofNat 64 steps
        cfg := BitVec.ofNat 32 (bits x.v1 0 32) } }
  else if isMiter x.ins then
    { c with mis := { k := m % 256, phase := m / 256 % 16, grew := m.testBit 14, prev := BitVec.ofNat 32 (m / 2 ^ 32) } }
  else c

/-- A node restored from its 64 bytes over what was kept of it (R254). -/
def nodeOf (n : Node) (b : List Byte) : Node :=
  let x := leNat b
  let f (lo w : Nat) : Nat := x / 2 ^ lo % 2 ^ w
  { n with
    mask := BitVec.ofNat 64 x, imm := BitVec.ofNat 32 (f 259 32), addr := f 291 33, pitch := f 324 16, alloc := x.testBit 340, ofmt := f 341 4
    kdim := f 345 11, cols := f 356 11, rows := f 367 11, self := f 417 8, op := f 426 4, rm := f 430 2, np := f 432 5, tid := f 437 6
    ins := ((List.range 3).filter fun i => x.testBit (390 + i)).map fun i => f (393 + 8 * i) 8
    opc := BitVec.ofNat 64 (4 * f 443 53), seq := BitVec.ofNat 16 (f 496 16) }

/-- A demand restored over what was kept of it (R270). -/
def demandOf (d : Demand) (b : List Byte) : Demand :=
  { d with kind := leAt b 1 1, seq := BitVec.ofNat 16 (leAt b 4 2), ord := leAt b 6 2 }

/-- What a resume has read of a save area. -/
structure Restored where
  seqs : List Byte
  block : List Byte
  hist : List (Nat × Hist)
  queues : List Byte
  spill : List Byte
  vregs : List Byte
  cmds : List Byte
  latched : List Byte
  run : List Byte
  nodes : List Byte
  accs : List (List Byte)

/-- The commands of a saved task as its save area holds them (R365, R366). -/
def Restored.cmdsOf (x : Restored) (kept : List Cmd) : List Cmd :=
  let d := leAt x.run 16 2
  kept.zipIdx.map fun c =>
    let b := slice x.cmds (128 * c.2) 128
    let y := cmdOf c.1 b
    let y1 := if leAt b 65 1 = 0xFF then y else { y with lat := latchOf y.lat (slice x.latched (1024 * leAt b 65 1) 1024) }
    if y1.isVrun && y1.resumed then
      { y1 with gen := BitVec.ofNat 16 (leAt x.run 0 2)
                body := (List.range (leAt x.run 4 4)).map fun i => BitVec.ofNat 32 (leAt x.run (64 + 16 * d + 4 * i) 4) }
    else y1

/-- A slot with what its save area holds beside its block: the cursor, the demands, the nodes, and the micro-states of its
commands (R254, R270, R365). -/
def Restored.slotOf (x : Restored) (c : Slot) (kept : List Cmd) : Slot :=
  let c1 := { c with
    cursor := BitVec.ofNat 64 (leAt x.run 8 8)
    demands := c.demands.zipIdx.map fun d => demandOf d.1 (slice x.run (64 + 16 * d.2) 16)
    nodes := c.nodes.map fun n => nodeOf n (slice x.nodes (64 * c.thEntries.idxOf n.entry) 64) }
  (x.cmdsOf kept).zipIdx.foldl (fun c y => c.withState y.1 (leAt x.cmds (128 * y.2 + 80) 16) (leAt x.run 24 8)) c1

/-- Parts of a save area read in order: offsets and lengths. -/
def State.readParts (s : State) (src : Source) (troot save : Word) : List (Nat × Nat) → List (List Byte) → State × VRes (List (List Byte))
  | [], acc => (s, .ok acc)
  | (o, n) :: rest, acc =>
    match s.readVirt src troot (n / 65536 + 2) (save.toNat + o) n [] with
    | (s, .ok b) => s.readParts src troot save rest (acc ++ [b])
    | (s, .hold) => (s, .hold)
    | (s, .fault c r) => (s, .fault c r)
    | (s, .bad b) => (s, .bad b)

/-- Everything of a save area but its tiles, read for a resume. -/
def State.readSave (s : State) (src : Source) (v : Saved) : State × VRes Restored :=
  let c := v.slot
  let na := c.amap.length
  let sets := min 4 (v.cmds.filter fun c => isMgo c.ins || isMiter c.ins).length
  let body := (v.cmds.map fun c => if c.isVrun && c.resumed then c.body.length else 0).foldl max 0
  let ps := [(0x200, 1536), (0x800, 0x400), (0x9400, 24576), (0x13400, 8 * c.splim), (0x15400, 65536),
      (0x3400, 128 * v.cmds.length), (0x5400, 1024 * sets), (0x6400, runLength c.demands.length body), (0xF400, 64 * c.thEntries.length)] ++
    (List.range na).map (fun a => (0x25400 + 65536 * a, 65536)) ++ c.hist.map fun h => (0x1000 + 144 * h.1, 144)
  match s.readParts src c.troot c.save ps [] with
  | (s, .ok l) =>
    (s, .ok
      { seqs := l.getD 0 [], block := l.getD 1 [], queues := l.getD 2 [], spill := l.getD 3 [], vregs := l.getD 4 []
        cmds := l.getD 5 [], latched := l.getD 6 [], run := l.getD 7 [], nodes := l.getD 8 []
        accs := (l.drop 9).take na
        hist := (c.hist.map (·.1)).zip ((l.drop (9 + na)).map histOf) })
  | (s, .hold) => (s, .hold)
  | (s, .fault c r) => (s, .fault c r)
  | (s, .bad b) => (s, .bad b)

/-- The tiles read back into the tiles granted anew. -/
def State.readTiles (s : State) (src : Source) (sk : Nat) (troot save : Word) (tiles : Nat) : State × VRes Unit :=
  let x := s.carryTiles src troot false (s.tileLines sk save tiles) 0
  (x.1, x.2.2)

end Sys2Proof.Machine
end

