-- ==== Sys2Proof/Machine/Stop.lean ====
section
/-! DEFINITION. Stopping a task: the fault stop and the policies (R352 to R355), checkpoint, kill and resume (R358 to
R361, R366), and the end of held tasks (R354). -/

namespace Sys2Proof.Machine

/-! ### The stop (R352, R360, R361) -/

/-- A stop of a slot begins: nothing of it issues any more. A replay that it belongs to ends first as a guard failure
(R343, R354). -/
def State.beginStop (s : State) (sk reason : Nat) : State :=
  if !(s.slot sk).busy || (s.slot sk).stopping.isSome then s
  else (s.guardFail sk 0x3FF false).modSlot sk fun c => { c with stopping := some ⟨reason⟩, saved := 0 }

/-- YIELD (R317): retires, and in the X stream of a task that is no team member asks for a checkpoint when a ready
task could use the slot. -/
def execYield (t : BitVec 4) (s : State) : Out :=
  .next (issueShort ⟨rolesXH, true, t, [], false, none⟩ preGo
    (fun s =>
      let sk := slotKey s.cur
      let s1 := s.adv s.cur 4
      if roleOf s.cur = 1 && decide (slotNum sk < 4) && decide ((s.slot sk).teamSize ≤ 1) && s.readyFor sk then
        .go (s1.beginStop sk 4)
      else .go s1) s)

/-- A command of a stopping slot has reached its stop point (R129, R203, R270, R361): a sub-command has retired, what has
started and runs to retirement has too, a write-back is over (R278), and no admitted contribution is under way. -/
def State.atStop (s : State) (c : Cmd) : Bool :=
  c.failed ||
  (c.sub.isNone && decide (c.sent ≠ 4) && !s.writesBack c && (!runsToEnd c.ins || decide (c.phase = .waiting)))

/-- Everything of a stopping slot has reached its stop point: the queues have drained, and so have its commands (R352). -/
def State.stopped (s : State) (sk : Nat) : Bool :=
  (List.range 4).all (fun r => (s.seq (sk * 4 + r)).loads.isEmpty && (s.seq (sk * 4 + r)).stores.isEmpty &&
    (s.seq (sk * 4 + r)).late.isEmpty) &&
  (s.cmds.filter fun c => decide (slotKey c.seqk = sk)).all s.atStop

/-- The task's graph gives up its recording: a fault leaves it unentered (R339, R354). -/
def State.dropRecording (s : State) (sk : Nat) : State :=
  if (s.slot sk).mode ≠ 1 then s
  else
    match s.graph (s.slot sk).graph with
    | none => s
    | some g => s.abandon g 0 false

/-- Bits [4] and [5] of a task's status word (R298). -/
def Slot.marks (c : Slot) : Nat := 16 * bit c.triggered + 32 * bit c.sideEffect

/-- A command of a stopped slot as it is kept: withdrawn contributions and messages are sent again, runs go on from their
micro-order with their bodies, nests reload, what its lookups found is forgotten (R87, R129, R202, R211, R246), and what
holds an engine for itself waits for it anew (R21, R244); a CASWAP whose exchange had performed counts as retired with
rd := 1 (R354). -/
def State.keepCmd (s : State) (c : Cmd) : Cmd :=
  let c1 := { c with failed := false, sent := 0, nest := { c.nest with reload := true, begun := false }, inj := 0, ops := [] }
  if decide (caSub c.ins = 7) && c.failed && decide (c.off = 1) then { c1 with phase := .done, result := 1 }
  else if c.isVrun && c.begun && decide (c.phase ≠ .done) then
    { c1 with phase := .waiting, resumed := true, preds := [], body := s.bodyOf c }
  else if c.usesArray && c.begun && decide (c.phase ≠ .done) then { c1 with phase := .waiting, resumed := true, preds := [] }
  else if runsToEnd c.ins && decide (c.phase = .running) then { c1 with phase := .waiting, par := [], off := 0 }
  else c1

/-- What is kept of a task beside its save area. -/
def State.keep (s : State) (sk reason : Nat) (held : Option Nat) : Saved :=
  let c := s.slot sk
  { tcb := c.tcb, core := sk / 8
    slot := { c with
      prunBase := s.prunWord sk, runSince := none, stopping := none, trap := none, saved := 0, mis := c.mis.kept
      cursor := s.cursorWord sk }
    seqs := (List.range 3).map fun j => s.seq (sk * 4 + j), cmds := (s.savedCmds sk).map s.keepCmd
    reason := reason, held := held }

/-- A slot left by its task (R353, R360): its commands, the block being forced for it, waiting messages and requests go with
it, and its grants, or all but the windows. -/
def State.leaveSlot (s : State) (sk : Nat) (keepWindows : Bool) : State :=
  let us := (s.cmds.filter fun c => decide (slotKey c.seqk = sk)).map (·.uid)
  let s1 := { s.dropBlock sk (fun _ => true) with
    cmds := s.cmds.filter fun c => decide (slotKey c.seqk ≠ sk)
    cores := (s.dropBlock sk fun _ => true).cores.map fun (x : Nat × CoreSt) =>
      (x.1, { x.2 with hqWait := x.2.hqWait.filter fun h => !us.contains h.1 }) }
  ((((s1.dropWaiters sk us).returnGrants (s.slot sk).owner keepWindows).clearSlot sk).chooseRun (sk / 8))

/-- Policy 2 for a task in its slot (R353): faulted with a code, slot and grants returned, successors decremented
unless it had triggered. -/
def State.terminate (s : State) (sk code : Nat) : State :=
  let c := s.slot sk
  let s1 := (s.blockSet c.tcbAt 200 4 (7 + 16 * bit c.triggered + code * 65536)).taskOver c.graph c.tcb true
  let s2 := if c.triggered then s1 else s1.endingOf c.xroot c.tcbAt (sk / 8) (c.decs.elim 0 (·.1)) (s.ovIds sk)
  s2.leaveSlot sk false

/-- The ready record with which a task comes back (R356, R366): its original ready time and its tokens, on its saved core. -/
def State.resumeRec (s : State) (sk : Nat) : State :=
  let c := s.slot sk
  match c.rcd with
  | none => s
  | some r =>
    { s with
      nextRec := s.nextRec + 1
      readies := s.readies ++
        [{ r with id := s.nextRec, octant := octantOf (sk / 8), prio := c.prio, rose := s.time, back := some s.time, victim := none
                  home := .core (sk / 8)
                  resume := some (sk / 8) }] }

/-- The other members of a task's team stop with it (R357, R367). -/
def State.stopTeam (s : State) (sk reason : Nat) : State :=
  let c := s.slot sk
  if c.teamSize ≤ 1 then s
  else
    (s.slots.filter fun x => decide (x.1 ≠ sk) && decide (slotNum x.1 < 4) && x.2.busy && decide (x.2.teamId = c.teamId)).foldl
      (fun s x => s.beginStop x.1 reason) s

/-- A region halted (R353): its running tasks and those of its descendants are checkpointed, and theirs and the
region's records are held. -/
def State.haltRegion (s : State) (node : Word) : State :=
  let s1 := { s with haltedRegions := (s.haltedRegions ++ [node.toNat]).eraseDups }
  let hit := s.slots.filter fun c => decide (slotNum c.1 < 4) && c.2.busy && c.2.regions.contains node
  hit.foldl (fun s c => (s.beginStop c.1 5).stopTeam c.1 5) s1

/-- The policy of a saved task that faulted (R353). -/
def State.applyPolicy (s : State) (sk code : Nat) : State :=
  let c := s.slot sk
  match c.policy with
  | 2 => s.terminate sk code
  | 1 =>
    let s1 := (s.blockSet c.tcbAt 200 4 (8 + 16 * bit c.triggered + code * 65536)).event "task held" c.tcb (BitVec.ofNat 64 code)
    { s1 with saved := s1.saved ++ [s.keep sk 3 (some code)] }.leaveSlot sk true
  | _ =>
    let node := c.regions.getLastD 0
    let s1 := (s.blockSet c.tcbAt 200 4 (7 + 16 * bit c.triggered + code * 65536)).taskOver c.graph c.tcb true
    ((s1.event "region halted" node (BitVec.ofNat 64 code)).leaveSlot sk true).haltRegion node

/-- The other members of a faulted task's team have been saved (R367). -/
def State.teamSaved (s : State) (sk : Nat) : Bool :=
  let c := s.slot sk
  decide (c.teamSize ≤ 1) || !s.slots.any fun x =>
    decide (x.1 ≠ sk) && decide (slotNum x.1 < 4) && x.2.busy && decide (x.2.teamId = c.teamId) && x.2.trap.isNone

/-- The first line of the granted tiles with an uncorrectable error (R360). -/
def State.tileEcc (s : State) (sk : Nat) : Option BadLine :=
  (List.range (s.slot sk).tmap.length).findSome? fun t =>
    (s.ecc.find? fun k => decide (k % 4 = 2) && decide (k / 4 / 256 = s.tileAddr sk t 0 / 2 ^ 15)).bind fun k =>
      s.verifyLine .tile (s.tileAddr sk t 0 + 128 * (k / 4 % 256))

/-- The record of an uncorrectable error met in saving a slot (R97, R98, R360). -/
def State.eccRec (s : State) (sk : Nat) (b : BadLine) : TrapRec :=
  { s.trapBase (sk * 4 + 1) with stream := 4, engine := 9, code := 7 }.withBad b

/-- The save area written to its end (R360): a line of it with an uncorrectable error keeps its bytes where only a part of it is
written (R96), and the save goes on past it. With the first such line, of the area or of the granted tiles. -/
def State.completeSave (s : State) (sk reason : Nat) : Nat → State × Option BadLine × VRes Unit
  | 0 => let x := s.writeSave sk reason; (x.1, s.tileEcc sk, x.2)
  | n + 1 =>
    match s.writeSave sk reason with
    | (t, .bad b) =>
      if !b.ecc || decide (b.key ≠ lineKey .main b.addr) then (t, none, .bad b)
      else
        let x := { t with ecc := t.ecc.filter (· ≠ b.key) }.completeSave sk reason n
        let u := x.1.put .main b.addr (t.bytes .main b.addr 128)
        let v := { u with ecc := t.ecc.filter fun k => u.ecc.contains k || k == b.key }
        match x.2.2 with
        | .hold => (v.modSlot sk fun c => { c with saved := (t.slot sk).saved }, none, .hold)
        | r => (v, some b, r)
    | (t, r) => (t, s.tileEcc sk, r)

/-- A declined save area (R360): the task is faulted with the unresolvable page fault and no save area, under policy
2. A line that fails verification there, of the page tables or a partly written one (R96, R419), is the integrity fault in
its place (DESIGN CHOICE, log 89). -/
def State.saveFailed (s : State) (sk : Nat) (bad : Option BadLine) : State :=
  let r : TrapRec := { s.trapBase (sk * 4 + 1) with stream := 4, engine := 9, code := 5, addr := (s.slot sk).save.setWidth 56 }
  let t := match bad with
    | some b => { r with code := 7 }.withBad b
    | none => r
  ({ s.countSoft t with policy := s.policy ++ [PolicyRec.trap t] }.modSlot sk fun c => { c with flast := t.flast }).terminate sk t.code

/-- A stopped slot without a fault is saved (R360): status checkpointed, the record queued again, the slot and its
grants but the windows returned. An uncorrectable error met faults the task once the save is complete. -/
def State.finishCheckpoint (s : State) (sk reason : Nat) : State :=
  match s.completeSave sk reason 64 with
  | (s, _, .hold) => s
  | (s, _, .fault _ _) => s.saveFailed sk none
  | (s, _, .bad b) => s.saveFailed sk (some b)
  | (s, bad, .ok _) =>
    match bad with
    | some b => (s.dropRecording sk).takeTrap sk (s.eccRec sk b)
    | none =>
      let c := s.slot sk
      let s1 := s.blockSet c.tcbAt 200 4 (5 + c.marks)
      ({ s1 with saved := s1.saved ++ [s.keep sk reason none] }.resumeRec sk).leaveSlot sk true

/-! ### Halt and capture (R355, R368) -/

/-- The sequencer of a slot and its trap record written to the capture area of its core (R368). -/
def State.captureSlot (s : State) (sk off : Nat) : State :=
  let core := sk / 8
  let at' := s.captureBase + ((List.range core).filter coreExists).length * 4096 + off
  if !s.host.configured then s
  else
    let s1 := s.putMain at' (s.seqBytes (sk * 4 + 3))
    match (s.slot sk).trap with
    | some r => s1.putMain (at' + 512) r.bytes
    | none => s1

/-- A core is halted and captured (R368): slots 4 and 5 stop and are captured, every task slot is stopped with code 15
of the policy core and reason 6, whatever stopped it before, and CHALT marks the core. A task that is being killed has nothing
left to save: its kill goes on (DESIGN CHOICE, log 125). -/
def State.haltCore (s : State) (core : Nat) : State :=
  if (s.core core).halted then s
  else
    let s1 := (s.captureSlot (core * 8 + 4) 1024).captureSlot (core * 8 + 5) 0
    let s2 := [4, 5].foldl (fun (s : State) i =>
      let own (c : Cmd) : Bool := decide (slotKey c.seqk = core * 8 + i)
      ({ s with cmds := s.cmds.filter fun c => !own c }.dropWaiters (core * 8 + i) ((s.cmds.filter own).map fun (c : Cmd) => c.uid)).modSeq
        ((core * 8 + i) * 4 + 3) fun q => { q with active := false, stopped := true, loads := [], stores := [] }) s1
    let s3 := (List.range 4).foldl (fun s i =>
      let sk := core * 8 + i
      if !(s.slot sk).busy || decide ((s.slot sk).stopping = some ⟨killReason⟩) then s
      else
        let r : TrapRec := { s.trapBase (sk * 4 + 1) with stream := 4, engine := 11, code := 15 }
        ((((s.guardFail sk 0x3FF false).takeTrap sk r).modSlot sk fun c => { c with stopping := some ⟨6⟩, saved := 0 }).dropRecording sk).stopTeam sk 2) s2
    let b := BitVec.ofNat 48 (2 ^ (6 * octantOf core + clusterOf core))
    ({ s3 with chalt := s3.chalt ||| b }.modCore core fun c => { c with halted := true, haltedAt := s.time }).event "core halted"
      (BitVec.ofNat 64 core) s.time

/-- The heartbeat period of a core in ns of TIME (R188). -/
def CoreSt.period (c : CoreSt) : Nat := 1000 * max 10 c.hbper.toNat

/-- TIME from which a core's next heartbeat is awaited: that of its last one, or of CONFIG. -/
def State.beatFrom (s : State) (core : Nat) : Nat := max (s.core core).hblast.toNat s.host.configuredAt.toNat

/-- HEARTBEAT_LOSS (R368): no beat of a core has arrived for two periods. -/
def execHeartbeatLoss (core : Nat) (s : State) : Out :=
  .next (if s.time.toNat < s.beatFrom core + 2 * (s.core core).period then s else s.haltCore core)

/-- CAPTURE_CHECKPOINT_TIMEOUT (R368): a task slot of a halted core is not saved within two further periods. -/
def execCaptureCheckpointTimeout (sk : Nat) (s : State) : Out :=
  let c := s.core (sk / 8)
  .next (if c.halted && (s.slot sk).busy && decide ((s.slot sk).stopping = some ⟨6⟩) &&
      decide (c.haltedAt.toNat + 2 * c.period ≤ s.time.toNat) then s.terminate sk 15
    else s)

/-! ### FAULT_STOP (R352, R353, R355) -/

/-- The fate of a stopped task that faulted: the save with its governing record, then its policy. An uncorrectable error that the
save meets is one more fault of the task (R351, R360). -/
def State.finishFault (s : State) (sk : Nat) (r : TrapRec) : State :=
  match s.completeSave sk (((s.slot sk).stopping.map (·.reason)).getD 3) 64 with
  | (s, _, .hold) => s
  | (s, _, .fault _ _) => s.saveFailed sk none
  | (s, _, .bad b) => s.saveFailed sk (some b)
  | (s, bad, .ok _) =>
    match bad with
    | some b => (if r.engine = 9 ∧ r.ecc = true then s else s.takeTrap sk (s.eccRec sk b)).applyPolicy sk r.code
    | none => s.applyPolicy sk r.code

/-! ### Kill (R358) -/

/-- A task that may be killed. -/
def Slot.canKill (c : Slot) : Bool := c.killable && c.idempotent && !c.triggered && !c.nokill

/-- A kill begins (R358): the sequencers stop at once, what is queued is discarded without performing, and the commands go on
to their stop points. -/
def State.kill (s : State) (sk : Nat) : State :=
  (List.range 3).foldl (fun s r => s.modSeq (sk * 4 + r) fun q =>
    { q with loads := [], stores := [], fences := [], owed := [], late := [], full := [] }) ((s.beginStop sk killReason).dropRecording sk)

/-- A killed slot whose commands have reached their stop points: every grant returns, and the record re-enters its
queue, with the time the task has run (R370). -/
def State.finishKill (s : State) (sk : Nat) : State :=
  let c := s.slot sk
  let s1 := s.blockSet c.tcbAt 200 4 2
  let s2 := match c.rcd with
    | none => s1
    | some r => { s1 with
        nextRec := s1.nextRec + 1
        readies := s1.readies ++ [{ r with id := s1.nextRec, prio := c.prio, rose := s.time, byDec := true, resume := none, victim := none, run := s.prunWord sk }] }
  s2.leaveSlot sk false

/-- A stop goes on (R352, R358, R360): a kill ends without a save, whatever its commands have met; a checkpoint saves. -/
def State.goStop (s : State) (sk reason : Nat) : State :=
  if s.stopped sk = false then s
  else if reason = killReason then s.finishKill sk
  else if reason = 3 ∨ reason = 6 then s
  else s.finishCheckpoint sk reason

/-- CHECKPOINT (R360): the stop of a task begins, its team's with it (R367), or goes on. Reasons are those of R363. -/
def State.checkpoint (s : State) (sk reason : Nat) : State :=
  if slotNum sk ≥ 4 then s
  else
    match (s.slot sk).stopping with
    | none => if reason = killReason then s else (s.beginStop sk reason).stopTeam sk (if reason = 3 then 2 else reason)
    | some x => s.goStop sk x.reason

/-- CHECKPOINT of the opcode table. -/
def execCheckpoint (slot : Nat) (reason : BitVec 8) (s : State) : Out := .next (s.checkpoint slot reason.toNat)

/-- FAULT_STOP (R352 to R355): a slot whose task, handler run or runtime has faulted. -/
def State.faultStop (s : State) (sk : Nat) : State :=
  match (s.slot sk).trap with
  | none => s
  | some r =>
    if slotNum sk = 5 then (s.haltCore (sk / 8)).modSlot sk fun c => { c with trap := none }
    else if slotNum sk = 4 then
      if s.stopped sk then
        let us := (s.inFlight sk).map (·.uid)
        let s1 := { s with cmds := s.cmds.filter fun c => !us.contains c.uid }.dropWaiters sk us
        ((s1.modSeq (sk * 4 + 3) (fun q => { tlb := q.tlb })).modSlot sk fun c =>
          { c with busy := false, stopping := none, trap := none, exiting := none }).chooseRun (sk / 8)
      else s
    else
      let s1 := ((s.guardFail sk 0x3FF false).dropRecording sk).stopTeam sk 2
      if s1.stopped sk && s1.teamSaved sk then s1.finishFault sk r else s1

/-- FAULT_STOP of the opcode table. -/
def execFaultStop (slot : Nat) (s : State) : Out := .next (s.faultStop slot)

/-! ### Resume (R202, R366) -/

/-- The implicit TBLOAD that a resumed run needs before it goes on, if its body has changed (R202); the bank of the one
that is made. -/
def State.restoreBody (s : State) (c : Cmd) (core : Nat) : State × Cmd × Option Nat :=
  if (s.core core).gen (bankOf c.start) = c.gen ∨
      (List.range c.body.length).map (fun i => s.microWord core (c.start + i)) = c.body then (s, c, none)
  else
    let uid := s.nextUid
    let bank := bankOf c.start
    let preds := (s.cmds.filter fun x => decide (coreOf x.seqk = core) && decide (slotKey x.seqk ≠ slotKey c.seqk) &&
      (x.isTbload || x.isVrun) && decide (x.bank = bank)).map (·.uid)
    let load : Cmd :=
      { uid := uid, seqk := c.seqk, num := c.num, ins := .tbload 0 0 0 0 ⟨0, 0, 0, 0, 0, 0, 0, 0⟩, ext := ⟨0, 0, 0, 0, 0, 0, 0, 0⟩, pc := c.pc
        vd := 0, v1 := 0, v2 := BitVec.ofNat 64 c.start, v3 := 0, rd := 0, preds := preds, entries := [], seed := 0
        par := c.body.map fun w => (w.toNat : Int) }
    ({ s with cmds := s.cmds ++ [load], nextUid := uid + 1 }, { c with preds := [uid] }, some bank)

/-- A kept command put back in its slot: a run that was stopped first has its body restored (R202). The banks written for
the slot's runs are gathered. -/
def State.putBack (s : State) (c : Cmd) (core : Nat) (made : List Nat) : State × List Nat :=
  if c.isVrun && c.begun && decide (c.phase = .waiting) then
    let y := s.restoreBody c core
    ({ y.1 with cmds := y.1.cmds ++ [y.2.1] }, made ++ y.2.2.toList)
  else ({ s with cmds := s.cmds ++ [c] }, made)

/-- The implicit predecessors of R201 between a slot's commands that have been put back, `mine`, and those of other slots
that have not started: a later TBLOAD waits for the bank's earlier commands, a later VRUN for its TBLOADs. In a bank
written for a resumed run, what other slots have issued comes first (R202). -/
def State.rejoin (s : State) (core sk : Nat) (mine : List Cmd) (made : List Nat) : State :=
  { s with cmds := s.cmds.map fun (x : Cmd) =>
      if coreOf x.seqk ≠ core ∨ slotKey x.seqk = sk ∨ x.begun = true ∨ (x.isTbload || x.isVrun) = false then x
      else if made.contains x.bank then { x with preds := x.preds.filter fun u => !mine.any fun c => c.uid == u }
      else
        let first := mine.filter fun c => decide (c.uid < x.uid) && decide (c.bank = x.bank) && (c.isTbload || (c.isVrun && x.isTbload))
        { x with preds := (x.preds ++ first.map (·.uid)).eraseDups } }

/-- FCUR shows where a task's demands stand once it is back (R20, R270). -/
def State.restoreCursor (s : State) (core i : Nat) (c : Slot) (entry : Nat) : State :=
  if c.demands.isEmpty then s
  else s.modCore core fun x =>
    { x with fcur := BitVec.ofNat 64 (entry % 2 ^ 8 + bits c.cursor 8 24 * 2 ^ 8 + i * 2 ^ 32) }

/-- The thunk partition moved to the entries granted anew: each node, and its handle's directory entry (R253). -/
def State.moveNodes (s : State) (sk : Nat) (old new : List Nat) : State :=
  (s.slot sk).nodes.foldl (fun s n =>
    let e := new.getD (old.idxOf n.entry) n.entry
    if e = n.entry then s
    else
      (s.setDir sk n.self { s.dir sk n.self with entry := e })) s |>.modSlot sk fun c =>
    { c with nodes := c.nodes.map fun n => { n with entry := new.getD (old.idxOf n.entry) n.entry } }

/-- A saved task put back in a slot of its core with new grants (R366). -/
def State.resumeInto (s : State) (r : ReadyRec) (v : Saved) (i : Nat) (tiles accs : List Nat) (thunk : Nat) (x : Restored) : State :=
  let core := v.core
  let sk := core * 8 + i
  let c := v.slot
  let new := (List.range c.thEntries.length).map (thunk + ·)
  let owner := c.owner
  let mk (kind num size : Nat) : Alloc := ⟨kind, core, num, size, owner, r.task, r.graph, 0⟩
  let grants := tiles.map (fun t => mk 1 t 1) ++ accs.map (fun a => mk 2 a 1) ++
    (if c.thEntries.isEmpty then [] else [mk 3 thunk c.thEntries.length])
  let s1 := { s with
    allocs := s.allocs ++ grants
    holders := s.holders.map fun (h : Holder) => if h.owner = owner then { h with core := some core } else h
    drains := s.drains.filter fun d => decide (d.1 ≠ sk) && decide (d.2 ≠ r.id)
    saved := s.saved.filter fun w => decide (w.tcb ≠ v.tcb) || decide (w.slot.owner ≠ owner)
    spill := s.spill.filter fun y => decide (y.1 / 1024 ≠ sk) }.writeUsage (c.regions.map fun (w : Word) => w.toNat)
  let s2 := s1.freshUnits core tiles accs
  let slot := x.slotOf (slotOf c x.block x.queues) v.cmds
  let regs := (chunks 512 128 x.vregs).zipIdx.map fun b => (b.2, words32 128 b.1)
  let show' := s.replayShow r.graph r.tcb
  let s3 := s2.setSlot sk { slot with
    busy := true, tmap := tiles, amap := accs, thEntries := new, hist := x.hist, runSince := some s.time, rcd := some { r with resume := none }
    mode := show'.1, gid := show'.2.1, stopping := none, trap := none, vec := { slot.vec with regs := regs } }
  let s4 := { s3 with spill := (List.range c.splim).foldl (fun l n => Kv.put l (sk * 1024 + n) (BitVec.ofNat 64 (leAt x.spill (8 * n) 8))) s3.spill }
  let s5 := x.accs.zipIdx.foldl (fun s a =>
    (chunks 512 128 a.1).zipIdx.foldl (fun s row => s.setAccRow sk a.2 row.2 (words32 128 row.1)) s) s4
  let s6 := (List.range 3).foldl (fun s j =>
    s.setSeq (sk * 4 + j) (seqOf (v.seqs.getD j {}) (s.seq (sk * 4 + j)) (slice x.seqs (512 * j) 512))) s5
  let mine := (x.cmdsOf v.cmds).map fun c => { c with seqk := sk * 4 + roleOf c.seqk }
  let s7 := mine.foldl (fun (x : State × List Nat) c => x.1.putBack c core x.2) (s6, [])
  let s8 := (s7.1.rejoin core sk mine s7.2).moveNodes sk c.thEntries new
  let e := bits slot.cursor 0 8
  (s8.restoreCursor core i slot (new.getD (c.thEntries.idxOf e) e)).blockSet c.tcbAt 200 4 (3 + c.marks)

/-- A task out of its slot ends with the effects of policy 2 (R353). -/
def State.endTask (s : State) (v : Saved) (code : Nat) : State :=
  let c := v.slot
  let s1 := (s.blockSet c.tcbAt 200 4 (7 + 16 * bit c.triggered + code * 65536)).taskOver c.graph c.tcb true
  let s2 := if c.triggered then s1 else
    s1.endingOf c.xroot c.tcbAt v.core (c.decs.elim 0 (·.1)) (if c.det then (bits c.taskid 0 32 + s.nextUid * 2 ^ 32) :: c.anc else c.anc)
  ({ s2 with saved := s2.saved.filter fun w => decide (w.tcb ≠ v.tcb) || decide (w.slot.owner ≠ c.owner) }).returnGrants c.owner false

/-- A save area that cannot be read back (R97, R420): the task is faulted under policy 2, and the record goes to the policy
core (DESIGN CHOICE, log 89). -/
def State.endSaved (s : State) (v : Saved) (code : Nat) (bad : Option BadLine) (status : Nat := 0) (addr : Word := v.slot.save) : State :=
  let r : TrapRec := { time := s.time, task := v.slot.taskid.setWidth 32, stream := 4, core := v.core, engine := 9, code := code
                       addr := addr.setWidth 56, status := BitVec.ofNat 32 status }
  let t := match bad with
    | some b => r.withBad b
    | none => r
  { s.countSoft t with policy := s.policy ++ [PolicyRec.trap t] }.endTask v code

/-- The copy queues of a task's core have room for its copies, which they take with the task (R125, R366): while they have not,
its record waits as for a slot (DEDUCED, log 135). -/
def State.copyRoom (s : State) (v : Saved) : Bool :=
  (List.range 4).all fun q => decide
    ((s.copyQueue v.core q).length + (v.cmds.filter fun c => isCopy c.ins && decide (c.ext.q.toNat = q)).length ≤ 64)

/-- One saved task brought back on its core, if a slot and its grants are free (R323, R366). A region path that cannot be read any
more faults it as at its release (R297). -/
def State.resumeOne (s : State) (r : ReadyRec) : Tried :=
  match s.saved.find? (fun v => decide (v.tcb = r.tcb) && decide (some v.core = r.resume) && v.held.isNone) with
  | none => .done (s.delRec r.id)
  | some v =>
    let c := v.slot
    let src := dispSource r.octant r.id
    match s.region src r.xroot c.rcb.toNat with
    | (s, .hold) => .hold s
    | (s, .malformed) => .done ((s.endSaved v 6 none 7 r.tcb).delRec r.id)
    | (s, .bad b) => .done ((s.endSaved v 7 (some b)).delRec r.id)
    | (s, .ok g) =>
      let id := r.graph.toNat
      match s.slotFor r v.core, s.freeUnits id 1 v.core 8 c.tmap.length, s.freeUnits id 2 v.core 4 c.amap.length,
        s.freeThunks id v.core c.thEntries.length with
      | some i, some ts, some as, some f =>
        if !s.withinBudgets g v.core ts.length as.length 0 || !s.copyRoom v then .no s
        else
          match s.readSave src v with
          | (s, .hold) => .hold s
          | (s, .fault _ _) => .done ((s.endSaved v 5 none).delRec r.id)
          | (s, .bad b) => .done ((s.endSaved v 7 (some b)).delRec r.id)
          | (s, .ok x) =>
            let t := s.resumeInto r v i ts as f x
            match t.readTiles src (v.core * 8 + i) c.troot c.save c.tmap.length with
            | (u, .hold) => .hold (s.asked u)
            | (u, .fault _ _) => .done (((s.asked u).endSaved v 5 none).delRec r.id)
            | (u, .bad b) => .done (((s.asked u).endSaved v 7 (some b)).delRec r.id)
            | (u, .ok _) => .done (u.delRec r.id)
      | _, _, _, _ => .no s

/-- Records brought back together, or none. -/
def State.resumeAll (s : State) : List ReadyRec → Tried
  | [] => .done s
  | r :: rest =>
    match s.resumeOne r with
    | .done t => t.resumeAll rest
    | x => x

/-- A checkpointed task resumed (R366); a team only as a whole, so not while a member is held (R314, R353, R367). -/
def State.tryResume (s : State) (r : ReadyRec) : Tried :=
  let team : List ReadyRec :=
    match s.saved.find? (fun v => decide (v.tcb = r.tcb) && v.held.isNone) with
    | some v =>
      if v.slot.teamSize ≤ 1 then [r]
      else s.readies.filter fun x => x.resume.isSome && s.saved.any fun w => decide (w.tcb = x.tcb) && decide (w.slot.teamId = v.slot.teamId)
    | none => [r]
  let running := s.slots.any fun c => c.2.busy && c.2.stopping.isSome && decide (1 < c.2.teamSize) &&
    team.any fun x => decide (x.id ≠ r.id ∨ 1 < team.length) && decide (c.2.teamId = (s.saved.find? (fun v => v.tcb == x.tcb)).elim 0 (·.slot.teamId))
  let held := s.saved.any fun v => v.held.isSome && decide (1 < v.slot.teamSize) && team.any fun x =>
    decide (v.slot.teamId = (s.saved.find? (fun w => w.tcb == x.tcb)).elim 0 (·.slot.teamId))
  if running || held then .no s
  else
    match s.resumeAll team with
    | .done t => .done t
    | .no t => .no (s.asked t)
    | .hold t => .hold (s.asked t)
    | x => x

/-! ### Endings and held tasks (R305, R353, R354) -/

/-- A decrement made for a task that has left its slot faults (R328): the record, of that task, goes to the policy core. -/
def State.endFault (s : State) (e : Ending) (engine code addr : Nat) (bad : Option BadLine) : State :=
  let r : TrapRec := { time := s.time, task := e.task, stream := 4, core := e.core, engine := engine, code := code, addr := BitVec.ofNat 56 addr }
  let t := match bad with
    | some b => r.withBad b
    | none => r
  { s.countSoft t with policy := s.policy ++ [PolicyRec.trap t] }

/-- An ending goes on to its next successor. -/
def State.endingNext (s : State) (e : Ending) : State :=
  { s with endings := s.endings.map fun x => if x.id = e.id then { e with at' := e.at' + 8, left := e.left - 1 } else x }

/-- The next successor of the first ending that can go on is decremented (R305). One that cannot be is passed over, and the
policy core is told (DESIGN CHOICE, log 85). -/
def State.endStep (s : State) : List Ending → State
  | [] => s
  | e :: rest =>
    let drop (s : State) : State := { s with endings := s.endings.filter fun x => x.id != e.id }
    if e.left = 0 then drop s
    else
      let src : Source := { waiter := .ending e.id, core := e.core, slot := 0, engine := 5 }
      let next (s : State) : State := s.endingNext e
      match readVia (s.xlatePlain src e.xroot e.at' { kind := 0 }) 8 with
      | (t, .hold) => (s.asked t).endStep rest
      | (s, .fault _ _) => drop (s.event "successor list refused" e.xroot (BitVec.ofNat 64 e.at'))
      | (s, .bad b) => drop (s.endFault e 8 7 e.at' (some b))
      | (t, .ok b) =>
        let va := leNat b
        if !tcbPlace va then next (t.event "successor malformed" e.xroot (BitVec.ofNat 64 va))
        else
          match t.decrement src e.xroot va e.ids with
          | (t, .hold) => (s.asked t).endStep rest
          | (t, .ok false) => next t
          | (t, .ok true) => next (t.event "decrement of zero" e.xroot (BitVec.ofNat 64 va))
          | (t, .fault 14 _) => next (t.endFault e 9 14 va none)
          | (t, .fault _ _) => next (t.event "decrement refused" e.xroot (BitVec.ofNat 64 va))
          | (t, .bad b) => next (t.endFault e 8 7 va (some b))

/-- A held task resumes (R354): a record for it enters the queues. -/
def State.holdResume (s : State) (v : Saved) : State :=
  match v.slot.rcd with
  | none => s
  | some r =>
    let v1 := { v with held := none }
    { s with
      saved := s.saved.map fun w => if w.tcb = v.tcb ∧ w.slot.owner = v.slot.owner then v1 else w
      nextRec := s.nextRec + 1
      readies := s.readies ++
        [{ r with id := s.nextRec, octant := octantOf v.core, prio := v.slot.prio, rose := s.time, back := some s.time, victim := none
                  home := .core v.core
                  resume := some v.core }] }

/-- A held task ends with the effects of policy 2 (R354). -/
def State.holdEnd (s : State) (v : Saved) : State := s.endTask v (v.held.getD 0)

end Sys2Proof.Machine
end

