-- ==== Sys2Proof/Machine/Replay.lean ====
section
/-! DEFINITION. Milliner: interning a recording (R337 to R339), replay (R340 to R342), guards and handover (R343),
refinement and sharing in a gang (R345, R346). -/

namespace Sys2Proof.Machine

/-! ### The image of a recording (R337 to R339) -/

/-- Bytes filled up to a whole line. -/
def padLine (b : List Byte) : List Byte := b ++ zeros ((128 - b.length % 128) % 128)

/-- The core of a task of a recording. -/
def Graph.coreAt (g : Graph) (t : Nat) : Nat := Kv.get 0 g.places t / 8

/-- Predecessor occurrences of a task on other cores, in task order (R339). -/
def Graph.farPreds (g : Graph) (t : Nat) : List Nat := (g.predsOf t).filter fun p => decide (g.coreAt p ≠ g.coreAt t)

/-- Records of a core's task control stream. -/
def Graph.control (g : Graph) (core : Nat) : List (List Byte) := Kv.get [] g.staged (core * 8)

/-- Tasks of a core that wait at a semaphore, in the order of their starts: semaphore indices count them from 0. -/
def Graph.semTasks (g : Graph) (core : Nat) : List Nat :=
  (g.control core).filterMap fun r =>
    if leAt r 0 1 % 16 = 6 ∧ g.farPreds (leAt r 4 4) ≠ [] then some (leAt r 4 4) else none

/-- The semaphore of a task on its core. -/
def Graph.semOf (g : Graph) (t : Nat) : Nat := (g.semTasks (g.coreAt t)).idxOf t

/-- A semaphore wait, and a post after a task's end (R338). -/
def semWait (sem count : Nat) : List Byte := traceRec 3 [(4, leBytes 2 sem), (6, leBytes 2 count)]
def semPost (sem core : Nat) : List Byte := traceRec 4 [(4, leBytes 2 sem), (8, leBytes 2 core), (12, leBytes 2 0xFFFF)]

/-- The task control stream of a core with its semaphores: a wait before a start, the posts after an end. -/
def Graph.withSems (g : Graph) (core : Nat) : List (List Byte) :=
  (g.control core).flatMap fun r =>
    let t := leAt r 4 4
    if leAt r 0 1 % 16 = 6 then
      if (g.farPreds t).isEmpty then [r] else [semWait (g.semOf t) (g.farPreds t).length, r]
    else if leAt r 0 1 % 16 = 7 then
      r :: ((g.edges.getD t []).filter fun q => decide (g.coreAt q ≠ g.coreAt t)).map fun q => semPost (g.semOf q) (g.coreAt q)
    else [r]

/-- The streams of a recording: core, stream and records. -/
def Graph.streams (g : Graph) : List (Nat × Nat × List (List Byte)) :=
  g.staged.filterMap fun x =>
    if x.2.isEmpty then none
    else some (x.1 / 8, x.1 % 8, if x.1 % 8 = 0 then g.withSems (x.1 / 8) else x.2)

/-- Line offsets of streams laid one after the other from a line. -/
def streamOffsets : Nat → List (Nat × Nat × List (List Byte)) → List Nat
  | _, [] => []
  | l, x :: xs => l :: streamOffsets (l + (x.2.2.length + 1) / 2) xs

/-- The bytes of a trace (R337) from its parts: version, shape name, tasks with place and flags, allocation entries by
task, streams, TCB addresses, predecessor counts, and domain cycles. -/
def traceImage (ver : Nat) (shape : BitVec 128) (tcbs : List Word) (places : List (Nat × Nat)) (moved : List Nat)
    (allocs : List (Nat × List (List Byte))) (preds : Nat → Nat) (streams : List (Nat × Nat × List (List Byte))) (cycles : Nat) :
    List Byte :=
  let n := tcbs.length
  let entries := (List.range n).map fun t => Kv.get [] allocs t
  let first (t : Nat) : Nat := ((entries.take t).map List.length).foldl (· + ·) 0
  let tasks := (List.range n).flatMap fun t =>
    leBytes 8 (tcbs.getD t 0).toNat ++ leBytes 2 (Kv.get 0 places t / 8) ++
    [BitVec.ofNat 8 (Kv.get 0 places t % 8), BitVec.ofNat 8 (bit (moved.contains t))] ++ leBytes 4 (first t) ++
    [BitVec.ofNat 8 (entries.getD t []).length, 0, 0, 0] ++ leBytes 4 (preds t) ++ zeros 8
  let table := padLine entries.flatten.flatten
  let taskLine := 1
  let allocLine := taskLine + (padLine tasks).length / 128
  let dirLine := allocLine + table.length / 128
  let body := dirLine + (streams.length + 7) / 8
  let offs := streamOffsets body streams
  let dir := padLine ((streams.zip offs).flatMap fun x =>
    leBytes 2 x.1.1 ++ [BitVec.ofNat 8 x.1.2.1, 0] ++ leBytes 4 x.2 ++ leBytes 4 x.1.2.2.length ++ zeros 4)
  let recs := streams.flatMap fun x => padLine x.2.2.flatten
  let lines := body + recs.length / 128
  let head := leBytes 4 1 ++ leBytes 4 ver ++ leBytes 16 shape.toNat ++ leBytes 4 n ++
    leBytes 2 (places.map fun p => p.2 / 8).eraseDups.length ++ zeros 2 ++ leBytes 4 taskLine ++ leBytes 4 allocLine ++
    leBytes 4 dirLine ++ leBytes 4 lines ++ leBytes 4 entries.flatten.length ++ leBytes 4 streams.length ++ leBytes 8 cycles ++
    zeros 64
  head ++ padLine tasks ++ table ++ dir ++ recs

/-- The image of a recorded graph. -/
def Graph.recording (g : Graph) : List Byte :=
  traceImage 1 g.shape g.tcbs g.places [] g.allocs (fun t => (g.predsOf t).length) g.streams (g.finish - g.began.getD 0)

/-! ### Interning lines (R104, R115, R339) -/

/-- What interning lines comes to: names, a wait for a pool line, a collision with its ordinal-0 name, or a failure. -/
inductive LinesIn where
  | ok (s : State) (names : List (BitVec 128))
  | wait
  | collision (s : State) (name : BitVec 128)
  | bad (s : State)

/-- An intern that has failed leaves nothing but the true collisions that it has met, counted and reported (R110). -/
def State.collided (s t : State) : State := { s with cores := t.cores, policy := t.policy }

/-- Lines of one kind interned in order. No core issues a trace intern: its collisions and its origin are those of core 0
(DESIGN CHOICE, log 100). -/
def State.internLines (s : State) (kind : Nat) : List (List Byte) → List (BitVec 128) → LinesIn
  | [], acc => .ok s acc
  | l :: ls, acc =>
    if (kind = 0 ∧ l = zeros 128) ∨ (kind = 1 ∧ (nodeChildren l).all (fun k => decide (k = zeroName)) = true) then
      s.internLines kind ls (acc ++ [zeroName])
    else
      match s.intern l kind 0 true with
      | .ok t n _ => t.internLines kind ls (acc ++ [n])
      | .wait _ => .wait
      | .fault t st _ n => if st = 8 then .collision t n else .bad t
      | .bad t _ => .bad t

/-- The node lines over a list of names (R104). -/
def nodeLines (names : List (BitVec 128)) : List (List Byte) :=
  (List.range ((names.length + 7) / 8)).map fun i =>
    (List.range 8).flatMap fun j => leBytes 16 (names.getD (8 * i + j) zeroName).toNat

/-- The levels of a tree over names, `n` at most: the names of one level give up the references that their own interning
made once the level above holds them. -/
def State.internTree (s : State) : Nat → List (BitVec 128) → LinesIn
  | 0, ns => .ok s ns
  | n + 1, ns =>
    if ns.length ≤ 1 then .ok s ns
    else
      match s.internLines 1 (nodeLines ns) [] with
      | .ok t ms => (ns.foldl (fun s x => s.softDrop x) t).internTree n ms
      | x => x

/-- An image interned as a tree (R104, R337): its root is the one name left. -/
def State.internImage (s : State) (image : List Byte) : LinesIn :=
  match s.internLines 0 (chunks 128 (image.length / 128) image) [] with
  | .ok t ns => t.internTree 8 ns
  | x => x

/-- An image entered in the directory (R335, R339): root, version, lines, state 2. -/
def State.enterTrace (s : State) (e : Nat) (root : BitVec 128) (ver lines : Nat) : State :=
  let old := BitVec.ofNat 128 (s.dirField e 16 16)
  let s1 := (((s.setDirField e 16 16 root.toNat).setDirField e 32 4 ver).setDirField e 36 4 lines).setDirField e 44 1 2
  if old = 0 then s1 else s1.softDrop old

/-- The CA collision fault of a line that the module itself interns (R110, R346). -/
def State.collisionRecord (s : State) (n : BitVec 128) : State :=
  { s with policy := s.policy ++ [PolicyRec.trap
      { time := s.time, stream := 4, engine := 11, code := 8, status := 8, mstate := BitVec.ofNat 113 (bits n 0 72)
        addr := BitVec.ofNat 56 (bits n 72 56) }] }

/-- A graph whose trace is still to be interned: recorded, and every task of it done. -/
def Graph.complete (g : Graph) : Bool := decide (g.mode = 1) && decide (g.doneTasks.length = g.tcbs.length)

/-- A graph's recording is finished with: it goes on as one that runs dynamically, or is gone if it was over. -/
def State.endRecording (s : State) (g : Graph) : State :=
  if g.settled then { s with graphs := s.graphs.filter fun x => !(decide (x.id = g.id) && x.settled) }
  else (s.setGraph { g with mode := 0, staged := [], allocs := [], poolWait := none }).setModes g.id 0 0

/-- TRACE_INTERN (R339): the staged records of a graph whose last task has exited. -/
def State.internTrace (s : State) (id : Nat) : State :=
  match s.graphs.find? fun g => decide (g.id = id) && g.complete with
  | none => s
  | some g =>
    let fail (s : State) (st : Nat) : State :=
      let s1 := (s.event "recording discarded" (BitVec.ofNat 64 g.id) 0).endRecording g
      if st = 3 then s1.setDirField g.entry 44 1 3 else s1.dirEmpty g.entry
    if (List.range 1024).any fun c => decide (1024 < (g.semTasks c).length) then fail s 0
    else
      let image := g.recording
      match s.internImage image with
      | .ok t ns => (t.enterTrace g.entry (ns.headD 0) 1 (image.length / 128)).endRecording g
      | .collision t n => fail ((s.collided t).collisionRecord n) 3
      | .bad t => fail (s.collided t) 0
      | .wait =>
        if g.poolWait.isSome then s
        else (s.setGraph { g with poolWait := some s.time }).event "pool wait" (BitVec.ofNat 64 g.id) s.time

def execTraceIntern (graph : BitVec 32) (s : State) : Out := .next (s.internTrace graph.toNat)

/-! ### Fetching a peer's trace (R346) -/

/-- What a walk of a peer's tree has read: the leaf lines in order, and every line with its name. -/
structure FetchedTree where
  leaves : List (List Byte) := []
  lines : List (BitVec 128 × List Byte) := []

/-- CAWALK over the lines that a peer has sent (R121, R346): the first `n` leaf lines below a name, with `left` levels of
nodes above them. Each line must be there, be of its level's kind, and hash to its name. A null name stands for lines of
zeros. -/
def fetchedWalk (lines : List (BitVec 128 × List Byte)) : Nat → Nat → BitVec 128 → Option FetchedTree
  | left, n, name =>
    if name = zeroName then some { leaves := List.replicate n (zeros 128) }
    else
      match lines.find? fun x => decide (x.1 = name) with
      | none => none
      | some x =>
        if contentHash (nameKind name) x.2 ≠ nameHash name ∨ nameKind name ≠ (if left = 0 then 0 else 1) ∨ x.2.length ≠ 128 then none
        else
          match left with
          | 0 => some ⟨[x.2], [x]⟩
          | left + 1 =>
            (nodeChildren x.2).zipIdx.foldl (fun w k =>
              let before := k.2 * 8 ^ left
              if n ≤ before then w
              else
                match w, fetchedWalk lines left (min (8 ^ left) (n - before)) k.1 with
                | some w, some y => some ⟨w.leaves ++ y.leaves, w.lines ++ y.lines⟩
                | _, _ => none) (some ⟨[], [x]⟩)

/-- A name taken from the peer whose ordinal does not stand for the same content here (R110, R346). -/
def State.ordinalConflict (s : State) (lines : List (BitVec 128 × List Byte)) : Option (BitVec 128) :=
  (lines.find? fun x =>
    match s.entryOf x.1 with
    | some e => decide (s.bytes .main e.line 128 ≠ x.2)
    | none => true).map (·.1)

/-- The ordinal-0 name of a name's hash (R110). -/
def zeroOrdinal (n : BitVec 128) : BitVec 128 := mkName (nameHash n) 0 (nameKind n)

/-- A fetch that has failed for another reason than a collision (R346): what was fetched is discarded, and the entry is
empty. -/
def State.dropFetch (s : State) (e : Nat) : State := (s.event "trace fetch discarded" 0 0).dirEmpty e

/-- A fetched trace interned and entered under rank 0's version (R346): `entry` is rank 0's directory entry of the shape, and
`lines` what the peer has sent of the tree below its root. -/
def State.enterFetched (s : State) (shape : BitVec 128) (entry : List Byte) (lines : List (BitVec 128 × List Byte)) : State :=
  match s.dirFind shape with
  | none => s
  | some e =>
    let ver := leAt entry 32 4
    let l := leAt entry 36 4
    if leAt entry 0 16 ≠ shape.toNat ∨ leAt entry 44 1 ≠ 2 ∨ s.dirField e 44 1 = 3 ∨ (s.dirField e 44 1 = 2 ∧ ver ≤ s.dirField e 32 4) then s
    else
      let s0 := { s with fetches := s.fetches.filter fun f => decide (f.1 ≠ shape) }
      match fetchedWalk lines (treeDepth l) l (BitVec.ofNat 128 (leAt entry 16 16)) with
      | none => s0.dropFetch e
      | some w =>
        match s0.internImage w.leaves.flatten with
        | .wait =>
          if s.fetches.any fun f => decide (f.1 = shape) then s
          else { s with fetches := s0.fetches ++ [(shape, entry, lines, s.time)] }.event "pool wait" (BitVec.ofNat 64 (bits shape 64 64)) s.time
        | .ok t ns =>
          match t.ordinalConflict w.lines with
          | some n => ((s0.collided t).collisionRecord (zeroOrdinal n)).setDirField e 44 1 3
          | none => t.enterTrace e (ns.headD 0) ver l
        | .collision t n => ((s0.collided t).collisionRecord n).setDirField e 44 1 3
        | .bad t => (s0.collided t).dropFetch e

/-- GANG_TRACE_FETCH (R346): rank 0's directory entry of a shape, and the lines that reading its tree from the peer has
brought, have arrived at a member. -/
def execGangTraceFetch (shape : BitVec 128) (entry : List Byte) (lines : List (BitVec 128 × List Byte)) (s : State) : Out :=
  .next (if s.host.rank = 0 ∨ s.host.updating = true then s else s.enterFetched shape entry lines)

/-- INTERN_POOL_WAIT_TIMEOUT (R339, R346): no pool line has freed within two heartbeat periods. Graph 0 stands for the
fetched traces. -/
def execInternPoolWaitTimeout (graph : BitVec 32) (s : State) : Out :=
  let late (t : BitVec 64) : Bool := decide (t.toNat + s.twoBeats 0 ≤ s.time.toNat)
  .next (match s.graphs.find? fun g => decide (g.id = graph.toNat) && g.complete && g.poolWait.any late with
    | some g => ((s.event "recording discarded" (BitVec.ofNat 64 g.id) 0).endRecording g).dirEmpty g.entry
    | none =>
      if graph ≠ 0 then s
      else
        let out := s.fetches.filter fun f => late f.2.2.2
        let s1 := { s with fetches := s.fetches.filter fun f => !late f.2.2.2 }
        out.foldl (fun s f =>
          match s.dirFind f.1 with
          | some e => s.dropFetch e
          | none => s.event "trace fetch discarded" 0 0) s1)

/-! ### Replay (R340 to R342) -/

/-- The end of a replay by a guard failure is notified for a task of a graph (R343). -/
def State.failReplay (s : State) (g : Graph) (tix : Nat) : State :=
  { s with notices := s.notices ++ [(g.shape, g.ver, tix, 0x3FF, true)] }

/-- Every line of a tree hashes to its name (R340). `left` levels stand above the leaves. -/
def State.hashesOk (s : State) : Nat → BitVec 128 → Bool
  | left, n =>
    if n = zeroName then true
    else
      match s.entryOf n with
      | none => false
      | some e =>
        let d := s.bytes .main e.line 128
        decide (contentHash (nameKind n) d = nameHash n) &&
          match left with
          | 0 => true
          | left + 1 => (nodeChildren d).all fun k => s.hashesOk left k

/-- A waiting POOLRST keeps replays from starting (R374). -/
def State.fetchTrace (s : State) (g : Graph) : State :=
  let root := BitVec.ofNat 128 (s.dirField g.entry 16 16)
  let l := s.dirField g.entry 36 4
  match s.leaves 0 0 0 l root with
  | .error _ => s.failReplay g 0
  | .ok ls => if s.hashesOk (treeDepth l) root then s.setGraph { g with image := ls.flatMap (·.1) } else s.failReplay g 0

/-- REPLAY_TRACE_FETCH (R340). -/
def execReplayTraceFetch (graph : BitVec 32) (s : State) : Out :=
  .next (match s.graph graph.toNat with
    | none => s
    | some g => if g.mode ≠ 2 ∨ g.image ≠ [] ∨ s.host.poolrst = true then s else s.fetchTrace g)

/-- The slots a trace names, and its windows: base and bytes. -/
def imageSlots (image : List Byte) : List (Nat × Nat) :=
  ((List.range (leAt image 24 4)).map fun t => (leAt (imageTask image t) 8 2, leAt (imageTask image t) 10 1)).eraseDups
def imageTable (image : List Byte) : List (List Byte) :=
  (List.range (leAt image 48 4)).map fun i => slice image (leAt image 36 4 * 128 + 16 * i) 16

/-- What an allocation entry of a trace stands for in the live map, for a core: kind, number, size. -/
def entryUnit (e : List Byte) : Nat × Nat × Nat :=
  match leAt e 4 1 with
  | 0 => (0, leAt e 8 8, 4096 * 2 ^ leAt e 5 1)
  | 1 => (1, leAt e 5 1, 1)
  | 2 => (2, leAt e 5 1, 1)
  | _ => (3, leAt e 8 8, leAt e 6 2)

/-- A unit of a trace reserved for one of its tasks (R324). -/
def Graph.reservation (g : Graph) (tix : Nat) (u : Nat × Nat × Nat) : Alloc :=
  ⟨u.1, leAt (imageTask g.image tix) 8 2, u.2.1, u.2.2, 0, g.tasks.getD tix 0, BitVec.ofNat 32 g.id, g.tcbs.getD tix 0⟩

/-- The reservations of a trace (R324, R340): the slot of every task, and every unit of the allocation table for its
task. -/
def Graph.reservations (g : Graph) : List Alloc :=
  (List.range (leAt g.image 24 4)).map (fun t => g.reservation t (4, leAt (imageTask g.image t) 10 1, 1)) ++
  (imageTable g.image).map fun e => g.reservation (leAt e 0 4) (entryUnit e)

/-- A unit of a reservation is free in the live map (R340). -/
def State.unitFree (s : State) (a : Alloc) : Bool :=
  match a.kind with
  | 0 => !s.windowHeld a.num a.size []
  | 4 => !(s.slot (a.core * 8 + a.num)).busy && !s.slotReserved a.core a.num 0 && !(s.core a.core).halted &&
      !s.drains.any fun d => decide (d.1 = a.core * 8 + a.num)
  | k => !s.allocs.any fun x => decide (x.kind = k) && decide (x.core = a.core) && overlap a.num a.size x.num x.size

/-- A replay whose slots and windows are all free is reserved whole (R340). -/
def State.reserve (s : State) (g : Graph) : Option State :=
  if g.mode ≠ 2 ∨ g.reserved = true ∨ g.image = [] ∨ s.host.poolrst = true then none
  else if (g.reservations.all s.unitFree) = false then none
  else
    some ({ s with allocs := s.allocs ++ g.reservations }.setGraph { g with reserved := true }
      |>.setDirField g.entry 48 8 s.time.toNat)

/-- The next record of a stream moved on by `n`. -/
def Graph.advance (g : Graph) (core stream n : Nat) : Graph :=
  { g with cursor := Kv.put g.cursor (core * 8 + stream) (g.cursorOf core stream + n) }

/-- The recorded grants of a task (R340), with windows at the valid requests; the windows themselves are reserved for it
already. -/
def Graph.recordedGrants (g : Graph) (tix : Nat) (t : List Byte) : Grants :=
  let es := imageAllocs g.image tix
  let wins := es.filter fun e => decide (leAt e 4 1 = 0)
  let th := es.find? fun e => decide (leAt e 4 1 = 3)
  let as : List Alloc := wins.map fun e => ⟨0, 0, leAt e 8 8, 4096 * 2 ^ leAt e 5 1, 0, 0, 0, 0⟩
  { wins := recordedWins ((List.range 4).map fun i => leAt t (72 + 8 * i) 8) as
    ranges := []
    tiles := (es.filter fun e => decide (leAt e 4 1 = 1)).map (leAt · 5 1)
    accs := (es.filter fun e => decide (leAt e 4 1 = 2)).map (leAt · 5 1)
    thunk := th.elim 0 (leAt · 8 8), nthunk := th.elim 0 (leAt · 6 2) }

/-- Task `tix` of a replayed graph starts on its recorded core and slot (R300, R340); none while it waits, or while its
region or one above it is halted (R353). -/
def State.startReplayed (s : State) (g : Graph) (core tix : Nat) : State × Bool :=
  let e := imageTask g.image tix
  let i := leAt e 10 1
  let tcb := g.tcbs.getD tix 0
  let src : Source := { waiter := .replay core, core := core, slot := 0, engine := 4 }
  if (s.slot (core * 8 + i)).busy || (s.core core).halted then (s, false)
  else
    match s.blockAt src g.troot tcb.toNat true with
    | (s, .hold) => (s, false)
    | (s, .fault _ _) => (s.failReplay g tix, false)
    | (s, .bad _) => (s.failReplay g tix, false)
    | (s, .ok m) =>
      let t := s.block m
      match s.region src g.troot (leAt t 176 8) with
      | (s, .hold) => (s, false)
      | (s, .malformed) => (s.failReplay g tix, false)
      | (s, .bad _) => (s.failReplay g tix, false)
      | (s, .ok r) =>
        let p := max (leAt t 12 1 % 16) r.ceiling
        let rec' : ReadyRec :=
          { id := s.nextRec, octant := octantOf core, tcb := tcb, task := BitVec.ofNat 32 (leAt t 0 4), graph := BitVec.ofNat 32 g.id
            prio := p, prio0 := p, ring := false, byDec := false, tsize := max 1 (leAt t 220 1), ready := s.time, rose := s.time
            place := BitVec.ofNat 64 (leAt t 104 8), home := .core core, spawner := leAt t 232 2 % 1024, xroot := g.troot, walked := true
            ceiling := r.ceiling, regions := r.budgets.map (·.1), tokens := leAt t 12 1 / 16, replay := true }
        if s.blockedRec rec' then (s, false)
        else ({ s with nextRec := s.nextRec + 1 }.launchInto rec' m t r core i (g.recordedGrants tix t), true)

/-- A core's task control stream runs on, at most `n` records, until a task has started or something is waited for. -/
def State.control (s : State) (id core : Nat) : Nat → State × Bool
  | 0 => (s, false)
  | n + 1 =>
    match s.graph id with
    | none => (s, false)
    | some g =>
      let next (g : Graph) : State := s.setGraph (g.advance core 0 1)
      match ((imageRecs g.image core 0).drop (g.cursorOf core 0)).head? with
      | none => (s, false)
      | some r =>
        match leAt r 0 1 % 16 with
        | 3 =>
          let key := core * 1024 + leAt r 4 2
          let c := leAt r 6 2
          if Kv.get 0 g.sems key < c then (s, false)
          else (next { g with sems := Kv.put g.sems key (Kv.get 0 g.sems key - c) }).control id core n
        | 6 =>
          match s.startReplayed g core (leAt r 4 4) with
          | (t, true) =>
            match t.graph id with
            | some g => (t.setGraph (g.advance core 0 1), true)
            | none => (t, true)
          | x => x
        | 7 => if g.ended.contains (leAt r 4 4) then (next g).control id core n else (s, false)
        | 1 => (s, false)
        | 2 => (s, false)
        | _ => (next g).control id core n

/-- A replay that runs on a core: reserved, and its end has not been found there. A stop notice reaches the other cores
when STOP_NOTICE comes (R343). -/
def State.replaying (s : State) (g : Graph) (core : Nat) : Bool :=
  decide (g.mode = 2) && g.reserved && !s.notices.any fun n =>
    decide (n.1 = g.shape) && decide (n.2.1 = g.ver) && decide (leAt (imageTask g.image n.2.2.1) 8 2 = core)

/-- REPLAY_TASK_START (R340): the first replay that can start a task on the core does. -/
def State.replayStart (s : State) (core : Nat) : List Graph → State
  | [] => s
  | g :: rest =>
    if !s.replaying g core then s.replayStart core rest
    else
      match s.control g.id core 4096 with
      | (t, true) => t
      | (t, false) => t.replayStart core rest

def execReplayTaskStart (core : Nat) (s : State) : Out := .next (s.replayStart core s.graphs)

/-- SEMAPHORE_POST (R340): a post on its way reaches its core's counter. -/
def execSemaphorePost (core sem : Nat) (s : State) : Out :=
  .next (match s.graphs.find? fun g => decide (g.mode = 2) && g.posts.contains (core, sem) with
    | none => s
    | some g =>
      let key := core * 1024 + sem
      s.setGraph { g with posts := g.posts.erase (core, sem), sems := Kv.put g.sems key (Kv.get 0 g.sems key + 1) })

/-- Commands that the absolute predecessor numbers of a record name (R338, R340). -/
def State.recordPreds (s : State) (sk : Nat) (r : List Byte) : List Nat :=
  (List.range 3).flatMap fun i =>
    if leAt r 2 1 / 16 / 2 ^ i % 2 = 0 then []
    else ((s.inFlight sk).filter fun c => decide (c.num.toNat = leAt r (20 + 2 * i) 2)).map (·.uid)

/-- A command injected ahead of its stream (R340, R345): what its record holds of it. -/
def State.injectAhead (s : State) (sk : Nat) (r : List Byte) (payload : List Byte) : State :=
  let c : Cmd :=
    { uid := s.nextUid, seqk := sk * 4 + 1, num := BitVec.ofNat 16 (leAt r 12 2), ins := recIns r, ext := decodeExt (leAt r 8 4), pc := 0
      vd := 0, v1 := BitVec.ofNat 64 (leAt r 40 8), v2 := BitVec.ofNat 64 (leAt r 48 8), v3 := BitVec.ofNat 64 (leAt r 56 8), rd := 0
      preds := s.recordPreds sk r, entries := [], seed := BitVec.ofNat 64 (leAt payload 0 8), inj := 3 }
  { s with cmds := s.cmds ++ [c], nextUid := s.nextUid + 1 }.ovEnter c.uid c.seqk c.num (8 + c.ext.q.toNat) c.preds [] true

/-- The demand of a slot that a sub-command's record belongs to (R341): one by the recorded number that has not had it. -/
def State.demandFor (s : State) (sk : Nat) (r : List Byte) : Option Demand :=
  (s.slot sk).demands.find? fun d => decide (d.seq.toNat = leAt r 12 2) && !d.done.contains (leAt r 14 2) &&
    !s.cmds.any fun c => decide (slotKey c.seqk = sk) && c.sub.any fun (x : Sub) => decide (x.by' = d.by') && decide (x.ord = leAt r 14 2)

/-- A recorded sub-command is injected, once what forces it has issued and the forcer has taken its demand up (R23, R340,
R341). -/
def State.injectSub (s : State) (sk : Nat) (r payload : List Byte) : Option State :=
  (s.demandFor sk r).map fun d =>
    { s with cmds := s.cmds ++ [s.subOf sk d r payload], nextUid := s.nextUid + 1 }.ovSub sk s.nextUid d.by' d.seq

/-- COMMAND_INJECTION in one graph: the next command record of a stream is injected, if its task has started, and once the
semaphore waits before it are satisfied (R340). -/
def State.inject (s : State) (g : Graph) (core stream : Nat) : Option State :=
  let rs := (imageRecs g.image core stream).drop (g.cursorOf core stream)
  match rs with
  | [] => none
  | r :: rest =>
    let k := 1 + (rest.takeWhile fun x => decide (leAt x 0 1 % 16 = 2)).length
    let tix := leAt r 16 4
    let sk := core * 8 + leAt r 1 1
    let g1 := g.advance core stream k
    if stream = 0 ∧ leAt r 0 1 % 16 ≠ 1 then none
    else if leAt r 0 1 % 16 = 3 then
      let key := core * 1024 + leAt r 4 2
      if Kv.get 0 g.sems key < leAt r 6 2 then none
      else some (s.setGraph { g1 with sems := Kv.put g.sems key (Kv.get 0 g.sems key - leAt r 6 2) })
    else if leAt r 0 1 % 16 ≠ 1 then some (s.setGraph g1)
    else if !g.started.contains tix then none
    else if leAt r 2 1 % 4 ≠ 1 && s.queueFull core (recIns r) (if leAt r 2 1 / 2 % 2 = 1 then 3 else (decodeExt (leAt r 8 4)).q.toNat) then none
    else if leAt r 2 1 / 2 % 2 = 1 then
      if (s.slot sk).busy && decide ((s.slot sk).tix = tix) then (s.setGraph g1).injectSub sk r (payloadAfter rest) else none
    else if leAt r 2 1 % 2 = 0 then some ((s.setGraph g1).injectAhead sk r (payloadAfter rest))
    else
      let mine := s.cmds.find? fun c => decide (slotKey c.seqk = sk) && decide (c.inj = 1) && decide (c.num.toNat = leAt r 12 2)
      match mine with
      | some c => some ((s.setGraph g1).setCmd { c with inj := 2 })
      | none => some (s.setGraph { g1 with ahead := g1.ahead ++ [(core, tix, leAt r 12 2)] })

/-- COMMAND_INJECTION (R340). -/
def State.injectFirst (s : State) (core stream : Nat) : List Graph → Option State
  | [] => none
  | g :: rest =>
    if !s.replaying g core then s.injectFirst core stream rest
    else
      match s.inject g core stream with
      | some t => some t
      | none => s.injectFirst core stream rest

def execCommandInjection (core stream : Nat) (s : State) : Out := .next ((s.injectFirst core stream s.graphs).getD s)

/-! ### Handover (R343) -/

/-- A task of a handed-over graph has ended and its decrements are held until the rebuild is over (R343): it counts among
its successors' predecessors until it has made them. -/
def State.decsHeld (s : State) (g : Graph) (tix : Nat) : Bool :=
  s.slots.any fun c => c.2.busy && decide (c.2.graph = g.id) && decide (c.2.tix = tix) && decide (c.2.mode = 3) && c.2.decs.isSome

/-- One task of a graph released, or rebuilt after a handover (R343, R377), and whether it was. One that cannot be read, or
whose ring cannot be reached, is faulted as at any release (R297, R328, R420). -/
def State.releaseOne (s : State) (g : Graph) (tix : Nat) : State × Bool :=
  let src : Source := { waiter := .graph g.id, core := g.id % 8 * 128, slot := 0, engine := 3 }
  let tcb := g.tcbs.getD tix 0
  let left (s : State) : State := s.setGraph { g with toRelease := g.toRelease.erase tix }
  let refuse (s : State) (code status : Nat) (bad : Option BadLine) : State × Bool :=
    let r : ReadyRec := { s.newRec [] tcb g.troot 0 (g.id % 8 * 128 + 1) false with
      id := 0, task := g.tasks.getD tix 0, graph := BitVec.ofNat 32 g.id }
    ((left s).refuseRec r code 9 status 0 bad, true)
  match s.blockAt src g.troot tcb.toNat true with
  | (t, .hold) => (s.asked t, false)
  | (s, .fault _ _) => refuse s 6 7 none
  | (s, .bad b) => refuse s 7 0 (some b)
  | (s, .ok m) =>
    let n := if g.mode = 3 then ((g.predsOf tix).filter fun p => !g.ended.contains p || s.decsHeld g p).length
      else leAt (s.block m) 8 4
    let arm (s : State) : State := if g.mode = 3 then (s.blockSet m 8 4 n).blockSet m 200 4 1 else s
    if n ≠ 0 then (arm (left s), true)
    else
      match s.releaseTask src [m] tcb g.troot (BitVec.ofNat 64 (leAt (s.block m) 104 8)) (leAt (s.block m) 232 2 % 1024) false
        (fun s => arm (left s)) with
      | .done t => (t, true)
      | .full t => (s.asked t, false)
      | .hold t => (s.asked t, false)
      | .unmapped t _ => refuse t 14 0 none
      | .refused t _ _ _ => (s.asked t, false)

/-- The tasks of every graph that wait to be released are, as far as they can be: one that waits holds up none of the others
(R420). -/
def State.pumpReleases (s : State) : State :=
  (s.graphs.flatMap fun g => if g.settled then [] else g.toRelease.map fun t => (g.id, t)).foldl (fun s p =>
    match s.graph p.1 with
    | some g => (s.releaseOne g p.2).1
    | none => s) s

/-- The replay of a graph ends at a guard (R343): modes, commands, and the rest of the graph rebuilt. What is reserved for its
unstarted tasks stays reserved. -/
def State.handOver (s : State) (g : Graph) (gid : Nat) : State :=
  let rest := (List.range g.tcbs.length).filter fun t => !g.started.contains t
  let s1 := s.slots.foldl (fun s c => if c.2.busy && decide (c.2.graph = g.id) then s.leaveReplay g gid c.1 else s) s
  let s2 := (s1.setModes g.id 3 gid).setGraph { g with mode := 3, gid := gid, ahead := [], posts := [], toRelease := rest }
  s2.pumpReleases

/-- A replay that a guard ended raises the directory's failure count; after four the entry is empty (R335, R343). -/
def State.countFail (s : State) (e : Nat) : State :=
  let n := s.dirField e 40 4 + 1
  if 4 ≤ n then s.dirEmpty e else s.setDirField e 40 4 n

/-- STOP_NOTICE (R343): every replay of the shape and version ends. A notice of another module counts as a guard's when
it names one; under guard ID 0x3FF it may be an implicit guard's, a fault's or a pre-emption's, and which is a choice
(DESIGN CHOICE, log 61). A notice made here goes on to the gang; where its packet holds version, task and guard is a choice
(DESIGN CHOICE, log 91). -/
def State.stopNotice (s : State) (shape : BitVec 128) (ver : BitVec 32) (tix gid : Nat) : State :=
  let own := s.notices.find? fun n => decide (n.1 = shape) && decide (n.2.1 = ver) && decide (n.2.2.1 = tix) && decide (n.2.2.2.1 = gid)
  let count := match own with
    | some n => n.2.2.2.2
    | none => decide (gid ≠ 0x3FF) || (s.choices.headD 0).testBit 0
  let s1 := { s with choices := if own.isSome ∨ gid ≠ 0x3FF then s.choices else s.choices.drop 1, notices := match own with
    | some n => s.notices.erase n
    | none => s.notices }
  let gs := s1.graphs.filter fun g => decide (g.mode = 2) && decide (g.shape = shape) && decide (g.ver = ver)
  match gs with
  | [] => s1
  | g0 :: _ =>
    let s2 := gs.foldl (fun s g => s.handOver g gid) s1
    let s3 := if own.isSome then
        { s2 with fabricOut := s2.fabricOut ++ s2.peers.map fun r =>
            { typ := 6, cls := 0, src := s2.host.rank, dst := r, pa := 0, shape := shape
              data := flitLines (originTag 0 0) (leBytes 4 ver.toNat ++ leBytes 4 tix ++ leBytes 2 gid) } }
      else s2
    if count then s3.countFail g0.entry else s3

/-- STOP_NOTICE (R343): the packet cores take it in and send it on (R384), so it waits while a new image is started
(R386). -/
def execStopNotice (shape : BitVec 128) (ver : BitVec 32) (task : Nat) (gid : BitVec 10) (s : State) : Out :=
  .next (if s.host.updating then s else s.stopNotice shape ver task gid.toNat)

/-! ### Refinement (R345) -/

/-- A record with the payload records that follow it. -/
def groupRecs : List (List Byte) → List (List (List Byte))
  | [] => []
  | r :: rs =>
    match groupRecs rs with
    | (p :: ps) :: gs => if leAt p 0 1 % 16 = 2 then (r :: p :: ps) :: gs else [r] :: (p :: ps) :: gs
    | gs => [r] :: gs

/-- The first record of a group, and its task. -/
def headRec (g : List (List Byte)) : List Byte := g.headD []
def groupTask (g : List (List Byte)) : Nat :=
  match leAt (headRec g) 0 1 % 16 with
  | 1 => leAt (headRec g) 16 4
  | 5 => leAt (headRec g) 12 4
  | _ => leAt (headRec g) 4 4

/-- A task's note of a command in a stream; of a stream that the number does not come in, none. -/
def Graph.note (g : Graph) (tix stream num : Nat) : Option ReplayNote :=
  g.notes.find? fun n => decide (n.tix = tix) && decide (n.stream = stream) && decide (n.num = num) && n.ord.isNone

/-- Two records are of commands of one task and number; of sub-commands, with one ordinal. -/
def sameCommand (a b : List Byte) : Bool :=
  decide (leAt b 0 1 % 16 = 1) && decide (leAt a 2 1 / 2 % 2 = leAt b 2 1 / 2 % 2) && decide (leAt a 12 8 = leAt b 12 8)

/-- The note of a command's or a sub-command's record. -/
def ReplayNote.isOf (n : ReplayNote) (stream : Nat) (r : List Byte) : Bool :=
  decide (n.tix = leAt r 16 4) && decide (n.stream = stream) && decide (n.num = leAt r 12 2) &&
    decide (n.ord = if leAt r 2 1 / 2 % 2 = 1 then some (leAt r 14 2) else none)

/-- The records of a stream with the stall counts of the last replay (R345, R406): of records that share a number, each
has its own note, in order. -/
def Graph.withStalls (g : Graph) (stream : Nat) (rs : List (List Byte)) : List (List Byte) :=
  rs.zipIdx.map fun r =>
    if leAt r.1 0 1 % 16 ≠ 1 then r.1
    else
      match (g.notes.filter (·.isOf stream r.1))[((rs.take r.2).filter (sameCommand r.1)).length]? with
      | some n => stallRec n.cycles n.cause r.1
      | none => r.1

/-- A complete replay as a recording again: its records without semaphores, with the stall counts of the replay. -/
def Graph.reopen (g : Graph) : Graph :=
  let keep (r : List Byte) : Bool := decide (leAt r 0 1 % 16 ≠ 3) && decide (leAt r 0 1 % 16 ≠ 4)
  { g with
    staged := (imageStreams g.image).foldl (fun l x =>
      Kv.put l (x.1 * 8 + x.2) (g.withStalls x.2 ((imageRecs g.image x.1 x.2).filter keep))) []
    allocs := (List.range g.tcbs.length).map fun t => (t, imageAllocs g.image t)
    places := (List.range g.tcbs.length).map fun t =>
      (t, leAt (imageTask g.image t) 8 2 * 8 + leAt (imageTask g.image t) 10 1) }

/-- The command of a note waited at least 64 cycles for a predecessor or an empty queue. -/
def ReplayNote.starved (n : ReplayNote) : Bool := decide (64 ≤ n.cycles) && (decide (n.cause = 1) || decide (n.cause = 5))

/-- Commands of a task that name a sequence number as a predecessor: stream and number. -/
def Graph.followers (g : Graph) (tix num : Nat) : List (Nat × Nat) :=
  g.staged.flatMap fun x => x.2.filterMap fun r =>
    if leAt r 0 1 % 16 = 1 ∧ leAt r 16 4 = tix ∧
        ((List.range 3).any fun i => decide (leAt r 2 1 / 16 / 2 ^ i % 2 = 1) && decide (leAt r (20 + 2 * i) 2 = num)) = true then
      some (x.1 % 8, leAt r 12 2)
    else none

/-- A command of a copy stream is hoisted (R345). -/
def Graph.hoists (g : Graph) (r : List Byte) : Bool :=
  let tix := leAt r 16 4
  let num := leAt r 12 2
  let m := cpMember (recIns r)
  let wins := ((Kv.get [] g.allocs tix).filter fun e => decide (leAt e 4 1 = 0)).map fun e => (leAt e 8 8, 4096 * 2 ^ leAt e 5 1)
  decide (leAt r 0 1 % 16 = 1) && decide (leAt r 2 1 % 8 = 5) && decide (leAt r 2 1 / 16 % 8 = 0) && isCopy (recIns r) &&
  decide (1 ≤ m.1) && (decide (m.1 ≤ 3) || decide (m.1 = 6)) && (decide (m.1 = 6) || !m.2.2) && m.2.1 &&
  match g.note tix 1 num with
  | none => false
  | some n =>
    (n.starved || (g.followers tix num).any fun u => (g.note tix u.1 u.2).any ReplayNote.starved) &&
    n.dest.all (fun d => wins.any fun w => decide (w.1 ≤ d.1) && decide (d.1 + d.2 ≤ w.1 + w.2)) &&
    g.notes.all fun x => x.writes.all fun w => n.reads.all fun a => !overlap w.1 w.2 a.1 a.2

/-- A task's end stands before another's start in a core's task control stream. -/
def endsBefore (control : List (List Byte)) (a b : Nat) : Bool :=
  (control.takeWhile fun r => !(decide (leAt r 0 1 % 16 = 6) && decide (leAt r 4 4 = b))).any fun r =>
    decide (leAt r 0 1 % 16 = 7) && decide (leAt r 4 4 = a)

/-- A group put in a list before its tail of groups that it may pass. -/
def insertAfter (x : List (List Byte)) (stays : List (List Byte) → Bool) (l : List (List (List Byte))) : List (List (List Byte)) :=
  let tail := (l.reverse.takeWhile fun y => !stays y).reverse
  l.take (l.length - tail.length) ++ [x] ++ tail

/-- The copy stream of a core with its hoisted commands moved forward: past no record of their queue, and past none of a
task that ended before their task started. -/
def Graph.hoistCore (g : Graph) (core : Nat) : Graph :=
  let gs := groupRecs (Kv.get [] g.staged (core * 8 + 1))
  let out := gs.foldl (fun l x =>
    let r := headRec x
    if g.hoists r then
      insertAfter (patch r 2 [BitVec.ofNat 8 (leAt r 2 1 - 1)] :: x.drop 1)
        (fun y => decide (leAt (headRec y) 8 4 / 16 % 8 = leAt r 8 4 / 16 % 8) || endsBefore (g.control core) (groupTask y) (groupTask x)) l
    else l ++ [x]) []
  if gs.isEmpty then g else { g with staged := Kv.put g.staged (core * 8 + 1) out.flatten }

/-- The span of a task, and two spans that meet. -/
def Graph.spanOf (g : Graph) (t : Nat) : Nat × Nat := ((g.spans.find? fun x => x.1 == t).map (·.2)).getD (0, 0)
def spansMeet (a b : Nat × Nat) : Bool := decide (a.1 ≤ b.2) && decide (b.1 ≤ a.2)

/-- Allocation entries of tasks on a core, or with windows anywhere, whose spans meet that of a task. -/
def Graph.during (g : Graph) (t : Nat) : List (Nat × List Byte) :=
  (List.range g.tcbs.length).flatMap fun u =>
    if u = t ∨ spansMeet (g.spanOf u) (g.spanOf t) = false then []
    else (Kv.get [] g.allocs u).map fun e => (g.coreAt u, e)

/-- An allocation entry of a task moved to a core: a unit that the trace leaves unused over the task's span; `got` are the
entries already moved. -/
def State.moveEntry (s : State) (g : Graph) (t core : Nat) (got : List (List Byte)) (e : List Byte) : Option (List Byte) :=
  let held := g.during t ++ got.map fun x => (core, x)
  match leAt e 4 1 with
  | 0 =>
    let size := 4096 * 2 ^ leAt e 5 1
    let wins := held.filterMap fun x => if leAt x.2 4 1 = 0 then some (leAt x.2 8 8, 4096 * 2 ^ leAt x.2 5 1) else none
    (((List.range (Config.sliceBytes / size)).map fun i => core * 2 ^ 23 + i * size).find? fun b =>
      !(wins.any fun w => overlap b size w.1 w.2) && !s.firmwareWindow core b size).map fun b => patch e 8 (leBytes 8 b)
  | 3 =>
    let n := leAt e 6 2
    ((List.range (257 - n)).find? fun f => !held.any fun x =>
      decide (leAt x.2 4 1 = 3) && decide (x.1 = core) && overlap f n (leAt x.2 8 8) (leAt x.2 6 2)).map fun f => patch e 8 (leBytes 8 f)
  | k =>
    ((List.range (if k = 1 then 8 else 4)).find? fun i => !held.any fun x =>
      decide (leAt x.2 4 1 = k) && decide (x.1 = core) && decide (leAt x.2 5 1 = i)).map fun i => patch e 5 [BitVec.ofNat 8 i]

/-- The entries of a task on another core, if all can be had. -/
def State.moveEntries (s : State) (g : Graph) (t core : Nat) : List (List Byte) → List (List Byte) → Option (List (List Byte))
  | [], got => some got
  | e :: es, got =>
    match s.moveEntry g t core got e with
    | none => none
    | some x => s.moveEntries g t core es (got ++ [x])

/-- The groups of a task taken out of a stream, and put into another core's in the order of the last replay. -/
def Graph.moveStream (g : Graph) (t a b slot st : Nat) : Graph :=
  let from' := groupRecs (Kv.get [] g.staged (a * 8 + st))
  let dst := groupRecs (Kv.get [] g.staged (b * 8 + st))
  let mine := (from'.filter fun x => decide (groupTask x = t)).map fun x =>
    x.map fun r => if leAt r 0 1 % 16 = 1 then patch r 1 [BitVec.ofNat 8 slot] else r
  let late (time : Nat) (x : List (List Byte)) : Bool :=
    let u := g.spanOf (groupTask x)
    if st = 0 then
      match leAt (headRec x) 0 1 % 16 with
      | 6 => decide (time < u.1)
      | 7 => decide (time < u.2)
      | _ => false
    else decide (time < u.1)
  let put (l : List (List (List Byte))) (xs : List (List (List Byte))) (time : Nat) : List (List (List Byte)) :=
    l.takeWhile (fun x => !late time x) ++ xs ++ l.dropWhile (fun x => !late time x)
  let isEnd (x : List (List Byte)) : Bool := decide (leAt (headRec x) 0 1 % 16 = 7)
  let to1 := if st = 0 then put (put dst (mine.filter isEnd) (g.spanOf t).2) (mine.filter fun x => !isEnd x) (g.spanOf t).1
    else put dst mine (g.spanOf t).1
  { g with staged := Kv.put (Kv.put g.staged (a * 8 + st) (from'.filter fun x => decide (groupTask x ≠ t)).flatten) (b * 8 + st) to1.flatten }

/-- A task slot of a core that the trace leaves unused over a task's span. -/
def Graph.slotUnused (g : Graph) (t core : Nat) : Option Nat :=
  (List.range 4).find? fun i => (decide (i ≠ 3) || decide (core % 128 ≠ 0)) &&
    (List.range g.tcbs.length).all fun u => decide (u = t) || decide (Kv.get 0 g.places u ≠ core * 8 + i) || !spansMeet (g.spanOf u) (g.spanOf t)

/-- A task moved to the first core of its cluster that has room for it (R345); its flag [0] is set. -/
def State.moveTask (s : State) (g : Graph) (t : Nat) : Graph × Bool :=
  let a := g.coreAt t
  let span := g.spanOf t
  let waited := ((g.notes.filter fun n => decide (n.tix = t) && decide (n.cause = 8)).map (·.cycles)).foldl (· + ·) 0
  if !g.movable.contains t || decide (4 * waited < span.2 - span.1) || decide (waited = 0) then (g, false)
  else
    let found := ((clusterCores (octantOf a) (clusterOf a)).filter (· ≠ a)).findSome? fun b =>
      match g.slotUnused t b, s.moveEntries g t b (Kv.get [] g.allocs t) [] with
      | some i, some es => some (b, i, es)
      | _, _ => none
    match found with
    | none => (g, false)
    | some x =>
      let g1 := [0, 1, 2, 3, 4, 5].foldl (fun g st => g.moveStream t a x.1 x.2.1 st) g
      ({ g1 with places := Kv.put g1.places t (x.1 * 8 + x.2.1), allocs := Kv.put g1.allocs t x.2.2 }, true)

/-- The refined form of a replay: hoisted copies, then moved tasks; the image of the next version. -/
def State.refined (s : State) (g0 : Graph) : List Byte × Bool :=
  let g := g0.reopen
  let g1 := ((g.places.map (·.2 / 8)).eraseDups).foldl (fun g c => g.hoistCore c) g
  let r := (List.range g.tcbs.length).foldl (fun (x : Graph × List Nat) t =>
    let m := s.moveTask x.1 t
    (m.1, if m.2 then x.2 ++ [t] else x.2)) (g1, [])
  let old := (List.range g.tcbs.length).filter fun t => decide (leAt (imageTask g0.image t) 11 1 % 2 = 1)
  let h := r.1
  (traceImage (g0.ver.toNat + 1) g0.shape h.tcbs h.places (old ++ r.2) h.allocs (fun t => (h.predsOf t).length) h.streams
    (g0.finish - g0.began.getD 0), decide (h.staged ≠ g.staged))

/-- REFINER (R345): between replays, a new version from the last complete one, if it has anything to change. -/
def State.refine (s : State) (shape : BitVec 128) : State :=
  match s.dirFind shape, s.replays.find? fun g => decide (g.shape = shape) with
  | some e, some g =>
    if s.host.rank ≠ 0 ∨ s.dirField e 44 1 ≠ 2 ∨ s.dirField e 32 4 ≠ g.ver.toNat ∨
        s.graphs.any (fun x => decide (x.mode = 2) && decide (x.entry = e)) = true then s
    else
      let x := s.refined g
      if !x.2 then s
      else
        match s.internImage x.1 with
        | .ok t ns => t.enterTrace e (ns.headD 0) (g.ver.toNat + 1) (x.1.length / 128)
        | .collision t n => (s.collided t).collisionRecord n
        | .bad t => s.collided t
        | .wait => s
  | _, _ => s

def execRefiner (shape : BitVec 128) (s : State) : Out := .next (s.refine shape)

/-- TRACE_FETCH (R346, R381): a member of the gang asks for rank 0's entry of a shape, and is sent its line, verified at
egress (R95). -/
def execTraceFetch (src : BitVec 8) (shape : BitVec 128) (s : State) : Out :=
  .next (match s.dirFind shape with
    | none => s
    | some e =>
      let a := s.dirAt e / 128 * 128
      if s.dirField e 44 1 ≠ 2 ∨ s.host.updating = true then s
      else
        match s.egress a with
        | none => s.event "egress verification" (zx src) (BitVec.ofNat 64 a)
        | some l =>
          { s with fabricOut := s.fabricOut ++
            [{ typ := 3, cls := 3, src := s.host.rank, dst := src.toNat, pa := a, data := [l], shape := shape }] })

end Sys2Proof.Machine
end

