-- ==== Sys2Proof/Machine/Dispatcher.lean ====
section
/-! DEFINITION. The dispatcher of an octant (R319 to R329): aging, decisions, pre-emption (R356 to R359), overflow rings,
and the rotation of teams (R367). -/

namespace Sys2Proof.Machine

/-! ### Aging (R320) -/

/-- A waiting record that has waited 1 ms since its last rise and stands below its region's ceiling. -/
def State.canAge (s : State) (r : ReadyRec) : Bool :=
  r.walked && decide (r.ceiling < r.prio) && decide (r.rose.toNat + 1000000 ≤ s.time.toNat)

/-- The record moves up one queue, keeping its ready time. -/
def State.age (s : State) (r : ReadyRec) : State :=
  s.setRec { r with prio := r.prio - 1, rose := r.rose + 1000000 }

/-- AGING (R320). -/
def execAging (octant : Nat) (tcb : Word) (s : State) : Out :=
  .next (match s.readies.find? fun r => decide (r.octant = octant) && decide (r.tcb = tcb) && s.canAge r with
    | some r => s.age r
    | none => s)

/-! ### Launches (R321, R325, R366) -/

/-- A record launched or resumed, or left where it is. -/
def State.tryRecord (s : State) (r : ReadyRec) : Tried := if r.resume.isSome then s.tryResume r else s.tryLaunch r

/-- The first record of a list that can be launched is; which ones were passed over, and whether one was launched. -/
def State.launchFirst (s : State) : List ReadyRec → List ReadyRec → State × List ReadyRec × Bool
  | [], passed => (s, passed, false)
  | r :: rest, passed =>
    match s.tryRecord r with
    | .done t => (t, passed, true)
    | .no t => t.launchFirst rest (passed ++ [r])
    | .hold t => t.launchFirst rest passed
    | .refused t _ _ _ _ => t.launchFirst rest passed

/-- TASK_LAUNCH (R325): the first record of the octant that can be launched for the first time. -/
def execTaskLaunch (octant : Nat) (s : State) : Out :=
  .next (s.launchFirst ((s.queue octant).filter fun r => r.resume.isNone) []).1

/-- TASK_RESUME (R366): the first record of a checkpointed task of the octant that can be resumed. -/
def execTaskResume (octant : Nat) (s : State) : Out :=
  .next (s.launchFirst ((s.queue octant).filter fun r => r.resume.isSome) []).1

/-! ### Pre-emption (R356 to R359) -/

/-- A field of PWIN in nanoseconds: the drain window, the kill window, the team quantum (R370). -/
def State.pwinNs (s : State) (lo : Nat) : Nat := 1000 * bits s.pwin lo 16

/-- The newcomer that a slot is promised to. -/
def State.promised (s : State) (sk : Nat) : Option ReadyRec :=
  (s.drains.find? fun d => decide (d.1 = sk)).bind fun d => s.readies.find? fun r => r.id == d.2

/-- The slots whose tasks a newcomer may pre-empt (R356): a slot marked for drain only when it outranks the first. -/
def State.victims (s : State) (r : ReadyRec) : List Nat :=
  let cores := ((s.tiers r).flatten.filter fun c => coreExists c && !(s.core c).halted).eraseDups
  (cores.flatMap fun c => (List.range 4).map (c * 8 + ·)).filter fun sk =>
    let c := s.slot sk
    c.busy && c.stopping.isNone && decide (r.prio < c.prio) && (decide (sk % 8 ≠ 3) || decide (sk / 8 % 128 ≠ 0)) &&
      match s.promised sk with
      | some x => decide (r.prio < x.prio)
      | none => true

/-- The victim among candidates: the lowest priority, then the latest launched (R356). -/
def State.choice (s : State) (l : List Nat) : Option Nat :=
  l.foldl (fun b sk =>
    match b with
    | none => some sk
    | some x =>
      let c := s.slot sk
      let d := s.slot x
      if d.prio < c.prio ∨ (d.prio = c.prio ∧ d.launched.toNat < c.launched.toNat) then some sk else some x) none

/-- The victim of a newcomer: a task of a replayed graph only when there is no other (R357). -/
def State.victim (s : State) (r : ReadyRec) : Option Nat :=
  let l := s.victims r
  match s.choice (l.filter fun sk => decide ((s.slot sk).mode ≠ 2)) with
  | some sk => some sk
  | none => s.choice l

/-- The action against a victim by the first row that applies (R357), and the tokens it spends. -/
def State.preempt (s : State) (r : ReadyRec) (sk : Nat) : State :=
  let c := s.slot sk
  let run := s.prun sk
  let spend (s : State) (n : Nat) (victim : Option Nat) : State := s.setRec { r with tokens := r.tokens - n, victim := victim }
  if 1 < c.teamSize then spend ((s.beginStop sk 1).stopTeam sk 1) 1 (some sk)
  else if (s.promised sk).isNone && decide (c.est ≠ 0) && decide (c.est ≤ run + s.pwinNs 0) then
    let s1 := s.guardFail sk 0x3FF false
    { spend s1 1 none with drains := s1.drains ++ [(sk, r.id)] }
  else if c.canKill && decide (run < s.pwinNs 16) && decide (2 ≤ r.tokens) then spend (s.kill sk) 2 (some sk)
  else spend (s.beginStop sk 1) 1 (some sk)

/-- A newcomer that may pre-empt now: it holds a token, no slot is promised to it, and no victim of its own is still
stopping. -/
def State.mayPreempt (s : State) (r : ReadyRec) : Bool :=
  decide (0 < r.tokens) && !s.drains.any (fun d => decide (d.2 = r.id)) &&
  match r.victim with
  | some sk => !((s.slot sk).busy && (s.slot sk).stopping.isSome)
  | none => true

/-- The first newcomer of a list that finds a victim pre-empts it. -/
def State.preemptFirst (s : State) : List ReadyRec → State
  | [] => s
  | r :: rest =>
    match s.readies.find? fun x => x.id == r.id with
    | none => s.preemptFirst rest
    | some r =>
      if !s.mayPreempt r then s.preemptFirst rest
      else
        match s.victim r with
        | some sk => s.preempt r sk
        | none => s.preemptFirst rest

/-! ### Decisions (R321, R340, R356) -/

/-- Replays of the octant that wait for their slots and windows (R340). -/
def State.reserveFirst (s : State) (octant : Nat) : List Graph → State
  | [] => s
  | g :: rest =>
    if (imageSlots g.image).any fun x => decide (octantOf x.1 = octant) then
      match s.reserve g with
      | some t => t
      | none => s.reserveFirst octant rest
    else s.reserveFirst octant rest

/-- DISPATCH_DECISION (R321): what waits for places, a reservation, then one launch, or a pre-emption when nothing can
be launched. -/
def State.decideIn (s : State) (octant : Nat) : State :=
  let s1 := s.pumpReleases.reserveFirst octant s.graphs
  let x := s1.launchFirst (s1.queue octant) []
  if x.2.2 then x.1 else x.1.preemptFirst x.2.1

def execDispatchDecision (octant : Nat) (s : State) : Out := .next (s.decideIn octant)

/-! ### Overflow rings (R327, R328) -/

/-- The RCB whose ring takes the records of a TCB's region (R327). -/
def State.ringOf (s : State) (src : Source) (xroot : Word) (tcb : Nat) : Option Nat :=
  match s.blockAt src xroot tcb false with
  | (s, .ok m) =>
    match s.region src xroot (leAt (s.block m) 176 8) with
    | (_, .ok g) => some g.ring
    | _ => none
  | _ => none

/-- A ring page that the policy core refuses, or that is no virtual address, or for which no retry comes (R328): the fault
goes to a SPAWN that waits for the ring, else to an EXIT or TRIG whose decrement does; with none, its record goes to the
policy core. -/
def State.ringFault (s : State) (rcb : Word) (va : Nat) : State :=
  let spawn := s.cmds.find? fun c => isSpawn c.ins && !c.failed && decide (c.phase = .running) &&
    decide (s.ringOf (cmdSource c 3) (s.slot (slotKey c.seqk)).troot c.v1.toNat = some rcb.toNat)
  let dec := s.slots.find? fun x => x.2.busy && x.2.stopping.isNone && match x.2.decs with
    | some (_, a :: _) => decide (s.ringOf (taskSource (x.1 * 4 + 1)) x.2.xroot a = some rcb.toNat)
    | _ => false
  match spawn, dec with
  | some c, _ => s.trapCmd c (s.cmdRec c 14 9 0 0 va)
  | none, some x => s.trapAt (x.1 * 4 + 1) 14 9 va
  | none, none =>
    { s with policy := s.policy ++ [PolicyRec.trap { time := s.time, stream := 4, engine := 9, code := 14, addr := BitVec.ofNat 56 va }] }

/-- The head record of a ring taken back by the octant it belongs to, when a place of its kind is free (R327, R328). -/
def State.refillRing (s : State) (octant : Nat) (rcb xroot : Word) : State :=
  let src := dispSource octant 0
  match s.blockAt src xroot rcb.toNat true with
  | (s, .hold) => s
  | (s, .fault _ _) => s.ringFault rcb rcb.toNat
  | (s, .bad _) => { s with rings := s.rings.filter fun x => decide (x ≠ (rcb, xroot)) }.event "ring refused" rcb 0
  | (s, .ok m) =>
    let b := s.block m
    let size := leAt b 64 4
    let rd := leAt b 80 8
    let base := leAt b 56 8
    let gone (s : State) : State := { s with rings := s.rings.filter fun x => decide (x ≠ (rcb, xroot)) }
    if size = 0 ∨ leAt b 72 8 ≤ rd then gone s
    else if base % 65536 ≠ 0 ∨ 2 ^ 55 < base + 128 * size then s.ringFault rcb base
    else
      match readVia (s.xlatePlain src xroot (base + 128 * (rd % size)) { kind := 0 }) 128 with
      | (s, .hold) => s
      | (s, .fault _ _) => s.ringFault rcb (base + 128 * (rd % size))
      | (s, .bad _) => (s.blockSet m 80 8 (rd + 1)).event "ring record lost" rcb (BitVec.ofNat 64 rd)
      | (s, .ok d) =>
        let r := readyOf s.nextRec octant d
        if s.releaseOctant r.tcb r.place r.spawner ≠ octant ∨ s.placeFree octant r.byDec = false then s
        else
          let s1 := { s.blockSet m 80 8 (rd + 1) with
            readies := s.readies ++ [{ r with prio := r.prio0 }], nextRec := s.nextRec + 1 }
          let s2 := if leAt b 72 8 = rd + 1 then gone s1 else s1
          s2.settleRec r.id

/-- RING_REFILL (R327): the oldest region's ring first. -/
def execRingRefill (octant : Nat) (rcb : Word) (s : State) : Out :=
  .next (match s.rings.head? with
    | some x => if x.1 = rcb then s.refillRing octant rcb x.2 else s
    | none => s)

/-- A page of a region's overflow ring, through an address space. -/
def State.ringPage (s : State) (troot rcb : Word) (va : Nat) : Bool :=
  match s.walk rcb.toNat 1 [42, 29, 16] (bits troot 16 36 * 2 ^ 16) with
  | .leaf _ _ pa =>
    let b := s.block (memKey pa)
    decide (leAt b 64 4 ≠ 0) && decide (leAt b 56 8 ≤ va) && decide (va < leAt b 56 8 + 128 * leAt b 64 4)
  | _ => false

/-- The address space in which a waiter spills to a ring, or refills from one. -/
def State.spillRoot (s : State) (w : Waiter) : Option Word :=
  match w with
  | .command u => ((s.cmd u).filter fun c => isSpawn c.ins).map fun c => (s.slot (slotKey c.seqk)).troot
  | .atomic k => some (s.slot (slotKey k)).xroot
  | .dispatcher _ _ => (s.rings.head?).map (·.2)
  | .wake i => (s.wakes.find? fun w => w.id == i).map (·.troot)
  | .ending i => (s.endings.find? fun e => e.id == i).map (·.xroot)
  | .graph i => (s.graph i).map (·.troot)
  | _ => none

/-- OVERFLOW_RING_UNMAPPED (R328): a request for a page of the region's ring has waited two heartbeat periods: the SPAWN
or the decrement that waits takes the fault. -/
def State.ringUnmapped (s : State) (octant : Nat) (rcb : Word) : State :=
  match s.requests.find? fun q => !q.declined && decide (octantOf q.core = octant) &&
      decide (q.time.toNat + s.twoBeats q.core ≤ s.time.toNat) &&
      q.waiters.any fun w => (s.spillRoot w).any fun r => s.ringPage r rcb q.va.toNat with
  | none => s
  | some q =>
    q.waiters.foldl (fun s w =>
      match w with
      | .command u =>
        match s.cmd u with
        | some c => s.trapCmd c (s.cmdRec c 14 9 0 0 q.va.toNat)
        | none => s
      | .atomic k => s.trapAt k 14 9 q.va.toNat
      | .wake i =>
        match s.wakes.find? fun w => w.id == i with
        | some w => { s with wakes := s.wakes.filter fun x => x.id != i }.blame w.slot w.task
            { stream := 1, engine := 9, code := 14, addr := q.va.setWidth 56 }
        | none => s
      | .ending i =>
        match s.endings.find? fun e => e.id == i with
        | some e => (s.endingNext e).endFault e 9 14 q.va.toNat none
        | none => s
      | _ => s.ringFault rcb q.va.toNat) { s with requests := s.requests.filter fun x => x.id != q.id }

def execOverflowRingUnmapped (octant : Nat) (rcb : Word) (s : State) : Out := .next (s.ringUnmapped octant rcb)

/-- SPAWN_STALL_TIMEOUT (R329): a SPAWN unretired for more than 50 µs while a ready task of the octant waits: its task is
checkpointed, and the SPAWN is withdrawn and issues again. In a slot that stops it is withdrawn as its stop point (R361). -/
def State.withdrawSpawn (s : State) (c : Cmd) : State :=
  let k := c.seqk
  let sk := slotKey k
  let s1 := State.sweepRequests { s with
    cmds := s.cmds.filter fun x => x.uid != c.uid
    requests := s.requests.map fun (r : Request) => { r with waiters := r.waiters.filter fun w => decide (w ≠ Waiter.command c.uid) } }
  let s2 := s1.modSlot sk fun x =>
    { x.unpop (roleOf k) c.ext.t with nextCmd := if x.nextCmd = c.num + 1 then c.num else x.nextCmd }
  ((s2.modSeq k fun q => { q with pc := c.pc }).beginStop sk 1).stopTeam sk 1

def execSpawnStallTimeout (uid : Nat) (s : State) : Out :=
  .next (match s.cmd uid with
    | none => s
    | some c =>
      if isSpawn c.ins && !c.failed && decide (c.phase ≠ .done) && decide (c.issued + 50000 < s.time.toNat) &&
          decide (slotNum (slotKey c.seqk) < 4) && ((s.slot (slotKey c.seqk)).stopping.isSome ||
          !(s.queue (octantOf (coreOf c.seqk))).isEmpty) then s.withdrawSpawn c
      else s)

/-! ### Teams (R367) -/

/-- The slots of a resident team. -/
def State.teamSlots (s : State) (team : BitVec 32) : List Nat :=
  (s.slots.filter fun x => decide (slotNum x.1 < 4) && x.2.busy && decide (1 < x.2.teamSize) && decide (x.2.teamId = team)).map (·.1)

/-- A team of the same region and effective priority waits for slots. -/
def State.teamWaits (s : State) (c : Slot) : Bool :=
  s.readies.any fun r => r.walked && decide (1 < r.tsize) && decide (r.prio = c.prio) && !s.blockedRec r &&
    decide (r.regions.map (BitVec.ofNat 64) = c.regions)

/-- TEAM_QUANTUM_EXPIRY (R367): a resident team that has run for its quantum is swapped out when another waits. -/
def execTeamQuantumExpiry (team : BitVec 32) (s : State) : Out :=
  .next (match s.teamSlots team with
    | [] => s
    | sk :: rest =>
      let c := s.slot sk
      let ran := match c.runSince with
        | some t => s.time.toNat - t.toNat
        | none => 0
      if s.pwinNs 32 ≤ ran && s.teamWaits c then (sk :: rest).foldl (fun s k => s.beginStop k 2) s else s)

end Sys2Proof.Machine
end

