-- ==== Sys2Proof/Machine/Fabric.lean ====
section
/-! DEFINITION. The Adosh fabric: packets that arrive (R381), reduction windows (R142, R143, R382), and the policy core's
decline (R89). -/

namespace Sys2Proof.Machine

/-! ### Reads and writes (R95, R381) -/

/-- A line that has passed through the fabric is intact (R95). -/
def flitIntact (l : FlitLine) : Bool := decide (l.bytes.length = 128) && decide (crc32c l.bytes = l.crc)

/-- The local address that a packet names: an offset of DRAM, CA pool lines included (R80, R381). -/
def packetAddr (pa : BitVec 52) : Nat := pa.toNat % 2 ^ 40 / 128 * 128

/-- ADOSH_READ (R381): lines of this module read by a peer, verified as they leave. A line that fails does not leave. A
module that is no peer is refused (R380). -/
def execAdoshRead (src : BitVec 8) (pa : BitVec 52) (lines : Nat) (s : State) : Out :=
  let a := packetAddr pa
  let ls := (List.range (min lines 32)).map fun i => s.egress (a + 128 * i)
  .next (if s.peers.contains src.toNat = false ∨ Config.dramBytes < a + 128 * min lines 32 then s.event "fabric read refused" (zx src) (zx pa)
    else if ls.any Option.isNone then s.event "egress verification" (zx src) (zx pa)
    else { s with fabricOut := s.fabricOut ++
      [{ typ := 3, cls := 2, src := s.host.rank, dst := src.toNat, pa := pa.toNat, data := ls.filterMap id }] })

/-- Lines of a rank put at an address, as long as they are intact, and whether all were. Each is verified against the check
word it carries, and its check word is made where it enters (R94, R95, R381). -/
def State.ingress (s : State) (src a : Nat) : List FlitLine → State × Bool
  | [] => (s, true)
  | l :: ls => if flitIntact l then (s.poke .main a l.bytes (fabricTag a src)).ingress src (a + 128) ls else (s, false)

/-- ADOSH_WRITE (R381): a peer's write, verified at ingress, performed at its home and acknowledged. CA pool lines are
written by the CA unit alone (R99). A module that is no peer is refused (R380). -/
def execAdoshWrite (src : BitVec 8) (pa : BitVec 52) (data : List FlitLine) (s : State) : Out :=
  let a := packetAddr pa
  .next (if s.peers.contains src.toNat = false ∨ Config.dramBytes < a + 128 * data.length ∨ pa.toNat / 2 ^ 40 % 4 ≠ 0 then s.event "fabric write refused" (zx src) (zx pa)
    else
      match s.ingress src.toNat a data with
      | (t, false) => t.event "ingress verification" (zx src) (zx pa)
      | (t, true) => { t with fabricOut := t.fabricOut ++
          [{ typ := 4, cls := 2, src := t.host.rank, dst := src.toNat, pa := pa.toNat, data := [] }] })

/-- The oldest lookup at a rank that has not been answered is: by the line at `a`, which has come with the answer, or, with
no line, by the name's absence (R121). -/
def State.answerLookup (s : State) (src a n : Nat) : State :=
  match s.peerReads.find? fun r => !r.2.2 && decide (2 ^ 60 ≤ r.2.1) && decide (r.2.1 % 2 ^ 60 = src) with
  | none => s
  | some r =>
    { s with
      peerReads := (s.peerReads.map fun x => if x = r then (r.1, r.2.1, true) else x)
      peerIndex := if n = 0 then s.peerIndex else s.peerIndex ++ [(r.1, BitVec.ofNat 128 (r.2.1 / 2 ^ 60 - 1), a)] }

/-- ADOSH_READ_RESPONSE (R95, R381): what a peer's lines hold, as this module now sees them; a line that fails
verification keeps its check word and tag, and its consumer faults. The commands that wait for it go on. A response for a
CA pool line that no read of the line waits for answers a lookup. -/
def execAdoshReadResponse (src : BitVec 8) (pa : BitVec 52) (data : List FlitLine) (s : State) : Out :=
  let a := 3 * 2 ^ 50 + src.toNat * 2 ^ 42 + pa.toNat % 2 ^ 42 / 128 * 128
  let here (r : Nat × Nat × Bool) : Bool := decide (a ≤ r.2.1) && decide (r.2.1 < a + 128 * data.length)
  let t := data.zipIdx.foldl (fun s l =>
    let at' := a + 128 * l.2
    let s1 := s.poke .main at' (slice l.1.bytes 0 128) (if flitIntact l.1 then fabricTag at' src.toNat else l.1.tag)
    if flitIntact l.1 then s1 else { s1 with bad := Kv.put s1.bad (lineKey .main at') l.1.crc }) s
  let u := { t with peerReads := t.peerReads.map fun r => if here r then (r.1, r.2.1, true) else r }
  .next (if a / 2 ^ 40 % 4 = 1 ∧ s.peerReads.any (fun r => !r.2.2 && here r) = false then u.answerLookup src.toNat a data.length else u)

/-- ADOSH_WRITE_ACKNOWLEDGEMENT (R381): a write to a peer has performed. -/
def execAdoshWriteAcknowledgement (src : BitVec 8) (pa : BitVec 52) (s : State) : Out :=
  .next (match s.unacked.find? fun u => decide (u.2.1 = src.toNat) && decide (u.2.2 % 2 ^ 42 / 128 = pa.toNat % 2 ^ 42 / 128) with
    | some u => { s with unacked := s.unacked.erase u }
    | none => s)

/-! ### Reduction windows (R142, R143) -/

/-- TREE of R143 over the contributions of the ranks in ascending order. -/
def reduceTree (op : Nat) : Nat → List Nat → Nat
  | 0, l => l.headD 0
  | n + 1, l =>
    if l.length ≤ 1 then l.headD 0
    else
      let m := 2 ^ Nat.log2 (l.length - 1)
      reduceOp op (reduceTree op n (l.take m)) (reduceTree op n (l.drop m))

/-- The offset of an element at the home, for elements of `w` bytes. -/
def Contribution.addr (c : Contribution) (w : Nat) (e : RedElem) : Nat := if c.op = 0 then c.base + e.num * w else e.at'

/-- The oldest contribution of a rank to an element of a window: its value. -/
def State.contributed (s : State) (win rank w a : Nat) : Option (Contribution × RedElem) :=
  s.contribs.findSome? fun c =>
    if c.win = win ∧ c.rank = rank then (c.elems.find? fun e => decide (c.addr w e = a)).map fun e => (c, e) else none

/-- The elements of a window that this module has contributed to, each with its contribution's operator. -/
def State.ownElems (s : State) (win : Nat) : List (Nat × Nat) :=
  (s.contribs.filter fun c => decide (c.win = win) && decide (c.op ≠ 0)).flatMap fun c => c.elems.map fun e => (c.op, e.at')

/-- An element of a contribution whose round has closed is taken off it; a CPR with none left anywhere is done. -/
def State.takeElem (s : State) (x : Contribution × RedElem) : State :=
  let c := { x.1 with elems := x.1.elems.filter fun e => decide (e.num ≠ x.2.num) }
  if c.elems.isEmpty then
    let s1 := { s with contribs := s.contribs.erase x.1 }
    match (if c.uid = 0 ∨ s1.contribs.any (·.uid == c.uid) then none else s1.cmd c.uid) with
    | some d => if d.failed then s1 else s1.complete { d with sent := 0, off := cprLen d } 0
    | none => s1
  else { s with contribs := s.contribs.map fun y => if y = x.1 then c else y }

/-- The places at the home of an element of `w` bytes: address and length. -/
def RedElem.places (e : RedElem) (a w : Nat) : List (Nat × Nat) :=
  match e.tail with
  | some (n, b) => [(a, n), (b, w - n)]
  | none => [(a, w)]

/-- Bytes put at the places of an element. -/
def State.putPlaces (s : State) : List (Nat × Nat) → List Byte → State
  | [], _ => s
  | p :: rest, bs => (s.putMain p.1 (bs.take p.2)).putPlaces rest (bs.drop p.2)

/-- One more round of an element has closed. -/
def State.countRound (s : State) (win a : Nat) : State :=
  { s with host := { s.host with redwins := s.host.redwins.map fun w =>
      if w.1 = win then (w.1, { w.2 with closed := Kv.put w.2.closed a (Kv.get 0 w.2.closed a + 1) }) else w } }

/-- One round closed (R142): every rank has contributed to the element; the home's memory port performs the result. -/
def State.closeElem (s : State) (win : Nat) (r : RedWin) (op a : Nat) : Option State :=
  let w := reduceBytes op
  let cs := r.ranks.map fun k => s.contributed win k w a
  if cs.any Option.isNone then none
  else
    let xs := cs.filterMap id
    let t := reduceTree op 9 (xs.map fun x => x.2.value.toNat % 2 ^ (8 * w))
    let s1 := (xs.foldl (fun s x => s.takeElem x) s).countRound win a
    if r.ranks.getD r.home 0 ≠ s.host.rank then some s1
    else
      let ps := ((xs.find? fun x => decide (x.1.rank = s.host.rank)).elim [(a, w)] fun x => x.2.places a w)
      match ps.findSome? fun p => s.verify .main p.1 p.2 with
      | some b =>
        some (xs.foldl (fun s x =>
          match (if x.1.uid = 0 then none else s.cmd x.1.uid) with
          | some d => s.trapElem d x.2.num b
          | none => s) s1)
      | none => some (s1.putPlaces ps (leBytes w (reduceOp op (leNat (ps.flatMap fun p => s.bytes .main p.1 p.2)) t)))

/-- Rounds of a window closed, at most `n` (R142): each by the operator of the contribution to its element. -/
def State.closeRounds (s : State) (win : Nat) (r : RedWin) : Nat → State
  | 0 => s
  | n + 1 =>
    match (s.ownElems win).findSome? fun a => s.closeElem win r a.1 a.2 with
    | some t => t.closeRounds win r n
    | none => s

/-- ROUND_CLOSE (R142). -/
def execRoundClose (win : Nat) (s : State) : Out :=
  .next (match s.host.redwins.find? fun w => w.1 == win with
    | some w => s.closeRounds win w.2 (((s.contribs.filter fun c => decide (c.win = win)).map fun c => c.elems.length).foldl (· + ·) 0)
    | none => s)

/-- ADOSH_REDUCTION_CONTRIBUTION (R142, R382): a rank's contribution reaches the switches; one of a rank outside the
window is refused there. -/
def execAdoshReductionContribution (src : BitVec 8) (win : Nat) (pa : BitVec 52) (data : List (BitVec 64)) (s : State) : Out :=
  let base := pa.toNat % 2 ^ 40
  .next (match s.host.redwins.find? fun w => w.1 == win with
    | some w =>
      if w.2.ranks.contains src.toNat && s.peers.contains src.toNat then
        { s with contribs := s.contribs ++ [⟨win, src.toNat, 0, 0, base, data.zipIdx.map fun x => { at' := base, num := x.2, value := x.1 }⟩] }
      else s
    | none => s)

/-! ### DECLINE (R89) -/

/-- What waits on a declined request takes its fault: a command or a fetch at once, the rest when they try again. -/
def State.declineWaiter (s : State) (w : Waiter) : State :=
  match w with
  | .command u => s.startCmd u 1
  | .fetch k =>
    if s.canIssue k then
      match s.fetch k with
      | .words s _ _ => s
      | .hold s => s
      | .stop s => s
    else s
  | _ => s

/-- DECLINE (R89): the request is answered, and what waited on it faults. While a new image is started, requests wait
unanswered (R386). -/
def execDecline (req : Nat) (s : State) : Out :=
  .next (match s.requests.find? fun r => r.id == req with
    | none => s
    | some r =>
      if s.host.updating || r.declined then s
      else
        let s1 := { s with requests := s.requests.map fun x => if x.id = req then { x with declined := true } else x }
        State.sweepRequests (r.waiters.foldl (fun s w => s.declineWaiter w) s1))

end Sys2Proof.Machine
end

