-- ==== Sys2Proof/Machine/HostIf.lean ====
section
/-! DEFINITION. The host function (R371 to R375): BAR0, the submission ring, graphs and their completion (R376 to R378). -/

namespace Sys2Proof.Machine

/-! ### Host memory, MSI-X and BAR0 (R371, R372) -/

/-- The key in `mem` of a PCI Express bus address (R80). -/
def busKey (a : Nat) : Nat := 2 * 2 ^ 50 + a % 2 ^ 48

/-- Bytes of host memory. -/
def State.busRead (s : State) (a n : Nat) : List Byte := s.bytes .main (busKey a) n

/-- Bytes written to host memory by the packet cores. -/
def State.busWrite (s : State) (a : Nat) (bs : List Byte) : State := s.poke .main (busKey a) bs (originTag 0 0)

/-- An MSI-X message of a vector; a masked vector (its table entry's vector control [0]) becomes pending. -/
def State.interrupt (s : State) (v : Nat) : State :=
  let h := s.host
  if bits (Kv.get 0 h.msix (2 * v + 1)) 32 1 = 1 then { s with host := { h with msixPending := h.msixPending ||| BitVec.ofNat 64 (2 ^ v) } }
  else { s with host := { h with sent := h.sent ++ [.msix v] } }

/-- MSTAT (R372). -/
def State.mstat (s : State) : Word :=
  let h := s.host
  let v := if h.imageSlot then h.otherVersion else h.version
  BitVec.ofNat 64 (v.toNat * 2 ^ 48 + h.patch.toNat * 2 ^ 40 + h.rank % 256 * 2 ^ 32 + bit (decide (s.chalt ≠ 0)) * 16 +
    bit h.imageSlot * 8 + bit h.updating * 4 + bit h.configured * 2 + bit h.ready)

/-- What a read of a BAR0 register gives (R372); offsets not listed, and write-only ones, read as zero. -/
def State.bar0 (s : State) (off : Nat) : Word :=
  let h := s.host
  if off = 0 then s.mstat
  else if off = 0x08 then h.sqbase
  else if off = 0x10 then zx h.sqsize
  else if off = 0x20 then zx h.sqhead
  else if off = 0x28 then zx h.sqerr
  else if 0x40 ≤ off ∧ off < 0x80 ∧ off % 8 = 0 then Kv.get 0 h.mbox ((off - 0x40) / 8)
  else if off = 0x88 then BitVec.ofNat 64 (bit h.busy + 2 * bit h.doorBusy + 256 * h.result.toNat)
  else if 0x1000 ≤ off ∧ off < 0x1400 ∧ off % 8 = 0 then Kv.get 0 h.msix ((off - 0x1000) / 8)
  else if off = 0x2000 then h.msixPending
  else 0

/-! ### The submission ring (R373) -/

/-- WAKE (R373). -/
def execWake (tail : Word) (s : State) : Out :=
  let h := s.host
  let t := tail.setWidth 32
  .next (if h.sqsize.toNat < (t - h.sqhead).toNat then { s with host := { h with sqerr := h.sqerr ||| 1 } }
    else if (t - h.sqhead).toNat < (h.tail - h.sqhead).toNat then s
    else { s with host := { h with tail := t } })

/-- SQBASE_WRITE (R373): only while the ring is drained. Of a value that is not a multiple of 4096 the low 12 bits are
clear (DESIGN CHOICE, log 68). -/
def execSqbaseWrite (val : Word) (s : State) : Out :=
  .next (if s.host.sqhead = s.host.tail then { s with host := { s.host with sqbase := val &&& 0xFFFFFFFFFFFFF000 } } else s)

/-- A ring size that SQSIZE admits (R372). -/
def sqsizeOk (n : Nat) : Bool := decide (n = 0) || (List.range 9).any fun i => decide (n = 16 * 2 ^ i)

/-- SQSIZE_WRITE (R373): only while the ring is drained. -/
def execSqsizeWrite (val : Word) (s : State) : Out :=
  .next (if s.host.sqhead = s.host.tail ∧ sqsizeOk (bits val 0 13) = true then
      { s with host := { s.host with sqsize := val.setWidth 13 } }
    else s)

/-! ### The mailbox (R374, R375) -/

/-- The 64 bytes of MBOX. -/
def State.mboxBytes (s : State) : List Byte := (List.range 8).flatMap fun i => leBytes 8 (Kv.get 0 s.host.mbox i).toNat

/-- The bytes of a command's operands (R375): first and past the last. -/
def mboxUsed (code : Nat) : List (Nat × Nat) :=
  match code with
  | 1 => [(8, 16)]
  | 2 => [(8, 28), (32, 40)]
  | 3 => [(8, 12), (16, 24)]
  | 4 => [(8, 9), (16, 24)]
  | 6 => [(8, 24)]
  | 7 => [(8, 25)]
  | 8 => [(8, 20)]
  | 9 => [(8, 20)]
  | _ => []

/-- Every byte that no operand takes is zero. -/
def mboxZero (m : List Byte) : Bool :=
  (List.range 63).all fun i => ((mboxUsed (leAt m 0 1)).any fun u => decide (u.1 ≤ i + 1) && decide (i + 1 < u.2)) || decide (leAt m (i + 1) 1 = 0)

/-- The operands of a command are in range (R375), as far as the command itself says. -/
def mboxOk (m : List Byte) : Bool :=
  mboxZero m &&
  match leAt m 0 1 with
  | 1 => decide (leAt m 8 8 % 128 = 0)
  | 2 => decide (1 ≤ leAt m 24 4) && decide (leAt m 16 8 + leAt m 24 4 ≤ 2 ^ 55)
  | 3 => decide (leAt m 8 2 < leAt m 10 2) && decide (leAt m 10 2 ≤ 256) && decide (leAt m 16 8 % 8 = 0)
  | 4 => decide (leAt m 8 1 < 64) && decide (leAt m 16 8 % 64 = 0)
  | 5 => true
  | 6 => decide (leAt m 8 8 % 256 = 0) && decide (leAt m 8 8 < 2 ^ 55)
  | 7 => decide (leAt m 8 8 % 256 = 0) && decide (leAt m 8 8 < 2 ^ 55) && decide (leAt m 24 1 ≤ 1)
  | 8 => true
  | 9 => true
  | _ => false

/-- The doorbell rings while no command runs: the command in MBOX is taken. -/
def State.ring (s : State) : State :=
  { s with host := { s.host with busy := true, doorBusy := false, cmd := s.mboxBytes, moved := 0, loadUid := 0, since := none } }

/-- A command ends with a result (R374). -/
def State.answer (s : State) (result : Nat) : State :=
  { s with host := { s.host with busy := false, result := BitVec.ofNat 8 result, poolrst := false, since := none } }

/-- MBDOOR_WHILE_BUSY (R374). -/
def execMbdoorWhileBusy (s : State) : Out :=
  .next (if s.host.busy then { s with host := { s.host with doorBusy := true } } else s)

/-- MBDOOR_UNKNOWN_CODE (R374): result 1. -/
def execMbdoorUnknownCode (s : State) : Out :=
  .next (if s.host.busy || !s.host.ready || mboxOk s.mboxBytes then s else s.ring.answer 1)

/-- A write to MBDOOR (R374). -/
def State.door (s : State) : State :=
  if s.host.busy then { s with host := { s.host with doorBusy := true } }
  else if !s.host.ready then s
  else if mboxOk s.mboxBytes then s.ring
  else s.ring.answer 1

/-- BAR0_REGISTER_WRITE (R372): a register under its access code; read-only and unlisted offsets ignore writes. An
MSI-X vector that is unmasked while pending sends its message. -/
def execBar0RegisterWrite (off : Nat) (val : Word) (s : State) : Out :=
  let h := s.host
  if off = 0x08 then execSqbaseWrite val s
  else if off = 0x10 then execSqsizeWrite val s
  else if off = 0x18 then execWake val s
  else if off = 0x28 then .next { s with host := { h with sqerr := h.sqerr &&& ~~~(val.setWidth 2) } }
  else if off = 0x80 then .next s.door
  else if 0x40 ≤ off ∧ off < 0x80 ∧ off % 8 = 0 then .next { s with host := { h with mbox := Kv.put h.mbox ((off - 0x40) / 8) val } }
  else if 0x1000 ≤ off ∧ off < 0x1400 ∧ off % 8 = 0 then
    let n := (off - 0x1000) / 8
    let s1 := { s with host := { h with msix := Kv.put h.msix n val } }
    .next (if n % 2 = 1 ∧ bits val 32 1 = 0 ∧ bits h.msixPending (n / 2) 1 = 1 then
        { s1 with host := { s1.host with
            msixPending := h.msixPending &&& ~~~(BitVec.ofNat 64 (2 ^ (n / 2))), sent := h.sent ++ [.msix (n / 2)] } }
      else s1)
  else .next s

/-! ### Graphs (R334, R376, R377) -/

/-- The source of a packet core's accesses for graph record `n`, of graph `g`. -/
def packetSource (n g : Nat) : Source := { waiter := .packet n, core := g % 8 * 128, slot := 0, engine := 3 }

/-- The fields of a graph record are in range (R376). Bits of `troot` that R86 reserves are ignored (R4). A bus address has 48
bits (DEDUCED, log 67). -/
def graphRecOk (r : List Byte) : Bool :=
  decide (leAt r 0 4 ≠ 0) && decide (1 ≤ leAt r 4 4) && decide (leAt r 4 4 ≤ 65535) &&
  decide (leAt r 8 8 + 8 * leAt r 4 4 ≤ 2 ^ 55) && decide (leAt r 16 8 % 16 = 0) && decide (leAt r 16 8 < 2 ^ 48) &&
  decide (leAt r 32 2 < 64) && decide (leAt r 34 1 < 4) && zeroAt r 35 64

/-- A completion record written, and its interrupt (R378). -/
def State.completion (s : State) (r : List Byte) (body : Nat) : State :=
  let s1 := s.busWrite (leAt r 16 8 / 16 * 16) (leBytes 16 (leAt r 0 4 + body))
  if leAt r 34 1 % 2 = 1 ∧ leAt r 32 2 < 64 then s1.interrupt (leAt r 32 2) else s1

/-- A graph record refused with a reason (R377, R378). -/
def State.refuseGraph (s : State) (r : List Byte) (reason : Nat) : State :=
  let s1 := s.completion r (2 ^ 66 + reason * 2 ^ 80)
  { s1 with host := { s1.host with sqerr := s1.host.sqerr ||| 2 } }

/-- What a step of a submission gives: a value, a wait, or the reason of a refusal. -/
inductive Step1 (α : Type) where
  | ok (s : State) (v : α)
  | hold (s : State)
  | no (reason : Nat)

/-- An access of a submission: a declined one refuses the record with reason 3. -/
def Step1.of {α : Type} (x : State × VRes α) : Step1 α :=
  match x.2 with
  | .ok v => .ok x.1 v
  | .hold => .hold x.1
  | .fault _ _ => .no 3
  | .bad _ => .no 2

/-- The TCBs of a record found and checked as SPAWN does (R302): their places in memory. A placement by slice is checked here
for a task that waits for nothing, and at its release for the others (R304). -/
def State.submitTcbs (s : State) (src : Source) (troot : Word) : List Nat → List Nat → Step1 (List Nat)
  | [], ms => .ok s ms
  | va :: rest, ms =>
    if va % 256 ≠ 0 ∨ 2 ^ 55 ≤ va then .no 2
    else
      match Step1.of (s.blockAt src troot va true) with
      | .hold s => .hold s
      | .no r => .no r
      | .ok s m =>
        let t := s.block m
        let p := leAt t 104 8
        if !tcbOk t || decide (tcbState t ≠ 0 ∧ tcbState t ≠ 6) || (decide (leAt t 8 4 = 0) && decide (p / 2 ^ 62 = 1) && !sliceOk (p % 2 ^ 55) 1) then .no 2
        else s.submitTcbs src troot rest (ms ++ [m])

/-- The successors of each task, as virtual addresses (R298). -/
def State.submitEdges (s : State) (src : Source) (troot : Word) : List Nat → List (List Nat) → Step1 (List (List Nat))
  | [], es => .ok s es
  | m :: rest, es =>
    let t := s.block m
    let n := leAt t 120 4
    match Step1.of (s.readVirt src troot (n * 8 / 65536 + 2) (leAt t 112 8) (8 * n) []) with
    | .hold s => .hold s
    | .no r => .no r
    | .ok s b => s.submitEdges src troot rest (es ++ [(List.range n).map fun i => leAt b (8 * i) 8])

/-- The kernel names of a task's three streams (R334); the null name for an absent stream. -/
def State.kernelNames (s : State) (src : Source) (troot : Word) (t : List Byte) : List Nat → List Byte → Step1 (List Byte)
  | [], acc => .ok s acc
  | j :: rest, acc =>
    let entry := leAt t (24 + 8 * j) 8
    let len := leAt t (48 + 4 * j) 4
    if len = 0 then s.kernelNames src troot t rest (acc ++ zeros 16)
    else
      match Step1.of (s.readVirt src troot (4 * len / 65536 + 2) entry (4 * len) []) with
      | .hold s => .hold s
      | .no r => .no r
      | .ok s b => s.kernelNames src troot t rest (acc ++ leBytes 16 (recordName b).toNat)

/-- The entry of a task in the shape record, after its kernel names (R334). -/
def shapeEntry (t : List Byte) : List Byte :=
  let st := leAt t 160 1
  ((List.range 8).flatMap fun n => if st / 2 ^ n % 2 = 1 then leBytes 4 (leAt t (128 + 4 * n) 4) else zeros 4) ++
  [BitVec.ofNat 8 st, BitVec.ofNat 8 (leAt t 60 1)] ++ leBytes 2 (leAt t 62 2) ++ leBytes 2 (leAt t 64 2) ++ zeros 2 ++
  leBytes 4 (leAt t 20 4) ++ leBytes 4 (leAt t 120 4) ++ leBytes 32 (leAt t 72 32)

/-- The entries of the shape record in index order. -/
def State.shapeEntries (s : State) (src : Source) (troot : Word) : List Nat → List Byte → Step1 (List Byte)
  | [], acc => .ok s acc
  | m :: rest, acc =>
    match s.kernelNames src troot (s.block m) [0, 1, 2] [] with
    | .hold s => .hold s
    | .no r => .no r
    | .ok s k => s.shapeEntries src troot rest (acc ++ k ++ shapeEntry (s.block m))

/-- A member of a gang that holds no trace of a shape asks rank 0 for the one in its directory (R346, R381). -/
def State.askTrace (s : State) (shape : BitVec 128) : State :=
  if s.host.rank = 0 then s
  else { s with fabricOut := s.fabricOut ++
    [{ typ := 7, cls := 3, src := s.host.rank, dst := 0, pa := 0, data := [], shape := shape }] }

/-- The path of a graph (R335, R336, R346): its mode, its directory entry and its trace version. Only rank 0 of a gang
records. -/
def State.choosePath (s : State) (shape : BitVec 128) : State × Nat × Nat × BitVec 32 :=
  match s.dirFind shape with
  | some e =>
    if s.dirField e 44 1 = 2 then (s, 2, e, BitVec.ofNat 32 (s.dirField e 32 4)) else (s.askTrace shape, 0, 0, 0)
  | none =>
    match s.dirClaim shape with
    | (s, some e) => (s.askTrace shape, if s.host.rank = 0 then 1 else 0, e, 0)
    | (s, none) => (s, 0, 0, 0)

/-- The TCBs of a graph armed, each as a one-member SPAWN would (R302, R377). -/
def State.armGraph (s : State) (g : Nat) (troot : Word) (ms : List Nat) : State :=
  ms.foldl (fun s m => s.armMembers troot (g % 8 * 128 + 1) 1 0 none [m]) s

/-- A graph armed on its path; tasks without predecessors are released on the dynamic one. -/
def State.startGraph (s : State) (r : List Byte) (tcbs ms : List Nat) (edges : List (List Nat)) (shape : Option (BitVec 128)) : State :=
  let id := leAt r 0 4
  let troot := BitVec.ofNat 64 (leAt r 24 8)
  let s1 := s.armGraph id troot ms
  let p := match shape with
    | some x => s1.choosePath x
    | none => (s1, 0, 0, 0)
  let ready := ms.zipIdx.filterMap fun m => if leAt (s1.block m.1) 8 4 = 0 then some m.2 else none
  let g : Graph :=
    { id := id, tcbs := tcbs.map (BitVec.ofNat 64), troot := troot, done := BitVec.ofNat 64 (leAt r 16 8), vector := leAt r 32 2
      intr := decide (leAt r 34 1 % 2 = 1), mode := p.2.1, shape := shape.getD 0, entry := p.2.2.1, ver := p.2.2.2
      tasks := ms.map fun m => BitVec.ofNat 32 (leAt (s1.block m) 0 4)
      edges := edges.map fun l => l.map fun a => tcbs.idxOf a, toRelease := if p.2.1 = 2 then [] else ready }
  { p.1 with graphs := p.1.graphs ++ [g] }.pumpReleases

/-- What a graph record comes to when it is armed (R377): its TCBs' addresses and places, its edges and its shape name, if it
may be recorded or replayed. -/
structure Submission where
  tcbs : List Nat
  ms : List Nat
  edges : List (List Nat) := []
  shape : Option (BitVec 128) := none

/-- A graph record, of number `n`, checked and hashed (R334, R377). -/
def State.prepare (s : State) (n : Nat) (r : List Byte) : Step1 Submission :=
  let id := leAt r 0 4
  let troot := BitVec.ofNat 64 (leAt r 24 8)
  let src := packetSource n id
  if !graphRecOk r then .no 2
  else
    match Step1.of (s.readVirt src troot (leAt r 4 4 * 8 / 65536 + 2) (leAt r 8 8) (8 * leAt r 4 4) []) with
    | .hold t => .hold (s.asked t)
    | .no x => .no x
    | .ok s b =>
      let tcbs := (List.range (leAt r 4 4)).map fun i => leAt b (8 * i) 8
      match s.submitTcbs src troot tcbs [] with
      | .hold t => .hold t
      | .no x => .no x
      | .ok s ms =>
        if (s.graph id).isSome then .no 1
        else if leAt r 34 1 / 2 % 2 = 1 then .ok s { tcbs := tcbs, ms := ms }
        else
          match s.submitEdges src troot ms [] with
          | .hold t => .hold t
          | .no x => .no x
          | .ok s es =>
            if (es.any fun l => l.any fun a => !tcbs.contains a) || decide (s.dirEntries = 0) then .ok s { tcbs := tcbs, ms := ms }
            else
              match s.shapeEntries src troot ms [] with
              | .hold t => .hold t
              | .no x => .no x
              | .ok s body =>
                let rec' := leBytes 4 tcbs.length ++ leBytes 4 2 ++ zeros 8 ++ body ++
                  es.flatMap fun l => l.flatMap fun a => leBytes 4 (tcbs.idxOf a)
                .ok s { tcbs := tcbs, ms := ms, edges := es, shape := some (recordName rec') }

/-- The records taken and not armed: the first that is refused is done with, and so is the first of all once it is checked
and hashed. One that waits for a translation holds up the arming of those after it, and nothing else (R377, R420). -/
def State.submitNext (s : State) (first : Bool) : List (Nat × List Byte) → State
  | [] => s
  | (n, r) :: rest =>
    let drop (s : State) : State := { s with host := { s.host with taken := s.host.taken.filter fun x => x.1 != n } }
    match s.prepare n r with
    | .no x => (drop s).refuseGraph r x
    | .hold t => (s.asked t).submitNext false rest
    | .ok t p => if first then (drop t).startGraph r p.tcbs p.ms p.edges p.shape else (s.asked t).submitNext false rest

/-- The next record of the ring is copied into the module, and SQHEAD rises (R373); before CONFIG it is refused
(R388). -/
def State.takeRecord (s : State) : State :=
  let h := s.host
  if h.sqhead = h.tail ∨ h.sqsize = 0 then s
  else
    let r := s.busRead (h.sqbase.toNat + 64 * (h.sqhead.toNat % h.sqsize.toNat)) 64
    let s1 := { s with host := { h with sqhead := h.sqhead + 1 } }
    if !h.configured then s1.refuseGraph r 4
    else { s1 with host := { s1.host with taken := h.taken ++ [(h.sqhead.toNat, r)] } }

/-- GRAPH_SUBMISSION (R373, R377, R388): the next record of the ring is taken, and the records taken go on. -/
def execGraphSubmission (s : State) : Out :=
  .next (if s.host.updating || !s.host.ready then s
    else
      let t := s.takeRecord
      t.submitNext true t.host.taken)

/-- A graph none of whose tasks has still to end (R378). -/
def Graph.finished (g : Graph) : Bool :=
  (List.range g.tcbs.length).all fun t => g.doneTasks.contains t || g.faultedTasks.contains t

/-- The end of a graph (R378): the completion record, and the interrupt after it. A replay that completed sets the failure
count to zero (R343); its reservations end. -/
def State.complete' (s : State) (g : Graph) : State :=
  let r := leBytes 4 g.id ++ zeros 12 ++ leBytes 8 g.done.toNat ++ zeros 8 ++ leBytes 2 g.vector ++ [BitVec.ofNat 8 (bit g.intr)] ++ zeros 29
  let body := g.doneTasks.length * 2 ^ 32 + g.faultedTasks.length * 2 ^ 48 + bit (decide (g.mode = 2)) * 2 ^ 64 + bit (decide (g.mode = 3)) * 2 ^ 65
  let s1 := { s with allocs := s.allocs.filter fun a => !(decide (a.owner = 0) && decide (a.graph.toNat = g.id)) }.completion r body
  let rest := s1.graphs.filter fun x => !(decide (x.id = g.id) && !x.settled)
  if g.mode = 2 then
    { s1.setDirField g.entry 40 4 0 with
      graphs := rest, replays := s1.replays.filter (fun x => decide (x.shape ≠ g.shape)) ++ [g] }
  else if g.complete then { s1 with graphs := rest ++ [{ g with settled := true }] }
  else { s1.abandon g 0 false with graphs := rest }

/-- GRAPH_COMPLETION (R378): by a packet core, which stands still while a new image is started (R386; log 119). A graph whose
replay a guard has ended is handed over first (R343). -/
def execGraphCompletion (graph : BitVec 32) (s : State) : Out :=
  .next (match s.graph graph.toNat with
    | none => s
    | some g => if g.finished && !s.host.updating && !(decide (g.mode = 2) && s.noticed g) then s.complete' g else s)

end Sys2Proof.Machine
end

