-- ==== Sys2Proof/Machine/Firmware.lean ====
section
/-! DEFINITION. The mailbox commands (R374, R379 to R382), patches and updates (R385, R386), attestation (R387), reset,
power and cooling (R388 to R390). -/

namespace Sys2Proof.Machine

/-- A mailbox command at work: it is the one in MBOX and the doorbell rings, or it is the one that runs already. -/
def State.command (s : State) (code : Nat) : Option State :=
  let h := s.host
  if !h.ready || h.updating then none
  else if h.busy then (if leAt h.cmd 0 1 = code then some s else none)
  else if leAt s.mboxBytes 0 1 = code then some s.ring
  else none

/-- A command run once its operands are checked: result 1 for a bad operand, result 2 where CONFIG must come first. -/
def State.mailbox (s : State) (code : Nat) (needs : Bool) (f : State → List Byte → State) : State :=
  match s.command code with
  | none => s
  | some s =>
    if !mboxOk s.host.cmd then s.answer 1
    else if needs && !s.host.configured then s.answer 2
    else f s s.host.cmd

/-- The source of a mailbox command's accesses. -/
def mailSource : Source := { waiter := .mailbox, core := 0, slot := 0, engine := 3 }

/-! ### CONFIG (R379) -/

/-- Cores of the module (R14). -/
def allCores : List Nat := (List.range 8).flatMap coresOf

/-- Pages of an octant that firmware takes for the pool: `n` of them from page `p` on, round its DRAM, clear of the areas;
at most `fuel` pages are looked at. -/
def takePages (areas : List (Nat × Nat)) (octant : Nat) : Nat → Nat → Nat → List Nat → List Nat
  | 0, _, _, acc => acc
  | _ + 1, _, 0, acc => acc
  | fuel + 1, p, n + 1, acc =>
    let a := octant * Config.octantBytes + p % 0x180000 * 65536
    if areas.any fun x => overlap a 65536 x.1 x.2 then takePages areas octant fuel (p + 1) (n + 1) acc
    else takePages areas octant fuel (p + 1) n (acc ++ [a])

/-- The areas a configuration record names: the directory, the capture area, the octants' spill areas. -/
def configAreas (r : List Byte) : List (Nat × Nat) :=
  (leAt r 8 8, 64 * leAt r 16 4) :: (leAt r 24 8, 4096 * 768) ::
    (List.range 8).map fun o => (leAt r 64 8 + o * Config.octantBytes, leAt r 72 4)

/-- The limits of a configuration record (R379), the pool's pages apart. -/
def configOk (r : List Byte) : Bool :=
  let winOk (o : Nat) : Bool := (windowOf (BitVec.ofNat 64 (leAt r o 8))).isSome && decide (leAt r o 8 / 2 ^ 23 % 2 ^ 10 = 0)
  decide (leAt r 0 4 = 1) && decide (leAt r 4 4 ≤ 0xC0000) &&
  decide (leAt r 8 8 % 4096 = 0) && decide (leAt r 8 8 + 64 * leAt r 16 4 ≤ Config.dramBytes) &&
  (List.range 11).any (fun i => decide (leAt r 16 4 = 1024 * 2 ^ i)) && zeroAt r 20 24 &&
  decide (leAt r 24 8 + 4096 * 768 ≤ Config.dramBytes) && winOk 40 && winOk 48 && decide (10 ≤ leAt r 56 2) && zeroAt r 58 64 &&
  decide (leAt r 64 8 % 4096 = 0) && decide (leAt r 72 4 % 4096 = 0) && decide (leAt r 64 8 + leAt r 72 4 ≤ Config.octantBytes) &&
  (decide (leAt r 64 8 ≠ 0) || decide (leAt r 72 4 = 0)) && zeroAt r 76 128

/-- A core set up: slots 4 and 5 get their TROOT and window, slot 5's runtime starts, and HBPER is loaded. -/
def State.configCore (s : State) (r : List Byte) (c : Nat) : State :=
  let troot := trootOf (leAt r 32 8)
  let win (o : Nat) : Word := BitVec.ofNat 64 ((leAt r o 8 + c * 2 ^ 23) &&& 0xF3FFFFF000)
  let s1 := s.modSlot (c * 8 + 4) fun x => { x with troot := troot, swin := Kv.put x.swin 0 (win 40) }
  let s2 := s1.modSlot (c * 8 + 5) fun x => { x with busy := true, troot := troot, swin := Kv.put x.swin 0 (win 48) }
  (s2.modCore c fun x => { x with hbper := BitVec.ofNat 16 (leAt r 56 2), hbmark := s.time }).setSeq (c * 32 + 23)
    { active := true, pc := Config.runtimeEntry c }

/-- A measurement extended (R387). -/
def State.measure (s : State) (i : Nat) (b : List Byte) : State :=
  { s with host := { s.host with measures := Kv.put s.host.measures i (Kv.get [] s.host.measures i ++ b) } }

/-- CONFIG (R374, R379): accepted once after each reset. -/
def execConfig (s : State) : Out :=
  .next (s.mailbox 1 false fun s m =>
    let r := s.busRead (leAt m 8 8) 128
    if s.host.configured || !configOk r then s.answer 1
    else
      let n := leAt r 4 4
      let x := s.choose 0x180000
      let pages := (List.range 8).map fun o => takePages (configAreas r) o 0x180000 x.2 n []
      if pages.any fun l => decide (l.length ≠ n) then s.answer 1
      else
        let s1 := { x.1 with
          pool := pages.flatten, dirBase := leAt r 8 8, dirEntries := leAt r 16 4, captureBase := leAt r 24 8
          spillBase := leAt r 64 8, spillBytes := leAt r 72 4, host := { x.1.host with configured := true, configuredAt := s.time } }
        ((allCores.foldl (fun s c => s.configCore r c) s1).measure 5 r).answer 0)

/-! ### LOAD, GANG, REDWIN (R374, R380, R382) -/

/-- A line that fails verification under a mailbox command (R96, R97, R419): no task waits for its fault, so the record goes
to the policy core (R351), and the command ends with a result. -/
def State.mailBad (s : State) (b : BadLine) (result : Nat) : State :=
  let r : TrapRec := { time := s.time, stream := 4, engine := 11, code := 7 : TrapRec }.withBad b
  ({ s.countSoft r with policy := s.policy ++ [PolicyRec.trap r] }).answer result

/-- The number under which a LOAD awaits the acknowledgements of what it sends to peers (R374, R381). -/
def State.loadNumber (s : State) : State :=
  if s.host.loadUid ≠ 0 then s else { s with nextUid := s.nextUid + 1, host := { s.host with loadUid := s.nextUid } }

/-- LOAD (R374): host bytes to module memory, with check words made at the hub. It ends when what it has sent to a gang peer's
memory is acknowledged (R381). -/
def execLoad (s : State) : Out :=
  .next (s.mailbox 2 true fun s m =>
    let n := leAt m 24 4
    let b := s.busRead (leAt m 8 8) n
    let d := s.host.moved
    let s := s.loadNumber
    match s.writeVirt mailSource (BitVec.ofNat 64 (leAt m 32 8)) (originTag 3 0) s.host.loadUid (n / 65536 + 2) (leAt m 16 8 + d) (b.drop d) d with
    | (s, d, .hold) => { s with host := { s.host with moved := d } }
    | (s, d, .ok _) =>
      if s.unacked.any fun u => u.1 == s.host.loadUid then { s with host := { s.host with moved := d } } else s.answer 0
    | (s, _, .bad b) => s.mailBad b 5
    | (s, _, .fault _ _) => s.answer 5)

/-- GANG (R380): the module's rank, and the fabric addresses of the members. A member whose list disagrees on the shape of
the gang is no peer; what lists the others hold is theirs, and which of them disagree is a choice, a bit for each rank (DESIGN
CHOICE, log 76). The module's own rank is no peer, so an address of kind 3 that names it has reason 6 (DESIGN CHOICE, log
96). -/
def execGang (s : State) : Out :=
  .next (s.mailbox 3 true fun s m =>
    let rank := leAt m 8 2
    let size := leAt m 10 2
    let b := s.busRead (leAt m 16 8) (8 * size)
    let x := s.choose (2 ^ 256)
    let s := x.1
    { s with
      peers := (List.range size).filter fun r => decide (r ≠ rank) && !x.2.testBit r
      host := { s.host with rank := rank, gang := (List.range size).map fun r => BitVec.ofNat 64 (leAt b (8 * r) 8) } }.answer 0)

/-- An unretired CPR to reduction window `i`: an element of it is at the switches, or its page is one of the window's
(R142, R382). -/
def State.toWindow (s : State) (i : Nat) (w : RedWin) (c : Cmd) : Bool :=
  decide (engineOf c.ins = 1) && decide ((cpMember c.ins).1 = 0) && !(cprOp c.ins).2 && !c.failed &&
  (s.contribs.any (fun x => decide (x.win = i) && decide (x.uid = c.uid)) ||
    (decide (w.base ≤ c.v1.toNat) && decide (c.v1.toNat < w.base + w.size) &&
      let e := s.walkAhead (s.slot (slotKey c.seqk)).troot c.v1.toNat { kind := 1, copy := true, atomic := true }
      decide (e.reason = 0) && decide (e.cls = 2)))

/-- Every unretired CPR to a window ends with the protection fault, and its open rounds are gone (R142, R382). -/
def State.endWindow (s : State) (i : Nat) : State :=
  match s.host.redwins.find? fun w => w.1 == i with
  | none => s
  | some w =>
    let s1 := { s with contribs := s.contribs.filter fun c => decide (c.win ≠ i) }
    (s.cmds.filter (s.toWindow i w.2)).foldl
      (fun s c => s.trapCopyFault { c with sent := 0 } 6 (c.off / reduceBytes (cprOp c.ins).1) c.v1.toNat) s1

/-- REDWIN (R382). -/
def execRedwin (s : State) : Out :=
  .next (s.mailbox 4 true fun s m =>
    let i := leAt m 8 1
    let r := s.busRead (leAt m 16 8) 64
    let n := leAt r 16 2
    let ranks := (List.range 256).filter fun k => decide (leAt r 32 32 / 2 ^ k % 2 = 1)
    let clear (s : State) : State := { s.endWindow i with host := { s.host with redwins := s.host.redwins.filter fun w => w.1 != i } }
    if ranks.length ≠ n ∨ ranks.any (fun k => decide (s.host.gang.length ≤ k)) = true ∨ (n ≠ 0 ∧ n ≤ leAt r 18 2) ∨
        leAt r 0 8 % 65536 ≠ 0 ∨ leAt r 8 8 % 65536 ≠ 0 ∨ zeroAt r 20 32 = false then s.answer 1
    else if n = 0 then (clear s).answer 0
    else
      let s1 := clear s
      { s1 with host := { s1.host with
          redwins := Kv.put s1.host.redwins i { base := leAt r 0 8, size := leAt r 8 8, home := leAt r 18 2, ranks := ranks } } }.answer 0)

/-! ### POOLRST, RELEASE, HOLDEND (R109, R353, R354, R374) -/

/-- A CA command that has started and not retired, or a trace that a replay holds. What has not started cannot while the
reset waits (R374), so it is not waited for. -/
def State.poolHeld (s : State) : Bool :=
  (s.cmds.any fun c => decide (caSub c.ins ≠ 0) && decide (c.phase ≠ .waiting) && !c.failed) ||
  s.graphs.any fun g => decide (g.mode = 2) && g.reserved

/-- POOLRST (R109, R374): every pool line free and the index empty. Fetched traces whose replay has not started are
fetched again afterwards. -/
def execPoolrst (s : State) : Out :=
  .next (s.mailbox 5 true fun s _ =>
    if s.poolHeld then
      { s with
        host := { s.host with poolrst := true }
        graphs := s.graphs.map fun (g : Graph) => if g.mode = 2 ∧ g.reserved = false then { g with image := [] } else g }
    else
      { s with
        caIndex := [], reclaimQ := []
        graphs := s.graphs.map fun (g : Graph) => if g.mode = 2 then { g with image := [] } else g }.answer 0)

/-- Owners of grants of a region whose tasks have neither a slot nor a place to resume from: their windows were kept for
the region's release (R353). -/
def State.orphans (s : State) (node : Nat) : List Nat :=
  (s.holders.filter fun h => h.regions.contains node && !(s.slots.any fun c => c.2.busy && decide (c.2.owner = h.owner)) &&
    !(s.saved.any fun v => decide (v.slot.owner = h.owner))).map (·.owner)

/-- RELEASE (R353, R374). -/
def execRelease (s : State) : Out :=
  .next (s.mailbox 6 true fun s m =>
    match s.blockAt mailSource (BitVec.ofNat 64 (leAt m 16 8)) (leAt m 8 8) false with
    | (s, .hold) => s
    | (s, .fault _ _) => s.answer 5
    | (s, .bad b) => s.mailBad b 1
    | (s, .ok node) =>
      if !s.haltedRegions.contains node then s.answer 1
      else
        let s1 := { s with haltedRegions := s.haltedRegions.filter (· ≠ node) }
        ((s1.orphans node).foldl (fun s o => s.returnGrants o false) s1).answer 0)

/-- HOLDEND of a held task found by its TCB (R354). -/
def State.holdEndWith (s : State) (last : Nat) (f : State → Saved → State) : State :=
  s.mailbox 7 true fun s m =>
    if leAt m 24 1 ≠ last then s
    else
      match s.blockAt mailSource (BitVec.ofNat 64 (leAt m 16 8)) (leAt m 8 8) true with
      | (s, .hold) => s
      | (s, .fault _ _) => s.answer 5
      | (s, .bad b) => s.mailBad b 1
      | (s, .ok at') =>
        match s.saved.find? fun v => v.held.isSome && decide (v.slot.tcbAt = at') with
        | none => s.answer 1
        | some v => (f s v).answer 0

/-- HOLDEND_RESUME (R354). -/
def execHoldendResume (s : State) : Out := .next (s.holdEndWith 0 fun s v => s.holdResume v)

/-- HOLDEND_END (R354). -/
def execHoldendEnd (s : State) : Out := .next (s.holdEndWith 1 fun s v => s.holdEnd v)

/-! ### Patches and updates (R385, R386) -/

/-- Version and patch level of the running image. -/
def State.running (s : State) : BitVec 24 :=
  ((if s.host.imageSlot then s.host.otherVersion else s.host.version) ++ s.host.patch : BitVec 24)

/-- PATCH (R385): signature, base version, then a wait until no kernel thread executes in a listed function: which of them
executes is not the model's to know, and a choice other than 0 says that one does. -/
def execPatch (s : State) : Out :=
  .next (s.mailbox 8 false fun s m =>
    let b := s.busRead (leAt m 8 8) (leAt m 16 4)
    if !Config.signatureOk b then s.answer 3
    else if Config.patchBase b ≠ s.running then s.answer 4
    else
      let x := s.choose 2
      if x.2 ≠ 0 then { x.1 with host := { x.1.host with since := some (x.1.host.since.getD s.time) } }
      else
        let h := x.1.host
        ({ x.1 with host := { h with table := Kv.put h.table (Config.patchEntry b) (Config.patchWord b), patch := h.patch + 1 } }.measure 4 b).answer 0)

/-- PATCH_WAIT_TIMEOUT (R385): result 6 after 10 s. -/
def execPatchWaitTimeout (s : State) : Out :=
  let h := s.host
  .next (match h.since with
    | some t => if h.busy && decide (leAt h.cmd 0 1 = 8) && decide (t.toNat + 10 ^ 10 ≤ s.time.toNat) then s.answer 6 else s
    | none => s)

/-- The image written to the slot not in use (R386), as its version tells. -/
def State.writeImage (s : State) (b : List Byte) : State :=
  let h := s.host
  let v := Config.imageVersion b
  { s with host := { h with
      version := if h.imageSlot then v else h.version, otherVersion := if h.imageSlot then h.otherVersion else v } }

/-- UPDATE (R386): the image goes to the slot not in use, then its signature is verified; the measurements of both images,
the handover structure, whose contents this state keeps, and the start of the new image. -/
def execUpdate (s : State) : Out :=
  .next (s.mailbox 9 false fun s m =>
    let b := s.busRead (leAt m 8 8) (leAt m 16 4)
    let s1 := s.writeImage b
    if !Config.signatureOk b then s1.answer 3
    else
      let s2 := (s1.measure 2 b).measure 3 b
      { s2 with host := { s2.host with updating := true, since := some s.time } })

/-- NEW_IMAGE_FIRST_HEARTBEAT (R386): within 500 ms of the start; the update is complete. The patch level of the new image
is a free value. -/
def execNewImageFirstHeartbeat (s : State) : Out :=
  let h := s.host
  .next (match h.since with
    | some t =>
      if h.updating && decide (s.time.toNat ≤ t.toNat + 500000000) then
        { s with
          fresh := s.fresh + 1
          host := { h with updating := false, imageSlot := !h.imageSlot, patch := (Config.freeWord s.fresh).setWidth 8 } }.answer 0
      else s
    | none => s)

/-- UPDATE_ROLLBACK (R386): no heartbeat within 500 ms; the old slot runs again. -/
def execUpdateRollback (s : State) : Out :=
  let h := s.host
  .next (match h.since with
    | some t =>
      if h.updating && decide (t.toNat + 500000000 ≤ s.time.toNat) then { s with host := { h with updating := false } }.answer 6 else s
    | none => s)

/-! ### Attestation (R387) -/

/-- A response over DOE. -/
def State.respond (s : State) (b : List Byte) : State := { s with host := { s.host with sent := s.host.sent ++ [.doe b] } }

/-- The SPDM error UnspecifiedError. -/
def spdmError : List Byte := [0x13, 0x7F, 0x05, 0x00]

/-- A signed response: the signing index rises, until every signature is spent. -/
def State.signedResponse (s : State) (content : List Byte) : State :=
  if 2 ^ 20 ≤ s.host.signed then s.respond spdmError
  else { s with host := { s.host with signed := s.host.signed + 1 } }.respond (Config.spdmResponse (s.host.signed + 1) content)

/-- CHALLENGE (R387). -/
def execChallenge (s : State) : Out := .next (if s.host.updating then s else s.signedResponse (s.host.measures.flatMap (·.2)))

/-- The content that a measurement index selects: index 0xFF stands for all of them. -/
def State.measured (s : State) (i : Nat) : List Byte :=
  if i = 0xFF then s.host.measures.flatMap (·.2) else Kv.get [] s.host.measures i

/-- GET_MEASUREMENTS (R387). -/
def execGetMeasurements (index : BitVec 8) (signed : Bool) (s : State) : Out :=
  .next (if s.host.updating then s
    else if signed then s.signedResponse (s.measured index.toNat) else s.respond (Config.spdmResponse 0 (s.measured index.toNat)))

/-! ### Reset, power and cooling (R333, R388 to R390) -/

/-- What a module reset measures (R387): the boot ROM, and the policy and packet-core images that it starts. -/
def bootMeasures (version : BitVec 16) : List (Nat × List Byte) :=
  [(1, Config.bootContent 1 0), (2, Config.bootContent 2 version), (3, Config.bootContent 3 version)]

/-- MODULE_RESET (R388): links and DRAM trained, every memory of the module filled with zeros, the firmware started. Host
memory and peers' memory, the two image slots and the count of signatures outlast it. Slot A's image is taken unless it
fails its check, which a choice other than 0 says. The boot ROM and the two images started are measured (R387). -/
def execModuleReset (octants : BitVec 8) (ports : BitVec 18) (host : Bool) (s : State) : Out :=
  let x := s.choose 2
  let h := s.host
  .next { State.reset with
    mem := s.mem.filter fun c => decide (2 * 2 ^ 50 ≤ c.1)
    health := BitVec.ofNat 64 (octants.toNat + ports.toNat * 2 ^ 8 + bit host * 2 ^ 26)
    host := { ready := true, imageSlot := decide (x.2 ≠ 0), version := h.version, otherVersion := h.otherVersion, signed := h.signed
              measures := bootMeasures (if x.2 = 0 then h.version else h.otherVersion) }
    fresh := s.fresh, eager := s.eager, agenda := s.agenda, choices := x.1.choices, softs := s.softs, stalls := s.stalls, elapse := s.elapse }

/-- A bit of HEALTH follows its unit (R333). -/
def State.setHealth (s : State) (i : Nat) (up : Bool) : State :=
  { s with health := if up then s.health ||| BitVec.ofNat 64 (2 ^ i) else s.health &&& ~~~(BitVec.ofNat 64 (2 ^ i)) }

/-- HOST_LINK_STATE_CHANGE (R333). -/
def execHostLinkStateChange (up : Bool) (s : State) : Out := .next (s.setHealth 26 up)

/-- ADOSH_PORT_STATE_CHANGE (R333). -/
def execAdoshPortStateChange (port : Nat) (up : Bool) (s : State) : Out := .next (if port < 18 then s.setHealth (8 + port) up else s)

/-- HIGH_TEMPERATURE_POINT (R389): all-bank refresh from 85 °C on. -/
def execHighTemperaturePoint (octant : Nat) (s : State) : Out :=
  .next { s with host := { s.host with hot := (s.host.hot ++ [octant]).eraseDups } }

/-- THROT of an octant (R333): whether pulses are swallowed, and how many of 65,536 over the last 10 µs. -/
def State.setThrot (s : State) (octant : Nat) (on : Bool) (ratio : Nat) : State :=
  { s with throt := Kv.put s.throt octant (BitVec.ofNat 64 (ratio % 65536 + 65536 * bit on)) }

/-- THERMAL_THROTTLE (R389): from 95 °C on. How many pulses go is not stated. -/
def execThermalThrottle (octant : Nat) (s : State) : Out :=
  .next ({ s with
    fresh := s.fresh + 1
    host := { s.host with throttled := (s.host.throttled ++ [octant]).eraseDups } }.setThrot octant true (bits (Config.freeWord s.fresh) 0 16))

/-- THERMAL_THROTTLE_END (R389): below 90 °C. Pulses are swallowed from here on only where the power limit has them
swallowed (R332, R333). The count over the last 10 µs is what it was (DESIGN CHOICE, log 134). -/
def execThermalThrottleEnd (octant : Nat) (s : State) : Out :=
  .next ({ s with host := { s.host with throttled := s.host.throttled.filter (· ≠ octant) } }.setThrot octant
    (s.host.limited.contains octant) (bits (Kv.get 0 s.throt octant) 0 16))

/-- THERMAL_HALT (R389): the octant is halted under the heartbeat rules, and the host gets an uncorrectable internal
error. -/
def execThermalHalt (octant : Nat) (s : State) : Out :=
  let s1 := ((coresOf octant).foldl (fun s c => s.haltCore c) s).setHealth octant false
  .next { s1 with host := { s1.host with sent := s1.host.sent ++ [.aer] } }

/-- POWER_LIMIT_THROTTLE (R332, R389): pulses swallowed for one octant. -/
def execPowerLimitThrottle (octant : Nat) (ratio : BitVec 16) (s : State) : Out :=
  let rest := s.host.limited.filter (· ≠ octant)
  .next ({ s with host := { s.host with limited := if ratio = 0 then rest else rest ++ [octant] } }.setThrot octant
    (decide (ratio ≠ 0) || s.host.throttled.contains octant) ratio.toNat)

/-- COOLANT_FLOW_SHORTFALL (R390): 0.6 kW off the module's limit for each 1 L/min below 12. -/
def execCoolantFlowShortfall (flow : Nat) (s : State) : Out := .next { s with host := { s.host with limit := 72 - 6 * (12 - flow) } }

end Sys2Proof.Machine
end

