-- ==== Sys2Proof/Machine/Fps.lean ====
section
/-! DEFINITION. Scalar FP32 (R177 to R179), one meaning per instruction. -/

namespace Sys2Proof.Machine

/-- The rounding mode of an FPS word in its sequencer's present state (R41, R67, R177). -/
def State.fpsMode (s : State) (k : Nat) (r : BitVec 2) : Rm :=
  match r.toNat with
  | 0 => .rne
  | 1 => .rz
  | _ => .sr (draw (s.slot (slotKey k)).seed (if roleOf k = 1 then 1 else 2) 0 (s.seq k).srcnt.toNat)

/-- SRCNT rises by one for each issued .sr instruction (R177). -/
def State.countSr (s : State) (k : Nat) (r : BitVec 2) : State :=
  if r.toNat = 2 then s.modSeq k fun q => { q with srcnt := q.srcnt + 1 } else s

/-- The FP32 value in a scalar register's low half (R177). -/
def State.freg (s : State) (k : Nat) (r : BitVec 5) : FVal := val32 ((s.reg k r).toNat % 2 ^ 32)

/-- An FPS member that rounds an exact value into rd (R178); rm 11 is reserved (R41). -/
def fpsRound (f : State → FVal) (d : BitVec 5) (uses : List (BitVec 5)) (r : BitVec 2) (t : BitVec 4) (s : State) :
    Out :=
  .next (issueShort ⟨rolesXH, decide (r ≠ 3), t, uses, false, some d⟩ preGo
    (fun s =>
      .go (((s.setReg s.cur d (BitVec.ofNat 64 (round32 (s.fpsMode s.cur r) (f s)))).countSr s.cur r).adv s.cur 4)) s)

/-- An FPS member without rounding (R178). -/
def fpsExact (f : State → Word) (d : BitVec 5) (uses : List (BitVec 5)) (t : BitVec 4) (s : State)
    (slow : Option (BitVec 5) := some d) : Out :=
  .next (issueShort ⟨rolesXH, true, t, uses, false, slow⟩ preGo (writeReg d f) s)

def execFadd (d a b : BitVec 5) (r : BitVec 2) (t : BitVec 4) (s : State) : Out :=
  fpsRound (fun s => (s.freg s.cur a).add (s.freg s.cur b)) d [d, a, b] r t s
def execFsub (d a b : BitVec 5) (r : BitVec 2) (t : BitVec 4) (s : State) : Out :=
  fpsRound (fun s => (s.freg s.cur a).sub (s.freg s.cur b)) d [d, a, b] r t s
def execFmul (d a b : BitVec 5) (r : BitVec 2) (t : BitVec 4) (s : State) : Out :=
  fpsRound (fun s => (s.freg s.cur a).mul (s.freg s.cur b)) d [d, a, b] r t s
def execFdiv (d a b : BitVec 5) (r : BitVec 2) (t : BitVec 4) (s : State) : Out :=
  fpsRound (fun s => (s.freg s.cur a).div (s.freg s.cur b)) d [d, a, b] r t s
def execFsqrt (d a : BitVec 5) (r : BitVec 2) (t : BitVec 4) (s : State) : Out :=
  fpsRound (fun s => (s.freg s.cur a).sqrt) d [d, a] r t s
/-- FMAC: rd + rs1 × rs2 with one rounding (R178). -/
def execFmac (d a b : BitVec 5) (r : BitVec 2) (t : BitVec 4) (s : State) : Out :=
  fpsRound (fun s => (s.freg s.cur d).add ((s.freg s.cur a).mul (s.freg s.cur b))) d [d, a, b] r t s
def execFmin (d a b : BitVec 5) (t : BitVec 4) (s : State) : Out :=
  fpsExact (fun s => BitVec.ofNat 64 (round32 .rne ((s.freg s.cur a).min (s.freg s.cur b)))) d [d, a, b] t s
def execFmax (d a b : BitVec 5) (t : BitVec 4) (s : State) : Out :=
  fpsExact (fun s => BitVec.ofNat 64 (round32 .rne ((s.freg s.cur a).max (s.freg s.cur b)))) d [d, a, b] t s
def execFeq (d a b : BitVec 5) (t : BitVec 4) (s : State) : Out :=
  fpsExact (fun s => flag ((s.freg s.cur a).eq (s.freg s.cur b))) d [d, a, b] t s
def execFlt (d a b : BitVec 5) (t : BitVec 4) (s : State) : Out :=
  fpsExact (fun s => flag ((s.freg s.cur a).lt (s.freg s.cur b))) d [d, a, b] t s
def execFle (d a b : BitVec 5) (t : BitVec 4) (s : State) : Out :=
  fpsExact (fun s => flag ((s.freg s.cur a).le (s.freg s.cur b))) d [d, a, b] t s
/-- FITOF: a signed 64-bit integer rounded to FP32 (R178). -/
def execFitof (d a : BitVec 5) (r : BitVec 2) (t : BitVec 4) (s : State) : Out :=
  fpsRound (fun s => ofInt (s.reg s.cur a).toInt 0 false) d [d, a] r t s
/-- FFTOI: the row's one-bit mode field is 0 for RNE and 1 for RZ (R41, R178). -/
def execFftoi (d a : BitVec 5) (r : BitVec 1) (t : BitVec 4) (s : State) : Out :=
  fpsExact (fun s => BitVec.ofInt 64 (toSigned 64 (if r = 1 then .rz else .rne) (s.freg s.cur a))) d [d, a] t s
/-- FLI: a BF16 pattern extended to FP32 (R69, R179). -/
def execFli (d : BitVec 5) (i : BitVec 16) (t : BitVec 4) (s : State) : Out :=
  fpsExact (fun _ => BitVec.ofNat 64 (round32 .rne (decodeF bf16 i.toNat))) d [d] t s none

end Sys2Proof.Machine
end

