-- ==== Sys2Proof/Machine/Micro.lean ====
section
/-! DEFINITION. The micro-orders (R212 to R224), one meaning each. A micro-order executes on the current run of the
vector engine of the core that the model runs now. -/

namespace Sys2Proof.Machine

/-- VNOP (R224). -/
def execVnop (s : State) : Out := .next (microOrder 0 (fun s _ => .ok s) s)
/-- VMOV (R219). -/
def execVmov (d a : BitVec 7) (g : BitVec 4) (s : State) : Out := .next (vLane1 id d a g s)
/-- VSEL (R219): the mask selects; every lane is written. -/
def execVsel (d a b : BitVec 7) (k : BitVec 3) (s : State) : Out :=
  .next (microOrder 0 (fun s c =>
    let sk := slotKey c.seqk
    .ok (s.setVreg sk d (BitVec.allOnes 128)
      (mergeLanes (s.vmask sk k.toNat) (s.vreg sk b) (s.vreg sk a)))) s)

/-! ### Floating point (R213, R214) -/

def execVaddF32 (d a b : BitVec 7) (g : BitVec 4) (s : State) : Out := .next (vFloat2 fp32 FVal.add d a b g s)
def execVaddBf16 (d a b : BitVec 7) (g : BitVec 4) (s : State) : Out := .next (vFloat2 bf16 FVal.add d a b g s)
def execVaddF16 (d a b : BitVec 7) (g : BitVec 4) (s : State) : Out := .next (vFloat2 fp16 FVal.add d a b g s)
def execVsubF32 (d a b : BitVec 7) (g : BitVec 4) (s : State) : Out := .next (vFloat2 fp32 FVal.sub d a b g s)
def execVsubBf16 (d a b : BitVec 7) (g : BitVec 4) (s : State) : Out := .next (vFloat2 bf16 FVal.sub d a b g s)
def execVsubF16 (d a b : BitVec 7) (g : BitVec 4) (s : State) : Out := .next (vFloat2 fp16 FVal.sub d a b g s)
def execVmulF32 (d a b : BitVec 7) (g : BitVec 4) (s : State) : Out := .next (vFloat2 fp32 FVal.mul d a b g s)
def execVmulBf16 (d a b : BitVec 7) (g : BitVec 4) (s : State) : Out := .next (vFloat2 bf16 FVal.mul d a b g s)
def execVmulF16 (d a b : BitVec 7) (g : BitVec 4) (s : State) : Out := .next (vFloat2 fp16 FVal.mul d a b g s)
def execVfmaF32 (d a b : BitVec 7) (g : BitVec 4) (s : State) : Out := .next (vFma fp32 false d a b g s)
def execVfmaBf16 (d a b : BitVec 7) (g : BitVec 4) (s : State) : Out := .next (vFma bf16 false d a b g s)
def execVfmaF16 (d a b : BitVec 7) (g : BitVec 4) (s : State) : Out := .next (vFma fp16 false d a b g s)
def execVfmsF32 (d a b : BitVec 7) (g : BitVec 4) (s : State) : Out := .next (vFma fp32 true d a b g s)
def execVfmsBf16 (d a b : BitVec 7) (g : BitVec 4) (s : State) : Out := .next (vFma bf16 true d a b g s)
def execVfmsF16 (d a b : BitVec 7) (g : BitVec 4) (s : State) : Out := .next (vFma fp16 true d a b g s)
def execVminF32 (d a b : BitVec 7) (g : BitVec 4) (s : State) : Out := .next (vFloat2 fp32 FVal.min d a b g s)
def execVminBf16 (d a b : BitVec 7) (g : BitVec 4) (s : State) : Out := .next (vFloat2 bf16 FVal.min d a b g s)
def execVminF16 (d a b : BitVec 7) (g : BitVec 4) (s : State) : Out := .next (vFloat2 fp16 FVal.min d a b g s)
def execVmaxF32 (d a b : BitVec 7) (g : BitVec 4) (s : State) : Out := .next (vFloat2 fp32 FVal.max d a b g s)
def execVmaxBf16 (d a b : BitVec 7) (g : BitVec 4) (s : State) : Out := .next (vFloat2 bf16 FVal.max d a b g s)
def execVmaxF16 (d a b : BitVec 7) (g : BitVec 4) (s : State) : Out := .next (vFloat2 fp16 FVal.max d a b g s)
def execVabsF32 (d a : BitVec 7) (g : BitVec 4) (s : State) : Out := .next (vFloat1 fp32 FVal.abs d a g s)
def execVabsBf16 (d a : BitVec 7) (g : BitVec 4) (s : State) : Out := .next (vFloat1 bf16 FVal.abs d a g s)
def execVabsF16 (d a : BitVec 7) (g : BitVec 4) (s : State) : Out := .next (vFloat1 fp16 FVal.abs d a g s)
def execVnegF32 (d a : BitVec 7) (g : BitVec 4) (s : State) : Out := .next (vFloat1 fp32 FVal.neg d a g s)
def execVnegBf16 (d a : BitVec 7) (g : BitVec 4) (s : State) : Out := .next (vFloat1 bf16 FVal.neg d a g s)
def execVnegF16 (d a : BitVec 7) (g : BitVec 4) (s : State) : Out := .next (vFloat1 fp16 FVal.neg d a g s)
def execVsqrt (d a : BitVec 7) (g : BitVec 4) (s : State) : Out := .next (vFloat1 fp32 FVal.sqrt d a g s)
def execVrcp (d a : BitVec 7) (g : BitVec 4) (s : State) : Out := .next (vFloat1 fp32 FVal.rcp d a g s)
def execVrsq (d a : BitVec 7) (g : BitVec 4) (s : State) : Out := .next (vFloat1 fp32 FVal.rsqrt d a g s)
def execVexp2 (d a : BitVec 7) (g : BitVec 4) (s : State) : Out := .next (vFloat1 fp32 FVal.exp2 d a g s)
def execVlog2 (d a : BitVec 7) (g : BitVec 4) (s : State) : Out := .next (vFloat1 fp32 FVal.log2 d a g s)
def execVtanh (d a : BitVec 7) (g : BitVec 4) (s : State) : Out := .next (vFloat1 fp32 FVal.tanh d a g s)

/-! ### Integers and logic (R215) -/

def execViaddI32 (d a b : BitVec 7) (g : BitVec 4) (s : State) : Out :=
  .next (vInt2 32 (fun x y => x + y) d a b g s)
def execViaddI16 (d a b : BitVec 7) (g : BitVec 4) (s : State) : Out :=
  .next (vInt2 16 (fun x y => x + y) d a b g s)
def execViaddI8 (d a b : BitVec 7) (g : BitVec 4) (s : State) : Out := .next (vInt2 8 (fun x y => x + y) d a b g s)
def execVisubI32 (d a b : BitVec 7) (g : BitVec 4) (s : State) : Out := .next (vInt2 32 (intSub 32) d a b g s)
def execVisubI16 (d a b : BitVec 7) (g : BitVec 4) (s : State) : Out := .next (vInt2 16 (intSub 16) d a b g s)
def execVisubI8 (d a b : BitVec 7) (g : BitVec 4) (s : State) : Out := .next (vInt2 8 (intSub 8) d a b g s)
def execVimulI32 (d a b : BitVec 7) (g : BitVec 4) (s : State) : Out :=
  .next (vInt2 32 (fun x y => x * y) d a b g s)
def execVimulI16 (d a b : BitVec 7) (g : BitVec 4) (s : State) : Out :=
  .next (vInt2 16 (fun x y => x * y) d a b g s)
def execVimulI8 (d a b : BitVec 7) (g : BitVec 4) (s : State) : Out := .next (vInt2 8 (fun x y => x * y) d a b g s)
def execViminI32 (d a b : BitVec 7) (g : BitVec 4) (s : State) : Out := .next (vInt2 32 (intMin 32) d a b g s)
def execViminI16 (d a b : BitVec 7) (g : BitVec 4) (s : State) : Out := .next (vInt2 16 (intMin 16) d a b g s)
def execViminI8 (d a b : BitVec 7) (g : BitVec 4) (s : State) : Out := .next (vInt2 8 (intMin 8) d a b g s)
def execVimaxI32 (d a b : BitVec 7) (g : BitVec 4) (s : State) : Out := .next (vInt2 32 (intMax 32) d a b g s)
def execVimaxI16 (d a b : BitVec 7) (g : BitVec 4) (s : State) : Out := .next (vInt2 16 (intMax 16) d a b g s)
def execVimaxI8 (d a b : BitVec 7) (g : BitVec 4) (s : State) : Out := .next (vInt2 8 (intMax 8) d a b g s)
def execViaddsI32 (d a b : BitVec 7) (g : BitVec 4) (s : State) : Out := .next (vInt2 32 (intAdds 32) d a b g s)
def execViaddsI16 (d a b : BitVec 7) (g : BitVec 4) (s : State) : Out := .next (vInt2 16 (intAdds 16) d a b g s)
def execViaddsI8 (d a b : BitVec 7) (g : BitVec 4) (s : State) : Out := .next (vInt2 8 (intAdds 8) d a b g s)
def execVand (d a b : BitVec 7) (g : BitVec 4) (s : State) : Out := .next (vLane2 (fun x y => x &&& y) d a b g s)
def execVor (d a b : BitVec 7) (g : BitVec 4) (s : State) : Out := .next (vLane2 (fun x y => x ||| y) d a b g s)
def execVxor (d a b : BitVec 7) (g : BitVec 4) (s : State) : Out := .next (vLane2 (fun x y => x ^^^ y) d a b g s)
def execVsll (d a b : BitVec 7) (g : BitVec 4) (s : State) : Out :=
  .next (vLane2 (fun x y => x <<< (y.toNat % 32)) d a b g s)
def execVsrl (d a b : BitVec 7) (g : BitVec 4) (s : State) : Out :=
  .next (vLane2 (fun x y => x >>> (y.toNat % 32)) d a b g s)
def execVsra (d a b : BitVec 7) (g : BitVec 4) (s : State) : Out :=
  .next (vLane2 (fun x y => x.sshiftRight (y.toNat % 32)) d a b g s)

/-! ### Compares and masks (R216) -/

def execVcmpeqF32 (k : BitVec 3) (a b : BitVec 7) (g : BitVec 4) (s : State) : Out :=
  .next (vCmp (fun x y => (val32 x.toNat).eq (val32 y.toNat)) k a b g s)
def execVcmpeqI32 (k : BitVec 3) (a b : BitVec 7) (g : BitVec 4) (s : State) : Out :=
  .next (vCmp (fun x y => decide (x = y)) k a b g s)
def execVcmpltF32 (k : BitVec 3) (a b : BitVec 7) (g : BitVec 4) (s : State) : Out :=
  .next (vCmp (fun x y => (val32 x.toNat).lt (val32 y.toNat)) k a b g s)
def execVcmpltI32 (k : BitVec 3) (a b : BitVec 7) (g : BitVec 4) (s : State) : Out :=
  .next (vCmp (fun x y => x.slt y) k a b g s)
def execVcmpleF32 (k : BitVec 3) (a b : BitVec 7) (g : BitVec 4) (s : State) : Out :=
  .next (vCmp (fun x y => (val32 x.toNat).le (val32 y.toNat)) k a b g s)
def execVcmpleI32 (k : BitVec 3) (a b : BitVec 7) (g : BitVec 4) (s : State) : Out :=
  .next (vCmp (fun x y => x.sle y) k a b g s)
def execKand (k m n : BitVec 3) (g : BitVec 4) (s : State) : Out :=
  .next (kop k g (fun s c => s.vmask (slotKey c.seqk) m.toNat &&& s.vmask (slotKey c.seqk) n.toNat) s)
def execKor (k m n : BitVec 3) (g : BitVec 4) (s : State) : Out :=
  .next (kop k g (fun s c => s.vmask (slotKey c.seqk) m.toNat ||| s.vmask (slotKey c.seqk) n.toNat) s)
def execKnot (k m : BitVec 3) (g : BitVec 4) (s : State) : Out :=
  .next (kop k g (fun s c => ~~~(s.vmask (slotKey c.seqk) m.toNat)) s)
def execKmov (k : BitVec 3) (a : BitVec 7) (g : BitVec 4) (s : State) : Out :=
  .next (kop k g (fun s c => maskOf fun j => decide (lane (s.vreg (slotKey c.seqk) a) j ≠ 0)) s)

/-! ### Conversions (R217) -/

def execVcvtBf16F32 (d a : BitVec 7) (g : BitVec 4) (s : State) : Out := .next (vCvt (cvtFrom32 bf16) d a g s)
def execVcvtF16F32 (d a : BitVec 7) (g : BitVec 4) (s : State) : Out := .next (vCvt (cvtFrom32 fp16) d a g s)
def execVcvtF32Bf16 (d a : BitVec 7) (g : BitVec 4) (s : State) : Out := .next (vCvt (cvtTo32 bf16) d a g s)
def execVcvtF32F16 (d a : BitVec 7) (g : BitVec 4) (s : State) : Out := .next (vCvt (cvtTo32 fp16) d a g s)
def execVcvtFp8aF32 (d a : BitVec 7) (g : BitVec 4) (s : State) : Out := .next (vCvt (cvtFrom32 fp8a) d a g s)
def execVcvtFp8bF32 (d a : BitVec 7) (g : BitVec 4) (s : State) : Out := .next (vCvt (cvtFrom32 fp8b) d a g s)
def execVcvtF32Fp8a (d a : BitVec 7) (g : BitVec 4) (s : State) : Out := .next (vCvt (cvtTo32 fp8a) d a g s)
def execVcvtF32Fp8b (d a : BitVec 7) (g : BitVec 4) (s : State) : Out := .next (vCvt (cvtTo32 fp8b) d a g s)
def execVcvtI32F32 (d a : BitVec 7) (g : BitVec 4) (s : State) : Out := .next (vCvt cvtI32F32 d a g s)
def execVcvtF32I32 (d a : BitVec 7) (g : BitVec 4) (s : State) : Out := .next (vCvt cvtF32I32 d a g s)
def execVcvtFp4xF32 (d a : BitVec 7) (g : BitVec 4) (s : State) : Out := .next (vCvt cvtFp4F32 d a g s)
def execVcvtF32Fp4x (d a : BitVec 7) (g : BitVec 4) (s : State) : Out := .next (vCvt cvtF32Fp4 d a g s)

/-! ### Reductions (R218) -/

def execVrsumF32 (d a : BitVec 7) (g : BitVec 4) (s : State) : Out :=
  .next (vReduce (fun l => BitVec.ofNat 32 (round32 .rne (np3 (leaves .zero l)))) d a g s)
def execVrsumI32 (d a : BitVec 7) (g : BitVec 4) (s : State) : Out :=
  .next (vReduce (fun l => l.foldl (fun x y => x + y.getD 0) 0) d a g s)
def execVrmax (d a : BitVec 7) (g : BitVec 4) (s : State) : Out :=
  .next (vReduce (fun l => BitVec.ofNat 32 (round32 .rne (tree128 FVal.max .nan (leaves (.inf true) l)))) d a g s)
def execVrmin (d a : BitVec 7) (g : BitVec 4) (s : State) : Out :=
  .next (vReduce (fun l => BitVec.ofNat 32 (round32 .rne (tree128 FVal.min .nan (leaves (.inf false) l)))) d a g s)

/-! ### Permutes and packs (R219, R220) -/

def execVperm (d a b : BitVec 7) (g : BitVec 4) (s : State) : Out :=
  .next (vop d g (fun s c =>
    let x := s.vreg (slotKey c.seqk) a
    let y := s.vreg (slotKey c.seqk) b
    ofLanes fun j => lane x ((lane y j).toNat % 128)) s)
def execVrot (d a b : BitVec 7) (g : BitVec 4) (s : State) : Out :=
  .next (vop d g (fun s c =>
    let x := s.vreg (slotKey c.seqk) a
    let t := (lane (s.vreg (slotKey c.seqk) b) 0).toNat % 128
    ofLanes fun j => lane x ((j + t) % 128)) s)
def execVbcast (d a l : BitVec 7) (g : BitVec 4) (s : State) : Out :=
  .next (vop d g (fun s c => ofLanes fun _ => lane (s.vreg (slotKey c.seqk) a) l.toNat) s)
def execVpack (d a b : BitVec 7) (g : BitVec 4) (s : State) : Out :=
  .next (vLane2 (fun x y => (x &&& 0xFFFF) ||| (y <<< 16)) d a b g s)
def execVunpkl (d a : BitVec 7) (g : BitVec 4) (s : State) : Out := .next (vLane1 (fun x => x &&& 0xFFFF) d a g s)
def execVunpkh (d a : BitVec 7) (g : BitVec 4) (s : State) : Out := .next (vLane1 (fun x => x >>> 16) d a g s)

/-! ### Data queues (R221) -/

/-- VPOP: waits until the head entry of its queue is filled. -/
def execVpop (d : BitVec 7) (q : BitVec 2) (g : BitVec 3) (s : State) : Out :=
  .next (microOrder g.toNat (fun s c =>
    let sk := slotKey c.seqk
    if 4 ≤ slotNum sk then .fault 1 3 0 none
    else
      match Kv.get [] (s.slot sk).queues q.toNat with
      | ⟨_, some b⟩ :: rest =>
        .ok ((s.modSlot sk fun x => { x with queues := Kv.put x.queues q.toNat rest }).setVreg sk d
          (BitVec.allOnes 128) (vregOf b))
      | _ => .hold) s)
/-- VPUSH: waits until its queue has a free entry. -/
def execVpush (q : BitVec 1) (a : BitVec 7) (g : BitVec 3) (s : State) : Out :=
  .next (microOrder g.toNat (fun s c =>
    let sk := slotKey c.seqk
    let l := Kv.get [] (s.slot sk).queues (4 + q.toNat)
    if 4 ≤ slotNum sk then .fault 1 3 0 none
    else if 8 ≤ l.length then .hold
    else
      .ok (s.modSlot sk fun x =>
        { x with queues := Kv.put x.queues (4 + q.toNat) (l ++ [DqEntry.mk 0 (some (vregBytes (s.vreg sk a)))]) })) s)

/-! ### Rows of tiles and accumulators (R222) -/

def execVtr (d : BitVec 7) (t x p : BitVec 3) (g : BitVec 4) (s : State) : Out :=
  .next (rowOp false t.toNat x.toNat p.toNat g (fun s c row =>
    let sk := slotKey c.seqk
    let a := s.tileAddr sk t.toNat (row * 512)
    match s.verify .tile a 512 with
    | some b => .fault 7 6 a (some b)
    | none => .ok (s.setVreg sk d (s.guardMask sk g.toNat) (vregOf (s.bytes .tile a 512)))) s)
def execVtw (d : BitVec 7) (t x p : BitVec 3) (g : BitVec 4) (s : State) : Out :=
  .next (rowOp false t.toNat x.toNat p.toNat g (fun s c row =>
    let sk := slotKey c.seqk
    match s.writeTileRow sk t.toNat row (s.guardMask sk g.toNat) (s.vreg sk d) with
    | .error b => .fault 7 6 b.addr (some b)
    | .ok s => .ok s) s)
def execVar (d : BitVec 7) (t : BitVec 2) (x p : BitVec 3) (g : BitVec 4) (s : State) : Out :=
  .next (rowOp true t.toNat x.toNat p.toNat g (fun s c row =>
    let sk := slotKey c.seqk
    .ok (s.setVreg sk d (s.guardMask sk g.toNat) (s.accRow sk t.toNat row))) s)
def execVaw (d : BitVec 7) (t : BitVec 2) (x p : BitVec 3) (g : BitVec 4) (s : State) : Out :=
  .next (rowOp true t.toNat x.toNat p.toNat g (fun s c row =>
    let sk := slotKey c.seqk
    .ok (s.setAccRow sk t.toNat row
      (mergeLanes (s.guardMask sk g.toNat) (s.accRow sk t.toNat row) (s.vreg sk d)))) s)

/-! ### Index registers, spill memory, immediates (R223, R224) -/

def execVixs (x : BitVec 3) (i : BitVec 16) (s : State) : Out :=
  .next (microOrder 0 (fun s c => .ok (s.setIndex (slotKey c.seqk) x.toNat i)) s)
def execVixa (x : BitVec 3) (i : BitVec 16) (s : State) : Out :=
  .next (microOrder 0 (fun s c =>
    .ok (s.setIndex (slotKey c.seqk) x.toNat (s.index (slotKey c.seqk) x.toNat + i))) s)
def execVspl (d : BitVec 7) (v : BitVec 4) (s : State) : Out :=
  .next (microOrder 0 (fun s c =>
    let sk := slotKey c.seqk
    if !s.spillOk sk v.toNat then .fault 4 5 (512 * v.toNat) none
    else
      let b := vregBytes (s.vreg sk d)
      .ok { s with spill := (List.range 64).foldl (fun m w =>
        Kv.put m (sk * 1024 + 64 * v.toNat + w) (BitVec.ofNat 64 (leAt b (8 * w) 8))) s.spill }) s)
def execVfil (d : BitVec 7) (v : BitVec 4) (s : State) : Out :=
  .next (microOrder 0 (fun s c =>
    let sk := slotKey c.seqk
    if !s.spillOk sk v.toNat then .fault 4 5 (512 * v.toNat) none
    else
      .ok (s.setVreg sk d (BitVec.allOnes 128) (vregOf ((List.range 64).flatMap fun w =>
        leBytes 8 (Kv.get 0 s.spill (sk * 1024 + 64 * v.toNat + w)).toNat)))) s)
def execVmoviF32 (d : BitVec 7) (i : BitVec 16) (s : State) : Out :=
  .next (vop d 0 (fun _ _ => ofElems 32 fun _ => moviFloat fp32 i) s)
def execVmoviBf16 (d : BitVec 7) (i : BitVec 16) (s : State) : Out :=
  .next (vop d 0 (fun _ _ => ofElems 16 fun _ => moviFloat bf16 i) s)
def execVmoviF16 (d : BitVec 7) (i : BitVec 16) (s : State) : Out :=
  .next (vop d 0 (fun _ _ => ofElems 16 fun _ => moviFloat fp16 i) s)
def execVmoviI32 (d : BitVec 7) (i : BitVec 16) (s : State) : Out :=
  .next (vop d 0 (fun _ _ => ofElems 32 fun _ => (sx i).toNat) s)
def execVmoviI16 (d : BitVec 7) (i : BitVec 16) (s : State) : Out :=
  .next (vop d 0 (fun _ _ => ofElems 16 fun _ => (sx i).toNat) s)
def execVmoviI8 (d : BitVec 7) (i : BitVec 16) (s : State) : Out :=
  .next (vop d 0 (fun _ _ => ofElems 8 fun _ => (sx i).toNat) s)

/-- RESERVED_OP7 (R48, R210): a malformed micro-order stops the run at it, whatever its guard. -/
def execReservedOp7 (_word : BitVec 32) (s : State) : Out := .next (microOrder 0 (fun _ _ => .fault 1 1 0 none) s)

end Sys2Proof.Machine
end

