-- ==== Sys2Proof/Machine/Dispatch.lean ====
section
/-! DEFINITION. The dispatch: one arm for each constructor of the instructions, each one direct call of its meaning. -/

namespace Sys2Proof.Machine

/-- The meaning of an instruction of the current sequencer, of a micro-order of the current run, or of a step of the
module. -/
def exec (i : Instr) (s : State) : Host.Outcome State Fault Refusal :=
  match i with
  | .add d a b t => Sys2Proof.Machine.execAdd d a b t s
  | .sub d a b t => Sys2Proof.Machine.execSub d a b t s
  | .and d a b t => Sys2Proof.Machine.execAnd d a b t s
  | .or d a b t => Sys2Proof.Machine.execOr d a b t s
  | .xor d a b t => Sys2Proof.Machine.execXor d a b t s
  | .andn d a b t => Sys2Proof.Machine.execAndn d a b t s
  | .orn d a b t => Sys2Proof.Machine.execOrn d a b t s
  | .sll d a b t => Sys2Proof.Machine.execSll d a b t s
  | .srl d a b t => Sys2Proof.Machine.execSrl d a b t s
  | .sra d a b t => Sys2Proof.Machine.execSra d a b t s
  | .ror d a b t => Sys2Proof.Machine.execRor d a b t s
  | .slt d a b t => Sys2Proof.Machine.execSlt d a b t s
  | .sltu d a b t => Sys2Proof.Machine.execSltu d a b t s
  | .min d a b t => Sys2Proof.Machine.execMin d a b t s
  | .max d a b t => Sys2Proof.Machine.execMax d a b t s
  | .minu d a b t => Sys2Proof.Machine.execMinu d a b t s
  | .maxu d a b t => Sys2Proof.Machine.execMaxu d a b t s
  | .mul d a b t => Sys2Proof.Machine.execMul d a b t s
  | .mulh d a b t => Sys2Proof.Machine.execMulh d a b t s
  | .mulhu d a b t => Sys2Proof.Machine.execMulhu d a b t s
  | .div d a b t => Sys2Proof.Machine.execDiv d a b t s
  | .divu d a b t => Sys2Proof.Machine.execDivu d a b t s
  | .rem d a b t => Sys2Proof.Machine.execRem d a b t s
  | .remu d a b t => Sys2Proof.Machine.execRemu d a b t s
  | .addw d a b t => Sys2Proof.Machine.execAddw d a b t s
  | .subw d a b t => Sys2Proof.Machine.execSubw d a b t s
  | .clz d a t => Sys2Proof.Machine.execClz d a t s
  | .ctz d a t => Sys2Proof.Machine.execCtz d a t s
  | .popc d a t => Sys2Proof.Machine.execPopc d a t s
  | .sextw d a t => Sys2Proof.Machine.execSextw d a t s
  | .zextw d a t => Sys2Proof.Machine.execZextw d a t s
  | .pack d a b t => Sys2Proof.Machine.execPack d a b t s
  | .sh1add d a b t => Sys2Proof.Machine.execSh1add d a b t s
  | .sh2add d a b t => Sys2Proof.Machine.execSh2add d a b t s
  | .sh3add d a b t => Sys2Proof.Machine.execSh3add d a b t s
  | .addi d a imm t => Sys2Proof.Machine.execAddi d a imm t s
  | .andi d a imm t => Sys2Proof.Machine.execAndi d a imm t s
  | .ori d a imm t => Sys2Proof.Machine.execOri d a imm t s
  | .xori d a imm t => Sys2Proof.Machine.execXori d a imm t s
  | .slli d a n t => Sys2Proof.Machine.execSlli d a n t s
  | .srli d a n t => Sys2Proof.Machine.execSrli d a n t s
  | .srai d a n t => Sys2Proof.Machine.execSrai d a n t s
  | .rori d a n t => Sys2Proof.Machine.execRori d a n t s
  | .slti d a imm t => Sys2Proof.Machine.execSlti d a imm t s
  | .sltiu d a imm t => Sys2Proof.Machine.execSltiu d a imm t s
  | .lui d imm => Sys2Proof.Machine.execLui d imm s
  | .adpc d imm => Sys2Proof.Machine.execAdpc d imm s
  | .ld d a w imm t => Sys2Proof.Machine.execLd d a w imm t s
  | .ldu d a w imm t => Sys2Proof.Machine.execLdu d a w imm t s
  | .st b a w imm t => Sys2Proof.Machine.execSt b a w imm t s
  | .sts b a w imm t => Sys2Proof.Machine.execSts b a w imm t s
  | .ldsp d o t => Sys2Proof.Machine.execLdsp d o t s
  | .stsp n o t => Sys2Proof.Machine.execStsp n o t s
  | .amoadd d a b o w t => Sys2Proof.Machine.execAmoadd d a b o w t s
  | .amoand d a b o w t => Sys2Proof.Machine.execAmoand d a b o w t s
  | .amoor d a b o w t => Sys2Proof.Machine.execAmoor d a b o w t s
  | .amoxor d a b o w t => Sys2Proof.Machine.execAmoxor d a b o w t s
  | .amomin d a b o w t => Sys2Proof.Machine.execAmomin d a b o w t s
  | .amomax d a b o w t => Sys2Proof.Machine.execAmomax d a b o w t s
  | .amominu d a b o w t => Sys2Proof.Machine.execAmominu d a b o w t s
  | .amomaxu d a b o w t => Sys2Proof.Machine.execAmomaxu d a b o w t s
  | .amoswap d a b o w t => Sys2Proof.Machine.execAmoswap d a b o w t s
  | .amocas d a b o w t => Sys2Proof.Machine.execAmocas d a b o w t s
  | .amofadd d a b o t => Sys2Proof.Machine.execAmofadd d a b o t s
  | .fence n k t => Sys2Proof.Machine.execFence n k t s
  | .mark t => Sys2Proof.Machine.execMark t s
  | .beq a b o => Sys2Proof.Machine.execBeq a b o s
  | .bne a b o => Sys2Proof.Machine.execBne a b o s
  | .blt a b o => Sys2Proof.Machine.execBlt a b o s
  | .bge a b o => Sys2Proof.Machine.execBge a b o s
  | .bltu a b o => Sys2Proof.Machine.execBltu a b o s
  | .bgeu a b o => Sys2Proof.Machine.execBgeu a b o s
  | .bcqs n o => Sys2Proof.Machine.execBcqs n o s
  | .bcqc n o => Sys2Proof.Machine.execBcqc n o s
  | .bcqsK n o => Sys2Proof.Machine.execBcqsK n o s
  | .bcqcK n o => Sys2Proof.Machine.execBcqcK n o s
  | .jal d o => Sys2Proof.Machine.execJal d o s
  | .jalr d a imm t => Sys2Proof.Machine.execJalr d a imm t s
  | .cqp a imm t => Sys2Proof.Machine.execCqp a imm t s
  | .evpost n e t => Sys2Proof.Machine.execEvpost n e t s
  | .evwait n e t => Sys2Proof.Machine.execEvwait n e t s
  | .evclr d e t => Sys2Proof.Machine.execEvclr d e t s
  | .wfe t => Sys2Proof.Machine.execWfe t s
  | .csrr d n t => Sys2Proof.Machine.execCsrr d n t s
  | .csrw d a n t => Sys2Proof.Machine.execCsrw d a n t s
  | .csrs d a n t => Sys2Proof.Machine.execCsrs d a n t s
  | .csrc d a n t => Sys2Proof.Machine.execCsrc d a n t s
  | .nop t => Sys2Proof.Machine.execNop t s
  | .trap c t => Sys2Proof.Machine.execTrap c t s
  | .hbeat t => Sys2Proof.Machine.execHbeat t s
  | .yield t => Sys2Proof.Machine.execYield t s
  | .exit a t => Sys2Proof.Machine.execExit a t s
  | .cwait a t => Sys2Proof.Machine.execCwait a t s
  | .fadd d a b r t => Sys2Proof.Machine.execFadd d a b r t s
  | .fsub d a b r t => Sys2Proof.Machine.execFsub d a b r t s
  | .fmul d a b r t => Sys2Proof.Machine.execFmul d a b r t s
  | .fdiv d a b r t => Sys2Proof.Machine.execFdiv d a b r t s
  | .fsqrt d a r t => Sys2Proof.Machine.execFsqrt d a r t s
  | .fmac d a b r t => Sys2Proof.Machine.execFmac d a b r t s
  | .fmin d a b t => Sys2Proof.Machine.execFmin d a b t s
  | .fmax d a b t => Sys2Proof.Machine.execFmax d a b t s
  | .feq d a b t => Sys2Proof.Machine.execFeq d a b t s
  | .flt d a b t => Sys2Proof.Machine.execFlt d a b t s
  | .fle d a b t => Sys2Proof.Machine.execFle d a b t s
  | .fitof d a r t => Sys2Proof.Machine.execFitof d a r t s
  | .fftoi d a r t => Sys2Proof.Machine.execFftoi d a r t s
  | .fli d imm t => Sys2Proof.Machine.execFli d imm t s
  | .tcfg a n t => Sys2Proof.Machine.execTcfg a n t s
  | .mcfg a n t => Sys2Proof.Machine.execMcfg a n t s
  | .barr d a t => Sys2Proof.Machine.execBarr d a t s
  | .bwait d a b t => Sys2Proof.Machine.execBwait d a b t s
  | .frd d a t => Sys2Proof.Machine.execFrd d a t s
  | .fwr a b t => Sys2Proof.Machine.execFwr a b t s
  | .depdec a t => Sys2Proof.Machine.execDepdec a t s
  | .trig t => Sys2Proof.Machine.execTrig t s
  | .shapew a n t => Sys2Proof.Machine.execShapew a n t s
  | .gshape a imm t => Sys2Proof.Machine.execGshape a imm t s
  | .gbr a imm t => Sys2Proof.Machine.execGbr a imm t s
  | .ghlth a imm t => Sys2Proof.Machine.execGhlth a imm t s
  | .vld q a imm t => Sys2Proof.Machine.execVld q a imm t s
  | .vst q a imm t => Sys2Proof.Machine.execVst q a imm t s
  | .cpy ds ss a b c x => Sys2Proof.Machine.execCpy ds ss a b c x s
  | .cpy2 ds ss a b c x => Sys2Proof.Machine.execCpy2 ds ss a b c x s
  | .cpy3 ds ss a b c x => Sys2Proof.Machine.execCpy3 ds ss a b c x s
  | .cpg ds ss a b c x => Sys2Proof.Machine.execCpg ds ss a b c x s
  | .cps ds ss a b c x => Sys2Proof.Machine.execCps ds ss a b c x s
  | .cpf ds a b c x => Sys2Proof.Machine.execCpf ds a b c x s
  | .cpm ss a b c x => Sys2Proof.Machine.execCpm ss a b c x s
  | .cpq ss q b c x => Sys2Proof.Machine.execCpq ss q b c x s
  | .cprFaddF32 ds a b c x => Sys2Proof.Machine.execCprFaddF32 ds a b c x s
  | .cprAddI32 ds a b c x => Sys2Proof.Machine.execCprAddI32 ds a b c x s
  | .cprAddI64 ds a b c x => Sys2Proof.Machine.execCprAddI64 ds a b c x s
  | .cprMaxF32 ds a b c x => Sys2Proof.Machine.execCprMaxF32 ds a b c x s
  | .cprMinF32 ds a b c x => Sys2Proof.Machine.execCprMinF32 ds a b c x s
  | .cprMaxI32 ds a b c x => Sys2Proof.Machine.execCprMaxI32 ds a b c x s
  | .cprMinI32 ds a b c x => Sys2Proof.Machine.execCprMinI32 ds a b c x s
  | .vrun a b c x => Sys2Proof.Machine.execVrun a b c x s
  | .tbload d a b c x => Sys2Proof.Machine.execTbload d a b c x s
  | .mgo x => Sys2Proof.Machine.execMgo x s
  | .tld n a b c x => Sys2Proof.Machine.execTld n a b c x s
  | .tst n a b c x => Sys2Proof.Machine.execTst n a b c x s
  | .afill n a b c x => Sys2Proof.Machine.execAfill n a b c x s
  | .adrn n a b c x => Sys2Proof.Machine.execAdrn n a b c x s
  | .tbind d a b c x => Sys2Proof.Machine.execTbind d a b c x s
  | .tmul d a c x => Sys2Proof.Machine.execTmul d a c x s
  | .tmac d a c x => Sys2Proof.Machine.execTmac d a c x s
  | .tadd d a c x => Sys2Proof.Machine.execTadd d a c x s
  | .tsub d a c x => Sys2Proof.Machine.execTsub d a c x s
  | .thad d a c x => Sys2Proof.Machine.execThad d a c x s
  | .tscl d a b c x => Sys2Proof.Machine.execTscl d a b c x s
  | .ttrn d a c x => Sys2Proof.Machine.execTtrn d a c x s
  | .tcvt d a c x => Sys2Proof.Machine.execTcvt d a c x s
  | .tact d a b c x => Sys2Proof.Machine.execTact d a b c x s
  | .tstore a b c x => Sys2Proof.Machine.execTstore a b c x s
  | .tforce a x => Sys2Proof.Machine.execTforce a x s
  | .tdrop a x => Sys2Proof.Machine.execTdrop a x s
  | .miterPoly fb rel d a b c x => Sys2Proof.Machine.execMiterPoly fb rel d a b c x s
  | .miterNs fb rel d a b c x => Sys2Proof.Machine.execMiterNs fb rel d a b c x s
  | .miterInv fb rel d a b c x => Sys2Proof.Machine.execMiterInv fb rel d a b c x s
  | .caput d a b x => Sys2Proof.Machine.execCaput d a b x s
  | .canode d a b x => Sys2Proof.Machine.execCanode d a b x s
  | .cahash a b c x => Sys2Proof.Machine.execCahash a b c x s
  | .caget a b c x => Sys2Proof.Machine.execCaget a b c x s
  | .cawalk a b c x => Sys2Proof.Machine.execCawalk a b c x s
  | .caref d a b x => Sys2Proof.Machine.execCaref d a b x s
  | .caswap d a b c x => Sys2Proof.Machine.execCaswap d a b c x s
  | .caout a b c x => Sys2Proof.Machine.execCaout a b c x s
  | .capin d a x => Sys2Proof.Machine.execCapin d a x s
  | .spawn d a b c x => Sys2Proof.Machine.execSpawn d a b c x s
  | .reservedEncoding word => Sys2Proof.Machine.execReservedEncoding word s
  | .reservedOp7 word => Sys2Proof.Machine.execReservedOp7 word s
  | .vnop => Sys2Proof.Machine.execVnop s
  | .vmov d a g => Sys2Proof.Machine.execVmov d a g s
  | .vsel d a b g => Sys2Proof.Machine.execVsel d a b g s
  | .vaddF32 d a b g => Sys2Proof.Machine.execVaddF32 d a b g s
  | .vaddBf16 d a b g => Sys2Proof.Machine.execVaddBf16 d a b g s
  | .vaddF16 d a b g => Sys2Proof.Machine.execVaddF16 d a b g s
  | .vsubF32 d a b g => Sys2Proof.Machine.execVsubF32 d a b g s
  | .vsubBf16 d a b g => Sys2Proof.Machine.execVsubBf16 d a b g s
  | .vsubF16 d a b g => Sys2Proof.Machine.execVsubF16 d a b g s
  | .vmulF32 d a b g => Sys2Proof.Machine.execVmulF32 d a b g s
  | .vmulBf16 d a b g => Sys2Proof.Machine.execVmulBf16 d a b g s
  | .vmulF16 d a b g => Sys2Proof.Machine.execVmulF16 d a b g s
  | .vfmaF32 d a b g => Sys2Proof.Machine.execVfmaF32 d a b g s
  | .vfmaBf16 d a b g => Sys2Proof.Machine.execVfmaBf16 d a b g s
  | .vfmaF16 d a b g => Sys2Proof.Machine.execVfmaF16 d a b g s
  | .vfmsF32 d a b g => Sys2Proof.Machine.execVfmsF32 d a b g s
  | .vfmsBf16 d a b g => Sys2Proof.Machine.execVfmsBf16 d a b g s
  | .vfmsF16 d a b g => Sys2Proof.Machine.execVfmsF16 d a b g s
  | .vminF32 d a b g => Sys2Proof.Machine.execVminF32 d a b g s
  | .vminBf16 d a b g => Sys2Proof.Machine.execVminBf16 d a b g s
  | .vminF16 d a b g => Sys2Proof.Machine.execVminF16 d a b g s
  | .vmaxF32 d a b g => Sys2Proof.Machine.execVmaxF32 d a b g s
  | .vmaxBf16 d a b g => Sys2Proof.Machine.execVmaxBf16 d a b g s
  | .vmaxF16 d a b g => Sys2Proof.Machine.execVmaxF16 d a b g s
  | .vabsF32 d a g => Sys2Proof.Machine.execVabsF32 d a g s
  | .vabsBf16 d a g => Sys2Proof.Machine.execVabsBf16 d a g s
  | .vabsF16 d a g => Sys2Proof.Machine.execVabsF16 d a g s
  | .vnegF32 d a g => Sys2Proof.Machine.execVnegF32 d a g s
  | .vnegBf16 d a g => Sys2Proof.Machine.execVnegBf16 d a g s
  | .vnegF16 d a g => Sys2Proof.Machine.execVnegF16 d a g s
  | .vsqrt d a g => Sys2Proof.Machine.execVsqrt d a g s
  | .vrcp d a g => Sys2Proof.Machine.execVrcp d a g s
  | .vrsq d a g => Sys2Proof.Machine.execVrsq d a g s
  | .vexp2 d a g => Sys2Proof.Machine.execVexp2 d a g s
  | .vlog2 d a g => Sys2Proof.Machine.execVlog2 d a g s
  | .vtanh d a g => Sys2Proof.Machine.execVtanh d a g s
  | .viaddI32 d a b g => Sys2Proof.Machine.execViaddI32 d a b g s
  | .viaddI16 d a b g => Sys2Proof.Machine.execViaddI16 d a b g s
  | .viaddI8 d a b g => Sys2Proof.Machine.execViaddI8 d a b g s
  | .visubI32 d a b g => Sys2Proof.Machine.execVisubI32 d a b g s
  | .visubI16 d a b g => Sys2Proof.Machine.execVisubI16 d a b g s
  | .visubI8 d a b g => Sys2Proof.Machine.execVisubI8 d a b g s
  | .vimulI32 d a b g => Sys2Proof.Machine.execVimulI32 d a b g s
  | .vimulI16 d a b g => Sys2Proof.Machine.execVimulI16 d a b g s
  | .vimulI8 d a b g => Sys2Proof.Machine.execVimulI8 d a b g s
  | .viminI32 d a b g => Sys2Proof.Machine.execViminI32 d a b g s
  | .viminI16 d a b g => Sys2Proof.Machine.execViminI16 d a b g s
  | .viminI8 d a b g => Sys2Proof.Machine.execViminI8 d a b g s
  | .vimaxI32 d a b g => Sys2Proof.Machine.execVimaxI32 d a b g s
  | .vimaxI16 d a b g => Sys2Proof.Machine.execVimaxI16 d a b g s
  | .vimaxI8 d a b g => Sys2Proof.Machine.execVimaxI8 d a b g s
  | .viaddsI32 d a b g => Sys2Proof.Machine.execViaddsI32 d a b g s
  | .viaddsI16 d a b g => Sys2Proof.Machine.execViaddsI16 d a b g s
  | .viaddsI8 d a b g => Sys2Proof.Machine.execViaddsI8 d a b g s
  | .vand d a b g => Sys2Proof.Machine.execVand d a b g s
  | .vor d a b g => Sys2Proof.Machine.execVor d a b g s
  | .vxor d a b g => Sys2Proof.Machine.execVxor d a b g s
  | .vsll d a b g => Sys2Proof.Machine.execVsll d a b g s
  | .vsrl d a b g => Sys2Proof.Machine.execVsrl d a b g s
  | .vsra d a b g => Sys2Proof.Machine.execVsra d a b g s
  | .vcmpeqF32 k a b g => Sys2Proof.Machine.execVcmpeqF32 k a b g s
  | .vcmpeqI32 k a b g => Sys2Proof.Machine.execVcmpeqI32 k a b g s
  | .vcmpltF32 k a b g => Sys2Proof.Machine.execVcmpltF32 k a b g s
  | .vcmpltI32 k a b g => Sys2Proof.Machine.execVcmpltI32 k a b g s
  | .vcmpleF32 k a b g => Sys2Proof.Machine.execVcmpleF32 k a b g s
  | .vcmpleI32 k a b g => Sys2Proof.Machine.execVcmpleI32 k a b g s
  | .vcvtBf16F32 d a g => Sys2Proof.Machine.execVcvtBf16F32 d a g s
  | .vcvtF16F32 d a g => Sys2Proof.Machine.execVcvtF16F32 d a g s
  | .vcvtF32Bf16 d a g => Sys2Proof.Machine.execVcvtF32Bf16 d a g s
  | .vcvtF32F16 d a g => Sys2Proof.Machine.execVcvtF32F16 d a g s
  | .vcvtFp8aF32 d a g => Sys2Proof.Machine.execVcvtFp8aF32 d a g s
  | .vcvtFp8bF32 d a g => Sys2Proof.Machine.execVcvtFp8bF32 d a g s
  | .vcvtF32Fp8a d a g => Sys2Proof.Machine.execVcvtF32Fp8a d a g s
  | .vcvtF32Fp8b d a g => Sys2Proof.Machine.execVcvtF32Fp8b d a g s
  | .vcvtI32F32 d a g => Sys2Proof.Machine.execVcvtI32F32 d a g s
  | .vcvtF32I32 d a g => Sys2Proof.Machine.execVcvtF32I32 d a g s
  | .vcvtFp4xF32 d a g => Sys2Proof.Machine.execVcvtFp4xF32 d a g s
  | .vcvtF32Fp4x d a g => Sys2Proof.Machine.execVcvtF32Fp4x d a g s
  | .vrsumF32 d a g => Sys2Proof.Machine.execVrsumF32 d a g s
  | .vrmax d a g => Sys2Proof.Machine.execVrmax d a g s
  | .vrmin d a g => Sys2Proof.Machine.execVrmin d a g s
  | .vrsumI32 d a g => Sys2Proof.Machine.execVrsumI32 d a g s
  | .vperm d a b g => Sys2Proof.Machine.execVperm d a b g s
  | .vrot d a b g => Sys2Proof.Machine.execVrot d a b g s
  | .vbcast d a l g => Sys2Proof.Machine.execVbcast d a l g s
  | .vpack d a b g => Sys2Proof.Machine.execVpack d a b g s
  | .vunpkl d a g => Sys2Proof.Machine.execVunpkl d a g s
  | .vunpkh d a g => Sys2Proof.Machine.execVunpkh d a g s
  | .vpop d q g => Sys2Proof.Machine.execVpop d q g s
  | .vpush q a g => Sys2Proof.Machine.execVpush q a g s
  | .vtr d n x p g => Sys2Proof.Machine.execVtr d n x p g s
  | .vtw d n x p g => Sys2Proof.Machine.execVtw d n x p g s
  | .var d n x p g => Sys2Proof.Machine.execVar d n x p g s
  | .vaw d n x p g => Sys2Proof.Machine.execVaw d n x p g s
  | .vixs x imm => Sys2Proof.Machine.execVixs x imm s
  | .vixa x imm => Sys2Proof.Machine.execVixa x imm s
  | .vspl d v => Sys2Proof.Machine.execVspl d v s
  | .vfil d v => Sys2Proof.Machine.execVfil d v s
  | .vmoviF32 d imm => Sys2Proof.Machine.execVmoviF32 d imm s
  | .vmoviBf16 d imm => Sys2Proof.Machine.execVmoviBf16 d imm s
  | .vmoviF16 d imm => Sys2Proof.Machine.execVmoviF16 d imm s
  | .vmoviI32 d imm => Sys2Proof.Machine.execVmoviI32 d imm s
  | .vmoviI16 d imm => Sys2Proof.Machine.execVmoviI16 d imm s
  | .vmoviI8 d imm => Sys2Proof.Machine.execVmoviI8 d imm s
  | .kand k m n g => Sys2Proof.Machine.execKand k m n g s
  | .kor k m n g => Sys2Proof.Machine.execKor k m n g s
  | .knot k m g => Sys2Proof.Machine.execKnot k m g s
  | .kmov k a g => Sys2Proof.Machine.execKmov k a g s
  | .instructionFetch key => Sys2Proof.Machine.execInstructionFetch key s
  | .commandStart uid units => Sys2Proof.Machine.execCommandStart uid units s
  | .commandRetire uid => Sys2Proof.Machine.execCommandRetire uid s
  | .loadPerform key => Sys2Proof.Machine.execLoadPerform key s
  | .storePerform key => Sys2Proof.Machine.execStorePerform key s
  | .pageWalk key va write => Sys2Proof.Machine.execPageWalk key va write s
  | .retry req => Sys2Proof.Machine.execRetry req s
  | .decline req => Sys2Proof.Machine.execDecline req s
  | .shootdown asid lo hi => Sys2Proof.Machine.execShootdown asid lo hi s
  | .handlerQueueAccept core => Sys2Proof.Machine.execHandlerQueueAccept core s
  | .handlerStart core => Sys2Proof.Machine.execHandlerStart core s
  | .cprArrival uid => Sys2Proof.Machine.execCprArrival uid s
  | .cprAdmit core => Sys2Proof.Machine.execCprAdmit core s
  | .cprRefusedRetry uid => Sys2Proof.Machine.execCprRefusedRetry uid s
  | .roundClose win => Sys2Proof.Machine.execRoundClose win s
  | .adoshRead src pa lines => Sys2Proof.Machine.execAdoshRead src pa lines s
  | .adoshWrite src pa data => Sys2Proof.Machine.execAdoshWrite src pa data s
  | .adoshReadResponse src pa data => Sys2Proof.Machine.execAdoshReadResponse src pa data s
  | .adoshWriteAcknowledgement src pa => Sys2Proof.Machine.execAdoshWriteAcknowledgement src pa s
  | .adoshReductionContribution src win pa data => Sys2Proof.Machine.execAdoshReductionContribution src win pa data s
  | .stopNotice shape ver task gid => Sys2Proof.Machine.execStopNotice shape ver task gid s
  | .traceFetch src shape => Sys2Proof.Machine.execTraceFetch src shape s
  | .reclaimer octant => Sys2Proof.Machine.execReclaimer octant s
  | .caPoolWaitTimeout uid => Sys2Proof.Machine.execCaPoolWaitTimeout uid s
  | .dispatchDecision octant => Sys2Proof.Machine.execDispatchDecision octant s
  | .taskLaunch octant => Sys2Proof.Machine.execTaskLaunch octant s
  | .taskResume octant => Sys2Proof.Machine.execTaskResume octant s
  | .aging octant tcb => Sys2Proof.Machine.execAging octant tcb s
  | .ringRefill octant rcb => Sys2Proof.Machine.execRingRefill octant rcb s
  | .overflowRingUnmapped octant rcb => Sys2Proof.Machine.execOverflowRingUnmapped octant rcb s
  | .spawnStallTimeout uid => Sys2Proof.Machine.execSpawnStallTimeout uid s
  | .checkpoint slot reason => Sys2Proof.Machine.execCheckpoint slot reason s
  | .teamQuantumExpiry team => Sys2Proof.Machine.execTeamQuantumExpiry team s
  | .faultStop slot => Sys2Proof.Machine.execFaultStop slot s
  | .futureWaiterDecrement => Sys2Proof.Machine.execFutureWaiterDecrement s
  | .heartbeatTimer core => Sys2Proof.Machine.execHeartbeatTimer core s
  | .heartbeatLoss core => Sys2Proof.Machine.execHeartbeatLoss core s
  | .captureCheckpointTimeout slot => Sys2Proof.Machine.execCaptureCheckpointTimeout slot s
  | .patrolScrub line found => Sys2Proof.Machine.execPatrolScrub line found s
  | .replayTraceFetch graph => Sys2Proof.Machine.execReplayTraceFetch graph s
  | .replayTaskStart core => Sys2Proof.Machine.execReplayTaskStart core s
  | .semaphorePost core sem => Sys2Proof.Machine.execSemaphorePost core sem s
  | .commandInjection core stream => Sys2Proof.Machine.execCommandInjection core stream s
  | .traceIntern graph => Sys2Proof.Machine.execTraceIntern graph s
  | .refiner shape => Sys2Proof.Machine.execRefiner shape s
  | .gangTraceFetch shape entry lines => Sys2Proof.Machine.execGangTraceFetch shape entry lines s
  | .graphSubmission => Sys2Proof.Machine.execGraphSubmission s
  | .graphCompletion graph => Sys2Proof.Machine.execGraphCompletion graph s
  | .wake tail => Sys2Proof.Machine.execWake tail s
  | .sqbaseWrite val => Sys2Proof.Machine.execSqbaseWrite val s
  | .sqsizeWrite val => Sys2Proof.Machine.execSqsizeWrite val s
  | .mbdoorWhileBusy => Sys2Proof.Machine.execMbdoorWhileBusy s
  | .bar0RegisterWrite off val => Sys2Proof.Machine.execBar0RegisterWrite off val s
  | .config => Sys2Proof.Machine.execConfig s
  | .load => Sys2Proof.Machine.execLoad s
  | .gang => Sys2Proof.Machine.execGang s
  | .redwin => Sys2Proof.Machine.execRedwin s
  | .poolrst => Sys2Proof.Machine.execPoolrst s
  | .release => Sys2Proof.Machine.execRelease s
  | .holdendResume => Sys2Proof.Machine.execHoldendResume s
  | .holdendEnd => Sys2Proof.Machine.execHoldendEnd s
  | .patch => Sys2Proof.Machine.execPatch s
  | .update => Sys2Proof.Machine.execUpdate s
  | .updateRollback => Sys2Proof.Machine.execUpdateRollback s
  | .challenge => Sys2Proof.Machine.execChallenge s
  | .getMeasurements index signed => Sys2Proof.Machine.execGetMeasurements index signed s
  | .moduleReset octants ports host => Sys2Proof.Machine.execModuleReset octants ports host s
  | .hostLinkStateChange up => Sys2Proof.Machine.execHostLinkStateChange up s
  | .adoshPortStateChange port up => Sys2Proof.Machine.execAdoshPortStateChange port up s
  | .highTemperaturePoint octant => Sys2Proof.Machine.execHighTemperaturePoint octant s
  | .thermalThrottle octant => Sys2Proof.Machine.execThermalThrottle octant s
  | .thermalHalt octant => Sys2Proof.Machine.execThermalHalt octant s
  | .powerLimitThrottle octant ratio => Sys2Proof.Machine.execPowerLimitThrottle octant ratio s
  | .coolantFlowShortfall flow => Sys2Proof.Machine.execCoolantFlowShortfall flow s
  | .thaWrite val => Sys2Proof.Machine.execThaWrite val s
  | .mictlWrite val => Sys2Proof.Machine.execMictlWrite val s
  | .ixloIxhiWrite high val => Sys2Proof.Machine.execIxloIxhiWrite high val s
  | .seedWrite val => Sys2Proof.Machine.execSeedWrite val s
  | .vectorRunSwitch core => Sys2Proof.Machine.execVectorRunSwitch core s
  | .internPoolWaitTimeout graph => Sys2Proof.Machine.execInternPoolWaitTimeout graph s
  | .patchWaitTimeout => Sys2Proof.Machine.execPatchWaitTimeout s
  | .newImageFirstHeartbeat => Sys2Proof.Machine.execNewImageFirstHeartbeat s
  | .thermalThrottleEnd octant => Sys2Proof.Machine.execThermalThrottleEnd octant s
  | .mbdoorUnknownCode => Sys2Proof.Machine.execMbdoorUnknownCode s

end Sys2Proof.Machine
end

