-- ==== Sys2Proof/Machine/Microcode.lean ====
section
/-! DEFINITION. The micro-order that a word of the micro-order store stands for, executed (R46 to R48): the decoder and
the dispatcher of micro-orders in one, so that it can run; `execMicro_eq` in Laws/Step.lean says that it is
`exec (decodeMicro w)`. -/

namespace Sys2Proof.Machine

/-- The micro-order word `w` executed on the current run. -/
def execMicro (w : Nat) (s : State) : Out :=
  match w / 2 ^ 25 % 2 ^ 7 with
  | 1 => if w / 2 ^ 0 % 2 ^ 25 = 0 then execVnop s else execReservedOp7 (BitVec.ofNat 32 w) s
  | 2 => if w / 2 ^ 4 % 2 ^ 7 = 0 then execVmov (fld w 18 7) (fld w 11 7) (fld w 0 4) s else execReservedOp7 (BitVec.ofNat 32 w) s
  | 3 => if w / 2 ^ 3 % 2 ^ 1 = 1 then execVsel (fld w 18 7) (fld w 11 7) (fld w 4 7) (fld w 0 3) s else execReservedOp7 (BitVec.ofNat 32 w) s
  | 4 => execVaddF32 (fld w 18 7) (fld w 11 7) (fld w 4 7) (fld w 0 4) s
  | 5 => execVaddBf16 (fld w 18 7) (fld w 11 7) (fld w 4 7) (fld w 0 4) s
  | 6 => execVaddF16 (fld w 18 7) (fld w 11 7) (fld w 4 7) (fld w 0 4) s
  | 7 => execVsubF32 (fld w 18 7) (fld w 11 7) (fld w 4 7) (fld w 0 4) s
  | 8 => execVsubBf16 (fld w 18 7) (fld w 11 7) (fld w 4 7) (fld w 0 4) s
  | 9 => execVsubF16 (fld w 18 7) (fld w 11 7) (fld w 4 7) (fld w 0 4) s
  | 10 => execVmulF32 (fld w 18 7) (fld w 11 7) (fld w 4 7) (fld w 0 4) s
  | 11 => execVmulBf16 (fld w 18 7) (fld w 11 7) (fld w 4 7) (fld w 0 4) s
  | 12 => execVmulF16 (fld w 18 7) (fld w 11 7) (fld w 4 7) (fld w 0 4) s
  | 13 => execVfmaF32 (fld w 18 7) (fld w 11 7) (fld w 4 7) (fld w 0 4) s
  | 14 => execVfmaBf16 (fld w 18 7) (fld w 11 7) (fld w 4 7) (fld w 0 4) s
  | 15 => execVfmaF16 (fld w 18 7) (fld w 11 7) (fld w 4 7) (fld w 0 4) s
  | 16 => execVfmsF32 (fld w 18 7) (fld w 11 7) (fld w 4 7) (fld w 0 4) s
  | 17 => execVfmsBf16 (fld w 18 7) (fld w 11 7) (fld w 4 7) (fld w 0 4) s
  | 18 => execVfmsF16 (fld w 18 7) (fld w 11 7) (fld w 4 7) (fld w 0 4) s
  | 19 => execVminF32 (fld w 18 7) (fld w 11 7) (fld w 4 7) (fld w 0 4) s
  | 20 => execVminBf16 (fld w 18 7) (fld w 11 7) (fld w 4 7) (fld w 0 4) s
  | 21 => execVminF16 (fld w 18 7) (fld w 11 7) (fld w 4 7) (fld w 0 4) s
  | 22 => execVmaxF32 (fld w 18 7) (fld w 11 7) (fld w 4 7) (fld w 0 4) s
  | 23 => execVmaxBf16 (fld w 18 7) (fld w 11 7) (fld w 4 7) (fld w 0 4) s
  | 24 => execVmaxF16 (fld w 18 7) (fld w 11 7) (fld w 4 7) (fld w 0 4) s
  | 25 => if w / 2 ^ 4 % 2 ^ 7 = 0 then execVabsF32 (fld w 18 7) (fld w 11 7) (fld w 0 4) s else execReservedOp7 (BitVec.ofNat 32 w) s
  | 26 => if w / 2 ^ 4 % 2 ^ 7 = 0 then execVabsBf16 (fld w 18 7) (fld w 11 7) (fld w 0 4) s else execReservedOp7 (BitVec.ofNat 32 w) s
  | 27 => if w / 2 ^ 4 % 2 ^ 7 = 0 then execVabsF16 (fld w 18 7) (fld w 11 7) (fld w 0 4) s else execReservedOp7 (BitVec.ofNat 32 w) s
  | 28 => if w / 2 ^ 4 % 2 ^ 7 = 0 then execVnegF32 (fld w 18 7) (fld w 11 7) (fld w 0 4) s else execReservedOp7 (BitVec.ofNat 32 w) s
  | 29 => if w / 2 ^ 4 % 2 ^ 7 = 0 then execVnegBf16 (fld w 18 7) (fld w 11 7) (fld w 0 4) s else execReservedOp7 (BitVec.ofNat 32 w) s
  | 30 => if w / 2 ^ 4 % 2 ^ 7 = 0 then execVnegF16 (fld w 18 7) (fld w 11 7) (fld w 0 4) s else execReservedOp7 (BitVec.ofNat 32 w) s
  | 31 => if w / 2 ^ 4 % 2 ^ 7 = 0 then execVsqrt (fld w 18 7) (fld w 11 7) (fld w 0 4) s else execReservedOp7 (BitVec.ofNat 32 w) s
  | 32 => if w / 2 ^ 4 % 2 ^ 7 = 0 then execVrcp (fld w 18 7) (fld w 11 7) (fld w 0 4) s else execReservedOp7 (BitVec.ofNat 32 w) s
  | 33 => if w / 2 ^ 4 % 2 ^ 7 = 0 then execVrsq (fld w 18 7) (fld w 11 7) (fld w 0 4) s else execReservedOp7 (BitVec.ofNat 32 w) s
  | 34 => if w / 2 ^ 4 % 2 ^ 7 = 0 then execVexp2 (fld w 18 7) (fld w 11 7) (fld w 0 4) s else execReservedOp7 (BitVec.ofNat 32 w) s
  | 35 => if w / 2 ^ 4 % 2 ^ 7 = 0 then execVlog2 (fld w 18 7) (fld w 11 7) (fld w 0 4) s else execReservedOp7 (BitVec.ofNat 32 w) s
  | 36 => if w / 2 ^ 4 % 2 ^ 7 = 0 then execVtanh (fld w 18 7) (fld w 11 7) (fld w 0 4) s else execReservedOp7 (BitVec.ofNat 32 w) s
  | 40 => execViaddI32 (fld w 18 7) (fld w 11 7) (fld w 4 7) (fld w 0 4) s
  | 41 => execViaddI16 (fld w 18 7) (fld w 11 7) (fld w 4 7) (fld w 0 4) s
  | 42 => execViaddI8 (fld w 18 7) (fld w 11 7) (fld w 4 7) (fld w 0 4) s
  | 43 => execVisubI32 (fld w 18 7) (fld w 11 7) (fld w 4 7) (fld w 0 4) s
  | 44 => execVisubI16 (fld w 18 7) (fld w 11 7) (fld w 4 7) (fld w 0 4) s
  | 45 => execVisubI8 (fld w 18 7) (fld w 11 7) (fld w 4 7) (fld w 0 4) s
  | 46 => execVimulI32 (fld w 18 7) (fld w 11 7) (fld w 4 7) (fld w 0 4) s
  | 47 => execVimulI16 (fld w 18 7) (fld w 11 7) (fld w 4 7) (fld w 0 4) s
  | 48 => execVimulI8 (fld w 18 7) (fld w 11 7) (fld w 4 7) (fld w 0 4) s
  | 49 => execViminI32 (fld w 18 7) (fld w 11 7) (fld w 4 7) (fld w 0 4) s
  | 50 => execViminI16 (fld w 18 7) (fld w 11 7) (fld w 4 7) (fld w 0 4) s
  | 51 => execViminI8 (fld w 18 7) (fld w 11 7) (fld w 4 7) (fld w 0 4) s
  | 52 => execVimaxI32 (fld w 18 7) (fld w 11 7) (fld w 4 7) (fld w 0 4) s
  | 53 => execVimaxI16 (fld w 18 7) (fld w 11 7) (fld w 4 7) (fld w 0 4) s
  | 54 => execVimaxI8 (fld w 18 7) (fld w 11 7) (fld w 4 7) (fld w 0 4) s
  | 55 => execViaddsI32 (fld w 18 7) (fld w 11 7) (fld w 4 7) (fld w 0 4) s
  | 56 => execViaddsI16 (fld w 18 7) (fld w 11 7) (fld w 4 7) (fld w 0 4) s
  | 57 => execViaddsI8 (fld w 18 7) (fld w 11 7) (fld w 4 7) (fld w 0 4) s
  | 58 => execVand (fld w 18 7) (fld w 11 7) (fld w 4 7) (fld w 0 4) s
  | 59 => execVor (fld w 18 7) (fld w 11 7) (fld w 4 7) (fld w 0 4) s
  | 60 => execVxor (fld w 18 7) (fld w 11 7) (fld w 4 7) (fld w 0 4) s
  | 61 => execVsll (fld w 18 7) (fld w 11 7) (fld w 4 7) (fld w 0 4) s
  | 62 => execVsrl (fld w 18 7) (fld w 11 7) (fld w 4 7) (fld w 0 4) s
  | 63 => execVsra (fld w 18 7) (fld w 11 7) (fld w 4 7) (fld w 0 4) s
  | 64 => if w / 2 ^ 21 % 2 ^ 4 = 0 then execVcmpeqF32 (fld w 18 3) (fld w 11 7) (fld w 4 7) (fld w 0 4) s else execReservedOp7 (BitVec.ofNat 32 w) s
  | 65 => if w / 2 ^ 21 % 2 ^ 4 = 0 then execVcmpeqI32 (fld w 18 3) (fld w 11 7) (fld w 4 7) (fld w 0 4) s else execReservedOp7 (BitVec.ofNat 32 w) s
  | 66 => if w / 2 ^ 21 % 2 ^ 4 = 0 then execVcmpltF32 (fld w 18 3) (fld w 11 7) (fld w 4 7) (fld w 0 4) s else execReservedOp7 (BitVec.ofNat 32 w) s
  | 67 => if w / 2 ^ 21 % 2 ^ 4 = 0 then execVcmpltI32 (fld w 18 3) (fld w 11 7) (fld w 4 7) (fld w 0 4) s else execReservedOp7 (BitVec.ofNat 32 w) s
  | 68 => if w / 2 ^ 21 % 2 ^ 4 = 0 then execVcmpleF32 (fld w 18 3) (fld w 11 7) (fld w 4 7) (fld w 0 4) s else execReservedOp7 (BitVec.ofNat 32 w) s
  | 69 => if w / 2 ^ 21 % 2 ^ 4 = 0 then execVcmpleI32 (fld w 18 3) (fld w 11 7) (fld w 4 7) (fld w 0 4) s else execReservedOp7 (BitVec.ofNat 32 w) s
  | 70 => if w / 2 ^ 4 % 2 ^ 7 = 0 then execVcvtBf16F32 (fld w 18 7) (fld w 11 7) (fld w 0 4) s else execReservedOp7 (BitVec.ofNat 32 w) s
  | 71 => if w / 2 ^ 4 % 2 ^ 7 = 0 then execVcvtF16F32 (fld w 18 7) (fld w 11 7) (fld w 0 4) s else execReservedOp7 (BitVec.ofNat 32 w) s
  | 72 => if w / 2 ^ 4 % 2 ^ 7 = 0 then execVcvtF32Bf16 (fld w 18 7) (fld w 11 7) (fld w 0 4) s else execReservedOp7 (BitVec.ofNat 32 w) s
  | 73 => if w / 2 ^ 4 % 2 ^ 7 = 0 then execVcvtF32F16 (fld w 18 7) (fld w 11 7) (fld w 0 4) s else execReservedOp7 (BitVec.ofNat 32 w) s
  | 74 => if w / 2 ^ 4 % 2 ^ 7 = 0 then execVcvtFp8aF32 (fld w 18 7) (fld w 11 7) (fld w 0 4) s else execReservedOp7 (BitVec.ofNat 32 w) s
  | 75 => if w / 2 ^ 4 % 2 ^ 7 = 0 then execVcvtFp8bF32 (fld w 18 7) (fld w 11 7) (fld w 0 4) s else execReservedOp7 (BitVec.ofNat 32 w) s
  | 76 => if w / 2 ^ 4 % 2 ^ 7 = 0 then execVcvtF32Fp8a (fld w 18 7) (fld w 11 7) (fld w 0 4) s else execReservedOp7 (BitVec.ofNat 32 w) s
  | 77 => if w / 2 ^ 4 % 2 ^ 7 = 0 then execVcvtF32Fp8b (fld w 18 7) (fld w 11 7) (fld w 0 4) s else execReservedOp7 (BitVec.ofNat 32 w) s
  | 78 => if w / 2 ^ 4 % 2 ^ 7 = 0 then execVcvtI32F32 (fld w 18 7) (fld w 11 7) (fld w 0 4) s else execReservedOp7 (BitVec.ofNat 32 w) s
  | 79 => if w / 2 ^ 4 % 2 ^ 7 = 0 then execVcvtF32I32 (fld w 18 7) (fld w 11 7) (fld w 0 4) s else execReservedOp7 (BitVec.ofNat 32 w) s
  | 80 => if w / 2 ^ 4 % 2 ^ 7 = 0 then execVcvtFp4xF32 (fld w 18 7) (fld w 11 7) (fld w 0 4) s else execReservedOp7 (BitVec.ofNat 32 w) s
  | 81 => if w / 2 ^ 4 % 2 ^ 7 = 0 then execVcvtF32Fp4x (fld w 18 7) (fld w 11 7) (fld w 0 4) s else execReservedOp7 (BitVec.ofNat 32 w) s
  | 82 => if w / 2 ^ 4 % 2 ^ 7 = 0 then execVrsumF32 (fld w 18 7) (fld w 11 7) (fld w 0 4) s else execReservedOp7 (BitVec.ofNat 32 w) s
  | 83 => if w / 2 ^ 4 % 2 ^ 7 = 0 then execVrmax (fld w 18 7) (fld w 11 7) (fld w 0 4) s else execReservedOp7 (BitVec.ofNat 32 w) s
  | 84 => if w / 2 ^ 4 % 2 ^ 7 = 0 then execVrmin (fld w 18 7) (fld w 11 7) (fld w 0 4) s else execReservedOp7 (BitVec.ofNat 32 w) s
  | 85 => if w / 2 ^ 4 % 2 ^ 7 = 0 then execVrsumI32 (fld w 18 7) (fld w 11 7) (fld w 0 4) s else execReservedOp7 (BitVec.ofNat 32 w) s
  | 86 => execVperm (fld w 18 7) (fld w 11 7) (fld w 4 7) (fld w 0 4) s
  | 87 => execVrot (fld w 18 7) (fld w 11 7) (fld w 4 7) (fld w 0 4) s
  | 88 => execVbcast (fld w 18 7) (fld w 11 7) (fld w 4 7) (fld w 0 4) s
  | 89 => execVpack (fld w 18 7) (fld w 11 7) (fld w 4 7) (fld w 0 4) s
  | 90 => if w / 2 ^ 4 % 2 ^ 7 = 0 then execVunpkl (fld w 18 7) (fld w 11 7) (fld w 0 4) s else execReservedOp7 (BitVec.ofNat 32 w) s
  | 91 => if w / 2 ^ 4 % 2 ^ 7 = 0 then execVunpkh (fld w 18 7) (fld w 11 7) (fld w 0 4) s else execReservedOp7 (BitVec.ofNat 32 w) s
  | 92 => if w / 2 ^ 3 % 2 ^ 8 = 0 ∧ w / 2 ^ 13 % 2 ^ 5 = 0 then execVpop (fld w 18 7) (fld w 11 2) (fld w 0 3) s else execReservedOp7 (BitVec.ofNat 32 w) s
  | 93 => if w / 2 ^ 3 % 2 ^ 8 = 0 ∧ w / 2 ^ 19 % 2 ^ 6 = 0 then execVpush (fld w 18 1) (fld w 11 7) (fld w 0 3) s else execReservedOp7 (BitVec.ofNat 32 w) s
  | 94 => if w / 2 ^ 4 % 2 ^ 4 = 0 ∧ w / 2 ^ 17 % 2 ^ 1 = 0 then execVtr (fld w 18 7) (fld w 14 3) (fld w 11 3) (fld w 8 3) (fld w 0 4) s else execReservedOp7 (BitVec.ofNat 32 w) s
  | 95 => if w / 2 ^ 4 % 2 ^ 4 = 0 ∧ w / 2 ^ 17 % 2 ^ 1 = 0 then execVtw (fld w 18 7) (fld w 14 3) (fld w 11 3) (fld w 8 3) (fld w 0 4) s else execReservedOp7 (BitVec.ofNat 32 w) s
  | 96 => if w / 2 ^ 4 % 2 ^ 4 = 0 ∧ w / 2 ^ 16 % 2 ^ 2 = 2 then execVar (fld w 18 7) (fld w 14 2) (fld w 11 3) (fld w 8 3) (fld w 0 4) s else execReservedOp7 (BitVec.ofNat 32 w) s
  | 97 => if w / 2 ^ 4 % 2 ^ 4 = 0 ∧ w / 2 ^ 16 % 2 ^ 2 = 2 then execVaw (fld w 18 7) (fld w 14 2) (fld w 11 3) (fld w 8 3) (fld w 0 4) s else execReservedOp7 (BitVec.ofNat 32 w) s
  | 98 => if w / 2 ^ 0 % 2 ^ 2 = 0 ∧ w / 2 ^ 21 % 2 ^ 4 = 0 then execVixs (fld w 18 3) (fld w 2 16) s else execReservedOp7 (BitVec.ofNat 32 w) s
  | 99 => if w / 2 ^ 0 % 2 ^ 2 = 0 ∧ w / 2 ^ 21 % 2 ^ 4 = 0 then execVixa (fld w 18 3) (fld w 2 16) s else execReservedOp7 (BitVec.ofNat 32 w) s
  | 100 => if w / 2 ^ 0 % 2 ^ 2 = 0 ∧ w / 2 ^ 6 % 2 ^ 12 = 0 then execVspl (fld w 18 7) (fld w 2 4) s else execReservedOp7 (BitVec.ofNat 32 w) s
  | 101 => if w / 2 ^ 0 % 2 ^ 2 = 0 ∧ w / 2 ^ 6 % 2 ^ 12 = 0 then execVfil (fld w 18 7) (fld w 2 4) s else execReservedOp7 (BitVec.ofNat 32 w) s
  | 102 => if w / 2 ^ 0 % 2 ^ 2 = 0 then execVmoviF32 (fld w 18 7) (fld w 2 16) s else execReservedOp7 (BitVec.ofNat 32 w) s
  | 103 => if w / 2 ^ 0 % 2 ^ 2 = 0 then execVmoviBf16 (fld w 18 7) (fld w 2 16) s else execReservedOp7 (BitVec.ofNat 32 w) s
  | 104 => if w / 2 ^ 0 % 2 ^ 2 = 0 then execVmoviF16 (fld w 18 7) (fld w 2 16) s else execReservedOp7 (BitVec.ofNat 32 w) s
  | 105 => if w / 2 ^ 0 % 2 ^ 2 = 0 then execVmoviI32 (fld w 18 7) (fld w 2 16) s else execReservedOp7 (BitVec.ofNat 32 w) s
  | 106 => if w / 2 ^ 0 % 2 ^ 2 = 0 then execVmoviI16 (fld w 18 7) (fld w 2 16) s else execReservedOp7 (BitVec.ofNat 32 w) s
  | 107 => if w / 2 ^ 0 % 2 ^ 2 = 0 then execVmoviI8 (fld w 18 7) (fld w 2 16) s else execReservedOp7 (BitVec.ofNat 32 w) s
  | 108 => if w / 2 ^ 7 % 2 ^ 4 = 0 ∧ w / 2 ^ 14 % 2 ^ 4 = 0 ∧ w / 2 ^ 21 % 2 ^ 4 = 0 then execKand (fld w 18 3) (fld w 11 3) (fld w 4 3) (fld w 0 4) s else execReservedOp7 (BitVec.ofNat 32 w) s
  | 109 => if w / 2 ^ 7 % 2 ^ 4 = 0 ∧ w / 2 ^ 14 % 2 ^ 4 = 0 ∧ w / 2 ^ 21 % 2 ^ 4 = 0 then execKor (fld w 18 3) (fld w 11 3) (fld w 4 3) (fld w 0 4) s else execReservedOp7 (BitVec.ofNat 32 w) s
  | 110 => if w / 2 ^ 4 % 2 ^ 7 = 0 ∧ w / 2 ^ 14 % 2 ^ 4 = 0 ∧ w / 2 ^ 21 % 2 ^ 4 = 0 then execKnot (fld w 18 3) (fld w 11 3) (fld w 0 4) s else execReservedOp7 (BitVec.ofNat 32 w) s
  | 111 => if w / 2 ^ 4 % 2 ^ 7 = 0 ∧ w / 2 ^ 21 % 2 ^ 4 = 0 then execKmov (fld w 18 3) (fld w 11 7) (fld w 0 4) s else execReservedOp7 (BitVec.ofNat 32 w) s
  | _ => execReservedOp7 (BitVec.ofNat 32 w) s

end Sys2Proof.Machine
end

