-- ==== Sys2Proof/Machine/Module.lean ====
section
/-! DEFINITION. What the module does of itself between instructions: every piece of work that is enabled, in the order
in which this model takes it when its timing is prompt (`State.eager`). Each piece is the meaning of an event of the
opcode table; with `eager` off, events happen only as `State.agenda` says. -/

namespace Sys2Proof.Machine

/-- A step of the module or of the world outside. The four rows that stand for a special-register write are effects of
CSRW, CSRS and CSRC and no steps of their own. -/
def isEvent : Instr → Bool
  | .instructionFetch _ | .commandStart _ _ | .commandRetire _ | .loadPerform _ | .storePerform _ | .pageWalk _ _ _
  | .retry _ | .decline _ | .shootdown _ _ _ | .handlerQueueAccept _ | .handlerStart _ | .cprArrival _ | .cprAdmit _
  | .cprRefusedRetry _ | .roundClose _ | .adoshRead _ _ _ | .adoshWrite _ _ _ | .adoshReadResponse _ _ _
  | .adoshWriteAcknowledgement _ _ | .adoshReductionContribution _ _ _ _ | .stopNotice _ _ _ _ | .traceFetch _ _
  | .reclaimer _ | .caPoolWaitTimeout _ | .dispatchDecision _ | .taskLaunch _ | .taskResume _ | .aging _ _
  | .ringRefill _ _ | .overflowRingUnmapped _ _ | .spawnStallTimeout _ | .checkpoint _ _ | .teamQuantumExpiry _
  | .faultStop _ | .futureWaiterDecrement | .heartbeatTimer _ | .heartbeatLoss _ | .captureCheckpointTimeout _
  | .patrolScrub _ _ | .replayTraceFetch _ | .replayTaskStart _ | .semaphorePost _ _ | .commandInjection _ _
  | .traceIntern _ | .refiner _ | .gangTraceFetch _ _ _ | .graphSubmission | .graphCompletion _ | .wake _
  | .sqbaseWrite _ | .sqsizeWrite _ | .mbdoorWhileBusy | .bar0RegisterWrite _ _ | .config | .load | .gang | .redwin
  | .poolrst | .release | .holdendResume | .holdendEnd | .patch | .update | .updateRollback | .challenge
  | .getMeasurements _ _ | .moduleReset _ _ _ | .hostLinkStateChange _ | .adoshPortStateChange _ _
  | .highTemperaturePoint _ | .thermalThrottle _ | .thermalHalt _ | .powerLimitThrottle _ _ | .coolantFlowShortfall _
  | .vectorRunSwitch _ | .internPoolWaitTimeout _ | .patchWaitTimeout | .newImageFirstHeartbeat
  | .thermalThrottleEnd _ | .mbdoorUnknownCode => true
  | _ => false

/-- A piece of work that leads to another state than it began with. -/
def State.attempt (s : State) (f : State → Out) : Option State :=
  match f s with
  | .next t => if t = s then none else some t
  | _ => none

/-- Queue entries, MARKs and FENCEs that may perform or retire (R156, R163, R286). -/
def State.queueWork (s : State) : List (State → Out) :=
  (s.seqs.filter fun q => !q.2.loads.isEmpty || !q.2.stores.isEmpty || !q.2.fences.isEmpty || !q.2.owed.isEmpty ||
      !q.2.late.isEmpty).map fun q s => .next ((s.retireLate q.1 0).drain fadd32 State.forceEntry q.1 1)

/-- The TCB of a task that has made a side effect says so (R298, status bit [5]). -/
def State.noteSide (s : State) (sk : Nat) : State :=
  let m := (s.slot sk).tcbAt
  (s.blockSet m 200 4 (leAt (s.block m) 200 4 ||| 32)).modSlot sk fun c => { c with noted := true }

/-- Stops that have begun go on (R352, R360, R368); side effects are noted. -/
def State.slotWork (s : State) : List (State → Out) :=
  s.slots.flatMap fun c =>
    (if c.2.trap.isSome then [execFaultStop c.1] else if c.2.stopping.isSome then [execCheckpoint c.1 0] else []) ++
    (if c.2.stopping = some ⟨6⟩ then [execCaptureCheckpointTimeout c.1] else []) ++
    (if c.2.busy && c.2.sideEffect && !c.2.noted && decide (slotNum c.1 < 4) && c.2.stopping.isNone then
      [fun s => .next (s.noteSide c.1)] else []) ++
    (if c.2.busy && decide (1 < c.2.teamSize) then [execTeamQuantumExpiry c.2.teamId] else [])

/-- A refused contribution finds its home able to take it (R140). -/
def State.retryWorth (s : State) (c : Cmd) : Bool :=
  decide (c.sent = 3) &&
    (decide (s.cursor (c.parN 2) = c.parN 1) ||
     decide ((s.cmds.filter fun x => decide (x.sent = 2) && decide (x.v1.toNat / 2 ^ 23 = c.v1.toNat / 2 ^ 23)).length < 16))

/-- A command's place by rank among some that are in that order (R21). -/
def State.insertRank (s : State) (c : Cmd) : List Cmd → List Cmd
  | [] => [c]
  | x :: rest => if s.rank (slotKey c.seqk) ≤ s.rank (slotKey x.seqk) then c :: x :: rest else x :: s.insertRank c rest

/-- The commands by the rank of their slots, those of equal rank oldest first (R21). -/
def State.ranked (s : State) : List Cmd := s.cmds.foldr s.insertRank []

/-- Engines at work: commands retire, start and go on, contributions travel (R126, R128, R140), waits end (R117, R329).
A unit of work is one piece of a copy, one pass of a nest, one block of a demand. -/
def State.commandWork (s : State) : List (State → Out) :=
  s.ranked.flatMap fun c =>
    (if c.phase = .done then [execCommandRetire c.uid] else []) ++
    (if s.canRun c then [execCommandStart c.uid 64] else []) ++
    (if c.sent = 1 then [execCprArrival c.uid, execCaPoolWaitTimeout c.uid] else []) ++
    (if c.sent = 2 then [execCprAdmit (c.v1.toNat / 2 ^ 23)] else []) ++
    (if s.retryWorth c then [execCprRefusedRetry c.uid] else []) ++
    (if isSpawn c.ins then [execSpawnStallTimeout c.uid] else [])

/-- Futures' waiters, successors of tasks that have left, names to reclaim, windows whose rounds close (R107, R142, R305,
R311). -/
def State.memoryWork (s : State) : List (State → Out) :=
  (if s.wakes.isEmpty then [] else [execFutureWaiterDecrement]) ++
  (if s.endings.isEmpty then [] else [fun s => .next (s.endStep s.endings)]) ++
  s.reclaimQ.map (fun n => execReclaimer (nameHome n)) ++
  ((s.contribs.map (·.win)).eraseDups.map fun w => execRoundClose w)

/-- Messages, the choice among runs, and the heartbeat of configured cores (R134, R135, R191, R207, R368). -/
def State.coreWork (s : State) : List (State → Out) :=
  s.cores.flatMap fun c =>
    (if c.2.hqWait.isEmpty then [] else [execHandlerQueueAccept c.1]) ++
    (if c.2.hq.isEmpty then [] else [execHandlerStart c.1]) ++
    (if (s.current c.1).isSome then [execVectorRunSwitch c.1] else []) ++
    (if s.host.configured && !c.2.halted && decide (c.2.hbmark.toNat + c.2.period ≤ s.time.toNat) then [execHeartbeatTimer c.1] else []) ++
    (if s.host.configured && !c.2.halted && decide (s.beatFrom c.1 + 2 * c.2.period ≤ s.time.toNat) then [execHeartbeatLoss c.1] else [])

/-- An octant has records, or graphs whose tasks wait for a release or a reservation. -/
def State.octantBusy (s : State) (o : Nat) : Bool :=
  s.readies.any (fun r => decide (r.octant = o)) ||
  s.graphs.any fun g => !g.toRelease.isEmpty || (decide (g.mode = 2) && !g.reserved && !g.image.isEmpty)

/-- The dispatchers (R320, R321, R327, R328). -/
def State.dispatchWork (s : State) : List (State → Out) :=
  (s.readies.filter s.canAge).map (fun r => execAging r.octant r.tcb) ++
  ((List.range 8).filter s.octantBusy).map execDispatchDecision ++
  (match s.rings.head? with
    | some x => (List.range 8).map fun o => execRingRefill o x.1
    | none => []) ++
  (if s.requests.any fun q => decide (q.time.toNat + s.twoBeats q.core ≤ s.time.toNat) then
    (s.rings.map (·.1) ++ s.slots.map (·.2.rcb)).eraseDups.flatMap fun a => (List.range 8).map fun o => execOverflowRingUnmapped o a
   else [])

/-- Recordings, replays and their ends (R339 to R343, R346). -/
def State.replayWork (s : State) : List (State → Out) :=
  s.notices.map (fun n => execStopNotice n.1 n.2.1 n.2.2.1 (BitVec.ofNat 10 n.2.2.2.1)) ++
  (s.graphs.flatMap fun g =>
    let id := BitVec.ofNat 32 g.id
    let cores := ((imageSlots g.image).map (·.1)).eraseDups
    (if g.mode = 2 ∧ g.image = [] then [execReplayTraceFetch id] else []) ++
    g.posts.map (fun p => execSemaphorePost p.1 p.2) ++
    (cores.filter (s.replaying g)).map execReplayTaskStart ++
    ((cores.filter (s.replaying g)).flatMap fun c => (List.range 6).map fun st => execCommandInjection c st) ++
    (if g.complete then [execTraceIntern id] else []) ++
    (if g.poolWait.isSome then [execInternPoolWaitTimeout id] else []) ++
    (if g.finished && !g.settled then [execGraphCompletion id] else [])) ++
  s.fetches.flatMap fun f => [execGangTraceFetch f.1 f.2.1 f.2.2.1, execInternPoolWaitTimeout 0]

/-- The mailbox command that runs (R374). -/
def mailWork (m : List Byte) : List (State → Out) :=
  match leAt m 0 1 with
  | 1 => [execConfig]
  | 2 => [execLoad]
  | 3 => [execGang]
  | 4 => [execRedwin]
  | 5 => [execPoolrst]
  | 6 => [execRelease]
  | 7 => [execHoldendResume, execHoldendEnd]
  | 8 => [execPatchWaitTimeout, execPatch]
  | 9 => [execUpdateRollback, execUpdate]
  | _ => []

/-- The packet cores and the firmware (R374, R377, R385, R386). -/
def State.hostWork (s : State) : List (State → Out) :=
  (if s.host.ready && (decide (s.host.sqhead ≠ s.host.tail) || !s.host.taken.isEmpty) then [execGraphSubmission] else []) ++
  (if s.host.busy then mailWork s.host.cmd else [])

/-- Everything the module may do now, in the order of this model. -/
def State.work (s : State) : List (State → Out) :=
  s.replayWork ++ s.slotWork ++ s.queueWork ++ s.commandWork ++ s.memoryWork ++ s.coreWork ++ s.dispatchWork ++ s.hostWork

/-- The first piece of work that leads anywhere. -/
def State.workStep (s : State) : Option State := if s.eager then s.work.findSome? s.attempt else none

/-- The core of the first vector engine whose run can execute its next micro-order (R207). -/
def State.runReady (s : State) : Option Nat :=
  (s.cores.find? fun c =>
    match s.current c.1 with
    | some r => !s.runBlocked r
    | none => false).map (·.1)

/-- The word of the micro-order that a core's current run executes next. -/
def State.runWord (s : State) (core : Nat) : Nat :=
  match s.current core with
  | some r => (s.microWord core (s.slot (slotKey r.seqk)).vec.upc.toNat).toNat
  | none => 0

/-- The role port of its core at which a sequencer issues (R21, R330): load, execute or store; H at the execute port. -/
def portOf (k : Nat) : Nat :=
  coreOf k * 3 + match roleOf k with
    | 0 => 0
    | 2 => 2
    | _ => 1

/-- Slot 5 has had its seven grants of the execute port while slot 4 was ready there (R330). -/
def State.yields5 (s : State) (k : Nat) : Bool := decide (slotNum (slotKey k) = 5) && decide (7 ≤ (s.core (coreOf k)).run5)

/-- `a` goes before `b` at a port (R21, R330): by rank, but for the limit of slot 5; then the one that issued least
recently. -/
def State.issuesBefore (s : State) (a b : Nat) : Bool :=
  let r (k : Nat) : Nat := if s.yields5 k then 3 else 2 * s.rank (slotKey k)
  decide (r a < r b) || (decide (r a = r b) && decide ((s.seq a).turn < (s.seq b).turn))

/-- A sequencer's place at its port. -/
def State.insertIssue (s : State) (k : Nat) : List Nat → List Nat
  | [] => [k]
  | j :: rest => if s.issuesBefore j k then j :: s.insertIssue k rest else k :: j :: rest

/-- The sequencers that may issue, port by port from the one after `cur`'s, each port's in the order of R21. -/
def State.candidates (s : State) : List Nat :=
  let ks := (s.seqs.map (·.1)).filter s.canIssue
  let ports := (ks.map portOf).eraseDups
  let p := portOf s.cur
  ((ports.filter fun x => decide (p < x)) ++ ports.filter fun x => decide (x ≤ p)).flatMap fun x =>
    (ks.filter fun k => decide (portOf k = x)).foldr s.insertIssue []

/-- A sequencer has issued: it is noted for R21, and the grants of slot 5 are counted; `other` says that slot 4 was ready
too (R330). -/
def State.granted (s : State) (k : Nat) (other : Bool) : State :=
  let s1 := { s with turns := s.turns + 1 }.modSeq k fun q => { q with turn := s.turns + 1 }
  if portOf k % 3 ≠ 1 then s1
  else s1.modCore (coreOf k) fun c => { c with run5 := if slotNum (slotKey k) = 5 ∧ other = true then c.run5 + 1 else 0 }

/-- The state `t` to which a turn of sequencer `k` has led from `s`: noted as an issue if the sequencer has issued. -/
def State.afterTurn (s t : State) (k : Nat) (other : Bool) : State :=
  if decide (t.pc k ≠ s.pc k) || ((t.seq k).issued && !(s.seq k).issued) then t.granted k other else t

/-- The words of the instruction that a sequencer takes next: those it has issued and that waits, else those at its
PC. -/
def State.nextWords (s : State) (k : Nat) : Fetched :=
  if (s.seq k).issued then .words s (s.seq k).words.1 (s.seq k).words.2 else s.fetch k

/-- A sequencer has come to the end of its stream (R298, R308). -/
def State.atEnd (s : State) (k : Nat) : Bool := decide ((s.seq k).stop ≠ 0) && decide ((s.seq k).pc = (s.seq k).stop)

/-- The words of an instruction that waits are kept with it. -/
def State.keepWords (s : State) (k w x : Nat) : State :=
  if (s.seq k).issued then s.modSeq k fun q => { q with words := (w, x) } else s

/-- The end of a stream: that of X acts as EXIT of s0, those of L and S only stop (R308). -/
def State.streamEnd (s : State) : State :=
  if roleOf s.cur = 1 then s.endStream else s.modSeq s.cur fun q => { q with active := false }

end Sys2Proof.Machine
end

