-- ==== Sys2Proof/Machine/Step.lean ====
section
/-! DEFINITION. One step of the module, and an instruction put where the next step takes it. -/

namespace Sys2Proof.Machine

/-- A step followed by a change of the state it leads to. -/
def thenDo (o : Out) (f : State → State) : Out :=
  match o with
  | .next s => .next (f s)
  | .fault r => .fault r
  | .refused r => .refused r

/-- The current sequencer takes its next instruction, or waits, or ends (R170, R171). -/
def State.seqStep (s : State) : Out :=
  let k := s.cur
  if !s.canIssue k then .next s
  else if s.atEnd k then .next s.streamEnd
  else
    match s.nextWords k with
    | .words t w x => thenDo (exec (decodeStream (decide (roleOf k = 2)) w x) t) fun u => u.keepWords k w x
    | .hold t => .next t
    | .stop t => .next t

/-- A turn of a sequencer. -/
def State.seqTurn (s : State) (k : Nat) : Out := thenDo { s with cur := k }.seqStep fun t => s.afterTurn t k false

/-- The state to which a turn of a sequencer leads, if to another than this. -/
def State.tryIssue (s : State) (k : Nat) : Option State := ({ s with cur := k } : State).attempt fun s => s.seqStep

/-- The H sequencer of slot 4 of a core. -/
def handlerOf (core : Nat) : Nat := core * 32 + 19

/-- Issue arbitration (R21, R330): the first of the candidates that is ready issues. -/
def State.issueStep (s : State) : State :=
  match s.candidates.findSome? fun k => (s.tryIssue k).map fun t => (k, t) with
  | none => s
  | some (k, t) =>
    s.afterTurn t k (decide (slotNum (slotKey k) = 5) && (s.tryIssue (handlerOf (coreOf k))).isSome)

/-- The vector engine of a core executes the next micro-order of its current run (R206, R207), or the force run that it has
chosen (R263). -/
def State.runStep (s : State) (core : Nat) : Out :=
  match (s.current core).bind fun c => c.sub.map fun x => (c, x) with
  | some (c, x) => .next (s.forceRunStep c x)
  | none => thenDo (execMicro (s.runWord core) { s with cur := core * 32 + 1 }) fun t => { t with cur := s.cur }

/-- A turn of the agenda. -/
def State.takeTurn (s : State) (t : Turn) : Out :=
  match t with
  | .event i => if isEvent i then exec i s else .next s
  | .seq k => s.seqTurn k
  | .slow k => thenDo ({ s with delay := true }.seqTurn k) fun t => { t with delay := false }
  | .retire k n => .next (s.retireLate k n)
  | .run core => s.runStep core

/-- With no turn of the agenda: work of the module, else a micro-order, else an instruction. -/
def State.ownStep (s : State) : Out :=
  match s.workStep with
  | some t => .next t
  | none =>
    match s.runReady with
    | some core => s.runStep core
    | none => .next s.issueStep

/-- One step: time passes, and the next turn is taken. -/
def step (s : State) : Host.Outcome State Fault Refusal :=
  let s := s.tick
  match s.agenda with
  | t :: r => { s with agenda := r }.takeTurn t
  | [] => s.ownStep

/-! ### An instruction placed -/

/-- The sequencer of core 0 that may run an instruction: a slot and a role that its row of the role table admits (R34). -/
def placeFor (i : Instr) : Nat :=
  match i with
  | .ld _ _ _ _ _ | .ldu _ _ _ _ _ | .vld _ _ _ _ | .cpq _ _ _ _ _ | .bcqs _ _ | .bcqc _ _ | .bcqsK _ _ | .bcqcK _ _ => 0
  | .st _ _ _ _ _ | .sts _ _ _ _ _ | .vst _ _ _ _ | .amoadd _ _ _ _ _ _ | .amoand _ _ _ _ _ _ | .amoor _ _ _ _ _ _
  | .amoxor _ _ _ _ _ _ | .amomin _ _ _ _ _ _ | .amomax _ _ _ _ _ _ | .amominu _ _ _ _ _ _ | .amomaxu _ _ _ _ _ _
  | .amoswap _ _ _ _ _ _ | .amocas _ _ _ _ _ _ | .amofadd _ _ _ _ _ => 2
  | .hbeat _ => 23
  | _ => 1

/-- An instruction's bytes at DRAM offset 0, which a page of class 2 shows to sequencer `k` at address 0, and the next
turn given to `k`. -/
def State.placeStream (s : State) (k : Nat) (bs : List Byte) : State :=
  let sl := s.slot (slotKey k)
  let q := s.seq k
  let asid := bits sl.troot 52 12
  let c := s.core 0
  let s1 := { s with
    mem := Mem.write s.mem 0 bs, bad := Kv.del s.bad (lineKey .main 0), ecc := s.ecc.filter (· ≠ lineKey .main 0)
    cmds := s.cmds.filter fun c => decide (c.seqk ≠ k)
    requests := s.requests.filter fun r => !r.waiters.contains (.fetch k), agenda := [.seq k] }
  ((s1.setCore 0 { c with halted := false }).setSlot (slotKey k)
    { sl with busy := true, troot := sl.troot ||| 1, stopping := none, exiting := none, trap := none }).setSeq k
    { q with active := true, stopped := false, pc := 0, stop := 0, issued := false, owed := [], full := []
             tlb := { asid := asid, page := 0, base := 0, w := false, x := true, cls := 2, dirty := false } :: q.tlb.filter fun e => decide (e.asid ≠ asid) || decide (e.page ≠ 0) }

/-- A micro-order in word 0 of core 0's store, with a run of slot 0 of two iterations of it under way, and the next turn
given to the vector engine. -/
def State.placeMicro (s : State) (w : Nat) : State :=
  let c := s.core 0
  let sl := s.slot 0
  let x : Ext := ⟨0, 0, 0, 0, 0, 0, 0, 0⟩
  let run : Cmd :=
    { uid := s.nextUid, seqk := 1, num := 0, ins := .vrun 0 0 0 x, ext := x, pc := 0, vd := 0, v1 := 0, v2 := 2, v3 := 0, rd := 0
      preds := [], entries := [], seed := 0, phase := .running, lat := { vlen := 128 } }
  let s1 := { s with cmds := s.cmds ++ [run], nextUid := s.nextUid + 1, agenda := [.run 0] }
  (s1.setCore 0 { c with micro := Kv.put c.micro 0 (BitVec.ofNat 32 w), vrun := some s.nextUid, halted := false }).setSlot 0
    { sl with busy := true, stopping := none, trap := none
              vec := { sl.vec with trip := 2, passes := 0, rot := 0, pred := predsOf 0 2, upc := 0, bank := false } }

/-- A decoded word that is assigned. -/
def assigned : Instr → Bool
  | .reservedEncoding _ => false
  | _ => true

/-- The state with an instruction of bits `w`, its first word lowest, where the next step takes it: in a stream, or a
word that the stream decoder reserves, in the micro-order store. -/
def State.withFetchWord (s : State) (_nbits w : Nat) : State :=
  let i := decodeStream false (w % 2 ^ 32) (w / 2 ^ 32 % 2 ^ 32)
  if assigned i then s.placeStream (placeFor i) (bytesOf w 8)
  else if w < 2 ^ 32 ∧ 2 ^ 25 ≤ w then s.placeMicro w
  else s.placeStream 1 (bytesOf w 8)

end Sys2Proof.Machine
end

