-- ==== Sys2Proof/Safety.lean ====
section
/-! DEFINITION. What counts as a safe run, in the terms that claims use: steps that all lead to a next state, and the
canonical form of the two memories. -/

namespace Sys2Proof

/-- An instruction, or a step of the module, leads from a state to another. -/
def Goes (i : Instr) (s t : Machine.State) : Prop := Machine.exec i s = .next t

/-- `n` steps from a state meet neither a fault nor a refusal. -/
def SafeRun (n : Nat) (s : Machine.State) : Prop := ∃ t, core.run n s = .next t

/-- Both memories are in their canonical form. -/
def Canonical (s : Machine.State) : Prop := Machine.Memory.wf s.mem = true ∧ Machine.Memory.wf s.scratch = true

end Sys2Proof
end

