-- ==== Sys2Proof/Certificates/Slice0/Obligations.lean ====
section
/-! DEFINITION. What is to be proved of the model: one definition `Obligations.<Name>` for each statement, and the words
they are stated in. Every statement cites the rules it comes from. A register that an instruction names is a number of
five bits, so that a statement about it holds for s0 too, which discards what is written to it (R18). -/

namespace Sys2Proof.Claims
open Sys2Proof.Machine

/-! ### An instruction that issues, and what it leaves -/

/-- The current sequencer takes an instruction with token bits `t` and issues it: it may issue, the instruction has not
issued before, `t` names no missing neighbour (R29), every FIFO that it pops holds a token (R28), and no register of `uses`
waits for an earlier instruction's result (R171). -/
def issuable (s : State) (t : BitVec 4) (uses : List (BitVec 5)) : Bool :=
  s.canIssue s.cur && !(s.seq s.cur).issued && !tokenMisuse (roleOf s.cur) t &&
    (s.slot (slotKey s.cur)).popOk (roleOf s.cur) t && uses.all fun r => !s.pendingReg s.cur r

/-- The same, and every FIFO that the instruction pushes has room (R28), so that it retires at once; nor is this the turn of
an instruction that retires in a later cycle (R171; `DivisionTruncatesTowardZero` has one). -/
def ready (s : State) (t : BitVec 4) (uses : List (BitVec 5)) : Bool :=
  issuable s t uses && (s.slot (slotKey s.cur)).pushOk (roleOf s.cur) t && !s.delay

/-- The current sequencer's instruction has issued before, and its FIFOs have room for its pushes: it is tried again. -/
def again (s : State) (t : BitVec 4) : Bool :=
  s.canIssue s.cur && (s.seq s.cur).issued && !tokenMisuse (roleOf s.cur) t && (s.slot (slotKey s.cur)).pushOk (roleOf s.cur) t

/-- The role of the current sequencer: 0 L, 1 X, 2 S, 3 H. -/
def role (s : State) : Nat := roleOf s.cur

/-- The slot of the current sequencer. -/
def mine (s : State) : Slot := s.slot (slotKey s.cur)

/-- The current sequencer. -/
def self (s : State) : Seq := s.seq s.cur

/-- A slot after the pops and the pushes of an instruction of a role (`TokensMoveBetweenNeighbours` says which). -/
def moved (role : Nat) (t : BitVec 4) (c : Slot) : Slot := (c.issue role t).push role t

/-- A slot after the pops alone, for an instruction whose pushes come later. -/
def popped (role : Nat) (t : BitVec 4) (c : Slot) : Slot := c.issue role t

/-- Nothing of the module has changed but sequencers and slots, and of these only the current one and its slot: no memory,
no other core, no queue of the module, no register of another stream. -/
def Elsewhere (s u : State) : Prop :=
  u = { s with seqs := u.seqs, slots := u.slots } ∧ (∀ j, j ≠ s.cur → u.seq j = s.seq j) ∧
    ∀ j, j ≠ slotKey s.cur → u.slot j = s.slot j

/-- Register `d` holds `v`, unless it is s0, and every other register is as before (R18). -/
def Writes (s u : State) (d : BitVec 5) (v : Word) : Prop :=
  ∀ r, u.reg s.cur r = if r = d ∧ d ≠ 0 then v else s.reg s.cur r

/-- The whole effect of a short instruction that writes one register and goes to `pc`: its tokens move, and of the
sequencer nothing changes but the registers and the program counter. -/
def Retires (s u : State) (t : BitVec 4) (d : BitVec 5) (v pc : Word) : Prop :=
  Elsewhere s u ∧ mine u = moved (role s) t (mine s) ∧ self u = { self s with pc := pc, regs := (self u).regs } ∧ Writes s u d v

/-- The address of the next word. -/
def next4 (s : State) : Word := s.pc s.cur + 4

/-- An instruction leads to a state of which something holds. -/
def Leads (i : Instr) (s : State) (p : State → Prop) : Prop := ∃ u, exec i s = .next u ∧ p u

/-- The current sequencer and its slot become `q` and `c`, and nothing else changes. -/
def Becomes (s u : State) (c : Slot) (q : Seq) : Prop := Elsewhere s u ∧ mine u = c ∧ self u = q

/-- The state in which the work of an instruction with token bits `t` is done: it has issued, and its pops are taken. -/
def begun (s : State) (t : BitVec 4) : State :=
  (s.modSlot (slotKey s.cur) (popped (role s) t)).modSeq s.cur fun q => { q with issued := true }

/-- The state after the retirement of an instruction whose work has led to `u`: its pushes are made, or owed while a FIFO
is full (`MarksAndFencesRetire` says which). -/
def retired (s : State) (t : BitVec 4) (u : State) : State :=
  (u.pushOwe s.cur t).modSeq s.cur fun q => { q with issued := false }

/-- The same for an instruction whose pushes come later. -/
def left (s u : State) : State := u.modSeq s.cur fun q => { q with issued := false }

/-- A precise trap of the instruction at the PC (R45, R351, R352): its record, which names the PC, goes to the policy
core; FLAST takes its code and engine; the first record of the slot governs and begins the fault stop; the sequencer
stops at the same PC; the slot is otherwise `c`. -/
def Trapped (s u : State) (c : Slot) (code engine addr status : Nat) : Prop :=
  ∃ r : TrapRec,
    r = { time := s.time, pc := s.pc s.cur, task := (mine s).taskid.setWidth 32, stream := role s, slot := slotKey s.cur % 8,
          core := s.cur / 32, code := code, engine := engine, addr := BitVec.ofNat 56 addr, status := BitVec.ofNat 32 status,
          prec := true } ∧
    u = { s with seqs := u.seqs, slots := u.slots, policy := s.policy ++ [.trap r] } ∧
    (∀ j, j ≠ s.cur → u.seq j = s.seq j) ∧ (∀ j, j ≠ slotKey s.cur → u.slot j = s.slot j) ∧
    mine u = { c with trap := if c.trap = none then some r else c.trap
                      stopping := if c.trap = none then some ⟨3⟩ else c.stopping
                      saved := if c.trap = none then 0 else c.saved
                      flast := BitVec.ofNat 64 (code + engine * 256) } ∧
    self u = { self s with stopped := true }

/-- An atomic access of `n` bytes at an address finds its home, when the instruction is first examined and again when its
work is done: `s2` is the state in which its work goes on. A slice address needs no translation, and then `s2` is
`begun s t`; a virtual one may load the sequencer's TLB and set bits of its leaf (R85, R87, R288). -/
def Reaches (s : State) (t : BitVec 4) (a : Word) (n engine status : Nat) (write : Bool) (s1 s2 : State) (h : Home) : Prop :=
  s.findHome s.cur a n engine status write = .home s1 h ∧
    (begun s1 t).findHome s.cur a n engine status write = .home s2 h ∧ s1.cur = s.cur ∧ s2.cur = s.cur

/-- Nothing has to happen before a strong access of the current sequencer is made: the slot has no thunk to force (R266), and
none of the sequencer's accesses is out at a peer (R284). -/
def Quiet (s : State) : Prop := (mine s).nodes = [] ∧ (mine s).demands = [] ∧ (self s).remote = none

/-- The members of AMO with a choice of width, their operation codes (R39), and their results on patterns of `w` bits: the
new value from the old one, the operand and the compare value, and whether it is written (R289). -/
def amos : List ((BitVec 5 → BitVec 5 → BitVec 5 → BitVec 2 → BitVec 1 → BitVec 4 → Instr) × Nat ×
    (Nat → Nat → Nat → Nat → Nat × Bool)) :=
  let signed (w x : Nat) : Int := (BitVec.ofNat w x).toInt
  [(.amoadd, 1, fun w old v _ => ((old + v) % 2 ^ w, true)),
   (.amoand, 2, fun _ old v _ => (old &&& v, true)),
   (.amoor, 3, fun _ old v _ => (old ||| v, true)),
   (.amoxor, 4, fun _ old v _ => (old ^^^ v, true)),
   (.amomin, 5, fun w old v _ => (if signed w old ≤ signed w v then old else v, true)),
   (.amomax, 6, fun w old v _ => (if signed w old ≤ signed w v then v else old, true)),
   (.amominu, 7, fun _ old v _ => (Min.min old v, true)),
   (.amomaxu, 8, fun _ old v _ => (Max.max old v, true)),
   (.amoswap, 9, fun _ _ v _ => (v, true)),
   (.amocas, 10, fun _ old v c => (v, decide (old = c)))]

/-- A long instruction with operands: the roles that may issue it (R44), the registers in its rd, rs1, rs2 and rs3 fields
(s0 where a field names none), whether rd is written at retirement, the registers whose values are virtual addresses
(R81), and whether it stands on R358's list. -/
structure LongRow where
  ins : Instr
  roles : List Nat
  regs : BitVec 5 × BitVec 5 × BitVec 5 × BitVec 5
  writes : Bool
  virt : List (BitVec 5)
  nokill : Bool

/-- Every long instruction (R44). -/
def longs (d a b c : BitVec 5) (ds ss fb rel : BitVec 1) (q : BitVec 2) (n : BitVec 3) (m : BitVec 2) (x : Ext) : List LongRow :=
  let va (space : BitVec 1) (r : BitVec 5) : List (BitVec 5) := if space = 0 then [r] else []
  let all := [0, 1, 2, 3]
  [⟨.cpy ds ss a b c x, all, (0, a, b, c), false, va ds a ++ va ss b, false⟩,
   ⟨.cpy2 ds ss a b c x, all, (0, a, b, c), false, va ds a ++ va ss b, false⟩,
   ⟨.cpy3 ds ss a b c x, all, (0, a, b, c), false, va ds a ++ va ss b, false⟩,
   ⟨.cpg ds ss a b c x, all, (0, a, b, c), false, va ds a ++ va ss b, false⟩,
   ⟨.cps ds ss a b c x, all, (0, a, b, c), false, va ds a ++ va ss b, false⟩,
   ⟨.cpf ds a b c x, all, (0, a, b, c), false, va ds a, false⟩,
   ⟨.cpm ss a b c x, all, (0, a, b, c), false, va ss b, true⟩,
   ⟨.cpq ss q b c x, [0], (0, 0, b, c), false, va ss b, false⟩,
   ⟨.cprFaddF32 ds a b c x, all, (0, a, b, c), false, va ds a, true⟩,
   ⟨.cprAddI32 ds a b c x, all, (0, a, b, c), false, va ds a, true⟩,
   ⟨.cprAddI64 ds a b c x, all, (0, a, b, c), false, va ds a, true⟩,
   ⟨.cprMaxF32 ds a b c x, all, (0, a, b, c), false, va ds a, true⟩,
   ⟨.cprMinF32 ds a b c x, all, (0, a, b, c), false, va ds a, true⟩,
   ⟨.cprMaxI32 ds a b c x, all, (0, a, b, c), false, va ds a, true⟩,
   ⟨.cprMinI32 ds a b c x, all, (0, a, b, c), false, va ds a, true⟩] ++
  [⟨.vrun a b c x, [1, 3], (0, a, b, c), false, [], false⟩,
   ⟨.tbload d a b c x, [1, 3], (d, a, b, c), true, [], false⟩,
   ⟨.mgo x, [1], (0, 0, 0, 0), false, [], false⟩,
   ⟨.tld n a b c x, [1], (0, a, b, c), false, [], false⟩,
   ⟨.tst n a b c x, [1], (0, a, b, c), false, [], false⟩,
   ⟨.afill m a b c x, [1], (0, a, b, c), false, [], false⟩,
   ⟨.adrn m a b c x, [1], (0, a, b, c), false, [], false⟩,
   ⟨.tbind d a b c x, [1], (d, a, b, c), true, [], false⟩,
   ⟨.tmul d a c x, [1], (d, a, 0, c), true, [], false⟩,
   ⟨.tmac d a c x, [1], (d, a, 0, c), true, [], false⟩,
   ⟨.tadd d a c x, [1], (d, a, 0, c), true, [], false⟩,
   ⟨.tsub d a c x, [1], (d, a, 0, c), true, [], false⟩,
   ⟨.thad d a c x, [1], (d, a, 0, c), true, [], false⟩,
   ⟨.tscl d a b c x, [1], (d, a, b, c), true, [], false⟩,
   ⟨.ttrn d a c x, [1], (d, a, 0, c), true, [], false⟩,
   ⟨.tcvt d a c x, [1], (d, a, 0, c), true, [], false⟩,
   ⟨.tact d a b c x, [1], (d, a, b, c), true, [], false⟩,
   ⟨.tstore a b c x, [1], (0, a, b, c), false, [], false⟩,
   ⟨.tforce a x, [1], (0, a, 0, 0), false, [], false⟩,
   ⟨.tdrop a x, [1], (0, a, 0, 0), false, [], false⟩] ++
  [⟨.miterPoly fb rel d a b c x, [1], (d, a, b, c), true, [], false⟩,
   ⟨.miterNs fb rel d a b c x, [1], (d, a, b, c), true, [], false⟩,
   ⟨.miterInv fb rel d a b c x, [1], (d, a, b, c), true, [], false⟩,
   ⟨.caput d a b x, [1, 3], (d, a, b, 0), true, [], true⟩,
   ⟨.canode d a b x, [1, 3], (d, a, b, 0), true, [], true⟩,
   ⟨.cahash a b c x, [1, 3], (0, a, b, c), false, [], false⟩,
   ⟨.caget a b c x, [1, 3], (0, a, b, c), false, [], false⟩,
   ⟨.cawalk a b c x, [1, 3], (0, a, b, c), false, [], false⟩,
   ⟨.caref d a b x, [1, 3], (d, a, b, 0), true, [], true⟩,
   ⟨.caswap d a b c x, [1, 3], (d, a, b, c), true, [a], true⟩,
   ⟨.caout a b c x, [1, 3], (0, a, b, c), false, [b], false⟩,
   ⟨.capin d a x, [1, 3], (d, a, 0, 0), true, [], true⟩,
   ⟨.spawn d a b c x, [1, 3], (d, a, b, c), true, [a], true⟩]

/-! ### The results of R173 to R176, in the arithmetic of the integers -/

/-- The 64 bits of an integer (R173, z[63:0]). -/
def z64 (i : Int) : Word := BitVec.ofInt 64 i

/-- 1 when a comparison holds, else 0. -/
def truth (p : Prop) [Decidable p] : Word := if p then 1 else 0

/-- The members of OPA with two sources, divisions apart, and their results (R173). -/
def twoSource : List ((BitVec 5 → BitVec 5 → BitVec 5 → BitVec 4 → Instr) × (Word → Word → Word)) :=
  [(.add, fun x y => z64 ((x.toNat : Int) + y.toNat)),
   (.sub, fun x y => z64 ((x.toNat : Int) - y.toNat)),
   (.and, fun x y => x &&& y),
   (.or, fun x y => x ||| y),
   (.xor, fun x y => x ^^^ y),
   (.andn, fun x y => x &&& ~~~y),
   (.orn, fun x y => x ||| ~~~y),
   (.sll, fun x y => BitVec.ofNat 64 (x.toNat * 2 ^ (y.toNat % 64))),
   (.srl, fun x y => BitVec.ofNat 64 (x.toNat / 2 ^ (y.toNat % 64))),
   (.sra, fun x y => z64 (x.toInt / 2 ^ (y.toNat % 64))),
   (.ror, fun x y => BitVec.ofNat 64 (x.toNat / 2 ^ (y.toNat % 64) + x.toNat * 2 ^ (64 - y.toNat % 64))),
   (.slt, fun x y => truth (x.toInt < y.toInt)),
   (.sltu, fun x y => truth (x.toNat < y.toNat)),
   (.min, fun x y => z64 (Min.min x.toInt y.toInt)),
   (.max, fun x y => z64 (Max.max x.toInt y.toInt)),
   (.minu, fun x y => BitVec.ofNat 64 (Min.min x.toNat y.toNat)),
   (.maxu, fun x y => BitVec.ofNat 64 (Max.max x.toNat y.toNat)),
   (.mul, fun x y => z64 (x.toInt * y.toInt)),
   (.mulh, fun x y => z64 (x.toInt * y.toInt / 2 ^ 64)),
   (.mulhu, fun x y => BitVec.ofNat 64 (x.toNat * y.toNat / 2 ^ 64)),
   (.addw, fun x y => (BitVec.ofNat 32 (x.toNat + y.toNat)).signExtend 64),
   (.subw, fun x y => (BitVec.ofInt 32 ((x.toNat : Int) - y.toNat)).signExtend 64),
   (.pack, fun x y => BitVec.ofNat 64 (x.toNat % 2 ^ 32 * 2 ^ 32 + y.toNat % 2 ^ 32)),
   (.sh1add, fun x y => BitVec.ofNat 64 (2 * x.toNat + y.toNat)),
   (.sh2add, fun x y => BitVec.ofNat 64 (4 * x.toNat + y.toNat)),
   (.sh3add, fun x y => BitVec.ofNat 64 (8 * x.toNat + y.toNat))]

/-- The members with one source, and when a number is their result (R173). -/
def oneSource : List ((BitVec 5 → BitVec 5 → BitVec 4 → Instr) × (Word → Word → Prop)) :=
  [(.clz, fun x z => z.toNat ≤ 64 ∧ x.toNat < 2 ^ (64 - z.toNat) ∧ (z.toNat < 64 → 2 ^ (63 - z.toNat) ≤ x.toNat)),
   (.ctz, fun x z => z.toNat ≤ 64 ∧ x.toNat % 2 ^ z.toNat = 0 ∧ (z.toNat < 64 → x.toNat / 2 ^ z.toNat % 2 = 1)),
   (.popc, fun x z => z.toNat = ((List.range 64).filter fun i => x.getLsbD i).length),
   (.sextw, fun x z => z.toInt = (x.setWidth 32).toInt),
   (.zextw, fun x z => z.toNat = x.toNat % 2 ^ 32)]

/-- The members with a 12-bit immediate, sign-extended, and their results (R175). -/
def immediate : List ((BitVec 5 → BitVec 5 → BitVec 12 → BitVec 4 → Instr) × (Word → Int → Word)) :=
  [(.addi, fun x i => z64 (x.toNat + i)),
   (.andi, fun x i => x &&& z64 i),
   (.ori, fun x i => x ||| z64 i),
   (.xori, fun x i => x ^^^ z64 i),
   (.slti, fun x i => truth (x.toInt < i)),
   (.sltiu, fun x i => truth (x.toNat < (z64 i).toNat))]

/-- The shifts by an immediate amount, and their results (R175). -/
def shiftImmediate : List ((BitVec 5 → BitVec 5 → BitVec 6 → BitVec 4 → Instr) × (Word → Nat → Word)) :=
  [(.slli, fun x n => BitVec.ofNat 64 (x.toNat * 2 ^ n)),
   (.srli, fun x n => BitVec.ofNat 64 (x.toNat / 2 ^ n)),
   (.srai, fun x n => z64 (x.toInt / 2 ^ n)),
   (.rori, fun x n => BitVec.ofNat 64 (x.toNat / 2 ^ n + x.toNat * 2 ^ (64 - n)))]

/-- The branches by cond3, and their conditions (R38). -/
def branches : List (Nat × (BitVec 5 → BitVec 5 → BitVec 13 → Instr) × (Word → Word → Prop)) :=
  [(0, .beq, fun x y => x = y), (1, .bne, fun x y => x ≠ y), (2, .blt, fun x y => x.toInt < y.toInt),
   (3, .bge, fun x y => y.toInt ≤ x.toInt), (4, .bltu, fun x y => x.toNat < y.toNat), (5, .bgeu, fun x y => y.toNat ≤ x.toNat)]

/-! ### Exact values (R63, R64, R66, R178, R214) -/

/-- A finite exact value stands for a rational number. -/
def Is (x : FVal) (q : ℚ) : Prop := ∃ n m e, x = .num n m e ∧ q = (if n then -1 else 1) * (m : ℚ) * (2 : ℚ) ^ (e : ℤ)

/-- A positive number as a function that is no sum or product gives it, `f q` being what is to be 1 of the number `q`, above 1
beyond it and below 1 short of it: exact when its last bit is 0, else strictly between its neighbours. -/
def Sticky (neg : Bool) (x : FVal) (f : ℚ → ℚ) : Prop :=
  ∃ (m : Nat) (e : ℤ), x = .num neg m e ∧ 2 ^ 50 ≤ m ∧ (m % 2 = 0 → f (m * (2 : ℚ) ^ e) = 1) ∧
    (m % 2 = 1 → f ((m - 1) * (2 : ℚ) ^ e) < 1 ∧ 1 < f ((m + 1) * (2 : ℚ) ^ e))

/-- The operations on finite values are those of the rational numbers; a quotient or a root that is not exact has its last bit
set; 2^a, log2 and tanh are exact where their value is a whole power, a whole number or zero (R63, R178, R214). -/
def ExactOnNumbers : Prop :=
  (∀ x y p q, Is x p → Is y q →
    Is (x.add y) (p + q) ∧ Is (x.sub y) (p - q) ∧ Is (x.mul y) (p * q) ∧ Is x.neg (-p) ∧ Is x.abs |p| ∧
    Is (x.min y) (Min.min p q) ∧ Is (x.max y) (Max.max p q) ∧ (x.lt y = true ↔ p < q) ∧ (x.eq y = true ↔ p = q) ∧ (x.le y = true ↔ p ≤ q) ∧
    (q ≠ 0 → p = 0 → Is (x.div y) 0) ∧
    (q ≠ 0 → p ≠ 0 → Sticky (x.isNeg != y.isNeg) (x.div y) fun z => z * |q| / |p|) ∧
    (0 < p → Sticky false x.sqrt fun z => z ^ 2 / p) ∧ (0 < p → Sticky false x.rsqrt fun z => z ^ 2 * p)) ∧
  ∀ (x : FVal) (k : ℤ), (Is x k → -256 < k → k < 256 → Is x.exp2 ((2 : ℚ) ^ k)) ∧ (Is x ((2 : ℚ) ^ k) → Is x.log2 k)

/-- The special values: NaNs, infinities and zeros with their signs (R63, R64, R178, R214). -/
def ExactOnSpecials : Prop :=
  (∀ x : FVal, FVal.nan.add x = .nan ∧ x.add .nan = .nan ∧ FVal.nan.mul x = .nan ∧ x.mul .nan = .nan ∧ FVal.nan.div x = .nan ∧
    x.div .nan = .nan ∧ FVal.nan.min x = x ∧ x.min .nan = x ∧ FVal.nan.max x = x ∧ x.max .nan = x ∧ FVal.nan.lt x = false ∧
    x.lt .nan = false ∧ FVal.nan.eq x = false ∧ x.eq .nan = false) ∧
  (FVal.nan.sqrt = .nan ∧ FVal.nan.rcp = .nan ∧ FVal.nan.rsqrt = .nan ∧ FVal.nan.exp2 = .nan ∧ FVal.nan.log2 = .nan ∧ FVal.nan.tanh = .nan) ∧
  (∀ (n n' : Bool) (m m' : Nat) (e e' : ℤ),
    let inf := FVal.inf n
    let x := FVal.num n m e
    let y := FVal.num n' m' e'
    inf.add inf = inf ∧ inf.add (.inf !n) = .nan ∧ inf.add y = inf ∧ y.add inf = inf ∧
    inf.mul (.inf n') = .inf (n != n') ∧ inf.div (.inf n') = .nan ∧ inf.div y = .inf (n != n') ∧ y.div inf = .num (n' != n) 0 0 ∧
    (m' = 0 → inf.mul y = .nan ∧ y.mul inf = .nan ∧ (m = 0 → x.div y = .nan) ∧ (m ≠ 0 → x.div y = .inf (n != n'))) ∧
    (m' ≠ 0 → inf.mul y = .inf (n != n') ∧ y.mul inf = .inf (n' != n)) ∧
    (m = 0 → m' = 0 → x.add y = .num (n && n') 0 0 ∧ x.sub y = .num (n && !n') 0 0 ∧ x.min y = (if n then x else y) ∧
      x.max y = (if n then y else x)) ∧
    (m = 0 ∨ m' = 0 → x.mul y = .num (n != n') 0 0) ∧ (m ≠ 0 → x.add (.num (!n) m e) = .num false 0 0) ∧
    (m = 0 → x.sqrt = .num n 0 0 ∧ x.rsqrt = .inf n ∧ x.rcp = .inf n ∧ x.exp2 = .num false 1 0 ∧ x.log2 = .inf true ∧ x.tanh = .num n 0 0) ∧
    (m ≠ 0 → n = true → x.sqrt = .nan ∧ x.rsqrt = .nan ∧ x.log2 = .nan) ∧
    inf.sqrt = (if n then .nan else inf) ∧ inf.rcp = .num n 0 0 ∧ inf.exp2 = (if n then .num false 0 0 else inf) ∧ inf.tanh = .num n 1 0) ∧
  (FVal.inf false).rsqrt = .num false 0 0 ∧ (FVal.inf false).log2 = .inf false

/-- R66: RNE gives the nearest number of FP32, on a tie the one with its last bit 0; RZ gives the next one toward zero. -/
def RoundsToNeighbours : Prop :=
  ∀ (x : FVal) (p v w : ℚ) (c : BitVec 32), Is x p → Is (val32 c.toNat) w →
    (Is (val32 (round32 .rne x)) v → |v - p| ≤ |w - p| ∧ (|v - p| = |w - p| → v ≠ w → round32 .rne x % 2 = 0)) ∧
    (Is (val32 (round32 .rz x)) v → |v| ≤ |p| ∧ 0 ≤ v * p ∧ (|w| ≤ |p| → |w| ≤ |v|))

end Sys2Proof.Claims

open Sys2Proof Sys2Proof.Machine Sys2Proof.Claims

/-! ### Integer instructions, branches and jumps -/

/-- R173: every two-source member of OPA but the divisions. The next state is given whole: `Retires` says what changes. -/
def Obligations.RegisterArithmeticWritesItsResult : Prop :=
  ∀ (s : State) (d a b : BitVec 5) (t : BitVec 4), ready s t [d, a, b] = true → ∀ p ∈ twoSource,
    Leads (p.1 d a b t) s fun u => Retires s u t d (p.2 (s.reg s.cur a) (s.reg s.cur b)) (next4 s)

/-- R174, with its table of limits; and of R171 the instruction that retires in a later cycle: its pushes come when its turn
to retire does. That its register is written at issue, and counts as pending until it retires, is the model's choice (log
entry 104). -/
def Obligations.DivisionTruncatesTowardZero : Prop :=
  (∀ (s : State) (d a b : BitVec 5) (t : BitVec 4), ready s t [d, a, b] = true →
    let x := s.reg s.cur a
    let y := s.reg s.cur b
    ∃ q r qu ru : Word,
      Leads (.div d a b t) s (fun u => Retires s u t d q (next4 s)) ∧
      Leads (.rem d a b t) s (fun u => Retires s u t d r (next4 s)) ∧
      Leads (.divu d a b t) s (fun u => Retires s u t d qu (next4 s)) ∧
      Leads (.remu d a b t) s (fun u => Retires s u t d ru (next4 s)) ∧
      (y = 0 → q = 0xFFFFFFFFFFFFFFFF ∧ r = x ∧ qu = 0xFFFFFFFFFFFFFFFF ∧ ru = x) ∧
      (x.toInt = -2 ^ 63 ∧ y.toInt = -1 → q.toInt = -2 ^ 63 ∧ r = 0) ∧
      (y ≠ 0 ∧ ¬(x.toInt = -2 ^ 63 ∧ y.toInt = -1) →
        x.toInt = q.toInt * y.toInt + r.toInt ∧ r.toInt.natAbs < y.toInt.natAbs ∧ (r = 0 ∨ (r.toInt < 0 ↔ x.toInt < 0))) ∧
      (y ≠ 0 → x.toNat = qu.toNat * y.toNat + ru.toNat ∧ ru.toNat < y.toNat)) ∧
  (∀ (s : State) (d a b : BitVec 5) (t : BitVec 4), issuable s t [d, a, b] = true → s.delay = true →
    let q : Word := if s.reg s.cur b = 0 then 0xFFFFFFFFFFFFFFFF
      else BitVec.ofNat 64 ((s.reg s.cur a).toNat / (s.reg s.cur b).toNat)
    Leads (.divu d a b t) s fun u =>
      Becomes s u (popped (role s) t (mine s))
        { self s with pc := next4 s, regs := (self u).regs, late := (self s).late ++ [(d, t)] } ∧ Writes s u d q) ∧
  ∀ (s : State) (k n : Nat) (x : BitVec 5 × BitVec 4), (s.seq k).late[n]? = some x →
    s.retireLate k n = (s.modSeq k fun q => { q with late := q.late.eraseIdx n }).pushOwe k x.2

/-- R173: the members with one source. A count is characterised by the bits it skips and the bit it stops at. -/
def Obligations.UnaryMembersCountAndExtend : Prop :=
  ∀ (s : State) (d a : BitVec 5) (t : BitVec 4), ready s t [d, a] = true → ∀ p ∈ oneSource,
    ∃ z : Word, p.2 (s.reg s.cur a) z ∧ Leads (p.1 d a t) s fun u => Retires s u t d z (next4 s)

/-- R175. -/
def Obligations.ImmediateFormsWriteTheirResult : Prop :=
  ∀ (s : State) (d a : BitVec 5) (t : BitVec 4), ready s t [d, a] = true →
    (∀ p ∈ immediate, ∀ i : BitVec 12,
      Leads (p.1 d a i t) s fun u => Retires s u t d (p.2 (s.reg s.cur a) i.toInt) (next4 s)) ∧
    ∀ p ∈ shiftImmediate, ∀ n : BitVec 6,
      Leads (p.1 d a n t) s fun u => Retires s u t d (p.2 (s.reg s.cur a) n.toNat) (next4 s)

/-- R176 and R182. -/
def Obligations.UpperImmediatesAndJumps : Prop :=
  ∀ (s : State) (d : BitVec 5),
    (ready s 0 [d] = true → ∀ i : BitVec 21,
      Leads (.lui d i) s (fun u => Retires s u 0 d (z64 (i.toInt * 2 ^ 11)) (next4 s)) ∧
      Leads (.adpc d i) s (fun u => Retires s u 0 d (z64 ((s.pc s.cur).toNat + 4 * i.toInt)) (next4 s)) ∧
      Leads (.jal d i) s (fun u => Retires s u 0 d (next4 s) (z64 ((s.pc s.cur).toNat + 4 * i.toInt)))) ∧
    ∀ (a : BitVec 5) (i : BitVec 12) (t : BitVec 4), ready s t [d, a] = true →
      let target := z64 (((s.reg s.cur a).toNat + i.toInt) / 4 * 4)
      (target.toNat < 2 ^ 55 → Leads (.jalr d a i t) s fun u => Retires s u t d (next4 s) target) ∧
      (2 ^ 55 ≤ target.toNat → exec (.jalr d a i t) s = .next (s.trapAt s.cur 3 0 target.toNat))

/-- R180, with the conditions of R38. -/
def Obligations.BranchesCompareAllBits : Prop :=
  ∀ b ∈ branches, ∀ (x y : BitVec 5) (o : BitVec 13),
    decodeStream false (0x4C000000 + x.toNat * 2 ^ 21 + y.toNat * 2 ^ 16 + b.1 * 2 ^ 13 + o.toNat) 0 = b.2.1 x y o ∧
    -16384 ≤ 4 * o.toInt ∧ 4 * o.toInt ≤ 16384 ∧
    ∀ s : State, ready s 0 [x, y] = true →
      (b.2.2 (s.reg s.cur x) (s.reg s.cur y) →
        Leads (b.2.1 x y o) s fun u => Retires s u 0 0 0 (z64 ((s.pc s.cur).toNat + 4 * o.toInt))) ∧
      (¬ b.2.2 (s.reg s.cur x) (s.reg s.cur y) → Leads (b.2.1 x y o) s fun u => Retires s u 0 0 0 (next4 s))

/-- R181. The role is L or S; `cqL` and `cqS` are the copies, `rcvL` and `rcvS` say which stream receives one (R166). -/
def Obligations.ControlQueueBranchesFollowTheOutcome : Prop :=
  ∀ (s : State) (n : BitVec 4) (o : BitVec 13), issuable s 0 [] = true → (role s = 0 ∨ role s = 2) →
    let copy := if role s = 0 then (mine s).cqL else (mine s).cqS
    let receives := if role s = 0 then (mine s).rcvL else (mine s).rcvS
    let goes (u : State) (taken : Bool) (l : List (BitVec 16)) : Prop :=
      Elsewhere s u ∧
      mine u = { mine s with cqL := if role s = 0 then l else (mine s).cqL, cqS := if role s = 2 then l else (mine s).cqS } ∧
      self u = { self s with pc := if taken then z64 ((s.pc s.cur).toNat + 4 * o.toInt) else next4 s }
    (receives = true → ∀ w rest, copy = w :: rest →
      Leads (.bcqs n o) s (fun u => goes u (w.getLsbD n.toNat) rest) ∧
      Leads (.bcqc n o) s (fun u => goes u (!w.getLsbD n.toNat) rest) ∧
      Leads (.bcqsK n o) s (fun u => goes u (w.getLsbD n.toNat) copy) ∧
      Leads (.bcqcK n o) s (fun u => goes u (!w.getLsbD n.toNat) copy)) ∧
    (receives = true → copy = [] → ∀ i ∈ [Instr.bcqs n o, .bcqc n o, .bcqsK n o, .bcqcK n o], exec i s = .next s) ∧
    (receives = false → ∀ i ∈ [Instr.bcqs n o, .bcqc n o, .bcqsK n o, .bcqcK n o], exec i s = .next (s.trapAt s.cur 2 0 0))

/-! ### Tokens, events, the control queue, SYS -/

/-- R28 and R29 on the instruction that has no effect of its own (R189), which also says that NOP completes. -/
def Obligations.TokensMoveBetweenNeighbours : Prop :=
  ∀ (s : State) (t : BitVec 4),
    let b (i : Nat) : Nat := if t.getLsbD i then 1 else 0
    let on (r i : Nat) : Nat := if role s = r then b i else 0
    (ready s t [] = true → Leads (.nop t) s fun u =>
      Becomes s u
        { mine s with lx := (mine s).lx + on 0 3 - on 1 0, xl := (mine s).xl + on 1 2 - on 0 1
                      xs := (mine s).xs + on 1 3 - on 2 0, sx := (mine s).sx + on 2 2 - on 1 1
                      sideEffect := (mine s).sideEffect || t.getLsbD 2 || t.getLsbD 3, popped := (mine u).popped }
        { self s with pc := next4 s }) ∧
    (s.canIssue s.cur = true → (self s).issued = false → tokenMisuse (role s) t = false →
      (mine s).popOk (role s) t = false → exec (.nop t) s = .next s) ∧
    (issuable s t [] = true → (mine s).pushOk (role s) t = false → Leads (.nop t) s fun u =>
      Becomes s u (popped (role s) t (mine s)) { self s with pc := next4 s, owed := [t] } ∧ u.canIssue s.cur = false) ∧
    (s.canIssue s.cur = true → tokenMisuse (role s) t = true → Leads (.nop t) s fun u => Trapped s u (mine s) 2 0 0 0)

/-- R183, with the order of R184 in `evBefore` and that of R185 in the MARK: an EVPOST behind MARKs has issued, and retires and
posts when they have retired (`MarksAndFencesRetire`). Who takes a count that several wait for (log entry 19), and that an
EVCLR waits while an EVWAIT can take the count first (log entry 105), are the model's choices. -/
def Obligations.EventInstructionsCountPosts : Prop :=
  ∀ (s : State) (e : BitVec 4) (t : BitVec 4),
    let count (c : Slot) (j : Nat) : Nat := Kv.get 0 c.events j
    let m := moved (role s) t (mine s)
    (∀ n : BitVec 6, n ≠ 0 → ready s t [] = true → (∀ x ∈ (self s).loads, x.op ≠ .mark) →
      Leads (.evpost n e t) s fun u =>
        Becomes s u { m with events := (mine u).events, evovf := (mine u).evovf, posts := (mine s).posts + 1 }
          { self s with pc := next4 s } ∧
        (∀ j, count (mine u) j = if j = e.toNat then Min.min (count (mine s) j + n.toNat) 0xFFFF else count (mine s) j) ∧
        ∀ j, (mine u).evovf.getLsbD j =
          ((mine s).evovf.getLsbD j || (decide (j = e.toNat) && decide (0xFFFF < count (mine s) j + n.toNat)))) ∧
    (∀ n : BitVec 6, n ≠ 0 → issuable s t [] = true → (∃ x ∈ (self s).loads, x.op = .mark) → Leads (.evpost n e t) s fun u =>
      Becomes s u (popped (role s) t (mine s))
        { self s with
          pc := next4 s, nextEntry := (self s).nextEntry + 1
          fences := (self s).fences ++ [⟨(self s).nextEntry, 0, ((self s).loads.filter fun x => decide (x.op = .mark)).map (·.id), [],
            t, some (e.toNat, n.toNat)⟩] }) ∧
    (∀ n : BitVec 6, n ≠ 0 → ready s t [] = true → n.toNat ≤ count (mine s) e.toNat → s.evBefore s.cur e.toNat = false →
      Leads (.evwait n e t) s fun u =>
        Becomes s u { m with events := (mine u).events, taken := (mine u).taken }
          { self s with pc := next4 s, evwait := none, seen := (self u).seen } ∧
        ∀ j, count (mine u) j = if j = e.toNat then count (mine s) j - n.toNat else count (mine s) j) ∧
    (∀ n : BitVec 6, n ≠ 0 → issuable s t [] = true → count (mine s) e.toNat < n.toNat → Leads (.evwait n e t) s fun u =>
      Becomes s u (mine s) { self s with evwait := some (e.toNat, n.toNat) }) ∧
    (∀ d : BitVec 5, issuable s t [d] = true → s.evTaken s.cur e.toNat 4 = true → exec (.evclr d e t) s = .next s) ∧
    (∀ d : BitVec 5, ready s t [d] = true → s.evTaken s.cur e.toNat 4 = false → Leads (.evclr d e t) s fun u =>
      Becomes s u { m with events := (mine u).events } { self s with pc := next4 s, regs := (self u).regs } ∧
      Writes s u d (BitVec.ofNat 64 (count (mine s) e.toNat)) ∧
      ∀ j, count (mine u) j = if j = e.toNat then 0 else count (mine s) j) ∧
    (issuable s t [] = true → (self s).wfe = none → Leads (.wfe t) s fun u =>
      Becomes s u (mine s) { self s with wfe := some (mine s).posts }) ∧
    (∀ n, ready s t [] = true → (self s).wfe = some n →
      ((mine s).posts ≤ n → exec (.wfe t) s = .next s) ∧
      (n < (mine s).posts → Leads (.wfe t) s fun u => Becomes s u m { self s with pc := next4 s, wfe := none }))

/-- R167. -/
def Obligations.ControlQueuePushReachesEveryReceiver : Prop :=
  ∀ (s : State) (a : BitVec 5) (i : BitVec 12) (t : BitVec 4),
    let v : BitVec 16 := BitVec.ofInt 16 ((s.reg s.cur a).toNat + i.toInt)
    let c := mine s
    let room := (c.rcvL = true → c.cqL.length < 16) ∧ (c.rcvS = true → c.cqS.length < 16)
    (ready s t [a] = true → role s = 1 → room → Leads (.cqp a i t) s fun u =>
      Becomes s u
        { moved (role s) t c with cqL := if c.rcvL then c.cqL ++ [v] else c.cqL, cqS := if c.rcvS then c.cqS ++ [v] else c.cqS
                                  sideEffect := true }
        { self s with pc := next4 s }) ∧
    (ready s t [a] = true → role s = 1 → ¬ room → exec (.cqp a i t) s = .next (begun s t)) ∧
    (s.canIssue s.cur = true → role s ≠ 1 → Leads (.cqp a i t) s fun u => Trapped s u c 1 0 0 0)

/-- R192: commands in flight stand in `cmds` until they retire (R22). One that a replay has injected and the stream has not
yet issued (`inj` 3, R341) is not in flight to its stream. -/
def Obligations.CwaitWaitsForTheNamedCommand : Prop :=
  ∀ (s : State) (a : BitVec 5) (t : BitVec 4),
    let named := ∃ c ∈ s.inFlight (slotKey s.cur), c.num = (s.reg s.cur a).setWidth 16 ∧ c.inj ≠ 3
    (issuable s t [a] = true → named → exec (.cwait a t) s = .next s) ∧
    (ready s t [a] = true → ¬ named → Leads (.cwait a t) s fun u =>
      Becomes s u (moved (role s) t (mine s)) { self s with pc := next4 s, seen := (self u).seen })

/-- R190, R191, R317. `readyFor` is the dispatcher's answer; a replay that the yielding task belongs to is told to end (R343).
That YIELD has retired, with the PC at the next word, when its task stops is the model's choice (log entry 46). -/
def Obligations.TrapHeartbeatAndYield : Prop :=
  ∀ (s : State) (t : BitVec 4),
    (∀ c : BitVec 8, issuable s t [] = true →
      ((self s).loads = [] ∧ (self s).stores = [] → Leads (.trap c t) s fun u =>
        Trapped s u (popped (role s) t (mine s)) 16 0 c.toNat 0) ∧
      (¬ ((self s).loads = [] ∧ (self s).stores = []) → exec (.trap c t) s = .next (begun s t))) ∧
    (slotKey s.cur % 8 = 5 ∧ role s = 3 → ready s t [] = true → Leads (.hbeat t) s fun u =>
      u = { s with seqs := u.seqs, cores := u.cores, slots := u.slots, policy := s.policy ++ [.beat (s.cur / 32) s.time] } ∧
      (∀ j, u.slot j = if j = slotKey s.cur then moved (role s) t (mine s) else s.slot j) ∧
      (∀ j, u.core j = if j = s.cur / 32 then { s.core j with hblast := s.time } else s.core j) ∧
      ∀ j, u.seq j = if j = s.cur then { self s with pc := next4 s } else s.seq j) ∧
    (¬ (slotKey s.cur % 8 = 5 ∧ role s = 3) → s.canIssue s.cur = true →
      Leads (.hbeat t) s fun u => Trapped s u (mine s) 1 0 0 0) ∧
    (role s = 1 ∨ role s = 3 → ready s t [] = true →
      let asks := role s = 1 ∧ slotKey s.cur % 8 < 4 ∧ (mine s).teamSize ≤ 1 ∧ (mine s).busy = true ∧
        (begun s t).readyFor (slotKey s.cur) = true
      (asks → (mine s).mode ≠ 2 → Leads (.yield t) s fun u =>
        Becomes s { u with notices := s.notices } { moved (role s) t (mine s) with stopping := some ⟨4⟩, saved := 0 }
          { self s with pc := next4 s }) ∧
      (asks → (mine s).mode = 2 → (s.graph (mine s).graph).any (fun g => decide (g.mode = 2)) = true → Leads (.yield t) s fun u =>
        Becomes s { u with notices := s.notices, cmds := s.cmds }
          { moved (role s) t (mine s) with stopping := some ⟨4⟩, saved := 0, mode := 3, gid := 0x3FF, kept := (mine u).kept }
          { self s with pc := next4 s }) ∧
      (¬ asks → Leads (.yield t) s fun u => Becomes s u (moved (role s) t (mine s)) { self s with pc := next4 s }))

/-- R308 and R135. The result and the status are written at the TCB's place in memory, `m`, which `blockAt` answers. -/
def Obligations.ExitEndsHandlersAndTasks : Prop :=
  ∀ (s : State) (a : BitVec 5) (t : BitVec 4),
    let sk := slotKey s.cur
    let work := (∃ i < 3, ¬ ((s.seq (sk * 4 + i)).loads = [] ∧ (s.seq (sk * 4 + i)).stores = [] ∧ (s.seq (sk * 4 + i)).strong = false)) ∨
      ∃ c ∈ s.cmds, slotKey c.seqk = sk
    let r := (mine s).exiting.getD (s.reg s.cur a)
    let begin' := s.modSlot sk fun c => { c with exiting := some r }
    let ended (u : State) : State := (u.taskOver (mine s).graph (mine s).tcb false).freeTask sk
    (issuable s t [a] = true → role s = 3 → slotKey s.cur % 8 ≠ 5 → (self s).loads = [] → (self s).stores = [] →
      (∀ c ∈ s.cmds, slotKey c.seqk ≠ slotKey s.cur) → Leads (.exit a t) s fun u =>
        Becomes s u { popped (role s) t (mine s) with busy := false } { self s with active := false }) ∧
    (issuable s t [a] = true → role s = 1 → slotKey s.cur % 8 ≠ 5 → work → Leads (.exit a t) s fun u =>
      Becomes s u { popped (role s) t (mine s) with exiting := some ((mine s).exiting.getD (s.reg s.cur a)) }
        { self s with issued := true } ∧
      ∀ i, i = 0 ∨ i = 2 → (s.seq (sk * 4 + i)).strong = false → u.canIssue (sk * 4 + i) = false) ∧
    (again s t = true → role s = 1 → sk % 8 ≠ 5 → ¬ work → (mine s).decs = none → ∀ s1 s2 l s3 m,
      begin'.writeHists sk = (s1, .ok ()) →
      ((mine s).triggered = false → s1.successors s.cur = .ok s2 l) → ((mine s).triggered = true → s2 = s1) →
      s2.blockAt (taskSource s.cur) (mine s).xroot (mine s).tcb.toNat true = (s3, .ok m) → m % 256 = 0 → ∃ v : State,
      leAt (v.block m) 208 8 = r.toNat ∧ leAt (v.block m) 200 4 = leAt (s3.block m) 200 4 / 16 % 2 * 16 + 6 ∧
      (∀ j, (j < m + 200 ∨ m + 216 ≤ j) → Mem.get v.mem j = Mem.get s3.mem j) ∧
      ((mine s).triggered = true → exec (.exit a t) s = .next (ended v)) ∧
      ((mine s).triggered = false → (∀ w, v.taskEnds sk false = (w, false) → exec (.exit a t) s = .next (ended w)) ∧
        ∀ w x, v.taskEnds sk false = (w, true) → w.runDecs s.cur 65536 0 l = .done x → exec (.exit a t) s = .next (ended x))) ∧
    (∀ i, again s t = true → role s = 1 → slotKey s.cur % 8 ≠ 5 → ¬ work → (mine s).decs = some (i, []) →
      Leads (.exit a t) s fun u =>
        (∃ v : State, u = (v.returnGrants (mine s).owner false).clearSlot (slotKey s.cur)) ∧
        u.slot sk = { Slot.init sk with flast := (mine s).flast, cstall := (mine s).cstall, nextCmd := (mine s).nextCmd } ∧
        ∀ i < 4, ∃ l, u.seq (slotKey s.cur * 4 + i) = { tlb := l }) ∧
    (s.canIssue s.cur = true → slotKey s.cur % 8 = 5 → Leads (.exit a t) s fun u => Trapped s u (mine s) 1 0 0 0)

/-! ### Control registers, FP32, the spill memory -/

/-- R186, R187, and the registers of R145, R188, R197, R198, R248, R271, R277, R333 and R370. That CSRR reads after its own
pops (log entry 18), that MSTALL reads as a free value once an MGO has started (log entry 14), and what is read of a unit's
position between its steps (log entry 20) are the model's choices. -/
def Obligations.ControlRegisterReads : Prop :=
  ∀ (s : State) (d : BitVec 5) (n : BitVec 10) (t : BitVec 4),
    let k := s.cur
    let sk := slotKey k
    let core := s.core (k / 32)
    let v := (mine s).vec
    let m := (mine s).mat
    let i := (mine s).mis
    let w (x : Nat) : Word := BitVec.ofNat 64 x
    let started (p : Instr → Bool) : Nat := if ∃ c ∈ s.cmds, slotKey c.seqk = sk ∧ p c.ins = true ∧ c.phase ≠ .waiting then 1 else 0
    let sum (l : List Nat) (at' step : Nat) : Nat := (l.zipIdx.map fun x => x.1 * 2 ^ (at' + step * x.2)).sum
    let filled (q : Nat) : Nat := ((Kv.get [] (mine s).queues q).filter fun e => e.data.isSome).length
    (csrAssigned n.toNat = true → n ≠ 0x054 → ready s t [d, 0] = true →
      Leads (.csrr d n t) s fun u => Retires s u t d ((begun s t).csr k n.toNat) (next4 s)) ∧
    (ready s t [d, 0] = true → Leads (.csrr d 0x054 t) s fun u =>
      u.fresh = s.fresh + 1 ∧ Retires s { u with fresh := s.fresh } t d (if (mine s).mat.used then Config.freeWord s.fresh else 0) (next4 s)) ∧
    (csrAssigned n.toNat = false → s.canIssue k = true → Leads (.csrr d n t) s fun u => Trapped s u (mine s) 1 0 0 0) ∧
    (s.csr k 0x000 = Kv.get 0 s.cycles (k / 32 / 128 % 8) ∧ s.csr k 0x001 = s.time ∧
      s.csr k 0x002 = w (k / 32 + k / 4 % 8 * 1024) ∧ s.csr k 0x003 = (mine s).taskid ∧ s.csr k 0x004 = (mine s).seed ∧
      s.csr k 0x005 = (self s).srcnt.setWidth 64 ∧
      s.csr k 0x006 = w ((self s).last.toNat + (mine s).nextCmd.toNat * 2 ^ 16 + if (self s).any then 2 ^ 32 else 0) ∧
      s.csr k 0x007 = (mine s).evovf.setWidth 64 ∧ s.csr k 0x008 = core.hbper.setWidth 64 ∧
      s.csr k 0x009 = core.hblast ∧
      (∀ j < 16, s.csr k (0x010 + j) = w (Kv.get 0 (mine s).events j)) ∧ s.csr k 0x020 = (mine s).troot ∧
      (∀ j < 4, s.csr k (0x021 + j) = Kv.get 0 (mine s).swin j) ∧ s.csr k 0x025 = w (mine s).splim ∧
      s.csr k 0x026 = w ((mine s).lx + (mine s).xl * 2 ^ 5 + (mine s).xs * 2 ^ 10 + (mine s).sx * 2 ^ 15) ∧
      s.csr k 0x027 = w (sum ((List.range 6).map filled) 0 4 + (mine s).cqL.length * 2 ^ 24 + (mine s).cqS.length * 2 ^ 29) ∧
      s.csr k 0x028 = core.cacoll.setWidth 64 ∧
      ∀ j < 8, s.csr k (0x030 + j) = (Kv.get 0 (mine s).shapes j).setWidth 64) ∧
    (s.csr k 0x040 = v.lanes.setWidth 64 ∧ s.csr k 0x041 = v.trip.setWidth 64 ∧ s.csr k 0x042 = v.tail.setWidth 64 ∧
      s.csr k 0x043 = w (v.rot + v.pred.toNat * 2 ^ 8) ∧
      s.csr k 0x044 = w (v.upc.toNat + (if v.bank then 2 ^ 12 else 0) +
        (if ∃ c ∈ s.inFlight sk, c.isVrun = true ∧ c.begun = true then 2 ^ 13 else 0) + v.passes % 2 ^ 32 * 2 ^ 32) ∧
      s.csr k 0x045 = v.steps ∧
      (∀ j < 2, s.csr k (0x046 + j) = w (sum ((List.range 4).map fun x => (Kv.get 0 v.ix (4 * j + x)).toNat) 0 16)) ∧
      s.csr k 0x048 = w (core.gen0.toNat + core.gen1.toNat * 2 ^ 16) ∧ s.csr k 0x049 = v.cfg.setWidth 64) ∧
    (s.csr k 0x050 = w (sum ((List.range 4).map fun j => m.idx.getD j 0 % 2 ^ 16) 0 16) ∧
      s.csr k 0x051 = w (sum ((List.range 2).map fun j => m.idx.getD (4 + j) 0 % 2 ^ 16) 0 16 + (if m.w then 2 ^ 36 else 0) +
        started isMgo * 2 ^ 37 + m.cpos % 4 * 2 ^ 38) ∧
      s.csr k 0x052 = w m.passes ∧
      s.csr k 0x053 = w ((mine s).tmap.length + (mine s).amap.length * 2 ^ 4 + sum (mine s).tmap 8 3 + sum (mine s).amap 32 2) ∧
      s.csr k 0x058 = (mine s).tha ∧
      s.csr k 0x059 = w ((mine s).thEntries.length + (mine s).nodes.length * 2 ^ 9 + (s.liveHandles sk).length * 2 ^ 18) ∧
      s.csr k 0x05A = w (i.k % 256 + i.phase % 16 * 2 ^ 8 + started isMiter * 2 ^ 13 + (if i.grew then 2 ^ 14 else 0) +
        i.prev.toNat * 2 ^ 32) ∧
      s.csr k 0x05B = w (if (mine s).miStop then 1 else 0)) ∧
    (∀ q < 4, (s.copyQueue (k / 32) q = [] → s.csr k (0x060 + q) = 0) ∧ ∀ c rest, s.copyQueue (k / 32) q = c :: rest →
      s.csr k (0x060 + q) = w (c.off % 2 ^ 32 + c.num.toNat * 2 ^ 32 + slotKey c.seqk % 8 * 2 ^ 48 +
        if c.phase ≠ .waiting then 2 ^ 51 else 0)) ∧
    s.csr k 0x064 = w (sum ((List.range 4).map fun q => (s.copyQueue (k / 32) q).length) 0 7 + sum ((List.range 4).map fun q =>
      if (s.copyQueue (k / 32) q).head?.any (fun c => (s.waitsOn (.command c.uid)).isSome) then 1 else 0) 28 1) ∧
    s.csr k 0x06C = core.fcur ∧ s.csr k 0x070 = Kv.get 0 s.throt (k / 32 / 128 % 8) ∧
    s.csr k 0x071 = w ((mine s).mode + (mine s).tix * 2 ^ 10 + (mine s).gid * 2 ^ 30) ∧ s.csr k 0x072 = (mine s).ver.setWidth 64 ∧
    s.csr k 0x073 = (mine s).cstall ∧ s.csr k 0x074 = s.health ∧ s.csr k 0x080 = core.serrc ∧ s.csr k 0x081 = core.serrd ∧
    s.csr k 0x082 = (mine s).flast ∧ s.csr k 0x083 = s.pwin ∧
    s.csr k 0x084 = (mine s).prunBase + (match (mine s).runSince with | none => 0 | some t => s.time - t) ∧
    s.csr k 0x085 = s.chalt.setWidth 64

/-- R186 with the access codes of R187, R188, R197, R271, R277 and R370; R199 and R269 for IXLO, IXHI and THA. That the old
value is read after the instruction's own pops is the model's choice (log entry 18). -/
def Obligations.ControlRegisterWrites : Prop :=
  ∀ (s : State) (d a : BitVec 5) (t : BitVec 4), ready s t [d, a] = true →
    ∀ f ∈ ([(.csrw, fun _ x => x, fun x => x), (.csrs, fun old x => old ||| x, fun x => x), (.csrc, fun old x => old &&& ~~~x, fun _ => 0)] :
        List ((BitVec 5 → BitVec 5 → BitVec 10 → BitVec 4 → Instr) × (Word → Word → Word) × (Word → Word))),
      let k := s.cur
      let x := s.reg k a
      let core := s.core (k / 32)
      let five := slotKey k % 8 = 5
      let m := moved (role s) t (mine s)
      let word (n : Nat) : Word := f.2.1 (s.csr k n) x
      let ones : Word := f.2.2 x
      let becomes (n : BitVec 10) (c : Slot) (co : CoreSt) (pw : Word) (ch : BitVec 48) : Prop :=
        Leads (f.1 d a n t) s fun u =>
          u = { s with seqs := u.seqs, slots := u.slots, cores := u.cores, pwin := pw, chalt := ch } ∧
          (∀ j, u.slot j = if j = slotKey k then c else s.slot j) ∧ (∀ j, u.core j = if j = k / 32 then co else s.core j) ∧
          (∀ j, j ≠ k → u.seq j = s.seq j) ∧ self u = { self s with pc := next4 s, regs := (self u).regs } ∧
          Writes s u d ((begun s t).csr k n.toNat)
      let slot (n : BitVec 10) (c : Slot) : Prop := becomes n c core s.pwin s.chalt
      let ix (n : BitVec 10) (base : Nat) : Prop :=
        (s.runInFlight (slotKey k) = true → exec (f.1 d a n t) s = .next s) ∧
        (s.runInFlight (slotKey k) = false → ∃ l, slot n { m with vec := { m.vec with ix := l } } ∧
          ∀ j, Kv.get 0 l j = if base ≤ j ∧ j < base + 4 then BitVec.ofNat 16 ((word n.toNat).toNat / 2 ^ (16 * (j - base)))
            else Kv.get 0 (mine s).vec.ix j)
      slot 0x004 { m with seed := word 0x004 } ∧
      slot 0x040 { m with vec := { m.vec with lanes := (word 0x040).setWidth 8 } } ∧
      slot 0x05B { m with miStop := (word 0x05B).getLsbD 0 } ∧
      slot 0x007 { m with evovf := m.evovf &&& ~~~ (ones.setWidth 16) } ∧
      becomes 0x028 m { core with cacoll := core.cacoll &&& ~~~ (ones.setWidth 32) } s.pwin s.chalt ∧
      becomes 0x008 m (if five then { core with hbper := (word 0x008).setWidth 16 } else core) s.pwin s.chalt ∧
      becomes 0x080 m (if five then { core with serrc := core.serrc &&& ~~~ ones } else core) s.pwin s.chalt ∧
      becomes 0x081 m (if five then { core with serrd := core.serrd &&& ~~~ ones } else core) s.pwin s.chalt ∧
      becomes 0x083 m core (if five then word 0x083 &&& 0xFFFFFFFFFFFF else s.pwin) s.chalt ∧
      becomes 0x085 m core s.pwin (if five then s.chalt &&& ~~~ (ones.setWidth 48) else s.chalt) ∧
      ix 0x046 0 ∧ ix 0x047 4 ∧
      (s.liveHandles (slotKey k) = [] → slot 0x058 { m with tha := word 0x058 &&& 0xFFFFFFF000, thClear := true }) ∧
      (s.liveHandles (slotKey k) ≠ [] → exec (f.1 d a 0x058 t) s = .next (((begun s t).trapAt k 6 6 0 5).unissue k t)) ∧
      ∀ n : BitVec 10, csrAssigned n.toNat = true →
        n ∉ [0x004, 0x007, 0x008, 0x028, 0x040, 0x046, 0x047, 0x054, 0x058, 0x05B, 0x080, 0x081, 0x083, 0x085] → slot n m

/-- R177 to R179. The operations on exact values are those of Machine/Float.lean. -/
def Obligations.FloatingPointMembersRoundOnce : Prop :=
  ∀ (s : State) (d a b : BitVec 5) (t : BitVec 4), role s = 1 ∨ role s = 3 →
    let fp (r : BitVec 5) : FVal := val32 ((s.reg s.cur r).toNat % 2 ^ 32)
    let rounding (r : BitVec 2) : Rm :=
      if r = 0 then .rne else if r = 1 then .rz else .sr (draw (mine s).seed (if role s = 1 then 1 else 2) 0 (self s).srcnt.toNat)
    let rounds (i : Instr) (r : BitVec 2) (v : FVal) : Prop := Leads i s fun u =>
      Becomes s u (moved (role s) t (mine s))
        { self s with pc := next4 s, regs := (self u).regs, srcnt := (self s).srcnt + if r = 2 then 1 else 0 } ∧
      Writes s u d (BitVec.ofNat 64 (round32 (rounding r) v))
    let exact (i : Instr) (v : Word) : Prop := Leads i s fun u => Retires s u t d v (next4 s)
    (ready s t [d, a, b] = true → ∀ r : BitVec 2, r ≠ 3 →
      rounds (.fadd d a b r t) r ((fp a).add (fp b)) ∧ rounds (.fsub d a b r t) r ((fp a).sub (fp b)) ∧
      rounds (.fmul d a b r t) r ((fp a).mul (fp b)) ∧ rounds (.fdiv d a b r t) r ((fp a).div (fp b)) ∧
      rounds (.fmac d a b r t) r ((fp d).add ((fp a).mul (fp b)))) ∧
    (ready s t [d, a] = true → ∀ r : BitVec 2, r ≠ 3 →
      rounds (.fsqrt d a r t) r (fp a).sqrt ∧ rounds (.fitof d a r t) r (ofInt (s.reg s.cur a).toInt 0 false)) ∧
    (ready s t [d, a, b] = true →
      exact (.fmin d a b t) (BitVec.ofNat 64 (round32 .rne ((fp a).min (fp b)))) ∧
      exact (.fmax d a b t) (BitVec.ofNat 64 (round32 .rne ((fp a).max (fp b)))) ∧
      exact (.feq d a b t) (truth ((fp a).eq (fp b) = true)) ∧ exact (.flt d a b t) (truth ((fp a).lt (fp b) = true)) ∧
      exact (.fle d a b t) (truth ((fp a).le (fp b) = true))) ∧
    (ready s t [d, a] = true →
      exact (.fftoi d a 0 t) (BitVec.ofInt 64 (toSigned 64 .rne (fp a))) ∧
      exact (.fftoi d a 1 t) (BitVec.ofInt 64 (toSigned 64 .rz (fp a)))) ∧
    (ready s t [d] = true → ∀ i : BitVec 16, exact (.fli d i t) (BitVec.ofNat 64 (round32 .rne (decodeF bf16 i.toNat)))) ∧
    (s.canIssue s.cur = true → ∀ i ∈ [Instr.fadd d a b 3 t, .fsub d a b 3 t, .fmul d a b 3 t, .fdiv d a b 3 t, .fmac d a b 3 t,
      .fsqrt d a 3 t, .fitof d a 3 t], Leads i s fun u => Trapped s u (mine s) 1 0 0 0)

/-- R63, R64, R66, R69, R178, R214: the operations on exact values, and their rounding. -0 - (-0) is +0 by the model's choice
(log entry 93). -/
def Obligations.RoundingKeepsRepresentableValues : Prop :=
  ExactOnNumbers ∧ ExactOnSpecials ∧ RoundsToNeighbours ∧
  (∀ (rm : Rm) (x : BitVec 32),
    let nan := x.toNat / 2 ^ 23 % 256 = 255 ∧ x.toNat % 2 ^ 23 ≠ 0
    (nan → round32 rm (val32 x.toNat) = 0x7FC00000) ∧ (¬ nan → round32 rm (val32 x.toNat) = x.toNat)) ∧
  ∀ x : BitVec 16, ¬ (x.toNat / 2 ^ 7 % 256 = 255 ∧ x.toNat % 2 ^ 7 ≠ 0) →
    round32 .rne (decodeF bf16 x.toNat) = x.toNat * 2 ^ 16

/-- R160 and R161. Spill words stand under slot × 1024 + word. Which FENCEs and acquires hold a spill access back is the
model's choice (log entry 120). -/
def Obligations.SpillAccessesReadAndWriteOneWord : Prop :=
  ∀ (s : State) (d : BitVec 5) (o : BitVec 10) (t : BitVec 4), ready s t [d] = true →
    let at' := slotKey s.cur * 1024 + o.toNat
    (s.heldBack s.cur .spill = true → ∀ i ∈ [Instr.ldsp d o t, .stsp d o t], exec i s = .next s) ∧
    (s.heldBack s.cur .spill = false →
    (o.toNat < Min.min (mine s).splim 1024 →
      (Leads (.ldsp d o t) s fun u => Retires s u t d (Kv.get 0 s.spill at') (next4 s)) ∧
      Leads (.stsp d o t) s fun u =>
        Becomes s { u with spill := s.spill } (moved (role s) t (mine s)) { self s with pc := next4 s } ∧
        ∀ j, Kv.get 0 u.spill j = if j = at' then s.reg s.cur d else Kv.get 0 s.spill j) ∧
    (Min.min (mine s).splim 1024 ≤ o.toNat →
      (Leads (.ldsp d o t) s fun u => Trapped s u (mine s) 4 0 (o.toNat * 8) 0) ∧
      Leads (.stsp d o t) s fun u => Trapped s u (mine s) 4 0 (o.toNat * 8) 0))

/-! ### Loads, stores, order, atomic operations -/

/-- R155, R159 and R162 at issue. A load that traps at issue counts as issued, which leaves its mark (R159). `prompt` is the
model's own timing (log entry 6): the identity when `eager` is false. -/
def Obligations.LoadsEnterTheLoadQueue : Prop :=
  ∀ (s : State) (a : BitVec 5) (i : BitVec 10) (t : BitVec 4),
    s.heldBack s.cur .load = false → (self s).loads.length < 16 →
    let q := self s
    let entry (op : QOp) (x : Nat) : QEntry :=
      ⟨q.nextEntry, op, x, q.pc, t, (mine s).seed, if q.any then q.last else 0⟩
    let entered (op : QOp) (x : Nat) : Seq :=
      { q with issued := true, pc := next4 s, loads := q.loads ++ [entry op x], nextEntry := q.nextEntry + 1 }
    let c := popped (role s) t (mine s)
    (∀ (d : BitVec 5) (w : BitVec 2), role s = 0 ∨ role s = 3 → issuable s t [d, a] = true →
      let x := z64 ((s.reg s.cur a).toNat + i.toInt * 2 ^ w.toNat)
      let fits := sliceOk x.toNat (2 ^ w.toNat) = true ∧ x.toNat % 2 ^ w.toNat = 0 ∧
        s.window (slotKey s.cur) x.toNat (2 ^ w.toNat) = true
      (fits → ∃ v : State,
        exec (.ld d a w i t) s = .next (left s (v.prompt s.cur)) ∧
        Becomes s v { c with touched := true } (entered (.load (2 ^ w.toNat) true d) x.toNat)) ∧
      (fits → ∃ v : State,
        exec (.ldu d a w i t) s = .next (left s (v.prompt s.cur)) ∧
        Becomes s v { c with touched := true } (entered (.load (2 ^ w.toNat) false d) x.toNat)) ∧
      (¬ fits → ∀ j ∈ [Instr.ld d a w i t, .ldu d a w i t], Leads j s fun u =>
        Trapped s u { mine s with touched := true } 3 0 x.toNat 0)) ∧
    ∀ n : BitVec 2, role s = 0 → issuable s t [a] = true →
      let x := z64 ((s.reg s.cur a).toNat + i.toInt * 512)
      let fits := sliceOk x.toNat 512 = true ∧ x.toNat % 128 = 0 ∧ s.window (slotKey s.cur) x.toNat 512 = true
      let dq := Kv.get [] (mine s).queues n.toNat
      (fits → dq.length < 8 → s.cpqBusy (slotKey s.cur) n.toNat = false → ∃ v : State,
        exec (.vld n a i t) s = .next (left s (v.prompt s.cur)) ∧ v.fresh = s.fresh + 1 ∧
        Becomes s { v with fresh := s.fresh }
          { c with queues := Kv.put (mine s).queues n.toNat (dq ++ [⟨s.fresh, none⟩]), sideEffect := true, touched := true }
          (entered (.vload n.toNat s.fresh) x.toNat)) ∧
      (fits → 8 ≤ dq.length → exec (.vld n a i t) s = .next s) ∧
      (¬ fits → Leads (.vld n a i t) s fun u => Trapped s u { mine s with touched := true } 3 0 x.toNat 0)

/-- R28, R155, R159 and R162 at issue. A store that traps at issue counts as issued, which leaves its marks (R159). It
retires as it enters: its pushes are made, or owed, before it performs. `prompt` is the model's own timing (log entry 6). -/
def Obligations.StoresEnterTheStoreQueue : Prop :=
  (∀ (s : State) (k : Nat) (t : BitVec 4), s.retireStore k t =
    if (s.seq k).owed = [] ∧ (s.slot (slotKey k)).pushOk (roleOf k) t = true then s.modSlot (slotKey k) fun c => c.push (roleOf k) t
    else s.modSeq k fun q => { q with owed := q.owed ++ [t], owing := some (q.nextEntry - 1, q.owed.length + 1) }) ∧
  ∀ (s : State) (a : BitVec 5) (i : BitVec 10) (t : BitVec 4),
    s.heldBack s.cur .store = false → (self s).stores.length < 16 →
    let q := self s
    let entered (op : QOp) (x : Nat) : Seq :=
      { q with issued := true, pc := next4 s, nextEntry := q.nextEntry + 1
               stores := q.stores ++ [⟨q.nextEntry, op, x, q.pc, 0, (mine s).seed, if q.any then q.last else 0⟩] }
    let c := popped (role s) t (mine s)
    (∀ (b : BitVec 5) (w : BitVec 2), role s = 2 ∨ role s = 3 →
      let x := z64 ((s.reg s.cur a).toNat + i.toInt * 2 ^ w.toNat)
      let fits := sliceOk x.toNat (2 ^ w.toNat) = true ∧ x.toNat % 2 ^ w.toNat = 0
      (issuable s t [b, a] = true → fits → ∃ v : State,
        exec (.st b a w i t) s = .next (left s ((v.retireStore s.cur t).prompt s.cur)) ∧
        Becomes s v { c with sideEffect := true, touched := true }
          (entered (.store (leBytes (2 ^ w.toNat) (s.reg s.cur b).toNat)) x.toNat)) ∧
      (issuable s t [b, a] = true → ¬ fits → Leads (.st b a w i t) s fun u =>
        Trapped s u { mine s with sideEffect := true, touched := true } 3 0 x.toNat 0)) ∧
    ∀ n : BitVec 1, role s = 2 →
      let x := z64 ((s.reg s.cur a).toNat + i.toInt * 512)
      let fits := sliceOk x.toNat 512 = true ∧ x.toNat % 128 = 0
      (issuable s t [a] = true → fits → ∀ e rest, Kv.get [] (mine s).queues (4 + n.toNat) = e :: rest → ∃ v : State,
        exec (.vst n a i t) s = .next (left s ((v.retireStore s.cur t).prompt s.cur)) ∧
        Becomes s v { c with queues := Kv.put (mine s).queues (4 + n.toNat) rest, sideEffect := true, touched := true }
          (entered (.vstore (e.data.getD (zeros 512))) x.toNat)) ∧
      (issuable s t [a] = true → fits → Kv.get [] (mine s).queues (4 + n.toNat) = [] → exec (.vst n a i t) s = .next s) ∧
      (issuable s t [a] = true → ¬ fits → Leads (.vst n a i t) s fun u =>
        Trapped s u { mine s with sideEffect := true, touched := true } 3 0 x.toNat 0)

/-- R155, R156, R159, R312 and R358. The stored bytes are those from `x` on, which the meaning computes as `memAddr`. An STS
that waits has issued: it has its marks, and a place in the store queue (`strong`). -/
def Obligations.StrongStoresPerformAtOnce : Prop :=
  ∀ (s : State) (b a : BitVec 5) (w : BitVec 2) (i : BitVec 10) (t : BitVec 4),
    role s = 2 ∨ role s = 3 → s.heldBack s.cur .store = false →
    let n : Nat := 2 ^ w.toNat
    let x := z64 ((s.reg s.cur a).toNat + i.toInt * n)
    let fits := sliceOk x.toNat n = true ∧ x.toNat % n = 0 ∧ s.window (slotKey s.cur) x.toNat n = true
    let free := (self s).stores = [] ∧ ∀ e ∈ (self s).loads, overlap x.toNat n e.range.1 e.range.2 = false
    (issuable s t [b, a] = true → 16 ≤ (self s).stores.length → exec (.sts b a w i t) s = .next s) ∧
    (ready s t [b, a] = true → fits → free → (mine s).nodes = [] → (mine s).demands = [] → s.verifyLine .scratch x.toNat = none →
      Leads (.sts b a w i t) s fun u =>
        Becomes s { u with scratch := s.scratch, bad := s.bad, ecc := s.ecc, tags := s.tags }
          { moved (role s) t (mine s) with sideEffect := true, nokill := true, touched := true }
          { self s with pc := next4 s, strong := false, nextEntry := (self s).nextEntry + 1 } ∧
        ∀ j, Mem.get u.scratch j =
          if x.toNat ≤ j ∧ j < x.toNat + n then BitVec.ofNat 8 ((s.reg s.cur b).toNat / 256 ^ (j - x.toNat))
          else Mem.get s.scratch j) ∧
    (issuable s t [b, a] = true → fits → (self s).stores.length < 16 → ¬ free → Leads (.sts b a w i t) s fun u =>
      Becomes s u { popped (role s) t (mine s) with sideEffect := true, nokill := true, touched := true }
        { self s with issued := true, strong := true }) ∧
    (issuable s t [b, a] = true → ¬ fits → (self s).stores.length < 16 → Leads (.sts b a w i t) s fun u =>
      Trapped s u { mine s with sideEffect := true, nokill := true, touched := true } 3 0 x.toNat 0)

/-- R28, R155, R156, R158, R159 and R162. A load whose pushes have no room does not retire, and its sequencer stalls; a store
that owes a push has not retired, and does not perform. That a load waits for its room before it performs, and that the queues
of a slot that stops drain all the same, the pushes owed (`roomNow`), are the model's choices (log entry 22). `settle` lets
MARKs and FENCEs retire (`MarksAndFencesRetire`). -/
def Obligations.QueueHeadsPerformInOrder : Prop :=
  ∀ (s : State) (k : Nat) (e : QEntry) (rest : List QEntry),
    let now := s.roomNow k e.t = true
    ((s.seq k).loads = e :: rest → blockedBy e (s.seq k).stores = false →
      (∀ (w : Nat) (signed : Bool) (rd : BitVec 5), e.op = .load w signed rd → w ∈ [1, 2, 4, 8] →
        s.verify .scratch e.addr w = none →
        let x := leNat (Mem.read s.scratch e.addr w)
        let v : Word := if signed = true ∧ 2 ^ (8 * w - 1) ≤ x then z64 ((x : Int) - 2 ^ (8 * w)) else BitVec.ofNat 64 x
        (now → exec (.loadPerform k) s = .next ((((s.modSeq k fun q => { q with loads := rest, full := q.full.erase e.id }).setReg
          k rd v).pushOwe k e.t).settle k 40)) ∧
        (¬ now → e.id ∉ (s.seq k).full →
          exec (.loadPerform k) s = .next ((s.modSeq k fun q => { q with full := q.full ++ [e.id] }).settle k 40))) ∧
      (∀ dq ticket, e.op = .vload dq ticket → now → s.verify .scratch e.addr 512 = none → ∃ v : State,
        exec (.loadPerform k) s = .next ((v.pushOwe k e.t).settle k 40) ∧
        v = { s with seqs := v.seqs, slots := v.slots } ∧
        (∀ j, v.seq j = if j = k then { s.seq k with loads := rest, full := (s.seq k).full.erase e.id } else s.seq j) ∧
        ∀ j, v.slot j = if j ≠ slotKey k then s.slot j else { s.slot (slotKey k) with
          queues := Kv.put (s.slot (slotKey k)).queues dq ((Kv.get [] (s.slot (slotKey k)).queues dq).map fun x =>
            if x.ticket = ticket then { x with data := some (Mem.read s.scratch e.addr 512) } else x) })) ∧
    ((s.seq k).stores = e :: rest → (s.slot (slotKey k)).stopping = none → (∃ n, (s.seq k).owing = some (e.id, n)) →
      exec (.storePerform k) s = .next (s.settle k 40)) ∧
    ((s.seq k).stores = e :: rest → blockedBy e (s.seq k).loads = false → now →
      ((s.slot (slotKey k)).stopping = none → ∀ x, (s.seq k).owing = some x → x.1 ≠ e.id) → ∀ d, (e.op = .store d ∨ e.op = .vstore d) →
      (s.window (slotKey k) e.addr d.length = true → (s.slot (slotKey k)).nodes = [] → (s.slot (slotKey k)).demands = [] → 0 < d.length →
        (∀ j < d.length, s.verifyLine .scratch (e.addr + j) = none) → ∃ v : State,
        exec (.storePerform k) s = .next (v.settle k 40) ∧
        v = { s with seqs := v.seqs, scratch := v.scratch, bad := v.bad, ecc := v.ecc, tags := v.tags } ∧
        (∀ j, v.seq j = if j = k then { s.seq k with stores := rest, full := (s.seq k).full.erase e.id } else s.seq j) ∧
        ∀ j, Mem.get v.scratch j =
          if e.addr ≤ j ∧ j < e.addr + d.length then d.getD (j - e.addr) 0 else Mem.get s.scratch j) ∧
      (s.window (slotKey k) e.addr d.length = false → ∃ v : State,
        exec (.storePerform k) s = .next (v.settle k 40) ∧ v.scratch = s.scratch ∧ v.mem = s.mem ∧
        (v.seq k).stores = [] ∧ (v.seq k).stopped = true ∧
        ∃ r : TrapRec, v.policy = s.policy ++ [.trap r] ∧ r.code = 3 ∧ r.prec = false ∧ r.pc = e.pc ∧
          r.addr = BitVec.ofNat 56 e.addr)) ∧
    ((s.seq k).loads = [] → exec (.loadPerform k) s = .next (s.settle k 40)) ∧
    ((s.seq k).stores = [] → exec (.storePerform k) s = .next (s.settle k 40))

/-- R28, R163, R185, R285 and R286. A MARK or FENCE whose pushes have no room does not retire; that it does so while its slot
stops, its pushes owed (`roomNow`), is the model's choice (log entry 22). A FENCE waits for its sequencer's own commands, not for
those that a replay has injected ahead of it (`inj` 3). What waits with a `post` is an EVPOST behind MARKs. `ovFence` is what
the overlap checker notes of an ENG FENCE (R293); `prompt` is the model's own timing (log entry 6). -/
def Obligations.MarksAndFencesRetire : Prop :=
  (∀ (s : State) (t : BitVec 4), issuable s t [] = true →
    let q := self s
    let c := popped (role s) t (mine s)
    let e : QEntry := ⟨q.nextEntry, .mark, 0, q.pc, t, (mine s).seed, if q.any then q.last else 0⟩
    (q.loads.length < 16 → q.stores.length < 16 → ∃ v : State,
      exec (.mark t) s = .next (left s ((v.settle s.cur 40).prompt s.cur)) ∧
      Becomes s v c { q with issued := true, pc := next4 s, loads := q.loads ++ [e], stores := q.stores ++ [e]
                             nextEntry := q.nextEntry + 1 }) ∧
    (16 ≤ q.loads.length ∨ 16 ≤ q.stores.length → exec (.mark t) s = .next s) ∧
    ∀ (n : BitVec 3) (k : BitVec 5),
      (n ≠ 7 → k ≠ 0 → ∃ v : State,
        exec (.fence n k t) s = .next (left s ((v.settle s.cur 40).prompt s.cur)) ∧
        Becomes s v c { q with
          issued := true, pc := next4 s, nextEntry := q.nextEntry + 1
          fences := q.fences ++ [⟨q.nextEntry, k,
            ((q.loads ++ q.stores).filter fun e => earlierSide k e && (begun s t).entryInScope s.cur n.toNat e).map (·.id),
            if k.getLsbD 0 then (s.cmds.filter fun c => decide (c.seqk = s.cur) && decide (c.inj ≠ 3)).map (·.uid) else [], t,
            none⟩] }) ∧
      (n = 7 ∨ k = 0 → Leads (.fence n k t) s fun u => Trapped s u (mine s) 1 0 0 0)) ∧
  ∀ (s : State) (k n : Nat), (s.seq k).owed = [] →
    let q := s.seq k
    (∀ a as bs, q.loads = a :: as → q.stores = a :: bs → a.op = .mark →
      (s.roomNow k a.t = true →
        s.settle k (n + 1) =
          ((s.modSeq k fun q => { q with loads := as, stores := bs, full := q.full.erase a.id }).pushOwe k a.t).settle k n) ∧
      (s.roomNow k a.t = false → a.id ∉ q.full →
        s.settle k (n + 1) = (s.modSeq k fun q => { q with full := q.full ++ [a.id] }).settle k n)) ∧
    (q.loads = [] → ∀ f fs, q.fences = f :: fs →
      let posted (u : State) : State := match f.post with
        | some p => u.modSlot (slotKey k) fun c => c.post p.1 p.2
        | none => u
      ((∀ e ∈ q.stores, e.id ∉ f.entries) → (∀ c ∈ s.cmds, c.uid ∉ f.cmds) →
        (s.roomNow k f.t = true →
          s.settle k (n + 1) =
            (posted (((s.modSeq k fun q => { q with fences := fs, full := q.full.erase f.id }).pushOwe k f.t).ovFence k f)).settle k n) ∧
        (s.roomNow k f.t = false → f.id ∉ q.full →
          s.settle k (n + 1) = (s.modSeq k fun q => { q with full := q.full ++ [f.id] }).settle k n)) ∧
      (fs = [] → (∃ e ∈ q.stores, e.id ∈ f.entries) ∨ (∃ c ∈ s.cmds, c.uid ∈ f.cmds) → s.settle k n = s)) ∧
    (∀ (c : Slot) (e n : Nat), c.post e n =
      { c with events := Kv.put c.events e (Min.min (Kv.get 0 c.events e + n) 0xFFFF), posts := c.posts + 1
               evovf := if 0xFFFF < Kv.get 0 c.events e + n then c.evovf ||| BitVec.ofNat 16 (2 ^ e) else c.evovf }) ∧
    ∀ t : BitVec 4, s.pushOwe k t =
      if (s.slot (slotKey k)).pushOk (roleOf k) t then s.modSlot (slotKey k) fun c => c.push (roleOf k) t
      else s.modSeq k fun q => { q with owed := [t] }

/-- R284, R288 to R290, R312 and R358. The home and the state after its translation are those of `Reaches`. A release form waits
until both queues of its sequencer are empty (an AMO waits for no command); one that waits has issued, has its marks and has a
place in the store queue (`strong`). At a peer's memory it is sent, and its sequencer waits for the write's acknowledgement. -/
def Obligations.AtomicOperationsEnterOrPerform : Prop :=
  ∀ (s : State) (d a b : BitVec 5) (o : BitVec 2) (t : BitVec 4), role s = 2 ∨ role s = 3 →
    s.heldBack s.cur .amo = false → (self s).stores.length < 16 →
    (∀ s1 h, s.findHome s.cur (s.reg s.cur a) 4 0 0 true = .home s1 h → (mine s1).det = true → issuable s t [d, a, b] = true →
      exec (.amofadd d a b o t) s = .next (s1.trapAt s.cur 1 0 0)) ∧
    ∀ p : Instr × Nat × Bool,
      (p ∈ amos.flatMap (fun m => [(m.1 d a b o 0 t, m.2.1, false), (m.1 d a b o 1 t, m.2.1, true)]) ∨
        p = (.amofadd d a b o t, 11, true) ∧ (mine s).det = false) →
      let n := if p.2.2 then 4 else 8
      (∀ s1 s2 h, Reaches s t (s.reg s.cur a) n 0 0 true s1 s2 h → (mine s1).det = (mine s).det →
        (o.toNat < 2 → issuable s t [d, a, b] = true → ∃ u : State,
          exec p.1 s = .next (left s (u.prompt s.cur)) ∧
          Becomes s2 u { mine s2 with sideEffect := true, nokill := true }
            { self s2 with
              pc := s2.pc s.cur + 4, nextEntry := (self s2).nextEntry + 1
              stores := (self s2).stores ++ [⟨(self s2).nextEntry,
                .amo h p.2.1 p.2.2 o.toNat (s2.reg s.cur b) (s2.reg s.cur d) d, 0, s2.pc s.cur, t, (mine s2).seed,
                if (self s2).any then (self s2).last else 0⟩] }) ∧
        (2 ≤ o.toNat → issuable s t [d, a, b] = true → Quiet s2 →
          (self s2).loads = [] → (self s2).stores = [] →
          ∀ s3 old, s2.amoAt h p.2.1 p.2.2 fadd32 (s2.reg s.cur b) (s2.reg s.cur d) (s.cur / 32) = .ok (s3, old) →
            (h.peer = false →
              exec p.1 s = .next (retired s t ((((s3.setReg s.cur d (amoOld p.2.1 p.2.2 old)).adv s.cur 4).mark' s.cur true).modSeq
                s.cur fun q => { q with strong := false, nextEntry := q.nextEntry + 1 }))) ∧
            (h.peer = true → ∃ pa, h = .main pa ∧ exec p.1 s =
              .next (({ s3.sendWrite s3.nextUid 1 pa 1 with nextUid := s3.nextUid + 1 }.modSeq s.cur fun q =>
                { q with remote := some (s3.nextUid, old) }).mark' s.cur true |>.modSeq s.cur fun q => { q with strong := true }))) ∧
        (2 ≤ o.toNat → issuable s t [d, a, b] = true → (self s2).loads ≠ [] ∨ (self s2).stores ≠ [] →
          exec p.1 s = .next ((s2.mark' s.cur true).modSeq s.cur fun q => { q with strong := true }))) ∧
      (∀ x, s.cellOf s.cur (s.reg s.cur a) n = .slice x → issuable s t [d, a, b] = true →
        (o.toNat < 2 → Leads p.1 s fun u => ∃ v, u = left s (v.prompt s.cur) ∧ v.pc s.cur = next4 s ∧ ∃ e,
          (self v).stores = (self s).stores ++ [e] ∧
            e.op = .amo (.slice x) p.2.1 p.2.2 o.toNat (s.reg s.cur b) (s.reg s.cur d) d) ∧
        (2 ≤ o.toNat → Quiet s → (self s).loads = [] → (self s).stores = [] → s.verifyLine .scratch x = none →
          Leads p.1 s fun u => ∃ s3 old,
            (begun s t).amoAt (.slice x) p.2.1 p.2.2 fadd32 (s.reg s.cur b) (s.reg s.cur d) (s.cur / 32) = .ok (s3, old) ∧
            u.scratch = s3.scratch ∧ Writes s u d (amoOld p.2.1 p.2.2 old) ∧ u.pc s.cur = next4 s)) ∧
      (∀ va s1 pa, s.cellOf s.cur (s.reg s.cur a) n = .virt va → va % n ≠ 0 → issuable s t [d, a, b] = true →
        s.xlateSeq s.cur va (.atomic s.cur) 5 { kind := 1, atomic := true } = (s1, .ok pa 0) → s1.cur = s.cur →
        exec p.1 s = .next (s1.trapAt s.cur 3 0 (s.reg s.cur a).toNat)) ∧
      (s.cellOf s.cur (s.reg s.cur a) n = .bounds → issuable s t [d, a, b] = true →
        Leads p.1 s fun u => Trapped s u (mine s) 3 0 (s.reg s.cur a).toNat 0)

/-- R289. The sum of FADD is one rounding of the exact sum (R63, R64), the operations of `ExactOnNumbers` and `round32`. -/
def Obligations.AtomicResultsAreTheTables : Prop :=
  (∀ (s : State) (x src : Nat) (v c : Word), x % 4 = 0 → s.verifyLine .scratch x = none →
    let old := leNat (Mem.read s.scratch x 4)
    let new := round32 .rne ((val32 old).add (val32 (v.toNat % 2 ^ 32)))
    ∃ u, s.amoAt (.slice x) 11 true fadd32 v c src = .ok (u, old) ∧
      u = { s with scratch := u.scratch, bad := u.bad, ecc := u.ecc, tags := u.tags } ∧
      ∀ j, Mem.get u.scratch j = if x ≤ j ∧ j < x + 4 then BitVec.ofNat 8 (new / 256 ^ (j - x)) else Mem.get s.scratch j) ∧
  (∀ (s : State) (x src : Nat) (wide : Bool) (v c : Word), ∀ m ∈ amos,
    let n := if wide then 8 else 4
    x % n = 0 → s.verifyLine .scratch x = none →
    let old := leNat (Mem.read s.scratch x n)
    let r := m.2.2 (8 * n) old (v.toNat % 2 ^ (8 * n)) (c.toNat % 2 ^ (8 * n))
    ∃ u, s.amoAt (.slice x) m.2.1 (!wide) fadd32 v c src = .ok (u, old) ∧
      u = { s with scratch := u.scratch, bad := u.bad, ecc := u.ecc, tags := u.tags } ∧
      ∀ j, Mem.get u.scratch j =
        if x ≤ j ∧ j < x + n ∧ r.2 = true then BitVec.ofNat 8 (r.1 / 256 ^ (j - x)) else Mem.get s.scratch j) ∧
  ∀ op old : Nat, op ≤ 11 →
    amoOld op false old = BitVec.ofNat 64 old ∧
    (old < 2 ^ 32 → amoOld op true old = if op ≠ 11 ∧ 2 ^ 31 ≤ old then z64 ((old : Int) - 2 ^ 32) else BitVec.ofNat 64 old)

/-! ### Futures, barriers, counters, guards, configuration -/

/-- R315, R316, R312 and R358. That BWAIT reads its cell under read permission is the model's choice (log entry 21). -/
def Obligations.BarriersCountArrivals : Prop :=
  ∀ (s : State) (d a b : BitVec 5) (t : BitVec 4), role s = 1 → s.heldBack s.cur .amo = false →
    (∀ s1 s2 h x, Reaches s t (s.reg s.cur a) 16 8 9 true s1 s2 h → issuable s t [d, a] = true → Quiet s2 → h.peer = false →
      s2.queuesEmpty s.cur = true → (∀ c ∈ s2.cmds, c.seqk ≠ s.cur) → s2.cell16 h = .ok x →
      let arrive := x % 2 ^ 32 + 1
      let expected := x / 2 ^ 32 % 2 ^ 32
      let phase := x / 2 ^ 64 % 2 ^ 32
      let y := if expected ≤ arrive then expected * 2 ^ 32 + (phase + 1) % 2 ^ 32 * 2 ^ 64
        else arrive + expected * 2 ^ 32 + phase * 2 ^ 64
      (expected ≠ 0 → ∀ s3, s2.writeCell h 12 y (s.cur / 32) = .ok s3 →
        exec (.barr d a t) s = .next (retired s t (((s3.setReg s.cur d (BitVec.ofNat 64 phase)).adv s.cur 4).mark' s.cur true))) ∧
      (expected = 0 → exec (.barr d a t) s = .next ((s2.trapAt s.cur 6 8 0 5).unissue s.cur t))) ∧
    (∀ s1 s2 h, Reaches s t (s.reg s.cur a) 16 8 9 true s1 s2 h → issuable s t [d, a] = true →
      s2.queuesEmpty s.cur = false ∨ (∃ c ∈ s2.cmds, c.seqk = s.cur) →
      exec (.barr d a t) s = .next ((s2.mark' s.cur true).modSeq s.cur fun q => { q with strong := false })) ∧
    (∀ at', s.cellOf s.cur (s.reg s.cur a) 16 = .slice at' → s.verifyLine .scratch at' = none →
      let x := leNat (Mem.read s.scratch at' 16)
      let expected := x / 2 ^ 32 % 2 ^ 32
      let phase := x / 2 ^ 64 % 2 ^ 32
      let n := (phase + 2 ^ 32 - (s.reg s.cur b).toNat % 2 ^ 32) % 2 ^ 32
      (issuable s t [d, a] = true → Quiet s → s.queuesEmpty s.cur = true → (∀ c ∈ s.cmds, c.seqk ≠ s.cur) → expected ≠ 0 →
        Leads (.barr d a t) s fun u => Writes s u d (BitVec.ofNat 64 phase) ∧ u.pc s.cur = next4 s ∧ u.mem = s.mem ∧
          leNat (Mem.read u.scratch at' 16) = (if expected ≤ x % 2 ^ 32 + 1 then expected * 2 ^ 32 + (phase + 1) % 2 ^ 32 * 2 ^ 64
            else x % 2 ^ 32 + 1 + expected * 2 ^ 32 + phase * 2 ^ 64) + x / 2 ^ 96 * 2 ^ 96 ∧
          ∀ j, (j < at' ∨ at' + 16 ≤ j) → Mem.get u.scratch j = Mem.get s.scratch j) ∧
      (issuable s t [d, a, b] = true → 1 ≤ n → n < 2 ^ 31 → Leads (.bwait d a b t) s fun u =>
        Writes s u d (BitVec.ofNat 64 (n - 1)) ∧ u.pc s.cur = next4 s ∧ u.mem = s.mem ∧ u.scratch = s.scratch)) ∧
    ∀ s1 s2 h x, Reaches s t (s.reg s.cur a) 16 8 9 false s1 s2 h → issuable s t [d, a, b] = true → s1.cell16 h = .ok x → s2.cell16 h = .ok x →
      let n := (x / 2 ^ 64 % 2 ^ 32 + 2 ^ 32 - (s.reg s.cur b).toNat % 2 ^ 32) % 2 ^ 32
      (1 ≤ n ∧ n < 2 ^ 31 → exec (.bwait d a b t) s =
        .next (retired s t ((s2.setReg s.cur d (BitVec.ofNat 64 (n - 1))).adv s.cur 4))) ∧
      (¬ (1 ≤ n ∧ n < 2 ^ 31) → exec (.bwait d a b t) s = .next s1)

/-- R310 to R313 and R358. That FRD asks for write permission, and that its check for side effects comes before its own pushes
count, are the model's choices (log entry 21). -/
def Obligations.FuturesAreWrittenOnceAndRead : Prop :=
  ∀ (s : State) (d a b : BitVec 5) (t : BitVec 4), s.heldBack s.cur .amo = false →
    (role s = 1 ∨ role s = 3 →
      ∀ s1 s2 h x, Reaches s t (s.reg s.cur a) 16 8 9 true s1 s2 h → issuable s t [a, b] = true → Quiet s2 → h.peer = false →
      s2.queuesEmpty s.cur = true → s2.cell16 h = .ok x →
      let head := x / 2 ^ 81 * 256
      (x / 2 ^ 64 % 2 = 0 → ∀ s3, s2.writeCell h 16 ((s2.reg s.cur b).toNat + 2 ^ 64) (s.cur / 32) = .ok s3 →
        let s4 := if head = 0 then s3 else { s3 with
          nextRec := s3.nextRec + 1
          wakes := s3.wakes ++ [⟨s3.nextRec, slotKey s.cur, (mine s3).taskid.setWidth 32, (mine s3).troot, BitVec.ofNat 64 head,
            s3.reg s.cur a, s3.ovIds (slotKey s.cur)⟩] }
        exec (.fwr a b t) s = .next (retired s t ((s4.adv s.cur 4).mark' s.cur true))) ∧
      (x / 2 ^ 64 % 2 = 1 → exec (.fwr a b t) s = .next ((s2.trapAt s.cur 6 8 0 3).unissue s.cur t))) ∧
    (role s = 1 ∨ role s = 3 → ∀ s1 s2 h, Reaches s t (s.reg s.cur a) 16 8 9 true s1 s2 h → issuable s t [a, b] = true →
      s2.queuesEmpty s.cur = false →
      exec (.fwr a b t) s = .next ((s2.mark' s.cur true).modSeq s.cur fun q => { q with strong := false })) ∧
    (role s = 1 → (mine s).sideEffect = false → ∀ s1 s2 h x, Reaches s t (s.reg s.cur a) 16 8 9 true s1 s2 h →
      issuable s t [d, a] = true → s2.cell16 h = .ok x → x / 2 ^ 64 % 2 = 0 →
      let c := mine s2
      (1 < c.teamSize → exec (.frd d a t) s = .next ((s2.trapAt s.cur 6 8 0 4).unissue s.cur t)) ∧
      (c.teamSize ≤ 1 → Quiet s2 → ∀ s3 m, s2.blockAt (taskSource s.cur) c.xroot c.tcb.toNat true = (s3, .ok m) → m % 256 = 0 →
        ∃ v : State,
        leAt (v.block m) 8 4 = (leAt (s3.block m) 8 4 + 1) % 2 ^ 32 ∧ leAt (v.block m) 192 8 = x / 2 ^ 81 * 256 % 2 ^ 64 ∧
        leAt (v.block m) 200 4 = 4 ∧
        (∀ j, (j < m + 8 ∨ m + 204 ≤ j ∨ (m + 12 ≤ j ∧ j < m + 192)) → Mem.get v.mem j = Mem.get s3.mem j) ∧
        ∀ w, v.writeCell h 16 (c.tcb.toNat / 2 ^ 8 % 2 ^ 47 * 2 ^ 81 + Min.min (x / 2 ^ 65 % 2 ^ 16 + 1) 0xFFFF * 2 ^ 65 + x % 2 ^ 65)
            (s.cur / 32) = .ok w →
          Leads (.frd d a t) s fun u => u = (w.unstart (slotKey s.cur)).squash (slotKey s.cur) ∧
            (∀ e ∈ u.cmds, slotKey e.seqk ≠ slotKey s.cur) ∧ (mine u).busy = false)) ∧
    (role s = 1 → (mine s).sideEffect = false → ∀ s1 s2 h x, Reaches s t (s.reg s.cur a) 16 8 9 true s1 s2 h →
      issuable s t [d, a] = true → s2.cell16 h = .ok x → x / 2 ^ 64 % 2 = 1 →
      exec (.frd d a t) s = .next (retired s t ((s2.setReg s.cur d (BitVec.ofNat 64 x)).adv s.cur 4))) ∧
    (∀ at', s.cellOf s.cur (s.reg s.cur a) 16 = .slice at' → s.verifyLine .scratch at' = none →
      let x := leNat (Mem.read s.scratch at' 16)
      (role s = 1 ∨ role s = 3 → issuable s t [a, b] = true → Quiet s → s.queuesEmpty s.cur = true → x / 2 ^ 64 % 2 = 0 →
        Leads (.fwr a b t) s fun u => u.pc s.cur = next4 s ∧ u.mem = s.mem ∧ leNat (Mem.read u.scratch at' 16) = (s.reg s.cur b).toNat + 2 ^ 64 ∧
          ∀ j, (j < at' ∨ at' + 16 ≤ j) → Mem.get u.scratch j = Mem.get s.scratch j) ∧
      (role s = 1 → (mine s).sideEffect = false → issuable s t [d, a] = true → x / 2 ^ 64 % 2 = 1 →
        Leads (.frd d a t) s fun u => Writes s u d (BitVec.ofNat 64 x) ∧ u.pc s.cur = next4 s ∧ u.mem = s.mem ∧ u.scratch = s.scratch)) ∧
    (role s = 1 → (mine s).sideEffect = true → issuable s t [d, a] = true →
      Leads (.frd d a t) s fun u => Trapped s u (mine s) 12 8 0 10)

/-- R304 to R307, R309, R312 and R358. A TCB stands at a place `m` of memory, which `blockAt` answers: its counter at byte 8, its
successors' list named at bytes 112 and 120, its state at byte 200. -/
def Obligations.TasksSignalTheirSuccessors : Prop :=
  (∀ (s : State) (src : Source) (root : Word) (va : Nat) (ids : List Nat) (s1 : State) (m : Nat),
    s.blockAt src root va true = (s1, .ok m) → m % 256 = 0 →
    let b := s1.block m
    let n := leAt b 8 4
    let armed := leAt b 200 4 % 16 = 1 ∨ leAt b 200 4 % 16 = 4
    let place := s1.placement m
    (n = 0 → s.decrement src root va ids = (s1, .ok true)) ∧
    (1 < n ∨ (n = 1 ∧ ¬ armed) → ∃ u : State, s.decrement src root va ids = (u, .ok false) ∧ leAt (u.block m) 8 4 = n - 1 ∧
      ∀ a, (a < m + 8 ∨ m + 12 ≤ a) → Mem.get u.mem a = Mem.get s1.mem a) ∧
    (n = 1 → armed → leAt b 220 1 ≤ 1 →
      s1.placeFree (s1.releaseOctant (BitVec.ofNat 64 va) place (leAt b 232 2 % 1024)) true = true →
      ∃ (v : State) (r : ReadyRec), s.decrement src root va ids = (v.settleRec r.id, .ok false) ∧ leAt (v.block m) 8 4 = 0 ∧
        leAt (v.block m) 200 4 = 2 ∧ (∀ a, (a < m + 8 ∨ m + 204 ≤ a ∨ (m + 12 ≤ a ∧ a < m + 200)) → Mem.get v.mem a = Mem.get s1.mem a) ∧
        v.readies = s1.readies ++ [r] ∧ r.tcb = BitVec.ofNat 64 va ∧ r.task.toNat = leAt b 0 4 ∧ r.byDec = true)) ∧
  (∀ (s : State) (k : Nat) (s1 : State) (t : List Byte),
    readVia (s.xlatePlain (taskSource k) (s.slot (slotKey k)).xroot (s.slot (slotKey k)).tcb.toNat { kind := 0 }) 256 = (s1, .ok t) →
    s.successors k = s1.readList k (s.slot (slotKey k)).xroot (leAt t 112 8) (leAt t 120 4) 0 []) ∧
  (∀ (s : State) (k n i va : Nat) (rest : List Nat),
    let sk := slotKey k
    s.runDecs k n i [] = .done (s.modSlot sk fun c => { c with decs := some (i, []) }) ∧
    (s.rebuilding (s.slot sk).graph = false → va % 256 = 0 → va < 2 ^ 55 → ∀ s1 z,
      s.decrement (taskSource k) (s.slot sk).xroot va (s.ovIds sk) = (s1, .ok z) →
      s.runDecs k (n + 1) i (va :: rest) =
        (if z then s1.event "decrement of zero" (s.slot sk).tcb (BitVec.ofNat 64 va) else s1).runDecs k n (i + 1) rest)) ∧
  ∀ (s : State) (a : BitVec 5) (t : BitVec 4), role s = 1 → s.heldBack s.cur .amo = false →
    let k := s.cur
    let sk := slotKey s.cur
    let va := s.reg s.cur a
    let b := begun s t
    let waits (u : State) : State := (u.mark' k true).modSeq k fun q => { q with strong := false }
    (issuable s t [a] = true → va.toNat < 2 ^ 55 → va.toNat % 256 = 0 →
      (s.queuesEmpty k = true → (∀ c ∈ s.cmds, c.seqk ≠ k) → ∀ s1 z,
        b.decrement (taskSource k) (mine s).troot va.toNat (b.ovIds sk) = (s1, .ok z) → s1.cur = k →
        exec (.depdec a t) s = .next (if z then (s1.trapAt k 6 8 va.toNat 2).unissue k t
          else retired s t ((s1.adv k 4).mark' k true))) ∧
      (s.queuesEmpty k = true → (∀ c ∈ s.cmds, c.seqk ≠ k) → ∀ s1 m,
        b.blockAt (taskSource k) (mine s).troot va.toNat true = (s1, .ok m) → m % 256 = 0 → s1.cur = k →
        1 < leAt (s1.block m) 8 4 → Leads (.depdec a t) s fun u =>
          leAt (u.block m) 8 4 = leAt (s1.block m) 8 4 - 1 ∧ u.pc k = s1.pc k + 4) ∧
      (s.queuesEmpty k = false ∨ (∃ c ∈ s.cmds, c.seqk = k) → exec (.depdec a t) s = .next (waits b))) ∧
    (issuable s t [a] = true → 2 ^ 55 ≤ va.toNat → Leads (.depdec a t) s fun u => Trapped s u (mine s) 3 0 va.toNat 0) ∧
    (issuable s t [a] = true → va.toNat < 2 ^ 55 → va.toNat % 256 ≠ 0 →
      Leads (.depdec a t) s fun u => Trapped s u (mine s) 6 8 va.toNat 1) ∧
    (issuable s t [] = true → (mine s).decs = none → (mine s).triggered = true →
      exec (.trig t) s = .next (retired s t ((b.adv k 4).mark' k true))) ∧
    (issuable s t [] = true → (mine s).decs = none → (mine s).triggered = false → (self s).trigWait = none → ∃ es us,
      exec (.trig t) s = .next (waits ((b.modSlot sk fun c => { c with trigUid := some s.nextUid }).modSeq k fun q =>
        { q with trigWait := some (es, us) })) ∧
      (∀ r e, (r, e) ∈ es ↔ (r = sk * 4 ∨ r = sk * 4 + 1 ∨ r = sk * 4 + 2) ∧
        ((∃ x ∈ (s.seq r).stores, x.id = e) ∨ ((s.seq r).strong = true ∧ e = (s.seq r).nextEntry))) ∧
      ∀ u, u ∈ us ↔ ∃ c ∈ s.inFlight sk, c.uid = u) ∧
    (again s t = true → (mine s).decs = none → (mine s).triggered = false → ∀ w, (self s).trigWait = some w →
      let left (e : Nat × Nat) : Prop :=
        (∃ x ∈ (s.seq e.1).stores, x.id = e.2) ∨ ((s.seq e.1).strong = true ∧ (s.seq e.1).nextEntry = e.2)
      ((∃ e ∈ w.1, left e) ∨ (∃ u ∈ w.2, ∃ c ∈ s.cmds, c.uid = u) → exec (.trig t) s = .next (waits s)) ∧
      ((∀ e ∈ w.1, ¬ left e) → (∀ u ∈ w.2, ∀ c ∈ s.cmds, c.uid ≠ u) →
        ∀ s1 l s2 m s3 s4, s.successors k = .ok s1 l → s1.blockAt (taskSource k) (mine s).xroot (mine s).tcb.toNat true = (s2, .ok m) →
        (((s2.blockSet m 200 4 (leAt (s2.block m) 200 4 ||| 16)).modSlot sk fun c => { c with triggered := true }).modSeq k fun q =>
          { q with trigWait := none }).taskEnds sk true = (s3, true) →
        s3.runDecs k 65536 0 l = .done s4 → exec (.trig t) s =
          .next (retired s t (((s4.modSlot sk fun c => { c with decs := none, trigUid := none }).adv k 4).mark' k true))) ∧
      ((∀ e ∈ w.1, ¬ left e) → (∀ u ∈ w.2, ∀ c ∈ s.cmds, c.uid ≠ u) → (∀ g ∈ s.graphs, g.id ≠ (mine s).graph) →
        ∀ s1 s2 m, s.successors k = .ok s1 [] → s1.blockAt (taskSource k) (mine s).xroot (mine s).tcb.toNat true = (s2, .ok m) →
        m % 256 = 0 → s2.graphs = s.graphs → Leads (.trig t) s fun u => (u.slot sk).triggered = true ∧ (u.slot sk).decs = none ∧
          u.pc k = s2.pc k + 4 ∧ leAt (u.block m) 200 4 = leAt (s2.block m) 200 4 ||| 16 ∧
          ∀ j, (j < m + 200 ∨ m + 204 ≤ j) → Mem.get u.mem j = Mem.get s2.mem j)) ∧
    ∀ n : BitVec 3, s.heldBack k .store = false → (self s).stores.length < 16 →
      (issuable s t [a] = true → (mine s).triggered = false → (mine s).mode ≠ 1 → ∃ v : State,
        exec (.shapew a n t) s = .next (left s ((v.retireStore k t).prompt k)) ∧
        Becomes s v { popped (role s) t (mine s) with sideEffect := true, nokill := true }
          { self s with
            issued := true, pc := next4 s, nextEntry := (self s).nextEntry + 1
            stores := (self s).stores ++ [⟨(self s).nextEntry, .shape n.toNat (va.setWidth 32), 0, (self s).pc, 0, (mine s).seed,
              if (self s).any then (self s).last else 0⟩] }) ∧
      (issuable s t [a] = true → (mine s).triggered = true → Leads (.shapew a n t) s fun u => Trapped s u (mine s) 6 8 0 6)

/-- R338, R343, R344 and R416. A replayed task whose guard fails goes on in mode 3 at once. In a recorded task the guard's record goes to the end of the X stream's records, which `recordGuard`
does; it does so as stated here while the records fit the trace store (R339). -/
def Obligations.GuardsCountAndCompare : Prop :=
  ∀ (s : State) (a : BitVec 5) (i : BitVec 10) (t : BitVec 4), role s = 1 →
    ∀ g ∈ [(Instr.gshape a i t, 0, (s.reg s.cur a).toNat % 2 ^ 32, 0), (.gbr a i t, 1, (s.reg s.cur a).toNat % 2 ^ 16, 0),
        (.ghlth a i t, 2, (s.health &&& s.reg s.cur a).toNat, (s.reg s.cur a).toNat)],
      let c := mine s
      let sk := slotKey s.cur
      let o := Kv.get 0 c.occ i.toNat
      let agrees (gr : Graph) := ∃ r, gr.guard (s.cur / 32) c.tix i.toNat o = some r ∧ leAt r 1 1 = g.2.1 ∧ leAt r 16 8 = g.2.2.1
      let fails := c.mode = 2 ∧ ∃ gr, s.graph c.graph = some gr ∧ gr.mode = 2 ∧ ¬ agrees gr
      (ready s t [a] = true → i ≠ 0x3FF →
        (c.mode ≠ 1 → Leads g.1 s fun u => ∃ l, (∀ j, Kv.get 0 l j = if j = i.toNat then o + 1 else Kv.get 0 c.occ j) ∧
          (¬ fails → Becomes s u { moved (role s) t c with occ := l } { self s with pc := next4 s }) ∧
          (fails → ∀ gr, s.graph c.graph = some gr →
            Becomes s { u with notices := s.notices, cmds := s.cmds }
              { moved (role s) t c with occ := l, mode := 3, gid := i.toNat, kept := (mine u).kept } { self s with pc := next4 s } ∧
            u.notices = s.notices ++ [(gr.shape, gr.ver, c.tix, i.toNat, true)] ∧
            u.cmds = s.cmds.filterMap fun x => if slotKey x.seqk = sk then handOverCmd x else some x)) ∧
        (c.mode = 1 →
          exec g.1 s = .next (retired s t ((((begun s t).recordGuard sk g.2.1 i.toNat g.2.2.1 g.2.2.2).modSlot sk fun x =>
            { x with occ := Kv.put c.occ i.toNat (o + 1) }).adv s.cur 4)))) ∧
      (c.mode = 1 → ∀ gr, s.graph c.graph = some gr → gr.mode = 1 →
        ∃ r : List Byte, (r.length = 64 ∧ leAt r 0 1 = 5 ∧ leAt r 1 1 = g.2.1 ∧ leAt r 4 2 = i.toNat ∧ leAt r 8 4 = o % 2 ^ 32 ∧
          leAt r 12 4 = c.tix % 2 ^ 32 ∧ leAt r 16 8 = g.2.2.1 ∧ leAt r 24 8 = g.2.2.2) ∧
          let gr' : Graph := { gr with staged := Kv.put gr.staged (s.cur / 32 * 8) (Kv.get [] gr.staged (s.cur / 32 * 8) ++ [r]) }
          (gr'.stagedIn (octantOf (s.cur / 32)) ≤ 2 ^ 23 →
            (begun s t).recordGuard sk g.2.1 i.toNat g.2.2.1 g.2.2.2 = (begun s t).setGraph gr')) ∧
      (s.canIssue s.cur = true → i = 0x3FF → Leads g.1 s fun u => Trapped s u c 1 0 0 0)

namespace Sys2Proof.Claims

/-! ### The work of the engines at COMMAND_START -/

/-- A command stops with a trap of an engine against it (R347, R352), and memory is as before. -/
def CommandTraps (s u : State) (c : Cmd) (code engine status : Nat) : Prop :=
  u.cmd c.uid = some { c with failed := true } ∧ u.mem = s.mem ∧ u.scratch = s.scratch ∧
    ∃ r : TrapRec, u.policy = s.policy ++ [.trap r] ∧ r.code = code ∧ r.engine = engine ∧ r.status = BitVec.ofNat 32 status ∧
      r.seq = c.num ∧ r.pc = c.pc

/-- A command's engine takes it up now, and nothing else has to happen first: its slot keeps no thunk to force (R266), its
graph is neither recorded nor replayed (R339, R340), and its region is not checked for overlap (R293). -/
def Starts (s : State) (c : Cmd) : Prop :=
  s.cmd c.uid = some c ∧ c.phase = .waiting ∧ c.par = [] ∧ c.inj = 0 ∧ c.sent = 0 ∧ c.resumed = false ∧ c.sub = none ∧
    s.canStart c = true ∧ s.engineTurn c = true ∧ (s.slot (slotKey c.seqk)).nodes = [] ∧
    (s.slot (slotKey c.seqk)).demands = [] ∧ (s.slot (slotKey c.seqk)).mode = 0 ∧ s.ovl = [] ∧ s.host.poolrst = false

/-- A command that its engine has taken up before goes on. -/
def Goes (s : State) (c : Cmd) : Prop :=
  s.cmd c.uid = some c ∧ c.phase = .running ∧ c.failed = false ∧ c.sent = 0 ∧ (s.slot (slotKey c.seqk)).stopping = none

/-- The command is done, with this value for its rd. -/
def Done (u : State) (c : Cmd) (v : Word) : Prop :=
  (u.cmd c.uid).map (fun x => (x.phase, x.failed, x.result)) = some (.done, false, v)

/-- A byte of a space. -/
def byteAt (s : State) (sp : Space) (a : Nat) : Nat := leNat (s.bytes sp a 1)

/-- `n` bytes from a slice address, of one line, are the slot's, and the line passes verification (R95, R147, R149). -/
def Within (s : State) (c : Cmd) (a : Int) (n : Nat) : Prop :=
  0 ≤ a ∧ sliceOk a.toNat n = true ∧ s.window (slotKey c.seqk) a.toNat n = true ∧ s.verifyLine .scratch a.toNat = none

/-- A copy between slices under way moves its next piece, of the `left` bytes that its run or element has left: as many as lie
in one line at the source and one at the destination (R95, R132). A fill has no source: it writes the pattern, from its lowest
byte on. No byte of the source has been overwritten by the command before: of one that has, R132 leaves which value it gives to
timing. -/
def MovesPiece (s : State) (c : Cmd) (fill : Bool) (src dst : Int) (left : Nat) : Prop :=
  let n := Min.min left (Min.min (128 - (dst % 128).toNat) (if fill then left else 128 - (src % 128).toNat))
  Within s c dst n →
  (fill = false → Within s c src n ∧ ¬ (src < dst ∧ dst < src + n) ∧
    ∀ q ∈ (Kv.get (0, []) c.old (lineKey .scratch src.toNat)).2, ¬ (src % 128 ≤ q.1 ∧ (q.1 : Int) < src % 128 + n)) →
  Leads (.commandStart c.uid 1) s fun u => u.mem = s.mem ∧ u.slots = s.slots ∧
    (u.cmd c.uid).map (fun x => (x.off, x.phase)) = some (c.off + n, .running) ∧
    ∀ y : Nat, byteAt u .scratch y = if dst ≤ y ∧ (y : Int) < dst + n then
        (if fill then c.v2.toNat / 256 ^ ((c.off + (y - dst.toNat)) % 8) % 256 else byteAt s .scratch (src.toNat + (y - dst.toNat)))
      else byteAt s .scratch y

/-- R131 to R134, R136: the copies of CPY, CPY2, CPY3 and CPF (parameters run, n1, n2, ss1, ds1, ss2, ds2), CPG and CPS (esize,
count, the list's address, the stride), each between slices, a piece at a time; their end; the record that CPM sends at its
end; and the vectors that CPQ pushes. -/
def CopiesMoveTheirBytes : Prop :=
  ∀ (s : State) (c : Cmd) (a b e : BitVec 5) (q : BitVec 2), Goes s c →
    (∀ (run n1 n2 : Nat) (ss1 ds1 ss2 ds2 : Int), c.par = [(run : Int), n1, n2, ss1, ds1, ss2, ds2] →
      c.ins ∈ [Instr.cpy 1 1 a b e c.ext, .cpy2 1 1 a b e c.ext, .cpy3 1 1 a b e c.ext, .cpf 1 a b e c.ext] →
      let j1 : Int := (c.off / run % n1 : Nat)
      let j2 : Int := (c.off / run / n1 : Nat)
      let at' : Int := (c.off % run : Nat)
      (c.off < run * n1 * n2 → MovesPiece s c (c.ins = .cpf 1 a b e c.ext) (c.v2.toNat + j2 * ss2 + j1 * ss1 + at')
        (c.v1.toNat + j2 * ds2 + j1 * ds1 + at') (run - c.off % run)) ∧
      (run * n1 * n2 ≤ c.off → ∀ m, exec (.commandStart c.uid (m + 1)) s = .next (s.complete c 0))) ∧
    (∀ (esize count list : Nat) (stride : Int), c.par = [(esize : Int), count, list, stride] →
      c.ins ∈ [Instr.cpg 1 1 a b e c.ext, .cps 1 1 a b e c.ext] →
      let j := c.off / esize
      let at' := c.off % esize
      let gather := c.ins = .cpg 1 1 a b e c.ext
      let index := leNat (s.bytes .scratch (list + 4 * j) 4)
      let elem : Int := ((if gather then c.v2.toNat else c.v1.toNat : Nat) : Int) + index * stride
      let flat : Int := ((if gather then c.v1.toNat else c.v2.toNat) + j * esize + at' : Nat)
      (c.off < esize * count → Within s c (list + 4 * j : Nat) 4 → 0 ≤ elem → sliceOk elem.toNat esize = true →
        s.window (slotKey c.seqk) elem.toNat esize = true →
        if gather then MovesPiece s c false (elem + at') flat (esize - at') else MovesPiece s c false flat (elem + at') (esize - at')) ∧
      (esize * count ≤ c.off → ∀ m, exec (.commandStart c.uid (m + 1)) s = .next (s.complete c 0))) ∧
    (∀ (len handler user : Nat) (ss : BitVec 1), c.ins = .cpm ss a b e c.ext →
      c.par = [(len : Int), 1, 1, 0, 0, 0, 0, (handler : Int), (user : Int)] → len ≤ c.off →
      let target := c.v1.toNat / 2 ^ 23
      (s.core target).hq.length < 16 → Leads (.commandStart c.uid 1) s fun u => Done u c 0 ∧
        u = { s with cores := u.cores, cmds := u.cmds } ∧
        ∀ j, u.core j = if j = target then { s.core j with hq := (s.core j).hq ++
          [{ payload := c.v1, length := len, sender := c.seqk / 32, user := BitVec.ofNat 64 user, handler := BitVec.ofNat 64 handler }] }
        else s.core j) ∧
    ∀ n j : Nat, c.ins = .cpq 1 q b e c.ext → c.par = [(n : Int)] → c.off = 512 * j → j < n →
      (∀ x ∈ (s.seq (slotKey c.seqk * 4)).loads, ∀ v w, x.op = .vload v w → v ≠ q.toNat) →
      (∀ x ∈ s.cmds, slotKey x.seqk = slotKey c.seqk → cpqQueue x.ins = q.toNat → (cpMember x.ins).1 = 8 → x.phase ≠ .done →
        issuedBefore x c = false) →
      (Kv.get [] (s.slot (slotKey c.seqk)).queues q.toNat).length < 8 →
      (∀ i < 4, Within s c (c.v2.toNat + 512 * j + 128 * i : Nat) 128) →
      Leads (.commandStart c.uid 1) s fun u => (u.cmd c.uid).map (·.off) = some (512 * (j + 1)) ∧
        u = { s with slots := u.slots, cmds := u.cmds, fresh := s.fresh + 1 } ∧
        ∀ k, u.slot k = if k = slotKey c.seqk then
            let v := (List.range 4).flatMap fun i => s.bytes .scratch (c.v2.toNat + 512 * j + 128 * i) 128
            { s.slot k with queues := Kv.put (s.slot k).queues q.toNat (Kv.get [] (s.slot k).queues q.toNat ++ [⟨s.fresh, some v⟩]) }
          else s.slot k

/-- R249, R250: TLD and TST carry lines between a slice and a granted tile; AFILL copies words into a window of an accumulator,
given by row0 [6:0], col0 [14:8], rows [23:16] and columns [31:24] of s[rs2]; ADRN in FP32 writes a row of such a window. -/
def TileMovesCarryTheirBytes : Prop :=
  ∀ (s : State) (c : Cmd) (a b e : BitVec 5) (n : BitVec 3) (m : BitVec 2), Starts s c →
    let sk := slotKey c.seqk
    let at' := s.tileAddr sk n.toNat c.v2.toNat
    let lines := n.toNat < (s.slot sk).tmap.length ∧ c.v2.toNat + c.v3.toNat ≤ 32768 ∧ c.v1.toNat % 128 = 0 ∧ c.v2.toNat % 128 = 0 ∧
      c.v3.toNat % 128 = 0 ∧ 128 ≤ c.v3.toNat ∧ sliceOk c.v1.toNat c.v3.toNat = true ∧ s.window sk c.v1.toNat c.v3.toNat = true
    let row0 := c.v2.toNat % 2 ^ 7
    let col0 := c.v2.toNat / 2 ^ 8 % 2 ^ 7
    let rows := c.v2.toNat / 2 ^ 16 % 2 ^ 8
    let cols := c.v2.toNat / 2 ^ 24 % 2 ^ 8
    let here (i : Nat) : Nat := c.v1.toNat + i * c.v3.toNat
    (c.ins = .tld n a b e c.ext → lines → s.verify .scratch c.v1.toNat c.v3.toNat = none →
      Leads (.commandStart c.uid 1) s fun u => Done u c 0 ∧ u.mem = s.mem ∧ u.scratch = s.scratch ∧ u.accs = s.accs ∧
        ∀ y, byteAt u .tile y = if at' ≤ y ∧ y < at' + c.v3.toNat then byteAt s .scratch (c.v1.toNat + (y - at')) else byteAt s .tile y) ∧
    (c.ins = .tst n a b e c.ext → lines → (∀ i < c.v3.toNat / 128, lineKey .tile (at' + 128 * i) ∉ s.ecc) →
      Leads (.commandStart c.uid 1) s fun u => Done u c 0 ∧ u.mem = s.mem ∧ u.accs = s.accs ∧ (∀ y, byteAt u .tile y = byteAt s .tile y) ∧
        ∀ y, byteAt u .scratch y = if c.v1.toNat ≤ y ∧ y < c.v1.toNat + c.v3.toNat then byteAt s .tile (at' + (y - c.v1.toNat))
          else byteAt s .scratch y) ∧
    (c.ins = .afill m a b e c.ext → m.toNat < (s.slot sk).amap.length → windowBad c.v2 = false → c.v3.toNat % 4 = 0 →
      (∀ i < rows, here i % 4 = 0 ∧ sliceOk (here i) (4 * cols) = true ∧ s.window sk (here i) (4 * cols) = true ∧
        s.verify .scratch (here i) (4 * cols) = none) → (∀ r < 128, (s.accRow sk m.toNat r).length = 128) →
      Leads (.commandStart c.uid 1) s fun u => Done u c 0 ∧ u.mem = s.mem ∧ u.scratch = s.scratch ∧
        ∀ r < 128, ∀ k < 128, (u.accRow sk m.toNat r).getD k 0 =
          if row0 ≤ r ∧ r < row0 + rows ∧ col0 ≤ k ∧ k < col0 + cols then
            BitVec.ofNat 32 (leNat (s.bytes .scratch (here (r - row0) + 4 * (k - col0)) 4))
          else (s.accRow sk m.toNat r).getD k 0) ∧
    (c.ins = .adrn m a b e c.ext → m.toNat < (s.slot sk).amap.length → windowBad c.v2 = false → rows = 1 → c.v3 = 0 →
      c.v1.toNat % 4 = 0 → sliceOk c.v1.toNat (4 * cols) = true → s.window sk c.v1.toNat (4 * cols) = true →
      s.verify .scratch c.v1.toNat (4 * cols) = none → (s.accRow sk m.toNat row0).length = 128 →
      Leads (.commandStart c.uid 1) s fun u => Done u c 0 ∧ u.mem = s.mem ∧ u.accs = s.accs ∧ u.slots = s.slots ∧
        (∀ k < cols, leNat (u.bytes .scratch (c.v1.toNat + 4 * k) 4) = ((s.accRow sk m.toNat row0).getD (col0 + k) 0).toNat) ∧
        ∀ y, y < c.v1.toNat ∨ c.v1.toNat + 4 * cols ≤ y → byteAt u .scratch y = byteAt s .scratch y)

/-- R234, R237: a PASS of an unchained MGO, before which its BEGINs are made, at whose level 0 nothing ends: each active element takes
the sum of its products, block by block of K, in the rounding of the numeric profile; and the index of level 0 goes on. The
products, the scales and the sum are those of Machine/Matrix.lean and Machine/Numerics.lean. -/
def PassesAddTheirProducts : Prop :=
  ∀ (s : State) (c : Cmd) (acc row0 : Nat) (rows : List (List Byte)),
    let cfg := c.cfg
    let st := c.nest
    let sk := slotKey c.seqk
    Goes s c → c.ins = .mgo c.ext → c.cfg.chained = false → s.arrayFree c = true → st.started = true → st.begun = true →
    st.ending = none → cfg.act 0 1 = false → cfg.act 0 3 = false → st.idx.getD 0 0 + 1 ≠ cfg.cnt 0 →
    s.nestRegion cfg st.idx st.w 15 = .ok (acc, row0) → s.nestRows cfg st cfg.ma = .ok rows →
    let cols := st.weights.map cfg.columns
    Leads (.commandStart c.uid 1) s fun u =>
      u.mem = s.mem ∧ u.scratch = s.scratch ∧
      (u.cmd c.uid).map (fun x => (x.phase, x.nest)) = some (.running,
        { st with
          passes := st.passes + 1, lastIdx := st.idx, lastW := st.w, begun := false, lvl := 0
          idx := st.idx.set 0 (st.idx.getD 0 0 + 1) }) ∧
      (∀ i < cfg.ma, ∀ n < (s.accRow sk acc (row0 + i)).length,
        let x := (s.accRow sk acc (row0 + i)).getD n 0
        (u.accRow sk acc (row0 + i)).getD n 0 = if cfg.na ≤ n then x else
          (cols.zip (chunks cfg.stripBytes cols.length (rows.getD i []))).foldl (fun y q =>
            let strip := cfg.strip q.2
            passAdd cfg.np (((q.1.getD n []).filter fun p => decide (p.1 < cfg.ka)).map fun p => (p.1, (strip.1.getD p.1 .zero).mul p.2))
              (decide (strip.2 = 255) || decide (cfg.bscale = 255)) ((strip.2 : Int) + cfg.bscale - 254) y) x) ∧
      ∀ k, (∀ i < cfg.ma, k ≠ s.accKey sk acc (row0 + i)) → Kv.get [] u.accs k = Kv.get [] s.accs k

/-- R276, R277, R279: at an iteration's boundary MITER leaves when MICTL asks it to, which clears MICTL, or at the limit of its
iterations; its result holds the iterations, the reason and the last norm. At its write-back X takes the new value, and the
iteration counts. -/
def IterationsEnd : Prop :=
  ∀ (s : State) (c : Cmd), Goes s c → miterKind c.ins ≠ 0 → s.arrayFree c = true →
    let sk := slotKey c.seqk
    let m := (s.slot sk).mis
    let leaves (reason : Nat) : Word := BitVec.ofNat 64 (m.k + reason * 2 ^ 8 + m.prev.toNat * 2 ^ 32)
    let rows := c.v1.toNat / 2 ^ 8 % 2 ^ 7 + 1
    let cols := c.v1.toNat / 2 ^ 16 % 2 ^ 7 + 1
    (m.phase = 0 → (s.slot sk).miStop = true → Leads (.commandStart c.uid 1) s fun u => Done u c (leaves 2) ∧
      u = { s with slots := u.slots, cmds := u.cmds } ∧
      ∀ j, u.slot j = if j = sk then { s.slot j with miStop := false } else s.slot j) ∧
    (m.phase = 0 → (s.slot sk).miStop = false → m.k = c.v2.toNat → Leads (.commandStart c.uid 1) s fun u =>
      Done u c (leaves 1) ∧ u = { s with cmds := u.cmds }) ∧
    (m.phase = 11 → Leads (.commandStart c.uid 1) s fun u =>
      u.accs = (s.putWindow sk (c.v1.toNat % 4) (miterStep c (s.window' sk (c.v1.toNat / 4 % 4) rows cols)
        (s.window' sk (c.v1.toNat % 4) rows cols))).accs ∧ (u.slot sk).mis.k = m.k + 1)

/-- R252, R257, R258, R265, R268, R269: what TBIND, the TOPs with an explicit output, TFORCE of a region and TDROP do to the
directory and the partition of a slot that keeps no node. -/
def ThunkCommandsKeepTheDirectory : Prop :=
  ∀ (s : State) (c : Cmd) (d a b e : BitVec 5) (h : Nat), Starts s c →
    let sk := slotKey c.seqk
    s.thaOk sk = true → (s.slot sk).thClear = false → s.verify .scratch (thaBase (s.slot sk).tha) 4224 = none → h < 256 →
    let lowest := (s.dir sk h).kind = 0 ∧ ∀ g < h, (s.dir sk g).kind ≠ 0
    let fmt := c.v2.toNat / 2 ^ 22 % 2 ^ 4
    let rows := c.v2.toNat % 2 ^ 11
    let cols := c.v2.toNat / 2 ^ 11 % 2 ^ 11
    let bound : View := ⟨fmt, rows, cols, c.v3.toNat, c.v1.toNat, false, none⟩
    (c.ins = .tbind d a b e c.ext → lowest → c.v1.toNat < 2 ^ 33 → c.v2.toNat < 2 ^ 26 → 1 ≤ c.v3.toNat → c.v3.toNat < 65536 →
      1 ≤ rows → rows ≤ 1024 → 1 ≤ cols → cols ≤ 1024 → fmt < 4 ∨ fmt = 5 → sliceOk c.v1.toNat bound.extent = true →
      s.window sk c.v1.toNat bound.extent = true →
      Leads (.commandStart c.uid 1) s fun u => Done u c (BitVec.ofNat 64 h) ∧ u.mem = s.mem ∧
        ∀ g < 256, u.dir sk g = if g = h then ⟨2, false, 0, 0, bound⟩ else s.dir sk g) ∧
    (∀ (op : Nat) (v : View) (kdim : Nat) (en : Nat) (more : List Nat), topOp c.ins = op → 2 ≤ op → topWordsBad c op = false →
      let ins := (List.range (topArity op)).map fun i => c.v1.toNat / 2 ^ (8 * i) % 2 ^ 8
      let views := ins.map fun g => (s.dir sk g).view
      let ofmt := c.v1.toNat / 2 ^ 24 % 2 ^ 4
      s.inputBad sk ins = none → topShape op ofmt views = .ok (v.rows, v.cols, kdim) → c.v3.toNat % 2 ^ 33 ≠ 0 →
      s.outputView sk ofmt v.rows v.cols c.v3 views = .ok v →
      ¬ ((op = 2 ∨ op = 3) ∧ c.ext.np.toNat = 2 ∧ widthClass (views.getD 0 v).fmt = 16) → lowest →
      (s.slot sk).thEntries = en :: more → en < 256 →
      Leads (.commandStart c.uid 1) s fun u => Done u c (BitVec.ofNat 64 h) ∧ u.mem = s.mem ∧
        (∀ g < 256, u.dir sk g = if g = h then ⟨1, false, 0, en, v⟩ else { s.dir sk g with users := (s.dir sk g).users + ins.count g }) ∧
        ∃ n, (u.slot sk).nodes = [n] ∧ n.entry = en ∧ n.self = h ∧ n.op = op ∧ n.ins = ins ∧ n.rows = v.rows ∧ n.cols = v.cols ∧
          n.kdim = kdim ∧ n.ofmt = ofmt ∧ n.addr = v.addr ∧ n.pitch = v.pitch ∧ n.alloc = false ∧ n.seq = c.num ∧ n.opc = c.pc) ∧
    (c.v1.toNat = h → s.handleBad sk h false = 0 →
      (c.ins = .tforce a c.ext → Leads (.commandStart c.uid 1) s fun u => Done u c 0 ∧ u = { s with cmds := u.cmds }) ∧
      (c.ins = .tdrop a c.ext → (s.dir sk h).users ≠ 0 → Leads (.commandStart c.uid 1) s fun u => Done u c 0 ∧ u.mem = s.mem ∧
        u.slots = s.slots ∧ ∀ g < 256, u.dir sk g = if g = h then { s.dir sk g with dropped := true } else s.dir sk g) ∧
      (c.ins = .tdrop a c.ext → (s.dir sk h).users = 0 → (s.dir sk h).kind = 2 → (s.dir sk h).view.alloc = false →
        Leads (.commandStart c.uid 1) s fun u => Done u c 0 ∧ u.mem = s.mem ∧ u.slots = s.slots ∧
          (u.dir sk h).kind = 0 ∧ ∀ g < 256, g ≠ h → u.dir sk g = s.dir sk g))

/-- R106, R107, R112 to R118: CAHASH writes the name of its bytes; CAREF changes a count, and a count of 0 waits for the
reclaimer; CAPIN pins one; CAPUT names the zero line, and raises the count of a line that the index holds. -/
def CaCommandsKeepTheIndex : Prop :=
  ∀ (s : State) (c : Cmd) (d a b e : BitVec 5), Starts s c →
    let sk := slotKey c.seqk
    let slice (at' n align : Nat) : Prop := sliceOk at' n = true ∧ s.window sk at' n = true ∧ at' % align = 0
    let name := BitVec.ofNat 128 (leNat (s.bytes .scratch c.v1.toNat 16))
    let named := slice c.v1.toNat 16 16 ∧ s.verify .scratch c.v1.toNat 16 = none ∧ nameOk name = true ∧ name ≠ zeroName
    let stores (u : State) (n : BitVec 128) : Prop := leNat (u.bytes .scratch c.v2.toNat 16) = n.toNat ∧
      ∀ y, y < c.v2.toNat ∨ c.v2.toNat + 16 ≤ y → byteAt u .scratch y = byteAt s .scratch y
    let out := slice c.v2.toNat 16 16 ∧ s.verifyLine .scratch c.v2.toNat = none
    let entry (u : State) (x : CaEntry) : Prop := u.caIndex = s.caIndex.map fun y => if y.name = x.name then x else y
    let delta := (c.v2.setWidth 32).toInt
    (c.ins = .cahash a b e c.ext → 1 ≤ c.v3.toNat → c.v3.toNat ≤ 65536 → slice c.v1.toNat c.v3.toNat 1 →
      s.verify .scratch c.v1.toNat c.v3.toNat = none → out → Leads (.commandStart c.uid 1) s fun u => Done u c 0 ∧ u.mem = s.mem ∧
        u.caIndex = s.caIndex ∧ stores u (recordName (s.bytes .scratch c.v1.toNat c.v3.toNat))) ∧
    (∀ x : CaEntry, c.ins = .caref d a b c.ext → named → s.entryOf name = some x →
      let sum := (x.count.toNat : Int) + delta
      (x.count = pinned ∨ delta = 0 → Leads (.commandStart c.uid 1) s fun u => Done u c (x.count.setWidth 64) ∧ u = { s with cmds := u.cmds }) ∧
      (x.count ≠ pinned → delta ≠ 0 → 0 < sum → Leads (.commandStart c.uid 1) s fun u => Done u c (x.count.setWidth 64) ∧
        entry u { x with count := BitVec.ofNat 32 (Min.min sum.toNat 0xFFFFFFFF), state := 0 } ∧
        u = { s with cmds := u.cmds, caIndex := u.caIndex }) ∧
      (x.count ≠ pinned → delta ≠ 0 → sum = 0 → Leads (.commandStart c.uid 1) s fun u => Done u c (x.count.setWidth 64) ∧
        entry u { x with count := 0, state := 1 } ∧ x.name ∈ u.reclaimQ ∧
        u = { s with cmds := u.cmds, caIndex := u.caIndex, reclaimQ := u.reclaimQ }) ∧
      (x.count ≠ pinned → sum < 0 → Leads (.commandStart c.uid 1) s fun u =>
        CommandTraps s u { c with phase := .running, par := [(name.toNat : Int)] } 9 7 9)) ∧
    (∀ x : CaEntry, c.ins = .capin d a c.ext → named → s.entryOf name = some x →
      Leads (.commandStart c.uid 1) s fun u => Done u c (x.count.setWidth 64) ∧ entry u { x with count := pinned, state := 0 } ∧
        u = { s with cmds := u.cmds, caIndex := u.caIndex }) ∧
    (c.ins = .caput d a b c.ext → slice c.v1.toNat 128 128 → out → (∀ i < 128, byteAt s .scratch (c.v1.toNat + i) = 0) →
      Leads (.commandStart c.uid 1) s fun u => Done u c 0 ∧ u.mem = s.mem ∧ u.caIndex = s.caIndex ∧ stores u zeroName) ∧
    ∀ x : CaEntry, c.ins = .caput d a b c.ext → slice c.v1.toNat 128 128 → out → s.verify .scratch c.v1.toNat 128 = none →
      let line := s.bytes .scratch c.v1.toNat 128
      line ≠ zeros 128 → s.lookup (contentHash 0 line) line = .hit x [] → x.count ≠ pinned →
      Leads (.commandStart c.uid 1) s fun u => Done u c (BitVec.ofNat 64 (nameOrd x.name * 16)) ∧ u.mem = s.mem ∧
        stores u (mkName (contentHash 0 line) (nameOrd x.name) 0) ∧ entry u { x with count := x.count + 1, state := 0 }

/-- R301 to R303: a SPAWN of one task, which is not ready yet, arms it: its task ID, its own or the next of the module's counter,
its status, its place in a team of one, the spawning core, and the space it was spawned from. `m` is where the TCB stands. -/
def SpawnsArmTheirMembers : Prop :=
  ∀ (s t : State) (c : Cmd) (d a b e : BitVec 5) (m : Nat), Starts s c → c.ins = .spawn d a b e c.ext →
    let sk := slotKey c.seqk
    let tcb := t.block m
    c.v1.toNat % 256 = 0 → c.v1.toNat < 2 ^ 55 → c.v2 = 0 → c.v3.toNat ≤ 1 →
    (s.setCmd { c with phase := .running }).blockAt (cmdSource c 3) (s.slot sk).troot c.v1.toNat true = (t, .ok m) →
    tcbOk tcb = true → tcbState tcb = 0 ∨ tcbState tcb = 6 → leAt tcb 8 4 ≠ 0 → badPlace (leAt tcb 104 8) = false →
    (t.cmd c.uid).isSome = true →
    let own := leAt tcb 0 4
    let id := if own = 0 then t.taskCounter.toNat else own
    Leads (.commandStart c.uid 1) s fun u => Done u c (BitVec.ofNat 64 id) ∧
      u.mem = (((((t.blockSet m 0 4 id).blockSet m 200 4 1).blockSet m 216 8 (id + 2 ^ 32)).blockSet m 232 2 (c.seqk / 32)).blockSet m 248 8
        (s.slot sk).troot.toNat).mem ∧
      u.taskCounter = (if own ≠ 0 then t.taskCounter else if t.taskCounter = 0xFFFFFFFF then 1 else t.taskCounter + 1)

end Sys2Proof.Claims

/-- R228 and R229; with them what a pass of an MGO does with the latched set (R234, R237), and where a MITER ends (R276). -/
def Obligations.TileAndNestConfiguration : Prop :=
  PassesAddTheirProducts ∧ IterationsEnd ∧ ∀ (s : State) (a : BitVec 5) (t : BitVec 4), role s = 1 →
    let x := s.reg s.cur a
    let m := moved (role s) t (mine s)
    let q : Seq := { self s with pc := next4 s }
    (∀ n : BitVec 3,
      (ready s t [a] = true → n.toNat < (mine s).tmap.length → descBad x = false →
        Leads (.tcfg a n t) s fun u => Becomes s u { m with desc := (mine u).desc } q ∧
          ∀ j, Kv.get 0 (mine u).desc j = if j = n.toNat then x else Kv.get 0 (mine s).desc j) ∧
      (issuable s t [a] = true → (mine s).tmap.length ≤ n.toNat →
        Leads (.tcfg a n t) s fun u => Trapped s u (mine s) 3 0 n.toNat 0) ∧
      (issuable s t [a] = true → n.toNat < (mine s).tmap.length → descBad x = true →
        Leads (.tcfg a n t) s fun u => Trapped s u (mine s) 6 0 0 0)) ∧
    ∀ n : BitVec 11,
      (ready s t [a] = true → mcfgAssigned n.toNat = true →
        Leads (.mcfg a n t) s fun u => Becomes s u { m with mcfg := (mine u).mcfg } q ∧
          ∀ j, Kv.get 0 (mine u).mcfg j = if j = n.toNat then x else Kv.get 0 (mine s).mcfg j) ∧
      (s.canIssue s.cur = true → mcfgAssigned n.toNat = false → Leads (.mcfg a n t) s fun u => Trapped s u (mine s) 1 0 0 0)

/-! ### Commands -/

/-- R22, R30, R31, R44, R45, R68, R81, R329. `ovl` is the overlap checker's own memory (R292); the lookup of a virtual operand at
issue may change the stream's TLB (R87). A delta names the command of that number among all that are unretired, those of a task
stopped in the slot included; that a command waits for the earlier stores of its stream and not for its SHAPEWs is read from
R31 (log entry 80). -/
def Obligations.LongInstructionsIssueCommands : Prop :=
  ∀ (s : State) (d a b c : BitVec 5) (ds ss fb rel : BitVec 1) (q : BitVec 2) (n : BitVec 3) (m : BitVec 2) (x : Ext),
    ∀ p ∈ longs d a b c ds ss fb rel q n m x,
      let sk := slotKey s.cur
      let r := p.regs
      (issuable s x.t [r.1, r.2.1, r.2.2.1, r.2.2.2] = true → role s ∈ p.roles → p.ins.wf = true →
        s.heldBack s.cur .command = false → (sk % 8 < 4 → (s.inFlight sk).length < 64) →
        (isCopy p.ins = true → (s.copyQueue (s.cur / 32) x.q.toNat).length < 64) →
        (isMgo p.ins = true → ((s.inFlight sk).filter fun c => isMgo c.ins).length < 4) →
        (∀ v ∈ p.virt, (s.reg s.cur v).toNat < 2 ^ 55) → (mine s).mode < 2 →
        Leads p.ins s fun u => ∃ e : Cmd,
          u = { s with seqs := u.seqs, slots := u.slots, cmds := s.cmds ++ [e], nextUid := s.nextUid + 1, ovl := u.ovl } ∧
          (∀ j, u.slot j = if j = sk then { popped (role s) x.t (mine s) with
            nextCmd := (mine s).nextCmd + 1, sideEffect := true, nokill := (mine s).nokill || p.nokill } else s.slot j) ∧
          (∀ j, u.seq j = if j = s.cur then
            { self s with pc := s.pc s.cur + 8, last := (mine s).nextCmd, any := true, tlb := (self u).tlb } else s.seq j) ∧
          (p.virt = [] → (self u).tlb = (self s).tlb ∧ e.ops = []) ∧
          e.uid = s.nextUid ∧ e.seqk = s.cur ∧ e.num = (mine s).nextCmd ∧ e.ins = p.ins ∧ e.ext = x ∧ e.pc = s.pc s.cur ∧
          e.vd = s.reg s.cur r.1 ∧ e.v1 = s.reg s.cur r.2.1 ∧ e.v2 = s.reg s.cur r.2.2.1 ∧ e.v3 = s.reg s.cur r.2.2.2 ∧
          e.rd = (if p.writes then r.1 else 0) ∧ e.phase = .waiting ∧ e.failed = false ∧ e.seed = (mine s).seed ∧
          e.entries = ((self s).stores.filter fun y => !y.isShape).map (·.id) ∧ e.issued = s.time.toNat ∧
          (∀ delta ∈ [x.d1, x.d2, x.d3], delta ≠ 0 → ∀ y ∈ s.inFlight sk,
            y.num = (mine s).nextCmd - delta.setWidth 16 → y.uid ∈ e.preds) ∧
          (engineOf p.ins = 2 → isVrun p.ins = true → e.lat.vlen = (mine s).vec.lanes.toNat) ∧
          (engineOf p.ins = 3 ∨ engineOf p.ins = 5 → e.lat.mcfg = (mine s).mcfg ∧ e.lat.desc = (mine s).desc)) ∧
      (s.canIssue s.cur = true → role s ∉ p.roles → Leads p.ins s fun u => Trapped s u (mine s) 1 0 0 0)

/-- R28, R125, R128, R200, R203, R361, R381, R406. `pushTurn` is R28's order of the pushes that meet at a FIFO. A slot that stops
waits for the retirement of a command that runs to its end, and its sequencer then owes the pushes that find no room (log entry
88). Stall counts come from the model's list `stalls` (log entry 13). A sub-command of the forcer, whose demand goes on then, is
not stated here. -/
def Obligations.CommandsRetireInOrderWithTheirPushes : Prop :=
  ∀ (s : State) (c : Cmd), s.cmd c.uid = some c →
    let k := c.seqk
    let sk := slotKey k
    let p := (s.slot sk).push (roleOf k) c.ext.t
    let owes := (s.slot sk).stopping ≠ none ∧ runsToEnd c.ins = true
    let room := (s.slot sk).pushOk (roleOf k) c.ext.t = true
    let base := if room then p else s.slot sk
    let may := c.phase = .done ∧ s.behindInQueue c = false ∧ (∀ u ∈ s.unacked, u.1 ≠ c.uid) ∧ (owes ∨ room ∧ s.pushTurn c = true)
    let bank := c.v2.toNat / 2048
    let risen : BitVec 16 := (s.core (k / 32)).gen bank + 1
    (may → c.inj ≠ 1 → c.inj ≠ 3 → c.sub = none → (s.slot sk).mode ≠ 1 → (s.slot sk).mode ≠ 2 →
      (s.seq k).loads = [] → (s.seq k).stores = [] → (s.seq k).fences = [] → (s.seq k).owed = [] →
      Leads (.commandRetire c.uid) s fun u =>
        u = { s with seqs := u.seqs, slots := u.slots, cores := u.cores, cmds := s.cmds.filter fun x => x.uid != c.uid
                     ovl := u.ovl, stalls := s.stalls.drop 1, graphs := u.graphs } ∧
        (s.graph (s.slot sk).graph = none → u.graphs = s.graphs) ∧
        (∀ g, s.graph (s.slot sk).graph = some g → u.graphs = s.graphs.map fun x =>
          if x.id = g.id ∧ x.settled = g.settled then { g with finish := (Kv.get 0 s.cycles g.clock).toNat } else x) ∧
        (∀ r, u.reg k r = if r = c.rd ∧ c.rd ≠ 0 then (if c.isTbload then risen.setWidth 64 else c.result) else s.reg k r) ∧
        (∀ j, u.core j = if j = k / 32 ∧ c.isTbload = true then
          (if bank = 0 then { s.core j with gen0 := risen } else { s.core j with gen1 := risen }) else s.core j) ∧
        u.seq k = { s.seq k with regs := (u.seq k).regs, owed := if room then [] else [c.ext.t] } ∧ (∀ j, j ≠ k → u.seq j = s.seq j) ∧
        (∀ j, u.slot j = if j = sk then
          { (if c.ext.post = 1 then base.post c.ext.ev.toNat 1 else base) with cstall := (u.slot sk).cstall } else s.slot j)) ∧
    (¬ may → exec (.commandRetire c.uid) s = .next s)

/-- R205, with the start of R206. The words are those of R204: s[rs1] is start [11:0], end [23:12], tensor ID [29:24],
rm [31:30]; s[rs2] the trip count [31:0]; s[rs3] the tail passes [2:0]. -/
def Obligations.VectorRunsStartAfterTheirChecks : Prop :=
  (∀ (s : State) (c : Cmd) (a b e : BitVec 5) (n : Nat),
    s.cmd c.uid = some c → c.ins = .vrun a b e c.ext → c.phase = .waiting → c.resumed = false → c.par = [] → c.inj = 0 →
    s.canStart c = true →
    (s.slot (slotKey c.seqk)).nodes = [] → (s.slot (slotKey c.seqk)).demands = [] → c.sub = none →
    (s.slot (slotKey c.seqk)).mode = 0 → s.ovl = [] →
    let sk := slotKey c.seqk
    let start := c.v1.toNat % 2 ^ 12
    let last := c.v1.toNat / 2 ^ 12 % 2 ^ 12
    let trips := c.v2.toNat % 2 ^ 32
    let fails := 2 ^ 32 ≤ c.v1.toNat ∨ 2 ^ 32 ≤ c.v2.toNat ∨ 2 ^ 3 ≤ c.v3.toNat ∨ c.v1.toNat / 2 ^ 30 % 4 = 3 ∨ last < start ∨
      start / 2048 ≠ last / 2048
    (fails → Leads (.commandStart c.uid n) s fun u => ∃ r : TrapRec,
      u = { s with slots := u.slots, cores := u.cores, cmds := u.cmds, policy := s.policy ++ [.trap r] } ∧
      r.code = 6 ∧ r.engine = 2 ∧ r.status = 2 ∧ r.seq = c.num ∧ r.pc = c.pc ∧ r.prec = false ∧
      u.cmd c.uid = some { c with failed := true } ∧ (u.slot sk).vec = (s.slot sk).vec ∧
      (u.core (c.seqk / 32)).micro = (s.core (c.seqk / 32)).micro) ∧
    (¬ fails → Leads (.commandStart c.uid n) s fun u => ∃ g k0,
      u = { s with slots := u.slots, cores := u.cores, cmds := u.cmds } ∧
      u.cmd c.uid = some { c with phase := if trips = 0 then .done else .running, gen := g } ∧
      (∀ j, u.slot j = if j = sk then
        { s.slot sk with vec := { (s.slot sk).vec with
            masks := Kv.put (s.slot sk).vec.masks 0 k0, trip := BitVec.ofNat 32 trips, tail := BitVec.ofNat 3 c.v3.toNat, steps := 0
            passes := 0, rot := 0, pred := if trips = 0 then 0 else 1, upc := BitVec.ofNat 12 start
            bank := decide (start / 2048 = 1), cfg := BitVec.ofNat 32 c.v1.toNat } } else s.slot j) ∧
      ∀ j : Nat, k0.getLsbD j = decide (j < Min.min c.lat.vlen 128))) ∧
  ∀ (s : State) (sk tid n : Nat), 4 ≤ sk % 8 → s.countSats sk tid n = s

/-- R200 and R203: the work of a TBLOAD that its engine has taken up; its retirement, which raises the bank's generation, is
in `CommandsRetireInOrderWithTheirPushes`. Beside it, where the copy engine and the move port write (R132 to R136, R249, R250). -/
def Obligations.TableLoadsWriteTheMicroStore : Prop :=
  CopiesMoveTheirBytes ∧ TileMovesCarryTheirBytes ∧ ∀ (s : State) (c : Cmd) (d a b e : BitVec 5) (n : Nat),
    Starts s c → c.ins = .tbload d a b e c.ext →
    let core := c.seqk / 32
    let src := c.v1.toNat
    let dst := c.v2.toNat
    let cnt := c.v3.toNat
    let bank := dst / 2048
    let reads := sliceOk src (4 * cnt) = true ∧ s.window (slotKey c.seqk) src (4 * cnt) = true ∧ src % 4 = 0
    let fits := dst < 4096 ∧ 1 ≤ cnt ∧ cnt ≤ 2048 ∧ (dst + cnt - 1) / 2048 = bank
    (reads → fits → s.verify .scratch src (4 * cnt) = none → Leads (.commandStart c.uid n) s fun u =>
      u = { s with cores := u.cores, cmds := u.cmds } ∧
      (∀ i, u.microWord core i = if dst ≤ i ∧ i < dst + cnt then
        BitVec.ofNat 32 (leNat (Mem.read s.scratch (src + 4 * (i - dst)) 4)) else s.microWord core i) ∧
      (∀ j, u.core j = if j = core then { s.core j with micro := (u.core j).micro } else s.core j) ∧
      u.cmd c.uid = some { c with phase := .done, result := 0 }) ∧
    (¬ (reads ∧ fits) → Leads (.commandStart c.uid n) s fun u => ∃ r : TrapRec,
      u = { s with slots := u.slots, cores := u.cores, cmds := u.cmds, policy := s.policy ++ [.trap r] } ∧ r.engine = 2 ∧
      (¬ reads → r.code = 3 ∧ r.status = 7) ∧ (reads → r.code = 6 ∧ r.status = 8) ∧
      u.cmd c.uid = some { c with failed := true } ∧ ∀ i, u.microWord core i = s.microWord core i ∧ (u.core core).gen i = (s.core core).gen i)

/-- R34 and R45. -/
def Obligations.MalformedWordsAndForeignRolesTrap : Prop :=
  ∀ (s : State), s.canIssue s.cur = true →
    let illegal (i : Instr) : Prop := Leads i s fun u => Trapped s u (mine s) 1 0 0 0
    (∀ w, illegal (.reservedEncoding w)) ∧
    ∀ (d a b : BitVec 5) (w o : BitVec 2) (w1 q1 : BitVec 1) (i : BitVec 10) (i12 : BitVec 12) (i16 : BitVec 16) (n : BitVec 3)
        (n4 : BitVec 4) (n11 : BitVec 11) (off : BitVec 13) (t : BitVec 4),
      (role s ≠ 0 ∧ role s ≠ 3 → ∀ j ∈ [Instr.ld d a w i t, .ldu d a w i t], illegal j) ∧
      (role s ≠ 0 → illegal (.vld w a i t)) ∧
      (role s ≠ 2 ∧ role s ≠ 3 → ∀ j ∈ [Instr.st b a w i t, .sts b a w i t, .amofadd d a b o t] ++
        amos.map (fun m => m.1 d a b o w1 t), illegal j) ∧
      (role s ≠ 2 → illegal (.vst q1 a i t)) ∧
      (role s ≠ 0 ∧ role s ≠ 2 → ∀ j ∈ [Instr.bcqs n4 off, .bcqc n4 off, .bcqsK n4 off, .bcqcK n4 off], illegal j) ∧
      (role s ≠ 1 → ∀ j ∈ [Instr.cqp a i12 t, .tcfg a n t, .mcfg a n11 t, .barr d a t, .bwait d a b t, .frd d a t, .depdec a t,
        .trig t, .shapew a n t, .gshape a i t, .gbr a i t, .ghlth a i t], illegal j) ∧
      (role s ≠ 1 ∧ role s ≠ 3 → ∀ j ∈ [Instr.fadd d a b o t, .fsub d a b o t, .fmul d a b o t, .fdiv d a b o t, .fsqrt d a o t,
        .fmac d a b o t, .fmin d a b t, .fmax d a b t, .feq d a b t, .flt d a b t, .fle d a b t, .fitof d a o t, .fftoi d a w1 t,
        .fli d i16 t, .fwr a b t, .yield t, .exit a t], illegal j)


namespace Sys2Proof.Claims

/-- The vector state of the slot that issued a run. -/
def vec (s : State) (c : Cmd) : VecSt := (s.slot (slotKey c.seqk)).vec

/-- A guard field names a stage predicate that is 0 (R196). -/
def guardedOff (s : State) (c : Cmd) (g : Nat) : Bool := decide (1 ≤ g) && decide (g ≤ 7) && !(vec s c).pred.getLsbD (g - 1)

/-- A guard field permits lane `j` (R196). -/
def permits (s : State) (c : Cmd) (g j : Nat) : Bool := decide (g ≤ 7) || (s.vmask (slotKey c.seqk) (g - 8)).getLsbD j

/-- Micro-order `i` executes in run `c`: guarded off, it only counts; else it has an effect of which `p` holds, and the
run moves on (R206, R212; `RunsStepThroughTheirTable` says how). -/
def Executes (i : Instr) (s : State) (c : Cmd) (g : Nat) (p : State → Prop) : Prop :=
  (guardedOff s c g = true → exec i s = .next (s.advRun c)) ∧
  (guardedOff s c g = false → ∃ u : State, exec i s = .next (u.advRun c) ∧ p u)

/-- Nothing has changed but the vector state of the run's slot, which is `v`. -/
def VectorOnly (s u : State) (c : Cmd) (v : VecSt) : Prop :=
  u = { s with slots := u.slots } ∧ ∀ j, u.slot j = if j = slotKey c.seqk then { s.slot j with vec := v } else s.slot j

/-- Micro-order `i` writes `f j` to lane `j` of register `d` where its guard permits, and nothing else. -/
def FillsLanes (i : Instr) (s : State) (c : Cmd) (d : BitVec 7) (g : Nat) (f : Nat → BitVec 32) : Prop :=
  Executes i s c g fun u => VectorOnly s u c { vec s c with regs := (vec u c).regs } ∧
    ∀ (r : BitVec 7) (j : Nat), j < 128 → lane (u.vreg (slotKey c.seqk) r) j =
      if r = d ∧ permits s c g j = true then f j else lane (s.vreg (slotKey c.seqk) r) j

/-- The same for the elements of `w` bits (R194): element `e` lies in lane e × w ÷ 32. -/
def FillsElems (i : Instr) (s : State) (c : Cmd) (d : BitVec 7) (g w : Nat) (f : Nat → Nat) : Prop :=
  Executes i s c g fun u => VectorOnly s u c { vec s c with regs := (vec u c).regs } ∧
    ∀ (r : BitVec 7) (e : Nat), e * w < 4096 → elem w (u.vreg (slotKey c.seqk) r) e =
      if r = d ∧ permits s c g (e * w / 32) = true then f e % 2 ^ w else elem w (s.vreg (slotKey c.seqk) r) e

/-- Micro-order `i` sets bit `j` of mask `k` to `f j` where its guard permits, and nothing else. -/
def FillsMask (i : Instr) (s : State) (c : Cmd) (k : BitVec 3) (g : Nat) (f : Nat → Bool) : Prop :=
  Executes i s c g fun u => VectorOnly s u c { vec s c with masks := (vec u c).masks } ∧
    ∀ m j : Nat, j < 128 → (u.vmask (slotKey c.seqk) m).getLsbD j =
      if m = k.toNat ∧ permits s c g j = true then f j else (s.vmask (slotKey c.seqk) m).getLsbD j

/-- A fault of a micro-order stops its run at it, with no effect (R210). -/
def MicroTraps (i : Instr) (s : State) (c : Cmd) (code status : Nat) : Prop :=
  Leads i s fun u => ∃ r : TrapRec,
    u = { s with slots := u.slots, cores := u.cores, cmds := u.cmds, policy := s.policy ++ [.trap r] } ∧
    r.code = code ∧ r.engine = 2 ∧ r.status = BitVec.ofNat 32 (status + (vec s c).upc.toNat * 2 ^ 20) ∧
    r.mstate = BitVec.ofNat 113 (s.runState c) ∧ r.seq = c.num ∧ r.pc = c.pc ∧ r.prec = false ∧
    u.cmd c.uid = some { c with failed := true } ∧ vec u c = vec s c

/-- The rounding of element `e` of the micro-order that run `c` executes now (R67, R212). -/
def rounding (s : State) (c : Cmd) (e : Nat) : Rm :=
  match c.v1.toNat / 2 ^ 30 % 4 with
  | 0 => .rne
  | 1 => .rz
  | _ => .sr (draw c.seed 0 c.num.toNat ((vec s c).steps.toNat * 512 + e))

/-- The floating micro-orders with two sources (R213). -/
def floatTwo : List ((BitVec 7 → BitVec 7 → BitVec 7 → BitVec 4 → Instr) × Fmt × (FVal → FVal → FVal)) :=
  [(.vaddF32, fp32, .add), (.vaddBf16, bf16, .add), (.vaddF16, fp16, .add),
   (.vsubF32, fp32, .sub), (.vsubBf16, bf16, .sub), (.vsubF16, fp16, .sub),
   (.vmulF32, fp32, .mul), (.vmulBf16, bf16, .mul), (.vmulF16, fp16, .mul),
   (.vminF32, fp32, .min), (.vminBf16, bf16, .min), (.vminF16, fp16, .min),
   (.vmaxF32, fp32, .max), (.vmaxBf16, bf16, .max), (.vmaxF16, fp16, .max)]

/-- VFMA and VFMS: the old destination, plus the product or the product negated (R213). -/
def floatFused : List ((BitVec 7 → BitVec 7 → BitVec 7 → BitVec 4 → Instr) × Fmt × (FVal → FVal)) :=
  [(.vfmaF32, fp32, id), (.vfmaBf16, bf16, id), (.vfmaF16, fp16, id),
   (.vfmsF32, fp32, .neg), (.vfmsBf16, bf16, .neg), (.vfmsF16, fp16, .neg)]

/-- The floating micro-orders with one source (R213, R214). -/
def floatOne : List ((BitVec 7 → BitVec 7 → BitVec 4 → Instr) × Fmt × (FVal → FVal)) :=
  [(.vabsF32, fp32, .abs), (.vabsBf16, bf16, .abs), (.vabsF16, fp16, .abs),
   (.vnegF32, fp32, .neg), (.vnegBf16, bf16, .neg), (.vnegF16, fp16, .neg),
   (.vsqrt, fp32, .sqrt), (.vrcp, fp32, .rcp), (.vrsq, fp32, .rsqrt),
   (.vexp2, fp32, .exp2), (.vlog2, fp32, .log2), (.vtanh, fp32, .tanh)]

/-- The signed value of a pattern of `w` bits. -/
def sgn (w x : Nat) : Int := (BitVec.ofNat w x).toInt

/-- An integer clamped to the signed values of `w` bits, as a pattern. -/
def clampTo (w : Nat) (i : Int) : Nat := (Max.max (-2 ^ (w - 1)) (Min.min (2 ^ (w - 1) - 1) i) % 2 ^ w).toNat

/-- The packed integer micro-orders: element width, and the result modulo 2^width (R215). -/
def packedInt : List ((BitVec 7 → BitVec 7 → BitVec 7 → BitVec 4 → Instr) × Nat × (Nat → Nat → Nat)) :=
  let add (x y : Nat) := x + y
  let sub (w x y : Nat) := x + 2 ^ w - y
  let mul (x y : Nat) := x * y
  let least (w x y : Nat) := if sgn w x ≤ sgn w y then x else y
  let most (w x y : Nat) := if sgn w x ≤ sgn w y then y else x
  let clamped (w x y : Nat) := clampTo w (sgn w x + sgn w y)
  [(.viaddI32, 32, add), (.viaddI16, 16, add), (.viaddI8, 8, add),
   (.visubI32, 32, sub 32), (.visubI16, 16, sub 16), (.visubI8, 8, sub 8),
   (.vimulI32, 32, mul), (.vimulI16, 16, mul), (.vimulI8, 8, mul),
   (.viminI32, 32, least 32), (.viminI16, 16, least 16), (.viminI8, 8, least 8),
   (.vimaxI32, 32, most 32), (.vimaxI16, 16, most 16), (.vimaxI8, 8, most 8),
   (.viaddsI32, 32, clamped 32), (.viaddsI16, 16, clamped 16), (.viaddsI8, 8, clamped 8)]

/-- The micro-orders that act on whole lanes of two sources (R215). -/
def laneOps : List ((BitVec 7 → BitVec 7 → BitVec 7 → BitVec 4 → Instr) × (BitVec 32 → BitVec 32 → BitVec 32)) :=
  [(.vand, fun x y => x &&& y), (.vor, fun x y => x ||| y), (.vxor, fun x y => x ^^^ y),
   (.vsll, fun x y => BitVec.ofNat 32 (x.toNat * 2 ^ (y.toNat % 32))),
   (.vsrl, fun x y => BitVec.ofNat 32 (x.toNat / 2 ^ (y.toNat % 32))),
   (.vsra, fun x y => BitVec.ofInt 32 (x.toInt / 2 ^ (y.toNat % 32)))]

/-- The compares of lanes (R216). -/
def compares : List ((BitVec 3 → BitVec 7 → BitVec 7 → BitVec 4 → Instr) × (BitVec 32 → BitVec 32 → Bool)) :=
  [(.vcmpeqF32, fun x y => (val32 x.toNat).eq (val32 y.toNat)), (.vcmpeqI32, fun x y => decide (x = y)),
   (.vcmpltF32, fun x y => (val32 x.toNat).lt (val32 y.toNat)), (.vcmpltI32, fun x y => decide (x.toInt < y.toInt)),
   (.vcmpleF32, fun x y => (val32 x.toNat).lt (val32 y.toNat) || (val32 x.toNat).eq (val32 y.toNat)),
   (.vcmpleI32, fun x y => decide (x.toInt ≤ y.toInt))]

/-- The conversions: the new lane from the old one, and whether it counts a saturation (R217). -/
noncomputable def conversions : List ((BitVec 7 → BitVec 7 → BitVec 4 → Instr) × (Rm → Nat → Nat × Bool)) :=
  [(.vcvtBf16F32, fun m x => roundF bf16 m (val32 x)), (.vcvtF16F32, fun m x => roundF fp16 m (val32 x)),
   (.vcvtFp8aF32, fun m x => roundF fp8a m (val32 x)), (.vcvtFp8bF32, fun m x => roundF fp8b m (val32 x)),
   (.vcvtF32Bf16, fun m x => (round32 m (decodeF bf16 (x % 2 ^ 16)), false)),
   (.vcvtF32F16, fun m x => (round32 m (decodeF fp16 (x % 2 ^ 16)), false)),
   (.vcvtF32Fp8a, fun m x => (round32 m (decodeF fp8a (x % 2 ^ 8)), false)),
   (.vcvtF32Fp8b, fun m x => (round32 m (decodeF fp8b (x % 2 ^ 8)), false)),
   (.vcvtI32F32, fun m x => ((toSigned 32 (if m = Rm.rz then Rm.rz else Rm.rne) (val32 x) % 2 ^ 32).toNat, false)),
   (.vcvtF32I32, fun m x => (round32 m (ofInt (sgn 32 x) 0 false), false)),
   (.vcvtFp4xF32, fun m x =>
     match val32 x with
     | .num n k e => ((encodeFp4 0 m n k e).1 + 127 * 256, (encodeFp4 0 m n k e).2)
     | _ => (255 * 256, false)),
   (.vcvtF32Fp4x, fun m x =>
     (if x / 256 % 256 = 255 then 0x7FC00000
      else round32 m ((decodeFp4 (x / 65536 % 256) (x % 16)).scale ((x / 256 % 256 : Nat) - 127 : Int)), false))]

end Sys2Proof.Claims

open Sys2Proof Sys2Proof.Machine Sys2Proof.Claims

/-! ### Micro-orders -/

/-- R206, R207, R210, R212, R224: a micro-order of a run, from the start of its body to its end; after a pass the engine chooses among
the runs by rank, and after the last the run is done. An unassigned major traps. -/
def Obligations.RunsStepThroughTheirTable : Prop :=
  ∀ (s : State) (c : Cmd), s.run = some c →
    let v := vec s c
    let sk := slotKey c.seqk
    let core := c.seqk / 32
    let start := c.v1.toNat % 2 ^ 12
    let last := c.v1.toNat / 2 ^ 12 % 2 ^ 12
    let n := c.v2.toNat % 2 ^ 32
    let p := v.passes + 1
    exec .vnop s = .next (s.advRun c) ∧
    (v.upc.toNat < last → Leads .vnop s fun u => VectorOnly s u c { v with steps := v.steps + 1, upc := v.upc + 1 }) ∧
    (last ≤ v.upc.toNat → Leads .vnop s fun u =>
      u = { s with slots := u.slots, cores := u.cores, cmds := u.cmds } ∧
      (∀ j, u.core j = if j = core then { s.core j with vrun := (u.core core).vrun } else s.core j) ∧
      (match (u.core core).vrun with
        | none => u.runs core = []
        | some m => ∃ x ∈ u.runs core, x.uid = m ∧ ∀ y ∈ u.runs core, u.rank (slotKey x.seqk) ≤ u.rank (slotKey y.seqk)) ∧
      (p < n + c.v3.toNat % 8 → u.cmds = s.cmds ∧ ∃ q : BitVec 7,
        (∀ j, u.slot j = if j = sk then { s.slot j with vec :=
          { v with steps := v.steps + 1, passes := p, rot := p % 96, pred := q, upc := BitVec.ofNat 12 start } } else s.slot j) ∧
        ∀ k, k < 7 → q.getLsbD k = decide (k ≤ p ∧ p - k < n)) ∧
      (n + c.v3.toNat % 8 ≤ p →
        u.cmds = s.cmds.map (fun x => if x.uid = c.uid then { c with phase := .done } else x) ∧
        ∀ j, u.slot j = if j = sk then { s.slot j with vec := { v with steps := v.steps + 1, passes := p } } else s.slot j)) ∧
    ∀ w, MicroTraps (.reservedOp7 w) s c 1 1

/-- R219 and R220, with the guard of R196 and the element layout of R194. -/
def Obligations.VectorMovesPermutesAndPacks : Prop :=
  ∀ (s : State) (c : Cmd) (d a b l : BitVec 7) (k : BitVec 3) (g : BitVec 4), s.run = some c →
    let x := lane (s.vreg (slotKey c.seqk) a)
    let y := lane (s.vreg (slotKey c.seqk) b)
    FillsLanes (.vmov d a g) s c d g.toNat x ∧
    FillsLanes (.vsel d a b k) s c d 0 (fun j => if (s.vmask (slotKey c.seqk) k.toNat).getLsbD j then x j else y j) ∧
    FillsLanes (.vperm d a b g) s c d g.toNat (fun j => x ((y j).toNat % 128)) ∧
    FillsLanes (.vrot d a b g) s c d g.toNat (fun j => x ((j + (y 0).toNat % 128) % 128)) ∧
    FillsLanes (.vbcast d a l g) s c d g.toNat (fun _ => x l.toNat) ∧
    FillsLanes (.vpack d a b g) s c d g.toNat (fun j => BitVec.ofNat 32 ((x j).toNat % 2 ^ 16 + (y j).toNat % 2 ^ 16 * 2 ^ 16)) ∧
    FillsLanes (.vunpkl d a g) s c d g.toNat (fun j => BitVec.ofNat 32 ((x j).toNat % 2 ^ 16)) ∧
    FillsLanes (.vunpkh d a g) s c d g.toNat (fun j => BitVec.ofNat 32 ((x j).toNat / 2 ^ 16)) ∧
    FillsElems (.vpack d a b g) s c d g.toNat 16 (fun e => if e % 2 = 0 then (x (e / 2)).toNat % 2 ^ 16 else (y (e / 2)).toNat % 2 ^ 16)

/-- R67, R212, R213, R214: each element takes the exact result of its operation, rounded once. That the functions of VEXP2, VLOG2,
VTANH, VRCP and VRSQ are computed to more than 200 bits and a sticky bit, and what they give at zeros, infinities and beyond
their domains where R214 is silent, is the model's choice (log entry 26); so is VSUB of two negative zeros (log entry 93). -/
def Obligations.FloatingMicroOrders : Prop :=
  ∀ (s : State) (c : Cmd) (d a b : BitVec 7) (g : BitVec 4), s.run = some c →
    let value (f : Fmt) (r : BitVec 7) (e : Nat) : FVal :=
      decodeF f (elem (1 + f.ebits + f.mbits) (s.vreg (slotKey c.seqk) r) e)
    let rounded (f : Fmt) (e : Nat) (v : FVal) : Nat := (roundF f (rounding s c e) v).1
    (∀ m ∈ floatTwo, FillsElems (m.1 d a b g) s c d g.toNat (1 + m.2.1.ebits + m.2.1.mbits) fun e =>
      rounded m.2.1 e (m.2.2 (value m.2.1 a e) (value m.2.1 b e))) ∧
    (∀ m ∈ floatFused, FillsElems (m.1 d a b g) s c d g.toNat (1 + m.2.1.ebits + m.2.1.mbits) fun e =>
      rounded m.2.1 e ((value m.2.1 d e).add (m.2.2 ((value m.2.1 a e).mul (value m.2.1 b e))))) ∧
    ∀ m ∈ floatOne, FillsElems (m.1 d a g) s c d g.toNat (1 + m.2.1.ebits + m.2.1.mbits) fun e =>
      rounded m.2.1 e (m.2.2 (value m.2.1 a e))

/-- R215: wrapping, saturating and lane operations on integers. -/
def Obligations.IntegerMicroOrders : Prop :=
  ∀ (s : State) (c : Cmd) (d a b : BitVec 7) (g : BitVec 4), s.run = some c →
    let x := s.vreg (slotKey c.seqk) a
    let y := s.vreg (slotKey c.seqk) b
    (∀ m ∈ packedInt, FillsElems (m.1 d a b g) s c d g.toNat m.2.1 fun e => m.2.2 (elem m.2.1 x e) (elem m.2.1 y e)) ∧
    ∀ m ∈ laneOps, FillsLanes (m.1 d a b g) s c d g.toNat fun j => m.2 (lane x j) (lane y j)

/-- R196 and R216. -/
def Obligations.ComparesAndMaskMicroOrders : Prop :=
  ∀ (s : State) (c : Cmd) (k m n : BitVec 3) (a b : BitVec 7) (g : BitVec 4), s.run = some c →
    let x := lane (s.vreg (slotKey c.seqk) a)
    let y := lane (s.vreg (slotKey c.seqk) b)
    let mask (i : BitVec 3) (j : Nat) : Bool := (s.vmask (slotKey c.seqk) i.toNat).getLsbD j
    (∀ o ∈ compares, FillsMask (o.1 k a b g) s c k g.toNat fun j => o.2 (x j) (y j)) ∧
    FillsMask (.kand k m n g) s c k g.toNat (fun j => mask m j && mask n j) ∧
    FillsMask (.kor k m n g) s c k g.toNat (fun j => mask m j || mask n j) ∧
    FillsMask (.knot k m g) s c k g.toNat (fun j => !mask m j) ∧
    FillsMask (.kmov k a g) s c k g.toNat (fun j => decide (x j ≠ 0))

/-- R217 and R218, with the saturations that R76 and R205 count against the run's tensor ID in task slots. -/
def Obligations.ConversionsAndReductions : Prop :=
  ∀ (s : State) (c : Cmd) (d a : BitVec 7) (g : BitVec 4), s.run = some c →
    let sk := slotKey c.seqk
    let x := lane (s.vreg sk a)
    let lanes := List.range 128
    (∀ o ∈ conversions, Executes (o.1 d a g) s c g.toNat fun u =>
      let r (j : Nat) : Nat × Bool := o.2 (rounding s c j) (x j).toNat
      let n := (lanes.filter fun j => permits s c g.toNat j && (r j).2).length
      u = { s with slots := u.slots } ∧
      (∀ j, u.slot j = if j = sk then
        { s.slot j with vec := { vec s c with regs := (vec u c).regs }, hist := (u.slot j).hist } else s.slot j) ∧
      (∀ t, Kv.get {} (u.slot sk).hist t =
        let h := Kv.get {} (s.slot sk).hist t
        if t = c.v1.toNat / 2 ^ 24 % 64 ∧ n ≠ 0 ∧ sk % 8 < 4 then { h with sat := Min.min (h.sat + n) (2 ^ 32 - 1) } else h) ∧
      ∀ (q : BitVec 7) (j : Nat), j < 128 → lane (u.vreg sk q) j =
        if q = d ∧ permits s c g.toNat j = true then BitVec.ofNat 32 (r j).1 else lane (s.vreg sk q) j) ∧
    (
      let leavesOf (out : FVal) : List FVal := lanes.map fun j => if permits s c g.toNat j then val32 (x j).toNat else out
      FillsLanes (.vrsumF32 d a g) s c d g.toNat (fun _ => BitVec.ofNat 32 (round32 .rne (np3 (leavesOf .zero)))) ∧
      FillsLanes (.vrsumI32 d a g) s c d g.toNat
        (fun _ => BitVec.ofNat 32 ((lanes.filter fun j => permits s c g.toNat j).map fun j => (x j).toNat).sum) ∧
      FillsLanes (.vrmax d a g) s c d g.toNat
        (fun _ => BitVec.ofNat 32 (round32 .rne (tree128 FVal.max .nan (leavesOf (.inf true))))) ∧
      FillsLanes (.vrmin d a g) s c d g.toNat
        (fun _ => BitVec.ofNat 32 (round32 .rne (tree128 FVal.min .nan (leavesOf (.inf false))))))

/-- R165, R221 and R222: data queues, tile rows and accumulator rows, and the tags and merges of the lines they write (R94, R96). -/
def Obligations.QueueAndRowMicroOrders : Prop :=
  ∀ (s : State) (c : Cmd) (d a : BitVec 7), s.run = some c →
    let sk := slotKey c.seqk
    let queue (n : Nat) := Kv.get [] (s.slot sk).queues n
    (∀ (q : BitVec 2) (g : BitVec 3), guardedOff s c g.toNat = false →
      (4 ≤ sk % 8 → MicroTraps (.vpop d q g) s c 1 3) ∧
      (sk % 8 < 4 → ∀ t b r, queue q.toNat = ⟨t, some b⟩ :: r → Executes (.vpop d q g) s c g.toNat fun u =>
        u = { s with slots := u.slots } ∧
        (∀ j, u.slot j = if j = sk then
          { s.slot j with vec := { vec s c with regs := (vec u c).regs }, queues := (u.slot j).queues } else s.slot j) ∧
        (∀ n, Kv.get [] (u.slot sk).queues n = if n = q.toNat then r else queue n) ∧
        ∀ (x : BitVec 7) (j : Nat), j < 128 → lane (u.vreg sk x) j =
          if x = d then BitVec.ofNat 32 (leAt b (4 * j) 4) else lane (s.vreg sk x) j) ∧
      (sk % 8 < 4 → (queue q.toNat = [] ∨ ∃ t r, queue q.toNat = ⟨t, none⟩ :: r) → exec (.vpop d q g) s = .next s)) ∧
    (∀ (q : BitVec 1) (g : BitVec 3), guardedOff s c g.toNat = false →
      (4 ≤ sk % 8 → MicroTraps (.vpush q a g) s c 1 3) ∧
      (sk % 8 < 4 → (queue (4 + q.toNat)).length < 8 → Executes (.vpush q a g) s c g.toNat fun u => ∃ b : List Byte,
        u = { s with slots := u.slots } ∧
        (∀ j, u.slot j = if j = sk then { s.slot j with queues := (u.slot j).queues } else s.slot j) ∧
        (∀ n, Kv.get [] (u.slot sk).queues n = if n = 4 + q.toNat then queue n ++ [⟨0, some b⟩] else queue n) ∧
        b.length = 512 ∧ ∀ j, j < 128 → leAt b (4 * j) 4 = (lane (s.vreg sk a) j).toNat) ∧
      (sk % 8 < 4 → 8 ≤ (queue (4 + q.toNat)).length → exec (.vpush q a g) s = .next s)) ∧
    (∀ (q : BitVec 2) (g : BitVec 3), guardedOff s c g.toNat = true → exec (.vpop d q g) s = .next (s.advRun c)) ∧
    (∀ (q : BitVec 1) (g : BitVec 3), guardedOff s c g.toNat = true → exec (.vpush q a g) s = .next (s.advRun c)) ∧
    ∀ (t : BitVec 3) (t2 : BitVec 2) (x p : BitVec 3) (g : BitVec 4),
      let i := s.index sk x.toNat
      let row := i.toNat
      let at' := s.tileAddr sk t.toNat (row * 512)
      let stepped (u : State) : Prop := ∀ y, u.index sk y = if y = x.toNat then i + BitVec.ofNat 16 p.toNat else s.index sk y
      let held := t.toNat < (s.slot sk).tmap.length ∧ row < 64
      let held2 := t2.toNat < (s.slot sk).amap.length ∧ row < 128
      let regs (u : State) (f : Nat → BitVec 32) : Prop := ∀ (r : BitVec 7) (j : Nat), j < 128 → lane (u.vreg sk r) j =
        if r = d ∧ permits s c g.toNat j = true then f j else lane (s.vreg sk r) j
      let some' (l : Nat) : Prop := ∃ j, 32 * l ≤ j ∧ j < 32 * l + 32 ∧ permits s c g.toNat j = true
      let every (l : Nat) : Prop := ∀ j, 32 * l ≤ j → j < 32 * l + 32 → permits s c g.toNat j = true
      (held → s.verify .tile at' 512 = none → Executes (.vtr d t x p g) s c g.toNat fun u =>
        VectorOnly s u c { vec s c with regs := (vec u c).regs, ix := (vec u c).ix } ∧ stepped u ∧
        regs u fun j => BitVec.ofNat 32 (leAt (s.bytes .tile at' 512) (4 * j) 4)) ∧
      (held2 → Executes (.var d t2 x p g) s c g.toNat fun u =>
        VectorOnly s u c { vec s c with regs := (vec u c).regs, ix := (vec u c).ix } ∧ stepped u ∧
        regs u fun j => lane (s.accRow sk t2.toNat row) j) ∧
      (held2 → Executes (.vaw d t2 x p g) s c g.toNat fun u =>
        u = { s with slots := u.slots, accs := u.accs } ∧ stepped u ∧
        (∀ j, u.slot j = if j = sk then { s.slot j with vec := { vec s c with ix := (vec u c).ix } } else s.slot j) ∧
        (∀ k, k ≠ s.accKey sk t2.toNat row → Kv.get [] u.accs k = Kv.get [] s.accs k ∧ Kv.has u.accs k = Kv.has s.accs k) ∧
        ∀ j, j < 128 → lane (u.accRow sk t2.toNat row) j =
          if permits s c g.toNat j then lane (s.vreg sk d) j else lane (s.accRow sk t2.toNat row) j) ∧
      (held → (∀ l, l < 4 → some' l → ¬ every l → s.verifyLine .tile (at' + 128 * l) = none) →
        Executes (.vtw d t x p g) s c g.toNat fun u =>
          u = { s with slots := u.slots, tiles := u.tiles, bad := u.bad, ecc := u.ecc, tags := u.tags } ∧ stepped u ∧
          (∀ j, u.slot j = if j = sk then { s.slot j with vec := { vec s c with ix := (vec u c).ix } } else s.slot j) ∧
          (∀ l, l < 4 → some' l → u.verifyLine .tile (at' + 128 * l) = none ∧
            (∀ k, k < 32 → leAt (u.tileLine (at' / 128 + l)) (4 * k) 4 = if permits s c g.toNat (32 * l + k) then
              (lane (s.vreg sk d) (32 * l + k)).toNat else leAt (s.bytes .tile at' 512) (128 * l + 4 * k) 4) ∧
            (every l → u.tag .tile (at' + 128 * l) = BitVec.ofNat 16 (sk / 8 % 1024)) ∧
            (¬ every l → u.tag .tile (at' + 128 * l) = BitVec.ofNat 16 (5 * 4096 + sk / 8 % 1024))) ∧
          ∀ k, ¬ (∃ l, l < 4 ∧ some' l ∧ k = at' / 128 + l) → u.tileLine k = s.tileLine k ∧
            u.tag .tile (k * 128) = s.tag .tile (k * 128)) ∧
      (guardedOff s c g.toNat = false →
        (¬ held → MicroTraps (.vtr d t x p g) s c 3 4 ∧ MicroTraps (.vtw d t x p g) s c 3 4) ∧
        (¬ held2 → MicroTraps (.var d t2 x p g) s c 3 4 ∧ MicroTraps (.vaw d t2 x p g) s c 3 4))

/-- R223, R224, R160: index registers, spill words and immediates, the last rounded to the nearest (R69). -/
def Obligations.IndexSpillAndImmediateMicroOrders : Prop :=
  ∀ (s : State) (c : Cmd) (d : BitVec 7) (x : BitVec 3) (v : BitVec 4) (i : BitVec 16), s.run = some c →
    let sk := slotKey c.seqk
    let word (t : State) (w : Nat) : Word := Kv.get 0 t.spill (sk * 1024 + w)
    let base := 64 * v.toNat
    let indexed (j : Instr) (value : BitVec 16) : Prop := Executes j s c 0 fun u =>
      VectorOnly s u c { vec s c with ix := (vec u c).ix } ∧
      ∀ y, u.index sk y = if y = x.toNat then value else s.index sk y
    indexed (.vixs x i) i ∧ indexed (.vixa x i) (s.index sk x.toNat + i) ∧
    (base + 63 < (s.slot sk).spillLimit →
      (Executes (.vspl d v) s c 0 fun u => u = { s with spill := u.spill } ∧
        (∀ w, w < 64 → word u (base + w) =
          BitVec.ofNat 64 ((lane (s.vreg sk d) (2 * w)).toNat + (lane (s.vreg sk d) (2 * w + 1)).toNat * 2 ^ 32)) ∧
        ∀ k, (k < sk * 1024 + base ∨ sk * 1024 + base + 64 ≤ k) → Kv.get 0 u.spill k = Kv.get 0 s.spill k) ∧
      FillsLanes (.vfil d v) s c d 0 fun j => BitVec.ofNat 32 ((word s (base + j / 2)).toNat / 2 ^ (32 * (j % 2)))) ∧
    ((s.slot sk).spillLimit ≤ base + 63 → MicroTraps (.vspl d v) s c 4 5 ∧ MicroTraps (.vfil d v) s c 4 5) ∧
    (
      let float (f : Fmt) (_ : Nat) : Nat := (roundF f .rne (decodeF bf16 i.toNat)).1
      let int (_ : Nat) : Nat := (i.signExtend 32).toNat
      FillsElems (.vmoviF32 d i) s c d 0 32 (float fp32) ∧ FillsElems (.vmoviBf16 d i) s c d 0 16 (float bf16) ∧
      FillsElems (.vmoviF16 d i) s c d 0 16 (float fp16) ∧ FillsElems (.vmoviI32 d i) s c d 0 32 int ∧
      FillsElems (.vmoviI16 d i) s c d 0 16 int ∧ FillsElems (.vmoviI8 d i) s c d 0 8 int)


namespace Sys2Proof.Claims

/-- Mailbox command `code` runs: its 64 bytes are in range (R374, R375), and CONFIG has been accepted where it must be. -/
def mailRuns (s : State) (code : Nat) : Prop :=
  s.host.ready = true ∧ s.host.updating = false ∧ s.host.busy = true ∧ leAt s.host.cmd 0 1 = code ∧ mboxOk s.host.cmd = true ∧
    (code = 2 ∨ code = 3 ∨ code = 4 ∨ code = 5 ∨ code = 6 ∨ code = 7 → s.host.configured = true)

/-- The answer of a mailbox command in the state `t` it has led to: the result, and the box is free (R374). -/
def answered (t : State) (result : Nat) : State :=
  { t with host := { t.host with busy := false, result := BitVec.ofNat 8 result, poolrst := false, since := none } }

/-- A mailbox command has met a line that fails verification: the policy core gets its record, an uncorrectable error is counted,
and the command ends with a result (R97, R351, R369). -/
def FailsLine (t u : State) (b : BadLine) (result : Nat) : Prop :=
  u = { t with cores := u.cores, policy := u.policy, host := (answered t result).host } ∧ (b.ecc = false → u.cores = t.cores) ∧
    ∃ r : TrapRec, u.policy = t.policy ++ [.trap r] ∧ r.code = 7 ∧ r.addr = BitVec.ofNat 56 b.addr ∧ r.crcOld = b.stored ∧
      r.crcNew = b.computed ∧ r.otag = b.tag ∧ r.ecc = b.ecc

/-- Field of a mailbox command, and a record in host memory that it names. -/
def boxField (s : State) (o n : Nat) : Nat := leAt s.host.cmd o n
def hostBytes (s : State) (a n : Nat) : List Byte := Mem.read s.mem (2 * 2 ^ 50 + a % 2 ^ 48) n

/-- One soft error counted in a half of SERRC or SERRD, stopping at all ones (R370). -/
def counted (x : Word) (high : Bool) : Nat :=
  if high then x.toNat % 2 ^ 32 + Min.min (x.toNat / 2 ^ 32 + 1) (2 ^ 32 - 1) * 2 ^ 32
  else Min.min (x.toNat % 2 ^ 32 + 1) (2 ^ 32 - 1) + x.toNat / 2 ^ 32 * 2 ^ 32

end Sys2Proof.Claims

open Sys2Proof Sys2Proof.Machine Sys2Proof.Claims

/-! ### Events: registers, the board, power -/

/-- R68, R199, R271, R277: the registers that software writes apart from its streams' CSR instructions. Beside them, what the thunk
commands do to the directory that a write to THA clears (R252, R257, R258, R269). -/
def Obligations.SpecialRegisterWriteEvents : Prop :=
  ThunkCommandsKeepTheDirectory ∧ ∀ (s : State) (v : BitVec 64) (high : Bool),
    let sk := slotKey s.cur
    let slotOnly (u : State) (c : Slot) : Prop := u = { s with slots := u.slots } ∧ ∀ j, u.slot j = if j = sk then c else s.slot j
    let base := if high then 4 else 0
    Leads (.seedWrite v) s (fun u => slotOnly u { mine s with seed := v }) ∧
    Leads (.mictlWrite v) s (fun u => slotOnly u { mine s with miStop := v.getLsbD 0 }) ∧
    (s.runInFlight sk = true → exec (.ixloIxhiWrite high v) s = .next s) ∧
    (s.runInFlight sk = false → Leads (.ixloIxhiWrite high v) s fun u =>
      slotOnly u { mine s with vec := { (mine s).vec with ix := (mine u).vec.ix } } ∧
      ∀ i, u.index sk i = if base ≤ i ∧ i < base + 4 then BitVec.ofNat 16 (v.toNat / 2 ^ (16 * (i - base))) else s.index sk i) ∧
    (s.liveHandles sk = [] → Leads (.thaWrite v) s fun u => slotOnly u { mine s with
      tha := BitVec.ofNat 64 (v.toNat / 2 ^ 12 % 2 ^ 28 * 2 ^ 12), thClear := true }) ∧
    (s.liveHandles sk ≠ [] → Leads (.thaWrite v) s fun u => Trapped s u (mine s) 6 6 0 5)

/-- R372 to R375: writes to BAR0. That a size which R372 does not allow is ignored, that SQBASE loses its low 12 bits, and when
MBSTAT[1] clears are the model's choices (log entry 68). -/
def Obligations.BoardRegistersAndDoorbells : Prop :=
  ∀ (s : State) (v : Word) (off : Nat),
    let h := s.host
    let t := v.setWidth 32
    let becomes (i : Instr) (x : HostSt) : Prop := exec i s = .next { s with host := x }
    let wakes (i : Instr) : Prop :=
      (h.sqsize.toNat < (t - h.sqhead).toNat → becomes i { h with sqerr := h.sqerr ||| 1 }) ∧
      ((t - h.sqhead).toNat ≤ h.sqsize.toNat → (t - h.sqhead).toNat < (h.tail - h.sqhead).toNat → exec i s = .next s) ∧
      ((t - h.sqhead).toNat ≤ h.sqsize.toNat → (h.tail - h.sqhead).toNat ≤ (t - h.sqhead).toNat → becomes i { h with tail := t })
    let bases (i : Instr) : Prop :=
      (h.sqhead = h.tail → becomes i { h with sqbase := BitVec.ofNat 64 (v.toNat / 4096 * 4096) }) ∧
      (h.sqhead ≠ h.tail → exec i s = .next s)
    let sizes (i : Instr) : Prop :=
      let n := v.toNat % 2 ^ 13
      let good := n = 0 ∨ ∃ k, k ≤ 8 ∧ n = 16 * 2 ^ k
      (h.sqhead = h.tail → good → becomes i { h with sqsize := BitVec.ofNat 13 n }) ∧
      (¬ (h.sqhead = h.tail ∧ good) → exec i s = .next s)
    let taken : HostSt := { h with busy := true, doorBusy := false, cmd := s.mboxBytes, moved := 0, loadUid := 0, since := none }
    let ends : HostSt := { taken with busy := false, result := 1, poolrst := false }
    let pend := h.msixPending.getLsbD ((off - 0x1000) / 16)
    wakes (.wake v) ∧ (off = 0x18 → wakes (.bar0RegisterWrite off v)) ∧
    bases (.sqbaseWrite v) ∧ (off = 0x08 → bases (.bar0RegisterWrite off v)) ∧
    sizes (.sqsizeWrite v) ∧ (off = 0x10 → sizes (.bar0RegisterWrite off v)) ∧
    (h.busy = true → becomes .mbdoorWhileBusy { h with doorBusy := true } ∧ exec .mbdoorUnknownCode s = .next s) ∧
    (h.busy = false → exec .mbdoorWhileBusy s = .next s) ∧
    (h.busy = false → h.ready = true → mboxOk s.mboxBytes = false → becomes .mbdoorUnknownCode ends) ∧
    (h.busy = false → mboxOk s.mboxBytes = true → exec .mbdoorUnknownCode s = .next s) ∧
    (off = 0x80 →
      (h.busy = true → becomes (.bar0RegisterWrite off v) { h with doorBusy := true }) ∧
      (h.busy = false → h.ready = false → exec (.bar0RegisterWrite off v) s = .next s) ∧
      (h.busy = false → h.ready = true → mboxOk s.mboxBytes = true → becomes (.bar0RegisterWrite off v) taken) ∧
      (h.busy = false → h.ready = true → mboxOk s.mboxBytes = false → becomes (.bar0RegisterWrite off v) ends)) ∧
    (off = 0x28 → becomes (.bar0RegisterWrite off v) { h with sqerr := h.sqerr &&& ~~~(v.setWidth 2) }) ∧
    (0x40 ≤ off → off < 0x80 → off % 8 = 0 → Leads (.bar0RegisterWrite off v) s fun u =>
      u = { s with host := { h with mbox := u.host.mbox } } ∧
      ∀ i, Kv.get 0 u.host.mbox i = if i = (off - 0x40) / 8 then v else Kv.get 0 h.mbox i) ∧
    (0x1000 ≤ off → off < 0x1400 → off % 8 = 0 → Leads (.bar0RegisterWrite off v) s fun u =>
      u = { s with host := { h with msix := u.host.msix, msixPending := u.host.msixPending, sent := u.host.sent } } ∧
      (∀ i, Kv.get 0 u.host.msix i = if i = (off - 0x1000) / 8 then v else Kv.get 0 h.msix i) ∧
      (if off % 16 = 8 ∧ v.getLsbD 32 = false ∧ pend = true then
        u.host.sent = h.sent ++ [.msix ((off - 0x1000) / 16)] ∧
          ∀ i, u.host.msixPending.getLsbD i = (h.msixPending.getLsbD i && decide (i ≠ (off - 0x1000) / 16))
       else u.host.sent = h.sent ∧ u.host.msixPending = h.msixPending)) ∧
    ((off % 8 ≠ 0 ∨ off = 0 ∨ off = 0x20 ∨ (0x30 ≤ off ∧ off < 0x40) ∨ (0x88 ≤ off ∧ off < 0x1000) ∨ 0x1400 ≤ off) →
      exec (.bar0RegisterWrite off v) s = .next s)

/-- R332, R333, R368, R389, R390. THROT[16] says that pulses are swallowed, for temperature or for the power limit. How many are
swallowed for temperature is a free value (log entry 14); that the count of the last 10 µs stands as it was when the throttle for
temperature ends is the model's choice (log entry 134). -/
def Obligations.HealthPowerAndTemperature : Prop :=
  ∀ (s : State) (up : Bool) (port octant flow : Nat) (ratio : BitVec 16),
    let h := s.host
    let health (i : Instr) (n : Nat) : Prop := Leads i s fun u => u = { s with health := u.health } ∧
      ∀ j, j < 64 → u.health.getLsbD j = if j = n then up else s.health.getLsbD j
    let throt (u : State) (on : Bool) (n : Nat) : Prop := ∀ o, Kv.get 0 u.throt o =
      if o = octant then BitVec.ofNat 64 (n + if on then 65536 else 0) else Kv.get 0 s.throt o
    health (.hostLinkStateChange up) 26 ∧
    (port < 18 → health (.adoshPortStateChange port up) (8 + port)) ∧
    (18 ≤ port → exec (.adoshPortStateChange port up) s = .next s) ∧
    Leads (.highTemperaturePoint octant) s (fun u => u = { s with host := { h with hot := u.host.hot } } ∧
      ∀ o, o ∈ u.host.hot ↔ o = octant ∨ o ∈ h.hot) ∧
    Leads (.thermalThrottle octant) s (fun u => ∃ r, r < 65536 ∧
      u = { s with throt := u.throt, fresh := s.fresh + 1, host := { h with throttled := u.host.throttled } } ∧
      throt u true r ∧ ∀ o, o ∈ u.host.throttled ↔ o = octant ∨ o ∈ h.throttled) ∧
    Leads (.thermalThrottleEnd octant) s (fun u =>
      u = { s with throt := u.throt, host := { h with throttled := h.throttled.filter (· ≠ octant) } } ∧
      throt u (h.limited.contains octant) ((Kv.get 0 s.throt octant).toNat % 65536)) ∧
    Leads (.powerLimitThrottle octant ratio) s (fun u =>
      u = { s with throt := u.throt, host := { h with limited := u.host.limited } } ∧
      (∀ o, o ∈ u.host.limited ↔ if o = octant then ratio ≠ 0 else o ∈ h.limited) ∧
      throt u (decide (ratio ≠ 0) || h.throttled.contains octant) ratio.toNat) ∧
    Leads (.coolantFlowShortfall flow) s (fun u => u = { s with host := { h with limit := 72 - 6 * (12 - flow) } }) ∧
    (octant < 8 → (∀ c ∈ coresOf octant, (s.core c).halted = true) → Leads (.thermalHalt octant) s fun u =>
      u = { s with health := u.health, host := { h with sent := h.sent ++ [.aer] } } ∧
      ∀ j, j < 64 → u.health.getLsbD j = (s.health.getLsbD j && decide (j ≠ octant))) ∧
    (octant < 8 → Leads (.thermalHalt octant) s fun u => (∀ c ∈ coresOf octant, (u.core c).halted = true) ∧
      u.health.getLsbD octant = false ∧ u.host = { h with sent := h.sent ++ [.aer] })

/-- R109, R353, R354, R374, R375, R379, R380 and R382: each command of the mailbox that runs, with every answer it has. Which
pages firmware takes for the pool is a choice (log entry 15), from page `(s.choose 0x180000).2` of each octant on; which members
of a gang disagree with this one's list is a choice too, a bit for each rank (log entries 15 and 76). That all but CONFIG, PATCH and
UPDATE wait for a CONFIG, and the answers to declined and failing accesses, are log entry 69; what a POOLRST waits for is log
entry 70. -/
def Obligations.ConfigurationAndMemoryMailbox : Prop :=
  ∀ (s : State),
    let h := s.host
    let box := boxField s
    (∀ p ∈ [(1, Instr.config), (2, .load), (3, .gang), (4, .redwin), (5, .poolrst), (6, .release), (8, .patch), (9, .update)],
      h.ready = true → h.updating = false → h.busy = true → leAt h.cmd 0 1 = p.1 →
        (mboxOk h.cmd = false → exec p.2 s = .next (answered s 1)) ∧
        (mboxOk h.cmd = true → 2 ≤ p.1 → p.1 ≤ 6 → h.configured = false → exec p.2 s = .next (answered s 2))) ∧
    (mailRuns s 1 →
      let r := hostBytes s (box 8 8) 128
      let pages := (List.range 8).map fun o => takePages (configAreas r) o 0x180000 (s.choose 0x180000).2 (leAt r 4 4) []
      let accepted := h.configured = false ∧ configOk r = true ∧ ∀ l ∈ pages, l.length = leAt r 4 4
      (¬ accepted → exec .config s = .next (answered s 1)) ∧
      (accepted → Leads .config s fun u =>
        u.host.configured = true ∧ u.host.configuredAt = s.time ∧ u.host.busy = false ∧ u.host.result = 0 ∧ u.pool = pages.flatten ∧ u.mem = s.mem ∧
        u.dirBase = leAt r 8 8 ∧ u.dirEntries = leAt r 16 4 ∧ u.captureBase = leAt r 24 8 ∧ u.spillBase = leAt r 64 8 ∧
        u.spillBytes = leAt r 72 4 ∧
        (∀ c ∈ allCores,
          let tr : Word := BitVec.ofNat 64 (leAt r 32 8) &&& 0xFFFFFFFFFFFF0001
          (u.slot (c * 8 + 4)).troot = tr ∧ (u.slot (c * 8 + 5)).troot = tr ∧
          Kv.get 0 (u.slot (c * 8 + 4)).swin 0 = BitVec.ofNat 64 (leAt r 40 8 + c * 2 ^ 23) &&& 0xF3FFFFF000 ∧
          Kv.get 0 (u.slot (c * 8 + 5)).swin 0 = BitVec.ofNat 64 (leAt r 48 8 + c * 2 ^ 23) &&& 0xF3FFFFF000 ∧
          (u.slot (c * 8 + 5)).busy = true ∧ u.seq (c * 32 + 23) = { active := true, pc := Config.runtimeEntry c } ∧
          (u.core c).hbper.toNat = leAt r 56 2 ∧ (u.core c).hblast = (s.core c).hblast) ∧
        ∀ j, j % 8 < 4 → u.slot j = s.slot j)) ∧
    (mailRuns s 2 →
      let n := box 24 4
      let bs := (hostBytes s (box 8 8) n).drop h.moved
      let va := box 16 8 + h.moved
      let uid := if h.loadUid = 0 then s.nextUid else h.loadUid
      let v : State := if h.loadUid = 0 then { s with nextUid := s.nextUid + 1, host := { h with loadUid := uid } } else s
      let w := v.writeVirt mailSource (BitVec.ofNat 64 (box 32 8)) (originTag 3 0) uid (n / 65536 + 2) va bs h.moved
      let waits (t : State) (d : Nat) : Prop := exec .load s = .next { t with host := { t.host with moved := d } }
      (∀ t d, w = (t, d, .ok ()) → (∀ x ∈ t.unacked, x.1 ≠ uid) → exec .load s = .next (answered t 0)) ∧
      (∀ t d, w = (t, d, .ok ()) → (∃ x ∈ t.unacked, x.1 = uid) → waits t d) ∧
      (∀ t d, w = (t, d, .hold) → waits t d) ∧
      (∀ t d code reason, w = (t, d, .fault code reason) → exec .load s = .next (answered t 5)) ∧
      (∀ t d b, w = (t, d, .bad b) → Leads .load s fun u => FailsLine t u b 5) ∧
      (va % 65536 + bs.length ≤ 65536 → bs ≠ [] → ∀ t pa z,
        v.xlatePlain mailSource (BitVec.ofNat 64 (box 32 8)) va { kind := 1 } = (t, .ok pa z) → memKey pa / 2 ^ 50 ≠ 3 →
        (∀ x ∈ t.unacked, x.1 ≠ uid) →
        (∀ j, j < bs.length → t.verifyLine .main (memKey pa + j) = none) →
        Leads .load s fun u => u.host = (answered t 0).host ∧
          ∀ a, Mem.get u.mem a = if memKey pa ≤ a ∧ a < memKey pa + bs.length then bs.getD (a - memKey pa) 0 else Mem.get t.mem a)) ∧
    (mailRuns s 3 → Leads .gang s fun u =>
      let b := hostBytes s (box 16 8) (8 * box 10 2)
      let x := s.choose (2 ^ 256)
      u = { answered s 0 with peers := u.peers, choices := x.1.choices, host := u.host } ∧ u.host = { (answered s 0).host with rank := box 8 2, gang := u.host.gang } ∧
      u.host.gang.length = box 10 2 ∧ (∀ r, r < box 10 2 → (u.host.gang.getD r 0).toNat = leAt b (8 * r) 8) ∧
      ∀ r, r ∈ u.peers ↔ r < box 10 2 ∧ r ≠ box 8 2 ∧ x.2.testBit r = false) ∧
    (mailRuns s 4 →
      let r := hostBytes s (box 16 8) 64
      let i := box 8 1
      let member (k : Nat) : Bool := (leAt r 32 32).testBit k
      let ranks := (List.range 256).filter member
      let good := ranks.length = leAt r 16 2 ∧ (∀ k ∈ ranks, k < h.gang.length) ∧ (leAt r 16 2 = 0 ∨ leAt r 18 2 < leAt r 16 2) ∧
        leAt r 0 8 % 65536 = 0 ∧ leAt r 8 8 % 65536 = 0 ∧ leAt r 20 12 = 0
      let find (l : List (Nat × RedWin)) (j : Nat) := l.find? fun w => w.1 == j
      let e := s.endWindow i
      (¬ good → exec .redwin s = .next (answered s 1)) ∧
      (good → Leads .redwin s fun u =>
        u = { answered e 0 with host := { (answered e 0).host with redwins := u.host.redwins } } ∧
        ∀ j, find u.host.redwins j =
          if j ≠ i then find h.redwins j
          else if leAt r 16 2 = 0 then none else some (i, ⟨leAt r 0 8, leAt r 8 8, leAt r 18 2, ranks, []⟩)) ∧
      (find h.redwins i = none → e = s) ∧
      ∀ w, find h.redwins i = some w →
        let leaf (c : Cmd) := s.walkAhead (s.slot (slotKey c.seqk)).troot c.v1.toNat { kind := 1, copy := true, atomic := true }
        let within (c : Cmd) : Prop := engineOf c.ins = 1 ∧ (cpMember c.ins).1 = 0 ∧ (cprOp c.ins).2 = false ∧ c.failed = false ∧
          ((∃ x ∈ s.contribs, x.win = i ∧ x.uid = c.uid) ∨
            w.2.base ≤ c.v1.toNat ∧ c.v1.toNat < w.2.base + w.2.size ∧ (leaf c).reason = 0 ∧ (leaf c).cls = 2)
        ((∀ c ∈ s.cmds, ¬ within c) → e = { s with contribs := s.contribs.filter fun c => c.win ≠ i }) ∧
        ∀ c, s.cmds = [c] → within c → c.sub = none →
          CommandTraps s e { c with sent := 0 } 6 1 (c.off / reduceBytes (cprOp c.ins).1 * 256)) ∧
    (mailRuns s 5 →
      let held := (∃ c ∈ s.cmds, caSub c.ins ≠ 0 ∧ c.phase ≠ .waiting ∧ c.failed = false) ∨ ∃ g ∈ s.graphs, g.mode = 2 ∧ g.reserved = true
      (¬ held → exec .poolrst s = .next { answered s 0 with
        caIndex := [], reclaimQ := [], graphs := s.graphs.map fun g => if g.mode = 2 then { g with image := [] } else g }) ∧
      (held → exec .poolrst s = .next { s with
        host := { h with poolrst := true }
        graphs := s.graphs.map fun g => if g.mode = 2 ∧ g.reserved = false then { g with image := [] } else g })) ∧
    (mailRuns s 6 →
      let b := s.blockAt mailSource (BitVec.ofNat 64 (box 16 8)) (box 8 8) false
      (∀ t node, b = (t, .ok node) →
        (t.haltedRegions.contains node = false → exec .release s = .next (answered t 1)) ∧
        (t.haltedRegions.contains node = true →
          let v : State := { t with haltedRegions := t.haltedRegions.filter (· ≠ node) }
          exec .release s = .next (answered ((t.orphans node).foldl (fun s o => s.returnGrants o false) v) 0))) ∧
      (∀ t, b = (t, .hold) → exec .release s = .next t) ∧
      (∀ t code reason, b = (t, .fault code reason) → exec .release s = .next (answered t 5)) ∧
      ∀ t l, b = (t, .bad l) → Leads .release s fun u => FailsLine t u l 1) ∧
    (mailRuns s 7 →
      let i : Instr := if box 24 1 = 0 then .holdendResume else .holdendEnd
      let b := s.blockAt mailSource (BitVec.ofNat 64 (box 16 8)) (box 8 8) true
      (∀ t, b = (t, .hold) → exec i s = .next t) ∧
      (∀ t code reason, b = (t, .fault code reason) → exec i s = .next (answered t 5)) ∧
      (∀ t l, b = (t, .bad l) → Leads i s fun u => FailsLine t u l 1) ∧
      ∀ t at', b = (t, .ok at') →
        let held := t.saved.find? fun v => v.held.isSome && decide (v.slot.tcbAt = at')
        (held = none → exec i s = .next (answered t 1)) ∧
        ∀ v, held = some v →
          (box 24 1 = 0 → ∀ r, v.slot.rcd = some r → Leads .holdendResume s fun u =>
            u = { answered t 0 with saved := u.saved, readies := u.readies, nextRec := t.nextRec + 1 } ∧
            (∃ x, u.readies = t.readies ++ [x] ∧ x.tcb = r.tcb ∧ x.prio = v.slot.prio ∧ x.resume = some v.core ∧ x.id = t.nextRec) ∧
            (∀ w ∈ u.saved, w.tcb = v.tcb → w.slot.owner = v.slot.owner → w.held = none)) ∧
          (box 24 1 = 1 →
            exec .holdendEnd s = .next (answered (t.endTask v (v.held.getD 0)) 0) ∧
            ∀ w ∈ (t.endTask v (v.held.getD 0)).saved, w ∈ t.saved ∧ ¬ (w.tcb = v.tcb ∧ w.slot.owner = v.slot.owner)))

/-- R385 to R388, R95. What a blob holds, whether its signature is good, and what the boot measures are constants of Config (log entry
71); whether a kernel thread is in a patched function and whether an image fails its check at reset are choices (log entry 15);
that host memory outlasts a reset is log entry 3. -/
def Obligations.FirmwareAttestationAndReset : Prop :=
  (∀ (s : State),
    let h := s.host
    let box := boxField s
    let blob := hostBytes s (box 8 8) (box 16 4)
    (mailRuns s 8 →
      (Config.signatureOk blob = false → exec .patch s = .next (answered s 3)) ∧
      (Config.signatureOk blob = true → Config.patchBase blob ≠ s.running → exec .patch s = .next (answered s 4)) ∧
      (Config.signatureOk blob = true → Config.patchBase blob = s.running →
        (s.choices = [] → Leads .patch s fun u =>
          u = { s with host := u.host } ∧ u.host.busy = false ∧ u.host.result = 0 ∧ u.host.patch = h.patch + 1 ∧
          (∀ i, Kv.get 0 u.host.table i = if i = Config.patchEntry blob then Config.patchWord blob else Kv.get 0 h.table i) ∧
          ∀ i, Kv.get [] u.host.measures i = Kv.get [] h.measures i ++ if i = 4 then blob else []) ∧
        ∀ c r, s.choices = c :: r → c % 2 = 1 → Leads .patch s fun u =>
          u = { s with choices := r, host := { h with since := u.host.since } } ∧ u.host.since = some (h.since.getD s.time))) ∧
    (∀ t, h.since = some t →
      (h.busy = true → leAt h.cmd 0 1 = 8 → t.toNat + 10 ^ 10 ≤ s.time.toNat → exec .patchWaitTimeout s = .next (answered s 6)) ∧
      (s.time.toNat < t.toNat + 10 ^ 10 → exec .patchWaitTimeout s = .next s) ∧
      (h.updating = true → s.time.toNat ≤ t.toNat + 500000000 → Leads .newImageFirstHeartbeat s fun u =>
        u = { s with fresh := s.fresh + 1, host := { (answered s 0).host with
          updating := false, imageSlot := !h.imageSlot, patch := u.host.patch } }) ∧
      (h.updating = true → t.toNat + 500000000 ≤ s.time.toNat →
        exec .updateRollback s = .next { s with host := { (answered s 6).host with updating := false } }) ∧
      (h.updating = false → exec .updateRollback s = .next s ∧ exec .newImageFirstHeartbeat s = .next s)) ∧
    (mailRuns s 9 →
      let v : State := { s with host := { h with
        version := if h.imageSlot then Config.imageVersion blob else h.version
        otherVersion := if h.imageSlot then h.otherVersion else Config.imageVersion blob } }
      (Config.signatureOk blob = false → exec .update s = .next (answered v 3)) ∧
      (Config.signatureOk blob = true → Leads .update s fun u =>
        u = { s with host := u.host } ∧
        u.host = { v.host with measures := u.host.measures, updating := true, since := some s.time } ∧
        ∀ i, Kv.get [] u.host.measures i = Kv.get [] h.measures i ++ if i = 2 ∨ i = 3 then blob else [])) ∧
    (∀ (index : BitVec 8),
      let all := h.measures.flatMap (·.2)
      let content := if index.toNat = 0xFF then all else Kv.get [] h.measures index.toNat
      let signs (i : Instr) (b : List Byte) : Prop :=
        (h.signed < 2 ^ 20 → exec i s = .next { s with host := { h with
          signed := h.signed + 1, sent := h.sent ++ [.doe (Config.spdmResponse (h.signed + 1) b)] } }) ∧
        (2 ^ 20 ≤ h.signed → ∃ e, exec i s = .next { s with host := { h with sent := h.sent ++ [.doe e] } })
      (h.updating = false → signs .challenge all ∧ signs (.getMeasurements index true) content ∧
        exec (.getMeasurements index false) s = .next { s with host := { h with sent := h.sent ++ [.doe (Config.spdmResponse 0 content)] } }) ∧
      (h.updating = true → exec .challenge s = .next s ∧ ∀ signed, exec (.getMeasurements index signed) s = .next s))) ∧
  ∀ (s : State) (octants : BitVec 8) (ports : BitVec 18) (link : Bool), Leads (.moduleReset octants ports link) s fun u =>
    (∀ a, Mem.get u.mem a = if a < 2 * 2 ^ 50 then 0 else Mem.get s.mem a) ∧
    u.scratch = [] ∧ u.tiles = [] ∧ u.accs = [] ∧ u.spill = [] ∧ u.bad = [] ∧ u.ecc = [] ∧ u.tags = [] ∧ u.seqs = [] ∧ u.slots = [] ∧
    u.cores = [] ∧ u.cmds = [] ∧ u.requests = [] ∧ u.readies = [] ∧ u.caIndex = [] ∧ u.graphs = [] ∧ u.policy = [] ∧ u.time = 0 ∧
    (∀ i, i < 64 → u.health.getLsbD i = if i < 8 then octants.getLsbD i else if i < 26 then ports.getLsbD (i - 8) else (decide (i = 26) && link)) ∧
    (let started := if u.host.imageSlot then s.host.otherVersion else s.host.version
     u.host = { ready := true, imageSlot := u.host.imageSlot, version := s.host.version, otherVersion := s.host.otherVersion
                signed := s.host.signed
                measures := [(1, Config.bootContent 1 0), (2, Config.bootContent 2 started), (3, Config.bootContent 3 started)] }) ∧
    (s.choices = [] → u.host.imageSlot = false)


/-! ### Events: translation, handlers, reductions, the fabric -/

/-- R82 to R90, R369, R386. The model's choices: a shootdown is complete once what is under way has performed (log 23), a request
outlives what made it (log 24), and what the firmware does while an image is started (log 119). -/
def Obligations.TranslationEvents : Prop :=
  ∀ (s : State) (k req : Nat) (va lo hi : Word) (write : Bool) (asid : BitVec 12) (line : BitVec 52) (found : BitVec 2),
    let pc := (s.seq k).pc.toNat
    let troot := (s.slot (slotKey k)).troot
    (s.canIssue k = false → exec (.instructionFetch k) s = .next s) ∧
    (s.canIssue k = true → 2 ^ 55 ≤ pc → Leads (.instructionFetch k) s fun u =>
      Trapped { s with cur := k } { u with cur := k } (s.slot (slotKey k)) 3 0 pc 0) ∧
    (∀ e, s.canIssue k = true → pc < 2 ^ 55 → pc % 2 ^ 16 + 4 < 2 ^ 16 → s.waitsOn (.fetch k) = none → troot.getLsbD 0 = true →
      e.acc = true → tlbHit (s.seq k).tlb (troot.toNat / 2 ^ 52) pc { kind := 2 } = some e →
      s.verify .main (memKey (e.base + pc % 2 ^ 16)) 4 = none → s.verify .main (memKey (e.base + (pc + 4) % 2 ^ 16)) 4 = none →
      Leads (.instructionFetch k) s fun u => u = { s with seqs := u.seqs } ∧ ∀ j, u.seq j = s.seq j) ∧
    (let walk := s.walkFor troot (va.toNat % 2 ^ 55) { kind := bit write, copy := true }
     (∀ t e n, walk = .ok (t, some e, n) → Leads (.pageWalk k va write) s fun u => u = { t with seqs := u.seqs } ∧
       (∀ j, u.seq j = if j = k then { t.seq k with tlb := (u.seq k).tlb } else t.seq j) ∧
       (u.seq k).tlb.getLast? = some e ∧ (u.seq k).tlb.length ≤ 32) ∧
     ((∀ t e n, walk ≠ .ok (t, some e, n)) → exec (.pageWalk k va write) s = .next s)) ∧
    (s.host.updating = true → exec (.retry req) s = .next s ∧ exec (.decline req) s = .next s) ∧
    (s.host.updating = false → Leads (.retry req) s fun u => u = { s with requests := u.requests } ∧
      ∀ x, x ∈ u.requests ↔ x ∈ s.requests ∧ x.id ≠ req) ∧
    (∀ r, s.host.updating = false → r ∈ s.requests → r.id = req → (∀ x ∈ s.requests, x.id = req → x = r) →
      (r.declined = true → exec (.decline req) s = .next s) ∧
      (r.declined = false → (∀ w ∈ r.waiters, ∀ j, w ≠ .command j ∧ w ≠ .fetch j) → Leads (.decline req) s fun u =>
        u = { s with requests := u.requests } ∧
        ∀ x, x ∈ u.requests ↔ ∃ y ∈ s.requests, x = (if y.id = req then { y with declined := true } else y) ∧
          ¬ (x.declined = true ∧ x.waiters = [])) ∧
      (r.declined = false → r.waiters = [.fetch k] → s.waitsOn (.fetch k) = some r → s.canIssue k = true → pc < 2 ^ 55 →
        r.asid = troot.toNat / 2 ^ 52 → r.va.toNat / 2 ^ 16 = pc / 2 ^ 16 →
        Leads (.decline req) s fun u => (∀ x ∈ u.requests, x.id ≠ req) ∧ u.mem = s.mem ∧ (u.seq k).stopped = true ∧
          ∃ t : TrapRec, u.policy = s.policy ++ [.trap t] ∧ t.prec = true ∧ t.pc = s.pc k ∧ t.engine = 0 ∧
            t.code = if r.reason = 1 ∨ r.reason = 5 ∨ r.reason = 6 then 5 else 6)) ∧
    Leads (.shootdown asid lo hi) s (fun u =>
      let hit (e : TlbEntry) : Prop := e.asid = asid.toNat ∧ lo.toNat / 2 ^ 16 ≤ e.page ∧ e.page ≤ hi.toNat / 2 ^ 16
      u = { s with seqs := u.seqs, cores := u.cores, cmds := u.cmds, shots := u.shots, policy := u.policy } ∧
      (∀ j, u.seq j = { s.seq j with tlb := (u.seq j).tlb } ∧ ∀ e, e ∈ (u.seq j).tlb ↔ e ∈ (s.seq j).tlb ∧ ¬ hit e) ∧
      (∀ j, u.core j = { s.core j with etlb := (u.core j).etlb } ∧
        ∀ n e, e ∈ Kv.get [] (u.core j).etlb n ↔ e ∈ Kv.get [] (s.core j).etlb n ∧ ¬ hit e) ∧
      (∃ l : Cmd → List TlbEntry, u.cmds = s.cmds.map (fun c => { c with ops := l c }) ∧ ∀ c e, e ∈ l c ↔ e ∈ c.ops ∧ ¬ hit e) ∧
      (s.shots = [] → (∀ q ∈ s.seqs, q.2.stores = []) → s.contribs = [] → s.unacked = [] →
        u.shots = [] ∧ u.policy = s.policy ++ [.event "shootdown complete" lo hi]) ∧
      (s.shots = [] → s.unacked ≠ [] → u.policy = s.policy ∧ ∃ x, u.shots = [x] ∧ ∀ y ∈ s.unacked, y.1 ∈ x.cmds)) ∧
    (let pa := line.toNat / 128 * 128
     let at' := lineKey .main (memKey pa)
     let counts (u : State) (high : Bool) : Prop := ∀ c, u.core c =
       if c ∈ coresOf (pa % 2 ^ 40 / Config.octantBytes) then { s.core c with serrd := BitVec.ofNat 64 (counted (s.core c).serrd high) }
       else s.core c
     (s.host.updating = true ∨ (found = 0 ∧ s.ecc.contains at' = false) → exec (.patrolScrub line found) s = .next s) ∧
     (s.host.updating = false → found = 1 → s.ecc.contains at' = false → Leads (.patrolScrub line found) s fun u =>
       u = { s with cores := u.cores } ∧ counts u false) ∧
     (s.host.updating = false → 2 ≤ found.toNat ∨ s.ecc.contains at' = true → Leads (.patrolScrub line found) s fun u =>
       u = { s with cores := u.cores, ecc := u.ecc, policy := s.policy ++ [.event "scrub" (line.setWidth 64) 0] } ∧
       counts u true ∧ ∀ n, n ∈ u.ecc ↔ n = at' ∨ n ∈ s.ecc))

/-- R135, R139, R140, R142: handler records, contributions to slices and to windows. The model's choices: bits [31:8] of status
4 hold the slot (log 101), and a contribution of another rank takes the operator of this rank's own (log 42). -/
def Obligations.MessagesAndContributionsTravel : Prop :=
  ∀ (s : State) (core : Nat) (c : Cmd),
    let sk := core * 8 + 4
    let op := (cprOp c.ins).1
    let w := reduceBytes op
    let n := c.parN 0
    let a := c.v1.toNat
    let table := c.parN 2
    let word (t : State) (x i : Nat) : Nat := leNat (Mem.read t.scratch (x + i * w) w)
    let applied (u : State) : Prop :=
      u = { s with scratch := u.scratch, bad := u.bad, ecc := u.ecc, tags := u.tags, cmds := u.cmds } ∧
      u.cmd c.uid = some { c with sent := 0, off := n * w, phase := .done, result := 0 } ∧
      (c.v2.toNat + n * w ≤ a ∨ a ≤ c.v2.toNat →
        ∀ i, i < n → word u a i = reduceOp op (word s a i) (word s c.v2.toNat i) % 2 ^ (8 * w)) ∧
      (a = c.v2.toNat + w → ∀ i, i + 1 < n → word u a (i + 1) = reduceOp op (word s a (i + 1)) (word u a i) % 2 ^ (8 * w)) ∧
      ∀ b, (b < a ∨ a + n * w ≤ b) → Mem.get u.scratch b = Mem.get s.scratch b
    let admits (i : Instr) (t : State) (m : Nat) : Prop :=
      (t.verify .scratch table 16 ≠ none → Leads i s fun u => CommandTraps s u { c with sent := 0 } 7 1 6) ∧
      let v := t.applyCpr c
      (t.verify .scratch table 16 = none → (v.cmd c.uid).any (·.failed) = true → exec i s = .next v) ∧
      (t.verify .scratch table 16 = none → (v.cmd c.uid).any (·.failed) = false → Leads i s fun u => u.cmds = v.cmds ∧
        (v.cursor table + 1 < m → u.cursor table = v.cursor table + 1) ∧
        (m ≤ v.cursor table + 1 → u.cursor table = 0 ∧ u.rounds = Kv.del v.rounds table ∧
          leNat (Mem.read u.scratch (table + 4) 4) = (leNat (Mem.read v.scratch (table + 4) 4) + 1) % 2 ^ 32))
    (∀ r rest, (s.core core).hqWait = (c.uid, r) :: rest → s.cmd c.uid = some c → (s.core core).hq.length < 16 →
      Leads (.handlerQueueAccept core) s fun u => u = { s with cores := u.cores, cmds := u.cmds } ∧
        (∀ j, u.core j = if j = core then { s.core j with hq := (s.core j).hq ++ [r], hqWait := rest } else s.core j) ∧
        u.cmd c.uid = some { c with sent := 0, phase := .done, result := 0 }) ∧
    ((s.core core).hqWait = [] ∨ 16 ≤ (s.core core).hq.length → exec (.handlerQueueAccept core) s = .next s) ∧
    (∀ r rest, (s.core core).hq = r :: rest → (s.slot sk).busy = false → (s.slot sk).stopping = none → (s.core core).halted = false →
      Leads (.handlerStart core) s fun u => u = { s with cores := u.cores, slots := u.slots, seqs := u.seqs } ∧
        (∀ j, u.core j = if j = core then { s.core j with hq := rest } else s.core j) ∧
        (∀ j, u.slot j = if j = sk then { s.slot j with busy := true, nextCmd := 0, trap := none } else s.slot j) ∧
        (∀ j, j ≠ sk * 4 + 3 → u.seq j = s.seq j) ∧ (u.seq (sk * 4 + 3)).active = true ∧ u.pc (sk * 4 + 3) = r.handler ∧
        (∀ x : BitVec 5, u.reg (sk * 4 + 3) x = if x = 1 then r.payload else if x = 2 then BitVec.ofNat 64 r.length
          else if x = 3 then BitVec.ofNat 64 r.sender else if x = 4 then r.user else 0)) ∧
    ((s.core core).hq = [] ∨ (s.slot sk).busy = true → exec (.handlerStart core) s = .next s) ∧
    (s.cmd c.uid = some c → sliceCpr c.ins = true → c.failed = false → c.sub = none →
      (c.sent = 1 →
        (table = 0 → op ≠ 1 → s.verify .scratch c.v2.toNat (n * w) = none → s.verify .scratch a (n * w) = none →
          Leads (.cprArrival c.uid) s applied) ∧
        (table = 0 → op = 1 → Leads (.cprArrival c.uid) s fun u => CommandTraps s u c 6 1 5) ∧
        (table ≠ 0 → table / 2 ^ 23 ≠ a / 2 ^ 23 → Leads (.cprArrival c.uid) s fun u => CommandTraps s u c 6 1 4) ∧
        (table ≠ 0 → table / 2 ^ 23 = a / 2 ^ 23 → s.verify .scratch table 144 = none → ∀ t m es, s.roundOf table = (t, m :: es) →
          let mine := c.parN 1 < m ∧ es.getD (c.parN 1) 0 = c.seqk / 32
          let waiting := (s.cmds.filter fun x => decide (x.sent = 2) && decide (x.v1.toNat / 2 ^ 23 = a / 2 ^ 23)).length
          let absent := c.parN 1 < m ∧ coreExists (es.getD (c.parN 1) 0) = false
          (absent → Leads (.cprArrival c.uid) s fun u => CommandTraps s u c 3 1 (1 + c.parN 1 * 256)) ∧
          (mine → ¬ absent → s.cursor table = c.parN 1 → m < 256 → admits (.cprArrival c.uid) t m) ∧
          (¬ mine → ¬ absent → Leads (.cprArrival c.uid) s fun u => CommandTraps s u c 6 1 (4 + c.parN 1 * 256)) ∧
          (mine → ¬ absent → s.cursor table ≠ c.parN 1 → Leads (.cprArrival c.uid) s fun u =>
            u = { s with rounds := u.rounds, cmds := u.cmds } ∧
            u.cmd c.uid = some { c with sent := if waiting < 16 then 2 else 3 }))) ∧
      (c.sent = 3 → Leads (.cprRefusedRetry c.uid) s fun u => u = { s with cmds := u.cmds } ∧
        u.cmd c.uid = some { c with sent := 1 }) ∧
      (c.sent ≠ 3 → exec (.cprRefusedRetry c.uid) s = .next s)) ∧
    (s.admissible core = none → exec (.cprAdmit core) s = .next s) ∧
    (∀ t m es, s.admissible core = some c → s.roundOf table = (t, m :: es) → m < 256 → sliceCpr c.ins = true → c.sub = none →
      s.cmd c.uid = some c → admits (.cprAdmit core) t m) ∧
    ((s.host.redwins.find? fun x => x.1 == core) = none → exec (.roundClose core) s = .next s) ∧
    (∀ (r : RedWin) (rank k e b i : Nat) (x y : BitVec 64) (me peer : Contribution),
      (s.host.redwins.find? fun z => z.1 == core) = some (core, r) → r.ranks = [s.host.rank, rank] → r.home = 0 → rank ≠ s.host.rank →
      me = ⟨core, s.host.rank, c.uid, k, b, [⟨e, i, x, none⟩]⟩ → 1 ≤ k → c.uid ≠ 0 → e < 2 ^ 40 →
      peer.win = core → peer.rank = rank → peer.uid = 0 → peer.op = 0 → peer.elems = [⟨peer.base, 0, y, none⟩] → peer.base = e →
      s.contribs = [me, peer] → s.cmd c.uid = some c → c.failed = false → s.verify .main e (reduceBytes k) = none →
      let m := 8 * reduceBytes k
      Leads (.roundClose core) s fun u =>
        u = { s with contribs := [], cmds := u.cmds, mem := u.mem, bad := u.bad, ecc := u.ecc, tags := u.tags, host := u.host } ∧
        u.host = { s.host with redwins := s.host.redwins.map fun z =>
          if z.1 = core then (z.1, { z.2 with closed := Kv.put z.2.closed e (Kv.get 0 z.2.closed e + 1) }) else z } ∧
        u.cmd c.uid = some { c with sent := 0, off := cprLen c, phase := .done, result := 0 } ∧
        leNat (Mem.read u.mem e (reduceBytes k)) =
          reduceOp k (leNat (Mem.read s.mem e (reduceBytes k))) (reduceOp k (x.toNat % 2 ^ m) (y.toNat % 2 ^ m)) % 2 ^ m ∧
        ∀ z, (z < e ∨ e + reduceBytes k ≤ z) → Mem.get u.mem z = Mem.get s.mem z)

/-- R95, R142, R343, R346, R380, R381: packets that arrive, and stop notices. The model's choices: what a peer's memory holds is
the module's view of it (log 38); the line that answers TRACE_FETCH (log 63); and a notice under guard ID 0x3FF may count as a
guard's, which is a choice of the run (log 61). -/
def Obligations.FabricPacketsAndNotices : Prop :=
  ∀ (s : State) (src : BitVec 8) (pa : BitVec 52) (lines win : Nat) (data : List FlitLine) (values : List (BitVec 64))
      (shape : BitVec 128) (ver : BitVec 32) (task : Nat) (gid : BitVec 10),
    let a := pa.toNat % 2 ^ 40 / 128 * 128
    let peer := 3 * 2 ^ 50 + src.toNat * 2 ^ 42 + pa.toNat % 2 ^ 42 / 128 * 128
    let n := Min.min lines 32
    let intact (l : FlitLine) : Prop := l.bytes.length = 128 ∧ crc32c l.bytes = l.crc
    let stored (u : State) : Prop :=
      u = { s with mem := u.mem, bad := u.bad, ecc := u.ecc, tags := u.tags, fabricOut := u.fabricOut }
    let refused (i : Instr) : Prop := Leads i s fun u => ∃ e, u = { s with policy := s.policy ++ [e] }
    let leaves (x : Nat) : FlitLine := ⟨Mem.read s.mem x 128, crc32c (Mem.read s.mem x 128), s.tag .main x⟩
    (src.toNat ∈ s.peers → a + 128 * n ≤ Config.dramBytes → (∀ i, i < n → s.verifyLine .main (a + 128 * i) = none) →
      Leads (.adoshRead src pa lines) s fun u => ∃ p : Packet, u = { s with fabricOut := s.fabricOut ++ [p] } ∧
        p.typ = 3 ∧ p.src = s.host.rank ∧ p.dst = src.toNat ∧ p.pa = pa.toNat ∧ p.data.length = n ∧
        ∀ i, i < n → p.data[i]? = some (leaves (a + 128 * i))) ∧
    ((src.toNat ∉ s.peers ∨ Config.dramBytes < a + 128 * n ∨ ∃ i, i < n ∧ s.verifyLine .main (a + 128 * i) ≠ none) →
      refused (.adoshRead src pa lines)) ∧
    (src.toNat ∈ s.peers → a + 128 * data.length ≤ Config.dramBytes → pa.toNat / 2 ^ 40 % 4 = 0 → (∀ l ∈ data, intact l) →
      Leads (.adoshWrite src pa data) s fun u => stored u ∧
        (∃ p : Packet, u.fabricOut = s.fabricOut ++ [p] ∧ p.typ = 4 ∧ p.dst = src.toNat ∧ p.pa = pa.toNat) ∧
        (∀ (i : Nat) (l : FlitLine), data[i]? = some l → Mem.read u.mem (a + 128 * i) 128 = l.bytes ∧
          u.tag .main (a + 128 * i) = fabricTag (a + 128 * i) src.toNat ∧ u.verifyLine .main (a + 128 * i) = none) ∧
        ∀ b, (b < a ∨ a + 128 * data.length ≤ b) → Mem.get u.mem b = Mem.get s.mem b) ∧
    (src.toNat ∉ s.peers ∨ Config.dramBytes < a + 128 * data.length ∨ pa.toNat / 2 ^ 40 % 4 ≠ 0 → refused (.adoshWrite src pa data)) ∧
    (∀ l : FlitLine, l.bytes.length = 128 → Leads (.adoshReadResponse src pa [l]) s fun u =>
      u = { s with mem := u.mem, bad := u.bad, ecc := u.ecc, tags := u.tags, peerReads := u.peerReads
                   peerIndex := u.peerIndex, choices := u.choices } ∧
      Mem.read u.mem peer 128 = l.bytes ∧
      (pa.toNat / 2 ^ 40 % 4 ≠ 1 → u.peerIndex = s.peerIndex ∧ u.choices = s.choices ∧
        u.peerReads = s.peerReads.map fun r => if peer ≤ r.2.1 ∧ r.2.1 < peer + 128 then (r.1, r.2.1, true) else r) ∧
      (intact l → u.verifyLine .main peer = none ∧ u.tag .main peer = fabricTag peer src.toNat) ∧
      (¬ intact l → u.tag .main peer = l.tag ∧ ∃ b, u.verifyLine .main peer = some b ∧ b.stored = l.crc ∧ b.computed = crc32c l.bytes) ∧
      ∀ b, (b < peer ∨ peer + 128 ≤ b) → Mem.get u.mem b = Mem.get s.mem b) ∧
    (∀ uid at', s.unacked = [(uid, src.toNat, at')] → Leads (.adoshWriteAcknowledgement src pa) s fun u =>
      u = { s with unacked := if at' % 2 ^ 42 / 128 = pa.toNat % 2 ^ 42 / 128 then [] else s.unacked }) ∧
    ((∃ w : Nat × RedWin, (s.host.redwins.find? fun x => x.1 == win) = some w ∧ w.2.ranks.contains src.toNat = true) → src.toNat ∈ s.peers →
      Leads (.adoshReductionContribution src win pa values) s fun u => ∃ k : Contribution,
        u = { s with contribs := s.contribs ++ [k] } ∧ k.win = win ∧ k.rank = src.toNat ∧ k.base = pa.toNat % 2 ^ 40 ∧
        k.elems.length = values.length ∧ ∀ i v, values[i]? = some v → k.elems[i]? = some (⟨k.base, i, v, none⟩ : RedElem)) ∧
    (src.toNat ∉ s.peers ∨ (∀ w, (s.host.redwins.find? fun x => x.1 == win) = some w → w.2.ranks.contains src.toNat = false) →
      exec (.adoshReductionContribution src win pa values) s = .next s) ∧
    (∀ e, s.dirFind shape = some e →
      let line := (s.dirBase + 64 * e) / 128 * 128
      (s.host.updating = false → s.dirField e 44 1 = 2 →
        (s.verifyLine .main line = none → Leads (.traceFetch src shape) s fun u => ∃ p : Packet,
          u = { s with fabricOut := s.fabricOut ++ [p] } ∧ p.typ = 3 ∧ p.dst = src.toNat ∧ p.pa = line ∧ p.shape = shape ∧
          p.data = [leaves line]) ∧
        (s.verifyLine .main line ≠ none → refused (.traceFetch src shape))) ∧
      (s.host.updating = true ∨ s.dirField e 44 1 ≠ 2 → exec (.traceFetch src shape) s = .next s)) ∧
    (s.dirFind shape = none → exec (.traceFetch src shape) s = .next s) ∧
    (s.notices = [] → (∀ g ∈ s.graphs, ¬ (g.mode = 2 ∧ g.shape = shape ∧ g.ver = ver)) →
      exec (.stopNotice shape ver task gid) s =
        .next (if s.host.updating = true ∨ gid.toNat ≠ 0x3FF then s else { s with choices := s.choices.drop 1 })) ∧
    (s.host.updating = true → exec (.stopNotice shape ver task gid) s = .next s) ∧
    ∀ g : Graph, s.host.updating = false → s.notices = [] → s.graphs = [g] → g.mode = 2 → g.shape = shape → g.ver = ver → g.image = [] →
      (∀ t, t < g.tcbs.length → t ∈ g.started) → (∀ x ∈ s.slots, s.slot x.1 = x.2) →
      let ended (u : State) : Prop :=
        u.graphs = [{ g with mode := 3, gid := gid.toNat, ahead := [], posts := [], toRelease := [] }] ∧
        ∀ j, (u.slot j).mode = if (s.slot j).busy = true ∧ (s.slot j).graph = g.id ∧ (s.slot j).mode ≠ 0 then 3 else (s.slot j).mode
      (gid.toNat = 0x3FF → (s.choices.headD 0).testBit 0 = false → Leads (.stopNotice shape ver task gid) s fun u =>
        u = { s with graphs := u.graphs, slots := u.slots, cmds := u.cmds, choices := s.choices.drop 1 } ∧ ended u) ∧
      (gid.toNat ≠ 0x3FF → s.dirField g.entry 40 4 < 3 → Leads (.stopNotice shape ver task gid) s fun u =>
        u = { s with graphs := u.graphs, slots := u.slots, cmds := u.cmds, mem := u.mem, bad := u.bad, ecc := u.ecc, tags := u.tags } ∧
        ended u ∧ u.dirField g.entry 40 4 = s.dirField g.entry 40 4 + 1)


/-! ### Events: dispatch, stops, the CA pool, graphs and traces -/

/-- R302, R320, R321, R325, R327 to R329, R356 to R359, R366, R367. The model's choices: the fault of a ring whose base has not
its form (log 84), and reason 7 for a kill, of which nothing is saved (log 117). -/
def Obligations.DispatcherEvents : Prop :=
  SpawnsArmTheirMembers ∧ ∀ (s : State) (octant : Nat) (r : ReadyRec) (rcb xroot : Word) (c : Cmd) (team : BitVec 32),
    let src := dispSource r.octant r.id
    (∀ tcb, (∀ x ∈ s.readies, ¬ (x.octant = octant ∧ x.tcb = tcb)) → exec (.aging octant tcb) s = .next s) ∧
    (s.readies = [r] → r.octant = octant → r.walked = true →
      (r.ceiling < r.prio → r.rose.toNat + 1000000 ≤ s.time.toNat → exec (.aging octant r.tcb) s =
        .next { s with readies := [{ r with prio := r.prio - 1, rose := r.rose + 1000000 }] }) ∧
      (r.prio ≤ r.ceiling ∨ s.time.toNat < r.rose.toNat + 1000000 → exec (.aging octant r.tcb) s = .next s)) ∧
    (let fresh := (s.queue octant).filter fun x => x.resume.isNone
     (fresh = [] → exec (.taskLaunch octant) s = .next s) ∧
     ∀ rest a m b g v, fresh = r :: rest → r.tsize = 1 → s.blockAt src r.xroot r.tcb.toNat true = (a, .ok m) →
       a.region src r.xroot (leAt (a.block m) 176 8) = (b, .ok g) → b.placeOn r m (a.block m) g = some v →
       Leads (.taskLaunch octant) s fun u => ∃ core i gr,
         let t := a.block m
         let sk := core * 8 + i
         u = (b.launchInto r m t g core i gr).delRec r.id ∧ i < 4 ∧ (b.slot sk).busy = false ∧ (u.slot sk).busy = true ∧
         (u.slot sk).tcb = r.tcb ∧ (u.slot sk).taskid.toNat = leAt t 0 8 ∧ (u.slot sk).seed.toNat = leAt t 168 8 ∧
         (∀ x ∈ u.readies, x.id ≠ r.id) ∧ ∀ j, j < 3 → leAt t (48 + 4 * j) 4 ≠ 0 →
           (u.seq (sk * 4 + j)).active = true ∧ (u.pc (sk * 4 + j)).toNat = leAt t (24 + 8 * j) 8 ∧
           (u.reg (sk * 4 + j) 2).toNat = leAt t 224 8 ∧ u.reg (sk * 4 + j) 3 = r.tcb) ∧
    (let back := (s.queue octant).filter fun x => x.resume.isSome
     (back = [] → exec (.taskResume octant) s = .next s) ∧
     ∀ rest v t, back = r :: rest → (s.saved.find? fun v => decide (v.tcb = r.tcb) && v.held.isNone) = some v → v.slot.teamSize ≤ 1 →
       (∀ w ∈ s.saved, w.held = none) → s.resumeOne r = .done t → exec (.taskResume octant) s = .next t ∧ ∀ x ∈ t.readies, x.id ≠ r.id) ∧
    (s.graphs = [] →
      (s.queue octant = [] → exec (.dispatchDecision octant) s = .next s) ∧
      (∀ rest t, s.queue octant = r :: rest → s.tryRecord r = .done t → exec (.dispatchDecision octant) s = .next t) ∧
      (s.queue octant = [r] → s.tryRecord r = .no s → (s.readies.find? fun x => x.id == r.id) = some r →
        (s.mayPreempt r = false ∨ s.victim r = none → exec (.dispatchDecision octant) s = .next s) ∧
        ∀ sk, s.mayPreempt r = true → s.victim r = some sk → (s.slot sk).teamSize ≤ 1 → s.promised sk = none →
          let v := s.slot sk
          let spent (u : State) (n : Nat) (victim : Option Nat) : Prop :=
            u.readies = s.readies.map fun x => if x.id = r.id then { r with tokens := r.tokens - n, victim := victim } else x
          let soon := v.est ≠ 0 ∧ v.est ≤ s.prun sk + s.pwinNs 0
          let killed := v.killable = true ∧ v.idempotent = true ∧ v.triggered = false ∧ v.nokill = false ∧
            s.prun sk < s.pwinNs 16 ∧ 2 ≤ r.tokens
          (soon → Leads (.dispatchDecision octant) s fun u =>
            u = { s with drains := s.drains ++ [(sk, r.id)], readies := u.readies } ∧ spent u 1 none) ∧
          (¬ soon → killed → Leads (.dispatchDecision octant) s fun u =>
            u = { s with slots := u.slots, seqs := u.seqs, readies := u.readies } ∧ spent u 2 (some sk) ∧
            (∀ j, u.slot j = if j = sk then { v with stopping := some ⟨7⟩, saved := 0 } else s.slot j) ∧
            ∀ j, u.seq j = if sk * 4 ≤ j ∧ j < sk * 4 + 3 then
              { s.seq j with loads := [], stores := [], fences := [], owed := [], late := [], full := [] } else s.seq j) ∧
          (¬ soon → ¬ killed → Leads (.dispatchDecision octant) s fun u =>
            u = { s with slots := u.slots, readies := u.readies } ∧ spent u 1 (some sk) ∧
            ∀ j, u.slot j = if j = sk then { v with stopping := some ⟨1⟩, saved := 0 } else s.slot j))) ∧
    ((∀ x, s.rings.head? = some x → x.1 ≠ rcb) → exec (.ringRefill octant rcb) s = .next s) ∧
    (∀ a m, s.rings.head? = some (rcb, xroot) → s.blockAt (dispSource octant 0) xroot rcb.toNat true = (a, .ok m) →
      let b := a.block m
      let size := leAt b 64 4
      let rd := leAt b 80 8
      let dropped (t : State) : State := { t with rings := t.rings.filter fun x => decide (x ≠ (rcb, xroot)) }
      let base := leAt b 56 8
      let placed := base % 65536 = 0 ∧ base + 128 * size ≤ 2 ^ 55
      (size ≠ 0 → rd < leAt b 72 8 → ¬ placed → exec (.ringRefill octant rcb) s = .next (a.ringFault rcb base)) ∧
      (s.cmds = [] → s.slots = [] → ∀ t : State, t = { s with cores := t.cores } → ∀ va, ∃ f : TrapRec,
        t.ringFault rcb va = { t with policy := t.policy ++ [.trap f] } ∧ f.code = 14 ∧ f.engine = 9 ∧ f.addr = BitVec.ofNat 56 va) ∧
      (size = 0 ∨ leAt b 72 8 ≤ rd → exec (.ringRefill octant rcb) s = .next (dropped a)) ∧
      ∀ v d, size ≠ 0 → rd < leAt b 72 8 → placed →
        readVia (a.xlatePlain (dispSource octant 0) xroot (base + 128 * (rd % size)) { kind := 0 }) 128 = (v, .ok d) →
        let x := readyOf v.nextRec octant d
        let put : State := { v.blockSet m 80 8 (rd + 1) with readies := v.readies ++ [{ x with prio := x.prio0 }], nextRec := v.nextRec + 1 }
        (v.releaseOctant x.tcb x.place x.spawner ≠ octant ∨ v.placeFree octant x.byDec = false → exec (.ringRefill octant rcb) s = .next v) ∧
        (v.releaseOctant x.tcb x.place x.spawner = octant → v.placeFree octant x.byDec = true → exec (.ringRefill octant rcb) s =
          .next ((if leAt b 72 8 = rd + 1 then dropped put else put).settleRec x.id))) ∧
    (s.requests = [] → exec (.overflowRingUnmapped octant rcb) s = .next s) ∧
    (s.cmd c.uid = some c → isSpawn c.ins = true → c.sub = none →
      (∀ q, s.requests = [q] → q.declined = false → octantOf q.core = octant → q.time.toNat + s.twoBeats q.core ≤ s.time.toNat →
        q.waiters = [.command c.uid] → s.ringPage (s.slot (slotKey c.seqk)).troot rcb q.va.toNat = true →
        Leads (.overflowRingUnmapped octant rcb) s fun u => CommandTraps s u c 14 9 0 ∧ u.requests = []) ∧
      let home := s.slot (slotKey c.seqk)
      let back : Slot := { home.unpop (roleOf c.seqk) c.ext.t with nextCmd := if home.nextCmd = c.num + 1 then c.num else home.nextCmd }
      let withdrawn (x : Slot) : Prop := Leads (.spawnStallTimeout c.uid) s fun u =>
        u = { s with cmds := s.cmds.filter (fun x => x.uid != c.uid), requests := u.requests, slots := u.slots, seqs := u.seqs } ∧
        (∀ j, u.seq j = if j = c.seqk then { s.seq j with pc := c.pc } else s.seq j) ∧
        ∀ j, u.slot j = if j = slotKey c.seqk then x else s.slot j
      (c.failed = true ∨ c.phase = .done ∨ s.time.toNat ≤ c.issued + 50000 → exec (.spawnStallTimeout c.uid) s = .next s) ∧
      (c.failed = false → c.phase ≠ .done → c.issued + 50000 < s.time.toNat → slotKey c.seqk % 8 < 4 →
        (home.stopping = none → s.queue (octantOf (coreOf c.seqk)) = [] → exec (.spawnStallTimeout c.uid) s = .next s) ∧
        (home.teamSize ≤ 1 → home.stopping = none → s.queue (octantOf (coreOf c.seqk)) ≠ [] → s.graphs = [] → home.busy = true →
          withdrawn { back with stopping := some ⟨1⟩, saved := 0 }) ∧
        (home.teamSize ≤ 1 → home.stopping ≠ none → withdrawn back))) ∧
    (s.teamSlots team = [] → exec (.teamQuantumExpiry team) s = .next s) ∧
    ∀ sk rest t, s.teamSlots team = sk :: rest → (s.slot sk).runSince = some t →
      let ran := s.time.toNat - t.toNat
      (s.pwinNs 32 ≤ ran → s.teamWaits (s.slot sk) = true → s.graphs = [] → Leads (.teamQuantumExpiry team) s fun u =>
        u = { s with slots := u.slots } ∧
        ∀ j, u.slot j = if j ∈ sk :: rest ∧ (s.slot j).busy = true ∧ (s.slot j).stopping = none then { s.slot j with stopping := some ⟨2⟩, saved := 0 } else s.slot j) ∧
      (ran < s.pwinNs 32 ∨ s.teamWaits (s.slot sk) = false → exec (.teamQuantumExpiry team) s = .next s)

/-- R351 to R356, R358, R360, R361, R363, R367, R368. The model's choices: heartbeats are timed from CONFIG on (log 74), 7 is the
reason of a kill (log 117), and a task that is being killed is not stopped anew when its core halts (log 125). -/
def Obligations.StopsAndHeartbeats : Prop :=
  ∀ (s : State) (sk core : Nat) (reason : BitVec 8),
    let c := s.slot sk
    let x := s.core core
    let per := 1000 * Max.max 10 x.hbper.toNat
    let beat := Max.max x.hblast.toNat s.host.configuredAt.toNat
    let saved (u : State) (p : Saved → Prop) : Prop := ∃ v ∈ u.saved, v.tcb = c.tcb ∧ v.core = sk / 8 ∧ p v
    (4 ≤ sk % 8 → exec (.checkpoint sk reason) s = .next s) ∧
    (sk % 8 < 4 →
      (c.busy = false → c.stopping = none → c.teamSize ≤ 1 → exec (.checkpoint sk reason) s = .next s) ∧
      (c.busy = true → c.stopping = none → reason ≠ 7 →
        (s.graphs = [] → (∀ y ∈ s.slots, s.slot y.1 = y.2) → Leads (.checkpoint sk reason) s fun u => u = { s with slots := u.slots } ∧
          ∀ j, u.slot j =
            if j = sk then { c with stopping := some ⟨reason.toNat⟩, saved := 0 }
            else if 1 < c.teamSize ∧ j % 8 < 4 ∧ (s.slot j).busy = true ∧ (s.slot j).teamId = c.teamId ∧ (s.slot j).stopping = none then
              { s.slot j with stopping := some ⟨if reason.toNat = 3 then 2 else reason.toNat⟩, saved := 0 }
            else s.slot j) ∧
        ∀ g, c.teamSize ≤ 1 → c.mode = 2 → s.graph c.graph = some g → g.mode = 2 → Leads (.checkpoint sk reason) s fun u =>
          u = { s with slots := u.slots, cmds := u.cmds, notices := s.notices ++ [(g.shape, g.ver, c.tix, 0x3FF, false)] } ∧
          (∀ j, j ≠ sk → u.slot j = s.slot j) ∧
          u.slot sk = { c with mode := 3, gid := 0x3FF, kept := (u.slot sk).kept, stopping := some ⟨reason.toNat⟩, saved := 0 }) ∧
      (c.stopping = none → reason = 7 → exec (.checkpoint sk reason) s = .next s) ∧
      ∀ n, c.stopping = some ⟨n⟩ →
        (n = 3 ∨ n = 6 ∨ s.stopped sk = false → exec (.checkpoint sk reason) s = .next s) ∧
        (∀ r, n = 7 → s.stopped sk = true → c.rcd = some r → Leads (.checkpoint sk reason) s fun u => (u.slot sk).busy = false ∧
          u.saved = s.saved ∧ ∃ q ∈ u.readies, q.tcb = r.tcb ∧ q.resume = none ∧ q.ready = r.ready ∧ q.prio = c.prio ∧ q.run = s.prunWord sk) ∧
        ∀ t r, n ≠ 3 → n ≠ 6 → n ≠ 7 → s.stopped sk = true → s.writeSave sk n = (t, .ok ()) →
          t.slot sk = { c with saved := (t.slot sk).saved } →
          (s.tileEcc sk = none → c.rcd = some r → Leads (.checkpoint sk reason) s fun u => (u.slot sk).busy = false ∧
            saved u (fun v => v.held = none ∧ v.reason = n) ∧
            ∃ q ∈ u.readies, q.tcb = r.tcb ∧ q.resume = some (sk / 8) ∧ q.ready = r.ready ∧ q.tokens = r.tokens) ∧
          ∀ b, s.tileEcc sk = some b → c.trap = none → c.mode ≠ 1 → Leads (.checkpoint sk reason) s fun u => ∃ y : TrapRec,
            (u.slot sk).busy = c.busy ∧ (u.slot sk).trap = some y ∧ u.policy = t.policy ++ [.trap y] ∧ y.code = 7 ∧ y.engine = 9 ∧
            y.ecc = b.ecc ∧ y.addr = BitVec.ofNat 56 b.addr) ∧
    (c.trap = none → exec (.faultStop sk) s = .next s) ∧
    (∀ r : TrapRec, c.trap = some r → s.graphs = [] → c.mode = 0 → c.teamSize ≤ 1 →
      (sk % 8 ≠ 5 → s.stopped sk = false → exec (.faultStop sk) s = .next s) ∧
      (sk % 8 = 5 → Leads (.faultStop sk) s fun u => (u.core (sk / 8)).halted = true ∧ (u.slot sk).trap = none) ∧
      (sk % 8 = 4 → s.stopped sk = true → Leads (.faultStop sk) s fun u =>
        u = { s with cmds := u.cmds, requests := u.requests, seqs := u.seqs, slots := u.slots, cores := u.cores } ∧
        (∀ y, y ∈ u.cmds → y ∈ s.cmds ∧ ∀ z ∈ s.inFlight sk, z.uid ≠ y.uid) ∧
        (u.seq (sk * 4 + 3)).active = false ∧
        ∀ j, u.slot j = if j = sk then { c with busy := false, stopping := none, trap := none, exiting := none } else s.slot j) ∧
      ∀ t, sk % 8 < 4 → s.stopped sk = true →
        s.writeSave sk ((c.stopping.map (·.reason)).getD 3) = (t, .ok ()) → t.slot sk = { c with saved := (t.slot sk).saved } →
        Leads (.faultStop sk) s fun u => (u.slot sk).busy = false ∧
          (c.policy = 1 → saved u fun v => v.held = some r.code) ∧
          (c.policy ≠ 1 → c.policy ≠ 2 → (c.regions.getLastD 0).toNat ∈ u.haltedRegions)) ∧
    (let y := s.core (sk / 8)
     let late := y.halted = true ∧ c.busy = true ∧ c.stopping = some ⟨6⟩ ∧ y.haltedAt.toNat + 2 * (1000 * Max.max 10 y.hbper.toNat) ≤ s.time.toNat
     (late → Leads (.captureCheckpointTimeout sk) s fun u => (u.slot sk).busy = false) ∧
     (¬ late → exec (.captureCheckpointTimeout sk) s = .next s)) ∧
    (s.time.toNat < x.hbmark.toNat + per → exec (.heartbeatTimer core) s = .next s) ∧
    (x.hbmark.toNat + per ≤ s.time.toNat → Leads (.heartbeatTimer core) s fun u => u = { s with cores := u.cores, slots := u.slots } ∧
      (∀ j, u.core j = if j = core then { x with hbmark := x.hbmark + BitVec.ofNat 64 per } else s.core j) ∧
      ∀ j, u.slot j = if j = core * 8 + 5 then (s.slot j).post 15 1 else s.slot j) ∧
    (s.time.toNat < beat + 2 * per ∨ x.halted = true → exec (.heartbeatLoss core) s = .next s) ∧
    (beat + 2 * per ≤ s.time.toNat → x.halted = false → coreExists core = true → Leads (.heartbeatLoss core) s fun u =>
      (u.core core).halted = true ∧ (u.core core).haltedAt = s.time ∧ u.chalt.getLsbD (6 * octantOf core + clusterOf core) = true ∧
      (∀ i, s.chalt.getLsbD i = true → u.chalt.getLsbD i = true) ∧
      ∀ i, i < 4 → s.graphs = [] → (s.slot (core * 8 + i)).busy = true →
        ((s.slot (core * 8 + i)).stopping = some ⟨7⟩ → (u.slot (core * 8 + i)).stopping = some ⟨7⟩) ∧
        ((s.slot (core * 8 + i)).stopping ≠ some ⟨7⟩ → (u.slot (core * 8 + i)).stopping = some ⟨6⟩ ∧
          ∃ r : TrapRec, .trap r ∈ u.policy ∧ r.code = 15 ∧ r.engine = 11 ∧ r.core = core ∧
            r.task = (s.slot (core * 8 + i)).taskid.setWidth 32))

/-- R20, R21, R107, R112 to R118, R305, R311. What a decrement does to the counter of a waiter is stated of State.decrement with the
successors of a task; here, that FUTURE_WAITER_DECREMENT makes it, and clears the waiter's link. The two heartbeat periods of R117
are those of the waiting command's own core (the model's reading, logs 64 and 74). -/
def Obligations.ReclaimersFuturesAndRunSwitches : Prop :=
  CaCommandsKeepTheIndex ∧ ∀ (s : State) (octant core : Nat) (c : Cmd),
    let next := s.reclaimQ.find? fun n => decide (nameHome n = octant)
    (next = none → exec (.reclaimer octant) s = .next s) ∧
    (∀ n, next = some n →
      let becomes (e : CaEntry) : Prop := exec (.reclaimer octant) s =
        .next { s with reclaimQ := s.reclaimQ.erase n, caIndex := s.caIndex.map fun x => if x.name = n then e else x }
      (s.entryOf n = none → exec (.reclaimer octant) s = .next { s with reclaimQ := s.reclaimQ.erase n }) ∧
      ∀ e, s.entryOf n = some e → (e.count ≠ 0 → becomes { e with state := 0 }) ∧
        (e.count = 0 → n.toNat / 2 ^ 8 % 2 ^ 4 ≠ 1 → becomes { e with state := 2 })) ∧
    (s.cmd c.uid = some c → c.sent = 1 → c.failed = false → c.sub = none → caSub c.ins = 1 ∨ caSub c.ins = 2 →
      let limit := c.parN 1 + 2000 * Max.max 10 (s.core (c.seqk / 32)).hbper.toNat
      (limit ≤ s.time.toNat → Leads (.caPoolWaitTimeout c.uid) s fun u => CommandTraps s u { c with sent := 0 } 5 7 6) ∧
      (s.time.toNat < limit → exec (.caPoolWaitTimeout c.uid) s = .next s)) ∧
    (s.wakes = [] → exec .futureWaiterDecrement s = .next s) ∧
    (∀ (w : Wake) rest t m v,
      let src : Source := { waiter := .wake w.id, core := w.slot / 8, slot := w.slot % 8, engine := 5 }
      s.wakes = w :: rest → s.blockAt src w.troot w.tcb.toNat true = (t, .ok m) →
      (t.blockSet m 192 8 0).decrement src w.troot w.tcb.toNat w.ids = (v, .ok false) →
      let link := leAt (t.block m) 192 8
      exec .futureWaiterDecrement s =
        .next { v with wakes := v.wakes.flatMap fun x =>
          if x.id ≠ w.id then [x] else if link = 0 then [] else [{ w with tcb := BitVec.ofNat 64 link }] }) ∧
    (∀ (w : Wake) rest t m v,
      let src : Source := { waiter := .wake w.id, core := w.slot / 8, slot := w.slot % 8, engine := 5 }
      s.wakes = w :: rest → s.blockAt src w.troot w.tcb.toNat true = (t, .ok m) → m % 256 = 0 →
      (t.blockSet m 192 8 0).blockAt src w.troot w.tcb.toNat true = (v, .ok m) → 1 < leAt (v.block m) 8 4 →
      leAt ((t.blockSet m 192 8 0).block m) 192 8 = 0 ∧ Leads .futureWaiterDecrement s fun u =>
        leAt (u.block m) 8 4 = leAt (v.block m) 8 4 - 1 ∧ ∀ a, (a < m + 8 ∨ m + 12 ≤ a) → Mem.get u.mem a = Mem.get v.mem a) ∧
    (∀ (w : Wake) (t : State), s.wakes = [w] →
      s.blockAt { waiter := .wake w.id, core := w.slot / 8, slot := w.slot % 8, engine := 5 } w.troot w.tcb.toNat true = (t, .hold) →
      exec .futureWaiterDecrement s = .next t) ∧
    (s.current core = none → exec (.vectorRunSwitch core) s = .next s) ∧
    (s.current core = some c →
      let free := (s.runs core).filter fun r => !s.runBlocked r
      (s.runBlocked c = false ∨ free = [] → exec (.vectorRunSwitch core) s = .next s) ∧
      (s.runBlocked c = true → free ≠ [] → Leads (.vectorRunSwitch core) s fun u => ∃ x ∈ free,
        u = { s with cores := u.cores } ∧ (∀ j, u.core j = if j = core then { s.core j with vrun := some x.uid } else s.core j) ∧
        ∀ y ∈ free, s.rank (slotKey x.seqk) ≤ s.rank (slotKey y.seqk)))

/-- R337 to R346, R373, R377, R378. The model's choices: a recorded sub-command belongs to the demand with its sequence number (log
34), semaphores are numbered per core (log 59), two heartbeat periods and a collision of a trace are those of core 0 and of the
packet cores (log 64), the order of a record's checks (log 67), and a record is taken before it is armed (log 114). -/
def Obligations.GraphsTracesAndReplays : Prop :=
  ∀ (s : State) (core stream sem : Nat) (graph : BitVec 32) (shape : BitVec 128) (entry : List Byte)
      (lines : List (BitVec 128 × List Byte)) (g : Graph),
    let h := s.host
    let one (t : State) (x : Graph) : State := { t with graphs := t.graphs.map fun y => if y.id = x.id ∧ y.settled = x.settled then x else y }
    let entered (t u : State) (e root version lines : Nat) : Prop :=
      u.dirField e 16 16 = root ∧ u.dirField e 32 4 = version % 2 ^ 32 ∧ u.dirField e 36 4 = lines % 2 ^ 32 ∧
        u.dirField e 40 4 = t.dirField e 40 4 ∧ u.dirField e 44 1 = 2
    let collided (u : State) : Prop := ∃ r : TrapRec, .trap r ∈ u.policy ∧ r.code = 8 ∧ r.engine = 11 ∧ r.status = 8
    let completion (u : State) (a n : Nat) : Prop := leNat (Mem.read u.mem (2 * 2 ^ 50 + a / 16 * 16 % 2 ^ 48) 16) = n
    (h.updating = true ∨ h.ready = false ∨ (h.taken = [] ∧ (h.sqhead = h.tail ∨ h.sqsize = 0)) → exec .graphSubmission s = .next s) ∧
    (h.updating = false → h.ready = true → h.sqhead ≠ h.tail → h.sqsize ≠ 0 → h.taken = [] →
      let r := hostBytes s (h.sqbase.toNat + 64 * (h.sqhead.toNat % h.sqsize.toNat)) 64
      (h.configured = false ∨ graphRecOk r = false → leAt r 34 1 % 2 = 0 → Leads .graphSubmission s fun u =>
        u = { s with mem := u.mem, bad := u.bad, ecc := u.ecc, tags := u.tags
                     host := { h with sqhead := h.sqhead + 1, sqerr := h.sqerr ||| 2 } } ∧
        completion u (leAt r 16 8) (leAt r 0 4 + 2 ^ 66 + (if h.configured then 2 else 4) * 2 ^ 80)) ∧
      let took : State := { s with host := { h with sqhead := h.sqhead + 1, taken := [(h.sqhead.toNat, r)] } }
      let src := packetSource h.sqhead.toNat (leAt r 0 4)
      let troot := BitVec.ofNat 64 (leAt r 24 8)
      let listed := took.readVirt src troot (leAt r 4 4 * 8 / 65536 + 2) (leAt r 8 8) (8 * leAt r 4 4) []
      (∀ a, h.configured = true → graphRecOk r = true → listed = (a, .hold) → exec .graphSubmission s = .next (took.asked a)) ∧
      ∀ a b v ms,
        let tcbs := (List.range (leAt r 4 4)).map fun i => leAt b (8 * i) 8
        let armed : State := { v with host := { v.host with taken := v.host.taken.filter fun x => x.1 != h.sqhead.toNat } }
        h.configured = true → graphRecOk r = true → leAt r 34 1 / 2 % 2 = 1 → listed = (a, .ok b) →
        a.submitTcbs src troot tcbs [] = .ok v ms → v.graph (leAt r 0 4) = none →
        exec .graphSubmission s = .next (armed.startGraph r tcbs ms [] none)) ∧
    (s.graph graph.toNat = none → exec (.graphCompletion graph) s = .next s) ∧
    (s.graph graph.toNat = some g →
      (h.updating = true ∨ g.finished = false ∨ (g.mode = 2 ∧ s.noticed g = true) → exec (.graphCompletion graph) s = .next s) ∧
      (h.updating = false → g.finished = true → g.mode = 0 → g.doneTasks.length < 2 ^ 16 → g.faultedTasks.length < 2 ^ 16 → g.intr = false →
        Leads (.graphCompletion graph) s fun u =>
          u = { s with mem := u.mem, bad := u.bad, ecc := u.ecc, tags := u.tags, allocs := u.allocs
                       graphs := s.graphs.filter fun x => !(decide (x.id = g.id) && !x.settled) } ∧
          completion u g.done.toNat (g.id + g.doneTasks.length * 2 ^ 32 + g.faultedTasks.length * 2 ^ 48)) ∧
      (g.mode = 2 → g.image = [] → h.poolrst = false →
        let root := BitVec.ofNat 128 (s.dirField g.entry 16 16)
        let lines := s.dirField g.entry 36 4
        (∀ ls, s.leaves 0 0 0 lines root = .ok ls →
          (s.hashesOk (treeDepth lines) root = true →
            exec (.replayTraceFetch graph) s = .next (one s { g with image := ls.flatMap (·.1) })) ∧
          (s.hashesOk (treeDepth lines) root = false →
            exec (.replayTraceFetch graph) s = .next { s with notices := s.notices ++ [(g.shape, g.ver, 0, 0x3FF, true)] })) ∧
        (∀ e, s.leaves 0 0 0 lines root = .error e →
          exec (.replayTraceFetch graph) s = .next { s with notices := s.notices ++ [(g.shape, g.ver, 0, 0x3FF, true)] })) ∧
      (g.mode ≠ 2 → exec (.replayTraceFetch graph) s = .next s)) ∧
    (s.graphs = [g] → g.mode = 2 →
      ((core, sem) ∉ g.posts → exec (.semaphorePost core sem) s = .next s) ∧
      ((core, sem) ∈ g.posts → Leads (.semaphorePost core sem) s fun u => ∃ x : Graph,
        u = { s with graphs := [x] } ∧ x = { g with posts := g.posts.erase (core, sem), sems := x.sems } ∧
        ∀ k, Kv.get 0 x.sems k = if k = core * 1024 + sem then Kv.get 0 g.sems k + 1 else Kv.get 0 g.sems k)) ∧
    (s.graphs = [g] → s.replaying g core = true → g.settled = false →
      (∀ r rest, (imageRecs g.image core stream).drop (g.cursorOf core stream) = r :: rest → leAt r 0 1 % 16 = 1 → leAt r 2 1 / 2 % 2 = 0 →
        let tix := leAt r 16 4
        let sk := core * 8 + leAt r 1 1
        let k := 1 + (rest.takeWhile fun x => decide (leAt x 0 1 % 16 = 2)).length
        let waits (c : Cmd) : Bool := decide (slotKey c.seqk = sk) && decide (c.inj = 1) && decide (c.num.toNat = leAt r 12 2)
        (tix ∉ g.started → exec (.commandInjection core stream) s = .next s) ∧
        let full := s.queueFull core (recIns r) (decodeExt (leAt r 8 4)).q.toNat
        (leAt r 2 1 % 2 = 0 → full = true → exec (.commandInjection core stream) s = .next s) ∧
        (tix ∈ g.started → leAt r 2 1 % 2 = 0 → full = false → Leads (.commandInjection core stream) s fun u => ∃ c : Cmd,
          u = { s with graphs := [g.advance core stream k], cmds := s.cmds ++ [c], nextUid := s.nextUid + 1, ovl := u.ovl } ∧
          (s.ovOn sk = false → u.ovl = s.ovl) ∧ c.uid = s.nextUid ∧
          slotKey c.seqk = sk ∧ c.num.toNat = leAt r 12 2 ∧ c.inj = 3 ∧ c.rd = 0 ∧ c.ins = decodeStream false (leAt r 4 4) (leAt r 8 4) ∧
          c.v1.toNat = leAt r 40 8 ∧ c.v2.toNat = leAt r 48 8 ∧ c.v3.toNat = leAt r 56 8) ∧
        (∀ c, tix ∈ g.started → leAt r 2 1 % 2 = 1 → s.cmds.find? waits = some c → Leads (.commandInjection core stream) s fun u =>
          u = { s with graphs := [g.advance core stream k], cmds := u.cmds } ∧ u.cmd c.uid = some { c with inj := 2 }) ∧
        (tix ∈ g.started → leAt r 2 1 % 2 = 1 → s.cmds.find? waits = none → exec (.commandInjection core stream) s =
          .next { s with graphs := [{ g.advance core stream k with ahead := g.ahead ++ [(core, tix, leAt r 12 2)] }] })) ∧
      (∀ r rest, (imageRecs g.image core stream).drop (g.cursorOf core stream) = r :: rest → leAt r 0 1 % 16 = 1 → leAt r 2 1 / 2 % 2 = 1 →
        let sk := core * 8 + leAt r 1 1
        let k := 1 + (rest.takeWhile fun x => decide (leAt x 0 1 % 16 = 2)).length
        (s.queueFull core (recIns r) 3 = true → exec (.commandInjection core stream) s = .next s) ∧
        (leAt r 16 4 ∈ g.started → (s.slot sk).busy = true → (s.slot sk).tix = leAt r 16 4 → s.queueFull core (recIns r) 3 = false →
        (s.demandFor sk r = none → exec (.commandInjection core stream) s = .next s) ∧
        ∀ d, s.demandFor sk r = some d → Leads (.commandInjection core stream) s fun u => ∃ (c : Cmd) (x : Sub),
          u = { s with graphs := [g.advance core stream k], cmds := s.cmds ++ [c], nextUid := s.nextUid + 1, ovl := u.ovl } ∧
          (s.ovOn sk = false → u.ovl = s.ovl) ∧ c.uid = s.nextUid ∧
          slotKey c.seqk = sk ∧ c.sub = some x ∧ x.by' = d.by' ∧ x.kind = d.kind ∧ x.ord = leAt r 14 2 ∧ c.inj = 2)) ∧
      ∀ r, ((imageRecs g.image core 0).drop (g.cursorOf core 0)).head? = some r →
        (leAt r 0 1 % 16 = 3 → Kv.get 0 g.sems (core * 1024 + leAt r 4 2) < leAt r 6 2 → exec (.replayTaskStart core) s = .next s) ∧
        (leAt r 0 1 % 16 = 6 → (s.slot (core * 8 + leAt (imageTask g.image (leAt r 4 4)) 10 1)).busy = true →
          exec (.replayTaskStart core) s = .next s) ∧
        ∀ t x, leAt r 0 1 % 16 = 6 → s.startReplayed g core (leAt r 4 4) = (t, true) → t.graph g.id = some x →
          exec (.replayTaskStart core) s = .next (one t (x.advance core 0 1))) ∧
    ((∀ x ∈ s.graphs, x.complete = false) → exec (.traceIntern graph) s = .next s) ∧
    ((s.graphs.find? fun x => decide (x.id = graph.toNat) && x.complete) = some g → (∀ k, k < 1024 → (g.semTasks k).length ≤ 1024) →
      (∀ t ns, s.internImage g.recording = .ok t ns → Leads (.traceIntern graph) s fun u =>
        entered t u g.entry (ns.headD 0).toNat 1 (g.recording.length / 128)) ∧
      (∀ t n, s.internImage g.recording = .collision t n → Leads (.traceIntern graph) s fun u => u.dirField g.entry 44 1 = 3 ∧ collided u) ∧
      (∀ t, s.internImage g.recording = .bad t → Leads (.traceIntern graph) s fun u => u.dirField g.entry 44 1 = 0 ∧ u.dirField g.entry 40 4 = 0) ∧
      (s.internImage g.recording = .wait → g.poolWait = none → Leads (.traceIntern graph) s fun u =>
        ∃ e, u = { one s { g with poolWait := some s.time } with policy := s.policy ++ [e] }) ∧
      (s.internImage g.recording = .wait → g.poolWait ≠ none → exec (.traceIntern graph) s = .next s) ∧
      ∀ t, g.poolWait = some t →
        t.toNat + s.twoBeats 0 ≤ s.time.toNat → (s.graphs.find? fun x => decide (x.id = graph.toNat) && x.complete && x.poolWait.any
            fun y => decide (y.toNat + s.twoBeats 0 ≤ s.time.toNat)) = some g →
          Leads (.internPoolWaitTimeout graph) s fun u => u.dirField g.entry 44 1 = 0 ∧ u.dirField g.entry 40 4 = 0) ∧
    ((∀ x ∈ s.graphs, x.poolWait = none) → graph ≠ 0 ∨ s.fetches = [] → exec (.internPoolWaitTimeout graph) s = .next s) ∧
    (h.rank = 0 ∨ h.updating = true → exec (.gangTraceFetch shape entry lines) s = .next s) ∧
    (s.dirFind shape = none → exec (.refiner shape) s = .next s ∧ exec (.gangTraceFetch shape entry lines) s = .next s) ∧
    ∀ e t ns, s.dirFind shape = some e →
      ((∀ x ∈ s.graphs, x.poolWait = none) → graph = 0 → ∀ since : BitVec 64, s.fetches = [(shape, entry, lines, since)] →
        (s.time.toNat < since.toNat + s.twoBeats 0 → exec (.internPoolWaitTimeout graph) s = .next s) ∧
        (since.toNat + s.twoBeats 0 ≤ s.time.toNat → Leads (.internPoolWaitTimeout graph) s fun u =>
          u.fetches = [] ∧ u.dirField e 44 1 = 0 ∧ u.dirField e 40 4 = 0)) ∧
      (h.rank ≠ 0 → h.updating = false → s.fetches = [] →
        let ver := leAt entry 32 4
        let size := leAt entry 36 4
        let walked := fetchedWalk lines (treeDepth size) size (BitVec.ofNat 128 (leAt entry 16 16))
        let stale := leAt entry 0 16 ≠ shape.toNat ∨ leAt entry 44 1 ≠ 2 ∨ s.dirField e 44 1 = 3 ∨ (s.dirField e 44 1 = 2 ∧ ver ≤ s.dirField e 32 4)
        (stale → exec (.gangTraceFetch shape entry lines) s = .next s) ∧
        (¬ stale → walked = none → Leads (.gangTraceFetch shape entry lines) s fun u =>
          u.dirField e 44 1 = 0 ∧ u.dirField e 40 4 = 0 ∧ ∃ p q, s.policy ++ [p] ++ q = u.policy) ∧
        (∀ w, ¬ stale → walked = some w → s.internImage w.leaves.flatten = .ok t ns →
          (t.ordinalConflict w.lines = none → Leads (.gangTraceFetch shape entry lines) s fun u => entered t u e (ns.headD 0).toNat ver size) ∧
          (t.ordinalConflict w.lines ≠ none → Leads (.gangTraceFetch shape entry lines) s fun u => u.dirField e 44 1 = 3 ∧ collided u))) ∧
      ((s.replays.find? fun x => decide (x.shape = shape)) = some g → h.rank = 0 → s.dirField e 44 1 = 2 →
        s.dirField e 32 4 = g.ver.toNat → (∀ x ∈ s.graphs, ¬ (x.mode = 2 ∧ x.entry = e)) →
        ((s.refined g).2 = false → exec (.refiner shape) s = .next s) ∧
        ((s.refined g).2 = true → s.internImage (s.refined g).1 = .ok t ns → Leads (.refiner shape) s fun u =>
          entered t u e (ns.headD 0).toNat (g.ver.toNat + 1) ((s.refined g).1.length / 128)))


namespace Sys2Proof.Claims
open Sys2Proof.Machine

/-! ### Encodings -/

/-- The rows of the opcode table that are words of the micro-order store (R46 to R48). -/
def microOrder : Instr → Bool
  | .vnop | .vmov _ _ _ | .vsel _ _ _ _ | .vaddF32 _ _ _ _ | .vaddBf16 _ _ _ _ | .vaddF16 _ _ _ _ | .vsubF32 _ _ _ _
  | .vsubBf16 _ _ _ _ | .vsubF16 _ _ _ _ | .vmulF32 _ _ _ _ | .vmulBf16 _ _ _ _ | .vmulF16 _ _ _ _ | .vfmaF32 _ _ _ _
  | .vfmaBf16 _ _ _ _ | .vfmaF16 _ _ _ _ | .vfmsF32 _ _ _ _ | .vfmsBf16 _ _ _ _ | .vfmsF16 _ _ _ _ | .vminF32 _ _ _ _
  | .vminBf16 _ _ _ _ | .vminF16 _ _ _ _ | .vmaxF32 _ _ _ _ | .vmaxBf16 _ _ _ _ | .vmaxF16 _ _ _ _ | .vabsF32 _ _ _
  | .vabsBf16 _ _ _ | .vabsF16 _ _ _ | .vnegF32 _ _ _ | .vnegBf16 _ _ _ | .vnegF16 _ _ _ | .vsqrt _ _ _ | .vrcp _ _ _
  | .vrsq _ _ _ | .vexp2 _ _ _ | .vlog2 _ _ _ | .vtanh _ _ _ | .viaddI32 _ _ _ _ | .viaddI16 _ _ _ _ | .viaddI8 _ _ _ _
  | .visubI32 _ _ _ _ | .visubI16 _ _ _ _ | .visubI8 _ _ _ _ | .vimulI32 _ _ _ _ | .vimulI16 _ _ _ _ | .vimulI8 _ _ _ _
  | .viminI32 _ _ _ _ | .viminI16 _ _ _ _ | .viminI8 _ _ _ _ | .vimaxI32 _ _ _ _ | .vimaxI16 _ _ _ _ | .vimaxI8 _ _ _ _
  | .viaddsI32 _ _ _ _ | .viaddsI16 _ _ _ _ | .viaddsI8 _ _ _ _ | .vand _ _ _ _ | .vor _ _ _ _ | .vxor _ _ _ _
  | .vsll _ _ _ _ | .vsrl _ _ _ _ | .vsra _ _ _ _ | .vcmpeqF32 _ _ _ _ | .vcmpeqI32 _ _ _ _ | .vcmpltF32 _ _ _ _
  | .vcmpltI32 _ _ _ _ | .vcmpleF32 _ _ _ _ | .vcmpleI32 _ _ _ _ | .vcvtBf16F32 _ _ _ | .vcvtF16F32 _ _ _
  | .vcvtF32Bf16 _ _ _ | .vcvtF32F16 _ _ _ | .vcvtFp8aF32 _ _ _ | .vcvtFp8bF32 _ _ _ | .vcvtF32Fp8a _ _ _
  | .vcvtF32Fp8b _ _ _ | .vcvtI32F32 _ _ _ | .vcvtF32I32 _ _ _ | .vcvtFp4xF32 _ _ _ | .vcvtF32Fp4x _ _ _ | .vrsumF32 _ _ _
  | .vrmax _ _ _ | .vrmin _ _ _ | .vrsumI32 _ _ _ | .vperm _ _ _ _ | .vrot _ _ _ _ | .vbcast _ _ _ _ | .vpack _ _ _ _
  | .vunpkl _ _ _ | .vunpkh _ _ _ | .vpop _ _ _ | .vpush _ _ _ | .vtr _ _ _ _ _ | .vtw _ _ _ _ _ | .var _ _ _ _ _
  | .vaw _ _ _ _ _ | .vixs _ _ | .vixa _ _ | .vspl _ _ | .vfil _ _ | .vmoviF32 _ _ | .vmoviBf16 _ _ | .vmoviF16 _ _
  | .vmoviI32 _ _ | .vmoviI16 _ _ | .vmoviI8 _ _ | .kand _ _ _ _ | .kor _ _ _ _ | .knot _ _ _ | .kmov _ _ _ => true
  | _ => false

/-- The one instruction whose major is read by the role of its sequencer (R162). -/
def isVst : Instr → Bool
  | .vst _ _ _ _ => true
  | _ => false

/-- The two rows that stand for words with no meaning. -/
def isReserved : Instr → Bool
  | .reservedEncoding _ | .reservedOp7 _ => true
  | _ => false

end Sys2Proof.Claims

open Sys2Proof Sys2Proof.Machine Sys2Proof.Claims

/-! ### The step, the decoder, reset, memory -/

/-- R21, R24, R170, R171, R207, R263. The agenda, the time that passes and the order of turns are the model's own (log entry
6); `afterTurn` keeps the counts by which R21 and R330 choose, and `keepWords` the words of an instruction that waits. -/
def Obligations.StepRunsTheDecodedInstruction : Prop :=
  ∀ (s : State) (r : List Turn),
    (∀ k, s.agenda = .seq k :: r →
      let s0 : State := { s.tick with agenda := r, cur := k }
      let before : State := { s.tick with agenda := r }
      (s0.canIssue k = false → step s = .next (before.afterTurn s0 k false)) ∧
      (s0.canIssue k = true → s0.atEnd k = false →
        ∀ t w x i, s0.nextWords k = .words t w x → decodeStream (decide (roleOf k = 2)) w x = i →
          (∀ u, exec i t = .next u → step s = .next (before.afterTurn (u.keepWords k w x) k false)) ∧
          (∀ f, exec i t = .fault f → step s = .fault f) ∧ ∀ f, exec i t = .refused f → step s = .refused f) ∧
      ∀ e, let a := (s0.pc k).toNat
        let p := e.base + a % 2 ^ 16
        (s0.seq k).issued = false → a % 2 ^ 16 + 8 ≤ 2 ^ 16 → a + 8 ≤ 2 ^ 55 → p + 8 ≤ 2 ^ 40 →
        s0.waitsOn (.fetch k) = none → (s0.slot (slotKey k)).troot.getLsbD 0 = true →
        tlbHit (s0.seq k).tlb (bits (s0.slot (slotKey k)).troot 52 12) a { kind := 2 } = some e → e.acc = true →
        s0.verify .main p 4 = none → s0.verify .main (p + 4) 4 = none →
          let w := leNat (Mem.read s0.mem p 4)
          ∃ t, s0.nextWords k = .words t w (if isLong w then leNat (Mem.read s0.mem (p + 4) 4) else 0) ∧
            t = { s0 with seqs := t.seqs } ∧ ∀ j, t.seq j = s0.seq j) ∧
    (∀ core u, s.agenda = .run core :: r →
      let s0 : State := { s.tick with agenda := r }
      ((∀ c, s0.current core = some c → c.sub = none) →
        exec (decodeMicro (s0.runWord core)) { s0 with cur := core * 32 + 1 } = .next u → step s = .next { u with cur := s0.cur }) ∧
      ∀ c x, s0.current core = some c → c.sub = some x → step s = .next (s0.forceRunStep c x)) ∧
    (∀ k, s.agenda = .slow k :: r →
      let slow : State := { s.tick with agenda := r, delay := true }
      ∀ u, slow.seqTurn k = .next u → step s = .next { u with delay := false }) ∧
    (∀ k n, s.agenda = .retire k n :: r → step s = .next ({ s.tick with agenda := r }.retireLate k n)) ∧
    (∀ i, s.agenda = .event i :: r → isEvent i = true → step s = exec i { s.tick with agenda := r }) ∧
    (∀ t, s.agenda = [] → s.tick.workStep = some t → step s = .next t) ∧
    (∀ core, s.agenda = [] → s.tick.workStep = none → s.tick.runReady = some core → step s = step { s with agenda := [.run core] }) ∧
    (s.agenda = [] → s.tick.workStep = none → s.tick.runReady = none →
      let free := s.tick
      ((∀ k ∈ free.candidates, free.tryIssue k = none) → step s = .next free) ∧
      ∀ passed k rest t, free.candidates = passed ++ k :: rest → (∀ j ∈ passed, free.tryIssue j = none) → free.tryIssue k = some t →
        ∃ other, step s = .next (free.afterTurn t k other))

/-- R26 to R46. Each word is written out from the spec's layouts. -/
def Obligations.WordsDecodeAsTheSpecWritesThem : Prop :=
  decodeStream false 0x00221810 0 = .add 1 2 3 0 ∧ decodeStream false 0x14640050 0 = .slli 3 4 5 0 ∧
  decodeStream false 0x14648050 0 = .srai 3 4 5 0 ∧ decodeStream false 0x018B5150 0 = .div 12 11 10 0 ∧
  decodeStream false 0x3CA08800 0 = .stsp 5 17 0 ∧ decodeStream false 0x5C030010 0 = .cqp 3 1 0 ∧
  decodeStream false 0x680012A0 0 = .trap 0x2A 0 ∧ decodeStream false 0x68034000 0 = .exit 3 0 ∧
  decodeStream false 0x68095000 0 = .cwait 9 0 ∧ decodeStream false 0x6D07F810 0 = .fli 8 0x3FC0 0 ∧
  decodeStream false 0xD0000000 0 = .mgo ⟨0, 0, 0, 0, 0, 0, 0, 0⟩ ∧
  decodeStream false 0x8C000000 0 = .reservedEncoding 0x8C000000 ∧ decodeStream false 0x14640450 0 = .reservedEncoding 0x14640450 ∧
  decodeMicro 0x00000000 = .reservedOp7 0

/-- The Reset columns of R145, R160, R187, R188, R197, R248, R271, R333, R370 and R372, the fill of R95, and R303. That host and
peer memory reads 0 where nothing has been written is the model's choice (log entry 3). -/
def Obligations.ResetLeavesTheResetColumns : Prop :=
  let s := State.reset
  (∀ k n, csrAssigned n = true → s.csr k n =
    match n with
    | 0x002 => BitVec.ofNat 64 (k / 32 + k / 4 % 8 * 1024)
    | 0x008 => 50
    | 0x025 => if 4 ≤ k / 4 % 8 then 1024 else 0
    | 0x040 => 128
    | 0x083 => BitVec.ofNat 64 (40 + 20 * 2 ^ 16 + 2000 * 2 ^ 32)
    | _ => 0) ∧
  (∀ off, s.bar0 off = 0) ∧
  (∀ sp a n, s.bytes sp a n = zeros n ∧ s.verify sp a n = none ∧ s.tag sp a = 0x6000) ∧
  Canonical s ∧ s.mem = [] ∧ s.scratch = [] ∧ (∀ j, (s.slot j).busy = false) ∧ (∀ k, (s.seq k).active = false) ∧
  s.requests = [] ∧ s.cmds = [] ∧ s.taskCounter = 1

/-- Equal memories are equal data in every state that a step reaches from a canonical one. -/
def Obligations.EveryStepKeepsTheMemoriesCanonical : Prop :=
  ∀ s t : State, Canonical s → step s = .next t → Canonical t

/-- R24 to R48: the two decoders and the encoder agree, in both directions. -/
def Obligations.DecodingInvertsEncoding : Prop :=
  (∀ i : Instr, i.wf = true → encode i ≠ [] → isReserved i = false →
    (microOrder i = true → ∃ w, encode i = [w] ∧ decodeMicro w.toNat = i) ∧
    (microOrder i = false → ∀ rest : List (BitVec 8),
      ((encode i).length = if isLong ((encode i).headD 0).toNat then 2 else 1) ∧
      decodeBytes (isVst i) (((encode i).flatMap fun w => bytesOf w.toNat 4) ++ rest) = .ok (i, rest))) ∧
  (∀ (store : Bool) (w x : BitVec 32), let i := decodeStream store w.toNat x.toNat
    i.wf = true ∧ microOrder i = false ∧ (isReserved i = false → encode i = if isLong w.toNat then [w, x] else [w])) ∧
  ∀ w : BitVec 32, let i := decodeMicro w.toNat
    i.wf = true ∧ (isReserved i = false → microOrder i = true ∧ encode i = [w])
end

