-- ==== Sys2Proof/Laws/Store.lean ====
section
/-! SUPPORT. The laws of the sparse stores and of the memories: a read after a write, what a write leaves alone, and the
canonical form that every write keeps. -/

namespace Sys2Proof.Machine

@[simp] theorem Kv.get_put_self {α : Type} (d : α) (l : List (Nat × α)) (a : Nat) (v : α) :
    Kv.get d (Kv.put l a v) a = v := by
  induction l with
  | nil => simp [Kv.put, Kv.get]
  | cons c r ih =>
    obtain ⟨k, w⟩ := c
    simp only [Kv.put]
    split
    · simp [Kv.get]
    · split
      · simp [Kv.get]
      · rename_i h
        simp [Kv.get, ih, Ne.symm h]

theorem Kv.get_put_ne {α : Type} (d : α) (l : List (Nat × α)) (a b : Nat) (v : α) (h : b ≠ a) :
    Kv.get d (Kv.put l a v) b = Kv.get d l b := by
  induction l with
  | nil => simp [Kv.put, Kv.get, Ne.symm h]
  | cons c r ih =>
    obtain ⟨k, w⟩ := c
    simp only [Kv.put]
    split
    · simp [Kv.get, Ne.symm h]
    · split
      · subst_vars
        simp [Kv.get, Ne.symm h]
      · simp [Kv.get, ih]

theorem Kv.get_put {α : Type} (d : α) (l : List (Nat × α)) (a b : Nat) (v : α) :
    Kv.get d (Kv.put l a v) b = if b = a then v else Kv.get d l b := by
  split
  · subst_vars; simp
  · rename_i h; exact Kv.get_put_ne d l a b v h

/-- Every key of a store with one key set is that key or was there. -/
theorem Kv.mem_put {α : Type} (l : List (Nat × α)) (a : Nat) (v : α) (c : Nat × α) (h : c ∈ Kv.put l a v) :
    c = (a, v) ∨ c ∈ l := by
  induction l with
  | nil => simpa [Kv.put] using h
  | cons x r ih =>
    obtain ⟨k, w⟩ := x
    simp only [Kv.put] at h
    split at h
    · simpa using h
    · split at h
      · rcases List.mem_cons.1 h with h | h
        · exact .inl h
        · exact .inr (List.mem_cons_of_mem _ h)
      · rcases List.mem_cons.1 h with h | h
        · exact .inr (by simp [h])
        · rcases ih h with h | h
          · exact .inl h
          · exact .inr (List.mem_cons_of_mem _ h)

theorem Kv.sorted_put {α : Type} (l : List (Nat × α)) (a : Nat) (v : α) (h : Kv.sorted l = true) :
    Kv.sorted (Kv.put l a v) = true := by
  induction l with
  | nil => simp [Kv.put, Kv.sorted]
  | cons x r ih =>
    obtain ⟨k, w⟩ := x
    simp only [Kv.sorted, Bool.and_eq_true, List.all_eq_true, decide_eq_true_eq] at h
    simp only [Kv.put]
    split
    · rename_i hk
      simp only [Kv.sorted, Bool.and_eq_true, List.all_eq_true, decide_eq_true_eq, List.mem_cons, forall_eq_or_imp]
      exact ⟨⟨hk, fun c hc => Nat.lt_trans hk (h.1 c hc)⟩, h.1, h.2⟩
    · split
      · subst_vars
        simp only [Kv.sorted, Bool.and_eq_true, List.all_eq_true, decide_eq_true_eq]
        exact ⟨h.1, h.2⟩
      · simp only [Kv.sorted, Bool.and_eq_true, List.all_eq_true, decide_eq_true_eq]
        refine ⟨fun c hc => ?_, ih h.2⟩
        rcases Kv.mem_put r a v c hc with rfl | hc
        · simp only; omega
        · exact h.1 c hc

/-! ### Memories -/

/-- Keys of an appended store stay rising where every key of the second part is above every key of the first. -/
theorem Kv.sorted_append {α : Type} (l m : List (Nat × α)) (hl : Kv.sorted l = true) (hm : Kv.sorted m = true)
    (h : ∀ x ∈ l, ∀ y ∈ m, x.1 < y.1) : Kv.sorted (l ++ m) = true := by
  induction l with
  | nil => simpa using hm
  | cons x r ih =>
    obtain ⟨k, w⟩ := x
    simp only [Kv.sorted, Bool.and_eq_true, List.all_eq_true, decide_eq_true_eq, List.cons_append, List.mem_append] at hl ⊢
    refine ⟨fun c hc => ?_, ih hl.2 fun x hx => h x (List.mem_cons_of_mem _ hx)⟩
    rcases hc with hc | hc
    · exact hl.1 c hc
    · exact h (k, w) (by simp) c hc

theorem Kv.sorted_filter {α : Type} (l : List (Nat × α)) (p : Nat × α → Bool) (h : Kv.sorted l = true) :
    Kv.sorted (l.filter p) = true := by
  induction l with
  | nil => simp [Kv.sorted]
  | cons x r ih =>
    obtain ⟨k, w⟩ := x
    simp only [Kv.sorted, Bool.and_eq_true, List.all_eq_true, decide_eq_true_eq] at h
    simp only [List.filter_cons]
    split
    · simp only [Kv.sorted, Bool.and_eq_true, List.all_eq_true, decide_eq_true_eq, List.mem_filter]
      exact ⟨fun c hc => h.1 c hc.1, ih h.2⟩
    · exact ih h.2

theorem Mem.cells_spec (a : Nat) (bs : List Byte) (c : Host.Cell) (h : c ∈ Mem.cells a bs) :
    a ≤ c.1 ∧ c.1 < a + bs.length ∧ c.2 ≠ 0 := by
  induction bs generalizing a with
  | nil => simp [Mem.cells] at h
  | cons b r ih =>
    simp only [Mem.cells] at h
    split at h
    · have := ih (a + 1) h
      simp only [List.length_cons]
      exact ⟨by omega, by omega, this.2.2⟩
    · rcases List.mem_cons.1 h with rfl | h
      · simp_all
      · have := ih (a + 1) h
        simp only [List.length_cons]
        exact ⟨by omega, by omega, this.2.2⟩

theorem Mem.cells_sorted (a : Nat) (bs : List Byte) : Kv.sorted (Mem.cells a bs) = true := by
  induction bs generalizing a with
  | nil => simp [Mem.cells, Kv.sorted]
  | cons b r ih =>
    simp only [Mem.cells]
    split
    · exact ih _
    · simp only [Kv.sorted, Bool.and_eq_true, List.all_eq_true, decide_eq_true_eq]
      exact ⟨fun c hc => by have := Mem.cells_spec (a + 1) r c hc; omega, ih _⟩

/-- A write keeps the canonical form. -/
theorem Mem.write_wf (m : List Host.Cell) (a : Nat) (bs : List Byte) (h : Memory.wf m = true) :
    Memory.wf (Mem.write m a bs) = true := by
  simp only [Memory.wf, Bool.and_eq_true, List.all_eq_true, decide_eq_true_eq] at h ⊢
  unfold Mem.write
  constructor
  · refine Kv.sorted_append _ _ (Kv.sorted_append _ _ (Kv.sorted_filter _ _ h.1) (Mem.cells_sorted a bs) ?_)
      (Kv.sorted_filter _ _ h.1) ?_
    · intro x hx y hy
      have := Mem.cells_spec a bs y hy
      simp only [List.mem_filter, decide_eq_true_eq] at hx
      omega
    · intro x hx y hy
      simp only [List.mem_append, List.mem_filter, decide_eq_true_eq] at hx hy
      rcases hx with hx | hx
      · omega
      · have := Mem.cells_spec a bs x hx
        omega
  · intro c hc
    simp only [List.mem_append, List.mem_filter] at hc
    rcases hc with (hc | hc) | hc
    · exact h.2 c hc.1
    · exact (Mem.cells_spec a bs c hc).2.2
    · exact h.2 c hc.1

theorem Kv.get_append {α : Type} (d : α) (l m : List (Nat × α)) (a : Nat) (h : ∀ c ∈ l, c.1 ≠ a) :
    Kv.get d (l ++ m) a = Kv.get d m a := by
  induction l with
  | nil => rfl
  | cons c r ih =>
    obtain ⟨k, w⟩ := c
    have : k ≠ a := h (k, w) (by simp)
    simp [Kv.get, this, ih fun c hc => h c (List.mem_cons_of_mem _ hc)]

theorem Kv.get_none {α : Type} (d : α) (l : List (Nat × α)) (a : Nat) (h : ∀ c ∈ l, c.1 ≠ a) : Kv.get d l a = d := by
  have := Kv.get_append d l [] a h
  simpa [Kv.get] using this

theorem Kv.get_append_left {α : Type} (d : α) (l m : List (Nat × α)) (a : Nat) (h : ∀ c ∈ m, c.1 ≠ a) :
    Kv.get d (l ++ m) a = Kv.get d l a := by
  induction l with
  | nil => simpa [Kv.get] using Kv.get_none d m a h
  | cons c r ih => obtain ⟨k, w⟩ := c; simp [Kv.get, ih]

theorem Kv.get_filter {α : Type} (d : α) (l : List (Nat × α)) (p : Nat × α → Bool) (a : Nat)
    (h : ∀ v, p (a, v) = true) : Kv.get d (l.filter p) a = Kv.get d l a := by
  induction l with
  | nil => rfl
  | cons c r ih =>
    obtain ⟨k, w⟩ := c
    simp only [List.filter_cons]
    split
    · simp [Kv.get, ih]
    · rename_i hp
      have hk : k ≠ a := fun hk => hp (by subst hk; exact h w)
      simp [Kv.get, hk, ih]

theorem Mem.get_cells (a : Nat) (bs : List Byte) (i : Nat) (h : i < bs.length) :
    Kv.get 0 (Mem.cells a bs) (a + i) = bs.getD i 0 := by
  induction bs generalizing a i with
  | nil => simp at h
  | cons b r ih =>
    simp only [Mem.cells]
    cases i with
    | zero =>
      split
      · rename_i hb
        simp only [Nat.add_zero, List.getD_cons_zero, hb]
        exact Kv.get_none _ _ _ fun c hc => by have := Mem.cells_spec (a + 1) r c hc; omega
      · simp [Kv.get]
    | succ i =>
      have e : a + (i + 1) = a + 1 + i := by omega
      have := ih (a + 1) i (by simpa using h)
      split
      · rw [e, this]; simp
      · have hne : a ≠ a + (i + 1) := by omega
        simp only [Kv.get, if_neg hne, List.getD_cons_succ]
        rw [e, this]

/-- A write leaves every byte outside its range alone. -/
theorem Mem.get_write_out (m : List Host.Cell) (a : Nat) (bs : List Byte) (b : Nat) (h : b < a ∨ a + bs.length ≤ b) :
    Mem.get (Mem.write m a bs) b = Mem.get m b := by
  have hc : ∀ c ∈ Mem.cells a bs, c.1 ≠ b := fun c hc => by have := Mem.cells_spec a bs c hc; omega
  unfold Mem.get Mem.write
  rcases h with h | h
  · have h3 : ∀ c ∈ m.filter (fun c => decide (a + bs.length ≤ c.1)), c.1 ≠ b := fun c hc => by
      simp only [List.mem_filter, decide_eq_true_eq] at hc; omega
    rw [Kv.get_append_left _ _ _ _ h3, Kv.get_append_left _ _ _ _ hc, Kv.get_filter _ _ _ _ fun v => by simpa using h]
  · have h1 : ∀ c ∈ m.filter (fun c => decide (c.1 < a)), c.1 ≠ b := fun c hc => by
      simp only [List.mem_filter, decide_eq_true_eq] at hc; omega
    rw [List.append_assoc, Kv.get_append _ _ _ _ h1, Kv.get_append _ _ _ _ hc,
      Kv.get_filter _ _ _ _ fun v => by simpa using h]

/-- A read after a write gives the bytes written. -/
theorem Mem.get_write_in (m : List Host.Cell) (a : Nat) (bs : List Byte) (i : Nat) (h : i < bs.length) :
    Mem.get (Mem.write m a bs) (a + i) = bs.getD i 0 := by
  unfold Mem.get Mem.write
  have h1 : ∀ c ∈ m.filter (fun c => decide (c.1 < a)), c.1 ≠ a + i := fun c hc => by
    simp only [List.mem_filter, decide_eq_true_eq] at hc; omega
  have h3 : ∀ c ∈ m.filter (fun c => decide (a + bs.length ≤ c.1)), c.1 ≠ a + i := fun c hc => by
    simp only [List.mem_filter, decide_eq_true_eq] at hc; omega
  rw [List.append_assoc, Kv.get_append _ _ _ _ h1, Kv.get_append_left _ _ _ _ h3, Mem.get_cells _ _ _ h]

theorem Kv.get_range {α : Type} (d : α) (m : List (Nat × α)) (p : Nat × α → Bool) (b : Nat) (h : ∀ v, p (b, v) = true) :
    Kv.get d (m.filter p) b = Kv.get d m b := Kv.get_filter d m p b h

/-- A run of bytes read is its bytes. -/
theorem Mem.read_eq (m : List Host.Cell) (a n : Nat) : Mem.read m a n = (List.range n).map fun i => Mem.get m (a + i) := by
  unfold Mem.read Mem.get
  simp only
  apply List.map_congr_left
  intro i hi
  rw [Kv.get_filter]
  intro v
  simp only [List.mem_range] at hi
  simp only [Bool.and_eq_true, decide_eq_true_eq]
  omega

@[simp] theorem Mem.read_length (m : List Host.Cell) (a n : Nat) : (Mem.read m a n).length = n := by
  simp [Mem.read_eq]

/-- A run of bytes read after it was written is what was written. -/
theorem Mem.read_write (m : List Host.Cell) (a : Nat) (bs : List Byte) : Mem.read (Mem.write m a bs) a bs.length = bs := by
  rw [Mem.read_eq]
  apply List.ext_getElem
  · simp
  · intro i h1 h2
    simp only [List.getElem_map, List.getElem_range]
    rw [Mem.get_write_in m a bs i h2]
    simp [h2]

@[simp] theorem leBytes_length (n x : Nat) : (leBytes n x).length = n := by
  induction n generalizing x with
  | zero => rfl
  | succ n ih => simp [leBytes, ih]

/-- The number of its own little-endian bytes. -/
theorem leNat_leBytes (n x : Nat) : leNat (leBytes n x) = x % 256 ^ n := by
  induction n generalizing x with
  | zero => simp [leBytes, leNat, Nat.mod_one]
  | succ n ih =>
    have h : (BitVec.ofNat 8 x).toNat = x % 256 := rfl
    simp only [leBytes, leNat, ih, h]
    rw [Nat.pow_succ', Nat.mod_mul]

end Sys2Proof.Machine
end

