-- ==== Sys2Proof/Laws/State.lean ====
section
/-! SUPPORT. What each update of a unit does to each field of the state, and what the accessors read after it. -/

namespace Sys2Proof.Machine

@[simp] theorem State.setSeq_slots (s : State) (k : Nat) (x : Seq) : (s.setSeq k x).slots = s.slots := rfl
@[simp] theorem State.setSeq_cores (s : State) (k : Nat) (x : Seq) : (s.setSeq k x).cores = s.cores := rfl
@[simp] theorem State.setSeq_mem (s : State) (k : Nat) (x : Seq) : (s.setSeq k x).mem = s.mem := rfl
@[simp] theorem State.setSeq_scratch (s : State) (k : Nat) (x : Seq) : (s.setSeq k x).scratch = s.scratch := rfl
@[simp] theorem State.setSeq_tiles (s : State) (k : Nat) (x : Seq) : (s.setSeq k x).tiles = s.tiles := rfl
@[simp] theorem State.setSeq_accs (s : State) (k : Nat) (x : Seq) : (s.setSeq k x).accs = s.accs := rfl
@[simp] theorem State.setSeq_tileGrant (s : State) (k : Nat) (x : Seq) : (s.setSeq k x).tileGrant = s.tileGrant := rfl
@[simp] theorem State.setSeq_accGrant (s : State) (k : Nat) (x : Seq) : (s.setSeq k x).accGrant = s.accGrant := rfl
@[simp] theorem State.setSeq_bad (s : State) (k : Nat) (x : Seq) : (s.setSeq k x).bad = s.bad := rfl
@[simp] theorem State.setSeq_ecc (s : State) (k : Nat) (x : Seq) : (s.setSeq k x).ecc = s.ecc := rfl
@[simp] theorem State.setSeq_tags (s : State) (k : Nat) (x : Seq) : (s.setSeq k x).tags = s.tags := rfl
@[simp] theorem State.setSeq_spill (s : State) (k : Nat) (x : Seq) : (s.setSeq k x).spill = s.spill := rfl
@[simp] theorem State.setSeq_peers (s : State) (k : Nat) (x : Seq) : (s.setSeq k x).peers = s.peers := rfl
@[simp] theorem State.setSeq_pool (s : State) (k : Nat) (x : Seq) : (s.setSeq k x).pool = s.pool := rfl
@[simp] theorem State.setSeq_caIndex (s : State) (k : Nat) (x : Seq) : (s.setSeq k x).caIndex = s.caIndex := rfl
@[simp] theorem State.setSeq_reclaimQ (s : State) (k : Nat) (x : Seq) : (s.setSeq k x).reclaimQ = s.reclaimQ := rfl
@[simp] theorem State.setSeq_peerIndex (s : State) (k : Nat) (x : Seq) : (s.setSeq k x).peerIndex = s.peerIndex := rfl
@[simp] theorem State.setSeq_unacked (s : State) (k : Nat) (x : Seq) : (s.setSeq k x).unacked = s.unacked := rfl
@[simp] theorem State.setSeq_cmds (s : State) (k : Nat) (x : Seq) : (s.setSeq k x).cmds = s.cmds := rfl
@[simp] theorem State.setSeq_requests (s : State) (k : Nat) (x : Seq) : (s.setSeq k x).requests = s.requests := rfl
@[simp] theorem State.setSeq_readies (s : State) (k : Nat) (x : Seq) : (s.setSeq k x).readies = s.readies := rfl
@[simp] theorem State.setSeq_allocs (s : State) (k : Nat) (x : Seq) : (s.setSeq k x).allocs = s.allocs := rfl
@[simp] theorem State.setSeq_holders (s : State) (k : Nat) (x : Seq) : (s.setSeq k x).holders = s.holders := rfl
@[simp] theorem State.setSeq_drains (s : State) (k : Nat) (x : Seq) : (s.setSeq k x).drains = s.drains := rfl
@[simp] theorem State.setSeq_rings (s : State) (k : Nat) (x : Seq) : (s.setSeq k x).rings = s.rings := rfl
@[simp] theorem State.setSeq_nextRec (s : State) (k : Nat) (x : Seq) : (s.setSeq k x).nextRec = s.nextRec := rfl
@[simp] theorem State.setSeq_nextOwner (s : State) (k : Nat) (x : Seq) : (s.setSeq k x).nextOwner = s.nextOwner := rfl
@[simp] theorem State.setSeq_saved (s : State) (k : Nat) (x : Seq) : (s.setSeq k x).saved = s.saved := rfl
@[simp] theorem State.setSeq_endings (s : State) (k : Nat) (x : Seq) : (s.setSeq k x).endings = s.endings := rfl
@[simp] theorem State.setSeq_haltedRegions (s : State) (k : Nat) (x : Seq) : (s.setSeq k x).haltedRegions = s.haltedRegions := rfl
@[simp] theorem State.setSeq_graphs (s : State) (k : Nat) (x : Seq) : (s.setSeq k x).graphs = s.graphs := rfl
@[simp] theorem State.setSeq_notices (s : State) (k : Nat) (x : Seq) : (s.setSeq k x).notices = s.notices := rfl
@[simp] theorem State.setSeq_replays (s : State) (k : Nat) (x : Seq) : (s.setSeq k x).replays = s.replays := rfl
@[simp] theorem State.setSeq_fetches (s : State) (k : Nat) (x : Seq) : (s.setSeq k x).fetches = s.fetches := rfl
@[simp] theorem State.setSeq_dirBase (s : State) (k : Nat) (x : Seq) : (s.setSeq k x).dirBase = s.dirBase := rfl
@[simp] theorem State.setSeq_dirEntries (s : State) (k : Nat) (x : Seq) : (s.setSeq k x).dirEntries = s.dirEntries := rfl
@[simp] theorem State.setSeq_spillBase (s : State) (k : Nat) (x : Seq) : (s.setSeq k x).spillBase = s.spillBase := rfl
@[simp] theorem State.setSeq_spillBytes (s : State) (k : Nat) (x : Seq) : (s.setSeq k x).spillBytes = s.spillBytes := rfl
@[simp] theorem State.setSeq_captureBase (s : State) (k : Nat) (x : Seq) : (s.setSeq k x).captureBase = s.captureBase := rfl
@[simp] theorem State.setSeq_health (s : State) (k : Nat) (x : Seq) : (s.setSeq k x).health = s.health := rfl
@[simp] theorem State.setSeq_throt (s : State) (k : Nat) (x : Seq) : (s.setSeq k x).throt = s.throt := rfl
@[simp] theorem State.setSeq_wakes (s : State) (k : Nat) (x : Seq) : (s.setSeq k x).wakes = s.wakes := rfl
@[simp] theorem State.setSeq_rounds (s : State) (k : Nat) (x : Seq) : (s.setSeq k x).rounds = s.rounds := rfl
@[simp] theorem State.setSeq_contribs (s : State) (k : Nat) (x : Seq) : (s.setSeq k x).contribs = s.contribs := rfl
@[simp] theorem State.setSeq_ovl (s : State) (k : Nat) (x : Seq) : (s.setSeq k x).ovl = s.ovl := rfl
@[simp] theorem State.setSeq_deps (s : State) (k : Nat) (x : Seq) : (s.setSeq k x).deps = s.deps := rfl
@[simp] theorem State.setSeq_host (s : State) (k : Nat) (x : Seq) : (s.setSeq k x).host = s.host := rfl
@[simp] theorem State.setSeq_fabricOut (s : State) (k : Nat) (x : Seq) : (s.setSeq k x).fabricOut = s.fabricOut := rfl
@[simp] theorem State.setSeq_policy (s : State) (k : Nat) (x : Seq) : (s.setSeq k x).policy = s.policy := rfl
@[simp] theorem State.setSeq_time (s : State) (k : Nat) (x : Seq) : (s.setSeq k x).time = s.time := rfl
@[simp] theorem State.setSeq_cycles (s : State) (k : Nat) (x : Seq) : (s.setSeq k x).cycles = s.cycles := rfl
@[simp] theorem State.setSeq_pwin (s : State) (k : Nat) (x : Seq) : (s.setSeq k x).pwin = s.pwin := rfl
@[simp] theorem State.setSeq_chalt (s : State) (k : Nat) (x : Seq) : (s.setSeq k x).chalt = s.chalt := rfl
@[simp] theorem State.setSeq_taskCounter (s : State) (k : Nat) (x : Seq) : (s.setSeq k x).taskCounter = s.taskCounter := rfl
@[simp] theorem State.setSeq_nextUid (s : State) (k : Nat) (x : Seq) : (s.setSeq k x).nextUid = s.nextUid := rfl
@[simp] theorem State.setSeq_nextReq (s : State) (k : Nat) (x : Seq) : (s.setSeq k x).nextReq = s.nextReq := rfl
@[simp] theorem State.setSeq_fresh (s : State) (k : Nat) (x : Seq) : (s.setSeq k x).fresh = s.fresh := rfl
@[simp] theorem State.setSeq_cur (s : State) (k : Nat) (x : Seq) : (s.setSeq k x).cur = s.cur := rfl
@[simp] theorem State.setSeq_eager (s : State) (k : Nat) (x : Seq) : (s.setSeq k x).eager = s.eager := rfl
@[simp] theorem State.setSeq_agenda (s : State) (k : Nat) (x : Seq) : (s.setSeq k x).agenda = s.agenda := rfl
@[simp] theorem State.setSeq_choices (s : State) (k : Nat) (x : Seq) : (s.setSeq k x).choices = s.choices := rfl
@[simp] theorem State.setSeq_stalls (s : State) (k : Nat) (x : Seq) : (s.setSeq k x).stalls = s.stalls := rfl
@[simp] theorem State.setSeq_elapse (s : State) (k : Nat) (x : Seq) : (s.setSeq k x).elapse = s.elapse := rfl
@[simp] theorem State.setSeq_peerReads (s : State) (k : Nat) (x : Seq) : (s.setSeq k x).peerReads = s.peerReads := rfl
@[simp] theorem State.setSeq_shots (s : State) (k : Nat) (x : Seq) : (s.setSeq k x).shots = s.shots := rfl
@[simp] theorem State.setSeq_placements (s : State) (k : Nat) (x : Seq) : (s.setSeq k x).placements = s.placements := rfl
@[simp] theorem State.setSeq_turns (s : State) (k : Nat) (x : Seq) : (s.setSeq k x).turns = s.turns := rfl
@[simp] theorem State.setSeq_softs (s : State) (k : Nat) (x : Seq) : (s.setSeq k x).softs = s.softs := rfl
@[simp] theorem State.setSeq_delay (s : State) (k : Nat) (x : Seq) : (s.setSeq k x).delay = s.delay := rfl

@[simp] theorem State.setSlot_seqs (s : State) (k : Nat) (x : Slot) : (s.setSlot k x).seqs = s.seqs := rfl
@[simp] theorem State.setSlot_cores (s : State) (k : Nat) (x : Slot) : (s.setSlot k x).cores = s.cores := rfl
@[simp] theorem State.setSlot_mem (s : State) (k : Nat) (x : Slot) : (s.setSlot k x).mem = s.mem := rfl
@[simp] theorem State.setSlot_scratch (s : State) (k : Nat) (x : Slot) : (s.setSlot k x).scratch = s.scratch := rfl
@[simp] theorem State.setSlot_tiles (s : State) (k : Nat) (x : Slot) : (s.setSlot k x).tiles = s.tiles := rfl
@[simp] theorem State.setSlot_accs (s : State) (k : Nat) (x : Slot) : (s.setSlot k x).accs = s.accs := rfl
@[simp] theorem State.setSlot_tileGrant (s : State) (k : Nat) (x : Slot) : (s.setSlot k x).tileGrant = s.tileGrant := rfl
@[simp] theorem State.setSlot_accGrant (s : State) (k : Nat) (x : Slot) : (s.setSlot k x).accGrant = s.accGrant := rfl
@[simp] theorem State.setSlot_bad (s : State) (k : Nat) (x : Slot) : (s.setSlot k x).bad = s.bad := rfl
@[simp] theorem State.setSlot_ecc (s : State) (k : Nat) (x : Slot) : (s.setSlot k x).ecc = s.ecc := rfl
@[simp] theorem State.setSlot_tags (s : State) (k : Nat) (x : Slot) : (s.setSlot k x).tags = s.tags := rfl
@[simp] theorem State.setSlot_spill (s : State) (k : Nat) (x : Slot) : (s.setSlot k x).spill = s.spill := rfl
@[simp] theorem State.setSlot_peers (s : State) (k : Nat) (x : Slot) : (s.setSlot k x).peers = s.peers := rfl
@[simp] theorem State.setSlot_pool (s : State) (k : Nat) (x : Slot) : (s.setSlot k x).pool = s.pool := rfl
@[simp] theorem State.setSlot_caIndex (s : State) (k : Nat) (x : Slot) : (s.setSlot k x).caIndex = s.caIndex := rfl
@[simp] theorem State.setSlot_reclaimQ (s : State) (k : Nat) (x : Slot) : (s.setSlot k x).reclaimQ = s.reclaimQ := rfl
@[simp] theorem State.setSlot_peerIndex (s : State) (k : Nat) (x : Slot) : (s.setSlot k x).peerIndex = s.peerIndex := rfl
@[simp] theorem State.setSlot_unacked (s : State) (k : Nat) (x : Slot) : (s.setSlot k x).unacked = s.unacked := rfl
@[simp] theorem State.setSlot_cmds (s : State) (k : Nat) (x : Slot) : (s.setSlot k x).cmds = s.cmds := rfl
@[simp] theorem State.setSlot_requests (s : State) (k : Nat) (x : Slot) : (s.setSlot k x).requests = s.requests := rfl
@[simp] theorem State.setSlot_readies (s : State) (k : Nat) (x : Slot) : (s.setSlot k x).readies = s.readies := rfl
@[simp] theorem State.setSlot_allocs (s : State) (k : Nat) (x : Slot) : (s.setSlot k x).allocs = s.allocs := rfl
@[simp] theorem State.setSlot_holders (s : State) (k : Nat) (x : Slot) : (s.setSlot k x).holders = s.holders := rfl
@[simp] theorem State.setSlot_drains (s : State) (k : Nat) (x : Slot) : (s.setSlot k x).drains = s.drains := rfl
@[simp] theorem State.setSlot_rings (s : State) (k : Nat) (x : Slot) : (s.setSlot k x).rings = s.rings := rfl
@[simp] theorem State.setSlot_nextRec (s : State) (k : Nat) (x : Slot) : (s.setSlot k x).nextRec = s.nextRec := rfl
@[simp] theorem State.setSlot_nextOwner (s : State) (k : Nat) (x : Slot) : (s.setSlot k x).nextOwner = s.nextOwner := rfl
@[simp] theorem State.setSlot_saved (s : State) (k : Nat) (x : Slot) : (s.setSlot k x).saved = s.saved := rfl
@[simp] theorem State.setSlot_endings (s : State) (k : Nat) (x : Slot) : (s.setSlot k x).endings = s.endings := rfl
@[simp] theorem State.setSlot_haltedRegions (s : State) (k : Nat) (x : Slot) : (s.setSlot k x).haltedRegions = s.haltedRegions := rfl
@[simp] theorem State.setSlot_graphs (s : State) (k : Nat) (x : Slot) : (s.setSlot k x).graphs = s.graphs := rfl
@[simp] theorem State.setSlot_notices (s : State) (k : Nat) (x : Slot) : (s.setSlot k x).notices = s.notices := rfl
@[simp] theorem State.setSlot_replays (s : State) (k : Nat) (x : Slot) : (s.setSlot k x).replays = s.replays := rfl
@[simp] theorem State.setSlot_fetches (s : State) (k : Nat) (x : Slot) : (s.setSlot k x).fetches = s.fetches := rfl
@[simp] theorem State.setSlot_dirBase (s : State) (k : Nat) (x : Slot) : (s.setSlot k x).dirBase = s.dirBase := rfl
@[simp] theorem State.setSlot_dirEntries (s : State) (k : Nat) (x : Slot) : (s.setSlot k x).dirEntries = s.dirEntries := rfl
@[simp] theorem State.setSlot_spillBase (s : State) (k : Nat) (x : Slot) : (s.setSlot k x).spillBase = s.spillBase := rfl
@[simp] theorem State.setSlot_spillBytes (s : State) (k : Nat) (x : Slot) : (s.setSlot k x).spillBytes = s.spillBytes := rfl
@[simp] theorem State.setSlot_captureBase (s : State) (k : Nat) (x : Slot) : (s.setSlot k x).captureBase = s.captureBase := rfl
@[simp] theorem State.setSlot_health (s : State) (k : Nat) (x : Slot) : (s.setSlot k x).health = s.health := rfl
@[simp] theorem State.setSlot_throt (s : State) (k : Nat) (x : Slot) : (s.setSlot k x).throt = s.throt := rfl
@[simp] theorem State.setSlot_wakes (s : State) (k : Nat) (x : Slot) : (s.setSlot k x).wakes = s.wakes := rfl
@[simp] theorem State.setSlot_rounds (s : State) (k : Nat) (x : Slot) : (s.setSlot k x).rounds = s.rounds := rfl
@[simp] theorem State.setSlot_contribs (s : State) (k : Nat) (x : Slot) : (s.setSlot k x).contribs = s.contribs := rfl
@[simp] theorem State.setSlot_ovl (s : State) (k : Nat) (x : Slot) : (s.setSlot k x).ovl = s.ovl := rfl
@[simp] theorem State.setSlot_deps (s : State) (k : Nat) (x : Slot) : (s.setSlot k x).deps = s.deps := rfl
@[simp] theorem State.setSlot_host (s : State) (k : Nat) (x : Slot) : (s.setSlot k x).host = s.host := rfl
@[simp] theorem State.setSlot_fabricOut (s : State) (k : Nat) (x : Slot) : (s.setSlot k x).fabricOut = s.fabricOut := rfl
@[simp] theorem State.setSlot_policy (s : State) (k : Nat) (x : Slot) : (s.setSlot k x).policy = s.policy := rfl
@[simp] theorem State.setSlot_time (s : State) (k : Nat) (x : Slot) : (s.setSlot k x).time = s.time := rfl
@[simp] theorem State.setSlot_cycles (s : State) (k : Nat) (x : Slot) : (s.setSlot k x).cycles = s.cycles := rfl
@[simp] theorem State.setSlot_pwin (s : State) (k : Nat) (x : Slot) : (s.setSlot k x).pwin = s.pwin := rfl
@[simp] theorem State.setSlot_chalt (s : State) (k : Nat) (x : Slot) : (s.setSlot k x).chalt = s.chalt := rfl
@[simp] theorem State.setSlot_taskCounter (s : State) (k : Nat) (x : Slot) : (s.setSlot k x).taskCounter = s.taskCounter := rfl
@[simp] theorem State.setSlot_nextUid (s : State) (k : Nat) (x : Slot) : (s.setSlot k x).nextUid = s.nextUid := rfl
@[simp] theorem State.setSlot_nextReq (s : State) (k : Nat) (x : Slot) : (s.setSlot k x).nextReq = s.nextReq := rfl
@[simp] theorem State.setSlot_fresh (s : State) (k : Nat) (x : Slot) : (s.setSlot k x).fresh = s.fresh := rfl
@[simp] theorem State.setSlot_cur (s : State) (k : Nat) (x : Slot) : (s.setSlot k x).cur = s.cur := rfl
@[simp] theorem State.setSlot_eager (s : State) (k : Nat) (x : Slot) : (s.setSlot k x).eager = s.eager := rfl
@[simp] theorem State.setSlot_agenda (s : State) (k : Nat) (x : Slot) : (s.setSlot k x).agenda = s.agenda := rfl
@[simp] theorem State.setSlot_choices (s : State) (k : Nat) (x : Slot) : (s.setSlot k x).choices = s.choices := rfl
@[simp] theorem State.setSlot_stalls (s : State) (k : Nat) (x : Slot) : (s.setSlot k x).stalls = s.stalls := rfl
@[simp] theorem State.setSlot_elapse (s : State) (k : Nat) (x : Slot) : (s.setSlot k x).elapse = s.elapse := rfl
@[simp] theorem State.setSlot_peerReads (s : State) (k : Nat) (x : Slot) : (s.setSlot k x).peerReads = s.peerReads := rfl
@[simp] theorem State.setSlot_shots (s : State) (k : Nat) (x : Slot) : (s.setSlot k x).shots = s.shots := rfl
@[simp] theorem State.setSlot_placements (s : State) (k : Nat) (x : Slot) : (s.setSlot k x).placements = s.placements := rfl
@[simp] theorem State.setSlot_turns (s : State) (k : Nat) (x : Slot) : (s.setSlot k x).turns = s.turns := rfl
@[simp] theorem State.setSlot_softs (s : State) (k : Nat) (x : Slot) : (s.setSlot k x).softs = s.softs := rfl
@[simp] theorem State.setSlot_delay (s : State) (k : Nat) (x : Slot) : (s.setSlot k x).delay = s.delay := rfl

@[simp] theorem State.setCore_seqs (s : State) (k : Nat) (x : CoreSt) : (s.setCore k x).seqs = s.seqs := rfl
@[simp] theorem State.setCore_slots (s : State) (k : Nat) (x : CoreSt) : (s.setCore k x).slots = s.slots := rfl
@[simp] theorem State.setCore_mem (s : State) (k : Nat) (x : CoreSt) : (s.setCore k x).mem = s.mem := rfl
@[simp] theorem State.setCore_scratch (s : State) (k : Nat) (x : CoreSt) : (s.setCore k x).scratch = s.scratch := rfl
@[simp] theorem State.setCore_tiles (s : State) (k : Nat) (x : CoreSt) : (s.setCore k x).tiles = s.tiles := rfl
@[simp] theorem State.setCore_accs (s : State) (k : Nat) (x : CoreSt) : (s.setCore k x).accs = s.accs := rfl
@[simp] theorem State.setCore_tileGrant (s : State) (k : Nat) (x : CoreSt) : (s.setCore k x).tileGrant = s.tileGrant := rfl
@[simp] theorem State.setCore_accGrant (s : State) (k : Nat) (x : CoreSt) : (s.setCore k x).accGrant = s.accGrant := rfl
@[simp] theorem State.setCore_bad (s : State) (k : Nat) (x : CoreSt) : (s.setCore k x).bad = s.bad := rfl
@[simp] theorem State.setCore_ecc (s : State) (k : Nat) (x : CoreSt) : (s.setCore k x).ecc = s.ecc := rfl
@[simp] theorem State.setCore_tags (s : State) (k : Nat) (x : CoreSt) : (s.setCore k x).tags = s.tags := rfl
@[simp] theorem State.setCore_spill (s : State) (k : Nat) (x : CoreSt) : (s.setCore k x).spill = s.spill := rfl
@[simp] theorem State.setCore_peers (s : State) (k : Nat) (x : CoreSt) : (s.setCore k x).peers = s.peers := rfl
@[simp] theorem State.setCore_pool (s : State) (k : Nat) (x : CoreSt) : (s.setCore k x).pool = s.pool := rfl
@[simp] theorem State.setCore_caIndex (s : State) (k : Nat) (x : CoreSt) : (s.setCore k x).caIndex = s.caIndex := rfl
@[simp] theorem State.setCore_reclaimQ (s : State) (k : Nat) (x : CoreSt) : (s.setCore k x).reclaimQ = s.reclaimQ := rfl
@[simp] theorem State.setCore_peerIndex (s : State) (k : Nat) (x : CoreSt) : (s.setCore k x).peerIndex = s.peerIndex := rfl
@[simp] theorem State.setCore_unacked (s : State) (k : Nat) (x : CoreSt) : (s.setCore k x).unacked = s.unacked := rfl
@[simp] theorem State.setCore_cmds (s : State) (k : Nat) (x : CoreSt) : (s.setCore k x).cmds = s.cmds := rfl
@[simp] theorem State.setCore_requests (s : State) (k : Nat) (x : CoreSt) : (s.setCore k x).requests = s.requests := rfl
@[simp] theorem State.setCore_readies (s : State) (k : Nat) (x : CoreSt) : (s.setCore k x).readies = s.readies := rfl
@[simp] theorem State.setCore_allocs (s : State) (k : Nat) (x : CoreSt) : (s.setCore k x).allocs = s.allocs := rfl
@[simp] theorem State.setCore_holders (s : State) (k : Nat) (x : CoreSt) : (s.setCore k x).holders = s.holders := rfl
@[simp] theorem State.setCore_drains (s : State) (k : Nat) (x : CoreSt) : (s.setCore k x).drains = s.drains := rfl
@[simp] theorem State.setCore_rings (s : State) (k : Nat) (x : CoreSt) : (s.setCore k x).rings = s.rings := rfl
@[simp] theorem State.setCore_nextRec (s : State) (k : Nat) (x : CoreSt) : (s.setCore k x).nextRec = s.nextRec := rfl
@[simp] theorem State.setCore_nextOwner (s : State) (k : Nat) (x : CoreSt) : (s.setCore k x).nextOwner = s.nextOwner := rfl
@[simp] theorem State.setCore_saved (s : State) (k : Nat) (x : CoreSt) : (s.setCore k x).saved = s.saved := rfl
@[simp] theorem State.setCore_endings (s : State) (k : Nat) (x : CoreSt) : (s.setCore k x).endings = s.endings := rfl
@[simp] theorem State.setCore_haltedRegions (s : State) (k : Nat) (x : CoreSt) : (s.setCore k x).haltedRegions = s.haltedRegions := rfl
@[simp] theorem State.setCore_graphs (s : State) (k : Nat) (x : CoreSt) : (s.setCore k x).graphs = s.graphs := rfl
@[simp] theorem State.setCore_notices (s : State) (k : Nat) (x : CoreSt) : (s.setCore k x).notices = s.notices := rfl
@[simp] theorem State.setCore_replays (s : State) (k : Nat) (x : CoreSt) : (s.setCore k x).replays = s.replays := rfl
@[simp] theorem State.setCore_fetches (s : State) (k : Nat) (x : CoreSt) : (s.setCore k x).fetches = s.fetches := rfl
@[simp] theorem State.setCore_dirBase (s : State) (k : Nat) (x : CoreSt) : (s.setCore k x).dirBase = s.dirBase := rfl
@[simp] theorem State.setCore_dirEntries (s : State) (k : Nat) (x : CoreSt) : (s.setCore k x).dirEntries = s.dirEntries := rfl
@[simp] theorem State.setCore_spillBase (s : State) (k : Nat) (x : CoreSt) : (s.setCore k x).spillBase = s.spillBase := rfl
@[simp] theorem State.setCore_spillBytes (s : State) (k : Nat) (x : CoreSt) : (s.setCore k x).spillBytes = s.spillBytes := rfl
@[simp] theorem State.setCore_captureBase (s : State) (k : Nat) (x : CoreSt) : (s.setCore k x).captureBase = s.captureBase := rfl
@[simp] theorem State.setCore_health (s : State) (k : Nat) (x : CoreSt) : (s.setCore k x).health = s.health := rfl
@[simp] theorem State.setCore_throt (s : State) (k : Nat) (x : CoreSt) : (s.setCore k x).throt = s.throt := rfl
@[simp] theorem State.setCore_wakes (s : State) (k : Nat) (x : CoreSt) : (s.setCore k x).wakes = s.wakes := rfl
@[simp] theorem State.setCore_rounds (s : State) (k : Nat) (x : CoreSt) : (s.setCore k x).rounds = s.rounds := rfl
@[simp] theorem State.setCore_contribs (s : State) (k : Nat) (x : CoreSt) : (s.setCore k x).contribs = s.contribs := rfl
@[simp] theorem State.setCore_ovl (s : State) (k : Nat) (x : CoreSt) : (s.setCore k x).ovl = s.ovl := rfl
@[simp] theorem State.setCore_deps (s : State) (k : Nat) (x : CoreSt) : (s.setCore k x).deps = s.deps := rfl
@[simp] theorem State.setCore_host (s : State) (k : Nat) (x : CoreSt) : (s.setCore k x).host = s.host := rfl
@[simp] theorem State.setCore_fabricOut (s : State) (k : Nat) (x : CoreSt) : (s.setCore k x).fabricOut = s.fabricOut := rfl
@[simp] theorem State.setCore_policy (s : State) (k : Nat) (x : CoreSt) : (s.setCore k x).policy = s.policy := rfl
@[simp] theorem State.setCore_time (s : State) (k : Nat) (x : CoreSt) : (s.setCore k x).time = s.time := rfl
@[simp] theorem State.setCore_cycles (s : State) (k : Nat) (x : CoreSt) : (s.setCore k x).cycles = s.cycles := rfl
@[simp] theorem State.setCore_pwin (s : State) (k : Nat) (x : CoreSt) : (s.setCore k x).pwin = s.pwin := rfl
@[simp] theorem State.setCore_chalt (s : State) (k : Nat) (x : CoreSt) : (s.setCore k x).chalt = s.chalt := rfl
@[simp] theorem State.setCore_taskCounter (s : State) (k : Nat) (x : CoreSt) : (s.setCore k x).taskCounter = s.taskCounter := rfl
@[simp] theorem State.setCore_nextUid (s : State) (k : Nat) (x : CoreSt) : (s.setCore k x).nextUid = s.nextUid := rfl
@[simp] theorem State.setCore_nextReq (s : State) (k : Nat) (x : CoreSt) : (s.setCore k x).nextReq = s.nextReq := rfl
@[simp] theorem State.setCore_fresh (s : State) (k : Nat) (x : CoreSt) : (s.setCore k x).fresh = s.fresh := rfl
@[simp] theorem State.setCore_cur (s : State) (k : Nat) (x : CoreSt) : (s.setCore k x).cur = s.cur := rfl
@[simp] theorem State.setCore_eager (s : State) (k : Nat) (x : CoreSt) : (s.setCore k x).eager = s.eager := rfl
@[simp] theorem State.setCore_agenda (s : State) (k : Nat) (x : CoreSt) : (s.setCore k x).agenda = s.agenda := rfl
@[simp] theorem State.setCore_choices (s : State) (k : Nat) (x : CoreSt) : (s.setCore k x).choices = s.choices := rfl
@[simp] theorem State.setCore_stalls (s : State) (k : Nat) (x : CoreSt) : (s.setCore k x).stalls = s.stalls := rfl
@[simp] theorem State.setCore_elapse (s : State) (k : Nat) (x : CoreSt) : (s.setCore k x).elapse = s.elapse := rfl
@[simp] theorem State.setCore_peerReads (s : State) (k : Nat) (x : CoreSt) : (s.setCore k x).peerReads = s.peerReads := rfl
@[simp] theorem State.setCore_shots (s : State) (k : Nat) (x : CoreSt) : (s.setCore k x).shots = s.shots := rfl
@[simp] theorem State.setCore_placements (s : State) (k : Nat) (x : CoreSt) : (s.setCore k x).placements = s.placements := rfl
@[simp] theorem State.setCore_turns (s : State) (k : Nat) (x : CoreSt) : (s.setCore k x).turns = s.turns := rfl
@[simp] theorem State.setCore_softs (s : State) (k : Nat) (x : CoreSt) : (s.setCore k x).softs = s.softs := rfl
@[simp] theorem State.setCore_delay (s : State) (k : Nat) (x : CoreSt) : (s.setCore k x).delay = s.delay := rfl

@[simp] theorem State.setSeq_seq_self (s : State) (k : Nat) (x : Seq) : (s.setSeq k x).seq k = x := by
  simp [State.setSeq, State.seq]
theorem State.setSeq_seq_ne (s : State) (k j : Nat) (x : Seq) (h : j ≠ k) : (s.setSeq k x).seq j = s.seq j := by
  simp [State.setSeq, State.seq, Kv.get_put_ne _ _ _ _ _ h]
@[simp] theorem State.setSeq_slot (s : State) (k j : Nat) (x : Seq) : (s.setSeq k x).slot j = s.slot j := rfl
@[simp] theorem State.setSeq_core (s : State) (k j : Nat) (x : Seq) : (s.setSeq k x).core j = s.core j := rfl
@[simp] theorem State.setSlot_slot_self (s : State) (k : Nat) (x : Slot) : (s.setSlot k x).slot k = x := by
  simp [State.setSlot, State.slot]
theorem State.setSlot_slot_ne (s : State) (k j : Nat) (x : Slot) (h : j ≠ k) : (s.setSlot k x).slot j = s.slot j := by
  simp [State.setSlot, State.slot, Kv.get_put_ne _ _ _ _ _ h]
@[simp] theorem State.setSlot_seq (s : State) (k j : Nat) (x : Slot) : (s.setSlot k x).seq j = s.seq j := rfl
@[simp] theorem State.setSlot_core (s : State) (k j : Nat) (x : Slot) : (s.setSlot k x).core j = s.core j := rfl
@[simp] theorem State.setCore_core_self (s : State) (k : Nat) (x : CoreSt) : (s.setCore k x).core k = x := by
  simp [State.setCore, State.core]
theorem State.setCore_core_ne (s : State) (k j : Nat) (x : CoreSt) (h : j ≠ k) : (s.setCore k x).core j = s.core j := by
  simp [State.setCore, State.core, Kv.get_put_ne _ _ _ _ _ h]
@[simp] theorem State.setCore_seq (s : State) (k j : Nat) (x : CoreSt) : (s.setCore k x).seq j = s.seq j := rfl
@[simp] theorem State.setCore_slot (s : State) (k j : Nat) (x : CoreSt) : (s.setCore k x).slot j = s.slot j := rfl

/-! ### The same by a function -/

@[simp] theorem State.modSeq_slots (s : State) (k : Nat) (f : Seq → Seq) : (s.modSeq k f).slots = s.slots := rfl
@[simp] theorem State.modSeq_cores (s : State) (k : Nat) (f : Seq → Seq) : (s.modSeq k f).cores = s.cores := rfl
@[simp] theorem State.modSeq_mem (s : State) (k : Nat) (f : Seq → Seq) : (s.modSeq k f).mem = s.mem := rfl
@[simp] theorem State.modSeq_scratch (s : State) (k : Nat) (f : Seq → Seq) : (s.modSeq k f).scratch = s.scratch := rfl
@[simp] theorem State.modSeq_tiles (s : State) (k : Nat) (f : Seq → Seq) : (s.modSeq k f).tiles = s.tiles := rfl
@[simp] theorem State.modSeq_accs (s : State) (k : Nat) (f : Seq → Seq) : (s.modSeq k f).accs = s.accs := rfl
@[simp] theorem State.modSeq_tileGrant (s : State) (k : Nat) (f : Seq → Seq) : (s.modSeq k f).tileGrant = s.tileGrant := rfl
@[simp] theorem State.modSeq_accGrant (s : State) (k : Nat) (f : Seq → Seq) : (s.modSeq k f).accGrant = s.accGrant := rfl
@[simp] theorem State.modSeq_bad (s : State) (k : Nat) (f : Seq → Seq) : (s.modSeq k f).bad = s.bad := rfl
@[simp] theorem State.modSeq_ecc (s : State) (k : Nat) (f : Seq → Seq) : (s.modSeq k f).ecc = s.ecc := rfl
@[simp] theorem State.modSeq_tags (s : State) (k : Nat) (f : Seq → Seq) : (s.modSeq k f).tags = s.tags := rfl
@[simp] theorem State.modSeq_spill (s : State) (k : Nat) (f : Seq → Seq) : (s.modSeq k f).spill = s.spill := rfl
@[simp] theorem State.modSeq_peers (s : State) (k : Nat) (f : Seq → Seq) : (s.modSeq k f).peers = s.peers := rfl
@[simp] theorem State.modSeq_pool (s : State) (k : Nat) (f : Seq → Seq) : (s.modSeq k f).pool = s.pool := rfl
@[simp] theorem State.modSeq_caIndex (s : State) (k : Nat) (f : Seq → Seq) : (s.modSeq k f).caIndex = s.caIndex := rfl
@[simp] theorem State.modSeq_reclaimQ (s : State) (k : Nat) (f : Seq → Seq) : (s.modSeq k f).reclaimQ = s.reclaimQ := rfl
@[simp] theorem State.modSeq_peerIndex (s : State) (k : Nat) (f : Seq → Seq) : (s.modSeq k f).peerIndex = s.peerIndex := rfl
@[simp] theorem State.modSeq_unacked (s : State) (k : Nat) (f : Seq → Seq) : (s.modSeq k f).unacked = s.unacked := rfl
@[simp] theorem State.modSeq_cmds (s : State) (k : Nat) (f : Seq → Seq) : (s.modSeq k f).cmds = s.cmds := rfl
@[simp] theorem State.modSeq_requests (s : State) (k : Nat) (f : Seq → Seq) : (s.modSeq k f).requests = s.requests := rfl
@[simp] theorem State.modSeq_readies (s : State) (k : Nat) (f : Seq → Seq) : (s.modSeq k f).readies = s.readies := rfl
@[simp] theorem State.modSeq_allocs (s : State) (k : Nat) (f : Seq → Seq) : (s.modSeq k f).allocs = s.allocs := rfl
@[simp] theorem State.modSeq_holders (s : State) (k : Nat) (f : Seq → Seq) : (s.modSeq k f).holders = s.holders := rfl
@[simp] theorem State.modSeq_drains (s : State) (k : Nat) (f : Seq → Seq) : (s.modSeq k f).drains = s.drains := rfl
@[simp] theorem State.modSeq_rings (s : State) (k : Nat) (f : Seq → Seq) : (s.modSeq k f).rings = s.rings := rfl
@[simp] theorem State.modSeq_nextRec (s : State) (k : Nat) (f : Seq → Seq) : (s.modSeq k f).nextRec = s.nextRec := rfl
@[simp] theorem State.modSeq_nextOwner (s : State) (k : Nat) (f : Seq → Seq) : (s.modSeq k f).nextOwner = s.nextOwner := rfl
@[simp] theorem State.modSeq_saved (s : State) (k : Nat) (f : Seq → Seq) : (s.modSeq k f).saved = s.saved := rfl
@[simp] theorem State.modSeq_endings (s : State) (k : Nat) (f : Seq → Seq) : (s.modSeq k f).endings = s.endings := rfl
@[simp] theorem State.modSeq_haltedRegions (s : State) (k : Nat) (f : Seq → Seq) : (s.modSeq k f).haltedRegions = s.haltedRegions := rfl
@[simp] theorem State.modSeq_graphs (s : State) (k : Nat) (f : Seq → Seq) : (s.modSeq k f).graphs = s.graphs := rfl
@[simp] theorem State.modSeq_notices (s : State) (k : Nat) (f : Seq → Seq) : (s.modSeq k f).notices = s.notices := rfl
@[simp] theorem State.modSeq_replays (s : State) (k : Nat) (f : Seq → Seq) : (s.modSeq k f).replays = s.replays := rfl
@[simp] theorem State.modSeq_fetches (s : State) (k : Nat) (f : Seq → Seq) : (s.modSeq k f).fetches = s.fetches := rfl
@[simp] theorem State.modSeq_dirBase (s : State) (k : Nat) (f : Seq → Seq) : (s.modSeq k f).dirBase = s.dirBase := rfl
@[simp] theorem State.modSeq_dirEntries (s : State) (k : Nat) (f : Seq → Seq) : (s.modSeq k f).dirEntries = s.dirEntries := rfl
@[simp] theorem State.modSeq_spillBase (s : State) (k : Nat) (f : Seq → Seq) : (s.modSeq k f).spillBase = s.spillBase := rfl
@[simp] theorem State.modSeq_spillBytes (s : State) (k : Nat) (f : Seq → Seq) : (s.modSeq k f).spillBytes = s.spillBytes := rfl
@[simp] theorem State.modSeq_captureBase (s : State) (k : Nat) (f : Seq → Seq) : (s.modSeq k f).captureBase = s.captureBase := rfl
@[simp] theorem State.modSeq_health (s : State) (k : Nat) (f : Seq → Seq) : (s.modSeq k f).health = s.health := rfl
@[simp] theorem State.modSeq_throt (s : State) (k : Nat) (f : Seq → Seq) : (s.modSeq k f).throt = s.throt := rfl
@[simp] theorem State.modSeq_wakes (s : State) (k : Nat) (f : Seq → Seq) : (s.modSeq k f).wakes = s.wakes := rfl
@[simp] theorem State.modSeq_rounds (s : State) (k : Nat) (f : Seq → Seq) : (s.modSeq k f).rounds = s.rounds := rfl
@[simp] theorem State.modSeq_contribs (s : State) (k : Nat) (f : Seq → Seq) : (s.modSeq k f).contribs = s.contribs := rfl
@[simp] theorem State.modSeq_ovl (s : State) (k : Nat) (f : Seq → Seq) : (s.modSeq k f).ovl = s.ovl := rfl
@[simp] theorem State.modSeq_deps (s : State) (k : Nat) (f : Seq → Seq) : (s.modSeq k f).deps = s.deps := rfl
@[simp] theorem State.modSeq_host (s : State) (k : Nat) (f : Seq → Seq) : (s.modSeq k f).host = s.host := rfl
@[simp] theorem State.modSeq_fabricOut (s : State) (k : Nat) (f : Seq → Seq) : (s.modSeq k f).fabricOut = s.fabricOut := rfl
@[simp] theorem State.modSeq_policy (s : State) (k : Nat) (f : Seq → Seq) : (s.modSeq k f).policy = s.policy := rfl
@[simp] theorem State.modSeq_time (s : State) (k : Nat) (f : Seq → Seq) : (s.modSeq k f).time = s.time := rfl
@[simp] theorem State.modSeq_cycles (s : State) (k : Nat) (f : Seq → Seq) : (s.modSeq k f).cycles = s.cycles := rfl
@[simp] theorem State.modSeq_pwin (s : State) (k : Nat) (f : Seq → Seq) : (s.modSeq k f).pwin = s.pwin := rfl
@[simp] theorem State.modSeq_chalt (s : State) (k : Nat) (f : Seq → Seq) : (s.modSeq k f).chalt = s.chalt := rfl
@[simp] theorem State.modSeq_taskCounter (s : State) (k : Nat) (f : Seq → Seq) : (s.modSeq k f).taskCounter = s.taskCounter := rfl
@[simp] theorem State.modSeq_nextUid (s : State) (k : Nat) (f : Seq → Seq) : (s.modSeq k f).nextUid = s.nextUid := rfl
@[simp] theorem State.modSeq_nextReq (s : State) (k : Nat) (f : Seq → Seq) : (s.modSeq k f).nextReq = s.nextReq := rfl
@[simp] theorem State.modSeq_fresh (s : State) (k : Nat) (f : Seq → Seq) : (s.modSeq k f).fresh = s.fresh := rfl
@[simp] theorem State.modSeq_cur (s : State) (k : Nat) (f : Seq → Seq) : (s.modSeq k f).cur = s.cur := rfl
@[simp] theorem State.modSeq_eager (s : State) (k : Nat) (f : Seq → Seq) : (s.modSeq k f).eager = s.eager := rfl
@[simp] theorem State.modSeq_agenda (s : State) (k : Nat) (f : Seq → Seq) : (s.modSeq k f).agenda = s.agenda := rfl
@[simp] theorem State.modSeq_choices (s : State) (k : Nat) (f : Seq → Seq) : (s.modSeq k f).choices = s.choices := rfl
@[simp] theorem State.modSeq_stalls (s : State) (k : Nat) (f : Seq → Seq) : (s.modSeq k f).stalls = s.stalls := rfl
@[simp] theorem State.modSeq_elapse (s : State) (k : Nat) (f : Seq → Seq) : (s.modSeq k f).elapse = s.elapse := rfl
@[simp] theorem State.modSeq_peerReads (s : State) (k : Nat) (f : Seq → Seq) : (s.modSeq k f).peerReads = s.peerReads := rfl
@[simp] theorem State.modSeq_shots (s : State) (k : Nat) (f : Seq → Seq) : (s.modSeq k f).shots = s.shots := rfl
@[simp] theorem State.modSeq_placements (s : State) (k : Nat) (f : Seq → Seq) : (s.modSeq k f).placements = s.placements := rfl
@[simp] theorem State.modSeq_turns (s : State) (k : Nat) (f : Seq → Seq) : (s.modSeq k f).turns = s.turns := rfl
@[simp] theorem State.modSeq_softs (s : State) (k : Nat) (f : Seq → Seq) : (s.modSeq k f).softs = s.softs := rfl
@[simp] theorem State.modSeq_delay (s : State) (k : Nat) (f : Seq → Seq) : (s.modSeq k f).delay = s.delay := rfl
@[simp] theorem State.modSeq_seq_self (s : State) (k : Nat) (f : Seq → Seq) : (s.modSeq k f).seq k = f (s.seq k) := by
  simp [State.modSeq]
theorem State.modSeq_seq_ne (s : State) (k j : Nat) (f : Seq → Seq) (h : j ≠ k) : (s.modSeq k f).seq j = s.seq j := by
  simp [State.modSeq, State.setSeq_seq_ne _ _ _ _ h]
@[simp] theorem State.modSeq_slot (s : State) (k j : Nat) (f : Seq → Seq) : (s.modSeq k f).slot j = s.slot j := rfl
@[simp] theorem State.modSeq_core (s : State) (k j : Nat) (f : Seq → Seq) : (s.modSeq k f).core j = s.core j := rfl

@[simp] theorem State.modSlot_seqs (s : State) (k : Nat) (f : Slot → Slot) : (s.modSlot k f).seqs = s.seqs := rfl
@[simp] theorem State.modSlot_cores (s : State) (k : Nat) (f : Slot → Slot) : (s.modSlot k f).cores = s.cores := rfl
@[simp] theorem State.modSlot_mem (s : State) (k : Nat) (f : Slot → Slot) : (s.modSlot k f).mem = s.mem := rfl
@[simp] theorem State.modSlot_scratch (s : State) (k : Nat) (f : Slot → Slot) : (s.modSlot k f).scratch = s.scratch := rfl
@[simp] theorem State.modSlot_tiles (s : State) (k : Nat) (f : Slot → Slot) : (s.modSlot k f).tiles = s.tiles := rfl
@[simp] theorem State.modSlot_accs (s : State) (k : Nat) (f : Slot → Slot) : (s.modSlot k f).accs = s.accs := rfl
@[simp] theorem State.modSlot_tileGrant (s : State) (k : Nat) (f : Slot → Slot) : (s.modSlot k f).tileGrant = s.tileGrant := rfl
@[simp] theorem State.modSlot_accGrant (s : State) (k : Nat) (f : Slot → Slot) : (s.modSlot k f).accGrant = s.accGrant := rfl
@[simp] theorem State.modSlot_bad (s : State) (k : Nat) (f : Slot → Slot) : (s.modSlot k f).bad = s.bad := rfl
@[simp] theorem State.modSlot_ecc (s : State) (k : Nat) (f : Slot → Slot) : (s.modSlot k f).ecc = s.ecc := rfl
@[simp] theorem State.modSlot_tags (s : State) (k : Nat) (f : Slot → Slot) : (s.modSlot k f).tags = s.tags := rfl
@[simp] theorem State.modSlot_spill (s : State) (k : Nat) (f : Slot → Slot) : (s.modSlot k f).spill = s.spill := rfl
@[simp] theorem State.modSlot_peers (s : State) (k : Nat) (f : Slot → Slot) : (s.modSlot k f).peers = s.peers := rfl
@[simp] theorem State.modSlot_pool (s : State) (k : Nat) (f : Slot → Slot) : (s.modSlot k f).pool = s.pool := rfl
@[simp] theorem State.modSlot_caIndex (s : State) (k : Nat) (f : Slot → Slot) : (s.modSlot k f).caIndex = s.caIndex := rfl
@[simp] theorem State.modSlot_reclaimQ (s : State) (k : Nat) (f : Slot → Slot) : (s.modSlot k f).reclaimQ = s.reclaimQ := rfl
@[simp] theorem State.modSlot_peerIndex (s : State) (k : Nat) (f : Slot → Slot) : (s.modSlot k f).peerIndex = s.peerIndex := rfl
@[simp] theorem State.modSlot_unacked (s : State) (k : Nat) (f : Slot → Slot) : (s.modSlot k f).unacked = s.unacked := rfl
@[simp] theorem State.modSlot_cmds (s : State) (k : Nat) (f : Slot → Slot) : (s.modSlot k f).cmds = s.cmds := rfl
@[simp] theorem State.modSlot_requests (s : State) (k : Nat) (f : Slot → Slot) : (s.modSlot k f).requests = s.requests := rfl
@[simp] theorem State.modSlot_readies (s : State) (k : Nat) (f : Slot → Slot) : (s.modSlot k f).readies = s.readies := rfl
@[simp] theorem State.modSlot_allocs (s : State) (k : Nat) (f : Slot → Slot) : (s.modSlot k f).allocs = s.allocs := rfl
@[simp] theorem State.modSlot_holders (s : State) (k : Nat) (f : Slot → Slot) : (s.modSlot k f).holders = s.holders := rfl
@[simp] theorem State.modSlot_drains (s : State) (k : Nat) (f : Slot → Slot) : (s.modSlot k f).drains = s.drains := rfl
@[simp] theorem State.modSlot_rings (s : State) (k : Nat) (f : Slot → Slot) : (s.modSlot k f).rings = s.rings := rfl
@[simp] theorem State.modSlot_nextRec (s : State) (k : Nat) (f : Slot → Slot) : (s.modSlot k f).nextRec = s.nextRec := rfl
@[simp] theorem State.modSlot_nextOwner (s : State) (k : Nat) (f : Slot → Slot) : (s.modSlot k f).nextOwner = s.nextOwner := rfl
@[simp] theorem State.modSlot_saved (s : State) (k : Nat) (f : Slot → Slot) : (s.modSlot k f).saved = s.saved := rfl
@[simp] theorem State.modSlot_endings (s : State) (k : Nat) (f : Slot → Slot) : (s.modSlot k f).endings = s.endings := rfl
@[simp] theorem State.modSlot_haltedRegions (s : State) (k : Nat) (f : Slot → Slot) : (s.modSlot k f).haltedRegions = s.haltedRegions := rfl
@[simp] theorem State.modSlot_graphs (s : State) (k : Nat) (f : Slot → Slot) : (s.modSlot k f).graphs = s.graphs := rfl
@[simp] theorem State.modSlot_notices (s : State) (k : Nat) (f : Slot → Slot) : (s.modSlot k f).notices = s.notices := rfl
@[simp] theorem State.modSlot_replays (s : State) (k : Nat) (f : Slot → Slot) : (s.modSlot k f).replays = s.replays := rfl
@[simp] theorem State.modSlot_fetches (s : State) (k : Nat) (f : Slot → Slot) : (s.modSlot k f).fetches = s.fetches := rfl
@[simp] theorem State.modSlot_dirBase (s : State) (k : Nat) (f : Slot → Slot) : (s.modSlot k f).dirBase = s.dirBase := rfl
@[simp] theorem State.modSlot_dirEntries (s : State) (k : Nat) (f : Slot → Slot) : (s.modSlot k f).dirEntries = s.dirEntries := rfl
@[simp] theorem State.modSlot_spillBase (s : State) (k : Nat) (f : Slot → Slot) : (s.modSlot k f).spillBase = s.spillBase := rfl
@[simp] theorem State.modSlot_spillBytes (s : State) (k : Nat) (f : Slot → Slot) : (s.modSlot k f).spillBytes = s.spillBytes := rfl
@[simp] theorem State.modSlot_captureBase (s : State) (k : Nat) (f : Slot → Slot) : (s.modSlot k f).captureBase = s.captureBase := rfl
@[simp] theorem State.modSlot_health (s : State) (k : Nat) (f : Slot → Slot) : (s.modSlot k f).health = s.health := rfl
@[simp] theorem State.modSlot_throt (s : State) (k : Nat) (f : Slot → Slot) : (s.modSlot k f).throt = s.throt := rfl
@[simp] theorem State.modSlot_wakes (s : State) (k : Nat) (f : Slot → Slot) : (s.modSlot k f).wakes = s.wakes := rfl
@[simp] theorem State.modSlot_rounds (s : State) (k : Nat) (f : Slot → Slot) : (s.modSlot k f).rounds = s.rounds := rfl
@[simp] theorem State.modSlot_contribs (s : State) (k : Nat) (f : Slot → Slot) : (s.modSlot k f).contribs = s.contribs := rfl
@[simp] theorem State.modSlot_ovl (s : State) (k : Nat) (f : Slot → Slot) : (s.modSlot k f).ovl = s.ovl := rfl
@[simp] theorem State.modSlot_deps (s : State) (k : Nat) (f : Slot → Slot) : (s.modSlot k f).deps = s.deps := rfl
@[simp] theorem State.modSlot_host (s : State) (k : Nat) (f : Slot → Slot) : (s.modSlot k f).host = s.host := rfl
@[simp] theorem State.modSlot_fabricOut (s : State) (k : Nat) (f : Slot → Slot) : (s.modSlot k f).fabricOut = s.fabricOut := rfl
@[simp] theorem State.modSlot_policy (s : State) (k : Nat) (f : Slot → Slot) : (s.modSlot k f).policy = s.policy := rfl
@[simp] theorem State.modSlot_time (s : State) (k : Nat) (f : Slot → Slot) : (s.modSlot k f).time = s.time := rfl
@[simp] theorem State.modSlot_cycles (s : State) (k : Nat) (f : Slot → Slot) : (s.modSlot k f).cycles = s.cycles := rfl
@[simp] theorem State.modSlot_pwin (s : State) (k : Nat) (f : Slot → Slot) : (s.modSlot k f).pwin = s.pwin := rfl
@[simp] theorem State.modSlot_chalt (s : State) (k : Nat) (f : Slot → Slot) : (s.modSlot k f).chalt = s.chalt := rfl
@[simp] theorem State.modSlot_taskCounter (s : State) (k : Nat) (f : Slot → Slot) : (s.modSlot k f).taskCounter = s.taskCounter := rfl
@[simp] theorem State.modSlot_nextUid (s : State) (k : Nat) (f : Slot → Slot) : (s.modSlot k f).nextUid = s.nextUid := rfl
@[simp] theorem State.modSlot_nextReq (s : State) (k : Nat) (f : Slot → Slot) : (s.modSlot k f).nextReq = s.nextReq := rfl
@[simp] theorem State.modSlot_fresh (s : State) (k : Nat) (f : Slot → Slot) : (s.modSlot k f).fresh = s.fresh := rfl
@[simp] theorem State.modSlot_cur (s : State) (k : Nat) (f : Slot → Slot) : (s.modSlot k f).cur = s.cur := rfl
@[simp] theorem State.modSlot_eager (s : State) (k : Nat) (f : Slot → Slot) : (s.modSlot k f).eager = s.eager := rfl
@[simp] theorem State.modSlot_agenda (s : State) (k : Nat) (f : Slot → Slot) : (s.modSlot k f).agenda = s.agenda := rfl
@[simp] theorem State.modSlot_choices (s : State) (k : Nat) (f : Slot → Slot) : (s.modSlot k f).choices = s.choices := rfl
@[simp] theorem State.modSlot_stalls (s : State) (k : Nat) (f : Slot → Slot) : (s.modSlot k f).stalls = s.stalls := rfl
@[simp] theorem State.modSlot_elapse (s : State) (k : Nat) (f : Slot → Slot) : (s.modSlot k f).elapse = s.elapse := rfl
@[simp] theorem State.modSlot_peerReads (s : State) (k : Nat) (f : Slot → Slot) : (s.modSlot k f).peerReads = s.peerReads := rfl
@[simp] theorem State.modSlot_shots (s : State) (k : Nat) (f : Slot → Slot) : (s.modSlot k f).shots = s.shots := rfl
@[simp] theorem State.modSlot_placements (s : State) (k : Nat) (f : Slot → Slot) : (s.modSlot k f).placements = s.placements := rfl
@[simp] theorem State.modSlot_turns (s : State) (k : Nat) (f : Slot → Slot) : (s.modSlot k f).turns = s.turns := rfl
@[simp] theorem State.modSlot_softs (s : State) (k : Nat) (f : Slot → Slot) : (s.modSlot k f).softs = s.softs := rfl
@[simp] theorem State.modSlot_delay (s : State) (k : Nat) (f : Slot → Slot) : (s.modSlot k f).delay = s.delay := rfl
@[simp] theorem State.modSlot_slot_self (s : State) (k : Nat) (f : Slot → Slot) : (s.modSlot k f).slot k = f (s.slot k) := by
  simp [State.modSlot]
theorem State.modSlot_slot_ne (s : State) (k j : Nat) (f : Slot → Slot) (h : j ≠ k) : (s.modSlot k f).slot j = s.slot j := by
  simp [State.modSlot, State.setSlot_slot_ne _ _ _ _ h]
@[simp] theorem State.modSlot_seq (s : State) (k j : Nat) (f : Slot → Slot) : (s.modSlot k f).seq j = s.seq j := rfl
@[simp] theorem State.modSlot_core (s : State) (k j : Nat) (f : Slot → Slot) : (s.modSlot k f).core j = s.core j := rfl

@[simp] theorem State.modCore_seqs (s : State) (k : Nat) (f : CoreSt → CoreSt) : (s.modCore k f).seqs = s.seqs := rfl
@[simp] theorem State.modCore_slots (s : State) (k : Nat) (f : CoreSt → CoreSt) : (s.modCore k f).slots = s.slots := rfl
@[simp] theorem State.modCore_mem (s : State) (k : Nat) (f : CoreSt → CoreSt) : (s.modCore k f).mem = s.mem := rfl
@[simp] theorem State.modCore_scratch (s : State) (k : Nat) (f : CoreSt → CoreSt) : (s.modCore k f).scratch = s.scratch := rfl
@[simp] theorem State.modCore_tiles (s : State) (k : Nat) (f : CoreSt → CoreSt) : (s.modCore k f).tiles = s.tiles := rfl
@[simp] theorem State.modCore_accs (s : State) (k : Nat) (f : CoreSt → CoreSt) : (s.modCore k f).accs = s.accs := rfl
@[simp] theorem State.modCore_tileGrant (s : State) (k : Nat) (f : CoreSt → CoreSt) : (s.modCore k f).tileGrant = s.tileGrant := rfl
@[simp] theorem State.modCore_accGrant (s : State) (k : Nat) (f : CoreSt → CoreSt) : (s.modCore k f).accGrant = s.accGrant := rfl
@[simp] theorem State.modCore_bad (s : State) (k : Nat) (f : CoreSt → CoreSt) : (s.modCore k f).bad = s.bad := rfl
@[simp] theorem State.modCore_ecc (s : State) (k : Nat) (f : CoreSt → CoreSt) : (s.modCore k f).ecc = s.ecc := rfl
@[simp] theorem State.modCore_tags (s : State) (k : Nat) (f : CoreSt → CoreSt) : (s.modCore k f).tags = s.tags := rfl
@[simp] theorem State.modCore_spill (s : State) (k : Nat) (f : CoreSt → CoreSt) : (s.modCore k f).spill = s.spill := rfl
@[simp] theorem State.modCore_peers (s : State) (k : Nat) (f : CoreSt → CoreSt) : (s.modCore k f).peers = s.peers := rfl
@[simp] theorem State.modCore_pool (s : State) (k : Nat) (f : CoreSt → CoreSt) : (s.modCore k f).pool = s.pool := rfl
@[simp] theorem State.modCore_caIndex (s : State) (k : Nat) (f : CoreSt → CoreSt) : (s.modCore k f).caIndex = s.caIndex := rfl
@[simp] theorem State.modCore_reclaimQ (s : State) (k : Nat) (f : CoreSt → CoreSt) : (s.modCore k f).reclaimQ = s.reclaimQ := rfl
@[simp] theorem State.modCore_peerIndex (s : State) (k : Nat) (f : CoreSt → CoreSt) : (s.modCore k f).peerIndex = s.peerIndex := rfl
@[simp] theorem State.modCore_unacked (s : State) (k : Nat) (f : CoreSt → CoreSt) : (s.modCore k f).unacked = s.unacked := rfl
@[simp] theorem State.modCore_cmds (s : State) (k : Nat) (f : CoreSt → CoreSt) : (s.modCore k f).cmds = s.cmds := rfl
@[simp] theorem State.modCore_requests (s : State) (k : Nat) (f : CoreSt → CoreSt) : (s.modCore k f).requests = s.requests := rfl
@[simp] theorem State.modCore_readies (s : State) (k : Nat) (f : CoreSt → CoreSt) : (s.modCore k f).readies = s.readies := rfl
@[simp] theorem State.modCore_allocs (s : State) (k : Nat) (f : CoreSt → CoreSt) : (s.modCore k f).allocs = s.allocs := rfl
@[simp] theorem State.modCore_holders (s : State) (k : Nat) (f : CoreSt → CoreSt) : (s.modCore k f).holders = s.holders := rfl
@[simp] theorem State.modCore_drains (s : State) (k : Nat) (f : CoreSt → CoreSt) : (s.modCore k f).drains = s.drains := rfl
@[simp] theorem State.modCore_rings (s : State) (k : Nat) (f : CoreSt → CoreSt) : (s.modCore k f).rings = s.rings := rfl
@[simp] theorem State.modCore_nextRec (s : State) (k : Nat) (f : CoreSt → CoreSt) : (s.modCore k f).nextRec = s.nextRec := rfl
@[simp] theorem State.modCore_nextOwner (s : State) (k : Nat) (f : CoreSt → CoreSt) : (s.modCore k f).nextOwner = s.nextOwner := rfl
@[simp] theorem State.modCore_saved (s : State) (k : Nat) (f : CoreSt → CoreSt) : (s.modCore k f).saved = s.saved := rfl
@[simp] theorem State.modCore_endings (s : State) (k : Nat) (f : CoreSt → CoreSt) : (s.modCore k f).endings = s.endings := rfl
@[simp] theorem State.modCore_haltedRegions (s : State) (k : Nat) (f : CoreSt → CoreSt) : (s.modCore k f).haltedRegions = s.haltedRegions := rfl
@[simp] theorem State.modCore_graphs (s : State) (k : Nat) (f : CoreSt → CoreSt) : (s.modCore k f).graphs = s.graphs := rfl
@[simp] theorem State.modCore_notices (s : State) (k : Nat) (f : CoreSt → CoreSt) : (s.modCore k f).notices = s.notices := rfl
@[simp] theorem State.modCore_replays (s : State) (k : Nat) (f : CoreSt → CoreSt) : (s.modCore k f).replays = s.replays := rfl
@[simp] theorem State.modCore_fetches (s : State) (k : Nat) (f : CoreSt → CoreSt) : (s.modCore k f).fetches = s.fetches := rfl
@[simp] theorem State.modCore_dirBase (s : State) (k : Nat) (f : CoreSt → CoreSt) : (s.modCore k f).dirBase = s.dirBase := rfl
@[simp] theorem State.modCore_dirEntries (s : State) (k : Nat) (f : CoreSt → CoreSt) : (s.modCore k f).dirEntries = s.dirEntries := rfl
@[simp] theorem State.modCore_spillBase (s : State) (k : Nat) (f : CoreSt → CoreSt) : (s.modCore k f).spillBase = s.spillBase := rfl
@[simp] theorem State.modCore_spillBytes (s : State) (k : Nat) (f : CoreSt → CoreSt) : (s.modCore k f).spillBytes = s.spillBytes := rfl
@[simp] theorem State.modCore_captureBase (s : State) (k : Nat) (f : CoreSt → CoreSt) : (s.modCore k f).captureBase = s.captureBase := rfl
@[simp] theorem State.modCore_health (s : State) (k : Nat) (f : CoreSt → CoreSt) : (s.modCore k f).health = s.health := rfl
@[simp] theorem State.modCore_throt (s : State) (k : Nat) (f : CoreSt → CoreSt) : (s.modCore k f).throt = s.throt := rfl
@[simp] theorem State.modCore_wakes (s : State) (k : Nat) (f : CoreSt → CoreSt) : (s.modCore k f).wakes = s.wakes := rfl
@[simp] theorem State.modCore_rounds (s : State) (k : Nat) (f : CoreSt → CoreSt) : (s.modCore k f).rounds = s.rounds := rfl
@[simp] theorem State.modCore_contribs (s : State) (k : Nat) (f : CoreSt → CoreSt) : (s.modCore k f).contribs = s.contribs := rfl
@[simp] theorem State.modCore_ovl (s : State) (k : Nat) (f : CoreSt → CoreSt) : (s.modCore k f).ovl = s.ovl := rfl
@[simp] theorem State.modCore_deps (s : State) (k : Nat) (f : CoreSt → CoreSt) : (s.modCore k f).deps = s.deps := rfl
@[simp] theorem State.modCore_host (s : State) (k : Nat) (f : CoreSt → CoreSt) : (s.modCore k f).host = s.host := rfl
@[simp] theorem State.modCore_fabricOut (s : State) (k : Nat) (f : CoreSt → CoreSt) : (s.modCore k f).fabricOut = s.fabricOut := rfl
@[simp] theorem State.modCore_policy (s : State) (k : Nat) (f : CoreSt → CoreSt) : (s.modCore k f).policy = s.policy := rfl
@[simp] theorem State.modCore_time (s : State) (k : Nat) (f : CoreSt → CoreSt) : (s.modCore k f).time = s.time := rfl
@[simp] theorem State.modCore_cycles (s : State) (k : Nat) (f : CoreSt → CoreSt) : (s.modCore k f).cycles = s.cycles := rfl
@[simp] theorem State.modCore_pwin (s : State) (k : Nat) (f : CoreSt → CoreSt) : (s.modCore k f).pwin = s.pwin := rfl
@[simp] theorem State.modCore_chalt (s : State) (k : Nat) (f : CoreSt → CoreSt) : (s.modCore k f).chalt = s.chalt := rfl
@[simp] theorem State.modCore_taskCounter (s : State) (k : Nat) (f : CoreSt → CoreSt) : (s.modCore k f).taskCounter = s.taskCounter := rfl
@[simp] theorem State.modCore_nextUid (s : State) (k : Nat) (f : CoreSt → CoreSt) : (s.modCore k f).nextUid = s.nextUid := rfl
@[simp] theorem State.modCore_nextReq (s : State) (k : Nat) (f : CoreSt → CoreSt) : (s.modCore k f).nextReq = s.nextReq := rfl
@[simp] theorem State.modCore_fresh (s : State) (k : Nat) (f : CoreSt → CoreSt) : (s.modCore k f).fresh = s.fresh := rfl
@[simp] theorem State.modCore_cur (s : State) (k : Nat) (f : CoreSt → CoreSt) : (s.modCore k f).cur = s.cur := rfl
@[simp] theorem State.modCore_eager (s : State) (k : Nat) (f : CoreSt → CoreSt) : (s.modCore k f).eager = s.eager := rfl
@[simp] theorem State.modCore_agenda (s : State) (k : Nat) (f : CoreSt → CoreSt) : (s.modCore k f).agenda = s.agenda := rfl
@[simp] theorem State.modCore_choices (s : State) (k : Nat) (f : CoreSt → CoreSt) : (s.modCore k f).choices = s.choices := rfl
@[simp] theorem State.modCore_stalls (s : State) (k : Nat) (f : CoreSt → CoreSt) : (s.modCore k f).stalls = s.stalls := rfl
@[simp] theorem State.modCore_elapse (s : State) (k : Nat) (f : CoreSt → CoreSt) : (s.modCore k f).elapse = s.elapse := rfl
@[simp] theorem State.modCore_peerReads (s : State) (k : Nat) (f : CoreSt → CoreSt) : (s.modCore k f).peerReads = s.peerReads := rfl
@[simp] theorem State.modCore_shots (s : State) (k : Nat) (f : CoreSt → CoreSt) : (s.modCore k f).shots = s.shots := rfl
@[simp] theorem State.modCore_placements (s : State) (k : Nat) (f : CoreSt → CoreSt) : (s.modCore k f).placements = s.placements := rfl
@[simp] theorem State.modCore_turns (s : State) (k : Nat) (f : CoreSt → CoreSt) : (s.modCore k f).turns = s.turns := rfl
@[simp] theorem State.modCore_softs (s : State) (k : Nat) (f : CoreSt → CoreSt) : (s.modCore k f).softs = s.softs := rfl
@[simp] theorem State.modCore_delay (s : State) (k : Nat) (f : CoreSt → CoreSt) : (s.modCore k f).delay = s.delay := rfl
@[simp] theorem State.modCore_core_self (s : State) (k : Nat) (f : CoreSt → CoreSt) : (s.modCore k f).core k = f (s.core k) := by
  simp [State.modCore]
theorem State.modCore_core_ne (s : State) (k j : Nat) (f : CoreSt → CoreSt) (h : j ≠ k) : (s.modCore k f).core j = s.core j := by
  simp [State.modCore, State.setCore_core_ne _ _ _ _ h]
@[simp] theorem State.modCore_seq (s : State) (k j : Nat) (f : CoreSt → CoreSt) : (s.modCore k f).seq j = s.seq j := rfl
@[simp] theorem State.modCore_slot (s : State) (k j : Nat) (f : CoreSt → CoreSt) : (s.modCore k f).slot j = s.slot j := rfl

/-! ### Registers and the program counter -/

@[simp] theorem State.reg_zero (s : State) (k : Nat) : s.reg k 0 = 0 := by simp [State.reg]

/-- A register read after a register write of the same sequencer: s0 stays zero. -/
theorem State.setReg_reg (s : State) (k : Nat) (d r : BitVec 5) (v : Word) :
    (s.setReg k d v).reg k r = if r = d ∧ d ≠ 0 then v else s.reg k r := by
  unfold State.setReg State.reg
  by_cases hd : d = 0
  · simp [hd]
  · simp only [hd, if_false, State.setSeq_seq_self, not_false_eq_true, and_true, ne_eq]
    by_cases hr : r = 0
    · have h0 : ¬ r = d := fun h => hd (h ▸ hr)
      rw [if_pos hr, if_pos hr, if_neg h0]
    · rw [if_neg hr, if_neg hr, Kv.get_put]
      by_cases h : r = d
      · simp [h]
      · have : r.toNat ≠ d.toNat := fun e => h (BitVec.eq_of_toNat_eq e)
        simp [h, this]

theorem State.setReg_zero (s : State) (k : Nat) (v : Word) : s.setReg k 0 v = s := by simp [State.setReg]

@[simp] theorem State.setReg_slot (s : State) (k j : Nat) (d : BitVec 5) (v : Word) : (s.setReg k d v).slot j = s.slot j := by
  unfold State.setReg; split <;> rfl
@[simp] theorem State.setReg_core (s : State) (k j : Nat) (d : BitVec 5) (v : Word) : (s.setReg k d v).core j = s.core j := by
  unfold State.setReg; split <;> rfl
theorem State.setReg_seq_ne (s : State) (k j : Nat) (d : BitVec 5) (v : Word) (h : j ≠ k) : (s.setReg k d v).seq j = s.seq j := by
  unfold State.setReg; split
  · rfl
  · exact State.setSeq_seq_ne _ _ _ _ h

/-- A register write changes the registers of its sequencer alone. -/
theorem State.setReg_seq_self (s : State) (k : Nat) (d : BitVec 5) (v : Word) :
    (s.setReg k d v).seq k = { s.seq k with regs := ((s.setReg k d v).seq k).regs } := by
  unfold State.setReg; split
  · rfl
  · simp

/-- A register write changes nothing but the list of sequencers. -/
theorem State.setReg_frame (s : State) (k : Nat) (d : BitVec 5) (v : Word) :
    s.setReg k d v = { s with seqs := (s.setReg k d v).seqs } := by
  unfold State.setReg; split <;> rfl

@[simp] theorem State.setPc_slot (s : State) (k j : Nat) (v : Word) : (s.setPc k v).slot j = s.slot j := rfl
@[simp] theorem State.setPc_core (s : State) (k j : Nat) (v : Word) : (s.setPc k v).core j = s.core j := rfl
@[simp] theorem State.setPc_pc (s : State) (k : Nat) (v : Word) : (s.setPc k v).pc k = v := by simp [State.setPc, State.pc]
@[simp] theorem State.setPc_reg (s : State) (k : Nat) (v : Word) (r : BitVec 5) : (s.setPc k v).reg k r = s.reg k r := by
  simp [State.setPc, State.reg]
@[simp] theorem State.setReg_pc (s : State) (k : Nat) (d : BitVec 5) (v : Word) : (s.setReg k d v).pc k = s.pc k := by
  unfold State.setReg State.pc; split <;> simp

end Sys2Proof.Machine
end

