-- ==== Sys2Proof/Laws/Issue.lean ====
section
/-! SUPPORT. Everything the shared issue of short instructions can do (R28, R45, R171). -/

namespace Sys2Proof.Machine

/-- A sequencer that may not issue leaves the state as it is. -/
theorem issueShort_idle (f : Form) (pre eff : State → Res) (s : State) (h : s.canIssue s.cur = false) :
    issueShort f pre eff s = s := by
  simp [issueShort, h]

/-- A field that is reserved, or a role that the table does not admit: the illegal-instruction trap (R45). -/
theorem issueShort_illegal (f : Form) (pre eff : State → Res) (s : State) (h : s.canIssue s.cur = true)
    (hf : f.ok = false ∨ f.roles (slotNum (slotKey s.cur)) (roleOf s.cur) = false) :
    issueShort f pre eff s = s.trapAt s.cur 1 0 0 := by
  have : (f.ok && f.roles (slotNum (slotKey s.cur)) (roleOf s.cur)) = false := by
    rcases hf with hf | hf <;> simp [hf]
  simp [issueShort, h, this]

/-- A token of a missing neighbour: the token-misuse trap (R29, R45). -/
theorem issueShort_misuse (f : Form) (pre eff : State → Res) (s : State) (h : s.canIssue s.cur = true)
    (hf : f.ok = true) (hr : f.roles (slotNum (slotKey s.cur)) (roleOf s.cur) = true)
    (ht : tokenMisuse (roleOf s.cur) f.t = true) : issueShort f pre eff s = s.trapAt s.cur 2 0 0 := by
  simp [issueShort, h, hf, hr, ht]

/-- A pop without a token, or a register still to be written: the sequencer waits (R28, R171). -/
theorem issueShort_waits (f : Form) (pre eff : State → Res) (s : State) (h : s.canIssue s.cur = true)
    (hf : f.ok = true) (hr : f.roles (slotNum (slotKey s.cur)) (roleOf s.cur) = true)
    (ht : tokenMisuse (roleOf s.cur) f.t = false) (hi : (s.seq s.cur).issued = false)
    (hw : (s.slot (slotKey s.cur)).popOk (roleOf s.cur) f.t = false ∨ f.uses.any (s.pendingReg s.cur) = true) :
    issueShort f pre eff s = s := by
  rcases hw with hw | hw <;> simp [issueShort, h, hf, hr, ht, hi, hw]

/-- An instruction that passes every check and hazard goes through its own conditions. -/
theorem issueShort_goes (f : Form) (pre eff : State → Res) (s : State) (h : s.canIssue s.cur = true)
    (hf : f.ok = true) (hr : f.roles (slotNum (slotKey s.cur)) (roleOf s.cur) = true)
    (ht : tokenMisuse (roleOf s.cur) f.t = false) (hi : (s.seq s.cur).issued = false)
    (hp : (s.slot (slotKey s.cur)).popOk (roleOf s.cur) f.t = true) (hu : f.uses.any (s.pendingReg s.cur) = false) :
    issueShort f pre eff s =
      match pre s with
      | .go s' =>
        finishShort f eff ((s'.modSlot (slotKey s.cur) (·.issue (roleOf s.cur) f.t)).modSeq s.cur
          fun q => { q with issued := true })
      | .hold s' => s'
      | .trap s' => s'
      | .stop s' => s' := by
  simp only [issueShort, h, hf, hr, ht, hi, hp, hu, Bool.not_true, Bool.and_self, Bool.or_self, Bool.false_eq_true, if_false]
    <;> (cases pre s <;> rfl)

/-- Pops leave the room for pushes as it is: no instruction pops and pushes one FIFO (R29). -/
theorem Slot.issue_pushOk (c : Slot) (role : Nat) (t : BitVec 4) (h : tokenMisuse role t = false) :
    (c.issue role t).pushOk role t = c.pushOk role t := by
  unfold Slot.pushOk Slot.issue Slot.pop Slot.outL Slot.outR Slot.setInL Slot.setInR Slot.inL Slot.inR
  unfold tokenMisuse at h
  by_cases h0 : role = 0 <;> by_cases h2 : role = 2 <;> by_cases ha : t.getLsbD 0 <;> by_cases hb : t.getLsbD 1 <;>
    simp_all

/-- The pushes of an instruction that does not retire in a later cycle, with room for them: they are made. -/
theorem State.pushShort_room (s : State) (k : Nat) (f : Form) (hd : s.delay = false) (hl : f.late = false)
    (ho : (s.seq k).owed = []) (hr : s.room k f.t = true) : s.pushShort k f = s.pushTokens k f.t := by
  simp [State.pushShort, State.pushOwe, hd, hl, ho, hr]

/-- Pushes with no room, or behind earlier ones that had none, are owed (R28). -/
theorem State.pushOwe_full (s : State) (k : Nat) (t : BitVec 4) (h : (s.seq k).owed ≠ [] ∨ s.room k t = false) :
    s.pushOwe k t = s.modSeq k fun q => { q with owed := q.owed ++ [t] } := by
  rcases h with h | h <;> simp [State.pushOwe, h]

/-- An instruction whose work is done and whose pushes, if it makes them now, have room. -/
theorem finishShort_go (f : Form) (eff : State → Res) (s s' : State) (he : eff s = .go s') (hd : s'.delay = false)
    (hr : f.late = true ∨ ((s'.seq s.cur).owed = [] ∧ s'.room s.cur f.t = true)) :
    finishShort f eff s =
      (if f.late then s' else s'.pushTokens s.cur f.t).modSeq s.cur fun q => { q with issued := false } := by
  simp only [finishShort, he]
  by_cases hl : f.late = true
  · simp [State.pushShort, hl]
  · have hl : f.late = false := by simpa using hl
    have h := hr.resolve_left (by simp [hl])
    simp [s'.pushShort_room s.cur f hd hl h.1 h.2, hl]

end Sys2Proof.Machine
end

