-- ==== Sys2Proof/Laws/Memory.lean ====
section
/-! SUPPORT. The canonical form of the memories (every write keeps it, reset has it), and what a write of bytes to a
space does: read back, bytes outside it, and the fields it leaves alone. -/

namespace Sys2Proof.Machine

theorem canonical_reset : Canonical State.reset := ⟨by decide, by decide⟩

/-- Bytes put into any space keep the canonical form. -/
theorem State.put_canonical (s : State) (sp : Space) (a : Nat) (bs : List Byte) (h : Canonical s) :
    Canonical (s.put sp a bs) := by
  obtain ⟨h1, h2⟩ := h
  cases sp with
  | main => exact ⟨Mem.write_wf _ _ _ h1, h2⟩
  | scratch => exact ⟨h1, Mem.write_wf _ _ _ h2⟩
  | tile => exact ⟨h1, h2⟩

/-- A write with check words and tags keeps it. -/
theorem State.poke_canonical (s : State) (sp : Space) (a : Nat) (bs : List Byte) (tag : BitVec 16) (h : Canonical s) :
    Canonical (s.poke sp a bs tag) := State.put_canonical s sp a bs h

/-- A store that is not refused keeps it. -/
theorem State.store_canonical (s t : State) (sp : Space) (a : Nat) (bs : List Byte) (whole part : BitVec 16)
    (h : Canonical s) (ht : s.store sp a bs whole part = .ok t) : Canonical t := by
  unfold State.store at ht
  split at ht
  · cases ht; exact State.poke_canonical s sp a bs whole h
  · split at ht
    · cases ht
    · cases ht; exact State.poke_canonical s sp a bs part h

/-- Stores line by line keep it. -/
theorem State.storeAll_canonical (s t : State) (sp : Space) (a : Nat) (bs : List Byte) (whole part : BitVec 16)
    (h : Canonical s) (ht : s.storeAll sp a bs whole part = .ok t) : Canonical t := by
  unfold State.storeAll at ht
  generalize pieces a bs.length = ps at ht
  induction ps generalizing s with
  | nil => cases ht; exact h
  | cons p r ih =>
    simp only [List.foldlM_cons] at ht
    cases hs : s.store sp p.1 ((bs.drop (p.1 - a)).take p.2) whole part with
    | error e => simp [hs, bind, Except.bind] at ht
    | ok u =>
      simp only [hs, bind, Except.bind] at ht
      exact ih u (State.store_canonical s u sp _ _ whole part h hs) ht

/-- A memory with some entries taken out keeps its form: what MODULE_RESET leaves of it. -/
theorem Memory.wf_filter (m : List Host.Cell) (p : Host.Cell → Bool) (h : Memory.wf m = true) :
    Memory.wf (m.filter p) = true := by
  simp only [Memory.wf, Bool.and_eq_true, List.all_eq_true, decide_eq_true_eq] at h ⊢
  exact ⟨Kv.sorted_filter m p h.1, fun c hc => h.2 c (List.mem_filter.1 hc).1⟩

/-- What a write to main memory leaves: the bytes written, and every other byte as it was. -/
theorem State.poke_main_get (s : State) (a : Nat) (bs : List Byte) (tag : BitVec 16) (b : Nat) :
    Mem.get (s.poke .main a bs tag).mem b = if a ≤ b ∧ b < a + bs.length then bs.getD (b - a) 0 else Mem.get s.mem b := by
  show Mem.get (Mem.write s.mem a bs) b = _
  split
  · rename_i h
    have e : b = a + (b - a) := by omega
    conv_lhs => rw [e]
    exact Mem.get_write_in s.mem a bs (b - a) (by omega)
  · exact Mem.get_write_out s.mem a bs b (by omega)

/-- The same for a slice. -/
theorem State.poke_scratch_get (s : State) (a : Nat) (bs : List Byte) (tag : BitVec 16) (b : Nat) :
    Mem.get (s.poke .scratch a bs tag).scratch b =
      if a ≤ b ∧ b < a + bs.length then bs.getD (b - a) 0 else Mem.get s.scratch b := by
  show Mem.get (Mem.write s.scratch a bs) b = _
  split
  · rename_i h
    have e : b = a + (b - a) := by omega
    conv_lhs => rw [e]
    exact Mem.get_write_in s.scratch a bs (b - a) (by omega)
  · exact Mem.get_write_out s.scratch a bs b (by omega)

/-- Bytes written are read back. -/
theorem State.bytes_poke_main (s : State) (a : Nat) (bs : List Byte) (tag : BitVec 16) :
    (s.poke .main a bs tag).bytes .main a bs.length = bs := Mem.read_write s.mem a bs

theorem State.bytes_poke_scratch (s : State) (a : Nat) (bs : List Byte) (tag : BitVec 16) :
    (s.poke .scratch a bs tag).bytes .scratch a bs.length = bs := Mem.read_write s.scratch a bs

/-- A write changes the space it goes to, its check words and its tags, and nothing else. -/
theorem State.poke_frame (s : State) (sp : Space) (a : Nat) (bs : List Byte) (tag : BitVec 16) :
    let u := s.poke sp a bs tag
    u = { s with mem := u.mem, scratch := u.scratch, tiles := u.tiles, bad := u.bad, ecc := u.ecc, tags := u.tags } := by
  cases sp <;> rfl

/-- With no bad line listed, every verification passes (R95). -/
theorem State.verify_clean (s : State) (sp : Space) (a n : Nat) (hb : s.bad = []) (he : s.ecc = []) :
    s.verify sp a n = none := by
  simp [State.verify, hb, he]

end Sys2Proof.Machine
end

