-- ==== Sys2Proof/Laws/Step.lean ====
section
/-! SUPPORT. What a step is: the decoder and the dispatcher of micro-orders agree with `exec`, and each turn of the
agenda is the turn it says. -/

namespace Sys2Proof.Machine

/-- A micro-order word executed is the micro-order it decodes to, executed. -/
theorem execMicro_eq (w : Nat) (s : State) : execMicro w s = exec (decodeMicro w) s := by
  unfold execMicro decodeMicro
  have h : w / 2 ^ 25 % 2 ^ 7 < 128 := Nat.mod_lt _ (by decide)
  generalize w / 2 ^ 25 % 2 ^ 7 = n at h ⊢
  interval_cases n <;> first | rfl | (show (if _ then _ else _) = exec (if _ then _ else _) s; split <;> rfl)

/-- Neither time nor what happens around a step changes the agenda. -/
@[simp] theorem State.tick_agenda (s : State) : s.tick.agenda = s.agenda := by
  have hf : ∀ (f : State → Nat → State), (∀ t n, (f t n).agenda = t.agenda) →
      ∀ (l : List Nat) (t : State), (l.foldl f t).agenda = t.agenda := by
    intro f hf l
    induction l with
    | nil => intro t; rfl
    | cons x l ih => intro t; rw [List.foldl_cons, ih, hf]
  have hc : ∀ (t : State) n, (t.corrected n).agenda = t.agenda := by
    intro t n
    unfold State.corrected
    split
    · rfl
    · rw [hf]
      intro t n
      rfl
  have h1 : s.softTick.agenda = s.agenda := by
    unfold State.softTick
    split
    · rfl
    · rw [hf _ hc]
  have h2 (t : State) : t.timeTick.agenda = t.agenda := by unfold State.timeTick; split <;> rfl
  have h3 (t : State) : t.endShots.agenda = t.agenda := by unfold State.endShots; split <;> rfl
  rw [State.tick, h3, h2, h1]

/-- A turn of the agenda is taken after time has passed. -/
theorem step_turn (s : State) (t : Turn) (r : List Turn) (h : s.agenda = t :: r) :
    step s = ({ s.tick with agenda := r } : State).takeTurn t := by
  have ha : s.tick.agenda = t :: r := by rw [s.tick_agenda, h]
  simp only [step, ha]

/-- With no turn of the agenda the module goes on by itself. -/
theorem step_own (s : State) (h : s.agenda = []) : step s = s.tick.ownStep := by
  have ha : s.tick.agenda = [] := by rw [s.tick_agenda, h]
  simp only [step, ha]

/-- A sequencer's turn with words to decode is `exec` of what they decode to. -/
theorem State.seqStep_words (s : State) (t : State) (w x : Nat) (hi : s.canIssue s.cur = true) (he : s.atEnd s.cur = false)
    (hw : s.nextWords s.cur = .words t w x) :
    s.seqStep = thenDo (exec (decodeStream (decide (roleOf s.cur = 2)) w x) t) fun u => u.keepWords s.cur w x := by
  simp [State.seqStep, hi, he, hw]

end Sys2Proof.Machine
end

