-- ==== Sys2Proof/Laws/Trap.lean ====
section
/-! SUPPORT. Everything that taking a precise trap does (R45, R347, R351, R352), and what a whole short instruction
leads to. -/

namespace Sys2Proof.Machine

/-- The record of a precise trap of the instruction at the PC of a sequencer. -/
def State.preciseRec (s : State) (k code engine addr status : Nat) : TrapRec :=
  { s.trapBase k with
    code := code, engine := engine, addr := BitVec.ofNat 56 addr, status := BitVec.ofNat 32 status, prec := true }

/-- Of the module a precise trap changes the policy core's records, its own sequencer and its own slot. -/
theorem State.trapAt_frame (s : State) (k code engine addr status : Nat) :
    let u := s.trapAt k code engine addr status
    u = { s with seqs := u.seqs, slots := u.slots, policy := s.policy ++ [.trap (s.preciseRec k code engine addr status)] } := by
  rfl

theorem State.trapAt_policy (s : State) (k code engine addr status : Nat) :
    (s.trapAt k code engine addr status).policy = s.policy ++ [.trap (s.preciseRec k code engine addr status)] := rfl

/-- The first record of the slot governs it and begins its stop; FLAST takes the last. -/
theorem State.trapAt_slot_self (s : State) (k code engine addr status : Nat) :
    let c := s.slot (slotKey k)
    (s.trapAt k code engine addr status).slot (slotKey k) =
      { c with
        trap := if c.governs then some (s.preciseRec k code engine addr status) else c.trap
        stopping := if c.governs then some ⟨3⟩ else c.stopping
        saved := if c.governs then 0 else c.saved
        flast := BitVec.ofNat 64 (code % 256 + engine % 16 * 256) } := by
  have h : code % 256 + engine % 16 * 256 = code % 256 + engine % 16 * 256 + (0 : BitVec 16).toNat * 4096 := by simp
  intro c
  rw [h]
  exact Kv.get_put_self _ _ _ _

/-- In a slot that is not being stopped, the first record governs. -/
theorem Slot.governs_of_running (c : Slot) (h : c.stopping = none) : c.governs = c.trap.isNone := by simp [Slot.governs, h]

theorem State.trapAt_slot_ne (s : State) (k code engine addr status j : Nat) (h : j ≠ slotKey k) :
    (s.trapAt k code engine addr status).slot j = s.slot j := by
  simp only [State.trapAt, State.trapSeq, State.takeTrap, State.modSlot, State.modSeq]
  exact Kv.get_put_ne _ _ _ _ _ h

/-- The sequencer stops at the same PC; its registers keep their values. -/
theorem State.trapAt_seq_self (s : State) (k code engine addr status : Nat) :
    (s.trapAt k code engine addr status).seq k = { s.seq k with stopped := true } := by
  exact Kv.get_put_self _ _ _ _

theorem State.trapAt_seq_ne (s : State) (k code engine addr status j : Nat) (h : j ≠ k) :
    (s.trapAt k code engine addr status).seq j = s.seq j := by
  exact Kv.get_put_ne _ _ _ _ _ h

end Sys2Proof.Machine
end

