-- ==== Sys2Proof/Tests/Slice0.lean ====
section
/-! SUPPORT. Tests of the model: ill-formed terms that the check of well-formedness refuses, words written out from the
encodings of spec/02, single steps on small states with results worked out from the spec, and for every obligation with
hypotheses a state and operands that meet them (`witness_…`). -/

namespace Sys2Proof.Tests
open Sys2Proof.Machine Sys2Proof.Claims
set_option Elab.async false

/-! ### Small states -/

/-- The module after reset, with sequencer `k` running in a busy slot at 0x1000. -/
def running (k : Nat) : State :=
  { (State.reset.setSlot (slotKey k) { Slot.init (slotKey k) with busy := true }).setSeq k { active := true, pc := 0x1000 } with cur := k }

/-- The same, with s1, s2 and s3 set. -/
def withRegs (k : Nat) (a b c : Word) : State :=
  (((running k).setReg k 1 a).setReg k 2 b).setReg k 3 c

/-- What holds of the state that an instruction leads to. -/
def after (i : Instr) (s : State) (p : State → Bool) : Bool :=
  match exec i s with
  | .next t => p t
  | .fault _ => false
  | .refused _ => false

/-- The register s4 holds a value and the sequencer is at the next word. -/
def s4Is (v : Word) (t : State) : Bool := decide (t.reg t.cur 4 = v) && decide (t.pc t.cur = 0x1004)

/-- The sequencer's slot has taken a trap of this code, engine, address and status. -/
def trapIs (code engine addr status : Nat) (t : State) : Bool :=
  match (t.slot (slotKey t.cur)).trap with
  | some r => decide (r.code = code) && decide (r.engine = engine) && decide (r.addr.toNat = addr) && decide (r.status.toNat = status)
  | none => false

/-! ### Well-formedness: each check refuses an ill-formed term (R32, R33, R40, R43, R183, R186, R229, R344) -/

theorem smoke_fence_scope : Instr.wf (.fence 7 31 0) = false ∧ Instr.wf (.fence 6 31 0) = true := by decide
theorem smoke_fence_kinds : Instr.wf (.fence 0 0 0) = false := by decide
theorem smoke_evpost_zero : Instr.wf (.evpost 0 1 0) = false ∧ Instr.wf (.evwait 0 1 0) = false ∧ Instr.wf (.evpost 1 1 0) = true := by decide
theorem smoke_csr_unassigned : Instr.wf (.csrr 1 0x00A 0) = false ∧ Instr.wf (.csrr 1 0x009 0) = true ∧
    Instr.wf (.csrw 1 1 0x086 0) = false ∧ Instr.wf (.csrs 1 1 0x03F 0) = false ∧ Instr.wf (.csrc 1 1 0x055 0) = false := by decide
theorem smoke_rounding_three : Instr.wf (.fadd 1 2 3 3 0) = false ∧ Instr.wf (.fsqrt 1 2 3 0) = false ∧
    Instr.wf (.fitof 1 2 3 0) = false ∧ Instr.wf (.fadd 1 2 3 2 0) = true := by decide
theorem smoke_mcfg_unassigned : Instr.wf (.mcfg 1 0x006 0) = false ∧ Instr.wf (.mcfg 1 0x005 0) = true ∧ Instr.wf (.mcfg 1 0x048 0) = false := by decide
theorem smoke_guard_id : Instr.wf (.gshape 1 0x3FF 0) = false ∧ Instr.wf (.gbr 1 0x3FF 0) = false ∧ Instr.wf (.ghlth 1 0x3FE 0) = true := by decide

/-- An extension word of a profile, an event, its post bit and a queue. -/
def ext (np : Nat) (ev : Nat) (post : Nat) (q : Nat) : Ext :=
  ⟨0, 0, 0, BitVec.ofNat _ np, BitVec.ofNat _ ev, BitVec.ofNat _ post, BitVec.ofNat _ q, 0⟩

theorem smoke_profile : Instr.wf (.cpy 0 0 1 2 3 (ext 1 0 0 0)) = false ∧ Instr.wf (.vrun 1 2 3 (ext 0 0 0 0)) = false ∧
    Instr.wf (.vrun 1 2 3 (ext 3 0 0 0)) = true ∧ Instr.wf (.mgo (ext 3 0 0 0)) = false := by decide
theorem smoke_event_without_post : Instr.wf (.mgo (ext 0 4 0 0)) = false ∧ Instr.wf (.mgo (ext 0 4 1 0)) = true := by decide
theorem smoke_copy_queue : Instr.wf (.cpy 0 0 1 2 3 (ext 0 0 0 4)) = false ∧ Instr.wf (.cpy 0 0 1 2 3 (ext 0 0 0 3)) = true ∧
    Instr.wf (.mgo (ext 0 0 0 1)) = false := by decide

/-! ### Witnesses: issue, arithmetic, jumps (R28, R173 to R182) -/

theorem witness_ready : ready (withRegs 1 5 7 9) 0 [1, 2, 3] = true ∧ ready (withRegs 2 5 7 9) 0 [31, 0] = true ∧
    ready (withRegs 19 5 7 9) 0 [4, 1, 2] = true := by decide +kernel
theorem witness_ready_pushing : ready (running 1) 12 [1] = true := by decide +kernel
theorem witness_division_limits : let s := withRegs 1 0x8000000000000000 0xFFFFFFFFFFFFFFFF 0
    (s.reg s.cur 3 = 0) ∧ ((s.reg s.cur 1).toInt = -2 ^ 63 ∧ (s.reg s.cur 2).toInt = -1) ∧ ready s 0 [4, 1, 2] = true ∧
    ready s 0 [4, 1, 3] = true := by decide +kernel
/-- A division of the slow divider, and one of its turns to retire (R171). -/
theorem witness_division_slow : let s : State := { withRegs 1 7 2 0 with delay := true }
    issuable s 0 [4, 1, 2] = true ∧ s.delay = true ∧
    (((running 1).modSeq 1 fun q => { q with late := [(4, 9)] }).seq 1).late[0]? = some (4, 9) := by decide +kernel
theorem witness_jalr_in_range : let s := withRegs 1 0x7FFFFFFFFFFFF8 0 0
    ready s 0 [4, 1] = true ∧ (z64 (((s.reg s.cur 1).toNat + (7 : BitVec 12).toInt) / 4 * 4)).toNat < 2 ^ 55 := by decide +kernel
theorem witness_jalr_out_of_range : let s := withRegs 1 0x7FFFFFFFFFFFF8 0 0
    ready s 0 [4, 1] = true ∧ 2 ^ 55 ≤ (z64 (((s.reg s.cur 1).toNat + (8 : BitVec 12).toInt) / 4 * 4)).toNat := by decide +kernel
theorem witness_branch_both_ways : let s := withRegs 2 0xFFFFFFFFFFFFFFFF 1 0
    ready s 0 [1, 2] = true ∧ (s.reg s.cur 1).toInt < (s.reg s.cur 2).toInt ∧ ¬ (s.reg s.cur 1).toNat < (s.reg s.cur 2).toNat := by
  decide +kernel

/-- Sequencer L or S with a copy of the control queue that holds these outcomes. -/
def withCopy (k : Nat) (l : List (BitVec 16)) : State :=
  (running k).modSlot 0 fun c => { c with rcvL := true, rcvS := true, cqL := l, cqS := l }

theorem witness_control_queue : let s := withCopy 2 [0x8001, 2]
    issuable s 0 [] = true ∧ role s = 2 ∧ (mine s).rcvS = true ∧ (mine s).cqS = 0x8001 :: [2] := by decide +kernel
theorem witness_control_queue_empty : let s := withCopy 0 []
    issuable s 0 [] = true ∧ role s = 0 ∧ (mine s).rcvL = true ∧ (mine s).cqL = [] := by decide +kernel
theorem witness_control_queue_absent : issuable (running 0) 0 [] = true ∧ role (running 0) = 0 ∧ (mine (running 0)).rcvL = false := by
  decide +kernel

/-! ### Witnesses: tokens, events, SYS (R28, R183, R189 to R192, R308, R317) -/

theorem witness_tokens_move : let s := (running 1).modSlot 0 fun c => { c with lx := 16, sx := 1, xl := 15, xs := 0 }
    ready s 15 [] = true := by decide +kernel
theorem witness_tokens_empty : let s := running 1
    s.canIssue s.cur = true ∧ (self s).issued = false ∧ tokenMisuse (role s) 1 = false ∧ (mine s).popOk (role s) 1 = false := by
  decide +kernel
theorem witness_tokens_full : let s := (running 1).modSlot 0 fun c => { c with xl := 16 }
    issuable s 4 [] = true ∧ (mine s).pushOk (role s) 4 = false := by decide +kernel
theorem witness_tokens_misuse : let s := running 0
    s.canIssue s.cur = true ∧ tokenMisuse (role s) 1 = true := by decide +kernel

/-- The X stream with a count in e3. -/
def withEvent (n : Nat) : State := (running 1).modSlot 0 fun c => { c with events := [(3, n)] }

theorem witness_evpost_saturates : let s := withEvent 0xFFFF
    ready s 0 [] = true ∧ (∀ x ∈ (self s).loads, x.op ≠ .mark) ∧ 0xFFFF < Kv.get 0 (mine s).events 3 + (1 : BitVec 6).toNat := by
  decide +kernel
theorem witness_evwait_takes : let s := withEvent 63
    ready s 0 [] = true ∧ (63 : BitVec 6).toNat ≤ Kv.get 0 (mine s).events (3 : BitVec 4).toNat ∧
    s.evBefore s.cur (3 : BitVec 4).toNat = false := by decide +kernel
theorem witness_evwait_waits : let s := withEvent 62
    issuable s 0 [] = true ∧ Kv.get 0 (mine s).events (3 : BitVec 4).toNat < (63 : BitVec 6).toNat := by decide +kernel
/-- L waits for seven counts in e3, and takes them before X clears it. -/
theorem witness_evclr : let s := (withEvent 7).modSeq 0 fun q => { q with active := true, evwait := some (3, 7) }
    issuable s 0 [4] = true ∧ s.evTaken s.cur (3 : BitVec 4).toNat 4 = true ∧ ready (withEvent 7) 0 [4] = true ∧
    (withEvent 7).evTaken 1 (3 : BitVec 4).toNat 4 = false := by decide +kernel
theorem witness_wfe_begins : issuable (running 1) 0 [] = true ∧ (self (running 1)).wfe = none := by decide +kernel
theorem witness_wfe_waits : let s := (running 1).modSeq 1 fun q => { q with wfe := some 2 }
    ready s 0 [] = true ∧ (self s).wfe = some 2 ∧ (mine s).posts ≤ 2 := by decide +kernel
theorem witness_wfe_ends : let s := ((running 1).modSlot 0 fun c => { c with posts := 3 }).modSeq 1 fun q => { q with wfe := some 2 }
    ready s 0 [] = true ∧ (self s).wfe = some 2 ∧ 2 < (mine s).posts := by decide +kernel
theorem witness_cqp_room : let s := (withCopy 1 (List.replicate 15 0)).setReg 1 1 7
    ready s 0 [1] = true ∧ role s = 1 ∧ (mine s).cqL.length < 16 ∧ (mine s).cqS.length < 16 := by decide +kernel
theorem witness_cqp_full : let s := withCopy 1 (List.replicate 16 0)
    ready s 0 [1] = true ∧ role s = 1 ∧ (mine s).rcvL = true ∧ ¬ (mine s).cqL.length < 16 := by decide +kernel
theorem witness_cqp_elsewhere : (running 2).canIssue 2 = true ∧ role (running 2) ≠ 1 ∧ (running 2).cur = 2 := by decide +kernel

/-- A command of sequencer X in flight. -/
def oneCmd (i : Instr) (n : Nat) : Cmd :=
  { uid := 1, seqk := 1, num := BitVec.ofNat 16 n, ins := i, ext := ext 0 0 0 0, pc := 0x1000, vd := 0, v1 := 0, v2 := 0, v3 := 0
    rd := 0, preds := [], entries := [], seed := 0 }

theorem witness_cwait_waits : let s : State := { withRegs 1 0x1000A 0 0 with cmds := [oneCmd (.mgo (ext 0 0 0 0)) 10], nextUid := 2 }
    issuable s 0 [1] = true ∧ ∃ c ∈ s.inFlight (slotKey s.cur), c.num = (s.reg s.cur 1).setWidth 16 ∧ c.inj ≠ 3 := by decide +kernel
theorem witness_cwait_ends : let s : State := { withRegs 1 11 0 0 with cmds := [oneCmd (.mgo (ext 0 0 0 0)) 10], nextUid := 2 }
    ready s 0 [1] = true ∧ ¬ ∃ c ∈ s.inFlight (slotKey s.cur), c.num = (s.reg s.cur 1).setWidth 16 ∧ c.inj ≠ 3 := by decide +kernel

/-- A load-queue entry of a 64-bit load from the core's slice. -/
def oneLoad : QEntry := { id := 0, op := .load 3 false 4, addr := 0x40, pc := 0x1000, t := 0, seed := 0, num := 0 }
/-- A store-queue entry of eight bytes. -/
def oneStore : QEntry := { id := 0, op := .store [1, 2, 3, 4, 5, 6, 7, 8], addr := 0x40, pc := 0x1000, t := 0, seed := 0, num := 0 }

theorem witness_trap_goes : let s := running 0
    issuable s 0 [] = true ∧ (self s).loads = [] ∧ (self s).stores = [] := by decide +kernel
theorem witness_trap_waits : let s := (running 0).modSeq 0 fun q => { q with loads := [oneLoad], nextEntry := 1 }
    issuable s 0 [] = true ∧ ¬ ((self s).loads = [] ∧ (self s).stores = []) := by decide +kernel
theorem witness_hbeat : let s := running 23
    (slotKey s.cur % 8 = 5 ∧ role s = 3) ∧ ready s 0 [] = true := by decide +kernel
theorem witness_hbeat_elsewhere : let s := running 19
    ¬ (slotKey s.cur % 8 = 5 ∧ role s = 3) ∧ s.canIssue s.cur = true := by decide +kernel

/-- A ready record of the task at a TCB, for octant 0. -/
def oneReady : ReadyRec :=
  { id := 1, octant := 0, tcb := 0x2000, task := 7, graph := 0, prio := 3, prio0 := 3, ring := false, byDec := false, tsize := 0
    ready := 0, rose := 0, place := 0, home := .nowhere, spawner := 0, xroot := 0, walked := true }

theorem witness_yield_asks : let s : State := { running 1 with readies := [{ oneReady with prio := 0, home := .core 0 }] }
    ready s 0 [] = true ∧ role s = 1 ∧ slotKey s.cur % 8 < 4 ∧ (mine s).teamSize ≤ 1 ∧ (mine s).busy = true ∧ (begun s 0).readyFor (slotKey s.cur) = true := by
  decide +kernel
theorem witness_yield_alone : let s := running 1
    ready s 0 [] = true ∧ role s = 1 ∧ (begun s 0).readyFor (slotKey s.cur) = false := by decide +kernel
theorem witness_exit_handler : let s := running 19
    issuable s 0 [1] = true ∧ role s = 3 ∧ slotKey s.cur % 8 ≠ 5 ∧ (self s).loads = [] ∧ (self s).stores = [] ∧
    ∀ c ∈ s.cmds, slotKey c.seqk ≠ slotKey s.cur := by decide +kernel
theorem witness_exit_waits : let s : State := { withRegs 1 9 0 0 with cmds := [oneCmd (.mgo (ext 0 0 0 0)) 0], nextUid := 2 }
    issuable s 0 [1] = true ∧ role s = 1 ∧ slotKey s.cur % 8 ≠ 5 ∧ s.inFlight (slotKey s.cur) ≠ [] := by decide +kernel
theorem witness_exit_ends : let s := ((running 1).modSlot 0 fun c => { c with exiting := some 5, decs := some (0, []) }).modSeq 1 fun q => { q with issued := true }
    again s 0 = true ∧ role s = 1 ∧ slotKey s.cur % 8 ≠ 5 ∧ (mine s).decs = some (0, []) ∧
    ¬ ((∃ i < 3, ¬ ((s.seq (slotKey s.cur * 4 + i)).loads = [] ∧ (s.seq (slotKey s.cur * 4 + i)).stores = [])) ∨
      s.inFlight (slotKey s.cur) ≠ []) := by decide +kernel
theorem witness_exit_runtime : (running 23).canIssue (running 23).cur = true ∧ slotKey (running 23).cur % 8 = 5 := by decide +kernel

/-! ### Witnesses: control registers, FP32, the spill memory (R160, R177 to R188) -/

theorem witness_csr_write_in_slot_five : let s := withRegs 23 0xFFFFFFFFFFFFFFFF 0 0
    ready s 0 [4, 1] = true ∧ slotKey s.cur % 8 = 5 ∧ s.runInFlight (slotKey s.cur) = false ∧ s.liveHandles (slotKey s.cur) = [] := by
  decide +kernel
theorem witness_csr_write_in_a_task : let s := withRegs 1 0xFFFFFFFFFFFFFFFF 0 0
    ready s 0 [4, 1] = true ∧ ¬ slotKey s.cur % 8 = 5 ∧ s.runInFlight (slotKey s.cur) = false ∧ s.liveHandles (slotKey s.cur) = [] := by
  decide +kernel
theorem witness_csr_numbers : csrAssigned (0x085 : BitVec 10).toNat = true ∧ csrAssigned (0x086 : BitVec 10).toNat = false ∧
    csrAssigned (0x000 : BitVec 10).toNat = true ∧ csrAssigned (0x3FF : BitVec 10).toNat = false := by decide
theorem witness_csr_unassigned : (running 2).canIssue (running 2).cur = true := by decide +kernel
theorem witness_mstall_read : let s := (running 1).modSlot 0 fun c => { c with mat := { c.mat with used := true } }
    ready s 0 [4, 0] = true ∧ (mine s).mat.used = true := by decide +kernel
theorem witness_fps_in_x : role (withRegs 1 1 2 3) = 1 ∧ ready (withRegs 1 1 2 3) 0 [4, 1, 2] = true := by decide +kernel
theorem witness_fps_in_h : role (withRegs 19 1 2 3) = 3 ∧ ready (withRegs 19 1 2 3) 0 [4, 1] = true := by decide +kernel
theorem witness_spill_limits : let s := (running 0).modSlot 0 fun c => { c with splim := 1024 }
    ready s 0 [4] = true ∧ s.heldBack s.cur .spill = false ∧ (1023 : BitVec 10).toNat < Min.min (mine s).splim 1024 := by decide +kernel
/-- An ENG FENCE waits. -/
theorem witness_spill_held : let s := (running 0).modSeq 0 fun q => { q with fences := [⟨9, 1, [], [1], 0, none⟩] }
    ready s 0 [4] = true ∧ s.heldBack s.cur .spill = true := by decide +kernel
theorem witness_spill_beyond : let s := (running 0).modSlot 0 fun c => { c with splim := 7 }
    ready s 0 [4] = true ∧ Min.min (mine s).splim 1024 ≤ (7 : BitVec 10).toNat := by decide +kernel

/-! ### Witnesses: loads, stores, order, atomic operations (R147 to R163, R284 to R290) -/

/-- A state in which the slot's window 0 grants the last 4096 bytes below 8192 of core 0's slice. -/
def windowed (k : Nat) (s : State) : State := s.modSlot (slotKey k) fun c => { c with swin := [(0, 0x200001000)] }

theorem test_window_decodes : windowOf 0x200001000 = some (0x1000, 0x1000) := by decide +kernel

theorem witness_load_fits : let s := windowed 0 (withRegs 0 0x1FF8 0 0)
    let x := z64 ((s.reg s.cur 1).toNat + (0 : BitVec 10).toInt * 2 ^ (3 : BitVec 2).toNat)
    s.heldBack s.cur .load = false ∧ (self s).loads.length < 16 ∧ role s = 0 ∧ issuable s 0 [4, 1] = true ∧
    sliceOk x.toNat (2 ^ (3 : BitVec 2).toNat) = true ∧ x.toNat % 2 ^ (3 : BitVec 2).toNat = 0 ∧
    s.window (slotKey s.cur) x.toNat (2 ^ (3 : BitVec 2).toNat) = true := by decide +kernel
theorem witness_load_outside : let s := windowed 19 (withRegs 19 0x1FF8 0 0)
    let x := z64 ((s.reg s.cur 1).toNat + (1 : BitVec 10).toInt * 2 ^ (3 : BitVec 2).toNat)
    s.heldBack s.cur .load = false ∧ (self s).loads.length < 16 ∧ role s = 3 ∧ issuable s 0 [4, 1] = true ∧
    s.window (slotKey s.cur) x.toNat (2 ^ (3 : BitVec 2).toNat) = false := by decide +kernel
theorem witness_vld_fits : let s := (windowed 0 (withRegs 0 0x1E00 0 0)).modSlot 0 fun c => { c with queues := [(3, List.replicate 7 ⟨0, none⟩)] }
    issuable s 0 [1] = true ∧ sliceOk 0x1E00 512 = true ∧ (s.reg s.cur 1).toNat = 0x1E00 ∧ 0x1E00 % 128 = 0 ∧
    s.window (slotKey s.cur) 0x1E00 512 = true ∧ (Kv.get [] (mine s).queues 3).length < 8 ∧ s.cpqBusy (slotKey s.cur) 3 = false := by
  decide +kernel
theorem witness_vld_full : let s := (windowed 0 (withRegs 0 0x1E00 0 0)).modSlot 0 fun c => { c with queues := [(3, List.replicate 8 ⟨0, none⟩)] }
    issuable s 0 [1] = true ∧ s.window (slotKey s.cur) 0x1E00 512 = true ∧ 8 ≤ (Kv.get [] (mine s).queues 3).length := by decide +kernel
theorem witness_vld_misaligned : let s := windowed 0 (withRegs 0 0x1E40 0 0)
    issuable s 0 [1] = true ∧ (s.reg s.cur 1).toNat % 128 ≠ 0 := by decide +kernel
theorem witness_store_fits : let s := withRegs 2 0x43FFF8 7 0
    s.heldBack s.cur .store = false ∧ (self s).stores.length < 16 ∧ role s = 2 ∧ ready s 0 [2, 1] = true ∧
    sliceOk (s.reg s.cur 1).toNat 8 = true ∧ (s.reg s.cur 1).toNat % 8 = 0 := by decide +kernel
theorem witness_store_off_the_slice : let s := withRegs 2 0x440000 7 0
    s.heldBack s.cur .store = false ∧ (self s).stores.length < 16 ∧ role s = 2 ∧ issuable s 0 [2, 1] = true ∧
    sliceOk (s.reg s.cur 1).toNat 8 = false := by decide +kernel
theorem witness_vst_head : let s := (withRegs 2 0x43FE00 0 0).modSlot 0 fun c => { c with queues := [(5, [⟨0, some (zeros 512)⟩])] }
    ready s 0 [1] = true ∧ role s = 2 ∧ sliceOk (s.reg s.cur 1).toNat 512 = true ∧ (s.reg s.cur 1).toNat % 128 = 0 ∧
    (Kv.get [] (mine s).queues (4 + (1 : BitVec 1).toNat)).length = 1 ∧ Kv.get [] (mine s).queues (4 + (0 : BitVec 1).toNat) = [] := by
  decide +kernel
theorem witness_sts : let s := (windowed 2 (withRegs 2 0x1FF8 7 0)).modSeq 2 fun q => { q with loads := [oneLoad], nextEntry := 1 }
    ready s 0 [2, 1] = true ∧ role s = 2 ∧ s.heldBack s.cur .store = false ∧ sliceOk 0x1FF8 8 = true ∧
    s.window (slotKey s.cur) 0x1FF8 8 = true ∧ (self s).stores = [] ∧ (self s).loads = [oneLoad] ∧
    (∀ e ∈ (self s).loads, overlap 0x1FF8 8 e.range.1 e.range.2 = false) ∧ (mine s).nodes = [] ∧ (mine s).demands = [] ∧
    s.verifyLine .scratch 0x1FF8 = none := by decide +kernel
theorem witness_sts_waits : let s := (windowed 2 (withRegs 2 0x1FF8 7 0)).modSeq 2 fun q => { q with stores := [oneStore], nextEntry := 1 }
    issuable s 0 [2, 1] = true ∧ s.window (slotKey s.cur) 0x1FF8 8 = true ∧ (self s).stores ≠ [] ∧ (self s).stores.length < 16 := by decide +kernel
theorem witness_sts_full : let s := (windowed 2 (withRegs 2 0x1FF8 7 0)).modSeq 2 fun q => { q with stores := List.replicate 16 oneStore, nextEntry := 1 }
    issuable s 0 [2, 1] = true ∧ role s = 2 ∧ s.heldBack s.cur .store = false ∧ 16 ≤ (self s).stores.length := by decide +kernel
theorem witness_sts_outside : let s := windowed 2 (withRegs 2 0x2000 7 0)
    issuable s 0 [2, 1] = true ∧ s.window (slotKey s.cur) (s.reg s.cur 1).toNat 8 = false ∧ (self s).stores.length < 16 := by decide +kernel

theorem witness_load_performs : let s := (running 0).modSeq 0 fun q => { q with loads := [oneLoad], nextEntry := 1 }
    (s.seq 0).loads = oneLoad :: [] ∧ blockedBy oneLoad (s.seq 0).stores = false ∧ s.verify .scratch oneLoad.addr 8 = none ∧
    s.roomNow 0 oneLoad.t = true := by
  decide +kernel
/-- A load that pushes to X, whose FIFO is full. -/
theorem witness_load_has_no_room : let e : QEntry := { oneLoad with t := 8 }
    let s := ((running 0).modSlot 0 fun c => { c with lx := 16 }).modSeq 0 fun q => { q with loads := [e], nextEntry := 1 }
    (s.seq 0).loads = e :: [] ∧ blockedBy e (s.seq 0).stores = false ∧ s.verify .scratch e.addr 8 = none ∧ s.roomNow 0 e.t = false ∧
    e.id ∉ (s.seq 0).full := by decide +kernel
theorem witness_vector_load_performs : let e : QEntry := { oneLoad with op := .vload 3 9 }
    let s := (running 0).modSeq 0 fun q => { q with loads := [e], nextEntry := 1 }
    (s.seq 0).loads = e :: [] ∧ blockedBy e (s.seq 0).stores = false ∧ s.roomNow 0 e.t = true ∧ s.verify .scratch e.addr 512 = none := by decide +kernel
theorem witness_store_performs : let e : QEntry := { oneStore with addr := 0x1FF8 }
    let s := (windowed 2 (running 2)).modSeq 2 fun q => { q with stores := [e], nextEntry := 1 }
    (s.seq 2).stores = e :: [] ∧ blockedBy e (s.seq 2).loads = false ∧ s.window (slotKey 2) e.addr 8 = true ∧
    (s.slot (slotKey 2)).nodes = [] ∧ (s.slot (slotKey 2)).demands = [] ∧ s.roomNow 2 e.t = true ∧ ∀ j < 8, s.verifyLine .scratch (e.addr + j) = none := by decide +kernel
theorem witness_store_outside : let s := (windowed 2 (running 2)).modSeq 2 fun q => { q with stores := [oneStore], nextEntry := 1 }
    (s.seq 2).stores = oneStore :: [] ∧ blockedBy oneStore (s.seq 2).loads = false ∧ s.roomNow 2 oneStore.t = true ∧ s.window (slotKey 2) oneStore.addr 8 = false := by
  decide +kernel
theorem witness_queues_empty : ((running 2).seq 2).loads = [] ∧ ((running 2).seq 2).stores = [] := by decide +kernel

/-- A MARK in a queue. -/
def oneMark : QEntry := { oneLoad with op := .mark }
theorem witness_mark_enters : let s := (running 2).modSeq 2 fun q => { q with stores := List.replicate 15 oneStore, nextEntry := 15 }
    issuable s 0 [] = true ∧ (self s).loads.length < 16 ∧ (self s).stores.length < 16 := by decide +kernel
theorem witness_mark_waits : let s := (running 2).modSeq 2 fun q => { q with stores := List.replicate 16 oneStore, nextEntry := 16 }
    issuable s 0 [] = true ∧ 16 ≤ (self s).stores.length := by decide +kernel
theorem witness_fence_fields : (6 : BitVec 3) ≠ 7 ∧ (1 : BitVec 5) ≠ 0 ∧ issuable (running 0) 0 [] = true := by decide +kernel
theorem witness_mark_retires : let s := (running 2).modSeq 2 fun q => { q with loads := [oneMark], stores := [oneMark] }
    (s.seq 2).owed = [] ∧ (s.seq 2).loads = oneMark :: [] ∧ (s.seq 2).stores = oneMark :: [] ∧ oneMark.op = .mark ∧
    s.roomNow 2 oneMark.t = true := by decide +kernel
/-- A MARK and a FENCE of S that push to X, whose FIFO is full. -/
theorem witness_mark_has_no_room : let e : QEntry := { oneMark with t := 4 }
    let s := ((running 2).modSlot 0 fun c => { c with sx := 16 }).modSeq 2 fun q => { q with loads := [e], stores := [e] }
    (s.seq 2).loads = e :: [] ∧ (s.seq 2).stores = e :: [] ∧ s.roomNow 2 e.t = false ∧ e.id ∉ (s.seq 2).full := by decide +kernel
theorem witness_fence_has_no_room : let f : Fence := ⟨9, 16, [7], [9], 4, none⟩
    let s := ((running 2).modSlot 0 fun c => { c with sx := 16 }).modSeq 2 fun q => { q with fences := [f] }
    (s.seq 2).loads = [] ∧ (s.seq 2).fences = f :: [] ∧ s.roomNow 2 f.t = false ∧ f.id ∉ (s.seq 2).full := by decide +kernel
theorem witness_fence_retires : let f : Fence := ⟨9, 16, [7], [9], 0, none⟩
    let s := (running 2).modSeq 2 fun q => { q with stores := [oneStore], fences := [f] }
    (s.seq 2).owed = [] ∧ (s.seq 2).loads = [] ∧ (s.seq 2).fences = f :: [] ∧ (∀ e ∈ (s.seq 2).stores, e.id ∉ f.entries) ∧
    (∀ c ∈ s.cmds, c.uid ∉ f.cmds) ∧ s.roomNow 2 f.t = true := by decide +kernel
theorem witness_fence_waits : let f : Fence := ⟨9, 16, [0], [], 0, none⟩
    let s := (running 2).modSeq 2 fun q => { q with stores := [oneStore], fences := [f] }
    (s.seq 2).owed = [] ∧ (s.seq 2).loads = [] ∧ (s.seq 2).fences = f :: [] ∧ ∃ e ∈ (s.seq 2).stores, e.id ∈ f.entries := by
  decide +kernel

/-- A stream that may reach a cell at 0x1FF8 of its slice. -/
def withCell (k : Nat) : State := windowed k (withRegs k 0x1FF8 5 6)

theorem witness_amo_reaches (k : Nat) (hk : k = 2 ∨ k = 19) : Reaches (withCell k) 0 ((withCell k).reg k 1) 8 0 0 true (withCell k)
    (begun (withCell k) 0) (.slice 0x1FF8) ∧ issuable (withCell k) 0 [4, 1, 2] = true ∧ ready (withCell k) 0 [4, 1, 2] = true ∧
    (withCell k).heldBack k .amo = false ∧ (self (begun (withCell k) 0)).loads = [] ∧ (self (begun (withCell k) 0)).stores = [] ∧
    (mine (begun (withCell k) 0)).nodes = [] ∧ (mine (begun (withCell k) 0)).demands = [] ∧ (self (begun (withCell k) 0)).remote = none ∧
    (mine (withCell k)).det = false := by
  rcases hk with rfl | rfl <;> exact ⟨⟨rfl, rfl, rfl, rfl⟩, by decide +kernel⟩
theorem witness_amo_misaligned : let s := windowed 2 (withRegs 2 0x1FFC 5 6)
    s.cellOf s.cur (s.reg s.cur 1) 8 = .bounds ∧ issuable s 0 [4, 1, 2] = true := by decide +kernel
/-- S with a page of a peer's memory in its TLB, at 0x50000, and an address in it. -/
def withPeerCell (a : Nat) : State :=
  ((withRegs 2 (BitVec.ofNat 64 (2 ^ 63 + a)) 5 6).modSlot 0 fun c => { c with troot := 0x10001 }).modSeq 2 fun q =>
    { q with tlb := [{ asid := 0, page := 5, base := 3 * 2 ^ 50 + 2 ^ 42, w := true, x := false, cls := 0, dirty := true }] }
theorem witness_amo_at_a_peer : let s := withPeerCell 0x50008
    let h : Home := .main (3 * 2 ^ 50 + 2 ^ 42 + 8)
    Reaches s 0 (s.reg s.cur 1) 8 0 0 true (match s.findHome 2 (s.reg s.cur 1) 8 0 0 true with | .home u _ => u | _ => s)
      (match (begun s 0).findHome 2 (s.reg s.cur 1) 8 0 0 true with | .home u _ => u | _ => s) h ∧
    h.peer = true ∧ issuable s 0 [4, 1, 2] = true := ⟨⟨rfl, rfl, rfl, rfl⟩, by decide +kernel⟩
theorem witness_amo_at_a_peer_performs : let s := withPeerCell 0x50008
    (match s.amoAt (.main (3 * 2 ^ 50 + 2 ^ 42 + 8)) 1 false fadd32 5 6 0 with | .ok _ => true | _ => false) = true := by decide +kernel
theorem witness_amo_misaligned_virtual : let s := withPeerCell 0x50004
    (match s.cellOf s.cur (s.reg s.cur 1) 8 with | .virt va => decide (va = 0x50004) && decide (va % 8 ≠ 0) | _ => false) = true ∧
    issuable s 0 [4, 1, 2] = true ∧ (match s.xlateSeq 2 0x50004 (.atomic 2) 5 { kind := 1, atomic := true } with
      | (s1, .ok _ 0) => decide (s1.cur = 2)
      | _ => false) = true := by decide +kernel
theorem witness_amo_at_home : (0x1FF8 % 8 = 0) ∧ (withCell 2).verifyLine .scratch 0x1FF8 = none := by decide +kernel

/-! ### Witnesses: futures, barriers, counters, guards, configuration (R228, R229, R305 to R316, R344) -/

/-- A stream that may reach a 16-byte cell at 0x1FF0 of its slice, which holds a number. -/
def withCell16 (k : Nat) (x : Nat) : State :=
  { windowed k (withRegs k 0x1FF0 0 6) with scratch := Mem.write [] 0x1FF0 (leBytes 16 x) }

theorem witness_cell_reached (k : Nat) (hk : k = 1 ∨ k = 19) (w : Bool) (x : Nat) (hx : x = 2 ^ 32 ∨ x = 0 ∨ x = 2 ^ 64 + 7) :
    Reaches (withCell16 k x) 0 ((withCell16 k x).reg k 1) 16 8 9 w (withCell16 k x) (begun (withCell16 k x) 0) (.slice 0x1FF0) ∧
    ready (withCell16 k x) 0 [4, 1, 2] = true ∧ (mine (withCell16 k x)).pushOk (role (withCell16 k x)) 0 = true ∧
    (begun (withCell16 k x) 0).queuesEmpty k = true ∧ (withCell16 k x).heldBack k .amo = false ∧
    (begun (withCell16 k x) 0).cmds = [] ∧ (mine (begun (withCell16 k x) 0)).nodes = [] ∧ (mine (begun (withCell16 k x) 0)).demands = [] ∧
    (self (begun (withCell16 k x) 0)).remote = none ∧
    (mine (withCell16 k x)).sideEffect = false := by
  rcases hk with rfl | rfl <;> rcases hx with rfl | rfl | rfl <;> cases w <;> exact ⟨⟨rfl, rfl, rfl, rfl⟩, by decide +kernel⟩
/-- A barrier that expects one arrival, one that expects none, and a full future that holds 7. -/
theorem witness_cells_read : (begun (withCell16 1 (2 ^ 32)) 0).cell16 (.slice 0x1FF0) = .ok (2 ^ 32) ∧
    (begun (withCell16 1 0) 0).cell16 (.slice 0x1FF0) = .ok 0 ∧
    (begun (withCell16 1 (2 ^ 64 + 7)) 0).cell16 (.slice 0x1FF0) = .ok (2 ^ 64 + 7) := ⟨rfl, rfl, rfl⟩
theorem witness_cells_written : (∃ u, (begun (withCell16 1 (2 ^ 32)) 0).writeCell (.slice 0x1FF0) 12 (2 ^ 32 + 2 ^ 64) 0 = .ok u) ∧
    ∃ u, (begun (withCell16 1 0) 0).writeCell (.slice 0x1FF0) 16 (2 ^ 64) 0 = .ok u := ⟨⟨_, rfl⟩, ⟨_, rfl⟩⟩
/-- A phase of 5 has passed 4 by one, and has not passed 5. -/
theorem witness_phase_passed : (5 + 2 ^ 32 - (4 : Word).toNat % 2 ^ 32) % 2 ^ 32 = 1 ∧ (5 + 2 ^ 32 - (5 : Word).toNat % 2 ^ 32) % 2 ^ 32 = 0 := by
  decide
theorem witness_frd_late : let s := (running 1).modSlot 0 fun c => { c with sideEffect := true }
    role s = 1 ∧ (mine s).sideEffect = true ∧ issuable s 0 [4, 1] = true := by decide +kernel

/-- Page tables at 0x10000 and 0x20000 that show the first 512 MiB of DRAM at address 0; the root register's value is
0x10001 (R83, R86). -/
def mapped (s : State) : State :=
  { s with mem := Mem.write (Mem.write s.mem 0x10000 (leBytes 8 0x20001)) 0x20000 (leBytes 8 0xCF) }

/-- A task whose TCB, all zeros, stands at 0x3000. -/
def tasked : State :=
  mapped ((withRegs 1 0x3000 0x37 (2 ^ 55)).modSlot 0 fun c => { c with troot := 0x10001, xroot := 0x10001, tcb := 0x3000 })

theorem witness_depdec : let s := tasked
    ready s 0 [1] = true ∧ role s = 1 ∧ s.heldBack s.cur .amo = false ∧ (s.reg s.cur 1).toNat < 2 ^ 55 ∧ (s.reg s.cur 1).toNat % 256 = 0 ∧
    s.queuesEmpty s.cur = true ∧ (∀ c ∈ s.cmds, c.seqk ≠ s.cur) ∧
    (match (begun s 0).decrement (taskSource s.cur) (mine s).troot 0x3000 ((begun s 0).ovIds (slotKey s.cur)) with
      | (u, .ok z) => z && decide (u.cur = s.cur)
      | _ => false) = true := by decide +kernel
theorem witness_depdec_counts : let s : State := { tasked with mem := Mem.write tasked.mem 0x3000 (List.replicate 256 1) }
    (match (begun s 0).decrement (taskSource s.cur) (mine s).troot 0x3000 ((begun s 0).ovIds (slotKey s.cur)) with
      | (u, .ok z) => !z && decide (u.cur = s.cur)
      | _ => false) = true := by decide +kernel
theorem witness_depdec_stops : let s := tasked
    issuable s 0 [2] = true ∧ (s.reg s.cur 2).toNat < 2 ^ 55 ∧ (s.reg s.cur 2).toNat % 256 ≠ 0 ∧ issuable s 0 [3] = true ∧
    2 ^ 55 ≤ (s.reg s.cur 3).toNat := by decide +kernel
theorem witness_trig_begins : let s := tasked
    ready s 0 [] = true ∧ (mine s).decs = none ∧ (mine s).triggered = false ∧ (self s).trigWait = none := by decide +kernel
theorem witness_trig_over : let s := tasked.modSlot 0 fun c => { c with triggered := true }
    ready s 0 [] = true ∧ (mine s).decs = none ∧ (mine s).triggered = true ∧ issuable s 0 [1] = true := by decide +kernel
/-- A TRIG that has waited: every operation that its statement names answers. -/
theorem witness_trig_ends : let s := tasked.modSeq 1 fun q => { q with trigWait := some ([], []), issued := true }
    again s 0 = true ∧ (self s).trigWait = some ([], []) ∧
    (match s.successors s.cur with
      | .ok s1 l =>
        match s1.blockAt (taskSource s.cur) (mine s).xroot (mine s).tcb.toNat true with
        | (s2, .ok m) =>
          match (((s2.blockSet m 200 4 (leAt (s2.block m) 200 4 ||| 16)).modSlot 0 fun c => { c with triggered := true }).modSeq 1 fun q =>
              { q with trigWait := none }).taskEnds 0 true with
          | (s3, true) => (match s3.runDecs s.cur 65536 0 l with
            | .done _ => true
            | _ => false)
          | _ => false
        | _ => false
      | _ => false) = true := by decide +kernel
theorem witness_shapew : let s := tasked
    ready s 0 [1] = true ∧ s.heldBack s.cur .store = false ∧ (self s).stores.length < 16 ∧ (mine s).triggered = false ∧
    (mine s).mode ≠ 1 := by decide +kernel

/-- A replayed graph whose image holds one guard record of core 0: kind 1, guard 9, occurrence 0, task 0, value 5. -/
def guarded (image : List Byte) : State :=
  { (withRegs 1 5 0 0).modSlot 0 (fun c => { c with mode := 2, graph := 8 }) with
    graphs := [{ id := 8, tcbs := [0x3000], troot := 0x10001, mode := 2, image := image }] }

theorem witness_guard_plain : ready (running 1) 0 [1] = true ∧ (mine (running 1)).mode ≠ 1 ∧ (mine (running 1)).mode ≠ 2 := by decide +kernel
theorem witness_guard_replayed : ready (guarded []) 0 [1] = true ∧ (mine (guarded [])).mode = 2 ∧
    ((guarded []).graph 8).map (·.mode) = some 2 ∧ ((guarded []).graph 8).bind (fun g => g.guard 0 0 9 0) = none := by decide +kernel

/-- A recorded task of a graph that is being recorded, with nothing staged. -/
theorem witness_guard_recorded : let s := (guarded []).modSlot 0 fun c => { c with mode := 1 }
    let g : Graph := { id := 8, tcbs := [0x3000], troot := 0x10001, mode := 1 }
    let t : State := { s with graphs := [g] }
    ready t 0 [1] = true ∧ (mine t).mode = 1 ∧ t.graph (mine t).graph = some g ∧ g.mode = 1 ∧
    ({ g with staged := [(0, [zeros 64])] } : Graph).stagedIn 0 ≤ 2 ^ 23 := by decide +kernel
theorem witness_tcfg : let s := (withRegs 1 0x0000000080800002 1 0).modSlot 0 fun c => { c with tmap := [0, 1] }
    ready s 0 [1] = true ∧ role s = 1 ∧ (1 : BitVec 3).toNat < (mine s).tmap.length ∧ descBad (s.reg s.cur 1) = false ∧
    issuable s 0 [1] = true ∧ (mine s).tmap.length ≤ (2 : BitVec 3).toNat := by decide +kernel
theorem witness_tcfg_bad : let s := (withRegs 1 0x0000000080800006 1 0).modSlot 0 fun c => { c with tmap := [0] }
    issuable s 0 [1] = true ∧ (0 : BitVec 3).toNat < (mine s).tmap.length ∧ descBad (s.reg s.cur 1) = true := by decide +kernel
theorem witness_mcfg : mcfgAssigned (0x047 : BitVec 11).toNat = true ∧ mcfgAssigned (0x048 : BitVec 11).toNat = false ∧
    mcfgAssigned (0x02D : BitVec 11).toNat = true ∧ mcfgAssigned (0x02E : BitVec 11).toNat = false := by decide

/-! ### Witnesses: commands (R22, R28, R31, R44, R125, R203 to R206) -/

theorem witness_long_issues : let s : State := { withRegs 1 5 6 (2 ^ 55 - 1) with cmds := List.replicate 63 (oneCmd (.tdrop 1 (ext 0 0 0 0)) 0), nextUid := 2 }
    issuable s 0 [1, 2, 3, 0] = true ∧ role s = 1 ∧ Instr.wf (.cpy 0 0 1 2 3 (ext 0 15 1 3)) = true ∧
    s.heldBack s.cur .command = false ∧ (s.inFlight (slotKey s.cur)).length < 64 ∧ (s.copyQueue 0 3).length < 64 ∧
    ((s.inFlight 0).filter fun c => isMgo c.ins).length < 4 ∧ (∀ v ∈ [(1 : BitVec 5), 2, 3], (s.reg s.cur v).toNat < 2 ^ 55) ∧
    (mine s).mode < 2 := by decide +kernel
theorem witness_long_issues_in_l_and_h : issuable (running 0) 0 [0, 0, 1, 2] = true ∧ role (running 0) = 0 ∧
    issuable (running 19) 0 [4, 1, 2, 3] = true ∧ role (running 19) = 3 := by decide +kernel
theorem witness_long_foreign : (running 2).canIssue (running 2).cur = true ∧ role (running 2) ∉ [1, 3] := by decide +kernel

/-- A command of X whose work is done. -/
def doneCmd : Cmd := { oneCmd (.tdrop 1 (ext 0 3 1 0)) 0 with phase := .done, ext := ext 0 3 1 0, rd := 4, result := 9 }

theorem witness_retires : let s : State := { running 1 with cmds := [doneCmd], nextUid := 2 }
    s.cmd doneCmd.uid = some doneCmd ∧ doneCmd.phase = .done ∧ s.behindInQueue doneCmd = false ∧ (∀ u ∈ s.unacked, u.1 ≠ doneCmd.uid) ∧
    (s.slot 0).pushOk 1 doneCmd.ext.t = true ∧ s.pushTurn doneCmd = true ∧ doneCmd.sub = none ∧ doneCmd.inj ≠ 1 ∧ doneCmd.inj ≠ 3 ∧ (s.slot 0).mode ≠ 1 ∧ (s.slot 0).mode ≠ 2 ∧
    (s.seq 1).loads = [] ∧ (s.seq 1).stores = [] ∧ (s.seq 1).fences = [] ∧ (s.seq 1).owed = [] := by decide +kernel
theorem witness_retires_not : let c : Cmd := { doneCmd with phase := .running }
    let s : State := { running 1 with cmds := [c], nextUid := 2 }
    s.cmd c.uid = some c ∧ c.phase ≠ .done := by decide +kernel
/-- Two commands of X push to L, whose FIFO has room for one: the first to issue pushes first. -/
theorem witness_retires_in_issue_order : let a : Cmd := { doneCmd with ext := { doneCmd.ext with t := 4 } }
    let b : Cmd := { a with uid := 2, num := 1 }
    let s : State := { (running 1).modSlot 0 (fun c => { c with xl := 15 }) with cmds := [a, b], nextUid := 3 }
    s.cmd b.uid = some b ∧ s.pushTurn a = true ∧ s.pushTurn b = false := by decide +kernel

/-- A VRUN of X from word 0 to word `last`, of two iterations. -/
def oneRun (v1 : Nat) : Cmd :=
  { oneCmd (.vrun 1 2 3 (ext 3 0 0 0)) 0 with ext := ext 3 0 0 0, v1 := BitVec.ofNat 64 v1, v2 := 2, v3 := 0, lat := { vlen := 128 } }

theorem witness_vrun_starts : let c := oneRun 0x7FF000
    let s : State := { running 1 with cmds := [c], nextUid := 2 }
    s.cmd c.uid = some c ∧ c.phase = .waiting ∧ c.par = [] ∧ c.inj = 0 ∧ s.canStart c = true ∧ (s.slot 0).nodes = [] ∧ (s.slot 0).mode = 0 ∧
    (s.slot 0).demands = [] ∧ c.sub = none ∧ s.ovl = [] ∧
    ¬ (2 ^ 32 ≤ c.v1.toNat ∨ 2 ^ 32 ≤ c.v2.toNat ∨ 2 ^ 3 ≤ c.v3.toNat ∨ c.v1.toNat / 2 ^ 30 % 4 = 3 ∨
      c.v1.toNat / 2 ^ 12 % 2 ^ 12 < c.v1.toNat % 2 ^ 12 ∨ c.v1.toNat % 2 ^ 12 / 2048 ≠ c.v1.toNat / 2 ^ 12 % 2 ^ 12 / 2048) := by
  decide +kernel
theorem witness_vrun_fails : let c := oneRun 0x800000
    let s : State := { running 1 with cmds := [c], nextUid := 2 }
    s.cmd c.uid = some c ∧ c.phase = .waiting ∧ c.par = [] ∧ c.inj = 0 ∧ s.canStart c = true ∧ (s.slot 0).nodes = [] ∧ (s.slot 0).mode = 0 ∧
    (s.slot 0).demands = [] ∧ c.sub = none ∧ s.ovl = [] ∧ c.v1.toNat % 2 ^ 12 / 2048 ≠ c.v1.toNat / 2 ^ 12 % 2 ^ 12 / 2048 := by decide +kernel

/-- A TBLOAD of `n` words from 0x1000 to word `dst`. -/
def oneTable (dst n : Nat) : Cmd :=
  { oneCmd (.tbload 4 1 2 3 (ext 0 0 0 0)) 0 with v1 := 0x1000, v2 := BitVec.ofNat 64 dst, v3 := BitVec.ofNat 64 n, rd := 4 }

theorem witness_tbload : let c := oneTable 4095 1
    let s : State := { windowed 1 (running 1) with cmds := [c], nextUid := 2 }
    s.cmd c.uid = some c ∧ s.canStart c = true ∧ c.phase = .waiting ∧ c.inj = 0 ∧ c.par = [] ∧ (s.slot 0).nodes = [] ∧ (s.slot 0).demands = [] ∧ c.sub = none ∧ s.engineTurn c = true ∧ (s.slot 0).mode = 0 ∧ s.ovl = [] ∧
    sliceOk c.v1.toNat 4 = true ∧ s.window 0 c.v1.toNat 4 = true ∧ c.v1.toNat % 4 = 0 ∧ c.v2.toNat < 4096 ∧
    (c.v2.toNat + c.v3.toNat - 1) / 2048 = c.v2.toNat / 2048 ∧ s.verify .scratch c.v1.toNat 4 = none := by decide +kernel
theorem witness_tbload_bad : let c := oneTable 2047 2
    let s : State := { windowed 1 (running 1) with cmds := [c], nextUid := 2 }
    s.cmd c.uid = some c ∧ s.canStart c = true ∧ c.phase = .waiting ∧ c.par = [] ∧ c.inj = 0 ∧ (s.slot 0).nodes = [] ∧ (s.slot 0).demands = [] ∧
    c.sub = none ∧ s.engineTurn c = true ∧ (s.slot 0).mode = 0 ∧ s.ovl = [] ∧ s.window 0 c.v1.toNat 8 = true ∧
    (c.v2.toNat + c.v3.toNat - 1) / 2048 ≠ c.v2.toNat / 2048 ∧ (running 1).window 0 c.v1.toNat 8 = false := by decide +kernel

/-! ### Witnesses: micro-orders (R206 to R224) -/

/-- Core 0 executes a run of two iterations of words 0 to `last`, at its word 0. -/
def inRun (last : Nat) : State :=
  let c : Cmd := { oneRun (last * 4096) with phase := .running }
  { ((running 1).modSlot 0 fun x => { x with
      tmap := [0], amap := [0], splim := 128, vec := { x.vec with trip := 2, pred := 1, ix := [(1, 63), (2, 64), (3, 127)] }
      queues := [(0, [⟨5, some (List.replicate 512 1)⟩]), (1, [⟨5, none⟩]), (4, List.replicate 7 ⟨0, some (zeros 512)⟩),
        (5, List.replicate 8 ⟨0, some (zeros 512)⟩)] }).setCore 0 { (running 1).core 0 with vrun := some 1 } with
    cmds := [c], nextUid := 2 }
/-- The run. -/
def theRun (last : Nat) : Cmd := { oneRun (last * 4096) with phase := .running }

theorem witness_run : (inRun 0).run = some (theRun 0) ∧ (inRun 1).run = some (theRun 1) ∧
    (vec (inRun 1) (theRun 1)).upc.toNat < 1 ∧ (vec (inRun 0) (theRun 0)).passes + 1 < 2 + 0 := by decide +kernel
theorem witness_guards : guardedOff (inRun 0) (theRun 0) 7 = true ∧ guardedOff (inRun 0) (theRun 0) 1 = false ∧
    permits (inRun 0) (theRun 0) 8 0 = false ∧ permits (inRun 0) (theRun 0) 0 127 = true := by decide +kernel
theorem witness_vector_queues : (Kv.get [] ((inRun 0).slot 0).queues 0).length = 1 ∧ Kv.get [] ((inRun 0).slot 0).queues 1 = [⟨5, none⟩] ∧
    (Kv.get [] ((inRun 0).slot 0).queues 4).length < 8 ∧ 8 ≤ (Kv.get [] ((inRun 0).slot 0).queues 5).length := by decide +kernel
theorem witness_rows : let s := inRun 0
    (0 < (s.slot 0).tmap.length ∧ (s.index 0 1).toNat < 64) ∧ s.verify .tile (s.tileAddr 0 0 (63 * 512)) 512 = none ∧
    ¬ (s.index 0 2).toNat < 64 ∧ (0 < (s.slot 0).amap.length ∧ (s.index 0 3).toNat < 128) ∧ ¬ 1 < (s.slot 0).tmap.length := by
  decide +kernel
theorem witness_vector_spill : 64 * (1 : BitVec 4).toNat + 63 < ((inRun 0).slot 0).spillLimit ∧
    ((inRun 0).slot 0).spillLimit ≤ 64 * (2 : BitVec 4).toNat + 63 := by decide +kernel
/-- A run in slot 4. -/
theorem witness_run_in_slot_four : let c : Cmd := { theRun 0 with seqk := 19 }
    let s : State := { (running 19).setCore 0 { (running 19).core 0 with vrun := some 1 } with cmds := [c], nextUid := 2 }
    s.run = some c ∧ 4 ≤ slotKey c.seqk % 8 := by decide +kernel

/-! ### Witnesses: registers, the board, power, firmware (R252, R332, R372 to R390) -/

theorem witness_run_in_flight : ({ running 1 with cmds := [oneRun 0], nextUid := 2 } : State).runInFlight (slotKey 1) = true ∧
    (running 1).runInFlight (slotKey 1) = false := by decide +kernel
/-- An arena of 64 KiB at 0x10000 whose directory names one live handle. -/
theorem witness_live_handle : let s : State := { (running 1).modSlot 0 fun c => { c with tha := 0x4000010000, swin := [(0, 0x4200010000)] } with
      scratch := Mem.write [] 0x10000 (leBytes 16 (2 ^ 126)) }
    s.liveHandles (slotKey s.cur) ≠ [] ∧ s.liveHandles (slotKey (running 23).cur) = [] := by decide +kernel

/-- A submission ring of 16 records, none taken, and tail 4. -/
def ringed : State := { State.reset with host := { sqsize := 16, tail := 4 } }
theorem witness_wake_limits : let h := ringed.host
    h.sqsize.toNat < ((17 : BitVec 32) - h.sqhead).toNat ∧ ¬ h.sqsize.toNat < ((16 : BitVec 32) - h.sqhead).toNat ∧
    ((3 : BitVec 32) - h.sqhead).toNat < (h.tail - h.sqhead).toNat ∧ (h.tail - h.sqhead).toNat ≤ ((4 : BitVec 32) - h.sqhead).toNat := by
  decide +kernel
theorem witness_ring_drained : State.reset.host.sqhead = State.reset.host.tail ∧ ringed.host.sqhead ≠ ringed.host.tail ∧
    (4096 : Word).toNat % 2 ^ 13 = 16 * 2 ^ 8 ∧ (0 : Word).toNat % 2 ^ 13 = 0 := by decide +kernel
theorem witness_mailbox : ({ ready := true, mbox := [(0, 5)] } : HostSt).ready = true ∧
    mboxOk ({ State.reset with host := { ready := true, mbox := [(0, 5)] } } : State).mboxBytes = true ∧
    mboxOk ({ State.reset with host := { ready := true, mbox := [(0, 10)] } } : State).mboxBytes = false := by decide +kernel
theorem witness_pending_vector : (4 : Word).getLsbD ((0x1028 - 0x1000) / 16) = true ∧ 0x1028 % 16 = 8 ∧ (0 : Word).getLsbD 32 = false := by
  decide +kernel
theorem witness_halted_octant : let s : State := { State.reset with cores := (coresOf 7).map fun c => (c, { halted := true }) }
    7 < 8 ∧ ∀ c ∈ coresOf 7, (s.core c).halted = true := by decide +kernel

/-- A mailbox command of a code with operands at offsets. -/
def boxed (code : Nat) (l : List (Nat × List Byte)) : List Byte := l.foldl (fun b x => patch b x.1 x.2) (patch (zeros 64) 0 [BitVec.ofNat 8 code])
/-- The firmware runs a mailbox command; host memory holds bytes at 0x1000. -/
def mailed (code : Nat) (l : List (Nat × List Byte)) (bytes : List Byte) (conf : Bool) : State :=
  mapped { State.reset with mem := Mem.write [] (2 * 2 ^ 50 + 0x1000) bytes, host := { ready := true, busy := true, configured := conf, cmd := boxed code l } }

/-- A configuration record: one pool page an octant, a directory of 1024 entries at 0, captures at 1 MiB, windows of
4096 bytes at 0 and 4096, heartbeats every 50 us. -/
def configRec : List Byte :=
  [(0, leBytes 4 1), (4, leBytes 4 1), (16, leBytes 4 1024), (24, leBytes 8 0x100000), (40, leBytes 8 0x200000000),
    (48, leBytes 8 0x200001000), (56, leBytes 2 50)].foldl (fun b x => patch b x.1 x.2) (zeros 128)

theorem witness_config : let s := mailed 1 [(8, leBytes 8 0x1000)] configRec false
    mailRuns s 1 ∧ s.host.configured = false ∧ configOk (hostBytes s (boxField s 8 8) 128) = true ∧
    ∀ l ∈ (List.range 8).map (fun o => takePages (configAreas configRec) o 0x180000 (s.choose 0x180000).2 1 []), l.length = 1 := by
  unfold mailRuns; decide +kernel
theorem witness_config_refused : let s := mailed 1 [(8, leBytes 8 0x1000)] (zeros 128) false
    mailRuns s 1 ∧ configOk (hostBytes s (boxField s 8 8) 128) = false := by unfold mailRuns; decide +kernel
theorem witness_mailbox_out_of_range : let s := mailed 2 [(16, leBytes 8 (2 ^ 55)), (24, leBytes 4 8)] [] true
    s.host.ready = true ∧ s.host.updating = false ∧ s.host.busy = true ∧ leAt s.host.cmd 0 1 = 2 ∧ mboxOk s.host.cmd = false := by decide +kernel
theorem witness_mailbox_unconfigured : let s := mailed 5 [] [] false
    mboxOk s.host.cmd = true ∧ leAt s.host.cmd 0 1 = 5 ∧ s.host.configured = false := by decide +kernel
theorem witness_load : let s := mailed 2 [(8, leBytes 8 0x1000), (16, leBytes 8 0x5000), (24, leBytes 4 8), (32, leBytes 8 0x10001)] [1, 2, 3] true
    let v : State := { s with nextUid := s.nextUid + 1, host := { s.host with loadUid := s.nextUid } }
    mailRuns s 2 ∧ s.host.loadUid = 0 ∧ (match v.writeVirt mailSource (BitVec.ofNat 64 (boxField s 32 8)) (originTag 3 0) s.nextUid 2 (boxField s 16 8)
      (hostBytes s (boxField s 8 8) 8) s.host.moved with
      | (t, _, .ok ()) => t.unacked.all fun x => decide (x.1 ≠ s.nextUid)
      | _ => false) = true ∧
    (match v.xlatePlain mailSource (BitVec.ofNat 64 (boxField s 32 8)) 0x5000 { kind := 1 } with
      | (t, .ok pa _) => decide (memKey pa = 0x5000) && t.unacked.isEmpty && (List.range 8).all fun j => (t.verifyLine .main (memKey pa + j)).isNone
      | _ => false) = true := by unfold mailRuns; decide +kernel
/-- With translation disabled a LOAD asks and is held; what it has written stays counted. -/
theorem witness_load_held : let s := mailed 2 [(24, leBytes 4 8)] [] true
    let v : State := { s with nextUid := s.nextUid + 1, host := { s.host with loadUid := s.nextUid } }
    mailRuns s 2 ∧ (match v.writeVirt mailSource 0 (originTag 3 0) s.nextUid 2 0 (hostBytes s 0 8) s.host.moved with
      | (_, _, .hold) => true
      | _ => false) = true := by unfold mailRuns; decide +kernel
theorem witness_load_declined : let s : State := { mailed 2 [(24, leBytes 4 8)] [] true with
      requests := [⟨1, 0, 0, 0, 0, 0, 3, 0, 1, 1, 0, 0, [.mailbox], true⟩] }
    let v : State := { s with nextUid := s.nextUid + 1, host := { s.host with loadUid := s.nextUid } }
    mailRuns s 2 ∧ (match v.writeVirt mailSource 0 (originTag 3 0) s.nextUid 2 0 (hostBytes s 0 8) s.host.moved with
      | (_, _, .fault _ _) => true
      | _ => false) = true := by unfold mailRuns; decide +kernel
/-- The page of a LOAD is at peer 1, whose acknowledgement is awaited; and a LOAD meets a line that fails its check. -/
theorem witness_load_at_a_peer : let s0 := mailed 2 [(8, leBytes 8 0x1000), (16, leBytes 8 0x5000), (24, leBytes 4 8), (32, leBytes 8 0x10001)] [1, 2, 3] true
    let s : State := { s0 with nextUid := 8, peers := [1], mem := Mem.write s0.mem 0x20000 (leBytes 8 (3 * 2 ^ 50 + 2 ^ 42 + 0xCF)), host := { s0.host with loadUid := 7 } }
    mailRuns s 2 ∧ s.host.loadUid = 7 ∧ (match s.writeVirt mailSource (BitVec.ofNat 64 (boxField s 32 8)) (originTag 3 0) 7 2 (boxField s 16 8)
      (hostBytes s (boxField s 8 8) 8) s.host.moved with
      | (t, _, .ok ()) => t.unacked.any fun x => decide (x.1 = 7)
      | _ => false) = true := by unfold mailRuns; decide +kernel
theorem witness_load_fails_its_check : let s0 := mailed 2 [(8, leBytes 8 0x1000), (16, leBytes 8 0x5000), (24, leBytes 4 8), (32, leBytes 8 0x10001)] [1, 2, 3] true
    let s : State := { s0 with nextUid := 8, bad := [(lineKey .main 0x5000, 5)], host := { s0.host with loadUid := 7 } }
    mailRuns s 2 ∧ (match s.writeVirt mailSource (BitVec.ofNat 64 (boxField s 32 8)) (originTag 3 0) 7 2 (boxField s 16 8)
      (hostBytes s (boxField s 8 8) 8) s.host.moved with
      | (_, _, .bad _) => true
      | _ => false) = true := by unfold mailRuns; decide +kernel
theorem witness_gang : let s := mailed 3 [(8, leBytes 2 1), (10, leBytes 2 2), (16, leBytes 8 0x1000)] [] true
    mailRuns s 3 := by unfold mailRuns; decide +kernel
/-- A window of ranks 0 and 1, home at the second, in a gang of two; one of rank 2 is out of range. -/
theorem witness_redwin : let s0 := mailed 4 [(16, leBytes 8 0x1000)] (patch (patch (patch (zeros 64) 16 [2]) 18 [1]) 32 [3]) true
    let s : State := { s0 with host := { s0.host with gang := [0, 0] } }
    let r := hostBytes s (boxField s 16 8) 64
    mailRuns s 4 ∧ leAt r 16 2 = 2 ∧ ((List.range 256).filter fun k => (leAt r 32 32).testBit k) = [0, 1] ∧ leAt r 18 2 < leAt r 16 2 ∧
    leAt r 0 8 % 65536 = 0 ∧ leAt r 8 8 % 65536 = 0 ∧ leAt r 20 12 = 0 ∧
    (∀ k ∈ (List.range 256).filter (fun k => (leAt r 32 32).testBit k), k < s.host.gang.length) ∧
    (s.host.redwins.find? fun w => w.1 == boxField s 8 1) = none := by unfold mailRuns; decide +kernel
/-- Window 0 is there already, and its one contribution is not of a CPR in flight; a rank beyond the gang is refused. -/
theorem witness_redwin_again : let s : State := { mailed 4 [(16, leBytes 8 0x1000)] [] true with contribs := [⟨0, 1, 0, 0, 0, []⟩] }
    let w : RedWin := ⟨0, 65536, 0, [0, 1], []⟩
    let t : State := { s with host := { s.host with redwins := [(0, w)] } }
    mailRuns t 4 ∧ (t.host.redwins.find? fun x => x.1 == boxField t 8 1) = some (0, w) ∧ t.cmds = [] := by unfold mailRuns; decide +kernel
theorem witness_redwin_ends_a_command (ph : Phase) : let s0 : State := { mailed 4 [(16, leBytes 8 0x1000)] [] true with contribs := [⟨0, 0, 1, 2, 0, []⟩] }
    let c : Cmd := { oneCmd (.cprAddI32 0 1 2 3 (ext 0 0 0 0)) 0 with phase := ph, v1 := 0x1FFFF }
    let w : RedWin := ⟨0x10000, 65536, 0, [0, 1], []⟩
    let s : State := { s0 with cmds := [c], host := { s0.host with redwins := [(0, w)] } }
    mailRuns s 4 ∧ (s.host.redwins.find? fun x => x.1 == boxField s 8 1) = some (0, w) ∧ s.cmds = [c] ∧ engineOf c.ins = 1 ∧
    (cpMember c.ins).1 = 0 ∧ (cprOp c.ins).2 = false ∧ c.failed = false ∧ (∃ x ∈ s.contribs, x.win = 0 ∧ x.uid = c.uid) ∧ c.sub = none := by
  unfold mailRuns
  cases ph <;> decide +kernel
theorem witness_redwin_refused : let s := mailed 4 [(16, leBytes 8 0x1000)] (patch (patch (patch (zeros 64) 16 [2]) 18 [1]) 32 [3]) true
    mailRuns s 4 ∧ leAt (hostBytes s (boxField s 16 8) 64) 16 2 ≠ 0 ∧ ¬ 1 < s.host.gang.length ∧
    1 ∈ (List.range 256).filter (fun k => (leAt (hostBytes s (boxField s 16 8) 64) 32 32).testBit k) := by unfold mailRuns; decide +kernel
theorem witness_redwin_removed : let s := mailed 4 [(16, leBytes 8 0x1000)] [] true
    mailRuns s 4 ∧ leAt (hostBytes s (boxField s 16 8) 64) 16 2 = 0 := by unfold mailRuns; decide +kernel
theorem witness_poolrst : mailRuns (mailed 5 [] [] true) 5 ∧ (mailed 5 [] [] true).cmds = [] ∧ (mailed 5 [] [] true).graphs = [] := by
  unfold mailRuns; decide +kernel
theorem witness_poolrst_waits : let c : Cmd := { oneCmd (.capin 0 1 (ext 0 0 0 0)) 0 with phase := .done }
    let s : State := { mailed 5 [] [] true with cmds := [c] }
    mailRuns s 5 ∧ ∃ c ∈ s.cmds, caSub c.ins ≠ 0 ∧ c.phase ≠ .waiting ∧ c.failed = false := by unfold mailRuns; decide +kernel
theorem witness_release : let s : State := { mailed 6 [(8, leBytes 8 0x3000), (16, leBytes 8 0x10001)] [] true with haltedRegions := [0x3000] }
    mailRuns s 6 ∧ (match s.blockAt mailSource (BitVec.ofNat 64 (boxField s 16 8)) (boxField s 8 8) false with
      | (t, .ok n) => t.haltedRegions.contains n
      | _ => false) = true ∧
    (match ({ s with haltedRegions := [] } : State).blockAt mailSource (BitVec.ofNat 64 (boxField s 16 8)) (boxField s 8 8) false with
      | (t, .ok n) => !t.haltedRegions.contains n
      | _ => false) = true := by unfold mailRuns; decide +kernel
/-- The RCB or TCB that RELEASE and HOLDEND name: its page is waited for, or declined, or its line is bad. -/
def blocked (code : Nat) (troot : Nat) (l : List Request) (bad : List (Nat × BitVec 32)) : State :=
  { mailed code [(8, leBytes 8 0x3000), (16, leBytes 8 troot)] [] true with requests := l, bad := bad }
theorem witness_block_not_there (code : Nat) (h : code = 6 ∨ code = 7) (w : Bool) :
    let held := blocked code 0 [] []
    let refused := blocked code 0x10001 [⟨1, 0x3000, 0, 0, 0, 0, 0, 0, 1, 1, 0, 0, [.mailbox], true⟩] []
    let bad := blocked code 0x10001 [] [(lineKey .main 0x3000, 0)]
    let b (s : State) := s.blockAt mailSource (BitVec.ofNat 64 (boxField s 16 8)) (boxField s 8 8) w
    mailRuns held code ∧ mailRuns refused code ∧ mailRuns bad code ∧
    (match b held with | (_, .hold) => true | _ => false) = true ∧ (match b refused with | (_, .fault _ _) => true | _ => false) = true ∧
    (match b bad with | (_, .bad _) => true | _ => false) = true := by
  rcases h with rfl | rfl <;> cases w <;> (unfold mailRuns; decide +kernel)

/-- A task held with a fault code, its TCB at 0x3000. -/
def oneSaved : Saved :=
  { tcb := 0x3000, core := 0, slot := { Slot.init 0 with tcbAt := 0x3000, tcb := 0x3000, rcd := some oneReady, xroot := 0x10001 }, seqs := [{}, {}, {}, {}], cmds := []
    reason := 3, held := some 6 }

theorem witness_holdend (e : Bool) : let s : State := { mailed 7 [(8, leBytes 8 0x3000), (16, leBytes 8 0x10001), (24, [if e then 1 else 0])] [] true with saved := [oneSaved] }
    mailRuns s 7 ∧ boxField s 24 1 = (if e then 1 else 0) ∧ oneSaved.slot.rcd.isSome = true ∧
    (match s.blockAt mailSource (BitVec.ofNat 64 (boxField s 16 8)) (boxField s 8 8) true with
      | (t, .ok n) => decide ((t.saved.find? fun v => v.held.isSome && decide (v.slot.tcbAt = n)) = some oneSaved)
      | _ => false) = true ∧ ({ s with saved := [] } : State).saved = [] := by cases e <;> (unfold mailRuns; decide +kernel)
/-- Whatever the signature check says of a blob, a clause of its statement covers a running PATCH and UPDATE. -/
theorem witness_patch_and_update : let s := mailed 8 [(8, leBytes 8 0x1000), (16, leBytes 4 3)] [1, 2, 3] true
    let u := mailed 9 [(8, leBytes 8 0x1000), (16, leBytes 4 3)] [1, 2, 3] true
    mailRuns s 8 ∧ mailRuns u 9 ∧ s.choices = [] ∧
    (Config.signatureOk [1, 2, 3] = false ∨ Config.signatureOk [1, 2, 3] = true ∧ Config.patchBase [1, 2, 3] ≠ s.running ∨
      Config.signatureOk [1, 2, 3] = true ∧ Config.patchBase [1, 2, 3] = s.running) := by
  refine ⟨by unfold mailRuns; decide +kernel, by unfold mailRuns; decide +kernel, rfl, ?_⟩
  rcases Bool.eq_false_or_eq_true (Config.signatureOk [1, 2, 3]) with h | h
  · exact (Classical.em _).elim (fun e => .inr (.inr ⟨h, e⟩)) fun e => .inr (.inl ⟨h, e⟩)
  · exact .inl h
theorem witness_patch_waits : ({ mailed 8 [] [] true with choices := [1] } : State).choices = 1 :: [] ∧ 1 % 2 = 1 := by decide +kernel
theorem witness_patch_timeout : let s : State := { mailed 8 [] [] true with time := 10 ^ 10 + 5, host := { (mailed 8 [] [] true).host with since := some 5 } }
    s.host.since = some 5 ∧ s.host.busy = true ∧ leAt s.host.cmd 0 1 = 8 ∧ (5 : BitVec 64).toNat + 10 ^ 10 ≤ s.time.toNat := by decide +kernel
theorem witness_update_ends : let s : State := { State.reset with time := 500000000, host := { updating := true, since := some 0 } }
    s.host.since = some 0 ∧ s.host.updating = true ∧ s.time.toNat ≤ (0 : BitVec 64).toNat + 500000000 ∧
    (0 : BitVec 64).toNat + 500000000 ≤ s.time.toNat := by decide +kernel
theorem witness_signatures : State.reset.host.updating = false ∧ State.reset.host.signed < 2 ^ 20 ∧ 2 ^ 20 ≤ ({ signed := 2 ^ 20 } : HostSt).signed := by decide +kernel

/-! ### Witnesses: translation, messages, the fabric (R85 to R98, R134 to R143, R343, R381) -/

/-- A TLB entry that shows page 0 at the same address, for execution. -/
def codePage : TlbEntry := { asid := 0, page := 0, base := 0, w := false, x := true, cls := 2, dirty := false }
/-- A sequencer whose page 0 its TLB shows at the same address. -/
def fetching : State := (mapped ((running 1).modSlot 0 fun c => { c with troot := 0x10001 })).modSeq 1 fun q => { q with tlb := [codePage] }

theorem witness_fetch : let s := fetching
    s.canIssue 1 = true ∧ (s.seq 1).pc.toNat < 2 ^ 55 ∧ (s.seq 1).pc.toNat % 2 ^ 16 + 4 < 2 ^ 16 ∧ s.waitsOn (.fetch 1) = none ∧
    (s.slot 0).troot.getLsbD 0 = true ∧ tlbHit (s.seq 1).tlb ((s.slot 0).troot.toNat / 2 ^ 52) 0x1000 { kind := 2 } = some codePage ∧ codePage.acc = true ∧
    s.verify .main (memKey 0x1000) 4 = none ∧ s.verify .main (memKey 0x1004) 4 = none ∧ State.reset.canIssue 1 = false := by decide +kernel
theorem witness_fetch_beyond : let s := (running 1).modSeq 1 fun q => { q with pc := BitVec.ofNat 64 (2 ^ 55) }
    s.canIssue 1 = true ∧ 2 ^ 55 ≤ (s.seq 1).pc.toNat := by decide +kernel
theorem witness_walk : (match fetching.walkFor (fetching.slot 0).troot 0x1234 { kind := 1, copy := true } with
      | .ok (_, some _, _) => true
      | _ => false) = true ∧ (match State.reset.walkFor 0 0x1234 { kind := 1, copy := true } with
      | .ok (_, none, _) => true
      | _ => false) = true := by decide +kernel

/-- A fault request of the X sequencer's fetch. -/
def fetchRequest (declined : Bool) : Request := ⟨7, 0x1000, 0, 0, 0, 0, 0, 0, 2, 1, 0, 0, [.fetch 1], declined⟩
theorem witness_requests : let s : State := { running 1 with requests := [fetchRequest false] }
    s.host.updating = false ∧ fetchRequest false ∈ s.requests ∧ (fetchRequest false).declined = false ∧
    (∀ x ∈ s.requests, x.id = 7 → x = fetchRequest false) ∧ s.waitsOn (.fetch 1) = some (fetchRequest false) ∧ s.canIssue 1 = true ∧
    (s.seq 1).pc.toNat < 2 ^ 55 ∧ (fetchRequest false).asid = (s.slot 0).troot.toNat / 2 ^ 52 ∧
    (fetchRequest false).va.toNat / 2 ^ 16 = (s.seq 1).pc.toNat / 2 ^ 16 ∧ (fetchRequest true).declined = true := by decide +kernel
theorem witness_request_of_others : ∀ w ∈ ({ fetchRequest false with waiters := [.mailbox] } : Request).waiters, ∀ j, w ≠ .command j ∧ w ≠ .fetch j := by
  simp
theorem witness_updating : ({ updating := true } : HostSt).updating = true := rfl
theorem witness_scrub : State.reset.host.updating = false ∧ State.reset.ecc.contains (lineKey .main (memKey 0)) = false ∧
    ({ State.reset with ecc := [lineKey .main (memKey 0)] } : State).ecc.contains (lineKey .main (memKey 0)) = true := by decide +kernel
theorem witness_shootdown_quiet : let s := running 1
    s.shots = [] ∧ (∀ q ∈ s.seqs, q.2.stores = []) ∧ s.contribs = [] ∧ s.unacked = [] := by decide +kernel
theorem witness_shootdown_waits : let s : State := { running 1 with unacked := [(1, 2, 0x80)] }
    s.shots = [] ∧ s.unacked ≠ [] := by decide +kernel

/-- A start record. -/
def oneStart : HandlerRec := ⟨0x40, 8, 3, 9, 0x2000⟩
theorem witness_handler_accepted : let c := oneCmd (.cpm 1 1 2 3 (ext 0 0 0 0)) 0
    let s : State := { (running 1).setCore 0 { hq := List.replicate 15 oneStart, hqWait := [(1, oneStart)] } with cmds := [c], nextUid := 2 }
    (s.core 0).hqWait = (c.uid, oneStart) :: [] ∧ s.cmd c.uid = some c ∧ (s.core 0).hq.length < 16 := by decide +kernel
theorem witness_handler_full : let s := (running 1).setCore 0 { hq := List.replicate 16 oneStart, hqWait := [(1, oneStart)] }
    16 ≤ (s.core 0).hq.length := by decide +kernel
theorem witness_handler_starts : let s := State.reset.setCore 0 { hq := [oneStart] }
    (s.core 0).hq = oneStart :: [] ∧ (s.slot 4).busy = false ∧ (s.slot 4).stopping = none ∧ (s.core 0).halted = false := by decide +kernel

/-- A CPR of one element of 32 bits on its way to 0x100, from 0x200, with parameters n, place and table. -/
def oneCpr (float : Bool) (sent : Nat) (par : List Int) : Cmd :=
  { oneCmd (if float then .cprFaddF32 1 1 2 3 (ext 4 0 0 0) else .cprAddI32 1 1 2 3 (ext 0 0 0 0)) 0 with
    v1 := 0x100, v2 := 0x200, phase := .running, sent := sent, par := par }
/-- A module in which it is in flight; the block at 0x300 lists one place, of core `who`. -/
def contributing (c : Cmd) (who cursor : Nat) : State :=
  { running 1 with
    cmds := [c], nextUid := 2
    scratch := Mem.write [] 0x300 (patch (patch (patch (zeros 144) 0 [2]) 8 (leBytes 1 cursor)) 16 (leBytes 2 who)) }

theorem witness_cpr_plain (f : Bool) : let c := oneCpr f 1 [1, 0, 0]
    let s := contributing c 0 0
    s.cmd c.uid = some c ∧ sliceCpr c.ins = true ∧ c.failed = false ∧ c.sub = none ∧ c.sent = 1 ∧ c.parN 2 = 0 ∧ ((cprOp c.ins).1 = 1 ↔ f = true) ∧
    s.verify .scratch c.v2.toNat 4 = none ∧ s.verify .scratch c.v1.toNat 4 = none := by cases f <;> decide +kernel
theorem witness_cpr_table_elsewhere : let c := oneCpr false 1 [1, 0, 2 ^ 23]
    c.parN 2 ≠ 0 ∧ c.parN 2 / 2 ^ 23 ≠ c.v1.toNat / 2 ^ 23 ∧ (contributing c 0 0).cmd c.uid = some c := by decide +kernel
theorem witness_cpr_turn : let c := oneCpr true 1 [1, 0, 0x300]
    let s := contributing c 0 1
    s.cmd c.uid = some c ∧ c.parN 2 / 2 ^ 23 = c.v1.toNat / 2 ^ 23 ∧ s.verify .scratch (c.parN 2) 144 = none ∧
    (s.roundOf (c.parN 2)).2.head? = some 2 ∧ c.parN 1 < 2 ∧ (s.roundOf (c.parN 2)).2.tail.getD (c.parN 1) 0 = c.seqk / 32 ∧
    s.cursor (c.parN 2) ≠ c.parN 1 := by decide +kernel
theorem witness_cpr_not_mine : let c := oneCpr true 1 [1, 0, 0x300]
    ((contributing c 5 0).roundOf (c.parN 2)).2.tail.getD (c.parN 1) 0 ≠ c.seqk / 32 := by decide +kernel
theorem witness_cpr_absent_core : let c := oneCpr true 1 [1, 0, 0x300]
    let s := contributing c 12 0
    s.cmd c.uid = some c ∧ c.parN 2 ≠ 0 ∧ c.parN 2 / 2 ^ 23 = c.v1.toNat / 2 ^ 23 ∧ s.verify .scratch (c.parN 2) 144 = none ∧
    (s.roundOf (c.parN 2)).2.head? = some 2 ∧ c.parN 1 < 2 ∧ coreExists ((s.roundOf (c.parN 2)).2.tail.getD (c.parN 1) 0) = false := by decide +kernel
theorem witness_cpr_refused : let c := oneCpr true 3 [1, 0, 0x300]
    (contributing c 0 0).cmd c.uid = some c ∧ sliceCpr c.ins = true ∧ c.sent = 3 ∧ c.failed = false := by decide +kernel
theorem witness_cpr_admitted : let c := oneCpr true 2 [1, 1, 0x300]
    let s := contributing c 0 1
    let t := (s.roundOf 0x300).1
    s.admissible 0 = some c ∧ (s.roundOf (c.parN 2)).2.head? = some 2 ∧ 2 < 256 ∧ ((t.applyCpr c).cmd c.uid).any (·.failed) = false ∧
    2 ≤ (t.applyCpr c).cursor 0x300 + 1 ∧ State.reset.admissible 0 = none := by decide +kernel
theorem witness_cpr_admitted_early : let c := oneCpr true 2 [1, 0, 0x300]
    let t := ((contributing c 0 0).roundOf 0x300).1
    (contributing c 0 0).admissible 0 = some c ∧ (t.applyCpr c).cursor 0x300 + 1 < 2 := by decide +kernel
theorem witness_round_closes : let c := oneCpr false 4 [1, 0, 0]
    let me : Contribution := ⟨3, 0, 1, 2, 0, [⟨0x100, 0, 5, none⟩]⟩
    let peer : Contribution := ⟨3, 1, 0, 0, 0x100, [⟨0x100, 0, 6, none⟩]⟩
    let r : RedWin := ⟨0, 65536, 0, [0, 1], []⟩
    let s : State := { running 1 with cmds := [c], nextUid := 2, contribs := [me, peer], host := { redwins := [(3, r)] } }
    (s.host.redwins.find? fun z => z.1 == 3) = some (3, r) ∧ r.ranks = [s.host.rank, 1] ∧ r.home = 0 ∧ 1 ≠ s.host.rank ∧
    me = ⟨3, s.host.rank, c.uid, 2, 0, [⟨0x100, 0, 5, none⟩]⟩ ∧ c.uid ≠ 0 ∧ c.failed = false ∧ peer.elems = [⟨peer.base, 0, 6, none⟩] ∧ peer.base = 0x100 ∧
    s.contribs = [me, peer] ∧ s.cmd c.uid = some c ∧ s.verify .main 0x100 (reduceBytes 2) = none ∧
    (State.reset.host.redwins.find? fun x => x.1 == 3) = none := by decide +kernel

theorem witness_peer_read : (0 + 128 * 32 ≤ Config.dramBytes) ∧ (∀ i, i < 32 → State.reset.verifyLine .main (0 + 128 * i) = none) ∧
    Config.dramBytes < Config.dramBytes + 128 * Min.min 1 32 ∧
    ({ State.reset with ecc := [lineKey .main 0] } : State).verifyLine .main (0 + 128 * 0) ≠ none := by decide +kernel
theorem witness_peer_write : (zeros 128).length = 128 ∧ (0x80 : BitVec 52).toNat / 2 ^ 40 % 4 = 0 ∧ 0x80 + 128 * [FlitLine.mk (zeros 128) (crc32c (zeros 128)) 0].length ≤ Config.dramBytes ∧
    (BitVec.ofNat 52 (2 ^ 40)).toNat / 2 ^ 40 % 4 ≠ 0 := by decide +kernel
theorem witness_window_rank : let s : State := { State.reset with peers := [1], host := { redwins := [(3, ⟨0, 65536, 0, [0, 1], []⟩)] } }
    (∃ w : Nat × RedWin, (s.host.redwins.find? fun x => x.1 == 3) = some w ∧ w.2.ranks.contains (1 : BitVec 8).toNat = true) ∧
    ∀ w, (s.host.redwins.find? fun x => x.1 == 3) = some w → w.2.ranks.contains (2 : BitVec 8).toNat = false := by
  refine ⟨⟨_, rfl, by decide⟩, ?_⟩
  intro w h; cases h; decide

/-- A directory of 1024 entries at 0 whose entry 5 names shape 5 × 2^96 in a state. -/
def directed (state ver lines : Nat) (root : Nat) (s : State) : State :=
  { s with dirEntries := 1024
           mem := Mem.write s.mem 320 (leBytes 16 (5 * 2 ^ 96) ++ leBytes 16 root ++ leBytes 4 ver ++ leBytes 4 lines ++ leBytes 4 0 ++ leBytes 1 state) }

theorem witness_directory : (directed 2 1 1 0 State.reset).host.updating = false ∧ (directed 2 1 1 0 State.reset).dirFind (5 * 2 ^ 96) = some 5 ∧ (directed 2 1 1 0 State.reset).dirField 5 44 1 = 2 ∧
    (directed 1 1 1 0 State.reset).dirField 5 44 1 ≠ 2 ∧ (directed 2 1 1 0 State.reset).dirFind (6 * 2 ^ 96) = none := by decide +kernel
theorem witness_acknowledged : ({ State.reset with unacked := [(1, 2, 0x80)] } : State).unacked = [(1, (2 : BitVec 8).toNat, 0x80)] := by decide +kernel
theorem witness_stop_notice : let g : Graph := { id := 8, tcbs := [0x3000], troot := 0, mode := 2, shape := 7, ver := 1, started := [0] }
    let s : State := { State.reset with graphs := [g] }
    s.notices = [] ∧ s.graphs = [g] ∧ g.mode = 2 ∧ g.shape = 7 ∧ g.ver = 1 ∧ g.toRelease = [] ∧ g.image = [] ∧
    (∀ t, t < g.tcbs.length → t ∈ g.started) ∧ (0x3FF : BitVec 10).toNat = 0x3FF ∧
    ∀ x ∈ s.graphs, ¬ (x.mode = 2 ∧ x.shape = 6 ∧ x.ver = 1) := by decide +kernel

/-! ### A save area is written when the page tables show its pages (R360, R362) -/

/-- The page tables of `mapped` stand in memory, and nothing keeps an access from them. -/
structure Paged (s : State) : Prop where
  requests : s.requests = []
  bad : s.bad = []
  ecc : s.ecc = []
  root : Mem.read s.mem 0x10000 8 = leBytes 8 0x20001
  leaf : Mem.read s.mem 0x20000 8 = leBytes 8 0xCF

theorem Paged.pte_root {s : State} (h : Paged s) : s.pte 0x10000 = .ok 0x20001 := by
  have e : memKey 0x10000 = 0x10000 := by decide
  simp only [State.pte, e, State.verify_clean s .main _ _ h.bad h.ecc, State.bytes, h.root]
  rfl

theorem Paged.pte_leaf {s : State} (h : Paged s) : s.pte 0x20000 = .ok 0xCF := by
  have e : memKey 0x20000 = 0x20000 := by decide
  simp only [State.pte, e, State.verify_clean s .main _ _ h.bad h.ecc, State.bytes, h.leaf]
  rfl

theorem Paged.walk {s : State} (h : Paged s) (va : Nat) (hv : va < 2 ^ 29) :
    s.walk va 1 [42, 29, 16] 0x10000 = .leaf 0xCF 0x20000 va := by
  have a : 0x10000 + va / 2 ^ 42 % 8192 * 8 = 0x10000 := by omega
  have b : 0x20000 + va / 2 ^ 29 % 8192 * 8 = 0x20000 := by omega
  have c : va % 2 ^ 29 = va := by omega
  have k : s.badTable 0x20001 = false := by
    unfold State.badTable
    rw [show bits (0x20001 : Word) 16 36 * 2 ^ 16 = 0x20000 from by decide, show s.noMemory 0x20000 = false from rfl]
    decide
  have e : bits (0x20001 : Word) 16 36 * 2 ^ 16 = 0x20000 := by decide
  unfold State.walk
  simp only [a, h.pte_root]
  rw [if_neg (by decide), if_neg (by decide), k, if_neg (by decide), e]
  unfold State.walk
  simp only [b, h.pte_leaf]
  rw [if_neg (by decide), if_pos (by decide), if_neg (by decide), c]
  rw [show bits (0xCF : Word) 16 36 = 0 from by decide, Nat.zero_mul, Nat.zero_add]

theorem Paged.xlate {s : State} (h : Paged s) (src : Source) (va : Nat) (hv : va < 2 ^ 29) :
    s.xlatePlain src 0x10001 va { kind := 1 } = (s, .ok va 0) := by
  have z : va / 2 ^ 50 = 0 := by omega
  have m : s.noMemory va = false := by
    unfold State.noMemory
    rw [z, if_neg (by decide), if_neg (by decide)]
    have : va % 2 ^ 50 = va := by omega
    rw [this]
    exact decide_eq_false (by unfold Config.dramBytes; omega)
  have f : s.leafReason 0xCF va { kind := 1 } = 0 := by
    have z' : va / 1125899906842624 = 0 := z
    have : classAgrees 0 va = true := by simp [classAgrees, z']
    unfold State.leafReason
    rw [show bits (0xCF : Word) 4 2 = 0 from by decide, this, m]
    rfl
  have o : s.orPte 0x20000 0xCF true = .ok s := rfl
  have w := h.walk va hv
  have q : s.walkFor 0x10001 va { kind := 1 } = .ok (s, some { asid := 0, page := va / 2 ^ 16, base := va / 2 ^ 16 * 2 ^ 16, w := true, x := true, cls := 0, dirty := true, pte := 0x20000 }, 0) := by
    unfold State.walkFor
    rw [show bits (0x10001 : Word) 16 36 * 2 ^ 16 = 0x10000 from by decide, show s.noMemory 0x10000 = false from rfl, w]
    simp only [f, decide_true, o]
    rfl
  unfold State.xlatePlain State.xlate State.asksNothing State.waitsPage
  rw [h.requests]
  simp only [List.find?_nil, Option.isNone_none, List.any_nil, Bool.not_false, Bool.and_self, Bool.not_true, Bool.false_eq_true, if_false, tlbHit, q]
  have : va / 2 ^ 16 * 2 ^ 16 + va % 2 ^ 16 = va := by omega
  rw [show bits (0x10001 : Word) 0 1 = 1 from by decide]
  simp only [if_true, this]

/-- Bytes past the tables leave them. -/
theorem Paged.poke {s : State} (h : Paged s) (a : Nat) (bs : List Byte) (tag : BitVec 16) (ha : 0x30000 ≤ a) : Paged (s.poke .main a bs tag) := by
  have r (b : Nat) (hb : b + 8 ≤ 0x30000) : Mem.read (s.poke .main a bs tag).mem b 8 = Mem.read s.mem b 8 := by
    rw [Mem.read_eq, Mem.read_eq]
    apply List.map_congr_left
    intro i hi
    rw [State.poke_main_get, if_neg]
    have := List.mem_range.1 hi
    omega
  refine ⟨h.requests, ?_, ?_, ?_, ?_⟩
  · simp [State.poke, State.put, h.bad]
  · simp [State.poke, State.put, h.ecc]
  · rw [r _ (by decide)]; exact h.root
  · rw [r _ (by decide)]; exact h.leaf

theorem Paged.writeVirt (src : Source) (n : Nat) : ∀ (s : State) (va : Nat) (bs : List Byte) (d : Nat), Paged s → 0x30000 ≤ va → va + 65536 * n < 2 ^ 29 →
    ∃ t d', s.writeVirt src 0x10001 (originTag 0 src.core) 0 n va bs d = (t, d', .ok ()) ∧ Paged t ∧ t.slots = s.slots := by
  induction n with
  | zero => intro s va bs d h _ _; exact ⟨s, d, rfl, h, rfl⟩
  | succ n ih =>
    intro s va bs d h h1 h2
    unfold State.writeVirt
    split
    · exact ⟨s, d, rfl, h, rfl⟩
    · rw [h.xlate src va (by omega)]
      have e : memKey va = va := by unfold memKey; rw [if_pos (by omega)]; omega
      have q : ∀ u : State, u.sendWrite 0 2 va (bs.take (65536 - va % 65536)).length = u := fun u => by
        unfold State.sendWrite; rw [if_pos (by omega)]
      simp only [e, q, State.writeLines, h.bad, h.ecc, List.isEmpty_nil, decide_true, Bool.and_self, if_true]
      obtain ⟨t, d', ht, hp, hs⟩ := ih (s.poke .main va (bs.take (65536 - va % 65536)) (originTag 0 src.core)) (va + (65536 - va % 65536)) (bs.drop (65536 - va % 65536))
        (d + (bs.take (65536 - va % 65536)).length) (h.poke _ _ _ h1) (by omega) (by omega)
      exact ⟨t, d', ht, hp, by rw [hs, State.poke_frame]⟩

/-- Parts in the second MiB and its neighbours are written through the tables. -/
theorem Paged.writeAll (src : Source) : ∀ (l : List (Nat × List Byte)) (s : State) (d : Nat), Paged s →
    (∀ p ∈ l, 0x30000 ≤ p.1 ∧ p.1 < 2 ^ 21 ∧ p.2.length < 2 ^ 20) →
    ∃ t d', s.writeAll src 0x10001 (originTag 0 src.core) l 0 d = (t, d', .ok ()) ∧ t.slots = s.slots := by
  intro l
  induction l with
  | nil => intro s d _ _; exact ⟨s, d, rfl, rfl⟩
  | cons p r ih =>
    intro s d h h3
    obtain ⟨o, b⟩ := p
    have hp : 0x30000 ≤ o ∧ o < 2 ^ 21 ∧ b.length < 2 ^ 20 := h3 (o, b) (by simp)
    unfold State.writeAll
    split
    · rw [Nat.zero_sub]; exact ih s d h fun p hp => h3 p (by simp [hp])
    · obtain ⟨t, e, ht, hq, hs⟩ := Paged.writeVirt src (b.length / 65536 + 2) s (o + 0) (b.drop 0) d h (by omega) (by omega)
      rw [ht]
      obtain ⟨u, f, hu, hv⟩ := ih t e hq fun p hp => h3 p (by simp [hp])
      exact ⟨u, f, hu, hv.trans hs⟩

theorem Paged.writeSave {s : State} (h : Paged s) (sk reason : Nat) (h1 : (s.slot sk).troot = 0x10001) (h2 : (s.slot sk).save = 0x40000)
    (h3 : (s.slot sk).tmap = []) (h5 : (s.slot sk).saved = 0) (h4 : ∀ p ∈ s.saveParts sk reason, p.1 < 2 ^ 20 ∧ p.2.length < 2 ^ 20) :
    ∃ t, s.writeSave sk reason = (t, .ok ()) ∧ t.slot sk = { s.slot sk with saved := (t.slot sk).saved } := by
  obtain ⟨t, d, ht, hs⟩ := Paged.writeAll (saveSource sk) ((s.saveParts sk reason).map fun p => ((0x40000 : Word).toNat + p.1, p.2)) s 0 h
    (by simp only [List.mem_map]; rintro p ⟨x, hx, rfl⟩; have := h4 x hx; refine ⟨?_, ?_, this.2⟩ <;> simp <;> omega)
  have hk : t.slot sk = s.slot sk := by unfold State.slot; rw [hs]
  refine ⟨t.modSlot sk fun c => { c with saved := d }, ?_, ?_⟩
  swap
  · rw [show (t.modSlot sk fun c => { c with saved := d }).slot sk = { t.slot sk with saved := d } from Kv.get_put_self _ _ _ _, hk]
  unfold State.writeSave
  simp only [h1, h2, h3, h5]
  rw [show originTag 0 (sk / 8) = originTag 0 (saveSource sk).core from rfl, ht]
  simp [State.tileLines, State.carryTiles]

/-- The parts of the save area of a slot that holds little lie in its first MiB. -/
theorem saveParts_small (s : State) (sk reason : Nat) (h1 : (s.slot sk).hist = []) (h2 : s.inFlight sk = []) (h3 : s.latchedCmds sk = [])
    (h4 : (s.slot sk).thEntries = []) (h5 : (s.slot sk).splim = 0) (h6 : (s.slot sk).amap = []) (h7 : (s.slot sk).queues = [])
    (h8 : (s.slot sk).demands = []) (h9 : s.savedCmds sk = []) :
    ∀ p ∈ s.saveParts sk reason, p.1 < 2 ^ 20 ∧ p.2.length < 2 ^ 20 := by
  intro p hp
  simp only [State.saveParts, h1, h3, h4, h5, h6, h9, List.zipIdx_nil, List.map_nil, List.append_nil, List.mem_append, List.mem_cons,
    List.not_mem_nil, or_false, List.length_nil, List.range_zero, List.flatMap_nil, List.mem_map, List.mem_range] at hp
  have hz : ∀ n, (zeros n).length = n := fun n => List.length_replicate
  have hq : (queueBytes (s.slot sk)).length < 2 ^ 20 := by
    simp [queueBytes, h7, Kv.get, List.length_flatMap, hz]
  have hr : ∀ f : Nat → Nat → Nat, ((List.range 128).flatMap fun r => (List.range 128).flatMap fun l => leBytes 4 (f r l)).length < 2 ^ 20 := by
    intro f; simp [List.length_flatMap]
  have hs : ∀ k, (s.seqBytes k).length < 2 ^ 20 := by
    intro k; simp [State.seqBytes, List.length_flatMap, hz]
  have hb : (s.slotBlock sk).length < 2 ^ 20 := by
    simp [State.slotBlock, List.length_flatMap, hz, cqBytes, latchBytes, -List.reduceReplicate]
  have hh : (s.saveHeader sk reason).length < 2 ^ 20 := by simp [State.saveHeader, hz]
  have hsl : ∀ l n, (slice l 0 n).length = n := by
    intro l n; simp only [slice, List.length_append, hz, List.length_take, List.length_drop]; omega
  have hrun : (s.runBytes sk).length < 2 ^ 20 := by
    unfold State.runBytes
    simp [h2, h8, hsl, hz]
  rcases hp with ((((rfl | hp) | ⟨j, hj, rfl⟩) | rfl) | rfl | rfl) | rfl | rfl
  · exact ⟨by dsimp only; omega, hh⟩
  · split at hp
    · rename_i r _
      simp only [List.mem_cons, List.not_mem_nil, or_false] at hp
      subst hp
      refine ⟨by dsimp only; omega, ?_⟩
      show (TrapRec.bytes r).length < 2 ^ 20
      unfold TrapRec.bytes
      rw [leBytes_length]; omega
    · simp at hp
  · exact ⟨by dsimp only; omega, hs _⟩
  · exact ⟨by dsimp only; omega, hb⟩
  · exact ⟨by dsimp only; omega, hrun⟩
  · exact ⟨by dsimp only; omega, hq⟩
  · exact ⟨by dsimp only; omega, by dsimp only [List.length_nil]; omega⟩
  · exact ⟨by dsimp only; omega, hr fun r l => ((Kv.get [] (s.slot sk).vec.regs r).getD l 0).toNat⟩

/-- The tables of `mapped` read as they were written. -/
theorem tables_read : Mem.read (mapped State.reset).mem 0x10000 8 = leBytes 8 0x20001 ∧ Mem.read (mapped State.reset).mem 0x20000 8 = leBytes 8 0xCF := by
  decide +kernel

/-! ### Witnesses: dispatch, stops, graphs and traces (R107, R117, R311, R318 to R368, R376 to R378) -/

/-- A ready record that a mapped task at 0x2000 waits under, to run on core 1. -/
def waiting : ReadyRec := { oneReady with xroot := 0x10001, tsize := 1, home := .core 1, tokens := 2 }
/-- A module with the page tables of `mapped` and ready records. -/
def queued (l : List ReadyRec) : State := mapped { State.reset with readies := l }

theorem witness_aging : let r : ReadyRec := { waiting with ceiling := 2, rose := 5 }
    let s : State := { queued [r] with time := 1000005 }
    s.readies = [r] ∧ r.octant = 0 ∧ r.walked = true ∧ r.ceiling < r.prio ∧ r.rose.toNat + 1000000 ≤ s.time.toNat ∧
    waiting.rose.toNat + 1000000 > State.reset.time.toNat ∧ ∀ x ∈ State.reset.readies, ¬ (x.octant = 0 ∧ x.tcb = 0) := by decide +kernel
theorem witness_launch : let s := queued [waiting]
    let src := dispSource 0 1
    ((s.queue 0).filter fun x => x.resume.isNone) = [waiting] ∧ waiting.tsize = 1 ∧
    (match s.blockAt src waiting.xroot waiting.tcb.toNat true with
      | (a, .ok m) =>
        match a.region src waiting.xroot (leAt (a.block m) 176 8) with
        | (b, .ok g) => (b.placeOn waiting m (a.block m) g).isSome
        | _ => false
      | _ => false) = true := by decide +kernel
/-- A checkpointed task of core 0 that may come back. -/
def comingBack : ReadyRec := { waiting with tcb := 0x3000, resume := some 0, home := .core 0 }
/-- What is kept of it: its save area, all zeros, stands at 0x40000. -/
def keptTask : Saved := { oneSaved with held := none, slot := { oneSaved.slot with troot := 0x10001, save := 0x40000 } }
theorem witness_resume : let s : State := { queued [comingBack] with saved := [keptTask] }
    ((s.queue 0).filter fun x => x.resume.isSome) = comingBack :: [] ∧
    (s.saved.find? fun v => decide (v.tcb = comingBack.tcb) && v.held.isNone) = some keptTask ∧ keptTask.slot.teamSize ≤ 1 ∧
    (match s.resumeOne comingBack with
      | .done t => !t.readies.any fun x => x.id == comingBack.id
      | _ => false) = true := by decide +kernel
theorem witness_decision_launches : (queued [waiting]).graphs = [] ∧ (queued [waiting]).queue 0 = waiting :: [] ∧
    (match (queued [waiting]).tryRecord waiting with
      | .done _ => true
      | _ => false) = true ∧ (queued []).queue 0 = [] := by decide +kernel

/-- Core 1 with its four task slots held by tasks of lower priority, with an estimate of their length. -/
def crowded (est : Nat) (killable : Bool) : State :=
  { queued [waiting] with
    slots := [8, 9, 10, 11].map fun k => (k, { Slot.init k with
      busy := true, prio := 5, est := est, killable := killable, idempotent := killable, teamSize := 1, runSince := some 0 }) }

theorem witness_preempts : let s := crowded 0 false
    s.graphs = [] ∧ s.queue 0 = [waiting] ∧
    (match s.tryRecord waiting with
      | .no t => decide (t = s)
      | _ => false) = true ∧ (s.readies.find? fun x => x.id == waiting.id) = some waiting ∧ s.mayPreempt waiting = true ∧
    (match s.victim waiting with
      | some k => decide ((s.slot k).teamSize ≤ 1) && (s.promised k).isNone && decide ((s.slot k).est = 0) && !(s.slot k).killable
      | none => false) = true := by decide +kernel
theorem witness_drains_a_victim : let s := crowded 40000 false
    (match s.victim waiting with
      | some k => decide ((s.slot k).est ≠ 0) && decide ((s.slot k).est ≤ s.prun k + s.pwinNs 0)
      | none => false) = true := by decide +kernel
theorem witness_kills_a_victim : let s := crowded 50000 true
    2 ≤ waiting.tokens ∧ (match s.victim waiting with
      | some k => decide (s.prun k + s.pwinNs 0 < (s.slot k).est) && (s.slot k).killable && (s.slot k).idempotent && !(s.slot k).triggered &&
        !(s.slot k).nokill && decide (s.prun k < s.pwinNs 16)
      | none => false) = true := by decide +kernel
theorem witness_no_tokens : let s := queued [{ waiting with tokens := 0 }]
    s.mayPreempt { waiting with tokens := 0 } = false := by decide +kernel

/-- An overflow ring of two records at `base`, `wr` of which have been written: its RCB stands at 0x4000. -/
def ringAt (base wr : Nat) : State :=
  { queued [] with rings := [(0x4000, 0x10001)]
                   mem := Mem.write (Mem.write (queued []).mem 0x4000 (patch (patch (patch (zeros 256) 56 (leBytes 8 base)) 64 (leBytes 4 2)) 72 (leBytes 8 wr)))
                     base (patch (zeros 128) 0 (leBytes 8 0x3000)) }
theorem witness_ring_refills : let s := ringAt 0x50000 1
    s.rings.head? = some (0x4000, 0x10001) ∧
    (match s.blockAt (dispSource 0 0) 0x10001 0x4000 true with
      | (a, .ok m) =>
        let b := a.block m
        decide (leAt b 64 4 ≠ 0) && decide (leAt b 80 8 < leAt b 72 8) && decide (leAt b 56 8 % 65536 = 0) && decide (leAt b 56 8 + 128 * leAt b 64 4 ≤ 2 ^ 55) &&
          match readVia (a.xlatePlain (dispSource 0 0) 0x10001 (leAt b 56 8 + 128 * (leAt b 80 8 % leAt b 64 4)) { kind := 0 }) 128 with
          | (v, .ok d) =>
            let x := readyOf v.nextRec 0 d
            decide (v.releaseOctant x.tcb x.place x.spawner = 0) && v.placeFree 0 x.byDec && decide (v.releaseOctant x.tcb x.place x.spawner ≠ 1)
          | _ => false
      | _ => false) = true := by decide +kernel
/-- The ring of an RCB that lies on no page boundary. -/
theorem witness_ring_misplaced : (match (ringAt 0x5000 1).blockAt (dispSource 0 0) 0x10001 0x4000 true with
      | (a, .ok m) => decide (leAt (a.block m) 80 8 < leAt (a.block m) 72 8) && decide (leAt (a.block m) 56 8 % 65536 ≠ 0)
      | _ => false) = true ∧ (ringAt 0x5000 1).cmds = [] ∧ (ringAt 0x5000 1).slots = [] := by decide +kernel
theorem witness_ring_empty : (match (ringAt 0x50000 0).blockAt (dispSource 0 0) 0x10001 0x4000 true with
      | (a, .ok m) => decide (leAt (a.block m) 72 8 ≤ leAt (a.block m) 80 8)
      | _ => false) = true ∧ ∀ x, (queued []).rings.head? = some x → x.1 ≠ 0 := by
  refine ⟨by decide +kernel, ?_⟩
  intro x h; cases h

/-- A SPAWN that waits. -/
def oneSpawn : Cmd := { oneCmd (.spawn 4 1 2 3 (ext 0 0 0 0)) 0 with ext := ext 0 0 0 0, phase := .running, par := [5] }
theorem witness_ring_unmapped : let q : Request := ⟨7, 0x50000, 0, 0, 0, 0, 9, 0, 1, 1, 0, 0, [.command 1], false⟩
    let s : State := { ((ringAt 0x50000 1).setSlot 0 { Slot.init 0 with busy := true, troot := 0x10001 }) with
      cmds := [oneSpawn], nextUid := 2, requests := [q], time := 100000 }
    s.cmd oneSpawn.uid = some oneSpawn ∧ isSpawn oneSpawn.ins = true ∧ oneSpawn.sub = none ∧ s.requests = [q] ∧ q.declined = false ∧ octantOf q.core = 0 ∧
    q.time.toNat + s.twoBeats q.core ≤ s.time.toNat ∧ q.waiters = [.command oneSpawn.uid] ∧
    s.ringPage (s.slot (slotKey oneSpawn.seqk)).troot 0x4000 q.va.toNat = true := by decide +kernel
theorem witness_spawn_stalls : let s : State := { (running 1) with cmds := [oneSpawn], nextUid := 2, time := 50006, readies := [waiting] }
    s.cmd oneSpawn.uid = some oneSpawn ∧ isSpawn oneSpawn.ins = true ∧ oneSpawn.sub = none ∧ oneSpawn.failed = false ∧ oneSpawn.phase = .running ∧ oneSpawn.parN 0 + 50000 < s.time.toNat ∧
    slotKey oneSpawn.seqk % 8 < 4 ∧ s.graphs = [] ∧ (s.slot 0).busy = true ∧ (s.slot 0).stopping = none ∧ (s.slot 0).teamSize ≤ 1 ∧
    s.queue (octantOf (coreOf oneSpawn.seqk)) ≠ [] ∧ (50005 : BitVec 64).toNat ≤ oneSpawn.parN 0 + 50000 := by decide +kernel
theorem witness_team_quantum : let s : State := { (running 1).modSlot 0 (fun c => { c with teamSize := 2, teamId := 9, prio := 3, runSince := some 0 }) with
      time := 2000000, readies := [{ waiting with tsize := 2 }] }
    s.teamSlots 9 = 0 :: [] ∧ (s.slot 0).runSince = some 0 ∧ s.pwinNs 32 ≤ s.time.toNat - (0 : BitVec 64).toNat ∧ s.teamWaits (s.slot 0) = true ∧
    s.graphs = [] ∧ s.teamSlots 8 = [] := by decide +kernel

/-- A task whose save area stands at 0x40000. -/
def savable (stopping : Option Stopping) : State :=
  mapped ((running 1).modSlot 0 fun c => { c with
    troot := 0x10001, xroot := 0x10001, tcb := 0x3000, save := 0x40000, stopping := stopping, rcd := some oneReady, teamSize := 1 })
theorem witness_checkpoint_begins : ((savable none).slot 0).busy = true ∧ ((savable none).slot 0).stopping = none ∧ (State.reset.slot 1).busy = false := by
  decide +kernel
theorem witness_save_written (st : Option Stopping) (r : Nat) :
    ∃ t, (savable st).writeSave 0 r = (t, .ok ()) ∧ t.slot 0 = { (savable st).slot 0 with saved := (t.slot 0).saved } ∧ t.tileEcc 0 = none := by
  have h : Paged (savable st) := ⟨rfl, rfl, rfl, tables_read.1, tables_read.2⟩
  obtain ⟨t, ht, hk⟩ := h.writeSave 0 r rfl rfl rfl rfl (saveParts_small _ 0 r rfl rfl rfl rfl rfl rfl rfl rfl rfl)
  refine ⟨t, ht, hk, ?_⟩
  unfold State.tileEcc
  rw [hk]
  rfl
theorem witness_checkpoint_ends : let s := savable (some ⟨1⟩)
    (s.slot 0).stopping = some ⟨1⟩ ∧ s.stopped 0 = true ∧ (s.slot 0).rcd = some oneReady := by decide +kernel
theorem witness_kill_ends : let s := savable (some ⟨7⟩)
    (s.slot 0).stopping = some ⟨7⟩ ∧ s.stopped 0 = true ∧ (s.slot 0).rcd = some oneReady := by decide +kernel
theorem witness_checkpoint_waits : ((savable (some ⟨1⟩)).modSeq 0 fun q => { q with loads := [oneLoad] }).stopped 0 = false := by decide +kernel

/-- A fault of a slot. -/
def faulted (k : Nat) (policy : Nat) : State :=
  { (mapped ((running k).modSlot (slotKey k) fun c => { c with
      troot := 0x10001, xroot := 0x10001, tcb := 0x3000, save := 0x40000, stopping := some ⟨3⟩, trap := some { code := 6 }, policy := policy, teamSize := 1 })) with
    cmds := [] }
theorem witness_fault_stop (p : Nat) (hp : p = 0 ∨ p = 1 ∨ p = 2) : let s := faulted 1 p
    (s.slot 0).trap = some { code := 6 } ∧ s.graphs = [] ∧ (s.slot 0).mode = 0 ∧ (s.slot 0).teamSize ≤ 1 ∧ s.stopped 0 = true ∧ (s.slot 0).policy = p := by
  rcases hp with rfl | rfl | rfl <;> decide +kernel
theorem witness_fault_saved (p : Nat) : ∃ t, (faulted 1 p).writeSave 0 3 = (t, .ok ()) ∧ t.slot 0 = { (faulted 1 p).slot 0 with saved := (t.slot 0).saved } := by
  have h : Paged (faulted 1 p) := ⟨rfl, rfl, rfl, tables_read.1, tables_read.2⟩
  exact h.writeSave 0 3 rfl rfl rfl rfl (saveParts_small _ 0 3 rfl rfl rfl rfl rfl rfl rfl rfl rfl)
theorem witness_fault_stop_handler : let s := faulted 19 0
    (s.slot 4).trap = some { code := 6 } ∧ 4 % 8 = 4 ∧ s.stopped 4 = true ∧ (s.slot 4).mode = 0 ∧ (s.slot 4).teamSize ≤ 1 := by decide +kernel
theorem witness_fault_stop_runtime : let s := faulted 23 0
    (s.slot 5).trap = some { code := 6 } ∧ s.graphs = [] ∧ (s.slot 5).mode = 0 ∧ (s.slot 5).teamSize ≤ 1 := by decide +kernel
theorem witness_capture_late : let s : State := { (savable (some ⟨6⟩)).setCore 0 { halted := true, haltedAt := 5 } with time := 100005 }
    (s.core 0).halted = true ∧ (s.slot 0).busy = true ∧ (s.slot 0).stopping = some ⟨6⟩ ∧
    (s.core 0).haltedAt.toNat + 2 * (1000 * Max.max 10 (s.core 0).hbper.toNat) ≤ s.time.toNat := by decide +kernel
theorem witness_heartbeat_period : let s : State := { State.reset with time := 100007, host := { configuredAt := 7 } }
    (s.core 0).hbmark.toNat + 1000 * Max.max 10 (s.core 0).hbper.toNat ≤ s.time.toNat ∧
    Max.max (s.core 0).hblast.toNat s.host.configuredAt.toNat + 2 * (1000 * Max.max 10 (s.core 0).hbper.toNat) ≤ s.time.toNat ∧ (s.core 0).halted = false ∧ coreExists 0 = true ∧
    (49999 : BitVec 64).toNat < (s.core 0).hbmark.toNat + 1000 * Max.max 10 (s.core 0).hbper.toNat := by decide +kernel

/-- A name of octant 0 with an index entry. -/
def named (kind : Nat) (count : Nat) : State :=
  { State.reset with reclaimQ := [BitVec.ofNat 128 (kind * 256)], caIndex := [⟨BitVec.ofNat 128 (kind * 256), 0, 0, 1, BitVec.ofNat 32 count⟩] }
theorem witness_reclaimer (k n : Nat) (h : k = 0 ∧ n = 0 ∨ k = 1 ∧ n = 1) : let s := named k n
    (s.reclaimQ.find? fun x => decide (nameHome x = 0)) = some (BitVec.ofNat 128 (k * 256)) ∧
    (s.entryOf (BitVec.ofNat 128 (k * 256))).map (·.count) = some (BitVec.ofNat 32 n) := by
  rcases h with ⟨rfl, rfl⟩ | ⟨rfl, rfl⟩ <;> decide +kernel
theorem witness_reclaimer_without : ({ named 0 0 with caIndex := [] } : State).entryOf 0 = none ∧
    (State.reset.reclaimQ.find? fun x => decide (nameHome x = 0)) = none := by decide +kernel
theorem witness_pool_wait : let c : Cmd := { oneCmd (.caput 4 1 2 (ext 0 0 0 0)) 0 with phase := .running, sent := 1, par := [0, 7] }
    let s : State := { running 1 with cmds := [c], nextUid := 2, time := 100007 }
    s.cmd c.uid = some c ∧ c.sent = 1 ∧ c.failed = false ∧ c.sub = none ∧ caSub c.ins = 1 ∧
    c.parN 1 + 2000 * Max.max 10 (s.core 0).hbper.toNat ≤ s.time.toNat := by decide +kernel
theorem witness_future_waiter : let w : Wake := ⟨4, 0, 7, 0x10001, 0x3000, 0, []⟩
    let src : Source := { waiter := .wake w.id, core := w.slot / 8, slot := w.slot % 8, engine := 5 }
    let s : State := { tasked with wakes := [w], mem := Mem.write tasked.mem 0x3000 (List.replicate 256 1) }
    (match s.blockAt src w.troot w.tcb.toNat true with
      | (t, .ok m) =>
        match (t.blockSet m 192 8 0).decrement src w.troot w.tcb.toNat w.ids with
        | (_, .ok z) => !z
        | _ => false
      | _ => false) = true := by decide +kernel
/-- One whose TCB's page is waited for. -/
theorem witness_future_waiter_held : let w : Wake := ⟨4, 0, 7, 0, 0x3000, 0, []⟩
    let s : State := { State.reset with wakes := [w] }
    s.wakes = [w] ∧ (match s.blockAt { waiter := .wake w.id, core := w.slot / 8, slot := w.slot % 8, engine := 5 } w.troot w.tcb.toNat true with
      | (_, .hold) => true
      | _ => false) = true := by decide +kernel
/-- The current run stands at a VPOP of an empty queue, and another slot's run can go on. -/
theorem witness_run_switch : let a : Cmd := { theRun 0 with uid := 1 }
    let b : Cmd := { theRun 0 with uid := 2, seqk := 5, v1 := 0x1001 }
    let base := inRun 0
    let s : State := { (base.setCore 0 { vrun := some 1, micro := [(0, 0xB8000800), (1, 0x02000000)] }).modSlot 1 (fun x => { x with vec := { x.vec with upc := 1 } }) with cmds := [a, b], nextUid := 3 }
    s.current 0 = some a ∧ s.runBlocked a = true ∧ ((s.runs 0).filter fun r => !s.runBlocked r) = [b] ∧
    s.runBlocked b = false ∧ State.reset.current 0 = none := by decide +kernel

/-- A TCB that the checks of a submission accept, one word of X at 0 and the region at 0x4000. -/
def goodTcb : List Byte := patch (patch (zeros 256) 52 (leBytes 4 1)) 176 (leBytes 8 0x4000)
/-- A graph record of graph 8: one TCB listed at 0x6000, completion at 0x2000 of host memory. -/
def goodGraph : List Byte :=
  [(0, leBytes 4 8), (4, leBytes 4 1), (8, leBytes 8 0x6000), (16, leBytes 8 0x2000), (24, leBytes 8 0x10001), (34, [2])].foldl
    (fun b x => patch b x.1 x.2) (zeros 64)
/-- A ring of 16 whose first record is at 0x1000 of host memory. -/
def submitted (rec' : List Byte) (conf : Bool) : State :=
  mapped { State.reset with
    mem := Mem.write (Mem.write (Mem.write [] 0x3000 goodTcb) 0x6000 (leBytes 8 0x3000)) (2 * 2 ^ 50 + 0x1000) rec'
    host := { ready := true, configured := conf, sqbase := 0x1000, sqsize := 16, tail := 1 } }

theorem witness_submission_refused : let s := submitted (zeros 64) true
    let h := s.host
    h.updating = false ∧ h.ready = true ∧ h.sqhead ≠ h.tail ∧ h.sqsize ≠ 0 ∧ h.taken = [] ∧
    graphRecOk (hostBytes s (h.sqbase.toNat + 64 * (h.sqhead.toNat % h.sqsize.toNat)) 64) = false ∧ leAt (zeros 64) 34 1 % 2 = 0 := by decide +kernel
theorem witness_submission : let s := submitted goodGraph true
    let r := hostBytes s (s.host.sqbase.toNat + 64 * (s.host.sqhead.toNat % s.host.sqsize.toNat)) 64
    let src := packetSource s.host.sqhead.toNat (leAt r 0 4)
    let troot := BitVec.ofNat 64 (leAt r 24 8)
    let took : State := { s with host := { s.host with sqhead := s.host.sqhead + 1, taken := [(s.host.sqhead.toNat, r)] } }
    s.host.taken = [] ∧
    s.host.configured = true ∧ graphRecOk r = true ∧ leAt r 34 1 / 2 % 2 = 1 ∧
    (match took.readVirt src troot (leAt r 4 4 * 8 / 65536 + 2) (leAt r 8 8) (8 * leAt r 4 4) [] with
      | (a, .ok b) =>
        match a.submitTcbs src troot ((List.range (leAt r 4 4)).map fun i => leAt b (8 * i) 8) [] with
        | .ok v _ => (v.graph (leAt r 0 4)).isNone
        | _ => false
      | _ => false) = true := by decide +kernel

/-- The list of TCBs lies in a page that is waited for. -/
theorem witness_submission_held : let s := submitted (patch goodGraph 24 (leBytes 8 0)) true
    let r := hostBytes s (s.host.sqbase.toNat + 64 * (s.host.sqhead.toNat % s.host.sqsize.toNat)) 64
    let took : State := { s with host := { s.host with sqhead := s.host.sqhead + 1, taken := [(s.host.sqhead.toNat, r)] } }
    s.host.configured = true ∧ graphRecOk r = true ∧
    (match took.readVirt (packetSource s.host.sqhead.toNat (leAt r 0 4)) (BitVec.ofNat 64 (leAt r 24 8)) (leAt r 4 4 * 8 / 65536 + 2) (leAt r 8 8)
        (8 * leAt r 4 4) [] with
      | (_, .hold) => true
      | _ => false) = true := by decide +kernel

/-- A graph of one task. -/
def oneGraph (mode : Nat) (done : List Nat) : Graph := { id := 8, tcbs := [0x3000], troot := 0x10001, mode := mode, doneTasks := done, entry := 5 }
theorem witness_completion : let s : State := { State.reset with graphs := [oneGraph 0 [0]] }
    s.host.updating = false ∧ s.graph 8 = some (oneGraph 0 [0]) ∧ (oneGraph 0 [0]).finished = true ∧ (oneGraph 0 [0]).doneTasks.length < 2 ^ 16 ∧ (oneGraph 0 [0]).intr = false ∧
    (oneGraph 0 []).finished = false ∧ s.graph 7 = none := by decide +kernel
theorem witness_semaphore : let g : Graph := { oneGraph 2 [] with posts := [(3, 1023)] }
    ({ State.reset with graphs := [g] } : State).graphs = [g] ∧ g.mode = 2 ∧ (3, 1023) ∈ g.posts ∧ (3, 0) ∉ g.posts := by decide +kernel

/-- A trace image with one stream of core 0 that holds these records. -/
def imageOf (stream : Nat) (recs : List (List Byte)) : List Byte :=
  patch (patch (zeros 128) 40 (leBytes 4 1)) 52 (leBytes 4 1) ++
    patch (patch (patch (zeros 128) 2 (leBytes 1 stream)) 4 (leBytes 4 2)) 8 (leBytes 4 recs.length) ++ recs.flatten
/-- A command record of task 0 in slot 0, bound to its stream or not. -/
def cmdRec (bound : Nat) : List Byte := patch (patch (zeros 64) 0 [1]) 2 [BitVec.ofNat 8 bound]
/-- A replay under way of such an image. -/
def replayOf (image : List Byte) (started : List Nat) : Graph := { oneGraph 2 [] with image := image, started := started, reserved := true }

theorem witness_injection (b : Nat) (hb : b = 0 ∨ b = 1) : let g := replayOf (imageOf 1 [cmdRec b]) [0]
    let s : State := { State.reset with graphs := [g] }
    s.graphs = [g] ∧ s.replaying g 0 = true ∧ g.settled = false ∧ (imageRecs g.image 0 1).drop (g.cursorOf 0 1) = cmdRec b :: [] ∧
    leAt (cmdRec b) 0 1 % 16 = 1 ∧ leAt (cmdRec b) 2 1 / 2 % 2 = 0 ∧ leAt (cmdRec b) 2 1 % 2 = b ∧ leAt (cmdRec b) 16 4 ∈ g.started ∧
    0 ∉ (replayOf g.image []).started := by rcases hb with rfl | rfl <;> decide +kernel
theorem witness_injection_bound : let c : Cmd := { oneCmd (.tdrop 1 (ext 0 0 0 0)) 0 with inj := 1 }
    ([c].find? fun x => decide (slotKey x.seqk = 0 * 8 + leAt (cmdRec 1) 1 1) && decide (x.inj = 1) && decide (x.num.toNat = leAt (cmdRec 1) 12 2)) = some c := by
  decide +kernel
/-- The record of a demand's first sub-command, for a demand that the forcer has taken up. -/
def subRec : List Byte := cmdRec 2
theorem witness_sub_injection : let g := replayOf (imageOf 1 [subRec]) [0]
    let d : Demand := { by' := .cmd 7, kind := 6, seq := 0 }
    let s : State := { (State.reset.setSlot 0 { Slot.init 0 with busy := true, tix := 0, demands := [d] }) with graphs := [g] }
    let t : State := { (State.reset.setSlot 0 { Slot.init 0 with busy := true, tix := 0 }) with graphs := [g] }
    s.graphs = [g] ∧ s.replaying g 0 = true ∧ (imageRecs g.image 0 1).drop (g.cursorOf 0 1) = subRec :: [] ∧ leAt subRec 0 1 % 16 = 1 ∧
    leAt subRec 2 1 / 2 % 2 = 1 ∧ leAt subRec 16 4 ∈ g.started ∧ (s.slot (0 * 8 + leAt subRec 1 1)).busy = true ∧
    (s.slot (0 * 8 + leAt subRec 1 1)).tix = leAt subRec 16 4 ∧ s.demandFor 0 subRec = some d ∧ t.demandFor 0 subRec = none := by decide +kernel
/-- A control record: a wait for a semaphore (3) or the start of task 0 (6). -/
def ctlRec (kind count : Nat) : List Byte := patch (patch (zeros 64) 0 [BitVec.ofNat 8 kind]) 6 (leBytes 2 count)
theorem witness_replay_waits : let g := replayOf (imageOf 0 [ctlRec 3 2]) []
    ((imageRecs g.image 0 0).drop (g.cursorOf 0 0)).head? = some (ctlRec 3 2) ∧ leAt (ctlRec 3 2) 0 1 % 16 = 3 ∧
    Kv.get 0 g.sems (0 * 1024 + leAt (ctlRec 3 2) 4 2) < leAt (ctlRec 3 2) 6 2 := by decide +kernel
theorem witness_replay_starts : let g := replayOf (imageOf 0 [ctlRec 6 0]) []
    let s : State := mapped { State.reset with graphs := [g] }
    s.replaying g 0 = true ∧ ((imageRecs g.image 0 0).drop (g.cursorOf 0 0)).head? = some (ctlRec 6 0) ∧ leAt (ctlRec 6 0) 0 1 % 16 = 6 ∧
    (s.startReplayed g 0 (leAt (ctlRec 6 0) 4 4)).2 = true ∧ ((s.startReplayed g 0 (leAt (ctlRec 6 0) 4 4)).1.graph g.id).isSome = true := by
  decide +kernel
/-- A replayed guard whose record agrees with the live value 5: kind 1 (GBR), guard 9, occurrence 0, task 0. -/
theorem witness_guard_agrees : let r := patch (patch (patch (patch (zeros 64) 0 [5]) 1 [1]) 4 [9]) 16 [5]
    let s := guarded (imageOf 0 [r])
    (s.graph 8).bind (fun g => g.guard (s.cur / 32) (mine s).tix 9 0) = some r ∧ leAt r 1 1 = 1 ∧ leAt r 16 8 = (s.reg s.cur 1).toNat % 2 ^ 16 := by
  decide +kernel

/-- A pool of one page an octant. -/
def pooled (s : State) : State := { s with pool := (List.range 8).map fun o => o * Config.octantBytes + 0x100000 }
/-- A recorded graph all of whose tasks are done. -/
def recorded : Graph := { oneGraph 1 [0] with places := [(0, 0)], edges := [[]] }
theorem witness_intern : let s := pooled (directed 1 0 0 0 { State.reset with graphs := [recorded] })
    (s.graphs.find? fun x => decide (x.id = 8) && x.complete) = some recorded ∧ recorded.poolWait = none ∧
    (match s.internImage recorded.recording with
      | .ok _ _ => true
      | _ => false) = true := by decide +kernel
theorem witness_intern_waits : let s := directed 1 0 0 0 { State.reset with graphs := [recorded] }
    (match s.internImage recorded.recording with
      | .wait => true
      | _ => false) = true := by decide +kernel
theorem witness_semaphores_few : ∀ k, k < 1024 → (recorded.semTasks k).length ≤ 1024 := by decide +kernel
theorem witness_intern_times_out : let g : Graph := { recorded with poolWait := some 5 }
    let s : State := { State.reset with graphs := [g], time := 100005 }
    (s.graphs.find? fun x => decide (x.id = 8) && x.complete && x.poolWait.any fun y => decide (y.toNat + s.twoBeats 0 ≤ s.time.toNat)) = some g ∧
    (∀ x ∈ State.reset.graphs, x.poolWait = none) := by decide +kernel
/-- A trace of one line, interned, whose lines a replay finds under its root. -/
theorem witness_trace_fetched : (match (pooled State.reset).internImage (List.replicate 128 7) with
      | .ok t ns =>
        (match t.leaves 0 0 0 1 (ns.headD 0) with
          | .ok ls => decide (ls.length = 1)
          | .error _ => false) && t.hashesOk (treeDepth 1) (ns.headD 0)
      | _ => false) = true ∧
    (match State.reset.leaves 0 0 0 1 5 with
      | .ok _ => false
      | .error _ => true) = true := by decide +kernel
theorem witness_gang_fetch : let s : State := { pooled (directed 1 0 0 0 State.reset) with host := { rank := 1 } }
    s.host.rank ≠ 0 ∧ s.host.updating = false ∧ s.dirFind (5 * 2 ^ 96) = some 5 ∧ s.dirField 5 44 1 = 1 ∧ (List.replicate 128 (7 : Byte)).length % 128 = 0 := by decide +kernel
theorem witness_refiner_idle : let g : Graph := { oneGraph 2 [0] with shape := 5 * 2 ^ 96, ver := 1, image := imageOf 0 [] }
    let s : State := { directed 2 1 2 0 State.reset with replays := [g] }
    s.dirFind (5 * 2 ^ 96) = some 5 ∧ (s.replays.find? fun x => decide (x.shape = 5 * 2 ^ 96)) = some g ∧ s.host.rank = 0 ∧ s.dirField 5 44 1 = 2 ∧
    s.dirField 5 32 4 = g.ver.toNat ∧ (∀ x ∈ s.graphs, ¬ (x.mode = 2 ∧ x.entry = 5)) ∧ (s.refined g).2 = false := by decide +kernel

/-- A bound CPY from main memory to a slice, recorded without predecessors. -/
def copyRec : List Byte :=
  let w := encode (.cpy 1 0 1 2 3 (ext 0 0 0 0))
  patch (patch (patch (patch (zeros 64) 0 [1]) 2 [5]) 4 (leBytes 4 (w.headD 0).toNat)) 8 (leBytes 4 (w.getD 1 0).toNat)
theorem witness_refiner_hoists : let g : Graph := { oneGraph 2 [0] with shape := 5 * 2 ^ 96, ver := 1, image := imageOf 1 [copyRec], notes := [⟨0, 1, 0, none, 64, 1, [], [], []⟩] }
    let s : State := pooled { directed 2 1 2 0 State.reset with replays := [g] }
    (s.refined g).2 = true ∧ (match s.internImage (s.refined g).1 with
      | .ok _ _ => true
      | _ => false) = true := by decide +kernel

/-! ### Witnesses: the step and the decoder (R24 to R48, R170, R207) -/

theorem witness_sequencer_turn : let s : State := { fetching with agenda := [.seq 1], mem := Mem.write fetching.mem 0x1000 (leBytes 4 0x00221810) }
    let s0 : State := { s.tick with agenda := [], cur := 1 }
    s0.canIssue 1 = true ∧ s0.atEnd 1 = false ∧ (s0.seq 1).issued = false ∧ (s0.pc 1).toNat % 2 ^ 16 + 8 ≤ 2 ^ 16 ∧ (s0.pc 1).toNat + 8 ≤ 2 ^ 55 ∧
    s0.waitsOn (.fetch 1) = none ∧ (s0.slot 0).troot.getLsbD 0 = true ∧
    tlbHit (s0.seq 1).tlb (bits (s0.slot 0).troot 52 12) (s0.pc 1).toNat { kind := 2 } = some codePage ∧ codePage.acc = true ∧
    s0.verify .main 0x1000 4 = none ∧ s0.verify .main 0x1004 4 = none ∧ (match s0.nextWords 1 with
      | .words _ w _ => decide (w = 0x00221810)
      | _ => false) = true := by decide +kernel
theorem witness_event_turn : isEvent (.wake 5) = true := by decide
theorem witness_prompt_work : let s : State := { running 1 with cmds := [doneCmd], nextUid := 2 }
    s.agenda = [] ∧ s.tick.workStep.isSome = true := by decide +kernel
/-- The run of `inRun`, its word written out: VNOP. -/
def inWords : State := (inRun 0).setCore 0 { (inRun 0).core 0 with micro := [(0, 0x02000000)] }
theorem witness_run_ready : let s : State := { inWords with eager := false }
    s.agenda = [] ∧ s.tick.workStep.isNone = true ∧ s.tick.runReady = some 0 := by decide +kernel
/-- A micro-order of a run; and of a force run, one pass. -/
theorem witness_run_turn : let s : State := { inWords with agenda := [.run 0] }
    let s0 : State := { s.tick with agenda := [] }
    (∀ c, s0.current 0 = some c → c.sub = none) ∧ (match exec (decodeMicro (s0.runWord 0)) { s0 with cur := 0 * 32 + 1 } with
      | .next _ => true
      | _ => false) = true := by
  refine ⟨?_, by decide +kernel⟩
  have e : (({ inWords with agenda := [.run 0] } : State).tick.current 0).all (fun c => decide (c.sub = none)) = true := by decide +kernel
  intro c h
  have h' : ({ inWords with agenda := [.run 0] } : State).tick.current 0 = some c := h
  simpa [h'] using e
theorem witness_force_run_turn : let c : Cmd := { theRun 0 with sub := some { by' := .cmd 7, kind := 6, ord := 0 } }
    let s : State := { inRun 0 with agenda := [.run 0], cmds := [c] }
    ({ s.tick with agenda := [] } : State).current 0 = some c := by decide +kernel
theorem witness_quiet_turn : let s : State := { running 1 with eager := false }
    s.agenda = [] ∧ s.tick.workStep.isNone = true ∧ s.tick.runReady.isNone = true ∧ State.reset.candidates = [] := by decide +kernel
/-- X may issue the ADD at its PC; L stands at the same word with a register pending. -/
theorem witness_issue_turn : let s : State := { fetching with mem := Mem.write fetching.mem 0x1000 (leBytes 4 0x00221810) }
    s.agenda = [] ∧ s.tick.workStep.isNone = true ∧ s.tick.runReady.isNone = true ∧ s.tick.candidates = [] ++ 1 :: [] ∧ (s.tick.tryIssue 1).isSome = true := by
  decide +kernel
/-- A division's slow turn, and the turn of its retirement. -/
theorem witness_slow_turn : let s : State := { fetching with agenda := [.slow 1], mem := Mem.write fetching.mem 0x1000 (leBytes 4 0x018B5150) }
    (match ({ s.tick with agenda := [], delay := true } : State).seqTurn 1 with
      | .next u => decide ((u.seq 1).late = [(12, 0)])
      | _ => false) = true := by decide +kernel
theorem witness_canonical : Canonical State.reset ∧ Canonical tasked := by unfold Canonical; decide +kernel
theorem witness_encodes : Instr.wf (.sh3add 31 30 29 15) = true ∧ encode (.sh3add 31 30 29 15) ≠ [] ∧ isReserved (.sh3add 31 30 29 15) = false ∧
    microOrder (.sh3add 31 30 29 15) = false ∧ Instr.wf (.vpack 127 126 125 15) = true ∧ encode (.vpack 127 126 125 15) ≠ [] ∧
    microOrder (.vpack 127 126 125 15) = true := by decide +kernel


/-! ### Words written out bit by bit from the layouts of spec/02 (R26 to R47), every constructor that has a word -/

/-- OPA, format A: op, rd, rs1, rs2, fn7, T (R35). -/
theorem test_decode_opa_1 :
    decodeStream false 0b000000_00100_00010_00011_0000001_1001 0 = .add 4 2 3 9 ∧
    decodeStream false 0b000000_00100_00010_00011_0000010_1001 0 = .sub 4 2 3 9 ∧
    decodeStream false 0b000000_00100_00010_00011_0000011_1001 0 = .and 4 2 3 9 ∧
    decodeStream false 0b000000_00100_00010_00011_0000100_1001 0 = .or 4 2 3 9 ∧
    decodeStream false 0b000000_00100_00010_00011_0000101_1001 0 = .xor 4 2 3 9 ∧
    decodeStream false 0b000000_00100_00010_00011_0000110_1001 0 = .andn 4 2 3 9 ∧
    decodeStream false 0b000000_00100_00010_00011_0000111_1001 0 = .orn 4 2 3 9 ∧
    decodeStream false 0b000000_00100_00010_00011_0001000_1001 0 = .sll 4 2 3 9 ∧
    decodeStream false 0b000000_00100_00010_00011_0001001_1001 0 = .srl 4 2 3 9 ∧
    decodeStream false 0b000000_00100_00010_00011_0001010_1001 0 = .sra 4 2 3 9 ∧
    decodeStream false 0b000000_00100_00010_00011_0001011_1001 0 = .ror 4 2 3 9 ∧
    decodeStream false 0b000000_00100_00010_00011_0001100_1001 0 = .slt 4 2 3 9 ∧
    decodeStream false 0b000000_00100_00010_00011_0001101_1001 0 = .sltu 4 2 3 9 ∧
    decodeStream false 0b000000_00100_00010_00011_0001110_1001 0 = .min 4 2 3 9 := by decide +kernel

/-- OPA, format A: op, rd, rs1, rs2, fn7, T (R35). -/
theorem test_decode_opa_2 :
    decodeStream false 0b000000_00100_00010_00011_0001111_1001 0 = .max 4 2 3 9 ∧
    decodeStream false 0b000000_00100_00010_00011_0010000_1001 0 = .minu 4 2 3 9 ∧
    decodeStream false 0b000000_00100_00010_00011_0010001_1001 0 = .maxu 4 2 3 9 ∧
    decodeStream false 0b000000_00100_00010_00011_0010010_1001 0 = .mul 4 2 3 9 ∧
    decodeStream false 0b000000_00100_00010_00011_0010011_1001 0 = .mulh 4 2 3 9 ∧
    decodeStream false 0b000000_00100_00010_00011_0010100_1001 0 = .mulhu 4 2 3 9 ∧
    decodeStream false 0b000000_00100_00010_00011_0010101_1001 0 = .div 4 2 3 9 ∧
    decodeStream false 0b000000_00100_00010_00011_0010110_1001 0 = .divu 4 2 3 9 ∧
    decodeStream false 0b000000_00100_00010_00011_0010111_1001 0 = .rem 4 2 3 9 ∧
    decodeStream false 0b000000_00100_00010_00011_0011000_1001 0 = .remu 4 2 3 9 ∧
    decodeStream false 0b000000_00100_00010_00011_0011001_1001 0 = .addw 4 2 3 9 ∧
    decodeStream false 0b000000_00100_00010_00011_0011010_1001 0 = .subw 4 2 3 9 := by decide +kernel

/-- OPA: the unary members and the last four (R35). -/
theorem test_decode_opa_unary :
    decodeStream false 0b000000_00100_00010_00000_0011011_1001 0 = .clz 4 2 9 ∧
    decodeStream false 0b000000_00100_00010_00000_0011100_1001 0 = .ctz 4 2 9 ∧
    decodeStream false 0b000000_00100_00010_00000_0011101_1001 0 = .popc 4 2 9 ∧
    decodeStream false 0b000000_00100_00010_00000_0011110_1001 0 = .sextw 4 2 9 ∧
    decodeStream false 0b000000_00100_00010_00000_0011111_1001 0 = .zextw 4 2 9 ∧
    decodeStream false 0b000000_00100_00010_00011_0100000_1001 0 = .pack 4 2 3 9 ∧
    decodeStream false 0b000000_00100_00010_00011_0100001_1001 0 = .sh1add 4 2 3 9 ∧
    decodeStream false 0b000000_00100_00010_00011_0100010_1001 0 = .sh2add 4 2 3 9 ∧
    decodeStream false 0b000000_00100_00010_00011_0100011_1001 0 = .sh3add 4 2 3 9 ∧
    decodeStream false 0b000000_00100_00010_00011_0011011_0000 0 = .reservedEncoding 0b000000_00100_00010_00011_0011011_0000 ∧
    decodeStream false 0b000000_00100_00010_00011_0100100_0000 0 = .reservedEncoding 0b000000_00100_00010_00011_0100100_0000 ∧
    decodeStream false 0b000000_00000_00000_00000_0000000_0000 0 = .reservedEncoding 0 := by decide +kernel

/-- Format I and SHFI (R34, R36), U and J (R27). -/
theorem test_decode_immediates_1 :
    decodeStream false 0b000001_00100_00010_111001111000_1001 0 = .addi 4 2 0xE78 9 ∧
    decodeStream false 0b000010_00100_00010_111001111000_1001 0 = .andi 4 2 0xE78 9 ∧
    decodeStream false 0b000011_00100_00010_111001111000_1001 0 = .ori 4 2 0xE78 9 ∧
    decodeStream false 0b000100_00100_00010_111001111000_1001 0 = .xori 4 2 0xE78 9 ∧
    decodeStream false 0b000110_00100_00010_111001111000_1001 0 = .slti 4 2 0xE78 9 ∧
    decodeStream false 0b000111_00100_00010_111001111000_1001 0 = .sltiu 4 2 0xE78 9 ∧
    decodeStream false 0b000101_00100_00010_00_0000_100101_1001 0 = .slli 4 2 37 9 ∧
    decodeStream false 0b000101_00100_00010_01_0000_100101_1001 0 = .srli 4 2 37 9 ∧
    decodeStream false 0b000101_00100_00010_10_0000_100101_1001 0 = .srai 4 2 37 9 ∧
    decodeStream false 0b000101_00100_00010_11_0000_100101_1001 0 = .rori 4 2 37 9 ∧
    decodeStream false 0b001000_00101_000100100011010001011 0 = .lui 5 0x2468B ∧
    decodeStream false 0b001001_00101_000100100011010001011 0 = .adpc 5 0x2468B ∧
    decodeStream false 0x20A2468B 0 = .lui 5 0x2468B ∧
    decodeStream false 0x04A5E780 0 = .addi 5 5 (-392) 0 := by decide +kernel

/-- Format I and SHFI (R34, R36), U and J (R27). -/
theorem test_decode_immediates_2 :
    decodeStream false 0x00611019 0 = .add 3 1 2 9 ∧
    decodeStream false 0x4C603FFB 0 = .bne 3 0 (-5) ∧
    decodeStream false 0xD0000000 0x08001480 = .mgo ⟨1, 0, 0, 1, 4, 1, 0, 0⟩ := by decide +kernel

/-- Formats M, MS and P; VLD and VST (R37, R34). -/
theorem test_decode_memory :
    decodeStream false 0b001010_00100_00010_10_1111111101_1001 0 = .ld 4 2 2 (-3) 9 ∧
    decodeStream false 0b001011_00100_00010_10_1111111101_1001 0 = .ldu 4 2 2 (-3) 9 ∧
    decodeStream false 0b001100_00100_00010_10_1111111101_1001 0 = .st 4 2 2 (-3) 9 ∧
    decodeStream false 0b001101_00100_00010_10_1111111101_1001 0 = .sts 4 2 2 (-3) 9 ∧
    decodeStream false 0b001110_00100_1111101000_0000000_1001 0 = .ldsp 4 1000 9 ∧
    decodeStream false 0b001111_00100_1111101000_0000000_1001 0 = .stsp 4 1000 9 ∧
    decodeStream false 0b100001_00011_00010_00_1111111101_1001 0 = .vld 3 2 (-3) 9 ∧
    decodeStream true 0b100001_00001_00010_00_1111111101_1001 0 = .vst 1 2 (-3) 9 := by decide +kernel

/-- AMO: fn7 is order, width, op (R39). -/
theorem test_decode_amo :
    decodeStream false 0b010000_00100_00010_00011_10_1_0001_1001 0 = .amoadd 4 2 3 2 1 9 ∧
    decodeStream false 0b010000_00100_00010_00011_10_1_0010_1001 0 = .amoand 4 2 3 2 1 9 ∧
    decodeStream false 0b010000_00100_00010_00011_10_1_0011_1001 0 = .amoor 4 2 3 2 1 9 ∧
    decodeStream false 0b010000_00100_00010_00011_10_1_0100_1001 0 = .amoxor 4 2 3 2 1 9 ∧
    decodeStream false 0b010000_00100_00010_00011_10_1_0101_1001 0 = .amomin 4 2 3 2 1 9 ∧
    decodeStream false 0b010000_00100_00010_00011_10_1_0110_1001 0 = .amomax 4 2 3 2 1 9 ∧
    decodeStream false 0b010000_00100_00010_00011_10_1_0111_1001 0 = .amominu 4 2 3 2 1 9 ∧
    decodeStream false 0b010000_00100_00010_00011_10_1_1000_1001 0 = .amomaxu 4 2 3 2 1 9 ∧
    decodeStream false 0b010000_00100_00010_00011_10_1_1001_1001 0 = .amoswap 4 2 3 2 1 9 ∧
    decodeStream false 0b010000_00100_00010_00011_10_1_1010_1001 0 = .amocas 4 2 3 2 1 9 ∧
    decodeStream false 0b010000_00100_00010_00011_11_1_1011_1001 0 = .amofadd 4 2 3 3 9 ∧
    decodeStream false 0b010000_00100_00010_00011_11_0_1011_1001 0 = .reservedEncoding 0x40821eb9 := by decide +kernel

/-- FENCE, MARK, branches and jumps (R38, R40, R42). -/
theorem test_decode_order_branch :
    decodeStream false 0b010001_00000_00000_101_10110_0000_1001 0 = .fence 5 0b10110 9 ∧
    decodeStream false 0b010010_00000_00000_000000000000_1001 0 = .mark 9 ∧
    decodeStream false 0b010011_00010_00011_000_1111111111001 0 = .beq 2 3 (-7) ∧
    decodeStream false 0b010011_00010_00011_001_1111111111001 0 = .bne 2 3 (-7) ∧
    decodeStream false 0b010011_00010_00011_010_1111111111001 0 = .blt 2 3 (-7) ∧
    decodeStream false 0b010011_00010_00011_011_1111111111001 0 = .bge 2 3 (-7) ∧
    decodeStream false 0b010011_00010_00011_100_1111111111001 0 = .bltu 2 3 (-7) ∧
    decodeStream false 0b010011_00010_00011_101_1111111111001 0 = .bgeu 2 3 (-7) ∧
    decodeStream false 0b010100_01101_00000_000_1111111111001 0 = .bcqs 13 (-7) ∧
    decodeStream false 0b010100_01101_00000_001_1111111111001 0 = .bcqc 13 (-7) ∧
    decodeStream false 0b010100_01101_00000_010_1111111111001 0 = .bcqsK 13 (-7) ∧
    decodeStream false 0b010100_01101_00000_011_1111111111001 0 = .bcqcK 13 (-7) ∧
    decodeStream false 0b010100_10000_00000_000_1111111111001 0 = .reservedEncoding 0x52001ff9 ∧
    decodeStream false 0b010101_00001_111111111111111110111 0 = .jal 1 (-9) ∧
    decodeStream false 0b010110_00001_00010_111111110111_1001 0 = .jalr 1 2 (-9) 9 := by decide +kernel

/-- CQP, EVT, CSR, SYS, TCFG and MCFG, GRD (R42). -/
theorem test_decode_system_1 :
    decodeStream false 0b010111_00000_00010_111111110111_1001 0 = .cqp 2 (-9) 9 ∧
    decodeStream false 0b011000_00000_00000_00_111111_1110_1001 0 = .evpost 63 14 9 ∧
    decodeStream false 0b011000_00000_00000_01_111111_1110_1001 0 = .evwait 63 14 9 ∧
    decodeStream false 0b011000_00100_00000_10_000000_1110_1001 0 = .evclr 4 14 9 ∧
    decodeStream false 0b011000_00000_00000_11_0000000000_1001 0 = .wfe 9 ∧
    decodeStream false 0b011001_00100_00000_00_0000001001_1001 0 = .csrr 4 9 9 ∧
    decodeStream false 0b011001_00100_00010_01_0000000001_1001 0 = .csrw 4 2 1 9 ∧
    decodeStream false 0b011001_00100_00010_10_0000000001_1001 0 = .csrs 4 2 1 9 ∧
    decodeStream false 0b011001_00100_00010_11_0000000001_1001 0 = .csrc 4 2 1 9 ∧
    decodeStream false 0b011010_00000_00000_000000000000_1001 0 = .nop 9 ∧
    decodeStream false 0b011010_00000_00000_0001_01011010_1001 0 = .trap 0x5A 9 ∧
    decodeStream false 0b011010_00000_00000_001000000000_1001 0 = .hbeat 9 ∧
    decodeStream false 0b011010_00000_00000_001100000000_1001 0 = .yield 9 ∧
    decodeStream false 0b011010_00000_00010_010000000000_1001 0 = .exit 2 9 := by decide +kernel

/-- CQP, EVT, CSR, SYS, TCFG and MCFG, GRD (R42). -/
theorem test_decode_system_2 :
    decodeStream false 0b011010_00000_00010_010100000000_1001 0 = .cwait 2 9 ∧
    decodeStream false 0b011010_00000_00000_011000000000_0000 0 = .reservedEncoding 0x68006000 ∧
    decodeStream false 0x68000000 0 = .nop 0 ∧
    decodeStream false 0b011100_00000_00010_0_00000000_110_1001 0 = .tcfg 2 6 9 ∧
    decodeStream false 0b011100_00000_00010_1_00000000101_1001 0 = .mcfg 2 5 9 ∧
    decodeStream false 0b100000_00000_00010_00_0101010101_1001 0 = .gshape 2 0x155 9 ∧
    decodeStream false 0b100000_00000_00010_01_0101010101_1001 0 = .gbr 2 0x155 9 ∧
    decodeStream false 0b100000_00000_00010_10_0101010101_1001 0 = .ghlth 2 0x155 9 := by decide +kernel

/-- FPS: fn7 is rm, op, 0; FLI (R41). -/
theorem test_decode_fps :
    decodeStream false 0b011011_00100_00010_00011_10_0001_0_1001 0 = .fadd 4 2 3 2 9 ∧
    decodeStream false 0b011011_00100_00010_00011_10_0010_0_1001 0 = .fsub 4 2 3 2 9 ∧
    decodeStream false 0b011011_00100_00010_00011_10_0011_0_1001 0 = .fmul 4 2 3 2 9 ∧
    decodeStream false 0b011011_00100_00010_00011_10_0100_0_1001 0 = .fdiv 4 2 3 2 9 ∧
    decodeStream false 0b011011_00100_00010_00011_10_0110_0_1001 0 = .fmac 4 2 3 2 9 ∧
    decodeStream false 0b011011_00100_00010_00000_10_0101_0_1001 0 = .fsqrt 4 2 2 9 ∧
    decodeStream false 0b011011_00100_00010_00011_00_0111_0_1001 0 = .fmin 4 2 3 9 ∧
    decodeStream false 0b011011_00100_00010_00011_00_1000_0_1001 0 = .fmax 4 2 3 9 ∧
    decodeStream false 0b011011_00100_00010_00011_00_1001_0_1001 0 = .feq 4 2 3 9 ∧
    decodeStream false 0b011011_00100_00010_00011_00_1010_0_1001 0 = .flt 4 2 3 9 ∧
    decodeStream false 0b011011_00100_00010_00011_00_1011_0_1001 0 = .fle 4 2 3 9 ∧
    decodeStream false 0b011011_00100_00010_00000_10_1100_0_1001 0 = .fitof 4 2 2 9 ∧
    decodeStream false 0b011011_00100_00010_00000_01_1101_0_1001 0 = .fftoi 4 2 1 9 ∧
    decodeStream false 0b011011_01000_0011111111000000_1_0000 0 = .fli 8 0x3FC0 0 := by decide +kernel

/-- BARR to SHAPEW (R43). -/
theorem test_decode_synchronisation :
    decodeStream false 0b011101_00100_00010_00000_0000001_1001 0 = .barr 4 2 9 ∧
    decodeStream false 0b011101_00100_00010_00011_0000010_1001 0 = .bwait 4 2 3 9 ∧
    decodeStream false 0b011110_00100_00010_00000_0000001_1001 0 = .frd 4 2 9 ∧
    decodeStream false 0b011110_00000_00010_00011_0000010_1001 0 = .fwr 2 3 9 ∧
    decodeStream false 0b011111_00000_00010_00000_0000001_1001 0 = .depdec 2 9 ∧
    decodeStream false 0b011111_00000_00000_00000_0000010_1001 0 = .trig 9 ∧
    decodeStream false 0b011111_00000_00010_00111_0000011_1001 0 = .shapew 2 7 9 ∧
    decodeStream false 0b011111_00000_00010_01000_0000011_1001 0 = .reservedEncoding 0x7c024039 := by decide +kernel

/-- CP and CPR: sub6 is destination space, source space, member (R44), with the extension word (R30). -/
theorem test_decode_copies :
    decodeStream false 0b110000_00000_00001_00010_00011_100001 0b00001_00010_00011_00000_0100_1_011_1001 = .cpy 1 0 1 2 3 ⟨1, 2, 3, 0, 4, 1, 3, 9⟩ ∧
    decodeStream false 0b110000_00000_00001_00010_00011_010010 0b00001_00010_00011_00000_0100_1_011_1001 = .cpy2 0 1 1 2 3 ⟨1, 2, 3, 0, 4, 1, 3, 9⟩ ∧
    decodeStream false 0b110000_00000_00001_00010_00011_110011 0b00001_00010_00011_00000_0100_1_011_1001 = .cpy3 1 1 1 2 3 ⟨1, 2, 3, 0, 4, 1, 3, 9⟩ ∧
    decodeStream false 0b110000_00000_00001_00010_00011_000100 0b00001_00010_00011_00000_0100_1_011_1001 = .cpg 0 0 1 2 3 ⟨1, 2, 3, 0, 4, 1, 3, 9⟩ ∧
    decodeStream false 0b110000_00000_00001_00010_00011_010101 0b00001_00010_00011_00000_0100_1_011_1001 = .cps 0 1 1 2 3 ⟨1, 2, 3, 0, 4, 1, 3, 9⟩ ∧
    decodeStream false 0xC00A5B21 0x080003A0 = .cpy 1 0 10 11 12 ⟨1, 0, 0, 0, 3, 1, 2, 0⟩ ∧
    decodeStream false 0b110000_00000_00001_00010_00011_100110 0b00001_00010_00011_00000_0100_1_011_1001 = .cpf 1 1 2 3 ⟨1, 2, 3, 0, 4, 1, 3, 9⟩ ∧
    decodeStream false 0b110000_00000_00001_00010_00011_110111 0b00001_00010_00011_00000_0100_1_011_1001 = .cpm 1 1 2 3 ⟨1, 2, 3, 0, 4, 1, 3, 9⟩ ∧
    decodeStream false 0b110000_00010_00000_00010_00011_011000 0b00001_00010_00011_00000_0100_1_011_1001 = .cpq 1 2 2 3 ⟨1, 2, 3, 0, 4, 1, 3, 9⟩ ∧
    decodeStream false 0b110001_00000_00001_00010_00011_100001 0b00001_00010_00011_00100_0100_1_010_1001 = .cprFaddF32 1 1 2 3 ⟨1, 2, 3, 4, 4, 1, 2, 9⟩ ∧
    decodeStream false 0b110001_00000_00001_00010_00011_100010 0b00001_00010_00011_00000_0100_1_011_1001 = .cprAddI32 1 1 2 3 ⟨1, 2, 3, 0, 4, 1, 3, 9⟩ ∧
    decodeStream false 0b110001_00000_00001_00010_00011_100011 0b00001_00010_00011_00000_0100_1_011_1001 = .cprAddI64 1 1 2 3 ⟨1, 2, 3, 0, 4, 1, 3, 9⟩ ∧
    decodeStream false 0b110001_00000_00001_00010_00011_100100 0b00001_00010_00011_00100_0100_1_010_1001 = .cprMaxF32 1 1 2 3 ⟨1, 2, 3, 4, 4, 1, 2, 9⟩ ∧
    decodeStream false 0b110001_00000_00001_00010_00011_100101 0b00001_00010_00011_00100_0100_1_010_1001 = .cprMinF32 1 1 2 3 ⟨1, 2, 3, 4, 4, 1, 2, 9⟩ ∧
    decodeStream false 0b110001_00000_00001_00010_00011_100110 0b00001_00010_00011_00000_0100_1_011_1001 = .cprMaxI32 1 1 2 3 ⟨1, 2, 3, 0, 4, 1, 3, 9⟩ ∧
    decodeStream false 0b110001_00000_00001_00010_00011_100111 0b00001_00010_00011_00000_0100_1_011_1001 = .cprMinI32 1 1 2 3 ⟨1, 2, 3, 0, 4, 1, 3, 9⟩ := by decide +kernel

/-- VRUN, TBLOAD, MGO, TMOV, CA and SPAWN (R44, R179 on, R203, R204, R249, R301). -/
theorem test_decode_engines_1 :
    decodeStream false 0b110010_00000_00001_00010_00011_000000 0b00001_00010_00011_00011_0100_1_000_1001 = .vrun 1 2 3 ⟨1, 2, 3, 3, 4, 1, 0, 9⟩ ∧
    decodeStream false 0b110011_00100_00001_00010_00011_000000 0b11111_11110_11101_00000_1111_1_000_1001 = .tbload 4 1 2 3 ⟨31, 30, 29, 0, 15, 1, 0, 9⟩ ∧
    decodeStream false 0b110100_00000_00000_00000_00000_000000 0b00001_00010_00011_00010_0100_1_000_1001 = .mgo ⟨1, 2, 3, 2, 4, 1, 0, 9⟩ ∧
    decodeStream false 0b110101_00111_00001_00010_00011_000001 0b11111_11110_11101_00000_1111_1_000_1001 = .tld 7 1 2 3 ⟨31, 30, 29, 0, 15, 1, 0, 9⟩ ∧
    decodeStream false 0b110101_00111_00001_00010_00011_000010 0b11111_11110_11101_00000_1111_1_000_1001 = .tst 7 1 2 3 ⟨31, 30, 29, 0, 15, 1, 0, 9⟩ ∧
    decodeStream false 0b110101_00011_00001_00010_00011_000011 0b11111_11110_11101_00000_1111_1_000_1001 = .afill 3 1 2 3 ⟨31, 30, 29, 0, 15, 1, 0, 9⟩ ∧
    decodeStream false 0b110101_00011_00001_00010_00011_000100 0b11111_11110_11101_00000_1111_1_000_1001 = .adrn 3 1 2 3 ⟨31, 30, 29, 0, 15, 1, 0, 9⟩ ∧
    decodeStream false 0xD4642981 0 = .tld 3 4 5 6 ⟨0, 0, 0, 0, 0, 0, 0, 0⟩ ∧
    decodeStream false 0b111001_00100_00001_00010_00000_000001 0b11111_11110_11101_00000_1111_1_000_1001 = .caput 4 1 2 ⟨31, 30, 29, 0, 15, 1, 0, 9⟩ ∧
    decodeStream false 0b111001_00100_00001_00010_00000_000010 0b11111_11110_11101_00000_1111_1_000_1001 = .canode 4 1 2 ⟨31, 30, 29, 0, 15, 1, 0, 9⟩ ∧
    decodeStream false 0b111001_00100_00001_00010_00000_000110 0b11111_11110_11101_00000_1111_1_000_1001 = .caref 4 1 2 ⟨31, 30, 29, 0, 15, 1, 0, 9⟩ ∧
    decodeStream false 0b111001_00000_00001_00010_00011_000011 0b11111_11110_11101_00000_1111_1_000_1001 = .cahash 1 2 3 ⟨31, 30, 29, 0, 15, 1, 0, 9⟩ ∧
    decodeStream false 0b111001_00000_00001_00010_00011_000100 0b11111_11110_11101_00000_1111_1_000_1001 = .caget 1 2 3 ⟨31, 30, 29, 0, 15, 1, 0, 9⟩ ∧
    decodeStream false 0b111001_00000_00001_00010_00011_000101 0b11111_11110_11101_00000_1111_1_000_1001 = .cawalk 1 2 3 ⟨31, 30, 29, 0, 15, 1, 0, 9⟩ := by decide +kernel

/-- VRUN, TBLOAD, MGO, TMOV, CA and SPAWN (R44, R179 on, R203, R204, R249, R301). -/
theorem test_decode_engines_2 :
    decodeStream false 0b111001_00000_00001_00010_00011_001000 0b11111_11110_11101_00000_1111_1_000_1001 = .caout 1 2 3 ⟨31, 30, 29, 0, 15, 1, 0, 9⟩ ∧
    decodeStream false 0b111001_00100_00001_00010_00011_000111 0b11111_11110_11101_00000_1111_1_000_1001 = .caswap 4 1 2 3 ⟨31, 30, 29, 0, 15, 1, 0, 9⟩ ∧
    decodeStream false 0b111001_00100_00001_00000_00000_001001 0b11111_11110_11101_00000_1111_1_000_1001 = .capin 4 1 ⟨31, 30, 29, 0, 15, 1, 0, 9⟩ ∧
    decodeStream false 0b111010_00100_00001_00010_00011_000000 0b11111_11110_11101_00000_1111_1_000_1001 = .spawn 4 1 2 3 ⟨31, 30, 29, 0, 15, 1, 0, 9⟩ := by decide +kernel

/-- TOP, TDEM and MITER (R44, R257, R268, R273). -/
theorem test_decode_matrix_tasks_1 :
    decodeStream false 0b110110_00100_00001_00010_00011_000001 0b11111_11110_11101_00000_1111_1_000_1001 = .tbind 4 1 2 3 ⟨31, 30, 29, 0, 15, 1, 0, 9⟩ ∧
    decodeStream false 0b110110_00100_00001_00010_00011_000111 0b11111_11110_11101_00000_1111_1_000_1001 = .tscl 4 1 2 3 ⟨31, 30, 29, 0, 15, 1, 0, 9⟩ ∧
    decodeStream false 0b110110_00100_00001_00010_00011_001010 0b11111_11110_11101_00000_1111_1_000_1001 = .tact 4 1 2 3 ⟨31, 30, 29, 0, 15, 1, 0, 9⟩ ∧
    decodeStream false 0b110110_00100_00001_00000_00011_000010 0b00001_00010_00011_00001_0100_1_000_1001 = .tmul 4 1 3 ⟨1, 2, 3, 1, 4, 1, 0, 9⟩ ∧
    decodeStream false 0b110110_00100_00001_00000_00011_000011 0b00001_00010_00011_00010_0100_1_000_1001 = .tmac 4 1 3 ⟨1, 2, 3, 2, 4, 1, 0, 9⟩ ∧
    decodeStream false 0b110110_00100_00001_00000_00011_000100 0b11111_11110_11101_00000_1111_1_000_1001 = .tadd 4 1 3 ⟨31, 30, 29, 0, 15, 1, 0, 9⟩ ∧
    decodeStream false 0b110110_00100_00001_00000_00011_000101 0b11111_11110_11101_00000_1111_1_000_1001 = .tsub 4 1 3 ⟨31, 30, 29, 0, 15, 1, 0, 9⟩ ∧
    decodeStream false 0b110110_00100_00001_00000_00011_000110 0b11111_11110_11101_00000_1111_1_000_1001 = .thad 4 1 3 ⟨31, 30, 29, 0, 15, 1, 0, 9⟩ ∧
    decodeStream false 0b110110_00100_00001_00000_00011_001000 0b11111_11110_11101_00000_1111_1_000_1001 = .ttrn 4 1 3 ⟨31, 30, 29, 0, 15, 1, 0, 9⟩ ∧
    decodeStream false 0b110110_00100_00001_00000_00011_001001 0b11111_11110_11101_00000_1111_1_000_1001 = .tcvt 4 1 3 ⟨31, 30, 29, 0, 15, 1, 0, 9⟩ ∧
    decodeStream false 0b110111_00000_00001_00010_00011_000001 0b11111_11110_11101_00000_1111_1_000_1001 = .tstore 1 2 3 ⟨31, 30, 29, 0, 15, 1, 0, 9⟩ ∧
    decodeStream false 0b110111_00000_00001_00000_00000_000010 0b11111_11110_11101_00000_1111_1_000_1001 = .tforce 1 ⟨31, 30, 29, 0, 15, 1, 0, 9⟩ ∧
    decodeStream false 0b110111_00000_00001_00000_00000_000011 0b11111_11110_11101_00000_1111_1_000_1001 = .tdrop 1 ⟨31, 30, 29, 0, 15, 1, 0, 9⟩ ∧
    decodeStream false 0b111000_00100_00001_00010_00011_001001 0b00001_00010_00011_00001_0100_1_000_1001 = .miterPoly 1 0 4 1 2 3 ⟨1, 2, 3, 1, 4, 1, 0, 9⟩ := by decide +kernel

/-- TOP, TDEM and MITER (R44, R257, R268, R273). -/
theorem test_decode_matrix_tasks_2 :
    decodeStream false 0b111000_00100_00001_00010_00011_000110 0b00001_00010_00011_00001_0100_1_000_1001 = .miterNs 0 1 4 1 2 3 ⟨1, 2, 3, 1, 4, 1, 0, 9⟩ ∧
    decodeStream false 0b111000_00100_00001_00010_00011_001111 0b00001_00010_00011_00001_0100_1_000_1001 = .miterInv 1 1 4 1 2 3 ⟨1, 2, 3, 1, 4, 1, 0, 9⟩ ∧
    decodeStream false 0b111000_00100_00001_00010_00011_001100 0b00001_00010_00011_00001_0100_1_000_1001 = .reservedEncoding 0b111000_00100_00001_00010_00011_001100 := by decide +kernel

/-- Micro-orders on floating lanes (R46, R47). -/
theorem test_decode_micro_float_1 :
    decodeMicro 0b0000001_0000000_0000000_0000000_0000 = .vnop ∧
    decodeMicro 0b0000010_0101000_1010001_0000000_1001 = .vmov 40 81 9 ∧
    decodeMicro 0b0000011_0101000_1010001_0101010_1101 = .vsel 40 81 42 5 ∧
    decodeMicro 0b0000100_0101000_1010001_0101010_1001 = .vaddF32 40 81 42 9 ∧
    decodeMicro 0b0000101_0101000_1010001_0101010_1001 = .vaddBf16 40 81 42 9 ∧
    decodeMicro 0b0000110_0101000_1010001_0101010_1001 = .vaddF16 40 81 42 9 ∧
    decodeMicro 0b0000111_0101000_1010001_0101010_1001 = .vsubF32 40 81 42 9 ∧
    decodeMicro 0b0001000_0101000_1010001_0101010_1001 = .vsubBf16 40 81 42 9 ∧
    decodeMicro 0b0001001_0101000_1010001_0101010_1001 = .vsubF16 40 81 42 9 ∧
    decodeMicro 0b0001010_0101000_1010001_0101010_1001 = .vmulF32 40 81 42 9 ∧
    decodeMicro 0b0001011_0101000_1010001_0101010_1001 = .vmulBf16 40 81 42 9 ∧
    decodeMicro 0b0001100_0101000_1010001_0101010_1001 = .vmulF16 40 81 42 9 ∧
    decodeMicro 0b0001101_0101000_1010001_0101010_1001 = .vfmaF32 40 81 42 9 ∧
    decodeMicro 0b0001110_0101000_1010001_0101010_1001 = .vfmaBf16 40 81 42 9 := by decide +kernel

/-- Micro-orders on floating lanes (R46, R47). -/
theorem test_decode_micro_float_2 :
    decodeMicro 0b0001111_0101000_1010001_0101010_1001 = .vfmaF16 40 81 42 9 ∧
    decodeMicro 0b0010000_0101000_1010001_0101010_1001 = .vfmsF32 40 81 42 9 ∧
    decodeMicro 0b0010001_0101000_1010001_0101010_1001 = .vfmsBf16 40 81 42 9 ∧
    decodeMicro 0b0010010_0101000_1010001_0101010_1001 = .vfmsF16 40 81 42 9 ∧
    decodeMicro 0b0010011_0101000_1010001_0101010_1001 = .vminF32 40 81 42 9 ∧
    decodeMicro 0b0010100_0101000_1010001_0101010_1001 = .vminBf16 40 81 42 9 ∧
    decodeMicro 0b0010101_0101000_1010001_0101010_1001 = .vminF16 40 81 42 9 ∧
    decodeMicro 0b0010110_0101000_1010001_0101010_1001 = .vmaxF32 40 81 42 9 ∧
    decodeMicro 0b0010111_0101000_1010001_0101010_1001 = .vmaxBf16 40 81 42 9 ∧
    decodeMicro 0b0011000_0101000_1010001_0101010_1001 = .vmaxF16 40 81 42 9 ∧
    decodeMicro 0b0011001_0101000_1010001_0000000_1001 = .vabsF32 40 81 9 ∧
    decodeMicro 0b0011010_0101000_1010001_0000000_1001 = .vabsBf16 40 81 9 ∧
    decodeMicro 0b0011011_0101000_1010001_0000000_1001 = .vabsF16 40 81 9 ∧
    decodeMicro 0b0011100_0101000_1010001_0000000_1001 = .vnegF32 40 81 9 := by decide +kernel

/-- Micro-orders on floating lanes (R46, R47). -/
theorem test_decode_micro_float_3 :
    decodeMicro 0b0011101_0101000_1010001_0000000_1001 = .vnegBf16 40 81 9 ∧
    decodeMicro 0b0011110_0101000_1010001_0000000_1001 = .vnegF16 40 81 9 ∧
    decodeMicro 0b0011111_0101000_1010001_0000000_1001 = .vsqrt 40 81 9 ∧
    decodeMicro 0b0100000_0101000_1010001_0000000_1001 = .vrcp 40 81 9 ∧
    decodeMicro 0b0100001_0101000_1010001_0000000_1001 = .vrsq 40 81 9 ∧
    decodeMicro 0b0100010_0101000_1010001_0000000_1001 = .vexp2 40 81 9 ∧
    decodeMicro 0b0100011_0101000_1010001_0000000_1001 = .vlog2 40 81 9 ∧
    decodeMicro 0b0100100_0101000_1010001_0000000_1001 = .vtanh 40 81 9 ∧
    decodeMicro 0x1AA14AA9 = .vfmaF32 40 41 42 9 := by decide +kernel

/-- Micro-orders on integer lanes and masks (R46, R47). -/
theorem test_decode_micro_integer_1 :
    decodeMicro 0b0101000_0101000_1010001_0101010_1001 = .viaddI32 40 81 42 9 ∧
    decodeMicro 0b0101001_0101000_1010001_0101010_1001 = .viaddI16 40 81 42 9 ∧
    decodeMicro 0b0101010_0101000_1010001_0101010_1001 = .viaddI8 40 81 42 9 ∧
    decodeMicro 0b0101011_0101000_1010001_0101010_1001 = .visubI32 40 81 42 9 ∧
    decodeMicro 0b0101100_0101000_1010001_0101010_1001 = .visubI16 40 81 42 9 ∧
    decodeMicro 0b0101101_0101000_1010001_0101010_1001 = .visubI8 40 81 42 9 ∧
    decodeMicro 0b0101110_0101000_1010001_0101010_1001 = .vimulI32 40 81 42 9 ∧
    decodeMicro 0b0101111_0101000_1010001_0101010_1001 = .vimulI16 40 81 42 9 ∧
    decodeMicro 0b0110000_0101000_1010001_0101010_1001 = .vimulI8 40 81 42 9 ∧
    decodeMicro 0b0110001_0101000_1010001_0101010_1001 = .viminI32 40 81 42 9 ∧
    decodeMicro 0b0110010_0101000_1010001_0101010_1001 = .viminI16 40 81 42 9 ∧
    decodeMicro 0b0110011_0101000_1010001_0101010_1001 = .viminI8 40 81 42 9 ∧
    decodeMicro 0b0110100_0101000_1010001_0101010_1001 = .vimaxI32 40 81 42 9 ∧
    decodeMicro 0b0110101_0101000_1010001_0101010_1001 = .vimaxI16 40 81 42 9 := by decide +kernel

/-- Micro-orders on integer lanes and masks (R46, R47). -/
theorem test_decode_micro_integer_2 :
    decodeMicro 0b0110110_0101000_1010001_0101010_1001 = .vimaxI8 40 81 42 9 ∧
    decodeMicro 0b0110111_0101000_1010001_0101010_1001 = .viaddsI32 40 81 42 9 ∧
    decodeMicro 0b0111000_0101000_1010001_0101010_1001 = .viaddsI16 40 81 42 9 ∧
    decodeMicro 0b0111001_0101000_1010001_0101010_1001 = .viaddsI8 40 81 42 9 ∧
    decodeMicro 0b0111010_0101000_1010001_0101010_1001 = .vand 40 81 42 9 ∧
    decodeMicro 0b0111011_0101000_1010001_0101010_1001 = .vor 40 81 42 9 ∧
    decodeMicro 0b0111100_0101000_1010001_0101010_1001 = .vxor 40 81 42 9 ∧
    decodeMicro 0b0111101_0101000_1010001_0101010_1001 = .vsll 40 81 42 9 ∧
    decodeMicro 0b0111110_0101000_1010001_0101010_1001 = .vsrl 40 81 42 9 ∧
    decodeMicro 0b0111111_0101000_1010001_0101010_1001 = .vsra 40 81 42 9 ∧
    decodeMicro 0b1000000_0000110_1010001_0101010_1001 = .vcmpeqF32 6 81 42 9 ∧
    decodeMicro 0b1000001_0000110_1010001_0101010_1001 = .vcmpeqI32 6 81 42 9 ∧
    decodeMicro 0b1000010_0000110_1010001_0101010_1001 = .vcmpltF32 6 81 42 9 ∧
    decodeMicro 0b1000011_0000110_1010001_0101010_1001 = .vcmpltI32 6 81 42 9 := by decide +kernel

/-- Micro-orders on integer lanes and masks (R46, R47). -/
theorem test_decode_micro_integer_3 :
    decodeMicro 0b1000100_0000110_1010001_0101010_1001 = .vcmpleF32 6 81 42 9 ∧
    decodeMicro 0b1000101_0000110_1010001_0101010_1001 = .vcmpleI32 6 81 42 9 ∧
    decodeMicro 0b1000000_0001000_1010001_0101010_1001 = .reservedOp7 0b1000000_0001000_1010001_0101010_1001 := by decide +kernel

/-- Conversions, lane operations, queues, tiles and masks (R46, R47). -/
theorem test_decode_micro_convert_1 :
    decodeMicro 0b1000110_0101000_1010001_0000000_1001 = .vcvtBf16F32 40 81 9 ∧
    decodeMicro 0b1000111_0101000_1010001_0000000_1001 = .vcvtF16F32 40 81 9 ∧
    decodeMicro 0b1001000_0101000_1010001_0000000_1001 = .vcvtF32Bf16 40 81 9 ∧
    decodeMicro 0b1001001_0101000_1010001_0000000_1001 = .vcvtF32F16 40 81 9 ∧
    decodeMicro 0b1001010_0101000_1010001_0000000_1001 = .vcvtFp8aF32 40 81 9 ∧
    decodeMicro 0b1001011_0101000_1010001_0000000_1001 = .vcvtFp8bF32 40 81 9 ∧
    decodeMicro 0b1001100_0101000_1010001_0000000_1001 = .vcvtF32Fp8a 40 81 9 ∧
    decodeMicro 0b1001101_0101000_1010001_0000000_1001 = .vcvtF32Fp8b 40 81 9 ∧
    decodeMicro 0b1001110_0101000_1010001_0000000_1001 = .vcvtI32F32 40 81 9 ∧
    decodeMicro 0b1001111_0101000_1010001_0000000_1001 = .vcvtF32I32 40 81 9 ∧
    decodeMicro 0b1010000_0101000_1010001_0000000_1001 = .vcvtFp4xF32 40 81 9 ∧
    decodeMicro 0b1010001_0101000_1010001_0000000_1001 = .vcvtF32Fp4x 40 81 9 ∧
    decodeMicro 0b1010010_0101000_1010001_0000000_1001 = .vrsumF32 40 81 9 ∧
    decodeMicro 0b1010011_0101000_1010001_0000000_1001 = .vrmax 40 81 9 := by decide +kernel

/-- Conversions, lane operations, queues, tiles and masks (R46, R47). -/
theorem test_decode_micro_convert_2 :
    decodeMicro 0b1010100_0101000_1010001_0000000_1001 = .vrmin 40 81 9 ∧
    decodeMicro 0b1010101_0101000_1010001_0000000_1001 = .vrsumI32 40 81 9 ∧
    decodeMicro 0b1011010_0101000_1010001_0000000_1001 = .vunpkl 40 81 9 ∧
    decodeMicro 0b1011011_0101000_1010001_0000000_1001 = .vunpkh 40 81 9 ∧
    decodeMicro 0b1010110_0101000_1010001_0101010_1001 = .vperm 40 81 42 9 ∧
    decodeMicro 0b1010111_0101000_1010001_0101010_1001 = .vrot 40 81 42 9 ∧
    decodeMicro 0b1011000_0101000_1010001_0101010_1001 = .vbcast 40 81 42 9 ∧
    decodeMicro 0b1011001_0101000_1010001_0101010_1001 = .vpack 40 81 42 9 ∧
    decodeMicro 0b1011100_0101000_0000011_0000000_0101 = .vpop 40 3 5 ∧
    decodeMicro 0b1011101_0000001_1010001_0000000_0101 = .vpush 1 81 5 ∧
    decodeMicro 0b1011110_0101000_0110_101_111_0000_1001 = .vtr 40 6 5 7 9 ∧
    decodeMicro 0b1011111_0101000_0110_101_111_0000_1001 = .vtw 40 6 5 7 9 ∧
    decodeMicro 0b1100000_0101000_1010_101_111_0000_1001 = .var 40 2 5 7 9 ∧
    decodeMicro 0b1100001_0101000_1010_101_111_0000_1001 = .vaw 40 2 5 7 9 := by decide +kernel

/-- Conversions, lane operations, queues, tiles and masks (R46, R47). -/
theorem test_decode_micro_convert_3 :
    decodeMicro 0b1100010_0000101_1111111111110111_00 = .vixs 5 (-9) ∧
    decodeMicro 0b1100011_0000101_1111111111110111_00 = .vixa 5 (-9) ∧
    decodeMicro 0b1100100_0101000_0000000000001111_00 = .vspl 40 15 ∧
    decodeMicro 0b1100101_0101000_0000000000001111_00 = .vfil 40 15 ∧
    decodeMicro 0b1100110_0101000_1111111111110111_00 = .vmoviF32 40 (-9) ∧
    decodeMicro 0b1100111_0101000_1111111111110111_00 = .vmoviBf16 40 (-9) ∧
    decodeMicro 0b1101000_0101000_1111111111110111_00 = .vmoviF16 40 (-9) ∧
    decodeMicro 0b1101001_0101000_1111111111110111_00 = .vmoviI32 40 (-9) ∧
    decodeMicro 0b1101010_0101000_1111111111110111_00 = .vmoviI16 40 (-9) ∧
    decodeMicro 0b1101011_0101000_1111111111110111_00 = .vmoviI8 40 (-9) ∧
    decodeMicro 0b1101100_0000101_0000110_0000111_1001 = .kand 5 6 7 9 ∧
    decodeMicro 0b1101101_0000101_0000110_0000111_1001 = .kor 5 6 7 9 ∧
    decodeMicro 0b1101110_0000101_0000110_0000000_1001 = .knot 5 6 9 ∧
    decodeMicro 0b1101111_0000101_1010001_0000000_1001 = .kmov 5 81 9 := by decide +kernel

/-- Conversions, lane operations, queues, tiles and masks (R46, R47). -/
theorem test_decode_micro_convert_4 :
    decodeMicro 0b1110000_0000101_0000110_0000000_0000 = .reservedOp7 0b1110000_0000101_0000110_0000000_0000 ∧
    decodeMicro 0b0100110_0000101_0000110_0000000_0000 = .reservedOp7 0b0100110_0000101_0000110_0000000_0000 := by decide +kernel

/-! ### Single steps, with results worked out from the rules -/

/-- The add of the least and the greatest, a product, a carry lost (R173). -/
theorem test_add_sub_mul : let s := withRegs 1 0xFFFFFFFFFFFFFFFF 2 0
    after (.add 4 1 2 0) s (s4Is 1) = true ∧ after (.sub 4 2 1 0) s (s4Is 3) = true ∧ after (.mul 4 1 2 0) s (s4Is 0xFFFFFFFFFFFFFFFE) = true ∧
    after (.mulh 4 1 2 0) s (s4Is 0xFFFFFFFFFFFFFFFF) = true ∧ after (.mulhu 4 1 2 0) s (s4Is 1) = true := by decide +kernel
/-- The logic members on 0b1100 and 0b1010 (R173). -/
theorem test_logic : let s := withRegs 1 12 10 0
    after (.and 4 1 2 0) s (s4Is 8) = true ∧ after (.or 4 1 2 0) s (s4Is 14) = true ∧ after (.xor 4 1 2 0) s (s4Is 6) = true ∧
    after (.andn 4 1 2 0) s (s4Is 4) = true ∧ after (.orn 4 1 2 0) s (s4Is 0xFFFFFFFFFFFFFFFD) = true := by decide +kernel
/-- Shift counts are taken from bits [5:0]: 0x7F shifts by 63 (R173). -/
theorem test_shifts : let s := withRegs 1 0x8000000000000001 0x7F 0
    after (.sll 4 1 2 0) s (s4Is 0x8000000000000000) = true ∧ after (.srl 4 1 2 0) s (s4Is 1) = true ∧
    after (.sra 4 1 2 0) s (s4Is 0xFFFFFFFFFFFFFFFF) = true ∧ after (.ror 4 1 2 0) s (s4Is 3) = true := by decide +kernel
/-- The same counts as immediates (R175). -/
theorem test_shift_immediates : let s := withRegs 1 0x8000000000000001 0 0
    after (.slli 4 1 63 0) s (s4Is 0x8000000000000000) = true ∧ after (.srli 4 1 63 0) s (s4Is 1) = true ∧
    after (.srai 4 1 63 0) s (s4Is 0xFFFFFFFFFFFFFFFF) = true ∧ after (.rori 4 1 1 0) s (s4Is 0xC000000000000000) = true := by decide +kernel
/-- Signed and unsigned order (R173). -/
theorem test_comparisons : let s := withRegs 1 0xFFFFFFFFFFFFFFFF 1 0
    after (.slt 4 1 2 0) s (s4Is 1) = true ∧ after (.sltu 4 1 2 0) s (s4Is 0) = true ∧ after (.min 4 1 2 0) s (s4Is 0xFFFFFFFFFFFFFFFF) = true ∧
    after (.max 4 1 2 0) s (s4Is 1) = true ∧ after (.minu 4 1 2 0) s (s4Is 1) = true ∧ after (.maxu 4 1 2 0) s (s4Is 0xFFFFFFFFFFFFFFFF) = true := by decide +kernel
/-- The table of R174: a zero divisor, and the overflow. -/
theorem test_divide_corners : let z := withRegs 1 0xFFFFFFFFFFFFFFF9 0 0
    let o := withRegs 1 0x8000000000000000 0xFFFFFFFFFFFFFFFF 0
    after (.div 4 1 2 0) z (s4Is 0xFFFFFFFFFFFFFFFF) = true ∧ after (.divu 4 1 2 0) z (s4Is 0xFFFFFFFFFFFFFFFF) = true ∧
    after (.rem 4 1 2 0) z (s4Is 0xFFFFFFFFFFFFFFF9) = true ∧ after (.remu 4 1 2 0) z (s4Is 0xFFFFFFFFFFFFFFF9) = true ∧
    after (.div 4 1 2 0) o (s4Is 0x8000000000000000) = true ∧ after (.rem 4 1 2 0) o (s4Is 0) = true := by decide +kernel
/-- Minus 7 by 2: quotients truncate toward zero (R174). -/
theorem test_divide : let s := withRegs 1 0xFFFFFFFFFFFFFFF9 2 0
    after (.div 4 1 2 0) s (s4Is 0xFFFFFFFFFFFFFFFD) = true ∧ after (.rem 4 1 2 0) s (s4Is 0xFFFFFFFFFFFFFFFF) = true ∧
    after (.divu 4 1 2 0) s (s4Is 0x7FFFFFFFFFFFFFFC) = true ∧ after (.remu 4 1 2 0) s (s4Is 1) = true := by decide +kernel
/-- The 32-bit members, counts and the rest of OPA (R173). -/
theorem test_word_members : let s := withRegs 1 0x17FFFFFFF 0x80000001 0
    after (.addw 4 1 2 0) s (s4Is 0) = true ∧ after (.subw 4 0 2 0) s (s4Is 0x7FFFFFFF) = true ∧ after (.sextw 4 2 0) s (s4Is 0xFFFFFFFF80000001) = true ∧
    after (.zextw 4 1 0) s (s4Is 0x7FFFFFFF) = true ∧ after (.pack 4 1 2 0) s (s4Is 0x7FFFFFFF80000001) = true ∧ after (.clz 4 1 0) s (s4Is 31) = true ∧
    after (.ctz 4 0 0) s (s4Is 64) = true ∧ after (.popc 4 1 0) s (s4Is 32) = true := by decide +kernel
theorem test_shift_adds : let s := withRegs 1 0x8000000000000003 5 0
    after (.sh1add 4 1 2 0) s (s4Is 11) = true ∧ after (.sh2add 4 1 2 0) s (s4Is 17) = true ∧ after (.sh3add 4 1 2 0) s (s4Is 29) = true := by decide +kernel
/-- Immediates are sign-extended from 12 bits (R175, R27). -/
theorem test_immediates : let s := withRegs 1 0x0F 0 0
    after (.addi 4 1 0xFFF 0) s (s4Is 14) = true ∧ after (.andi 4 1 0xFF8 0) s (s4Is 8) = true ∧ after (.ori 4 1 0x800 0) s (s4Is 0xFFFFFFFFFFFFF80F) = true ∧
    after (.xori 4 1 0xFFF 0) s (s4Is 0xFFFFFFFFFFFFFFF0) = true ∧ after (.slti 4 1 0xFFF 0) s (s4Is 0) = true ∧
    after (.sltiu 4 1 0xFFF 0) s (s4Is 1) = true ∧ after (.lui 4 0x2468B) s (s4Is 0x12345800) = true ∧
    after (.adpc 4 0x1FFFFF) s (s4Is 0xFFC) = true := by decide +kernel
/-- Register s0 discards what an instruction writes to it (R18). -/
theorem test_zero_register : after (.addi 0 1 5 0) (withRegs 1 7 0 0) (fun t => decide (t.reg 1 0 = 0)) = true := by decide +kernel
/-- Branches and jumps land at PC plus four times the offset, or at the masked sum (R38, R176, R27). -/
theorem test_transfers : let s := withRegs 1 0xFFFFFFFFFFFFFFFF 1 0x2007
    after (.blt 1 2 0x1FFB) s (fun t => decide (t.pc 1 = 0xFEC)) = true ∧ after (.bltu 1 2 0x1FFB) s (fun t => decide (t.pc 1 = 0x1004)) = true ∧
    after (.beq 1 2 8) s (fun t => decide (t.pc 1 = 0x1004)) = true ∧ after (.bne 1 2 8) s (fun t => decide (t.pc 1 = 0x1020)) = true ∧
    after (.bge 1 2 8) s (fun t => decide (t.pc 1 = 0x1004)) = true ∧ after (.bgeu 1 2 8) s (fun t => decide (t.pc 1 = 0x1020)) = true ∧
    after (.jal 4 0x1FFFFF) s (fun t => decide (t.pc 1 = 0xFFC) && decide (t.reg 1 4 = 0x1004)) = true ∧
    after (.jalr 4 3 0xFFF 0) s (fun t => decide (t.pc 1 = 0x2004) && decide (t.reg 1 4 = 0x1004)) = true := by decide +kernel
/-- 1.5 + 2.25 = 3.75; 1 ÷ 3 to nearest and toward zero; √2; the fused product keeps the low part (R41, R177, R66). -/
theorem test_fp32 : let s := (withRegs 1 0x3F800000 0x40400000 0x40000000).setReg 1 4 0xBF800000
    after (.fadd 4 1 2 0 0) s (s4Is 0x40800000) = true ∧ after (.fsub 4 1 2 0 0) s (s4Is 0xC0000000) = true ∧
    after (.fmul 4 3 2 0 0) s (s4Is 0x40C00000) = true ∧ after (.fdiv 4 1 2 0 0) s (s4Is 0x3EAAAAAB) = true ∧
    after (.fdiv 4 1 2 1 0) s (s4Is 0x3EAAAAAA) = true ∧ after (.fsqrt 4 3 0 0) s (s4Is 0x3FB504F3) = true ∧
    after (.fmac 4 3 2 0 0) s (s4Is 0x40A00000) = true ∧ after (.fli 4 0x3FC0 0) s (s4Is 0x3FC00000) = true := by decide +kernel
/-- 1 ÷ 0, 0 × infinity, √−0, the minimum of the two zeros, a comparison with NaN (R64, R177). -/
theorem test_fp32_corners : let s := withRegs 1 0x80000000 0x7F800000 0x3F800000
    let n := withRegs 1 0x7FC00001 0x3F800000 0
    after (.fdiv 4 3 1 0 0) s (s4Is 0xFF800000) = true ∧ after (.fsqrt 4 1 0 0) s (s4Is 0x80000000) = true ∧
    after (.fmin 4 0 1 0) s (s4Is 0x80000000) = true ∧ after (.fmax 4 1 0 0) s (s4Is 0) = true ∧ after (.feq 4 0 1 0) s (s4Is 1) = true ∧
    after (.feq 4 1 1 0) n (s4Is 0) = true ∧ after (.flt 4 1 2 0) n (s4Is 0) = true ∧ after (.fle 4 2 2 0) n (s4Is 1) = true ∧
    after (.fmin 4 1 2 0) n (s4Is 0x3F800000) = true := by decide +kernel
/-- Conversions: −1, 2 to the 24th plus one to even, NaN to 0, out of range to the bound, −1.5 to even and toward zero (R177, R65). -/
theorem test_fp32_conversions : let s := withRegs 1 0xFFFFFFFFFFFFFFFF 0x1000001 0xBFC00000
    let n := withRegs 1 0x7FC00000 0xFF800000 0x7F000000
    after (.fitof 4 1 0 0) s (s4Is 0xBF800000) = true ∧ after (.fitof 4 2 0 0) s (s4Is 0x4B800000) = true ∧
    after (.fftoi 4 3 0 0) s (s4Is 0xFFFFFFFFFFFFFFFE) = true ∧ after (.fftoi 4 3 1 0) s (s4Is 0xFFFFFFFFFFFFFFFF) = true ∧
    after (.fftoi 4 1 0 0) n (s4Is 0) = true ∧ after (.fftoi 4 2 0 0) n (s4Is 0x8000000000000000) = true ∧
    after (.fftoi 4 3 0 0) n (s4Is 0x7FFFFFFFFFFFFFFF) = true := by decide +kernel
/-- A post saturates at 0xFFFF and marks EVOVF; EVWAIT takes its count; EVCLR answers the count and clears it (R184). -/
theorem test_events : after (.evpost 63 3 0) (withEvent 0xFFF0) (fun t => decide (Kv.get 0 (t.slot 0).events 3 = 0xFFFF) && decide (t.csr 1 7 = 8)) = true ∧
    after (.evwait 5 3 0) (withEvent 7) (fun t => decide (Kv.get 0 (t.slot 0).events 3 = 2)) = true ∧
    after (.evclr 4 3 0) (withEvent 7) (fun t => decide (Kv.get 0 (t.slot 0).events 3 = 0) && s4Is 7 t) = true := by decide +kernel
/-- A trap, a word of zeros, a token bit of a missing neighbour, a foreign role: the codes of R350 (R29, R45, R190). -/
theorem test_traps : after (.trap 0x2A 0) (running 1) (fun t => ((t.slot 0).trap).any fun r => decide (r.code = 16) && decide (r.pc = 0x1000)) = true ∧
    after (.reservedEncoding 0) (running 1) (fun t => ((t.slot 0).trap).any fun r => decide (r.code = 1) && decide (r.pc = 0x1000)) = true ∧
    after (.nop 2) (running 2) (fun t => ((t.slot 0).trap).any fun r => decide (r.code = 2)) = true ∧
    after (.hbeat 0) (running 1) (fun t => ((t.slot 0).trap).any fun r => decide (r.code = 1)) = true := by decide +kernel
/-- A pop takes one token; a push adds one (R28, R29). -/
theorem test_tokens : let s := (running 1).modSlot 0 fun c => { c with lx := 2, xl := 3 }
    after (.nop 5) s (fun t => decide (t.pc 1 = 0x1004) && decide ((t.slot 0).lx = 1) && decide ((t.slot 0).xl = 4)) = true := by decide +kernel
/-- A word of the spill memory written and read back, and one beyond the limit (R160). -/
theorem test_spill : let s := (withRegs 0 0x1122334455667788 0 0).modSlot 0 fun c => { c with splim := 8 }
    after (.stsp 1 7 0) s (fun t => after (.ldsp 4 7 0) (t.setPc 0 0x1000) (s4Is 0x1122334455667788)) = true ∧
    after (.stsp 1 8 0) s (fun t => ((t.slot 0).trap).any fun r => decide (r.code = 4)) = true := by decide +kernel

/-- What a micro-order writes to every lane of v40, which held `z`, from v33 holding `x` and v34 holding `y`. -/
def laneIs (i : Instr) (x y z v : BitVec 32) : Bool :=
  after i ((inRun 1).modVec 0 fun q => { q with regs := [(33, List.replicate 128 x), (34, List.replicate 128 y), (40, List.replicate 128 z)] })
    fun t => decide (lane (t.vreg 0 40) 0 = v) && decide (lane (t.vreg 0 40) 127 = v) && decide ((t.slot 0).vec.upc = 1)

/-- Sums and products of 1 and 2 in the three formats; a fused sum (R213). -/
theorem test_vector_float : laneIs (.vaddF32 40 33 34 0) 0x3F800000 0x40000000 0 0x40400000 = true ∧
    laneIs (.vsubF32 40 33 34 0) 0x3F800000 0x40000000 0 0xBF800000 = true ∧ laneIs (.vmulBf16 40 33 34 0) 0x3F804000 0x40004000 0 0x40004080 = true ∧
    laneIs (.vaddBf16 40 33 34 0) 0x3F804000 0x3F804000 0 0x40004080 = true ∧ laneIs (.vaddF16 40 33 34 0) 0x3C004000 0x3C004000 0 0x40004400 = true ∧
    laneIs (.vfmaF32 40 33 34 0) 0x3F800000 0x40000000 0x3F800000 0x40400000 = true ∧
    laneIs (.vfmsF32 40 33 34 0) 0x3F800000 0x40000000 0x3F800000 0xBF800000 = true ∧
    laneIs (.vminF16 40 33 34 0) 0x3C00C000 0x40003C00 0 0x3C00C000 = true ∧ laneIs (.vmaxBf16 40 33 34 0) 0x3F80C000 0x40003F80 0 0x40003F80 = true ∧
    laneIs (.vabsBf16 40 33 0) 0xBF803F80 0 0 0x3F803F80 = true ∧ laneIs (.vnegF32 40 33 0) 0xBF803F80 0 0 0x3F803F80 = true := by decide +kernel
/-- Wrapping, saturating and comparing elements (R214). -/
theorem test_vector_integer : laneIs (.viaddI8 40 33 34 0) 0x7FFF00FF 0x01010101 0 0x80000100 = true ∧
    laneIs (.viaddsI8 40 33 34 0) 0x7FFF00FF 0x01010101 0 0x7F000100 = true ∧ laneIs (.visubI16 40 33 34 0) 0x00010000 0x00020001 0 0xFFFFFFFF = true ∧
    laneIs (.vimulI32 40 33 34 0) 0xFFFFFFFF 3 0 0xFFFFFFFD = true ∧ laneIs (.viminI8 40 33 34 0) 0x80000100 0x7F00FF01 0 0x8000FF00 = true ∧
    laneIs (.vimaxI16 40 33 34 0) 0x80000001 0x7FFF0002 0 0x7FFF0002 = true ∧ laneIs (.viaddsI16 40 33 34 0) 0x7FFF8000 0x0001FFFF 0 0x7FFF8000 = true ∧
    laneIs (.vand 40 33 34 0) 12 10 0 8 = true ∧ laneIs (.vxor 40 33 34 0) 12 10 0 6 = true ∧ laneIs (.vsll 40 33 34 0) 1 0x25 0 32 = true ∧
    laneIs (.vsra 40 33 34 0) 0x80000000 0x3F 0 0xFFFFFFFF = true ∧ laneIs (.vsrl 40 33 34 0) 0x80000000 0x3F 0 1 = true := by decide +kernel
/-- Conversions to even, extension, immediates, a broadcast and a sum over the lanes (R216, R218, R224). -/
theorem test_vector_convert : laneIs (.vcvtBf16F32 40 33 0) 0x3F808000 0 0 0x3F80 = true ∧ laneIs (.vcvtF32Bf16 40 33 0) 0x12343F80 0 0 0x3F800000 = true ∧
    laneIs (.vcvtI32F32 40 33 0) 0x40200000 0 0 2 = true ∧ laneIs (.vcvtF32I32 40 33 0) 0xFFFFFFFF 0 0 0xBF800000 = true ∧
    laneIs (.vcvtF32F16 40 33 0) 0x3C00 0 0 0x3F800000 = true ∧ laneIs (.vrsumI32 40 33 0) 3 0 0 384 = true ∧
    laneIs (.vmoviF32 40 0x4000) 0 0 0 0x40000000 = true ∧ laneIs (.vmoviI8 40 0x0185) 0 0 0 0x85858585 = true ∧
    laneIs (.vmoviI16 40 0xFFF7) 0 0 0 0xFFF7FFF7 = true ∧ laneIs (.vbcast 40 33 127 0) 9 0 0 9 = true ∧ laneIs (.vnop) 0 0 7 7 = true ∧
    laneIs (.vmov 40 33 1) 9 0 7 9 = true ∧ laneIs (.vmov 40 33 2) 9 0 7 7 = true ∧ laneIs (.vmov 40 33 8) 9 0 7 7 = true := by decide +kernel
/-- The step fetches and runs what stands where a word is placed: an ADDI in a stream, a micro-order of a run (R24, R207). -/
theorem test_step_runs_the_placed_word : (match step (State.reset.withFetchWord 32 0x04200050) with
      | .next t => decide (t.reg 1 1 = 5)
      | _ => false) = true ∧
    (match step (State.reset.withFetchWord 32 0x8A154000) with
      | .next t => decide (t.vmask 0 5 = BitVec.allOnes 128)
      | _ => false) = true := by decide +kernel

/-- What the four bytes from 0x1010 hold after a CPY of three bytes from 0x1010 to 0x1011, with these choices made. -/
noncomputable def overlapped (choices : List Nat) : List Byte :=
  let c : Cmd := { oneCmd (.cpy 1 1 1 2 3 (ext 0 0 0 0)) 0 with v1 := 0x1011, v2 := 0x1010, v3 := 3 }
  let s : State := { windowed 1 (running 1) with cmds := [c], nextUid := 2, scratch := Mem.write [] 0x1010 [1, 2, 3, 4], choices := choices }
  match exec (.commandStart c.uid 100) s with
  | .next t => t.bytes .scratch 0x1010 4
  | _ => []
/-- A destination byte that is also a source byte gives on either of the two values of R132. -/
theorem test_copy_overlap : overlapped [] = [1, 1, 2, 3] ∧ overlapped [7] = [1, 1, 1, 1] ∧ overlapped [4] = [1, 1, 2, 2] := by decide +kernel

/-! ### Witnesses: the work of the engines -/

/-- The state in which a command of X is in flight: its slot is granted 0x1000 to 0x1FFF, which hold 256 numbered bytes, the
tile 2 of the core and its accumulator 1. -/
def flying (c : Cmd) : State :=
  (({ windowed 1 (running 1) with
      cmds := [c], nextUid := 2
      scratch := Mem.write [] 0x1000 ((List.range 256).map fun i => BitVec.ofNat 8 (i + 1)) } : State)).modSlot 0 fun x =>
    { x with tmap := [2], amap := [1] }
def x0 : Ext := ext 0 0 0 0
/-- A command that its engine has taken up, with its parameters and the bytes it has done. -/
def underWay (i : Instr) (d a : Nat) (par : List Int) (off : Nat) : Cmd :=
  { oneCmd i 0 with v1 := BitVec.ofNat 64 d, v2 := BitVec.ofNat 64 a, phase := .running, par := par, off := off }
/-- A command that its engine has not taken up, with its three operands. -/
def ready3 (i : Instr) (a b c : Nat) : Cmd :=
  { oneCmd i 0 with v1 := BitVec.ofNat 64 a, v2 := BitVec.ofNat 64 b, v3 := BitVec.ofNat 64 c }

theorem witness_copy_piece :
    (let c := underWay (.cpy 1 1 1 2 3 x0) 0x1180 0x1040 [100, 1, 1, 0, 0, 0, 0] 64
     Claims.Goes (flying c) c ∧ Within (flying c) c 0x11C0 36 ∧ Within (flying c) c 0x1080 36 ∧ c.old = []) ∧
    (let c := underWay (.cpy2 1 1 1 2 3 x0) 0x1300 0x1040 [8, 4, 1, 16, -8, 0, 0] 10
     Claims.Goes (flying c) c ∧ Within (flying c) c (0x1300 - 8 + 2) 6 ∧ Within (flying c) c (0x1040 + 16 + 2) 6) ∧
    (let c := underWay (.cpf 1 1 2 3 x0) 0x117D 0x11223344 [20, 1, 1, 0, 0, 0, 0] 3
     Claims.Goes (flying c) c ∧ Within (flying c) c 0x1180 17) ∧
    (let c := underWay (.cpy3 1 1 1 2 3 x0) 0x1300 0x1040 [8, 2, 2, 16, -8, 32, 64] 32
     Claims.Goes (flying c) c ∧ 8 * 2 * 2 ≤ c.off) := by unfold Claims.Goes Within; decide +kernel
theorem witness_gather_piece : let c := underWay (.cpg 1 1 1 2 3 x0) 0x1200 0x1000 [4, 3, 0x1F00, 8] 4
    let s : State := { flying c with scratch := Mem.write (flying c).scratch 0x1F00 (leBytes 4 1 ++ leBytes 4 5 ++ leBytes 4 2) }
    Claims.Goes s c ∧ Within s c 0x1F04 4 ∧ leNat (s.bytes .scratch 0x1F04 4) = 5 ∧ sliceOk 0x1028 4 = true ∧ s.window 0 0x1028 4 = true ∧
    Within s c 0x1028 4 ∧ Within s c 0x1204 4 := by unfold Claims.Goes Within; decide +kernel
theorem witness_message_ends : let c := underWay (.cpm 1 1 2 3 x0) 0x800100 0x1000 [8, 1, 1, 0, 0, 0, 0, 0x9000, 77] 8
    Claims.Goes (flying c) c ∧ 8 ≤ c.off ∧ ((flying c).core 1).hq.length < 16 := by unfold Claims.Goes; decide +kernel
theorem witness_queue_copy : let c := underWay (.cpq 1 2 2 3 x0) 0 0x1000 [3] 512
    Claims.Goes (flying c) c ∧ c.off = 512 * 1 ∧ (∀ x ∈ ((flying c).seq 0).loads, ∀ v w, x.op = .vload v w → v ≠ 2) ∧
    (∀ x ∈ (flying c).cmds, slotKey x.seqk = slotKey c.seqk → cpqQueue x.ins = 2 → (cpMember x.ins).1 = 8 → x.phase ≠ .done →
      issuedBefore x c = false) ∧ (Kv.get [] ((flying c).slot 0).queues 2).length < 8 ∧
    ∀ i < 4, Within (flying c) c (0x1200 + 128 * i : Nat) 128 := by
  refine ⟨by unfold Claims.Goes; decide +kernel, by decide +kernel, fun x hx => ?_, by decide +kernel, by decide +kernel, by
    unfold Within; decide +kernel⟩
  have h : ((flying (underWay (.cpq 1 2 2 3 x0) 0 0x1000 [3] 512)).seq 0).loads = [] := by decide +kernel
  rw [h] at hx
  cases hx

theorem witness_tile_moves :
    (let c := ready3 (.tld 0 1 2 3 x0) 0x1000 0x7F00 0x100
     let s := flying c
     Starts s c ∧ 0 < (s.slot 0).tmap.length ∧ sliceOk 0x1000 0x100 = true ∧ s.window 0 0x1000 0x100 = true ∧
     s.verify .scratch 0x1000 0x100 = none) ∧
    (let c := ready3 (.tst 0 1 2 3 x0) 0x1E80 0x80 0x80
     let s := flying c
     Starts s c ∧ sliceOk 0x1E80 0x80 = true ∧ s.window 0 0x1E80 0x80 = true ∧ s.ecc = []) := by unfold Starts; decide +kernel
/-- The rows of accumulator 0 are full. -/
def rowsOf (c : Cmd) : State :=
  let s := flying c
  { s with accs := (List.range 128).map fun r => (s.accKey 0 0 r, List.replicate 128 (BitVec.ofNat 32 (7 + r))) }
theorem witness_fill_and_drain :
    (let c := ready3 (.afill 0 1 2 3 x0) 0x1004 (3 + 120 * 2 ^ 8 + 2 * 2 ^ 16 + 8 * 2 ^ 24) 64
     let s := rowsOf c
     Starts s c ∧ 0 < (s.slot 0).amap.length ∧ windowBad c.v2 = false ∧ (∀ i < 2, (0x1004 + i * 64) % 4 = 0 ∧
       sliceOk (0x1004 + i * 64) 32 = true ∧ s.window 0 (0x1004 + i * 64) 32 = true ∧ s.verify .scratch (0x1004 + i * 64) 32 = none) ∧
     ∀ r < 128, (s.accRow 0 0 r).length = 128) ∧
    (let c := ready3 (.adrn 0 1 2 3 x0) 0x1104 (3 + 120 * 2 ^ 8 + 1 * 2 ^ 16 + 8 * 2 ^ 24) 0
     let s := rowsOf c
     Starts s c ∧ windowBad c.v2 = false ∧ sliceOk 0x1104 32 = true ∧ s.window 0 0x1104 32 = true ∧ s.verify .scratch 0x1104 32 = none) := by
  unfold Starts; decide +kernel

/-- A MITER at a phase and an iteration of its own. -/
def iterating (phase k : Nat) (stop : Bool) : Cmd × State :=
  let c := underWay (.miterNs 0 0 4 1 2 3 x0) (0 + 1 * 4 + 3 * 2 ^ 8 + 3 * 2 ^ 16) 6 [] 0
  (c, (flying c).modSlot 0 fun x => { x with amap := [1, 0], miStop := stop, mis := { x.mis with phase := phase, k := k } })
theorem witness_iterations : (∀ p ∈ [iterating 0 3 true, iterating 0 6 false, iterating 11 3 false],
    Claims.Goes p.2 p.1 ∧ miterKind p.1.ins ≠ 0 ∧ p.2.arrayFree p.1 = true) ∧
    ((iterating 0 3 true).2.slot 0).miStop = true ∧ ((iterating 0 6 false).2.slot 0).mis.k = (iterating 0 6 false).1.v2.toNat := by
  unfold Claims.Goes; decide +kernel

/-- An MGO whose weights are in: its next pass takes rows of A from 0x1000 on, two deep. -/
def passing : Cmd × State :=
  let c : Cmd := { underWay (.mgo (ext 0 0 0 0)) 0 0 [] 0 with
    lat := { mcfg := [(0, 2), (0x30, 0x1000), (0x34, 0x100), (0x36, 256), (0x32, 5)], desc := [] }, nest := { started := true, begun := true, weights := [[0x80, 0x3F]] } }
  (c, { rowsOf c with scratch := Mem.write [] 0x1000 ((List.range 256).flatMap fun i => leBytes 2 (0x3F80 + i % 7)) })
theorem witness_pass : let c := passing.1
    let s := passing.2
    let cfg := c.cfg
    Claims.Goes s c ∧ cfg.chained = false ∧ s.arrayFree c = true ∧ c.nest.started = true ∧ c.nest.begun = true ∧ c.nest.ending = none ∧
    cfg.act 0 1 = false ∧ cfg.act 0 3 = false ∧ c.nest.idx.getD 0 0 + 1 ≠ cfg.cnt 0 ∧ 1 ≤ cfg.ma ∧
    (match s.nestRegion cfg c.nest.idx c.nest.w 15, s.nestRows cfg c.nest cfg.ma with | .ok p, .ok _ => decide (p = (0, 5)) | _, _ => false) = true := by
  unfold Claims.Goes; decide +kernel

/-- A slot whose directory is at 0x10000, with one region, of eight-word rows, bound under handle 0. -/
def arena (c : Cmd) (users : Nat) : State :=
  { (running 1).modSlot 0 (fun x => { x with tha := 0x4000010000, swin := [(0, 0x4200010000)], thEntries := [7, 9] }) with
    cmds := [c], nextUid := 2, scratch := Mem.write [] 0x10000 (leBytes 16 (encodeDir ⟨2, false, users, 0, ⟨0, 4, 8, 16, 0x10100, false, none⟩⟩)) }
theorem witness_arena : let s := arena (ready3 (.tforce 1 x0) 0 0 0) 2
    s.thaOk 0 = true ∧ (s.slot 0).thClear = false ∧ s.verify .scratch (thaBase (s.slot 0).tha) 4224 = none ∧ (s.dir 0 1).kind = 0 ∧
    (∀ g < 1, (s.dir 0 g).kind ≠ 0) ∧ s.handleBad 0 0 false = 0 ∧ (s.dir 0 0).users = 2 ∧ (s.dir 0 0).kind = 2 ∧ (s.dir 0 0).view.alloc = false ∧
    ((arena (ready3 (.tdrop 1 x0) 0 0 0) 0).dir 0 0).users = 0 := by decide +kernel
theorem witness_thunk_commands :
    (∀ i ∈ [Instr.tforce 1 x0, .tdrop 1 x0], ∀ u ∈ [0, 2], Starts (arena (ready3 i 0 0 0) u) (ready3 i 0 0 0)) ∧
    (let c := ready3 (.tbind 4 1 2 3 x0) 0x12000 (4 + 8 * 2 ^ 11 + 3 * 2 ^ 22) 64
     let n := (⟨3, 4, 8, 64, 0x12000, false, none⟩ : View).extent
     Starts (arena c 0) c ∧ sliceOk 0x12000 n = true ∧ (arena c 0).window 0 0x12000 n = true) ∧
    (let c := ready3 (.tadd 4 1 3 x0) (0 + 2 ^ 8 * 0 + 2 ^ 24 * 5) 0 (0x12000 + 32 * 2 ^ 48)
     let s := arena c 1
     let v := (s.dir 0 0).view
     Starts s c ∧ topOp c.ins = 4 ∧ topWordsBad c 4 = false ∧ s.inputBad 0 [0, 0] = none ∧
     (match topShape 4 5 [v, v], s.outputView 0 5 4 8 c.v3 [v, v] with
       | .ok x, .ok y => decide (x = (4, 8, 0)) && decide (y = ⟨5, 4, 8, 32, 0x12000, false, none⟩) | _, _ => false) = true ∧
     (s.slot 0).thEntries = [7, 9]) := by unfold Starts; decide +kernel

/-- A name stands at 0x1000, which the index counts; a line stands at 0x1200. -/
def indexed (c : Cmd) (count : Nat) : State :=
  let s := flying c
  let n : BitVec 128 := BitVec.ofNat 128 (12345 * 2 ^ 32)
  { s with
    scratch := Mem.write (Mem.write s.scratch 0x1000 (leBytes 16 n.toNat)) 0x1200 (List.replicate 128 7)
    mem := Mem.write s.mem (memKey 0x400000) (List.replicate 128 7)
    caIndex := [⟨n, 0x300000, 0, 0, BitVec.ofNat 32 count⟩, ⟨mkName (contentHash 0 (List.replicate 128 7)) 0 0, 0x400000, 0, 0, 4⟩] }
theorem witness_ca_counts : (∀ d ∈ [3, 2 ^ 32 - 5, 2 ^ 32 - 6], let c := ready3 (.caref 4 1 2 x0) 0x1000 d 0
      Starts (indexed c 5) c ∧ (indexed c 5).entryOf (BitVec.ofNat 128 (12345 * 2 ^ 32)) = some ⟨BitVec.ofNat 128 (12345 * 2 ^ 32), 0x300000, 0, 0, 5⟩) ∧
    (let c := ready3 (.capin 4 1 x0) 0x1000 0 0
     let s := indexed c 0
     Starts s c ∧ sliceOk 0x1000 16 = true ∧ s.window 0 0x1000 16 = true ∧ s.verify .scratch 0x1000 16 = none ∧
     BitVec.ofNat 128 (leNat (s.bytes .scratch 0x1000 16)) = BitVec.ofNat 128 (12345 * 2 ^ 32) ∧ nameOk (BitVec.ofNat 128 (12345 * 2 ^ 32)) = true) := by
  unfold Starts; decide +kernel
theorem witness_ca_stores :
    (let c := ready3 (.cahash 1 2 3 x0) 0x1000 0x1800 200
     let s := indexed c 1
     Starts s c ∧ sliceOk 0x1000 200 = true ∧ s.window 0 0x1000 200 = true ∧ s.verify .scratch 0x1000 200 = none ∧
     sliceOk 0x1800 16 = true ∧ s.window 0 0x1800 16 = true ∧ s.verifyLine .scratch 0x1800 = none) ∧
    (let c := ready3 (.caput 4 1 2 x0) 0x1280 0x1800 0
     Starts (indexed c 1) c ∧ ∀ i < 128, byteAt (indexed c 1) .scratch (0x1280 + i) = 0) ∧
    (let c := ready3 (.caput 4 1 2 x0) 0x1200 0x1800 0
     let s := indexed c 1
     let line := s.bytes .scratch 0x1200 128
     Starts s c ∧ s.verify .scratch 0x1200 128 = none ∧ line ≠ zeros 128 ∧
     (match s.lookup (contentHash 0 line) line with | .hit x [] => decide (x.count = 4) && decide (x ∈ s.caIndex) | _ => false) = true ∧ (4 : BitVec 32) ≠ pinned) := by
  unfold Starts; decide +kernel

/-- A SPAWN of the TCB at 0x3000, whose counter is 2. -/
theorem witness_spawn_arms : let c := ready3 (.spawn 4 1 2 3 x0) 0x3000 0 0
    let tcb : List Byte := patch goodTcb 8 (leBytes 4 2)
    let s0 : State := mapped ((running 1).modSlot 0 fun c => { c with troot := 0x10001 })
    let s : State := { s0 with cmds := [c], nextUid := 2, mem := Mem.write s0.mem 0x3000 tcb }
    Starts s c ∧ tcbOk tcb = true ∧ tcbState tcb = 0 ∧ leAt tcb 8 4 ≠ 0 ∧ badPlace (leAt tcb 104 8) = false ∧
    (match (s.setCmd { c with phase := .running }).blockAt (cmdSource c 3) (s.slot 0).troot 0x3000 true with
      | (t, .ok m) => decide (m = 0x3000) && decide (t.block m = tcb) && (t.cmd c.uid).isSome | _ => false) = true := by
  unfold Starts; decide +kernel

/-! ### Witnesses: instructions that wait, signal and end -/

/-- A release AMO of S: its cell in the slice, with nothing before it and with a load before it; one in a deterministic task. -/
theorem witness_amo_release : let s := withCell 2
    (Quiet s ∧ (self s).loads = [] ∧ (self s).stores = [] ∧ (match s.cellOf 2 (s.reg 2 1) 8 with | .slice x => decide (x = 0x1FF8) | _ => false) = true ∧
     s.verifyLine .scratch 0x1FF8 = none) ∧
    (self (s.modSeq 2 fun q => { q with loads := [oneLoad] })).loads ≠ [] ∧ s.heldBack 2 .amo = false ∧
    (match (s.modSlot 0 fun c => { c with det := true }).findHome 2 (s.reg 2 1) 4 0 0 true with | .home u _ => (mine u).det | _ => false) = true := by
  unfold Quiet; decide +kernel
/-- A barrier, or a write of a future, behind a store waits. -/
theorem witness_signal_waits : let s := (withCell16 1 (2 ^ 32)).modSeq 1 fun q => { q with stores := [oneStore] }
    issuable s 0 [4, 1] = true ∧ (begun s 0).queuesEmpty s.cur = false := by decide +kernel
/-- A task reads a future that is not written, alone, and in a team of two. -/
def unwritten (n : Nat) : State :=
  mapped ((withCell16 1 0).modSlot 0 fun c => { c with troot := 0x10001, xroot := 0x10001, tcb := 0x3000, teamSize := n })
theorem witness_frd_empty (n : Nat) (h : n = 1 ∨ n = 2) : let s := unwritten n
    let t := begun s 0
    role s = 1 ∧ (mine s).sideEffect = false ∧ issuable s 0 [4, 1] = true ∧ Quiet t ∧ (mine t).teamSize = n ∧
    (match t.cell16 (.slice 0x1FF0) with | .ok x => decide (x = 0) | _ => false) = true ∧
    (match t.blockAt (taskSource 1) (mine t).xroot (mine t).tcb.toNat true with | (_, .ok m) => decide (m % 256 = 0) | _ => false) = true := by
  rcases h with rfl | rfl <;> (unfold Quiet; decide +kernel)
/-- The TCB at 0x3000 has a counter and a state. -/
def countedTcb (n st : Nat) : State := { tasked with mem := Mem.write tasked.mem 0x3000 (patch (patch (zeros 256) 8 (leBytes 4 n)) 200 (leBytes 4 st)) }
theorem witness_decrement (p : Nat × Nat) (h : p ∈ [(0, 1), (5, 0), (1, 0), (1, 1)]) : let s := countedTcb p.1 p.2
    (match s.blockAt (taskSource 1) 0x10001 0x3000 true with
      | (t, .ok m) => decide (m % 256 = 0) && decide (leAt (t.block m) 8 4 = p.1) && decide (leAt (t.block m) 200 4 = p.2) && decide (leAt (t.block m) 220 1 ≤ 1) &&
          decide (t.cur = s.cur) && t.placeFree (t.releaseOctant 0x3000 (t.placement m) (leAt (t.block m) 232 2 % 1024)) true
      | _ => false) = true := by
  simp only [List.mem_cons, List.not_mem_nil, or_false] at h
  rcases h with rfl | rfl | rfl | rfl <;> decide +kernel
theorem witness_depdec_waits : let s := (countedTcb 5 0).modSeq 1 fun q => { q with stores := [oneStore] }
    role s = 1 ∧ s.heldBack s.cur .amo = false ∧ issuable s 0 [1] = true ∧ s.queuesEmpty s.cur = false := by decide +kernel
theorem witness_trig_waits : let s := tasked.modSeq 1 fun q => { q with trigWait := some ([(1, 0)], []), issued := true, stores := [oneStore] }
    again s 0 = true ∧ (mine s).decs = none ∧ (mine s).triggered = false ∧ (self s).trigWait = some ([(1, 0)], []) ∧ oneStore ∈ (s.seq 1).stores := by
  decide +kernel
theorem witness_yield_replays : let g : Graph := { id := 8, tcbs := [0x3000], troot := 0, mode := 2, shape := 7, ver := 1, started := [0], entry := 5 }
    let s : State := { (running 1).modSlot 0 (fun c => { c with mode := 2, graph := 8 }) with graphs := [g], readies := [{ oneReady with prio := 0, home := .core 0 }] }
    ready s 0 [] = true ∧ (mine s).teamSize ≤ 1 ∧ (mine s).busy = true ∧ (begun s 0).readyFor 0 = true ∧ (mine s).mode = 2 ∧
    (s.graph (mine s).graph).any (fun g => decide (g.mode = 2)) = true := by decide +kernel
/-- A task ends: its histograms, its successors and its TCB are there, and nothing is left to do. -/
theorem witness_exit_writes : let s0 : State := countedTcb 2 0x12
    let s := s0.modSeq 1 fun q => { q with issued := true }
    again s 0 = true ∧ (mine s).decs = none ∧ (mine s).triggered = false ∧ s.cmds = [] ∧
    (∀ i < 3, (s.seq i).loads = [] ∧ (s.seq i).stores = [] ∧ (s.seq i).strong = false) ∧
    (match (s.modSlot 0 fun c => { c with exiting := some (s.reg 1 2) }).writeHists 0 with
      | (s1, .ok ()) => (match s1.successors 1 with
        | .ok s2 _ => (match s2.blockAt (taskSource 1) (mine s).xroot (mine s).tcb.toNat true with | (_, .ok m) => decide (m % 256 = 0) | _ => false)
        | _ => false)
      | _ => false) = true := by decide +kernel
theorem witness_evpost_behind_a_mark : let s := (running 1).modSeq 1 fun q => { q with loads := [oneMark], nextEntry := 1 }
    issuable s 0 [] = true ∧ ∃ x ∈ (self s).loads, x.op = .mark := by decide +kernel
theorem witness_evclr_waits : let s := ((withEvent 7).modSeq 0 fun q => { q with active := true, evwait := some (3, 7) }).modSlot 0 fun c => { c with taken := [] }
    issuable s 0 [4] = true ∧ s.evTaken s.cur 3 4 = true := by decide +kernel

/-! ### Witnesses: events -/

theorem witness_cpr_plain_values (f : Bool) : let c := oneCpr f 1 [3, 0, 0]
    let s := contributing c 0 0
    s.cmd c.uid = some c ∧ sliceCpr c.ins = true ∧ s.verify .scratch c.v2.toNat 12 = none ∧ s.verify .scratch c.v1.toNat 12 = none ∧
    (c.v2.toNat + 12 ≤ c.v1.toNat ∨ c.v1.toNat ≤ c.v2.toNat) := by cases f <;> decide +kernel
theorem witness_cpr_bad_table : let c := oneCpr true 2 [1, 0, 0x300]
    let s : State := { contributing c 0 0 with bad := [(lineKey .scratch 0x300, 7)] }
    s.admissible 0 = some c ∧ s.verify .scratch 0x300 16 ≠ none := by decide +kernel
theorem witness_peer_refused : let s : State := { State.reset with peers := [2] }
    2 ∈ s.peers ∧ (3 : BitVec 8).toNat ∉ s.peers ∧ (crc32c (zeros 128) ≠ 1) := by decide +kernel
theorem witness_trace_fetch_bad_line : let s0 := directed 2 1 1 0 State.reset
    let s : State := { s0 with ecc := [lineKey .main ((s0.dirBase + 64 * 5) / 128 * 128)] }
    s.dirFind (5 * 2 ^ 96) = some 5 ∧ s.verifyLine .main ((s.dirBase + 64 * 5) / 128 * 128) ≠ none := by decide +kernel
theorem witness_stop_notice_mine : let g : Graph := { id := 8, tcbs := [0x3000], troot := 0, mode := 2, shape := 7, ver := 1, started := [0], entry := 5 }
    let s : State := { (State.reset.setSlot 0 { Slot.init 0 with busy := true, graph := 8, mode := 2 }) with graphs := [g] }
    s.notices = [] ∧ g.image = [] ∧ (∀ t, t < g.tcbs.length → t ∈ g.started) ∧ (∀ x ∈ s.slots, s.slot x.1 = x.2) ∧
    (s.choices.headD 0).testBit 0 = false ∧ s.dirField 5 40 4 < 3 := by decide +kernel
theorem witness_spawn_withdrawn (st : Option Stopping) (h : st = none ∨ st = some ⟨2⟩) :
    let s : State := { ((running 1).modSlot 0 fun c => { c with nextCmd := 1, stopping := st }) with cmds := [oneSpawn], nextUid := 2, time := 50006, readies := [waiting] }
    oneSpawn.failed = false ∧ oneSpawn.issued + 50000 < s.time.toNat ∧ (s.slot 0).teamSize ≤ 1 ∧ (s.slot 0).stopping = st ∧ (s.slot 0).busy = true ∧
    s.queue 0 ≠ [] := by rcases h with rfl | rfl <;> decide +kernel
/-- A team of two, and a task of a replay, are told to stop. -/
theorem witness_checkpoint_team_and_replay :
    (let s := ((savable none).modSlot 0 fun c => { c with teamSize := 2, teamId := 5 }).setSlot 9 { Slot.init 9 with busy := true, teamSize := 2, teamId := 5 }
     s.graphs = [] ∧ (∀ y ∈ s.slots, s.slot y.1 = y.2) ∧ (s.slot 9).stopping = none) ∧
    (let g : Graph := { id := 8, tcbs := [0x3000], troot := 0, mode := 2, shape := 7, ver := 1, started := [0], entry := 5 }
     let s : State := { ((savable none).modSlot 0 fun c => { c with mode := 2, graph := 8, tix := 0 }) with graphs := [g] }
     (s.slot 0).teamSize ≤ 1 ∧ s.graph 8 = some g ∧ (s.slot 0).busy = true ∧ (s.slot 0).stopping = none) := by decide +kernel
theorem witness_tile_line_fails : let s0 := (savable (some ⟨1⟩)).modSlot 0 fun c => { c with tmap := [0] }
    let s : State := { s0 with ecc := [lineKey .tile (s0.tileAddr 0 0 0)] }
    (s.tileEcc 0).isSome = true ∧ s.stopped 0 = true ∧ (s.slot 0).trap = none ∧ (s.slot 0).mode ≠ 1 := by decide +kernel
theorem witness_waiter_counts : let w : Wake := ⟨4, 0, 7, 0x10001, 0x3000, 0, []⟩
    let s : State := { countedTcb 2 4 with wakes := [w] }
    let src : Source := { waiter := .wake 4, core := 0, slot := 0, engine := 5 }
    (match s.blockAt src w.troot w.tcb.toNat true with
      | (t, .ok m) => (match (t.blockSet m 192 8 0).blockAt src w.troot w.tcb.toNat true with
        | (v, .ok n) => decide (m = n) && decide (m % 256 = 0) && decide (1 < leAt (v.block m) 8 4) | _ => false)
      | _ => false) = true := by decide +kernel

/-- A recording of one line, interned on another module: its root and its lines. -/
def shipped : List (BitVec 128) × List (BitVec 128 × List Byte) :=
  match (pooled State.reset).internImage (List.replicate 128 7) with
  | .ok t ns => (ns, t.caIndex.map fun e => (e.name, t.bytes .main e.line 128))
  | _ => ([], [])
def shippedEntry : List Byte :=
  leBytes 16 (5 * 2 ^ 96) ++ leBytes 16 (shipped.1.headD 0).toNat ++ leBytes 4 1 ++ leBytes 4 1 ++ leBytes 4 0 ++ leBytes 1 2 ++ zeros 19
theorem witness_gang_fetch_walks : let s : State := { pooled (directed 1 0 0 0 State.reset) with host := { rank := 1 } }
    leAt shippedEntry 0 16 = 5 * 2 ^ 96 ∧ leAt shippedEntry 44 1 = 2 ∧ s.dirFind (5 * 2 ^ 96) = some 5 ∧ s.dirField 5 44 1 = 1 ∧
    (match fetchedWalk shipped.2 (treeDepth 1) 1 (BitVec.ofNat 128 (leAt shippedEntry 16 16)) with
      | some w => (match s.internImage w.leaves.flatten with | .ok t _ => (t.ordinalConflict w.lines).isNone | _ => false)
      | none => false) = true ∧
    (fetchedWalk (shipped.2.drop 1) (treeDepth 1) 1 (BitVec.ofNat 128 (leAt shippedEntry 16 16))).isNone = true := by decide +kernel
theorem witness_gang_fetch_conflicts :
    let b := shipped.2.headD (0, [])
    let s0 := pooled (directed 1 0 0 0 State.reset)
    let s : State := { s0 with caIndex := [⟨b.1, 0x70000, 0, 0, 1⟩], mem := Mem.write s0.mem 0x70000 (List.replicate 128 99), host := { rank := 1 } }
    (match fetchedWalk shipped.2 (treeDepth 1) 1 (BitVec.ofNat 128 (leAt shippedEntry 16 16)) with
      | some w => (match s.internImage w.leaves.flatten with | .ok t _ => (t.ordinalConflict w.lines).isSome | _ => false)
      | none => false) = true := by decide +kernel
theorem witness_fetch_times_out : let s : State := { pooled (directed 1 0 0 0 State.reset) with fetches := [(5 * 2 ^ 96, shippedEntry, [], 5)], time := 100005 }
    (∀ x ∈ s.graphs, x.poolWait = none) ∧ s.fetches = [(5 * 2 ^ 96, shippedEntry, [], 5)] ∧ (5 : BitVec 64).toNat + s.twoBeats 0 ≤ s.time.toNat := by
  decide +kernel
/-- Numbers and their rational values. -/
theorem witness_numbers : Is (.num false 3 0) 3 ∧ Is (.num true 1 (-1)) (-1 / 2) := by
  refine ⟨⟨false, 3, 0, rfl, by norm_num⟩, ⟨true, 1, -1, rfl, ?_⟩⟩
  norm_num [zpow_neg]
/-- A TBLOAD in a slot that stops retires though its push has no room. -/
theorem witness_retires_owing : let c : Cmd := { oneTable 4095 1 with phase := .done, ext := { x0 with t := 4 } }
    let s : State := { (running 1).modSlot 0 (fun x => { x with stopping := some ⟨1⟩, xs := 16, xl := 16 }) with cmds := [c], nextUid := 2 }
    s.cmd c.uid = some c ∧ s.behindInQueue c = false ∧ (s.slot 0).stopping ≠ none ∧ runsToEnd c.ins = true ∧
    (s.slot 0).pushOk 1 c.ext.t = false := by decide +kernel
theorem witness_store_owes : let s := (running 2).modSeq 2 fun q => { q with stores := [oneStore], owing := some (oneStore.id, 4) }
    (s.seq 2).stores = [oneStore] ∧ (s.slot (slotKey 2)).stopping = none ∧ (s.seq 2).owing = some (oneStore.id, 4) := by decide +kernel
theorem witness_not_resumed : (oneRun 0x7FF000).resumed = false ∧ (oneRun 0x800000).resumed = false ∧ (oneTable 4095 1).resumed = false := by decide +kernel
/-- A cell of the slice: a barrier of one, and a written future. -/
theorem witness_slice_cell : let s := withCell16 1 (2 ^ 32)
    (match s.cellOf s.cur (s.reg s.cur 1) 16 with | .slice x => decide (x = 0x1FF0) | _ => false) = true ∧ s.verifyLine .scratch 0x1FF0 = none ∧
    Quiet s ∧ s.queuesEmpty s.cur = true ∧ s.cmds = [] ∧ issuable s 0 [4, 1, 2] = true ∧ role s = 1 ∧ (mine s).sideEffect = false ∧
    leNat (Mem.read s.scratch 0x1FF0 16) = 2 ^ 32 ∧ leNat (Mem.read (withCell16 1 (9 * 2 ^ 64)).scratch 0x1FF0 16) = 9 * 2 ^ 64 ∧ s.reg 1 2 = 0 := by
  unfold Quiet; decide +kernel
theorem witness_trig_triggers : let s := tasked.modSeq 1 fun q => { q with trigWait := some ([], []), issued := true }
    again s 0 = true ∧ s.graphs = [] ∧ (match s.successors 1 with
      | .ok s1 [] => (match s1.blockAt (taskSource 1) (mine s).xroot (mine s).tcb.toNat true with
        | (s2, .ok m) => decide (m % 256 = 0) && decide (s2.graphs = s.graphs) | _ => false)
      | _ => false) = true := by decide +kernel

end Sys2Proof.Tests
end

section
/-! SUPPORT. What the module reads as right after reset: its units, its control registers and BAR0, its memories, their
check words and origin tags (R95, R145, R160, R187, R197, R248, R271, R333, R370, R372). -/

namespace Sys2Proof.Machine

/-! ### Units -/

@[simp] theorem State.reset_seq (k : Nat) : State.reset.seq k = {} := rfl
@[simp] theorem State.reset_slot (sk : Nat) : State.reset.slot sk = Slot.init sk := rfl
@[simp] theorem State.reset_core (c : Nat) : State.reset.core c = {} := rfl
@[simp] theorem State.reset_cmds : State.reset.cmds = [] := rfl
@[simp] theorem State.reset_host : State.reset.host = {} := rfl
@[simp] theorem State.reset_time : State.reset.time = 0 := rfl
@[simp] theorem State.reset_cycles : State.reset.cycles = [] := rfl
@[simp] theorem State.reset_throt : State.reset.throt = [] := rfl
@[simp] theorem State.reset_health : State.reset.health = 0 := rfl
@[simp] theorem State.reset_chalt : State.reset.chalt = 0 := rfl
@[simp] theorem State.reset_copyQueue (core q : Nat) : State.reset.copyQueue core q = [] := rfl

/-- THA is zero, an order below the least one of R252, so that no directory is read. -/
@[simp] theorem State.reset_liveHandles (sk : Nat) : State.reset.liveHandles sk = [] := by
  have hTha : State.reset.thaOk sk = false := by simp [State.thaOk, Slot.init, thaOrder, bits]
  simp [State.liveHandles, hTha]

/-! ### Control registers -/

@[simp] theorem pack_eq_zero {l : List (Nat × Nat)} (h : ∀ f ∈ l, f.2 = 0) : pack l = 0 := by
  induction l with
  | nil => rfl
  | cons f r ih =>
    have hf : f.2 = 0 := h f (by simp)
    have hr : pack r = 0 := ih fun g hg => h g (by simp [hg])
    simp [pack, hf, hr]

@[simp] theorem pack_append (l m : List (Nat × Nat)) : pack (l ++ m) = pack l + pack m := by
  induction l with
  | nil => simp [pack]
  | cons f r ih => simp [pack, ih, Nat.add_assoc]

@[simp] theorem bit_false : bit false = 0 := rfl

@[simp] theorem State.reset_cqPos (core q : Nat) : State.reset.cqPos core q = 0 := rfl

@[simp] theorem State.reset_cqOcc (core : Nat) : State.reset.cqOcc core = 0 := by
  simp [State.cqOcc]

@[simp] theorem State.reset_slotRunning (sk : Nat) (p : Instr → Bool) : State.reset.slotRunning sk p = false := rfl

@[simp] theorem State.reset_upcWord (sk : Nat) : State.reset.upcWord sk = 0 := by
  simp [State.upcWord, State.inFlight, Slot.init]

@[simp] theorem State.reset_prunWord (sk : Nat) : State.reset.prunWord sk = 0 := rfl

@[simp] theorem ixWord_eq_zero {v : VecSt} (h : v.ix = []) (m : Nat) : ixWord v m = 0 := by
  simp [ixWord, h, Kv.get]

@[simp] theorem Slot.filled_eq_zero {c : Slot} (h : c.queues = []) (q : Nat) : c.filled q = 0 := by
  simp [Slot.filled, h, Kv.get]

theorem Slot.init_index_eq_zero (sk i : Nat) : (Slot.init sk).mat.idx.getD i 0 = 0 := by
  show (List.replicate 6 0).getD i 0 = 0
  simp only [List.getD_eq_getElem?_getD, List.getElem?_replicate]
  split <;> rfl

/-- From 0x040 on, every register but VLEN and PWIN reads as zero. -/
theorem State.reset_csrHigh_eq_zero (k n : Nat) (hVlen : n ≠ 0x040) (hPwin : n ≠ 0x083) : State.reset.csrHigh k n = 0 := by
  unfold State.csrHigh
  split
  case h_1 | h_30 => contradiction -- VLEN and PWIN
  case h_11 => -- MNCL packs the first four indices
    simp only [State.reset_slot, Slot.init_index_eq_zero]
    simp
  all_goals simp [Slot.init, Kv.get, zx]

/-- Every register but COREID, HBPER, SPLIM, VLEN and PWIN reads as zero. -/
theorem State.reset_csr_eq_zero (k n : Nat) (hCoreid : n ≠ 0x002) (hHbper : n ≠ 0x008) (hSplim : n ≠ 0x025)
    (hVlen : n ≠ 0x040) (hPwin : n ≠ 0x083) : State.reset.csr k n = 0 := by
  unfold State.csr
  split
  case h_3 | h_9 | h_12 => contradiction -- COREID, HBPER and SPLIM
  all_goals simp [Slot.init, Kv.get, zx, State.reset_csrHigh_eq_zero k _ hVlen hPwin]

/-- COREID names the core and the slot. -/
theorem State.reset_coreid (k : Nat) : State.reset.csr k 0x002 = BitVec.ofNat 64 (k / 32 + k / 4 % 8 * 1024) := by
  simp [State.csr, pack, coreOf, slotNum, slotKey]

theorem State.reset_hbper (k : Nat) : State.reset.csr k 0x008 = 50 := rfl

/-- SPLIM is 1024 in slots 4 and 5 (R160). -/
theorem State.reset_splim (k : Nat) : State.reset.csr k 0x025 = if 4 ≤ k / 4 % 8 then 1024 else 0 := by
  by_cases h : 4 ≤ k / 4 % 8 <;> simp [State.csr, Slot.init, slotNum, slotKey, h]

theorem State.reset_vlen (k : Nat) : State.reset.csr k 0x040 = 128 := rfl

/-- PWIN: drain 40, kill 20, quantum 2000 (R370). -/
theorem State.reset_pwin (k : Nat) : State.reset.csr k 0x083 = BitVec.ofNat 64 (40 + 20 * 2 ^ 16 + 2000 * 2 ^ 32) := rfl

/-! ### BAR0 -/

theorem State.reset_mstat : State.reset.mstat = 0 := by simp [State.mstat]

theorem State.reset_bar0 (off : Nat) : State.reset.bar0 off = 0 := by
  simp [State.bar0, State.reset_mstat, Kv.get, zx]

/-! ### Memories -/

theorem Mem.read_nil (a n : Nat) : Mem.read [] a n = zeros n := by
  simp [Mem.read, Mem.get, Kv.get, zeros]

/-- A part of a list of zero bytes, past its end too, is zero bytes. -/
theorem slice_zeros (m o n : Nat) : slice (zeros m) o n = zeros n := by
  simp only [slice, zeros, List.drop_replicate, List.take_replicate, List.length_replicate, List.replicate_append_replicate]
  congr 1
  omega

theorem zeros_flatMap_range (m n : Nat) : ((List.range m).flatMap fun _ => zeros n) = zeros (m * n) := by
  simp [List.flatMap_def, zeros]

/-- A line of a tile that no task has been granted is zero. -/
theorem State.reset_tileLine (k : Nat) : State.reset.tileLine k = zeros 128 := by
  simp [State.tileLine, State.reset, Kv.get, Kv.has, zeros]

theorem State.reset_bytes (sp : Space) (a n : Nat) : State.reset.bytes sp a n = zeros n := by
  cases sp with
  | main => exact Mem.read_nil a n
  | scratch => exact Mem.read_nil a n
  | tile => simp only [State.bytes, State.reset_tileLine, zeros_flatMap_range, slice_zeros]

theorem State.reset_verify (sp : Space) (a n : Nat) : State.reset.verify sp a n = none :=
  State.verify_clean State.reset sp a n rfl rfl

theorem State.reset_tag (sp : Space) (a : Nat) : State.reset.tag sp a = 0x6000 := rfl

end Sys2Proof.Machine

namespace Sys2Proof.Claims
open Sys2Proof.Machine

/-- Settles O58: register by register for the control registers, space by space for the memories. -/
theorem resetLeavesTheResetColumns : Obligations.ResetLeavesTheResetColumns := by
  unfold Obligations.ResetLeavesTheResetColumns
  refine ⟨fun k n _ => ?csr, State.reset_bar0,
    fun sp a n => ⟨State.reset_bytes sp a n, State.reset_verify sp a n, State.reset_tag sp a⟩,
    canonical_reset, rfl, rfl, fun _ => rfl, fun _ => rfl, rfl, rfl, rfl⟩
  split
  · exact State.reset_coreid k
  · exact State.reset_hbper k
  · exact State.reset_splim k
  · exact State.reset_vlen k
  · exact State.reset_pwin k
  · rename_i hCoreid hHbper hSplim hVlen hPwin
    exact State.reset_csr_eq_zero k n hCoreid hHbper hSplim hVlen hPwin

end Sys2Proof.Claims
end

section
/-! SUPPORT. What a short instruction that is ready, and does nothing but write a register and set the PC, leads to (R18, R28,
R171), for every instruction that is issued through `issueShort`. -/

namespace Sys2Proof.Claims
open Sys2Proof.Machine

/-! ### An instruction that is ready -/

/-- What `ready` asks, one by one. -/
theorem ready_iff (s : State) (t : BitVec 4) (uses : List (BitVec 5)) :
    ready s t uses = true ↔
      s.canIssue s.cur = true ∧ (s.seq s.cur).issued = false ∧ tokenMisuse (roleOf s.cur) t = false ∧
        (s.slot (slotKey s.cur)).popOk (roleOf s.cur) t = true ∧ uses.any (s.pendingReg s.cur) = false ∧
        (s.slot (slotKey s.cur)).pushOk (roleOf s.cur) t = true ∧ s.delay = false := by
  simp only [ready, issuable, Bool.and_eq_true, Bool.not_eq_true', List.all_eq_true, List.any_eq_false, Bool.not_eq_true]
  tauto

/-- A sequencer that may issue owes no push (R28). -/
theorem owed_of_canIssue {s : State} {k : Nat} (h : s.canIssue k = true) : (s.seq k).owed = [] := by
  simp only [State.canIssue, Bool.and_eq_true, List.isEmpty_iff] at h
  exact h.1.2

@[simp] theorem begun_cur (s : State) (t : BitVec 4) : (begun s t).cur = s.cur := rfl
@[simp] theorem begun_delay (s : State) (t : BitVec 4) : (begun s t).delay = s.delay := rfl
@[simp] theorem begun_seq_self (s : State) (t : BitVec 4) :
    (begun s t).seq s.cur = { s.seq s.cur with issued := true } := State.modSeq_seq_self _ _ _
theorem begun_seq_ne (s : State) (t : BitVec 4) (j : Nat) (h : j ≠ s.cur) : (begun s t).seq j = s.seq j :=
  State.modSeq_seq_ne _ _ _ _ h
@[simp] theorem begun_slot_self (s : State) (t : BitVec 4) :
    (begun s t).slot (slotKey s.cur) = popped (role s) t (mine s) := State.modSlot_slot_self _ _ _
theorem begun_slot_ne (s : State) (t : BitVec 4) (j : Nat) (h : j ≠ slotKey s.cur) : (begun s t).slot j = s.slot j :=
  State.modSlot_slot_ne _ _ _ _ h
@[simp] theorem begun_pc (s : State) (t : BitVec 4) : (begun s t).pc s.cur = s.pc s.cur := by simp [State.pc]
@[simp] theorem begun_reg (s : State) (t : BitVec 4) (r : BitVec 5) : (begun s t).reg s.cur r = s.reg s.cur r := by
  simp [State.reg]

/-! ### Work that writes one register and sets the PC -/

/-- `w` is `s` with register `d` of the current sequencer written and its PC set, and nothing else changed. -/
structure WritesAndGoes (s w : State) (d : BitVec 5) (v pc : Word) : Prop where
  frame : w = { s with seqs := w.seqs }
  other : ∀ j, j ≠ s.cur → w.seq j = s.seq j
  own : w.seq s.cur = { s.seq s.cur with pc := pc, regs := (w.seq s.cur).regs }
  reg : Writes s w d v

/-- A register write followed by a jump is such work. -/
theorem writesAndGoes_setReg_setPc (s : State) (d : BitVec 5) (v pc : Word) :
    WritesAndGoes s ((s.setReg s.cur d v).setPc s.cur pc) d v pc where
  frame := by rw [State.setPc, s.setReg_frame]; rfl
  other j hj := by rw [State.setPc, State.setSeq_seq_ne _ _ _ _ hj, State.setReg_seq_ne _ _ _ _ _ hj]
  own := by rw [State.setPc, State.setSeq_seq_self, s.setReg_seq_self]
  reg r := by rw [State.setPc_reg, State.setReg_reg]

/-- A ready instruction whose work goes on to `w` makes its pushes and has retired. -/
theorem issueShort_ready {f : Form} {pre eff : State → Res} {s w : State} (h : ready s f.t f.uses = true) (hok : f.ok = true)
    (hrole : f.roles (slotNum (slotKey s.cur)) (roleOf s.cur) = true) (hlate : f.late = false) (hpre : pre s = .go s)
    (heff : eff (begun s f.t) = .go w) (hdelay : w.delay = s.delay)
    (howed : (w.seq s.cur).owed = (s.seq s.cur).owed)
    (hslot : w.slot (slotKey s.cur) = popped (role s) f.t (mine s)) :
    issueShort f pre eff s = (w.pushTokens s.cur f.t).modSeq s.cur fun q => { q with issued := false } := by
  obtain ⟨hcan, hissued, htok, hpop, huses, hpush, hd⟩ := (ready_iff _ _ _).1 h
  have hroom : w.room s.cur f.t = true := by
    rw [State.room, hslot]
    exact (Slot.issue_pushOk _ _ _ htok).trans hpush
  rw [issueShort_goes f pre eff s hcan hok hrole htok hissued hpop huses, hpre]
  refine (finishShort_go f eff (begun s f.t) w heff (hdelay.trans hd)
    (.inr ⟨howed.trans (owed_of_canIssue hcan), hroom⟩)).trans ?_
  simp [hlate]

/-- A ready instruction whose work is such work retires with it. -/
theorem issueShort_retires {f : Form} {pre eff : State → Res} {s w : State} {d : BitVec 5} {v pc : Word}
    (h : ready s f.t f.uses = true) (hok : f.ok = true) (hrole : f.roles (slotNum (slotKey s.cur)) (roleOf s.cur) = true)
    (hlate : f.late = false) (hpre : pre s = .go s) (heff : eff (begun s f.t) = .go w)
    (hw : WritesAndGoes (begun s f.t) w d v pc) : Retires s (issueShort f pre eff s) f.t d v pc := by
  obtain ⟨hframe, hother, hown, hreg⟩ := hw
  simp only [begun_cur, begun_seq_self] at hother hown
  have hcur : w.cur = s.cur := by rw [hframe]; rfl
  have hslot (j : Nat) : w.slot j = (begun s f.t).slot j := by rw [hframe]; rfl
  have hissued := ((ready_iff _ _ _).1 h).2.1
  rw [issueShort_ready h hok hrole hlate hpre heff (by rw [hframe]; rfl) (by rw [hown]) (by rw [hslot, begun_slot_self])]
  refine ⟨⟨?frame, fun j hj => ?seqs, fun j hj => ?slots⟩, ?slot, ?seq, fun r => ?reg⟩
  case frame => rw [hframe]; rfl
  case seqs =>
    rw [State.modSeq_seq_ne _ _ _ _ hj]
    exact (hother j hj).trans (begun_seq_ne s _ j hj)
  case slots =>
    rw [State.modSeq_slot, State.pushTokens, State.modSlot_slot_ne _ _ _ _ hj, hslot, begun_slot_ne s _ j hj]
  case slot => simp [mine, State.pushTokens, hcur, hslot, moved, popped, role]
  case seq =>
    simp only [self, State.pushTokens, State.modSeq_cur, State.modSlot_cur, State.modSeq_seq_self, State.modSlot_seq, hcur]
    rw [hown, hissued]
  case reg =>
    refine Eq.trans ?_ ((hreg r).trans (by simp))
    simp [State.reg, State.pushTokens]

/-! ### The arithmetic of OPA -/

/-- A ready instruction that writes a value to a register and goes on to the next word retires with it. -/
theorem issueShort_writeReg_retires {f : Form} {s : State} {d : BitVec 5} {v : State → Word} {x : Word}
    (h : ready s f.t f.uses = true) (hok : f.ok = true) (hrole : f.roles (slotNum (slotKey s.cur)) (roleOf s.cur) = true)
    (hlate : f.late = false) (hv : v (begun s f.t) = x) :
    Retires s (issueShort f preGo (writeReg d v) s) f.t d x (next4 s) := by
  refine issueShort_retires h hok hrole hlate rfl rfl ?_
  have := writesAndGoes_setReg_setPc (begun s f.t) d x (next4 s)
  simpa [State.adv, next4, hv] using this

theorem alu3_leads {g : Word → Word → Word} {s : State} {d a b : BitVec 5} {t : BitVec 4} (h : ready s t [d, a, b] = true) :
    ∃ u, alu3 g d a b t s = .next u ∧ Retires s u t d (g (s.reg s.cur a) (s.reg s.cur b)) (next4 s) :=
  ⟨_, rfl, issueShort_writeReg_retires (f := formAll t [d, a, b]) h rfl rfl rfl (by simp)⟩

/-- With no turn of a slow instruction, one that takes more than a cycle retires like any other. -/
theorem mulDiv_leads {g : Word → Word → Word} {s : State} {d a b : BitVec 5} {t : BitVec 4} (h : ready s t [d, a, b] = true) :
    ∃ u, mulDiv g d a b t s = .next u ∧ Retires s u t d (g (s.reg s.cur a) (s.reg s.cur b)) (next4 s) :=
  ⟨_, rfl, issueShort_writeReg_retires (f := formSlow t d [a, b]) h rfl rfl rfl (by simp)⟩

end Sys2Proof.Claims
end

section
/-! SUPPORT. The results of the two-source members of OPA, which the model computes with the operations of bit vectors, in the
arithmetic of the integers (R173), and the proof of O1. -/

namespace Sys2Proof.Claims
open Sys2Proof.Machine

/-! ### Operations of bit vectors in the arithmetic of the integers -/

theorem add_eq_z64 (x y : Word) : x + y = z64 ((x.toNat : Int) + y.toNat) := by
  rw [z64, BitVec.ofInt_add]
  simp

theorem sub_eq_z64 (x y : Word) : x - y = z64 ((x.toNat : Int) - y.toNat) := by
  apply BitVec.eq_of_toInt_eq
  rw [z64, BitVec.toInt_sub, BitVec.toInt_ofInt]
  simp [BitVec.toInt_eq_toNat_bmod]

theorem mul_eq_z64 (x y : Word) : x * y = z64 (x.toInt * y.toInt) := by
  simp [z64, BitVec.ofInt_mul]

/-- The high half of an unsigned product. -/
theorem high64_natCast (n : Nat) : high64 (n : Int) = BitVec.ofNat 64 (n / 2 ^ 64) := by
  rw [high64]
  norm_cast

theorem shiftLeft_eq_mul (x : Word) (n : Nat) : x <<< n = BitVec.ofNat 64 (x.toNat * 2 ^ n) := by
  apply BitVec.eq_of_toNat_eq
  simp [Nat.shiftLeft_eq]

theorem ushiftRight_eq_div (x : Word) (n : Nat) : x >>> n = BitVec.ofNat 64 (x.toNat / 2 ^ n) := by
  rw [← Nat.shiftRight_eq_div_pow, ← BitVec.toNat_ushiftRight, BitVec.ofNat_toNat, BitVec.setWidth_eq]

theorem sshiftRight_eq_div (x : Word) (n : Nat) : x.sshiftRight n = z64 (x.toInt / 2 ^ n) := by
  have h : (x.sshiftRight n).toInt = x.toInt / 2 ^ n := by
    rw [BitVec.toInt_sshiftRight, Int.shiftRight_eq_div_pow]
    norm_cast
  rw [z64, ← h, BitVec.ofInt_toInt]

/-- The two parts of a rotation share no bit, so that their union is their sum. -/
theorem rotateRight_eq_add (x : Word) (n : Nat) (h : n < 64) :
    x.rotateRight n = BitVec.ofNat 64 (x.toNat / 2 ^ n + x.toNat * 2 ^ (64 - n)) := by
  have disjoint : x >>> n &&& x <<< (64 - n) = 0#64 := by
    ext i hi
    have hside : i < 64 - n ∨ 64 ≤ n + i := by omega
    rcases hside with hi | hi <;> simp [hi]
  rw [BitVec.rotateRight_def, Nat.mod_eq_of_lt h, ← BitVec.add_eq_or_of_and_eq_zero _ _ disjoint]
  apply BitVec.eq_of_toNat_eq
  simp [Nat.shiftRight_eq_div_pow, Nat.shiftLeft_eq]

theorem flag_slt (x y : Word) : flag (x.slt y) = truth (x.toInt < y.toInt) := by simp [flag, truth, BitVec.slt]

theorem flag_ult (x y : Word) : flag (x.ult y) = truth (x.toNat < y.toNat) := by simp [flag, truth, BitVec.ult]

theorem min_slt (x y : Word) : (if x.slt y then x else y) = z64 (Min.min x.toInt y.toInt) := by
  simp only [BitVec.slt, decide_eq_true_eq, z64]
  split
  · rw [min_eq_left (by omega), BitVec.ofInt_toInt]
  · rw [min_eq_right (by omega), BitVec.ofInt_toInt]

theorem max_slt (x y : Word) : (if x.slt y then y else x) = z64 (Max.max x.toInt y.toInt) := by
  simp only [BitVec.slt, decide_eq_true_eq, z64]
  split
  · rw [max_eq_right (by omega), BitVec.ofInt_toInt]
  · rw [max_eq_left (by omega), BitVec.ofInt_toInt]

theorem min_ult (x y : Word) : (if x.ult y then x else y) = BitVec.ofNat 64 (Min.min x.toNat y.toNat) := by
  simp only [BitVec.ult, decide_eq_true_eq]
  split
  · rw [min_eq_left (by omega), BitVec.ofNat_toNat, BitVec.setWidth_eq]
  · rw [min_eq_right (by omega), BitVec.ofNat_toNat, BitVec.setWidth_eq]

theorem max_ult (x y : Word) : (if x.ult y then y else x) = BitVec.ofNat 64 (Max.max x.toNat y.toNat) := by
  simp only [BitVec.ult, decide_eq_true_eq]
  split
  · rw [max_eq_right (by omega), BitVec.ofNat_toNat, BitVec.setWidth_eq]
  · rw [max_eq_left (by omega), BitVec.ofNat_toNat, BitVec.setWidth_eq]

theorem setWidth_add_eq_ofNat (x y : Word) : (x + y).setWidth 32 = BitVec.ofNat 32 (x.toNat + y.toNat) := by
  apply BitVec.eq_of_toNat_eq
  simp

theorem setWidth_sub_eq_ofInt (x y : Word) : (x - y).setWidth 32 = BitVec.ofInt 32 ((x.toNat : Int) - y.toNat) := by
  apply BitVec.eq_of_toNat_eq
  simp only [BitVec.toNat_setWidth, BitVec.toNat_sub, BitVec.toNat_ofInt]
  omega

/-- The two halves of a packed word share no bit. -/
theorem pack_eq_add (x y : Word) :
    zx (x.setWidth 32) <<< 32 ||| zx (y.setWidth 32) = BitVec.ofNat 64 (x.toNat % 2 ^ 32 * 2 ^ 32 + y.toNat % 2 ^ 32) := by
  have disjoint : zx (x.setWidth 32) <<< 32 &&& zx (y.setWidth 32) = 0#64 := by
    ext i hi
    simp only [zx, BitVec.getElem_and, BitVec.getElem_shiftLeft, BitVec.getElem_setWidth, BitVec.getLsbD_setWidth,
      BitVec.getElem_zero]
    by_cases h : i < 32 <;> simp [h]
  rw [← BitVec.add_eq_or_of_and_eq_zero _ _ disjoint]
  apply BitVec.eq_of_toNat_eq
  simp [zx, Nat.shiftLeft_eq]

theorem shiftLeft_add_eq (n : Nat) (x y : Word) : x <<< n + y = BitVec.ofNat 64 (2 ^ n * x.toNat + y.toNat) := by
  apply BitVec.eq_of_toNat_eq
  simp [Nat.shiftLeft_eq, Nat.mul_comm]

/-- The shift amount of R173 is the low six bits of the second source. -/
theorem bits_zero_six (y : Word) : bits y 0 6 = y.toNat % 64 := by simp [bits]

/-! ### The members -/

/-! Each member in terms of the one operation by which the model computes it. -/

section
variable (d a b : BitVec 5) (t : BitVec 4) (s : State)

theorem exec_add : exec (.add d a b t) s = alu3 (· + ·) d a b t s := rfl
theorem exec_sub : exec (.sub d a b t) s = alu3 (· - ·) d a b t s := rfl
theorem exec_and : exec (.and d a b t) s = alu3 (· &&& ·) d a b t s := rfl
theorem exec_or : exec (.or d a b t) s = alu3 (· ||| ·) d a b t s := rfl
theorem exec_xor : exec (.xor d a b t) s = alu3 (· ^^^ ·) d a b t s := rfl
theorem exec_andn : exec (.andn d a b t) s = alu3 (fun x y => x &&& ~~~y) d a b t s := rfl
theorem exec_orn : exec (.orn d a b t) s = alu3 (fun x y => x ||| ~~~y) d a b t s := rfl
theorem exec_sll : exec (.sll d a b t) s = alu3 (fun x y => x <<< bits y 0 6) d a b t s := rfl
theorem exec_srl : exec (.srl d a b t) s = alu3 (fun x y => x >>> bits y 0 6) d a b t s := rfl
theorem exec_sra : exec (.sra d a b t) s = alu3 (fun x y => x.sshiftRight (bits y 0 6)) d a b t s := rfl
theorem exec_ror : exec (.ror d a b t) s = alu3 (fun x y => x.rotateRight (bits y 0 6)) d a b t s := rfl
theorem exec_slt : exec (.slt d a b t) s = alu3 (fun x y => flag (x.slt y)) d a b t s := rfl
theorem exec_sltu : exec (.sltu d a b t) s = alu3 (fun x y => flag (x.ult y)) d a b t s := rfl
theorem exec_min : exec (.min d a b t) s = alu3 (fun x y => if x.slt y then x else y) d a b t s := rfl
theorem exec_max : exec (.max d a b t) s = alu3 (fun x y => if x.slt y then y else x) d a b t s := rfl
theorem exec_minu : exec (.minu d a b t) s = alu3 (fun x y => if x.ult y then x else y) d a b t s := rfl
theorem exec_maxu : exec (.maxu d a b t) s = alu3 (fun x y => if x.ult y then y else x) d a b t s := rfl
theorem exec_mul : exec (.mul d a b t) s = mulDiv (· * ·) d a b t s := rfl
theorem exec_mulh : exec (.mulh d a b t) s = mulDiv (fun x y => high64 (x.toInt * y.toInt)) d a b t s := rfl
theorem exec_mulhu : exec (.mulhu d a b t) s = mulDiv (fun x y => high64 ((x.toNat : Int) * y.toNat)) d a b t s := rfl
theorem exec_addw : exec (.addw d a b t) s = alu3 (fun x y => sx ((x + y).setWidth 32)) d a b t s := rfl
theorem exec_subw : exec (.subw d a b t) s = alu3 (fun x y => sx ((x - y).setWidth 32)) d a b t s := rfl
theorem exec_pack : exec (.pack d a b t) s = alu3 (fun x y => zx (x.setWidth 32) <<< 32 ||| zx (y.setWidth 32)) d a b t s := rfl
theorem exec_sh1add : exec (.sh1add d a b t) s = alu3 (fun x y => x <<< 1 + y) d a b t s := rfl
theorem exec_sh2add : exec (.sh2add d a b t) s = alu3 (fun x y => x <<< 2 + y) d a b t s := rfl
theorem exec_sh3add : exec (.sh3add d a b t) s = alu3 (fun x y => x <<< 3 + y) d a b t s := rfl

end

/-- A two-source instruction, when it is ready, retires with `g` of its sources in its destination. -/
def Computes (i : BitVec 5 → BitVec 5 → BitVec 5 → BitVec 4 → Instr) (g : Word → Word → Word) : Prop :=
  ∀ (s : State) (d a b : BitVec 5) (t : BitVec 4), ready s t [d, a, b] = true →
    Leads (i d a b t) s fun u => Retires s u t d (g (s.reg s.cur a) (s.reg s.cur b)) (next4 s)

theorem computes_of_alu3 {i : BitVec 5 → BitVec 5 → BitVec 5 → BitVec 4 → Instr} {f g : Word → Word → Word}
    (hi : ∀ d a b t s, exec (i d a b t) s = alu3 f d a b t s) (hf : ∀ x y, f x y = g x y) : Computes i g := by
  intro s d a b t h
  rw [Leads, hi, ← hf]
  exact alu3_leads h

theorem computes_of_mulDiv {i : BitVec 5 → BitVec 5 → BitVec 5 → BitVec 4 → Instr} {f g : Word → Word → Word}
    (hi : ∀ d a b t s, exec (i d a b t) s = mulDiv f d a b t s) (hf : ∀ x y, f x y = g x y) : Computes i g := by
  intro s d a b t h
  rw [Leads, hi, ← hf]
  exact mulDiv_leads h

/-- Each two-source member computes its result of R173: first the operation by which the model executes it, then its value. -/
theorem twoSource_computes : ∀ p ∈ twoSource, Computes p.1 p.2 := by
  simp only [twoSource, List.forall_mem_cons, List.not_mem_nil, false_implies, implies_true, and_true]
  refine ⟨?add, ?sub, ?and, ?or, ?xor, ?andn, ?orn, ?sll, ?srl, ?sra, ?ror, ?slt, ?sltu, ?min, ?max, ?minu, ?maxu, ?mul, ?mulh,
    ?mulhu, ?addw, ?subw, ?pack, ?sh1add, ?sh2add, ?sh3add⟩
  case add => exact computes_of_alu3 exec_add add_eq_z64
  case sub => exact computes_of_alu3 exec_sub sub_eq_z64
  case and => exact computes_of_alu3 exec_and fun _ _ => rfl
  case or => exact computes_of_alu3 exec_or fun _ _ => rfl
  case xor => exact computes_of_alu3 exec_xor fun _ _ => rfl
  case andn => exact computes_of_alu3 exec_andn fun _ _ => rfl
  case orn => exact computes_of_alu3 exec_orn fun _ _ => rfl
  case sll => exact computes_of_alu3 exec_sll fun x y => by rw [bits_zero_six, shiftLeft_eq_mul]
  case srl => exact computes_of_alu3 exec_srl fun x y => by rw [bits_zero_six, ushiftRight_eq_div]
  case sra => exact computes_of_alu3 exec_sra fun x y => by rw [bits_zero_six, sshiftRight_eq_div]
  case ror =>
    exact computes_of_alu3 exec_ror fun x y => by
      rw [bits_zero_six, rotateRight_eq_add x _ (Nat.mod_lt _ (by decide))]
  case slt => exact computes_of_alu3 exec_slt flag_slt
  case sltu => exact computes_of_alu3 exec_sltu flag_ult
  case min => exact computes_of_alu3 exec_min min_slt
  case max => exact computes_of_alu3 exec_max max_slt
  case minu => exact computes_of_alu3 exec_minu min_ult
  case maxu => exact computes_of_alu3 exec_maxu max_ult
  case mul => exact computes_of_mulDiv exec_mul mul_eq_z64
  case mulh => exact computes_of_mulDiv exec_mulh fun _ _ => rfl
  case mulhu => exact computes_of_mulDiv exec_mulhu fun x y => high64_natCast (x.toNat * y.toNat)
  case addw => exact computes_of_alu3 exec_addw fun x y => by rw [sx, setWidth_add_eq_ofNat]
  case subw => exact computes_of_alu3 exec_subw fun x y => by rw [sx, setWidth_sub_eq_ofInt]
  case pack => exact computes_of_alu3 exec_pack pack_eq_add
  case sh1add => exact computes_of_alu3 exec_sh1add (shiftLeft_add_eq 1)
  case sh2add => exact computes_of_alu3 exec_sh2add (shiftLeft_add_eq 2)
  case sh3add => exact computes_of_alu3 exec_sh3add (shiftLeft_add_eq 3)

/-- Settles O1: every member of the list is executed by the shared issue with its result as the value written. -/
theorem registerArithmeticWritesItsResult : Obligations.RegisterArithmeticWritesItsResult := by
  unfold Obligations.RegisterArithmeticWritesItsResult
  exact fun s d a b t h p hp => twoSource_computes p hp s d a b t h

end Sys2Proof.Claims
end

section
/-! SUPPORT. What each turn of the agenda, and a step with none, leads to (R21, R171, R207, R263), and what a sequencer fetches
through an entry of its TLB (R85, R87, R170). -/

namespace Sys2Proof.Machine

/-! ### A sequencer's turn -/

/-- A sequencer's turn with words to decode is `exec` of what they decode to, and then the words kept and the issue noted. -/
theorem State.seqTurn_words (s t : State) (k w x : Nat) (hi : { s with cur := k }.canIssue k = true)
    (he : { s with cur := k }.atEnd k = false) (hw : { s with cur := k }.nextWords k = .words t w x) :
    s.seqTurn k =
      thenDo (exec (decodeStream (decide (roleOf k = 2)) w x) t) fun u => s.afterTurn (u.keepWords k w x) k false := by
  rw [State.seqTurn, State.seqStep_words _ t w x hi he hw]
  cases exec (decodeStream (decide (roleOf k = 2)) w x) t <;> rfl

/-- A sequencer that may not issue lets its turn pass. -/
theorem State.seqTurn_idle (s : State) (k : Nat) (h : { s with cur := k }.canIssue k = false) :
    s.seqTurn k = .next (s.afterTurn { s with cur := k } k false) := by
  simp [State.seqTurn, State.seqStep, h, thenDo]

/-! ### A vector engine's turn -/

theorem State.runStep_micro (s : State) (core : Nat) (h : ∀ c, s.current core = some c → c.sub = none) :
    s.runStep core =
      thenDo (exec (decodeMicro (s.runWord core)) { s with cur := core * 32 + 1 }) fun t => { t with cur := s.cur } := by
  have hnone : (s.current core).bind (fun c => c.sub.map fun x => (c, x)) = none := by
    cases hc : s.current core with
    | none => rfl
    | some c => simp [h c hc]
  rw [State.runStep, hnone]
  simp only [execMicro_eq]

theorem State.runStep_force (s : State) (core : Nat) (c : Cmd) (x : Sub) (hc : s.current core = some c) (hx : c.sub = some x) :
    s.runStep core = .next (s.forceRunStep c x) := by
  simp [State.runStep, hc, hx]

/-! ### A step with no turn of the agenda -/

/-! Time passes in the same way whatever is on the agenda. -/

theorem State.foldl_withAgenda (f : State → Nat → State) (l : List Turn)
    (hf : ∀ t n, f { t with agenda := l } n = { f t n with agenda := l }) (ns : List Nat) (s : State) :
    ns.foldl f { s with agenda := l } = { ns.foldl f s with agenda := l } := by
  induction ns generalizing s with
  | nil => rfl
  | cons n ns ih => rw [List.foldl_cons, hf, ih, List.foldl_cons]

theorem State.corrected_withAgenda (s : State) (l : List Turn) (n : Nat) :
    { s with agenda := l }.corrected n = { s.corrected n with agenda := l } := by
  unfold State.corrected
  split
  · rfl
  · exact State.foldl_withAgenda _ l (fun _ _ => rfl) _ s

theorem State.softTick_withAgenda (s : State) (l : List Turn) :
    { s with agenda := l }.softTick = { s.softTick with agenda := l } := by
  cases hs : s.softs with
  | nil => simp only [State.softTick, hs]
  | cons ns r =>
    simp only [State.softTick, hs]
    exact State.foldl_withAgenda _ l (fun t n => t.corrected_withAgenda l n) ns { s with softs := r }

theorem State.timeTick_withAgenda (s : State) (l : List Turn) :
    { s with agenda := l }.timeTick = { s.timeTick with agenda := l } := by
  cases hs : s.elapse <;> simp only [State.timeTick, hs]

theorem State.endShots_withAgenda (s : State) (l : List Turn) :
    { s with agenda := l }.endShots = { s.endShots with agenda := l } := by
  have hover : { s with agenda := l }.shotOver = s.shotOver := rfl
  cases hs : s.shots.isEmpty <;> simp [State.endShots, hs, hover]

theorem State.tick_withAgenda (s : State) (l : List Turn) : { s with agenda := l }.tick = { s.tick with agenda := l } := by
  rw [State.tick, State.softTick_withAgenda, State.timeTick_withAgenda, State.endShots_withAgenda, State.tick]

/-- A vector engine that is ready takes its turn as if the agenda had given it one. -/
theorem step_runReady (s : State) (core : Nat) (h : s.agenda = []) (hw : s.tick.workStep = none)
    (hr : s.tick.runReady = some core) : step s = step { s with agenda := [.run core] } := by
  have hagenda : s.tick.agenda = [] := by rw [s.tick_agenda, h]
  have hempty : { s.tick with agenda := [] } = s.tick := by rw [← hagenda]
  calc step s = s.tick.runStep core := by rw [step_own s h, State.ownStep, hw, hr]
    _ = { s.tick with agenda := [] }.runStep core := by rw [hempty]
    _ = { { s with agenda := [.run core] }.tick with agenda := [] }.runStep core := by rw [State.tick_withAgenda s [.run core]]
    _ = step { s with agenda := [.run core] } := (step_turn _ (.run core) [] rfl).symm

/-- With no work of the module and no engine that is ready, it is for the sequencers to issue. -/
theorem step_issue (s : State) (h : s.agenda = []) (hw : s.tick.workStep = none) (hr : s.tick.runReady = none) :
    step s = .next s.tick.issueStep := by
  rw [step_own s h, State.ownStep, hw, hr]

theorem State.issueStep_none (s : State) (h : ∀ k ∈ s.candidates, s.tryIssue k = none) : s.issueStep = s := by
  have hnone : (s.candidates.findSome? fun k => (s.tryIssue k).map fun t => (k, t)) = none := by
    simpa [List.findSome?_eq_none_iff] using h
  rw [State.issueStep, hnone]

/-- The first candidate that can do anything takes its turn (R21). -/
theorem State.issueStep_first (s t : State) (k : Nat) (passed rest : List Nat) (hc : s.candidates = passed ++ k :: rest)
    (hp : ∀ j ∈ passed, s.tryIssue j = none) (ht : s.tryIssue k = some t) : ∃ other, s.issueStep = s.afterTurn t k other := by
  have hpassed : (passed.findSome? fun j => (s.tryIssue j).map fun t => (j, t)) = none := by
    simpa [List.findSome?_eq_none_iff] using hp
  have hsome : (s.candidates.findSome? fun j => (s.tryIssue j).map fun t => (j, t)) = some (k, t) := by
    simp [hc, List.findSome?_append, hpassed, ht]
  exact ⟨_, by rw [State.issueStep, hsome]⟩

/-! ### A fetch through an entry of the TLB -/

/-- An access translated by an entry that has been used: the state is as it was, but that the sequencer's place in the list
of sequencers is written again. -/
theorem State.xlateSeq_hit (s : State) (k va : Nat) (w : Waiter) (engine : Nat) (a : Acc) (e : TlbEntry)
    (hwait : s.waitsOn w = none) (htroot : bits (s.slot (slotKey k)).troot 0 1 = 1)
    (htlb : tlbHit (s.seq k).tlb (bits (s.slot (slotKey k)).troot 52 12) va a = some e) (hacc : e.acc = true) :
    s.xlateSeq k va w engine a = (s.setSeq k (s.seq k), .ok (e.base + va % 2 ^ 16) e.cls) := by
  have hnot : ∀ r ∈ s.requests, w ∉ r.waiters := by
    simpa [State.waitsOn, List.find?_eq_none] using hwait
  have hpage (asid : Nat) : s.waitsPage w asid va = none := by
    simp only [State.waitsPage, List.find?_eq_none]
    intro r hr
    simp [hnot r hr]
  have hasks (asid : Nat) : s.asksNothing w asid va = true := by
    simp only [State.asksNothing, hpage, Option.isNone_none, Bool.true_and, Bool.not_eq_true', List.any_eq_false]
    intro r hr
    simp [hnot r hr]
  simp [State.xlateSeq, State.xlate, hpage, hasks, htroot, htlb, State.setAccessed, tlbTouch, hacc, State.modSeq]

/-- The place of a sequencer written again with what it holds. -/
theorem State.setSeq_seq_same (s : State) (k j : Nat) : (s.setSeq k (s.seq k)).seq j = s.seq j := by
  by_cases h : j = k
  · rw [h, State.setSeq_seq_self]
  · exact State.setSeq_seq_ne _ _ _ _ h

/-- Offsets of local DRAM are their own keys (R80). -/
theorem memKey_of_lt {pa : Nat} (h : pa < 2 ^ 40) : memKey pa = pa := by
  rw [memKey, if_pos (.inl (by omega)), Nat.mod_eq_of_lt h]

theorem State.fetchWord_hit (s : State) (k va : Nat) (e : TlbEntry) (hwait : s.waitsOn (.fetch k) = none)
    (htroot : bits (s.slot (slotKey k)).troot 0 1 = 1)
    (htlb : tlbHit (s.seq k).tlb (bits (s.slot (slotKey k)).troot 52 12) va { kind := 2 } = some e) (hacc : e.acc = true)
    (hdram : e.base + va % 2 ^ 16 < 2 ^ 40) (hline : s.verify .main (e.base + va % 2 ^ 16) 4 = none) :
    s.fetchWord k va = (s.setSeq k (s.seq k), .ok (leNat (Mem.read s.mem (e.base + va % 2 ^ 16) 4))) := by
  have hv : (s.setSeq k (s.seq k)).verify .main (e.base + va % 2 ^ 16) 4 = none := hline
  rw [State.fetchWord, s.xlateSeq_hit k va (.fetch k) 2 { kind := 2 } e hwait htroot htlb hacc]
  simp only [readVia, memKey_of_lt hdram, hv]
  rfl

/-- An entry translates every address of its page. -/
theorem tlbHit_page (tlb : List TlbEntry) (asid va vb : Nat) (a : Acc) (h : va / 2 ^ 16 = vb / 2 ^ 16) :
    tlbHit tlb asid va a = tlbHit tlb asid vb a := by
  simp only [tlbHit, h]

theorem virtOk_of_lt {v : Word} (h : v.toNat < 2 ^ 55) : virtOk v = true := by
  rw [virtOk, bits, Nat.div_eq_of_lt h]
  rfl

/-- Bit 0 of a register, as a field of one bit. -/
theorem bits_zero_one_eq_one {n : Nat} {x : BitVec n} (h : x.getLsbD 0 = true) : bits x 0 1 = 1 := by
  simpa [bits, BitVec.getLsbD, Nat.testBit_zero] using h

/-- Both words of the instruction at the PC lie in one page of DRAM that a used entry of the sequencer's TLB translates, in lines
that verify: the fetch gives the word there and, for a long instruction, the one after it (R24, R25, R170). -/
theorem State.nextWords_hit (s : State) (k : Nat) (e : TlbEntry) (hissued : (s.seq k).issued = false)
    (hpage : (s.pc k).toNat % 2 ^ 16 + 8 ≤ 2 ^ 16) (hvirt : (s.pc k).toNat + 8 ≤ 2 ^ 55)
    (hdram : e.base + (s.pc k).toNat % 2 ^ 16 + 8 ≤ 2 ^ 40) (hwait : s.waitsOn (.fetch k) = none)
    (htroot : bits (s.slot (slotKey k)).troot 0 1 = 1)
    (htlb : tlbHit (s.seq k).tlb (bits (s.slot (slotKey k)).troot 52 12) (s.pc k).toNat { kind := 2 } = some e)
    (hacc : e.acc = true) (hline : s.verify .main (e.base + (s.pc k).toNat % 2 ^ 16) 4 = none)
    (hline4 : s.verify .main (e.base + (s.pc k).toNat % 2 ^ 16 + 4) 4 = none) :
    let p := e.base + (s.pc k).toNat % 2 ^ 16
    let w := leNat (Mem.read s.mem p 4)
    ∃ t, s.nextWords k = .words t w (if isLong w then leNat (Mem.read s.mem (p + 4) 4) else 0) ∧
      t = { s with seqs := t.seqs } ∧ ∀ j, t.seq j = s.seq j := by
  intro p w
  have hpc4 : (s.pc k + 4).toNat = (s.pc k).toNat + 4 := by
    rw [BitVec.toNat_add_of_lt (by simp; omega)]
    rfl
  have hoff : ((s.pc k).toNat + 4) % 2 ^ 16 = (s.pc k).toNat % 2 ^ 16 + 4 := by omega
  have hp4 : e.base + ((s.pc k).toNat + 4) % 2 ^ 16 = p + 4 := by omega
  have hfirst : s.fetchWord k (s.pc k).toNat = (s.setSeq k (s.seq k), .ok w) :=
    s.fetchWord_hit k _ e hwait htroot htlb hacc (by omega) hline
  rw [State.nextWords, if_neg (by simp [hissued]), State.fetch]
  simp only [virtOk_of_lt (show (s.pc k).toNat < 2 ^ 55 by omega), hfirst, Bool.not_true, Bool.false_eq_true, if_false]
  by_cases hlong : isLong w = true
  case neg =>
    have hshort : w / 2 ^ 26 % 2 ^ 6 < 0x30 := by simpa [isLong] using hlong
    rw [if_pos hshort, if_neg hlong]
    exact ⟨_, rfl, rfl, s.setSeq_seq_same k⟩
  case pos =>
    have hnot : ¬ w / 2 ^ 26 % 2 ^ 6 < 0x30 := by simpa [isLong] using hlong
    let s1 := s.setSeq k (s.seq k)
    have hseq (j : Nat) : s1.seq j = s.seq j := s.setSeq_seq_same k j
    have hsecond : s1.fetchWord k (s.pc k + 4).toNat =
        (s1.setSeq k (s1.seq k), .ok (leNat (Mem.read s.mem (p + 4) 4))) := by
      rw [hpc4, ← hp4]
      refine s1.fetchWord_hit k _ e hwait htroot ?_ hacc (by omega) (by rw [hp4]; exact hline4)
      rw [hseq, tlbHit_page _ _ _ (s.pc k).toNat _ (by omega)]
      exact htlb
    rw [if_neg hnot, if_pos hlong]
    simp only [virtOk_of_lt (show (s.pc k + 4).toNat < 2 ^ 55 by omega), Bool.not_true, Bool.false_eq_true, if_false]
    rw [hsecond]
    exact ⟨_, rfl, rfl, fun j => (s1.setSeq_seq_same k j).trans (hseq j)⟩

end Sys2Proof.Machine
end

section
/-! SUPPORT. The proof of O56: every clause is the lemma of its turn. -/

namespace Sys2Proof.Claims
open Sys2Proof.Machine

/-- Settles O56: a turn of the agenda by its kind, and with none the choice of `ownStep`. -/
theorem stepRunsTheDecodedInstruction : Obligations.StepRunsTheDecodedInstruction := by
  unfold Obligations.StepRunsTheDecodedInstruction
  intro s r
  refine ⟨fun k hs => ⟨?idle, ?words, ?fetch⟩, fun core u hs => ⟨?micro, ?force⟩, fun k hs => ?slow, fun k n hs => ?retire,
    fun i hs hi => ?event, fun t hs hw => ?work, fun core hs hw hr => ?run, fun hs hw hr => ⟨?none, ?issue⟩⟩
  case idle =>
    intro hcan
    rw [step_turn s _ r hs]
    exact State.seqTurn_idle _ k hcan
  case words =>
    intro hcan hend t w x i hw hi
    subst hi
    have hstep : step s = thenDo _ _ := (step_turn s _ r hs).trans (State.seqTurn_words _ t k w x hcan hend hw)
    refine ⟨fun u hu => ?_, fun f hf => ?_, fun f hf => ?_⟩
    · rw [hstep, hu]; rfl
    · rw [hstep, hf]; rfl
    · rw [hstep, hf]; rfl
  case fetch =>
    intro e a p hissued hpage hvirt hdram hwait htroot htlb hacc hline hline4
    refine State.nextWords_hit _ k e hissued hpage hvirt hdram hwait (bits_zero_one_eq_one htroot) htlb hacc hline
      hline4
  case micro =>
    intro hsub hu
    rw [step_turn s _ r hs]
    refine (State.runStep_micro _ core hsub).trans ?_
    rw [hu]; rfl
  case force =>
    intro c x hc hx
    rw [step_turn s _ r hs]
    exact State.runStep_force _ core c x hc hx
  case slow =>
    intro slow u hu
    rw [step_turn s _ r hs]
    exact congrArg (fun o => thenDo o fun t => { t with delay := false }) hu
  case retire => exact step_turn s _ r hs
  case event => rw [step_turn s _ r hs, State.takeTurn, if_pos hi]
  case work => rw [step_own s hs, State.ownStep, hw]
  case run => exact step_runReady s core hs hw hr
  case none =>
    intro hidle
    rw [step_issue s hs hw hr, State.issueStep_none _ hidle]
  case issue =>
    intro passed k rest t hc hp ht
    obtain ⟨other, h⟩ := State.issueStep_first _ t k passed rest hc hp ht
    exact ⟨other, by rw [step_issue s hs hw hr, h]⟩

end Sys2Proof.Claims
end

section
/-! SUPPORT. The words of the layouts of R26 and R34 to R47: a word made of fixed bits and of fields is any word that has each of
them in its place. -/

namespace Sys2Proof.Claims
open Sys2Proof.Machine

/-! ### Words as fields and fixed bits -/

theorem toNat_fld (w lo len : Nat) : (fld w lo len).toNat = w / 2 ^ lo % 2 ^ len := BitVec.toNat_ofNat _ _

/-- A part of a word's layout: a run of fixed bits, or a field and what it holds. -/
inductive WordPart where
  | gap (lo len : Nat)
  | fld (lo : Nat) {len : Nat} (f : BitVec len)

namespace WordPart

def lo : WordPart → Nat
  | gap lo _ => lo
  | fld lo _ => lo

def len : WordPart → Nat
  | gap _ len => len
  | @fld _ len _ => len

/-- The number that a part holds in a word of fixed bits `m`. -/
def val (m : Nat) : WordPart → Nat
  | gap lo len => m / 2 ^ lo % 2 ^ len
  | fld _ f => f.toNat

/-- What a word has in the place of a part. -/
def Holds (m w : Nat) : WordPart → Prop
  | gap lo len => w / 2 ^ lo % 2 ^ len = m / 2 ^ lo % 2 ^ len
  | @fld lo len f => Sys2Proof.fld w lo len = f

theorem Holds.read {m w lo len : Nat} (h : (gap lo len).Holds m w) : w / 2 ^ lo % 2 ^ len = m / 2 ^ lo % 2 ^ len := h

theorem holds_iff (m w : Nat) (p : WordPart) : p.Holds m w ↔ w / 2 ^ p.lo % 2 ^ p.len = p.val m := by
  cases p with
  | gap => exact Iff.rfl
  | fld lo f => rw [Holds, ← BitVec.toNat_inj, toNat_fld]; exact Iff.rfl

theorem val_lt (m : Nat) (p : WordPart) : p.val m < 2 ^ p.len := by
  cases p with
  | gap => exact Nat.mod_lt _ (by positivity)
  | fld _ f => exact f.isLt

/-- The parts, from the highest down, fill the bits below `top`. -/
def tile : Nat → List WordPart → Bool
  | top, [] => top == 0
  | top, p :: r => p.lo + p.len == top && tile p.lo r

/-- A word has every part in its place. -/
def All (m w : Nat) : List WordPart → Prop
  | [] => True
  | [p] => p.Holds m w
  | p :: q :: r => p.Holds m w ∧ All m w (q :: r)

/-- The fixed bits `m` with every field added. -/
def word (m : Nat) : List WordPart → Nat
  | [] => m
  | gap _ _ :: r => word m r
  | fld lo f :: r => word (m + f.toNat * 2 ^ lo) r

/-- The part of `m` that stands in the gaps. -/
def fixed (m : Nat) : List WordPart → Nat
  | [] => 0
  | gap lo len :: r => m / 2 ^ lo % 2 ^ len * 2 ^ lo + fixed m r
  | fld _ _ :: r => fixed m r

def sum (m : Nat) (ps : List WordPart) : Nat := (ps.map fun p => p.val m * 2 ^ p.lo).sum

theorem all_cons (m w : Nat) (p : WordPart) (r : List WordPart) : All m w (p :: r) ↔ p.Holds m w ∧ All m w r := by
  cases r <;> simp [All]

theorem word_add (m k : Nat) (ps : List WordPart) : word (m + k) ps = word m ps + k := by
  induction ps generalizing m with
  | nil => rfl
  | cons p r ih =>
    cases p with
    | gap => exact ih m
    | fld lo f => rw [word, word, Nat.add_right_comm, ih]

/-- A word is the sum of its parts when the gaps hold all of its fixed bits. -/
theorem word_eq (m : Nat) (ps : List WordPart) : word m ps + fixed m ps = m + sum m ps := by
  induction ps with
  | nil => rfl
  | cons p r ih =>
    cases p with
    | gap lo len => simp only [word, fixed, sum, List.map_cons, List.sum_cons, val, WordPart.lo] at ih ⊢; omega
    | fld lo f => simp only [word, fixed, sum, List.map_cons, List.sum_cons, val, WordPart.lo, word_add] at ih ⊢; omega

theorem tile_cons {top : Nat} {p : WordPart} {r : List WordPart} (h : tile top (p :: r) = true) :
    top = p.lo + p.len ∧ tile p.lo r = true := by
  simp only [tile, Bool.and_eq_true, beq_iff_eq] at h
  exact ⟨h.1.symm, h.2⟩

theorem sum_lt {m top : Nat} {ps : List WordPart} (h : tile top ps = true) : sum m ps < 2 ^ top := by
  induction ps generalizing top with
  | nil => exact Nat.two_pow_pos _
  | cons p r ih =>
    obtain ⟨rfl, hr⟩ := tile_cons h
    have hv := p.val_lt m
    calc sum m (p :: r) = p.val m * 2 ^ p.lo + sum m r := rfl
      _ < p.val m * 2 ^ p.lo + 2 ^ p.lo := Nat.add_lt_add_left (ih hr) _
      _ = (p.val m + 1) * 2 ^ p.lo := by ring
      _ ≤ 2 ^ p.len * 2 ^ p.lo := Nat.mul_le_mul_right _ hv
      _ = 2 ^ (p.lo + p.len) := by rw [Nat.pow_add, Nat.mul_comm]

/-- Parts below a bit are read from the bits below it. -/
theorem all_mod {m w top : Nat} {ps : List WordPart} (h : tile top ps = true) : All m (w % 2 ^ top) ps ↔ All m w ps := by
  induction ps generalizing top w with
  | nil => exact Iff.rfl
  | cons p r ih =>
    obtain ⟨rfl, hr⟩ := tile_cons h
    rw [all_cons, all_cons, holds_iff, holds_iff, Nat.pow_add, Nat.mod_mul_right_div_self, Nat.mod_mod, ← ih hr,
      Nat.mod_mul_right_mod, ih hr]

/-- A number below `2 ^ top` is the sum of parts that fill its bits when it has each of them in its place. -/
theorem sum_eq_iff {m w top : Nat} {ps : List WordPart} (h : tile top ps = true) (hw : w < 2 ^ top) :
    sum m ps = w ↔ All m w ps := by
  induction ps generalizing top w with
  | nil =>
    obtain rfl : top = 0 := by simpa [tile] using h
    simp [sum, All, show w = 0 by simpa using hw]
  | cons p r ih =>
    obtain ⟨rfl, hr⟩ := tile_cons h
    have hlt : sum m r < 2 ^ p.lo := sum_lt hr
    have hdiv : w / 2 ^ p.lo < 2 ^ p.len := Nat.div_lt_of_lt_mul (by rwa [← Nat.pow_add])
    rw [all_cons, holds_iff, Nat.mod_eq_of_lt hdiv, ← all_mod hr, ← ih hr (Nat.mod_lt _ (by positivity))]
    have hsum : sum m (p :: r) = sum m r + 2 ^ p.lo * p.val m := by
      rw [Nat.add_comm, Nat.mul_comm]; rfl
    rw [hsum]
    constructor
    · rintro rfl
      rw [Nat.add_mul_div_left _ _ (by positivity), Nat.div_eq_of_lt hlt, Nat.zero_add, Nat.add_mul_mod_self_left,
        Nat.mod_eq_of_lt hlt]
      exact ⟨rfl, rfl⟩
    · rintro ⟨hp, hr⟩
      rw [← hp, hr, Nat.mod_add_div]

/-- A word made of fixed bits `m` and of fields is `w` when `w` has each part in its place. -/
theorem eq_iff_all {m : Nat} {v w : BitVec 32} {ps : List WordPart} (hv : v = BitVec.ofNat 32 (word m ps)) (h : tile 32 ps = true)
    (hm : fixed m ps = m) : v = w ↔ All m w.toNat ps := by
  have hword : word m ps = sum m ps := by have := word_eq m ps; omega
  rw [hv, ← sum_eq_iff h w.isLt, hword, ← BitVec.toNat_inj, BitVec.toNat_ofNat, Nat.mod_eq_of_lt (sum_lt h)]

end WordPart

/-! ### The layouts -/

section
open WordPart
variable {m : Nat} {w : BitVec 32}

theorem lay0_eq_iff {f0 f1 f2 : BitVec 5} {f3 : BitVec 4} (hm : fixed m [.gap 26 6, .gap 4 7] = m) :
    lay0 m f0 f1 f2 f3 = w ↔ All m w.toNat [.gap 26 6, .fld 21 f0, .fld 16 f1, .fld 11 f2, .gap 4 7, .fld 0 f3] :=
  eq_iff_all rfl rfl hm

theorem lay0_eq_iff_fmin {f0 f1 f2 : BitVec 5} {f3 : BitVec 4} (hm : fixed m [.gap 26 6, .gap 9 2, .gap 4 5] = m) :
    lay0 m f0 f1 f2 f3 = w ↔ All m w.toNat [.gap 26 6, .fld 21 f0, .fld 16 f1, .fld 11 f2, .gap 9 2, .gap 4 5, .fld 0 f3] :=
  eq_iff_all rfl rfl hm

theorem lay1_eq_iff {f0 f1 : BitVec 5} {f2 : BitVec 4} (hm : fixed m [.gap 26 6, .gap 11 5, .gap 4 7] = m) :
    lay1 m f0 f1 f2 = w ↔ All m w.toNat [.gap 26 6, .fld 21 f0, .fld 16 f1, .gap 11 5, .gap 4 7, .fld 0 f2] :=
  eq_iff_all rfl rfl hm

theorem lay2_eq_iff {f0 f1 : BitVec 5} {f2 : BitVec 12} {f3 : BitVec 4} (hm : fixed m [.gap 26 6] = m) :
    lay2 m f0 f1 f2 f3 = w ↔ All m w.toNat [.gap 26 6, .fld 21 f0, .fld 16 f1, .fld 4 f2, .fld 0 f3] :=
  eq_iff_all rfl rfl hm

theorem lay3_eq_iff {f0 f1 : BitVec 5} {f2 : BitVec 6} {f3 : BitVec 4} (hm : fixed m [.gap 26 6, .gap 14 2, .gap 10 4] = m) :
    lay3 m f0 f1 f2 f3 = w ↔ All m w.toNat [.gap 26 6, .fld 21 f0, .fld 16 f1, .gap 14 2, .gap 10 4, .fld 4 f2, .fld 0 f3] :=
  eq_iff_all rfl rfl hm

theorem lay4_eq_iff {f0 : BitVec 5} {f1 : BitVec 21} (hm : fixed m [.gap 26 6] = m) :
    lay4 m f0 f1 = w ↔ All m w.toNat [.gap 26 6, .fld 21 f0, .fld 0 f1] :=
  eq_iff_all rfl rfl hm

theorem lay5_eq_iff {f0 f1 : BitVec 5} {f2 : BitVec 2} {f3 : BitVec 10} {f4 : BitVec 4} (hm : fixed m [.gap 26 6] = m) :
    lay5 m f0 f1 f2 f3 f4 = w ↔ All m w.toNat [.gap 26 6, .fld 21 f0, .fld 16 f1, .fld 14 f2, .fld 4 f3, .fld 0 f4] :=
  eq_iff_all rfl rfl hm

theorem lay6_eq_iff {f0 : BitVec 5} {f1 : BitVec 10} {f2 : BitVec 4} (hm : fixed m [.gap 26 6, .gap 4 7] = m) :
    lay6 m f0 f1 f2 = w ↔ All m w.toNat [.gap 26 6, .fld 21 f0, .fld 11 f1, .gap 4 7, .fld 0 f2] :=
  eq_iff_all rfl rfl hm

theorem lay7_eq_iff {f0 f1 f2 : BitVec 5} {f3 : BitVec 2} {f4 : BitVec 1} {f5 : BitVec 4} (hm : fixed m [.gap 26 6, .gap 4 4] = m) :
    lay7 m f0 f1 f2 f3 f4 f5 = w ↔ All m w.toNat [.gap 26 6, .fld 21 f0, .fld 16 f1, .fld 11 f2, .fld 9 f3, .fld 8 f4, .gap 4 4,
      .fld 0 f5] :=
  eq_iff_all rfl rfl hm

theorem lay8_eq_iff_amofadd {f0 f1 f2 : BitVec 5} {f3 : BitVec 2} {f4 : BitVec 4} (hm : fixed m [.gap 26 6, .gap 8 1, .gap 4 4] = m) :
    lay8 m f0 f1 f2 f3 f4 = w ↔ All m w.toNat [.gap 26 6, .fld 21 f0, .fld 16 f1, .fld 11 f2, .fld 9 f3, .gap 8 1, .gap 4 4, .fld 0
      f4] :=
  eq_iff_all rfl rfl hm

theorem lay8_eq_iff_fadd {f0 f1 f2 : BitVec 5} {f3 : BitVec 2} {f4 : BitVec 4} (hm : fixed m [.gap 26 6, .gap 4 5] = m) :
    lay8 m f0 f1 f2 f3 f4 = w ↔ All m w.toNat [.gap 26 6, .fld 21 f0, .fld 16 f1, .fld 11 f2, .fld 9 f3, .gap 4 5, .fld 0 f4] :=
  eq_iff_all rfl rfl hm

theorem lay9_eq_iff {f0 : BitVec 3} {f1 : BitVec 5} {f2 : BitVec 4} (hm : fixed m [.gap 26 6, .gap 16 10, .gap 4 4] = m) :
    lay9 m f0 f1 f2 = w ↔ All m w.toNat [.gap 26 6, .gap 16 10, .fld 13 f0, .fld 8 f1, .gap 4 4, .fld 0 f2] :=
  eq_iff_all rfl rfl hm

theorem lay10_eq_iff_mark {f0 : BitVec 4} (hm : fixed m [.gap 26 6, .gap 4 22] = m) :
    lay10 m f0 = w ↔ All m w.toNat [.gap 26 6, .gap 4 22, .fld 0 f0] :=
  eq_iff_all rfl rfl hm

theorem lay10_eq_iff_nop {f0 : BitVec 4} (hm : fixed m [.gap 26 6, .gap 16 10, .gap 12 4, .gap 4 8] = m) :
    lay10 m f0 = w ↔ All m w.toNat [.gap 26 6, .gap 16 10, .gap 12 4, .gap 4 8, .fld 0 f0] :=
  eq_iff_all rfl rfl hm

theorem lay10_eq_iff_trig {f0 : BitVec 4} (hm : fixed m [.gap 26 6, .gap 11 15, .gap 4 7] = m) :
    lay10 m f0 = w ↔ All m w.toNat [.gap 26 6, .gap 11 15, .gap 4 7, .fld 0 f0] :=
  eq_iff_all rfl rfl hm

theorem lay10_eq_iff_wfe {f0 : BitVec 4} (hm : fixed m [.gap 26 6, .gap 16 10, .gap 14 2, .gap 4 10] = m) :
    lay10 m f0 = w ↔ All m w.toNat [.gap 26 6, .gap 16 10, .gap 14 2, .gap 4 10, .fld 0 f0] :=
  eq_iff_all rfl rfl hm

theorem lay11_eq_iff {f0 f1 : BitVec 5} {f2 : BitVec 13} (hm : fixed m [.gap 26 6, .gap 13 3] = m) :
    lay11 m f0 f1 f2 = w ↔ All m w.toNat [.gap 26 6, .fld 21 f0, .fld 16 f1, .gap 13 3, .fld 0 f2] :=
  eq_iff_all rfl rfl hm

theorem lay12_eq_iff {f0 : BitVec 4} {f1 : BitVec 13} (hm : fixed m [.gap 26 6, .gap 25 1, .gap 16 5, .gap 13 3] = m) :
    lay12 m f0 f1 = w ↔ All m w.toNat [.gap 26 6, .gap 25 1, .fld 21 f0, .gap 16 5, .gap 13 3, .fld 0 f1] :=
  eq_iff_all rfl rfl hm

theorem lay13_eq_iff {f0 : BitVec 5} {f1 : BitVec 12} {f2 : BitVec 4} (hm : fixed m [.gap 26 6, .gap 21 5] = m) :
    lay13 m f0 f1 f2 = w ↔ All m w.toNat [.gap 26 6, .gap 21 5, .fld 16 f0, .fld 4 f1, .fld 0 f2] :=
  eq_iff_all rfl rfl hm

theorem lay14_eq_iff {f0 : BitVec 6} {f1 f2 : BitVec 4} (hm : fixed m [.gap 26 6, .gap 16 10, .gap 14 2] = m) :
    lay14 m f0 f1 f2 = w ↔ All m w.toNat [.gap 26 6, .gap 16 10, .gap 14 2, .fld 8 f0, .fld 4 f1, .fld 0 f2] :=
  eq_iff_all rfl rfl hm

theorem lay15_eq_iff {f0 : BitVec 5} {f1 f2 : BitVec 4} (hm : fixed m [.gap 26 6, .gap 16 5, .gap 14 2, .gap 8 6] = m) :
    lay15 m f0 f1 f2 = w ↔ All m w.toNat [.gap 26 6, .fld 21 f0, .gap 16 5, .gap 14 2, .gap 8 6, .fld 4 f1, .fld 0 f2] :=
  eq_iff_all rfl rfl hm

theorem lay16_eq_iff {f0 : BitVec 5} {f1 : BitVec 10} {f2 : BitVec 4} (hm : fixed m [.gap 26 6, .gap 16 5, .gap 14 2] = m) :
    lay16 m f0 f1 f2 = w ↔ All m w.toNat [.gap 26 6, .fld 21 f0, .gap 16 5, .gap 14 2, .fld 4 f1, .fld 0 f2] :=
  eq_iff_all rfl rfl hm

theorem lay17_eq_iff {f0 f1 : BitVec 5} {f2 : BitVec 10} {f3 : BitVec 4} (hm : fixed m [.gap 26 6, .gap 14 2] = m) :
    lay17 m f0 f1 f2 f3 = w ↔ All m w.toNat [.gap 26 6, .fld 21 f0, .fld 16 f1, .gap 14 2, .fld 4 f2, .fld 0 f3] :=
  eq_iff_all rfl rfl hm

theorem lay18_eq_iff {f0 : BitVec 8} {f1 : BitVec 4} (hm : fixed m [.gap 26 6, .gap 16 10, .gap 12 4] = m) :
    lay18 m f0 f1 = w ↔ All m w.toNat [.gap 26 6, .gap 16 10, .gap 12 4, .fld 4 f0, .fld 0 f1] :=
  eq_iff_all rfl rfl hm

theorem lay19_eq_iff {f0 : BitVec 5} {f1 : BitVec 4} (hm : fixed m [.gap 26 6, .gap 21 5, .gap 12 4, .gap 4 8] = m) :
    lay19 m f0 f1 = w ↔ All m w.toNat [.gap 26 6, .gap 21 5, .fld 16 f0, .gap 12 4, .gap 4 8, .fld 0 f1] :=
  eq_iff_all rfl rfl hm

theorem lay19_eq_iff_depdec {f0 : BitVec 5} {f1 : BitVec 4} (hm : fixed m [.gap 26 6, .gap 21 5, .gap 11 5, .gap 4 7] = m) :
    lay19 m f0 f1 = w ↔ All m w.toNat [.gap 26 6, .gap 21 5, .fld 16 f0, .gap 11 5, .gap 4 7, .fld 0 f1] :=
  eq_iff_all rfl rfl hm

theorem lay20_eq_iff {f0 f1 : BitVec 5} {f2 : BitVec 2} {f3 : BitVec 4} (hm : fixed m [.gap 26 6, .gap 11 5, .gap 4 5] = m) :
    lay20 m f0 f1 f2 f3 = w ↔ All m w.toNat [.gap 26 6, .fld 21 f0, .fld 16 f1, .gap 11 5, .fld 9 f2, .gap 4 5, .fld 0 f3] :=
  eq_iff_all rfl rfl hm

theorem lay21_eq_iff {f0 f1 : BitVec 5} {f2 : BitVec 1} {f3 : BitVec 4} (hm : fixed m [.gap 26 6, .gap 10 6, .gap 4 5] = m) :
    lay21 m f0 f1 f2 f3 = w ↔ All m w.toNat [.gap 26 6, .fld 21 f0, .fld 16 f1, .gap 10 6, .fld 9 f2, .gap 4 5, .fld 0 f3] :=
  eq_iff_all rfl rfl hm

theorem lay22_eq_iff {f0 : BitVec 5} {f1 : BitVec 16} {f2 : BitVec 4} (hm : fixed m [.gap 26 6, .gap 4 1] = m) :
    lay22 m f0 f1 f2 = w ↔ All m w.toNat [.gap 26 6, .fld 21 f0, .fld 5 f1, .gap 4 1, .fld 0 f2] :=
  eq_iff_all rfl rfl hm

theorem lay23_eq_iff {f0 : BitVec 5} {f1 : BitVec 3} {f2 : BitVec 4} (hm : fixed m [.gap 26 6, .gap 21 5, .gap 15 1, .gap 7 8] = m) :
    lay23 m f0 f1 f2 = w ↔ All m w.toNat [.gap 26 6, .gap 21 5, .fld 16 f0, .gap 15 1, .gap 7 8, .fld 4 f1, .fld 0 f2] :=
  eq_iff_all rfl rfl hm

theorem lay24_eq_iff {f0 : BitVec 5} {f1 : BitVec 11} {f2 : BitVec 4} (hm : fixed m [.gap 26 6, .gap 21 5, .gap 15 1] = m) :
    lay24 m f0 f1 f2 = w ↔ All m w.toNat [.gap 26 6, .gap 21 5, .fld 16 f0, .gap 15 1, .fld 4 f1, .fld 0 f2] :=
  eq_iff_all rfl rfl hm

theorem lay25_eq_iff {f0 f1 : BitVec 5} {f2 : BitVec 4} (hm : fixed m [.gap 26 6, .gap 21 5, .gap 4 7] = m) :
    lay25 m f0 f1 f2 = w ↔ All m w.toNat [.gap 26 6, .gap 21 5, .fld 16 f0, .fld 11 f1, .gap 4 7, .fld 0 f2] :=
  eq_iff_all rfl rfl hm

theorem lay26_eq_iff {f0 : BitVec 5} {f1 : BitVec 3} {f2 : BitVec 4} (hm : fixed m [.gap 26 6, .gap 21 5, .gap 14 2, .gap 4 7] = m) :
    lay26 m f0 f1 f2 = w ↔ All m w.toNat [.gap 26 6, .gap 21 5, .fld 16 f0, .gap 14 2, .fld 11 f1, .gap 4 7, .fld 0 f2] :=
  eq_iff_all rfl rfl hm

theorem lay27_eq_iff {f0 : BitVec 5} {f1 : BitVec 10} {f2 : BitVec 4} (hm : fixed m [.gap 26 6, .gap 21 5, .gap 14 2] = m) :
    lay27 m f0 f1 f2 = w ↔ All m w.toNat [.gap 26 6, .gap 21 5, .fld 16 f0, .gap 14 2, .fld 4 f1, .fld 0 f2] :=
  eq_iff_all rfl rfl hm

theorem lay28_eq_iff {f0 : BitVec 2} {f1 : BitVec 5} {f2 : BitVec 10} {f3 : BitVec 4} (hm : fixed m [.gap 26 6, .gap 23 3, .gap 14 2] = m) :
    lay28 m f0 f1 f2 f3 = w ↔ All m w.toNat [.gap 26 6, .gap 23 3, .fld 21 f0, .fld 16 f1, .gap 14 2, .fld 4 f2, .fld 0 f3] :=
  eq_iff_all rfl rfl hm

theorem lay29_eq_iff {f0 : BitVec 1} {f1 : BitVec 5} {f2 : BitVec 10} {f3 : BitVec 4} (hm : fixed m [.gap 26 6, .gap 22 4, .gap 14 2] = m) :
    lay29 m f0 f1 f2 f3 = w ↔ All m w.toNat [.gap 26 6, .gap 22 4, .fld 21 f0, .fld 16 f1, .gap 14 2, .fld 4 f2, .fld 0 f3] :=
  eq_iff_all rfl rfl hm

theorem lay30_eq_iff {f0 f1 f2 : BitVec 5} {f3 f4 : BitVec 1} (hm : fixed m [.gap 26 6, .gap 21 5, .gap 0 4] = m) :
    lay30 m f0 f1 f2 f3 f4 = w ↔ All m w.toNat [.gap 26 6, .gap 21 5, .fld 16 f0, .fld 11 f1, .fld 6 f2, .fld 5 f3, .fld 4 f4, .gap
      0 4] :=
  eq_iff_all rfl rfl hm

theorem lay31_eq_iff {f0 f1 f2 : BitVec 5} {f3 : BitVec 1} (hm : fixed m [.gap 26 6, .gap 21 5, .gap 4 1, .gap 0 4] = m) :
    lay31 m f0 f1 f2 f3 = w ↔ All m w.toNat [.gap 26 6, .gap 21 5, .fld 16 f0, .fld 11 f1, .fld 6 f2, .fld 5 f3, .gap 4 1, .gap 0 4]
      :=
  eq_iff_all rfl rfl hm

theorem lay32_eq_iff {f0 f1 f2 : BitVec 5} {f3 : BitVec 1} (hm : fixed m [.gap 26 6, .gap 21 5, .gap 5 1, .gap 0 4] = m) :
    lay32 m f0 f1 f2 f3 = w ↔ All m w.toNat [.gap 26 6, .gap 21 5, .fld 16 f0, .fld 11 f1, .fld 6 f2, .gap 5 1, .fld 4 f3, .gap 0 4]
      :=
  eq_iff_all rfl rfl hm

theorem lay33_eq_iff {f0 : BitVec 2} {f1 f2 : BitVec 5} {f3 : BitVec 1} (hm : fixed m [.gap 26 6, .gap 23 3, .gap 16 5, .gap 5 1, .gap 0 4] = m) :
    lay33 m f0 f1 f2 f3 = w ↔ All m w.toNat [.gap 26 6, .gap 23 3, .fld 21 f0, .gap 16 5, .fld 11 f1, .fld 6 f2, .gap 5 1, .fld 4
      f3, .gap 0 4] :=
  eq_iff_all rfl rfl hm

theorem lay34_eq_iff {f0 f1 f2 : BitVec 5} (hm : fixed m [.gap 26 6, .gap 21 5, .gap 0 6] = m) :
    lay34 m f0 f1 f2 = w ↔ All m w.toNat [.gap 26 6, .gap 21 5, .fld 16 f0, .fld 11 f1, .fld 6 f2, .gap 0 6] :=
  eq_iff_all rfl rfl hm

theorem lay35_eq_iff {f0 f1 f2 f3 : BitVec 5} (hm : fixed m [.gap 26 6, .gap 0 6] = m) :
    lay35 m f0 f1 f2 f3 = w ↔ All m w.toNat [.gap 26 6, .fld 21 f0, .fld 16 f1, .fld 11 f2, .fld 6 f3, .gap 0 6] :=
  eq_iff_all rfl rfl hm

theorem lay36_eq_iff (hm : fixed m [.gap 26 6, .gap 0 26] = m) :
    lay36 m = w ↔ All m w.toNat [.gap 26 6, .gap 0 26] :=
  eq_iff_all rfl rfl hm

theorem lay36_eq_iff_vnop (hm : fixed m [.gap 25 7, .gap 0 25] = m) :
    lay36 m = w ↔ All m w.toNat [.gap 25 7, .gap 0 25] :=
  eq_iff_all rfl rfl hm

theorem lay37_eq_iff {f0 : BitVec 3} {f1 f2 f3 : BitVec 5} (hm : fixed m [.gap 26 6, .gap 24 2, .gap 0 6] = m) :
    lay37 m f0 f1 f2 f3 = w ↔ All m w.toNat [.gap 26 6, .gap 24 2, .fld 21 f0, .fld 16 f1, .fld 11 f2, .fld 6 f3, .gap 0 6] :=
  eq_iff_all rfl rfl hm

theorem lay38_eq_iff {f0 : BitVec 2} {f1 f2 f3 : BitVec 5} (hm : fixed m [.gap 26 6, .gap 23 3, .gap 0 6] = m) :
    lay38 m f0 f1 f2 f3 = w ↔ All m w.toNat [.gap 26 6, .gap 23 3, .fld 21 f0, .fld 16 f1, .fld 11 f2, .fld 6 f3, .gap 0 6] :=
  eq_iff_all rfl rfl hm

theorem lay39_eq_iff {f0 f1 f2 : BitVec 5} (hm : fixed m [.gap 26 6, .gap 11 5, .gap 0 6] = m) :
    lay39 m f0 f1 f2 = w ↔ All m w.toNat [.gap 26 6, .fld 21 f0, .fld 16 f1, .gap 11 5, .fld 6 f2, .gap 0 6] :=
  eq_iff_all rfl rfl hm

theorem lay40_eq_iff {f0 : BitVec 5} (hm : fixed m [.gap 26 6, .gap 21 5, .gap 6 10, .gap 0 6] = m) :
    lay40 m f0 = w ↔ All m w.toNat [.gap 26 6, .gap 21 5, .fld 16 f0, .gap 6 10, .gap 0 6] :=
  eq_iff_all rfl rfl hm

theorem lay41_eq_iff {f0 f1 f2 f3 : BitVec 5} {f4 f5 : BitVec 1} (hm : fixed m [.gap 26 6, .gap 4 2, .gap 0 2] = m) :
    lay41 m f0 f1 f2 f3 f4 f5 = w ↔ All m w.toNat [.gap 26 6, .fld 21 f0, .fld 16 f1, .fld 11 f2, .fld 6 f3, .gap 4 2, .fld 3 f4,
      .fld 2 f5, .gap 0 2] :=
  eq_iff_all rfl rfl hm

theorem lay42_eq_iff {f0 f1 f2 : BitVec 5} (hm : fixed m [.gap 26 6, .gap 6 5, .gap 0 6] = m) :
    lay42 m f0 f1 f2 = w ↔ All m w.toNat [.gap 26 6, .fld 21 f0, .fld 16 f1, .fld 11 f2, .gap 6 5, .gap 0 6] :=
  eq_iff_all rfl rfl hm

theorem lay43_eq_iff {f0 f1 : BitVec 5} (hm : fixed m [.gap 26 6, .gap 6 10, .gap 0 6] = m) :
    lay43 m f0 f1 = w ↔ All m w.toNat [.gap 26 6, .fld 21 f0, .fld 16 f1, .gap 6 10, .gap 0 6] :=
  eq_iff_all rfl rfl hm

theorem lay44_eq_iff {f0 f1 : BitVec 7} {f2 : BitVec 4} (hm : fixed m [.gap 25 7, .gap 4 7] = m) :
    lay44 m f0 f1 f2 = w ↔ All m w.toNat [.gap 25 7, .fld 18 f0, .fld 11 f1, .gap 4 7, .fld 0 f2] :=
  eq_iff_all rfl rfl hm

theorem lay45_eq_iff {f0 f1 f2 : BitVec 7} {f3 : BitVec 3} (hm : fixed m [.gap 25 7, .gap 3 1] = m) :
    lay45 m f0 f1 f2 f3 = w ↔ All m w.toNat [.gap 25 7, .fld 18 f0, .fld 11 f1, .fld 4 f2, .gap 3 1, .fld 0 f3] :=
  eq_iff_all rfl rfl hm

theorem lay46_eq_iff {f0 f1 f2 : BitVec 7} {f3 : BitVec 4} (hm : fixed m [.gap 25 7] = m) :
    lay46 m f0 f1 f2 f3 = w ↔ All m w.toNat [.gap 25 7, .fld 18 f0, .fld 11 f1, .fld 4 f2, .fld 0 f3] :=
  eq_iff_all rfl rfl hm

theorem lay47_eq_iff {f0 : BitVec 3} {f1 f2 : BitVec 7} {f3 : BitVec 4} (hm : fixed m [.gap 25 7, .gap 21 4] = m) :
    lay47 m f0 f1 f2 f3 = w ↔ All m w.toNat [.gap 25 7, .gap 21 4, .fld 18 f0, .fld 11 f1, .fld 4 f2, .fld 0 f3] :=
  eq_iff_all rfl rfl hm

theorem lay48_eq_iff {f0 : BitVec 7} {f1 : BitVec 2} {f2 : BitVec 3} (hm : fixed m [.gap 25 7, .gap 13 5, .gap 3 8] = m) :
    lay48 m f0 f1 f2 = w ↔ All m w.toNat [.gap 25 7, .fld 18 f0, .gap 13 5, .fld 11 f1, .gap 3 8, .fld 0 f2] :=
  eq_iff_all rfl rfl hm

theorem lay49_eq_iff {f0 : BitVec 1} {f1 : BitVec 7} {f2 : BitVec 3} (hm : fixed m [.gap 25 7, .gap 19 6, .gap 3 8] = m) :
    lay49 m f0 f1 f2 = w ↔ All m w.toNat [.gap 25 7, .gap 19 6, .fld 18 f0, .fld 11 f1, .gap 3 8, .fld 0 f2] :=
  eq_iff_all rfl rfl hm

theorem lay50_eq_iff {f0 : BitVec 7} {f1 f2 f3 : BitVec 3} {f4 : BitVec 4} (hm : fixed m [.gap 25 7, .gap 17 1, .gap 4 4] = m) :
    lay50 m f0 f1 f2 f3 f4 = w ↔ All m w.toNat [.gap 25 7, .fld 18 f0, .gap 17 1, .fld 14 f1, .fld 11 f2, .fld 8 f3, .gap 4 4, .fld
      0 f4] :=
  eq_iff_all rfl rfl hm

theorem lay51_eq_iff {f0 : BitVec 7} {f1 : BitVec 2} {f2 f3 : BitVec 3} {f4 : BitVec 4} (hm : fixed m [.gap 25 7, .gap 16 2, .gap 4 4] = m) :
    lay51 m f0 f1 f2 f3 f4 = w ↔ All m w.toNat [.gap 25 7, .fld 18 f0, .gap 16 2, .fld 14 f1, .fld 11 f2, .fld 8 f3, .gap 4 4, .fld
      0 f4] :=
  eq_iff_all rfl rfl hm

theorem lay52_eq_iff {f0 : BitVec 3} {f1 : BitVec 16} (hm : fixed m [.gap 25 7, .gap 21 4, .gap 0 2] = m) :
    lay52 m f0 f1 = w ↔ All m w.toNat [.gap 25 7, .gap 21 4, .fld 18 f0, .fld 2 f1, .gap 0 2] :=
  eq_iff_all rfl rfl hm

theorem lay53_eq_iff {f0 : BitVec 7} {f1 : BitVec 4} (hm : fixed m [.gap 25 7, .gap 6 12, .gap 0 2] = m) :
    lay53 m f0 f1 = w ↔ All m w.toNat [.gap 25 7, .fld 18 f0, .gap 6 12, .fld 2 f1, .gap 0 2] :=
  eq_iff_all rfl rfl hm

theorem lay54_eq_iff {f0 : BitVec 7} {f1 : BitVec 16} (hm : fixed m [.gap 25 7, .gap 0 2] = m) :
    lay54 m f0 f1 = w ↔ All m w.toNat [.gap 25 7, .fld 18 f0, .fld 2 f1, .gap 0 2] :=
  eq_iff_all rfl rfl hm

theorem lay55_eq_iff {f0 f1 f2 : BitVec 3} {f3 : BitVec 4} (hm : fixed m [.gap 25 7, .gap 21 4, .gap 14 4, .gap 7 4] = m) :
    lay55 m f0 f1 f2 f3 = w ↔ All m w.toNat [.gap 25 7, .gap 21 4, .fld 18 f0, .gap 14 4, .fld 11 f1, .gap 7 4, .fld 4 f2, .fld 0
      f3] :=
  eq_iff_all rfl rfl hm

theorem lay56_eq_iff {f0 f1 : BitVec 3} {f2 : BitVec 4} (hm : fixed m [.gap 25 7, .gap 21 4, .gap 14 4, .gap 4 7] = m) :
    lay56 m f0 f1 f2 = w ↔ All m w.toNat [.gap 25 7, .gap 21 4, .fld 18 f0, .gap 14 4, .fld 11 f1, .gap 4 7, .fld 0 f2] :=
  eq_iff_all rfl rfl hm

theorem lay57_eq_iff {f0 : BitVec 3} {f1 : BitVec 7} {f2 : BitVec 4} (hm : fixed m [.gap 25 7, .gap 21 4, .gap 4 7] = m) :
    lay57 m f0 f1 f2 = w ↔ All m w.toNat [.gap 25 7, .gap 21 4, .fld 18 f0, .fld 11 f1, .gap 4 7, .fld 0 f2] :=
  eq_iff_all rfl rfl hm

end

end Sys2Proof.Claims
end

section
/-! SUPPORT. The decoders and the encoder, row by row, in both directions (R24 to R48), and the proof of O60. -/

namespace Sys2Proof.Claims
open Sys2Proof.Machine

/-! ### Decoding gives back what was encoded -/

/-- The extension word has a field in every bit (R30). -/
theorem encodeExt_eq_iff {x : Ext} {w : BitVec 32} : encodeExt x = w ↔ decodeExt w.toNat = x := by
  have h := WordPart.eq_iff_all (m := 0) (w := w) (ps := [.fld 27 x.d1, .fld 22 x.d2, .fld 17 x.d3, .fld 12 x.np, .fld 8 x.ev,
    .fld 7 x.post, .fld 4 x.q, .fld 0 x.t]) rfl rfl rfl
  simp only [WordPart.word, WordPart.All, WordPart.Holds, Nat.zero_add, Nat.pow_zero, Nat.mul_one] at h
  rw [encodeExt, h, decodeExt]
  obtain ⟨⟩ := x
  simp only [Ext.mk.injEq]

/-- The stream decoder reads the words of an instruction as that instruction, whatever word follows a short one. -/
def Reads (i : Instr) : Prop :=
  (∃ w, encode i = [w] ∧ ∀ x, decodeRaw (isVst i) w.toNat x = i) ∨
  ∃ w x : BitVec 32, encode i = [w, x] ∧ decodeRaw (isVst i) w.toNat x.toNat = i

theorem Reads.short {i : Instr} {v : BitVec 32} (he : encode i = [v])
    (h : ∀ w x, v = w → decodeRaw (isVst i) w.toNat x = i) : Reads i :=
  .inl ⟨v, he, fun x => h v x rfl⟩

theorem Reads.long {i : Instr} {v : BitVec 32} {x : Ext} (he : encode i = [v, encodeExt x])
    (h : ∀ w y, v = w → decodeExt y = x → decodeRaw (isVst i) w.toNat y = i) : Reads i :=
  .inr ⟨v, _, he, h v _ rfl (encodeExt_eq_iff.1 rfl)⟩

/-- FLI has its immediate in place of the upper bits of fn5, whose lowest bit is 1 (R41). -/
theorem decodeMajor1B_of_odd {w : Nat} (h : w / 2 ^ 4 % 2 ^ 1 = 1) :
    decodeMajor1B w = .fli (fld w 21 5) (fld w 5 16) (fld w 0 4) := by
  obtain ⟨k, hk, hodd⟩ : ∃ k < 16, w / 2 ^ 4 % 2 ^ 5 = 2 * k + 1 := ⟨w / 2 ^ 5 % 2 ^ 4, by omega, by omega⟩
  rw [decodeMajor1B, hodd]
  interval_cases k <;> rfl

/-- An instruction of a stream, none of the two reserved rows. -/
def streamWord (i : Instr) : Bool := !microOrder i && !isReserved i && !(encode i).isEmpty

theorem reads_encode (i : Instr) (h : streamWord i = true) : Reads i := by
  cases i
  case add | sub | and | or | xor | andn | orn | sll | srl | sra | ror | slt | sltu | min | max | minu | maxu | mul | mulh | mulhu
    | div | divu | rem | remu | addw | subw | pack | sh1add | sh2add | sh3add =>
    refine .short rfl fun w x hw => ?_
    obtain ⟨h26, rfl, rfl, rfl, h4, rfl⟩ := (lay0_eq_iff rfl).1 hw
    rw [decodeRaw, h26.read]
    show decodeMajor00 _ = _
    rw [decodeMajor00, h4.read]
    rfl
  case clz | ctz | popc | sextw | zextw =>
    refine .short rfl fun w x hw => ?_
    obtain ⟨h26, rfl, rfl, h11, h4, rfl⟩ := (lay1_eq_iff rfl).1 hw
    rw [decodeRaw, h26.read]
    show decodeMajor00 _ = _
    rw [decodeMajor00, h4.read]
    exact if_pos h11
  case addi | andi | ori | xori | slti | sltiu | jalr =>
    refine .short rfl fun w x hw => ?_
    obtain ⟨h26, rfl, rfl, rfl, rfl⟩ := (lay2_eq_iff rfl).1 hw
    rw [decodeRaw, h26.read]
    rfl
  case slli | srli | srai | rori =>
    refine .short rfl fun w x hw => ?_
    obtain ⟨h26, rfl, rfl, h14, h10, rfl, rfl⟩ := (lay3_eq_iff rfl).1 hw
    rw [decodeRaw, h26.read]
    show decodeMajor05 _ = _
    rw [decodeMajor05, h14.read]
    exact if_pos h10
  case lui | adpc | jal =>
    refine .short rfl fun w x hw => ?_
    obtain ⟨h26, rfl, rfl⟩ := (lay4_eq_iff rfl).1 hw
    rw [decodeRaw, h26.read]
    rfl
  case ld | ldu | st | sts =>
    refine .short rfl fun w x hw => ?_
    obtain ⟨h26, rfl, rfl, rfl, rfl, rfl⟩ := (lay5_eq_iff rfl).1 hw
    rw [decodeRaw, h26.read]
    rfl
  case ldsp | stsp =>
    refine .short rfl fun w x hw => ?_
    obtain ⟨h26, rfl, rfl, h4, rfl⟩ := (lay6_eq_iff rfl).1 hw
    rw [decodeRaw, h26.read]
    exact if_pos h4
  case amoadd | amoand | amoor | amoxor | amomin | amomax | amominu | amomaxu | amoswap | amocas =>
    refine .short rfl fun w x hw => ?_
    obtain ⟨h26, rfl, rfl, rfl, rfl, rfl, h4, rfl⟩ := (lay7_eq_iff rfl).1 hw
    rw [decodeRaw, h26.read]
    show decodeMajor10 _ = _
    rw [decodeMajor10, h4.read]
    rfl
  case amofadd =>
    refine .short rfl fun w x hw => ?_
    obtain ⟨h26, rfl, rfl, rfl, rfl, h8, h4, rfl⟩ := (lay8_eq_iff_amofadd rfl).1 hw
    rw [decodeRaw, h26.read]
    show decodeMajor10 _ = _
    rw [decodeMajor10, h4.read]
    exact if_pos h8
  case fence =>
    refine .short rfl fun w x hw => ?_
    obtain ⟨h26, h16, rfl, rfl, h4, rfl⟩ := (lay9_eq_iff rfl).1 hw
    rw [decodeRaw, h26.read]
    exact if_pos (And.intro h4 h16)
  case mark =>
    refine .short rfl fun w x hw => ?_
    obtain ⟨h26, h4, rfl⟩ := (lay10_eq_iff_mark rfl).1 hw
    rw [decodeRaw, h26.read]
    exact if_pos h4
  case beq | bne | blt | bge | bltu | bgeu =>
    refine .short rfl fun w x hw => ?_
    obtain ⟨h26, rfl, rfl, h13, rfl⟩ := (lay11_eq_iff rfl).1 hw
    rw [decodeRaw, h26.read]
    show decodeMajor13 _ = _
    rw [decodeMajor13, h13.read]
    rfl
  case bcqs | bcqc | bcqsK | bcqcK =>
    refine .short rfl fun w x hw => ?_
    obtain ⟨h26, h25, rfl, h16, h13, rfl⟩ := (lay12_eq_iff rfl).1 hw
    rw [decodeRaw, h26.read]
    show decodeMajor14 _ = _
    rw [decodeMajor14, h13.read]
    exact if_pos ⟨h16, h25⟩
  case cqp =>
    refine .short rfl fun w x hw => ?_
    obtain ⟨h26, h21, rfl, rfl, rfl⟩ := (lay13_eq_iff rfl).1 hw
    rw [decodeRaw, h26.read]
    exact if_pos h21
  case evpost | evwait =>
    refine .short rfl fun w x hw => ?_
    obtain ⟨h26, h16, h14, rfl, rfl, rfl⟩ := (lay14_eq_iff rfl).1 hw
    rw [decodeRaw, h26.read]
    show decodeMajor18 _ = _
    rw [decodeMajor18, h14.read]
    exact if_pos h16
  case evclr =>
    refine .short rfl fun w x hw => ?_
    obtain ⟨h26, rfl, h16, h14, h8, rfl, rfl⟩ := (lay15_eq_iff rfl).1 hw
    rw [decodeRaw, h26.read]
    show decodeMajor18 _ = _
    rw [decodeMajor18, h14.read]
    exact if_pos ⟨h8, h16⟩
  case wfe =>
    refine .short rfl fun w x hw => ?_
    obtain ⟨h26, h16, h14, h4, rfl⟩ := (lay10_eq_iff_wfe rfl).1 hw
    rw [decodeRaw, h26.read]
    show decodeMajor18 _ = _
    rw [decodeMajor18, h14.read]
    exact if_pos ⟨h4, h16⟩
  case csrr =>
    refine .short rfl fun w x hw => ?_
    obtain ⟨h26, rfl, h16, h14, rfl, rfl⟩ := (lay16_eq_iff rfl).1 hw
    rw [decodeRaw, h26.read]
    show decodeMajor19 _ = _
    rw [decodeMajor19, h14.read]
    exact if_pos h16
  case csrw | csrs | csrc =>
    refine .short rfl fun w x hw => ?_
    obtain ⟨h26, rfl, rfl, h14, rfl, rfl⟩ := (lay17_eq_iff rfl).1 hw
    rw [decodeRaw, h26.read]
    show decodeMajor19 _ = _
    rw [decodeMajor19, h14.read]
    rfl
  case nop | hbeat | yield =>
    refine .short rfl fun w x hw => ?_
    obtain ⟨h26, h16, h12, h4, rfl⟩ := (lay10_eq_iff_nop rfl).1 hw
    rw [decodeRaw, h26.read]
    show decodeMajor1A _ = _
    rw [decodeMajor1A, h12.read]
    exact if_pos ⟨h4, h16⟩
  case trap =>
    refine .short rfl fun w x hw => ?_
    obtain ⟨h26, h16, h12, rfl, rfl⟩ := (lay18_eq_iff rfl).1 hw
    rw [decodeRaw, h26.read]
    show decodeMajor1A _ = _
    rw [decodeMajor1A, h12.read]
    exact if_pos h16
  case exit | cwait =>
    refine .short rfl fun w x hw => ?_
    obtain ⟨h26, h21, rfl, h12, h4, rfl⟩ := (lay19_eq_iff rfl).1 hw
    rw [decodeRaw, h26.read]
    show decodeMajor1A _ = _
    rw [decodeMajor1A, h12.read]
    exact if_pos ⟨h4, h21⟩
  case fadd | fsub | fmul | fdiv | fmac =>
    refine .short rfl fun w x hw => ?_
    obtain ⟨h26, rfl, rfl, rfl, rfl, h4, rfl⟩ := (lay8_eq_iff_fadd rfl).1 hw
    rw [decodeRaw, h26.read]
    show decodeMajor1B _ = _
    rw [decodeMajor1B, h4.read]
    rfl
  case fsqrt | fitof =>
    refine .short rfl fun w x hw => ?_
    obtain ⟨h26, rfl, rfl, h11, rfl, h4, rfl⟩ := (lay20_eq_iff rfl).1 hw
    rw [decodeRaw, h26.read]
    show decodeMajor1B _ = _
    rw [decodeMajor1B, h4.read]
    exact if_pos h11
  case fmin | fmax | feq | flt | fle =>
    refine .short rfl fun w x hw => ?_
    obtain ⟨h26, rfl, rfl, rfl, h9, h4, rfl⟩ := (lay0_eq_iff_fmin rfl).1 hw
    rw [decodeRaw, h26.read]
    show decodeMajor1B _ = _
    rw [decodeMajor1B, h4.read]
    exact if_pos h9
  case fftoi =>
    refine .short rfl fun w x hw => ?_
    obtain ⟨h26, rfl, rfl, h10, rfl, h4, rfl⟩ := (lay21_eq_iff rfl).1 hw
    rw [decodeRaw, h26.read]
    show decodeMajor1B _ = _
    rw [decodeMajor1B, h4.read]
    exact if_pos h10
  case fli =>
    refine .short rfl fun w x hw => ?_
    obtain ⟨h26, rfl, rfl, h4, rfl⟩ := (lay22_eq_iff rfl).1 hw
    rw [decodeRaw, h26.read]
    exact decodeMajor1B_of_odd h4
  case tcfg =>
    refine .short rfl fun w x hw => ?_
    obtain ⟨h26, h21, rfl, h15, h7, rfl, rfl⟩ := (lay23_eq_iff rfl).1 hw
    rw [decodeRaw, h26.read]
    show decodeMajor1C _ = _
    rw [decodeMajor1C, h15.read]
    exact if_pos ⟨h7, h21⟩
  case mcfg =>
    refine .short rfl fun w x hw => ?_
    obtain ⟨h26, h21, rfl, h15, rfl, rfl⟩ := (lay24_eq_iff rfl).1 hw
    rw [decodeRaw, h26.read]
    show decodeMajor1C _ = _
    rw [decodeMajor1C, h15.read]
    exact if_pos h21
  case barr =>
    refine .short rfl fun w x hw => ?_
    obtain ⟨h26, rfl, rfl, h11, h4, rfl⟩ := (lay1_eq_iff rfl).1 hw
    rw [decodeRaw, h26.read]
    show decodeMajor1D _ = _
    rw [decodeMajor1D, h4.read]
    exact if_pos h11
  case bwait =>
    refine .short rfl fun w x hw => ?_
    obtain ⟨h26, rfl, rfl, rfl, h4, rfl⟩ := (lay0_eq_iff rfl).1 hw
    rw [decodeRaw, h26.read]
    show decodeMajor1D _ = _
    rw [decodeMajor1D, h4.read]
    rfl
  case frd =>
    refine .short rfl fun w x hw => ?_
    obtain ⟨h26, rfl, rfl, h11, h4, rfl⟩ := (lay1_eq_iff rfl).1 hw
    rw [decodeRaw, h26.read]
    show decodeMajor1E _ = _
    rw [decodeMajor1E, h4.read]
    exact if_pos h11
  case fwr =>
    refine .short rfl fun w x hw => ?_
    obtain ⟨h26, h21, rfl, rfl, h4, rfl⟩ := (lay25_eq_iff rfl).1 hw
    rw [decodeRaw, h26.read]
    show decodeMajor1E _ = _
    rw [decodeMajor1E, h4.read]
    exact if_pos h21
  case depdec =>
    refine .short rfl fun w x hw => ?_
    obtain ⟨h26, h21, rfl, h11, h4, rfl⟩ := (lay19_eq_iff_depdec rfl).1 hw
    rw [decodeRaw, h26.read]
    show decodeMajor1F _ = _
    rw [decodeMajor1F, h4.read]
    exact if_pos ⟨h11, h21⟩
  case trig =>
    refine .short rfl fun w x hw => ?_
    obtain ⟨h26, h11, h4, rfl⟩ := (lay10_eq_iff_trig rfl).1 hw
    rw [decodeRaw, h26.read]
    show decodeMajor1F _ = _
    rw [decodeMajor1F, h4.read]
    exact if_pos h11
  case shapew =>
    refine .short rfl fun w x hw => ?_
    obtain ⟨h26, h21, rfl, h14, rfl, h4, rfl⟩ := (lay26_eq_iff rfl).1 hw
    rw [decodeRaw, h26.read]
    show decodeMajor1F _ = _
    rw [decodeMajor1F, h4.read]
    exact if_pos ⟨h14, h21⟩
  case gshape | gbr | ghlth =>
    refine .short rfl fun w x hw => ?_
    obtain ⟨h26, h21, rfl, h14, rfl, rfl⟩ := (lay27_eq_iff rfl).1 hw
    rw [decodeRaw, h26.read]
    show decodeMajor20 _ = _
    rw [decodeMajor20, h14.read]
    exact if_pos h21
  case vld =>
    refine .short rfl fun w x hw => ?_
    obtain ⟨h26, h23, rfl, rfl, h14, rfl, rfl⟩ := (lay28_eq_iff rfl).1 hw
    rw [decodeRaw, h26.read]
    exact if_pos (And.intro h14 h23)
  case vst =>
    refine .short rfl fun w x hw => ?_
    obtain ⟨h26, h22, rfl, rfl, h14, rfl, rfl⟩ := (lay29_eq_iff rfl).1 hw
    rw [decodeRaw, h26.read]
    exact if_pos (And.intro h14 h22)
  case cpy | cpy2 | cpy3 | cpg | cps =>
    refine .long rfl fun w y hw hy => ?_
    obtain ⟨h26, h21, rfl, rfl, rfl, rfl, rfl, h0⟩ := (lay30_eq_iff rfl).1 hw
    subst hy
    rw [decodeRaw, h26.read]
    show decodeMajor30 _ _ = _
    rw [decodeMajor30, h0.read]
    exact if_pos h21
  case cpf =>
    refine .long rfl fun w y hw hy => ?_
    obtain ⟨h26, h21, rfl, rfl, rfl, rfl, h4, h0⟩ := (lay31_eq_iff rfl).1 hw
    subst hy
    rw [decodeRaw, h26.read]
    show decodeMajor30 _ _ = _
    rw [decodeMajor30, h0.read]
    exact if_pos ⟨h4, h21⟩
  case cpm =>
    refine .long rfl fun w y hw hy => ?_
    obtain ⟨h26, h21, rfl, rfl, rfl, h5, rfl, h0⟩ := (lay32_eq_iff rfl).1 hw
    subst hy
    rw [decodeRaw, h26.read]
    show decodeMajor30 _ _ = _
    rw [decodeMajor30, h0.read]
    exact if_pos ⟨h5, h21⟩
  case cpq =>
    refine .long rfl fun w y hw hy => ?_
    obtain ⟨h26, h23, rfl, h16, rfl, rfl, h5, rfl, h0⟩ := (lay33_eq_iff rfl).1 hw
    subst hy
    rw [decodeRaw, h26.read]
    show decodeMajor30 _ _ = _
    rw [decodeMajor30, h0.read]
    exact if_pos ⟨h5, h16, h23⟩
  case cprFaddF32 | cprAddI32 | cprAddI64 | cprMaxF32 | cprMinF32 | cprMaxI32 | cprMinI32 =>
    refine .long rfl fun w y hw hy => ?_
    obtain ⟨h26, h21, rfl, rfl, rfl, rfl, h4, h0⟩ := (lay31_eq_iff rfl).1 hw
    subst hy
    rw [decodeRaw, h26.read]
    show decodeMajor31 _ _ = _
    rw [decodeMajor31, h0.read]
    exact if_pos ⟨h4, h21⟩
  case vrun =>
    refine .long rfl fun w y hw hy => ?_
    obtain ⟨h26, h21, rfl, rfl, rfl, h0⟩ := (lay34_eq_iff rfl).1 hw
    subst hy
    rw [decodeRaw, h26.read]
    exact if_pos (And.intro h0 h21)
  case tbload | spawn =>
    refine .long rfl fun w y hw hy => ?_
    obtain ⟨h26, rfl, rfl, rfl, rfl, h0⟩ := (lay35_eq_iff rfl).1 hw
    subst hy
    rw [decodeRaw, h26.read]
    exact if_pos h0
  case mgo =>
    refine .long rfl fun w y hw hy => ?_
    obtain ⟨h26, h0⟩ := (lay36_eq_iff rfl).1 hw
    subst hy
    rw [decodeRaw, h26.read]
    exact if_pos h0
  case tld | tst =>
    refine .long rfl fun w y hw hy => ?_
    obtain ⟨h26, h24, rfl, rfl, rfl, rfl, h0⟩ := (lay37_eq_iff rfl).1 hw
    subst hy
    rw [decodeRaw, h26.read]
    show decodeMajor35 _ _ = _
    rw [decodeMajor35, h0.read]
    exact if_pos h24
  case afill | adrn =>
    refine .long rfl fun w y hw hy => ?_
    obtain ⟨h26, h23, rfl, rfl, rfl, rfl, h0⟩ := (lay38_eq_iff rfl).1 hw
    subst hy
    rw [decodeRaw, h26.read]
    show decodeMajor35 _ _ = _
    rw [decodeMajor35, h0.read]
    exact if_pos h23
  case tbind | tscl | tact =>
    refine .long rfl fun w y hw hy => ?_
    obtain ⟨h26, rfl, rfl, rfl, rfl, h0⟩ := (lay35_eq_iff rfl).1 hw
    subst hy
    rw [decodeRaw, h26.read]
    show decodeMajor36 _ _ = _
    rw [decodeMajor36, h0.read]
    rfl
  case tmul | tmac | tadd | tsub | thad | ttrn | tcvt =>
    refine .long rfl fun w y hw hy => ?_
    obtain ⟨h26, rfl, rfl, h11, rfl, h0⟩ := (lay39_eq_iff rfl).1 hw
    subst hy
    rw [decodeRaw, h26.read]
    show decodeMajor36 _ _ = _
    rw [decodeMajor36, h0.read]
    exact if_pos h11
  case tstore =>
    refine .long rfl fun w y hw hy => ?_
    obtain ⟨h26, h21, rfl, rfl, rfl, h0⟩ := (lay34_eq_iff rfl).1 hw
    subst hy
    rw [decodeRaw, h26.read]
    show decodeMajor37 _ _ = _
    rw [decodeMajor37, h0.read]
    exact if_pos h21
  case tforce | tdrop =>
    refine .long rfl fun w y hw hy => ?_
    obtain ⟨h26, h21, rfl, h6, h0⟩ := (lay40_eq_iff rfl).1 hw
    subst hy
    rw [decodeRaw, h26.read]
    show decodeMajor37 _ _ = _
    rw [decodeMajor37, h0.read]
    exact if_pos ⟨h6, h21⟩
  case miterPoly | miterNs | miterInv =>
    refine .long rfl fun w y hw hy => ?_
    obtain ⟨h26, rfl, rfl, rfl, rfl, h4, rfl, rfl, h0⟩ := (lay41_eq_iff rfl).1 hw
    subst hy
    rw [decodeRaw, h26.read]
    show decodeMajor38 _ _ = _
    rw [decodeMajor38, h0.read]
    exact if_pos h4
  case caput | canode | caref =>
    refine .long rfl fun w y hw hy => ?_
    obtain ⟨h26, rfl, rfl, rfl, h6, h0⟩ := (lay42_eq_iff rfl).1 hw
    subst hy
    rw [decodeRaw, h26.read]
    show decodeMajor39 _ _ = _
    rw [decodeMajor39, h0.read]
    exact if_pos h6
  case cahash | caget | cawalk | caout =>
    refine .long rfl fun w y hw hy => ?_
    obtain ⟨h26, h21, rfl, rfl, rfl, h0⟩ := (lay34_eq_iff rfl).1 hw
    subst hy
    rw [decodeRaw, h26.read]
    show decodeMajor39 _ _ = _
    rw [decodeMajor39, h0.read]
    exact if_pos h21
  case caswap =>
    refine .long rfl fun w y hw hy => ?_
    obtain ⟨h26, rfl, rfl, rfl, rfl, h0⟩ := (lay35_eq_iff rfl).1 hw
    subst hy
    rw [decodeRaw, h26.read]
    show decodeMajor39 _ _ = _
    rw [decodeMajor39, h0.read]
    rfl
  case capin =>
    refine .long rfl fun w y hw hy => ?_
    obtain ⟨h26, rfl, rfl, h6, h0⟩ := (lay43_eq_iff rfl).1 hw
    subst hy
    rw [decodeRaw, h26.read]
    show decodeMajor39 _ _ = _
    rw [decodeMajor39, h0.read]
    exact if_pos h6
  all_goals exact absurd h Bool.false_ne_true

theorem decodeMicro_of {i : Instr} {v : BitVec 32} (h : ∀ w, v = w → decodeMicro w.toNat = i) : decodeMicro v.toNat = i := h v rfl

theorem decodeMicro_encode (i : Instr) (h : microOrder i = true) : ∃ w, encode i = [w] ∧ decodeMicro w.toNat = i := by
  cases i
  case vnop =>
    refine ⟨_, rfl, decodeMicro_of fun w hw => ?_⟩
    obtain ⟨h25, h0⟩ := (lay36_eq_iff_vnop rfl).1 hw
    rw [decodeMicro, h25.read]
    exact if_pos h0
  case vmov | vabsF32 | vabsBf16 | vabsF16 | vnegF32 | vnegBf16 | vnegF16 | vsqrt | vrcp | vrsq | vexp2 | vlog2 | vtanh |
    vcvtBf16F32 | vcvtF16F32 | vcvtF32Bf16 | vcvtF32F16 | vcvtFp8aF32 | vcvtFp8bF32 | vcvtF32Fp8a | vcvtF32Fp8b | vcvtI32F32 |
    vcvtF32I32 | vcvtFp4xF32 | vcvtF32Fp4x | vrsumF32 | vrmax | vrmin | vrsumI32 | vunpkl | vunpkh =>
    refine ⟨_, rfl, decodeMicro_of fun w hw => ?_⟩
    obtain ⟨h25, rfl, rfl, h4, rfl⟩ := (lay44_eq_iff rfl).1 hw
    rw [decodeMicro, h25.read]
    exact if_pos h4
  case vsel =>
    refine ⟨_, rfl, decodeMicro_of fun w hw => ?_⟩
    obtain ⟨h25, rfl, rfl, rfl, h3, rfl⟩ := (lay45_eq_iff rfl).1 hw
    rw [decodeMicro, h25.read]
    exact if_pos h3
  case vaddF32 | vaddBf16 | vaddF16 | vsubF32 | vsubBf16 | vsubF16 | vmulF32 | vmulBf16 | vmulF16 | vfmaF32 | vfmaBf16 | vfmaF16 |
    vfmsF32 | vfmsBf16 | vfmsF16 | vminF32 | vminBf16 | vminF16 | vmaxF32 | vmaxBf16 | vmaxF16 | viaddI32 | viaddI16 | viaddI8 |
    visubI32 | visubI16 | visubI8 | vimulI32 | vimulI16 | vimulI8 | viminI32 | viminI16 | viminI8 | vimaxI32 | vimaxI16 |
    vimaxI8 | viaddsI32 | viaddsI16 | viaddsI8 | vand | vor | vxor | vsll | vsrl | vsra | vperm | vrot | vbcast | vpack =>
    refine ⟨_, rfl, decodeMicro_of fun w hw => ?_⟩
    obtain ⟨h25, rfl, rfl, rfl, rfl⟩ := (lay46_eq_iff rfl).1 hw
    rw [decodeMicro, h25.read]
    rfl
  case vcmpeqF32 | vcmpeqI32 | vcmpltF32 | vcmpltI32 | vcmpleF32 | vcmpleI32 =>
    refine ⟨_, rfl, decodeMicro_of fun w hw => ?_⟩
    obtain ⟨h25, h21, rfl, rfl, rfl, rfl⟩ := (lay47_eq_iff rfl).1 hw
    rw [decodeMicro, h25.read]
    exact if_pos h21
  case vpop =>
    refine ⟨_, rfl, decodeMicro_of fun w hw => ?_⟩
    obtain ⟨h25, rfl, h13, rfl, h3, rfl⟩ := (lay48_eq_iff rfl).1 hw
    rw [decodeMicro, h25.read]
    exact if_pos ⟨h3, h13⟩
  case vpush =>
    refine ⟨_, rfl, decodeMicro_of fun w hw => ?_⟩
    obtain ⟨h25, h19, rfl, rfl, h3, rfl⟩ := (lay49_eq_iff rfl).1 hw
    rw [decodeMicro, h25.read]
    exact if_pos ⟨h3, h19⟩
  case vtr | vtw =>
    refine ⟨_, rfl, decodeMicro_of fun w hw => ?_⟩
    obtain ⟨h25, rfl, h17, rfl, rfl, rfl, h4, rfl⟩ := (lay50_eq_iff rfl).1 hw
    rw [decodeMicro, h25.read]
    exact if_pos ⟨h4, h17⟩
  case var | vaw =>
    refine ⟨_, rfl, decodeMicro_of fun w hw => ?_⟩
    obtain ⟨h25, rfl, h16, rfl, rfl, rfl, h4, rfl⟩ := (lay51_eq_iff rfl).1 hw
    rw [decodeMicro, h25.read]
    exact if_pos ⟨h4, h16⟩
  case vixs | vixa =>
    refine ⟨_, rfl, decodeMicro_of fun w hw => ?_⟩
    obtain ⟨h25, h21, rfl, rfl, h0⟩ := (lay52_eq_iff rfl).1 hw
    rw [decodeMicro, h25.read]
    exact if_pos ⟨h0, h21⟩
  case vspl | vfil =>
    refine ⟨_, rfl, decodeMicro_of fun w hw => ?_⟩
    obtain ⟨h25, rfl, h6, rfl, h0⟩ := (lay53_eq_iff rfl).1 hw
    rw [decodeMicro, h25.read]
    exact if_pos ⟨h0, h6⟩
  case vmoviF32 | vmoviBf16 | vmoviF16 | vmoviI32 | vmoviI16 | vmoviI8 =>
    refine ⟨_, rfl, decodeMicro_of fun w hw => ?_⟩
    obtain ⟨h25, rfl, rfl, h0⟩ := (lay54_eq_iff rfl).1 hw
    rw [decodeMicro, h25.read]
    exact if_pos h0
  case kand | kor =>
    refine ⟨_, rfl, decodeMicro_of fun w hw => ?_⟩
    obtain ⟨h25, h21, rfl, h14, rfl, h7, rfl, rfl⟩ := (lay55_eq_iff rfl).1 hw
    rw [decodeMicro, h25.read]
    exact if_pos ⟨h7, h14, h21⟩
  case knot =>
    refine ⟨_, rfl, decodeMicro_of fun w hw => ?_⟩
    obtain ⟨h25, h21, rfl, h14, rfl, h4, rfl⟩ := (lay56_eq_iff rfl).1 hw
    rw [decodeMicro, h25.read]
    exact if_pos ⟨h4, h14, h21⟩
  case kmov =>
    refine ⟨_, rfl, decodeMicro_of fun w hw => ?_⟩
    obtain ⟨h25, h21, rfl, rfl, h4, rfl⟩ := (lay57_eq_iff rfl).1 hw
    rw [decodeMicro, h25.read]
    exact if_pos ⟨h4, h21⟩
  all_goals exact absurd h Bool.false_ne_true

/-! ### Encoding gives back what was decoded -/

/-- An instruction is one of the streams, and has the words `ws` unless it is reserved. -/
structure Stands (ws : List (BitVec 32)) (i : Instr) : Prop where
  stream : microOrder i = false
  words : isReserved i = false → encode i = ws

theorem Stands.reserved {ws : List (BitVec 32)} {v : BitVec 32} : Stands ws (.reservedEncoding v) := ⟨rfl, nofun⟩

theorem Stands.ite {ws : List (BitVec 32)} {p : Prop} [Decidable p] {i : Instr} {v : BitVec 32} (h : p → Stands ws i) :
    Stands ws (if p then i else .reservedEncoding v) := by
  split
  · exact h ‹_›
  · exact .reserved

theorem Stands.short {i : Instr} {v w : BitVec 32} (hi : microOrder i = false) (he : encode i = [v]) (h : v = w) : Stands [w] i :=
  ⟨hi, fun _ => h ▸ he⟩

theorem Stands.long {i : Instr} {v w x : BitVec 32} (hi : microOrder i = false) (he : encode i = [v, encodeExt (decodeExt x.toNat)])
    (h : v = w) : Stands [w, x] i :=
  ⟨hi, fun _ => by rw [he, h, encodeExt_eq_iff.2 rfl]⟩

theorem stands_decodeMajor00 {w : BitVec 32} (h26 : w.toNat / 2 ^ 26 % 2 ^ 6 = 0) : Stands [w] (decodeMajor00 w.toNat) := by
  unfold decodeMajor00
  split
  iterate 26 next h => exact .short rfl rfl ((lay0_eq_iff rfl).2 ⟨h26, rfl, rfl, rfl, h, rfl⟩)
  iterate 5 next h => exact .ite fun h11 => .short rfl rfl ((lay1_eq_iff rfl).2 ⟨h26, rfl, rfl, h11, h, rfl⟩)
  iterate 4 next h => exact .short rfl rfl ((lay0_eq_iff rfl).2 ⟨h26, rfl, rfl, rfl, h, rfl⟩)
  exact .reserved

theorem stands_decodeMajor05 {w : BitVec 32} (h26 : w.toNat / 2 ^ 26 % 2 ^ 6 = 5) : Stands [w] (decodeMajor05 w.toNat) := by
  unfold decodeMajor05
  split
  iterate 4 next h => exact .ite fun h10 => .short rfl rfl ((lay3_eq_iff rfl).2 ⟨h26, rfl, rfl, h, h10, rfl, rfl⟩)
  exact .reserved

theorem stands_decodeMajor10 {w : BitVec 32} (h26 : w.toNat / 2 ^ 26 % 2 ^ 6 = 16) : Stands [w] (decodeMajor10 w.toNat) := by
  unfold decodeMajor10
  split
  iterate 10 next h => exact .short rfl rfl ((lay7_eq_iff rfl).2 ⟨h26, rfl, rfl, rfl, rfl, rfl, h, rfl⟩)
  next h => exact .ite fun h8 => .short rfl rfl ((lay8_eq_iff_amofadd rfl).2 ⟨h26, rfl, rfl, rfl, rfl, h8, h, rfl⟩)
  exact .reserved

theorem stands_decodeMajor13 {w : BitVec 32} (h26 : w.toNat / 2 ^ 26 % 2 ^ 6 = 19) : Stands [w] (decodeMajor13 w.toNat) := by
  unfold decodeMajor13
  split
  iterate 6 next h => exact .short rfl rfl ((lay11_eq_iff rfl).2 ⟨h26, rfl, rfl, h, rfl⟩)
  exact .reserved

theorem stands_decodeMajor14 {w : BitVec 32} (h26 : w.toNat / 2 ^ 26 % 2 ^ 6 = 20) : Stands [w] (decodeMajor14 w.toNat) := by
  unfold decodeMajor14
  split
  iterate 4 next h => exact .ite fun ⟨h16, h25⟩ => .short rfl rfl ((lay12_eq_iff rfl).2 ⟨h26, h25, rfl, h16, h, rfl⟩)
  exact .reserved

theorem stands_decodeMajor18 {w : BitVec 32} (h26 : w.toNat / 2 ^ 26 % 2 ^ 6 = 24) : Stands [w] (decodeMajor18 w.toNat) := by
  unfold decodeMajor18
  split
  iterate 2 next h => exact .ite fun h16 => .short rfl rfl ((lay14_eq_iff rfl).2 ⟨h26, h16, h, rfl, rfl, rfl⟩)
  next h => exact .ite fun ⟨h8, h16⟩ => .short rfl rfl ((lay15_eq_iff rfl).2 ⟨h26, rfl, h16, h, h8, rfl, rfl⟩)
  next h => exact .ite fun ⟨h4, h16⟩ => .short rfl rfl ((lay10_eq_iff_wfe rfl).2 ⟨h26, h16, h, h4, rfl⟩)
  exact .reserved

theorem stands_decodeMajor19 {w : BitVec 32} (h26 : w.toNat / 2 ^ 26 % 2 ^ 6 = 25) : Stands [w] (decodeMajor19 w.toNat) := by
  unfold decodeMajor19
  split
  next h => exact .ite fun h16 => .short rfl rfl ((lay16_eq_iff rfl).2 ⟨h26, rfl, h16, h, rfl, rfl⟩)
  iterate 3 next h => exact .short rfl rfl ((lay17_eq_iff rfl).2 ⟨h26, rfl, rfl, h, rfl, rfl⟩)
  exact .reserved

theorem stands_decodeMajor1A {w : BitVec 32} (h26 : w.toNat / 2 ^ 26 % 2 ^ 6 = 26) : Stands [w] (decodeMajor1A w.toNat) := by
  unfold decodeMajor1A
  split
  next h => exact .ite fun ⟨h4, h16⟩ => .short rfl rfl ((lay10_eq_iff_nop rfl).2 ⟨h26, h16, h, h4, rfl⟩)
  next h => exact .ite fun h16 => .short rfl rfl ((lay18_eq_iff rfl).2 ⟨h26, h16, h, rfl, rfl⟩)
  iterate 2 next h => exact .ite fun ⟨h4, h16⟩ => .short rfl rfl ((lay10_eq_iff_nop rfl).2 ⟨h26, h16, h, h4, rfl⟩)
  iterate 2 next h => exact .ite fun ⟨h4, h21⟩ => .short rfl rfl ((lay19_eq_iff rfl).2 ⟨h26, h21, rfl, h, h4, rfl⟩)
  exact .reserved

theorem stands_decodeMajor1B {w : BitVec 32} (h26 : w.toNat / 2 ^ 26 % 2 ^ 6 = 27) : Stands [w] (decodeMajor1B w.toNat) := by
  unfold decodeMajor1B
  split
  iterate 4 next h => exact .short rfl rfl ((lay8_eq_iff_fadd rfl).2 ⟨h26, rfl, rfl, rfl, rfl, h, rfl⟩)
  next h => exact .ite fun h11 => .short rfl rfl ((lay20_eq_iff rfl).2 ⟨h26, rfl, rfl, h11, rfl, h, rfl⟩)
  next h => exact .short rfl rfl ((lay8_eq_iff_fadd rfl).2 ⟨h26, rfl, rfl, rfl, rfl, h, rfl⟩)
  iterate 5 next h => exact .ite fun h9 => .short rfl rfl ((lay0_eq_iff_fmin rfl).2 ⟨h26, rfl, rfl, rfl, h9, h, rfl⟩)
  next h => exact .ite fun h11 => .short rfl rfl ((lay20_eq_iff rfl).2 ⟨h26, rfl, rfl, h11, rfl, h, rfl⟩)
  next h => exact .ite fun h10 => .short rfl rfl ((lay21_eq_iff rfl).2 ⟨h26, rfl, rfl, h10, rfl, h, rfl⟩)
  iterate 16 next h => exact .short rfl rfl ((lay22_eq_iff rfl).2 ⟨h26, rfl, rfl, show w.toNat / 2 ^ 4 % 2 ^ 1 = 1 by omega, rfl⟩)
  exact .reserved

theorem stands_decodeMajor1C {w : BitVec 32} (h26 : w.toNat / 2 ^ 26 % 2 ^ 6 = 28) : Stands [w] (decodeMajor1C w.toNat) := by
  unfold decodeMajor1C
  split
  next h => exact .ite fun ⟨h7, h21⟩ => .short rfl rfl ((lay23_eq_iff rfl).2 ⟨h26, h21, rfl, h, h7, rfl, rfl⟩)
  next h => exact .ite fun h21 => .short rfl rfl ((lay24_eq_iff rfl).2 ⟨h26, h21, rfl, h, rfl, rfl⟩)
  exact .reserved

theorem stands_decodeMajor1D {w : BitVec 32} (h26 : w.toNat / 2 ^ 26 % 2 ^ 6 = 29) : Stands [w] (decodeMajor1D w.toNat) := by
  unfold decodeMajor1D
  split
  next h => exact .ite fun h11 => .short rfl rfl ((lay1_eq_iff rfl).2 ⟨h26, rfl, rfl, h11, h, rfl⟩)
  next h => exact .short rfl rfl ((lay0_eq_iff rfl).2 ⟨h26, rfl, rfl, rfl, h, rfl⟩)
  exact .reserved

theorem stands_decodeMajor1E {w : BitVec 32} (h26 : w.toNat / 2 ^ 26 % 2 ^ 6 = 30) : Stands [w] (decodeMajor1E w.toNat) := by
  unfold decodeMajor1E
  split
  next h => exact .ite fun h11 => .short rfl rfl ((lay1_eq_iff rfl).2 ⟨h26, rfl, rfl, h11, h, rfl⟩)
  next h => exact .ite fun h21 => .short rfl rfl ((lay25_eq_iff rfl).2 ⟨h26, h21, rfl, rfl, h, rfl⟩)
  exact .reserved

theorem stands_decodeMajor1F {w : BitVec 32} (h26 : w.toNat / 2 ^ 26 % 2 ^ 6 = 31) : Stands [w] (decodeMajor1F w.toNat) := by
  unfold decodeMajor1F
  split
  next h => exact .ite fun ⟨h11, h21⟩ => .short rfl rfl ((lay19_eq_iff_depdec rfl).2 ⟨h26, h21, rfl, h11, h, rfl⟩)
  next h => exact .ite fun h11 => .short rfl rfl ((lay10_eq_iff_trig rfl).2 ⟨h26, h11, h, rfl⟩)
  next h => exact .ite fun ⟨h14, h21⟩ => .short rfl rfl ((lay26_eq_iff rfl).2 ⟨h26, h21, rfl, h14, rfl, h, rfl⟩)
  exact .reserved

theorem stands_decodeMajor20 {w : BitVec 32} (h26 : w.toNat / 2 ^ 26 % 2 ^ 6 = 32) : Stands [w] (decodeMajor20 w.toNat) := by
  unfold decodeMajor20
  split
  iterate 3 next h => exact .ite fun h21 => .short rfl rfl ((lay27_eq_iff rfl).2 ⟨h26, h21, rfl, h, rfl, rfl⟩)
  exact .reserved

theorem stands_decodeMajor30 {w x : BitVec 32} (h26 : w.toNat / 2 ^ 26 % 2 ^ 6 = 48) : Stands [w, x] (decodeMajor30 w.toNat
    x.toNat) := by
  unfold decodeMajor30
  split
  iterate 5 next h => exact .ite fun h21 => .long rfl rfl ((lay30_eq_iff rfl).2 ⟨h26, h21, rfl, rfl, rfl, rfl, rfl, h⟩)
  next h => exact .ite fun ⟨h4, h21⟩ => .long rfl rfl ((lay31_eq_iff rfl).2 ⟨h26, h21, rfl, rfl, rfl, rfl, h4, h⟩)
  next h => exact .ite fun ⟨h5, h21⟩ => .long rfl rfl ((lay32_eq_iff rfl).2 ⟨h26, h21, rfl, rfl, rfl, h5, rfl, h⟩)
  next h => exact .ite fun ⟨h5, h16, h23⟩ => .long rfl rfl ((lay33_eq_iff rfl).2 ⟨h26, h23, rfl, h16, rfl, rfl, h5, rfl, h⟩)
  exact .reserved

theorem stands_decodeMajor31 {w x : BitVec 32} (h26 : w.toNat / 2 ^ 26 % 2 ^ 6 = 49) : Stands [w, x] (decodeMajor31 w.toNat
    x.toNat) := by
  unfold decodeMajor31
  split
  iterate 7 next h => exact .ite fun ⟨h4, h21⟩ => .long rfl rfl ((lay31_eq_iff rfl).2 ⟨h26, h21, rfl, rfl, rfl, rfl, h4, h⟩)
  exact .reserved

theorem stands_decodeMajor35 {w x : BitVec 32} (h26 : w.toNat / 2 ^ 26 % 2 ^ 6 = 53) : Stands [w, x] (decodeMajor35 w.toNat
    x.toNat) := by
  unfold decodeMajor35
  split
  iterate 2 next h => exact .ite fun h24 => .long rfl rfl ((lay37_eq_iff rfl).2 ⟨h26, h24, rfl, rfl, rfl, rfl, h⟩)
  iterate 2 next h => exact .ite fun h23 => .long rfl rfl ((lay38_eq_iff rfl).2 ⟨h26, h23, rfl, rfl, rfl, rfl, h⟩)
  exact .reserved

theorem stands_decodeMajor36 {w x : BitVec 32} (h26 : w.toNat / 2 ^ 26 % 2 ^ 6 = 54) : Stands [w, x] (decodeMajor36 w.toNat
    x.toNat) := by
  unfold decodeMajor36
  split
  next h => exact .long rfl rfl ((lay35_eq_iff rfl).2 ⟨h26, rfl, rfl, rfl, rfl, h⟩)
  iterate 5 next h => exact .ite fun h11 => .long rfl rfl ((lay39_eq_iff rfl).2 ⟨h26, rfl, rfl, h11, rfl, h⟩)
  next h => exact .long rfl rfl ((lay35_eq_iff rfl).2 ⟨h26, rfl, rfl, rfl, rfl, h⟩)
  iterate 2 next h => exact .ite fun h11 => .long rfl rfl ((lay39_eq_iff rfl).2 ⟨h26, rfl, rfl, h11, rfl, h⟩)
  next h => exact .long rfl rfl ((lay35_eq_iff rfl).2 ⟨h26, rfl, rfl, rfl, rfl, h⟩)
  exact .reserved

theorem stands_decodeMajor37 {w x : BitVec 32} (h26 : w.toNat / 2 ^ 26 % 2 ^ 6 = 55) : Stands [w, x] (decodeMajor37 w.toNat
    x.toNat) := by
  unfold decodeMajor37
  split
  next h => exact .ite fun h21 => .long rfl rfl ((lay34_eq_iff rfl).2 ⟨h26, h21, rfl, rfl, rfl, h⟩)
  iterate 2 next h => exact .ite fun ⟨h6, h21⟩ => .long rfl rfl ((lay40_eq_iff rfl).2 ⟨h26, h21, rfl, h6, h⟩)
  exact .reserved

theorem stands_decodeMajor38 {w x : BitVec 32} (h26 : w.toNat / 2 ^ 26 % 2 ^ 6 = 56) : Stands [w, x] (decodeMajor38 w.toNat
    x.toNat) := by
  unfold decodeMajor38
  split
  iterate 3 next h => exact .ite fun h4 => .long rfl rfl ((lay41_eq_iff rfl).2 ⟨h26, rfl, rfl, rfl, rfl, h4, rfl, rfl, h⟩)
  exact .reserved

theorem stands_decodeMajor39 {w x : BitVec 32} (h26 : w.toNat / 2 ^ 26 % 2 ^ 6 = 57) : Stands [w, x] (decodeMajor39 w.toNat
    x.toNat) := by
  unfold decodeMajor39
  split
  iterate 2 next h => exact .ite fun h6 => .long rfl rfl ((lay42_eq_iff rfl).2 ⟨h26, rfl, rfl, rfl, h6, h⟩)
  iterate 3 next h => exact .ite fun h21 => .long rfl rfl ((lay34_eq_iff rfl).2 ⟨h26, h21, rfl, rfl, rfl, h⟩)
  next h => exact .ite fun h6 => .long rfl rfl ((lay42_eq_iff rfl).2 ⟨h26, rfl, rfl, rfl, h6, h⟩)
  next h => exact .long rfl rfl ((lay35_eq_iff rfl).2 ⟨h26, rfl, rfl, rfl, rfl, h⟩)
  next h => exact .ite fun h21 => .long rfl rfl ((lay34_eq_iff rfl).2 ⟨h26, h21, rfl, rfl, rfl, h⟩)
  next h => exact .ite fun h6 => .long rfl rfl ((lay43_eq_iff rfl).2 ⟨h26, rfl, rfl, h6, h⟩)
  exact .reserved


/-- A micro-order, well formed, whose word is `w`, unless it is reserved. -/
structure StandsMicro (w : BitVec 32) (i : Instr) : Prop where
  wf : i.wf = true
  words : isReserved i = false → microOrder i = true ∧ encode i = [w]

theorem StandsMicro.reserved {w v : BitVec 32} : StandsMicro w (.reservedOp7 v) := ⟨rfl, nofun⟩

theorem StandsMicro.ite {w v : BitVec 32} {p : Prop} [Decidable p] {i : Instr} (h : p → StandsMicro w i) :
    StandsMicro w (if p then i else .reservedOp7 v) := by
  split
  · exact h ‹_›
  · exact .reserved

theorem StandsMicro.word {i : Instr} {v w : BitVec 32} (hwf : i.wf = true) (hi : microOrder i = true) (he : encode i = [v]) (h : v = w) :
    StandsMicro w i :=
  ⟨hwf, fun _ => ⟨hi, h ▸ he⟩⟩

theorem standsMicro_decodeMicro (w : BitVec 32) : StandsMicro w (decodeMicro w.toNat) := by
  unfold decodeMicro
  split
  next h => exact .ite fun h0 => .word rfl rfl rfl ((lay36_eq_iff_vnop rfl).2 ⟨h, h0⟩)
  next h => exact .ite fun h4 => .word rfl rfl rfl ((lay44_eq_iff rfl).2 ⟨h, rfl, rfl, h4, rfl⟩)
  next h => exact .ite fun h3 => .word rfl rfl rfl ((lay45_eq_iff rfl).2 ⟨h, rfl, rfl, rfl, h3, rfl⟩)
  iterate 21 next h => exact .word rfl rfl rfl ((lay46_eq_iff rfl).2 ⟨h, rfl, rfl, rfl, rfl⟩)
  iterate 12 next h => exact .ite fun h4 => .word rfl rfl rfl ((lay44_eq_iff rfl).2 ⟨h, rfl, rfl, h4, rfl⟩)
  iterate 24 next h => exact .word rfl rfl rfl ((lay46_eq_iff rfl).2 ⟨h, rfl, rfl, rfl, rfl⟩)
  iterate 6 next h => exact .ite fun h21 => .word rfl rfl rfl ((lay47_eq_iff rfl).2 ⟨h, h21, rfl, rfl, rfl, rfl⟩)
  iterate 16 next h => exact .ite fun h4 => .word rfl rfl rfl ((lay44_eq_iff rfl).2 ⟨h, rfl, rfl, h4, rfl⟩)
  iterate 4 next h => exact .word rfl rfl rfl ((lay46_eq_iff rfl).2 ⟨h, rfl, rfl, rfl, rfl⟩)
  iterate 2 next h => exact .ite fun h4 => .word rfl rfl rfl ((lay44_eq_iff rfl).2 ⟨h, rfl, rfl, h4, rfl⟩)
  next h => exact .ite fun ⟨h3, h13⟩ => .word rfl rfl rfl ((lay48_eq_iff rfl).2 ⟨h, rfl, h13, rfl, h3, rfl⟩)
  next h => exact .ite fun ⟨h3, h19⟩ => .word rfl rfl rfl ((lay49_eq_iff rfl).2 ⟨h, h19, rfl, rfl, h3, rfl⟩)
  iterate 2 next h => exact .ite fun ⟨h4, h17⟩ => .word rfl rfl rfl ((lay50_eq_iff rfl).2 ⟨h, rfl, h17, rfl, rfl, rfl, h4, rfl⟩)
  iterate 2 next h => exact .ite fun ⟨h4, h16⟩ => .word rfl rfl rfl ((lay51_eq_iff rfl).2 ⟨h, rfl, h16, rfl, rfl, rfl, h4, rfl⟩)
  iterate 2 next h => exact .ite fun ⟨h0, h21⟩ => .word rfl rfl rfl ((lay52_eq_iff rfl).2 ⟨h, h21, rfl, rfl, h0⟩)
  iterate 2 next h => exact .ite fun ⟨h0, h6⟩ => .word rfl rfl rfl ((lay53_eq_iff rfl).2 ⟨h, rfl, h6, rfl, h0⟩)
  iterate 6 next h => exact .ite fun h0 => .word rfl rfl rfl ((lay54_eq_iff rfl).2 ⟨h, rfl, rfl, h0⟩)
  iterate 2 next h => exact .ite fun ⟨h7, h14, h21⟩ => .word rfl rfl rfl ((lay55_eq_iff rfl).2 ⟨h, h21, rfl, h14, rfl, h7, rfl, rfl⟩)
  next h => exact .ite fun ⟨h4, h14, h21⟩ => .word rfl rfl rfl ((lay56_eq_iff rfl).2 ⟨h, h21, rfl, h14, rfl, h4, rfl⟩)
  next h => exact .ite fun ⟨h4, h21⟩ => .word rfl rfl rfl ((lay57_eq_iff rfl).2 ⟨h, h21, rfl, rfl, h4, rfl⟩)
  exact .reserved

/-- The words that a first word and the word after it make up (R24). -/
def wordsOf (w x : BitVec 32) : List (BitVec 32) := if isLong w.toNat then [w, x] else [w]

theorem Stands.of_short {w x : BitVec 32} {i : Instr} {n : Nat} (h : w.toNat / 2 ^ 26 % 2 ^ 6 = n) (hn : n < 48)
    (hs : Stands [w] i) : Stands (wordsOf w x) i := by
  rwa [wordsOf, isLong, h, decide_eq_false (by omega), if_neg Bool.false_ne_true]

theorem Stands.of_long {w x : BitVec 32} {i : Instr} {n : Nat} (h : w.toNat / 2 ^ 26 % 2 ^ 6 = n) (hn : 48 ≤ n)
    (hs : Stands [w, x] i) : Stands (wordsOf w x) i := by
  rwa [wordsOf, isLong, h, decide_eq_true hn, if_pos rfl]

theorem stands_decodeRaw (store : Bool) (w x : BitVec 32) : Stands (wordsOf w x) (decodeRaw store w.toNat x.toNat) := by
  unfold decodeRaw
  split
  next h26 => exact .of_short h26 (by decide) (stands_decodeMajor00 h26)
  iterate 4 next h26 => exact .of_short h26 (by decide) (.short rfl rfl ((lay2_eq_iff rfl).2 ⟨h26, rfl, rfl, rfl, rfl⟩))
  next h26 => exact .of_short h26 (by decide) (stands_decodeMajor05 h26)
  iterate 2 next h26 => exact .of_short h26 (by decide) (.short rfl rfl ((lay2_eq_iff rfl).2 ⟨h26, rfl, rfl, rfl, rfl⟩))
  iterate 2 next h26 => exact .of_short h26 (by decide) (.short rfl rfl ((lay4_eq_iff rfl).2 ⟨h26, rfl, rfl⟩))
  iterate 4 next h26 => exact .of_short h26 (by decide) (.short rfl rfl ((lay5_eq_iff rfl).2 ⟨h26, rfl, rfl, rfl, rfl, rfl⟩))
  iterate 2 next h26 => exact .of_short h26 (by decide) (.ite fun h4 => .short rfl rfl ((lay6_eq_iff rfl).2 ⟨h26, rfl, rfl, h4, rfl⟩))
  next h26 => exact .of_short h26 (by decide) (stands_decodeMajor10 h26)
  next h26 => exact .of_short h26 (by decide) (.ite fun ⟨h4, h16⟩ => .short rfl rfl ((lay9_eq_iff rfl).2 ⟨h26, h16, rfl, rfl, h4, rfl⟩))
  next h26 => exact .of_short h26 (by decide) (.ite fun h4 => .short rfl rfl ((lay10_eq_iff_mark rfl).2 ⟨h26, h4, rfl⟩))
  next h26 => exact .of_short h26 (by decide) (stands_decodeMajor13 h26)
  next h26 => exact .of_short h26 (by decide) (stands_decodeMajor14 h26)
  next h26 => exact .of_short h26 (by decide) (.short rfl rfl ((lay4_eq_iff rfl).2 ⟨h26, rfl, rfl⟩))
  next h26 => exact .of_short h26 (by decide) (.short rfl rfl ((lay2_eq_iff rfl).2 ⟨h26, rfl, rfl, rfl, rfl⟩))
  next h26 => exact .of_short h26 (by decide) (.ite fun h21 => .short rfl rfl ((lay13_eq_iff rfl).2 ⟨h26, h21, rfl, rfl, rfl⟩))
  next h26 => exact .of_short h26 (by decide) (stands_decodeMajor18 h26)
  next h26 => exact .of_short h26 (by decide) (stands_decodeMajor19 h26)
  next h26 => exact .of_short h26 (by decide) (stands_decodeMajor1A h26)
  next h26 => exact .of_short h26 (by decide) (stands_decodeMajor1B h26)
  next h26 => exact .of_short h26 (by decide) (stands_decodeMajor1C h26)
  next h26 => exact .of_short h26 (by decide) (stands_decodeMajor1D h26)
  next h26 => exact .of_short h26 (by decide) (stands_decodeMajor1E h26)
  next h26 => exact .of_short h26 (by decide) (stands_decodeMajor1F h26)
  next h26 => exact .of_short h26 (by decide) (stands_decodeMajor20 h26)
  next h26 =>
    cases store
    · exact .of_short h26 (by decide) (.ite fun ⟨h14, h23⟩ => .short rfl rfl ((lay28_eq_iff rfl).2 ⟨h26, h23, rfl, rfl, h14, rfl, rfl⟩))
    · exact .of_short h26 (by decide) (.ite fun ⟨h14, h22⟩ => .short rfl rfl ((lay29_eq_iff rfl).2 ⟨h26, h22, rfl, rfl, h14, rfl, rfl⟩))
  next h26 => exact .of_long h26 (by decide) (stands_decodeMajor30 h26)
  next h26 => exact .of_long h26 (by decide) (stands_decodeMajor31 h26)
  next h26 => exact .of_long h26 (by decide) (.ite fun ⟨h0, h21⟩ => .long rfl rfl ((lay34_eq_iff rfl).2 ⟨h26, h21, rfl, rfl, rfl, h0⟩))
  next h26 => exact .of_long h26 (by decide) (.ite fun h0 => .long rfl rfl ((lay35_eq_iff rfl).2 ⟨h26, rfl, rfl, rfl, rfl, h0⟩))
  next h26 => exact .of_long h26 (by decide) (.ite fun h0 => .long rfl rfl ((lay36_eq_iff rfl).2 ⟨h26, h0⟩))
  next h26 => exact .of_long h26 (by decide) (stands_decodeMajor35 h26)
  next h26 => exact .of_long h26 (by decide) (stands_decodeMajor36 h26)
  next h26 => exact .of_long h26 (by decide) (stands_decodeMajor37 h26)
  next h26 => exact .of_long h26 (by decide) (stands_decodeMajor38 h26)
  next h26 => exact .of_long h26 (by decide) (stands_decodeMajor39 h26)
  next h26 => exact .of_long h26 (by decide) (.ite fun h0 => .long rfl rfl ((lay35_eq_iff rfl).2 ⟨h26, rfl, rfl, rfl, rfl, h0⟩))
  exact .reserved

theorem stands_decodeStream (store : Bool) (w x : BitVec 32) : Stands (wordsOf w x) (decodeStream store w.toNat x.toNat) := by
  rw [decodeStream]
  split
  · exact stands_decodeRaw store w x
  · exact .reserved

/-- The checks of R45 leave nothing that is not well formed. -/
theorem wf_decodeStream (store : Bool) (w x : Nat) : (decodeStream store w x).wf = true := by
  rw [decodeStream]
  split
  · assumption
  · rfl

/-! ### Bytes -/

theorem wordOf_bytesOf (w : BitVec 32) :
    wordOf (BitVec.ofNat 8 w.toNat) (BitVec.ofNat 8 (w.toNat / 2 ^ 8)) (BitVec.ofNat 8 (w.toNat / 2 ^ 8 / 2 ^ 8))
      (BitVec.ofNat 8 (w.toNat / 2 ^ 8 / 2 ^ 8 / 2 ^ 8)) = w.toNat := by
  have hw := w.isLt
  simp only [wordOf, BitVec.toNat_ofNat]
  omega

theorem decodeBytes_short (store : Bool) {w : BitVec 32} (rest : List (BitVec 8)) (h : isLong w.toNat = false) :
    decodeBytes store (bytesOf w.toNat 4 ++ rest) = .ok (decodeStream store w.toNat 0, rest) := by
  simp only [bytesOf, List.cons_append, List.nil_append, decodeBytes, wordOf_bytesOf, h, Bool.false_eq_true, if_false]

theorem decodeBytes_long (store : Bool) {w : BitVec 32} (x : BitVec 32) (rest : List (BitVec 8)) (h : isLong w.toNat = true) :
    decodeBytes store (bytesOf w.toNat 4 ++ (bytesOf x.toNat 4 ++ rest)) = .ok (decodeStream store w.toNat x.toNat, rest) := by
  simp only [bytesOf, List.cons_append, List.nil_append, decodeBytes, wordOf_bytesOf, h, if_true]

/-- An instruction that is read from a word, and whatever follows it, has two words when the first one is long. -/
theorem encode_of_decodeRaw {store : Bool} {w x : BitVec 32} {i : Instr} (hres : isReserved i = false)
    (h : decodeRaw store w.toNat x.toNat = i) : encode i = if isLong w.toNat then [w, x] else [w] :=
  (h ▸ stands_decodeRaw store w x).words hres

/-- Decoding the bytes of an instruction's words gives it back, and leaves the bytes after them. -/
theorem decodeBytes_encode {i : Instr} (hwf : i.wf = true) (hres : isReserved i = false) (h : Reads i) (rest : List (BitVec 8)) :
    (encode i).length = (if isLong ((encode i).headD 0).toNat then 2 else 1) ∧
      decodeBytes (isVst i) (((encode i).flatMap fun w => bytesOf w.toNat 4) ++ rest) = .ok (i, rest) := by
  obtain ⟨w, he, hraw⟩ | ⟨w, x, he, hraw⟩ := h
  · have hlong : isLong w.toNat = false := by simpa [he] using encode_of_decodeRaw (x := 0) hres (hraw 0)
    refine ⟨by simp [he, hlong], ?_⟩
    rw [he, List.flatMap_singleton, decodeBytes_short _ _ hlong, decodeStream, hraw, if_pos hwf]
  · have hlong : isLong w.toNat = true := by simpa [he] using encode_of_decodeRaw hres hraw
    refine ⟨by simp [he, hlong], ?_⟩
    rw [he, List.flatMap_cons, List.flatMap_singleton, List.append_assoc, decodeBytes_long _ _ _ hlong, decodeStream, hraw,
      if_pos hwf]

/-- Settles O60: row by row, a word is the parts of its layout, in both directions. -/
theorem decodingInvertsEncoding : Obligations.DecodingInvertsEncoding := by
  unfold Obligations.DecodingInvertsEncoding
  refine ⟨fun i hwf hne hres => ⟨decodeMicro_encode i, fun hmicro rest => ?bytes⟩, fun store w x => ?stream, fun w => ?micro⟩
  case bytes =>
    have hi : streamWord i = true := by simp [streamWord, hmicro, hres, hne]
    exact decodeBytes_encode hwf hres (reads_encode i hi) rest
  case stream =>
    obtain ⟨hstream, hwords⟩ := stands_decodeStream store w x
    exact ⟨wf_decodeStream _ _ _, hstream, hwords⟩
  case micro =>
    obtain ⟨hwf, hword⟩ := standsMicro_decodeMicro w
    exact ⟨hwf, hword⟩

end Sys2Proof.Claims
end

section
/-! SUPPORT. The proof of O57. -/

namespace Sys2Proof.Claims

/-- Settles O57: each word is decoded by computation. -/
theorem wordsDecodeAsTheSpecWritesThem : Obligations.WordsDecodeAsTheSpecWritesThem := by
  unfold Obligations.WordsDecodeAsTheSpecWritesThem
  exact ⟨rfl, rfl, rfl, rfl, rfl, rfl, rfl, rfl, rfl, rfl, rfl, rfl, rfl, rfl⟩

end Sys2Proof.Claims
end

section
/-! SUPPORT. What a precise trap at issue leaves (R45, R347, R351, R352), in the words of the statements. -/

namespace Sys2Proof.Claims
open Sys2Proof.Machine

/-- A sequencer that may issue is in a slot that does not stop. -/
theorem stopping_of_canIssue {s : State} {k : Nat} (h : s.canIssue k = true) : (s.slot (slotKey k)).stopping = none := by
  simp only [State.canIssue, Bool.and_eq_true, Option.isNone_iff_eq_none] at h
  obtain ⟨⟨⟨⟨⟨⟨-, hstop⟩, -⟩, -⟩, -⟩, -⟩, -⟩ := h
  exact hstop

/-- A sequencer that owes a push issues nothing (R28). -/
theorem canIssue_of_owed {s : State} {k : Nat} (h : (s.seq k).owed ≠ []) : s.canIssue k = false := by
  simp [State.canIssue, h]

/-- A precise trap of the current sequencer, whose slot does not stop, is what `Trapped` says. -/
theorem trapped_trapAt {s : State} {code engine addr status : Nat} (hstop : (mine s).stopping = none) (hcode : code < 256)
    (hengine : engine < 16) :
    Trapped s (s.trapAt s.cur code engine addr status) (mine s) code engine addr status := by
  refine ⟨s.preciseRec s.cur code engine addr status, rfl, rfl, fun j hj => s.trapAt_seq_ne _ _ _ _ _ j hj,
    fun j hj => s.trapAt_slot_ne _ _ _ _ _ j hj, ?slot, s.trapAt_seq_self _ _ _ _ _⟩
  case slot =>
    refine (s.trapAt_slot_self s.cur code engine addr status).trans ?_
    have hgov : (s.slot (slotKey s.cur)).governs = (mine s).trap.isNone := Slot.governs_of_running _ hstop
    rw [hgov, Nat.mod_eq_of_lt hcode, Nat.mod_eq_of_lt hengine]
    simp only [Option.isNone_iff_eq_none]
    rfl

end Sys2Proof.Claims
end

section
/-! SUPPORT. What the pops and pushes of one instruction do to the FIFOs of each role (R28, R29), and the proof of O8. -/

namespace Sys2Proof.Claims
open Sys2Proof.Machine

/-! ### The tokens of a slot, by role -/

/-- Pushes change nothing of a slot but its tokens. -/
theorem push_frame (c : Slot) (r : Nat) (t : BitVec 4) :
    c.push r t = { c with lx := (c.push r t).lx, xl := (c.push r t).xl, xs := (c.push r t).xs, sx := (c.push r t).sx } := by
  unfold Slot.push Slot.setOutL Slot.setOutR
  split_ifs <;> rfl

/-- Pops change nothing of a slot but its tokens. -/
theorem pop_frame (c : Slot) (r : Nat) (t : BitVec 4) :
    c.pop r t = { c with lx := (c.pop r t).lx, xl := (c.pop r t).xl, xs := (c.pop r t).xs, sx := (c.pop r t).sx } := by
  unfold Slot.pop Slot.setInL Slot.setInR
  split_ifs <;> rfl

/-- An instruction's pops and pushes change a slot's tokens, its mark of a side effect, and its count of pops. -/
theorem moved_frame (c : Slot) (r : Nat) (t : BitVec 4) :
    moved r t c = { c with lx := (moved r t c).lx, xl := (moved r t c).xl, xs := (moved r t c).xs, sx := (moved r t c).sx
                           sideEffect := c.sideEffect || t.getLsbD 2 || t.getLsbD 3, popped := (moved r t c).popped } := by
  rw [moved, push_frame, Slot.issue, pop_frame]

/-- The tokens of an instruction's T bit `b` at a FIFO, when its role is `r` (R29). -/
def tokenOf (role r : Nat) (b : Bool) : Nat := if role = r then if b then 1 else 0 else 0

/-- T bits without token misuse, by role: L has no neighbour on its left, S none on its right, H none at all (R29). -/
theorem misuse_cases {r : Nat} {t : BitVec 4} (hr : r < 4) (h : tokenMisuse r t = false) :
    (r = 0 ∧ t.getLsbD 0 = false ∧ t.getLsbD 2 = false) ∨ r = 1 ∨ (r = 2 ∧ t.getLsbD 1 = false ∧ t.getLsbD 3 = false) ∨
      (r = 3 ∧ t = 0) := by
  obtain rfl | rfl | rfl | rfl : r = 0 ∨ r = 1 ∨ r = 2 ∨ r = 3 := by omega
  · simpa [tokenMisuse] using h
  · simp
  · simpa [tokenMisuse] using h
  · simpa [tokenMisuse] using h

/-- The pushes of each role: L fills LX, X fills XL and XS, S fills SX (R29). -/
theorem push_counts (c : Slot) {r : Nat} {t : BitVec 4} (hr : r < 4) (h : tokenMisuse r t = false) :
    (c.push r t).lx = c.lx + tokenOf r 0 (t.getLsbD 3) ∧ (c.push r t).xl = c.xl + tokenOf r 1 (t.getLsbD 2) ∧
      (c.push r t).xs = c.xs + tokenOf r 1 (t.getLsbD 3) ∧ (c.push r t).sx = c.sx + tokenOf r 2 (t.getLsbD 2) := by
  simp only [Slot.push, Slot.setOutL, Slot.setOutR, Slot.outL, Slot.outR, tokenOf]
  obtain ⟨rfl, -, h2⟩ | rfl | ⟨rfl, -, h3⟩ | ⟨rfl, rfl⟩ := misuse_cases hr h
  case inl => cases t.getLsbD 3 <;> simp only [h2] <;> simp
  case inr.inl => cases t.getLsbD 2 <;> cases t.getLsbD 3 <;> simp
  case inr.inr.inl => cases t.getLsbD 2 <;> simp only [h3] <;> simp
  case inr.inr.inr => simp

/-- The pops of each role: L empties XL, X empties LX and SX, S empties XS (R29). -/
theorem pop_counts (c : Slot) {r : Nat} {t : BitVec 4} (hr : r < 4) (h : tokenMisuse r t = false) :
    (c.pop r t).lx = c.lx - tokenOf r 1 (t.getLsbD 0) ∧ (c.pop r t).xl = c.xl - tokenOf r 0 (t.getLsbD 1) ∧
      (c.pop r t).xs = c.xs - tokenOf r 2 (t.getLsbD 0) ∧ (c.pop r t).sx = c.sx - tokenOf r 1 (t.getLsbD 1) := by
  simp only [Slot.pop, Slot.setInL, Slot.setInR, Slot.inL, Slot.inR, tokenOf]
  obtain ⟨rfl, h0, -⟩ | rfl | ⟨rfl, h1, -⟩ | ⟨rfl, rfl⟩ := misuse_cases hr h
  case inl => cases t.getLsbD 1 <;> simp only [h0] <;> simp
  case inr.inl => cases t.getLsbD 0 <;> cases t.getLsbD 1 <;> simp
  case inr.inr.inl => cases t.getLsbD 0 <;> simp only [h1] <;> simp
  case inr.inr.inr => simp

/-- One role's push and another role's pop of a FIFO can be taken in either order. -/
theorem tokenOf_comm {role r r' : Nat} (hne : r ≠ r') (n : Nat) (a b : Bool) :
    n - tokenOf role r' b + tokenOf role r a = n + tokenOf role r a - tokenOf role r' b := by
  unfold tokenOf
  split_ifs <;> omega

/-- What each FIFO gains and loses by an instruction of any role (R29). -/
theorem moved_counts (c : Slot) {r : Nat} {t : BitVec 4} (hr : r < 4) (h : tokenMisuse r t = false) :
    (moved r t c).lx = c.lx + tokenOf r 0 (t.getLsbD 3) - tokenOf r 1 (t.getLsbD 0) ∧
      (moved r t c).xl = c.xl + tokenOf r 1 (t.getLsbD 2) - tokenOf r 0 (t.getLsbD 1) ∧
      (moved r t c).xs = c.xs + tokenOf r 1 (t.getLsbD 3) - tokenOf r 2 (t.getLsbD 0) ∧
      (moved r t c).sx = c.sx + tokenOf r 2 (t.getLsbD 2) - tokenOf r 1 (t.getLsbD 1) := by
  obtain ⟨hlx, hxl, hxs, hsx⟩ := pop_counts c hr h
  obtain ⟨hlx', hxl', hxs', hsx'⟩ := push_counts (c.issue r t) hr h
  refine ⟨hlx'.trans ?_, hxl'.trans ?_, hxs'.trans ?_, hsx'.trans ?_⟩
  · rw [show (c.issue r t).lx = (c.pop r t).lx from rfl, hlx, tokenOf_comm (by decide)]
  · rw [show (c.issue r t).xl = (c.pop r t).xl from rfl, hxl, tokenOf_comm (by decide)]
  · rw [show (c.issue r t).xs = (c.pop r t).xs from rfl, hxs, tokenOf_comm (by decide)]
  · rw [show (c.issue r t).sx = (c.pop r t).sx from rfl, hsx, tokenOf_comm (by decide)]

/-- A slot after the pops and the pushes of an instruction of any role. -/
theorem moved_tokens (c : Slot) {r : Nat} {t : BitVec 4} (hr : r < 4) (h : tokenMisuse r t = false) :
    moved r t c =
      { c with lx := c.lx + tokenOf r 0 (t.getLsbD 3) - tokenOf r 1 (t.getLsbD 0)
               xl := c.xl + tokenOf r 1 (t.getLsbD 2) - tokenOf r 0 (t.getLsbD 1)
               xs := c.xs + tokenOf r 1 (t.getLsbD 3) - tokenOf r 2 (t.getLsbD 0)
               sx := c.sx + tokenOf r 2 (t.getLsbD 2) - tokenOf r 1 (t.getLsbD 1)
               sideEffect := c.sideEffect || t.getLsbD 2 || t.getLsbD 3, popped := (moved r t c).popped } := by
  obtain ⟨hlx, hxl, hxs, hsx⟩ := moved_counts c hr h
  rw [← hlx, ← hxl, ← hxs, ← hsx]
  exact moved_frame c r t

/-! ### NOP -/

/-- What `issuable` asks, one by one. -/
theorem issuable_iff (s : State) (t : BitVec 4) (uses : List (BitVec 5)) :
    issuable s t uses = true ↔
      s.canIssue s.cur = true ∧ (s.seq s.cur).issued = false ∧ tokenMisuse (roleOf s.cur) t = false ∧
        (s.slot (slotKey s.cur)).popOk (roleOf s.cur) t = true ∧ uses.any (s.pendingReg s.cur) = false := by
  simp only [issuable, Bool.and_eq_true, Bool.not_eq_true', List.all_eq_true, List.any_eq_false, Bool.not_eq_true]
  tauto

/-- A ready instruction that sets the PC and does nothing else: its tokens move, and it has retired. -/
theorem issueShort_becomes {f : Form} {pre eff : State → Res} {s : State} {pc : Word} (h : ready s f.t f.uses = true)
    (hok : f.ok = true) (hrole : f.roles (slotNum (slotKey s.cur)) (roleOf s.cur) = true) (hlate : f.late = false)
    (hpre : pre s = .go s) (heff : eff (begun s f.t) = .go ((begun s f.t).setPc s.cur pc)) :
    Becomes s (issueShort f pre eff s) (moved (role s) f.t (mine s)) { self s with pc := pc } := by
  have hissued := ((ready_iff _ _ _).1 h).2.1
  rw [issueShort_ready h hok hrole hlate hpre heff rfl (by simp [State.setPc]) (by simp)]
  refine ⟨⟨rfl, fun j hj => ?seqs, fun j hj => ?slots⟩, ?slot, ?seq⟩
  case seqs =>
    rw [State.modSeq_seq_ne _ _ _ _ hj, State.pushTokens, State.modSlot_seq, State.setPc, State.setSeq_seq_ne _ _ _ _ hj,
      begun_seq_ne s _ j hj]
  case slots =>
    rw [State.modSeq_slot, State.pushTokens, State.modSlot_slot_ne _ _ _ _ hj, State.setPc_slot, begun_slot_ne s _ j hj]
  case slot => simp [mine, State.pushTokens, State.setPc, moved, popped, role]
  case seq => simp [self, State.pushTokens, State.setPc, ← hissued]

/-- An instruction that sets the PC and does nothing else, and finds a FIFO full that it pushes, owes its pushes (R28). -/
theorem issueShort_owes {f : Form} {pre eff : State → Res} {s : State} {pc : Word} (h : issuable s f.t f.uses = true)
    (hfull : (mine s).pushOk (role s) f.t = false) (hok : f.ok = true)
    (hrole : f.roles (slotNum (slotKey s.cur)) (roleOf s.cur) = true) (hlate : f.late = false) (hslow : f.slow = none)
    (hpre : pre s = .go s) (heff : eff (begun s f.t) = .go ((begun s f.t).setPc s.cur pc)) :
    Becomes s (issueShort f pre eff s) (popped (role s) f.t (mine s)) { self s with pc := pc, owed := [f.t] } := by
  obtain ⟨hcan, hissued, htok, hpop, huses⟩ := (issuable_iff _ _ _).1 h
  have hroom : ((begun s f.t).setPc s.cur pc).room s.cur f.t = false := by
    rw [State.room, State.setPc_slot, begun_slot_self]
    exact (Slot.issue_pushOk _ _ _ htok).trans hfull
  have hpush : ((begun s f.t).setPc s.cur pc).pushShort s.cur f =
      ((begun s f.t).setPc s.cur pc).modSeq s.cur fun q => { q with owed := q.owed ++ [f.t] } := by
    simp only [State.pushShort, hlate, hslow, ite_self, Bool.false_eq_true, if_false]
    exact State.pushOwe_full _ _ _ (.inr hroom)
  have hrun : issueShort f pre eff s = (((begun s f.t).setPc s.cur pc).modSeq s.cur fun q =>
      { q with owed := q.owed ++ [f.t] }).modSeq s.cur fun q => { q with issued := false } := by
    rw [issueShort_goes f pre eff s hcan hok hrole htok hissued hpop huses, hpre, ← hpush]
    simp only [finishShort]
    rw [show (((s.modSlot (slotKey s.cur) (·.issue (roleOf s.cur) f.t)).modSeq s.cur
      fun q => { q with issued := true })) = begun s f.t from rfl, heff]
    rfl
  rw [hrun]
  refine ⟨⟨rfl, fun j hj => ?seqs, fun j hj => ?slots⟩, ?slot, ?seq⟩
  case seqs =>
    rw [State.modSeq_seq_ne _ _ _ _ hj, State.modSeq_seq_ne _ _ _ _ hj, State.setPc, State.setSeq_seq_ne _ _ _ _ hj,
      begun_seq_ne s _ j hj]
  case slots => rw [State.modSeq_slot, State.modSeq_slot, State.setPc_slot, begun_slot_ne s _ j hj]
  case slot => simp [mine, State.setPc]
  case seq => simp [self, State.setPc, owed_of_canIssue hcan, ← hissued]

/-- What changes nothing but sequencers and slots leaves the current sequencer current. -/
theorem cur_of_elsewhere {s u : State} (h : Elsewhere s u) : u.cur = s.cur := by
  obtain ⟨hframe, -, -⟩ := h
  rw [hframe]

/-- NOP goes on to the next word, and has no other work. -/
def nopWork (s : State) : Res := .go (s.adv s.cur 4)

theorem exec_nop (t : BitVec 4) (s : State) : exec (.nop t) s = .next (issueShort (formAll t []) preGo nopWork s) := rfl

theorem nopWork_begun (s : State) (t : BitVec 4) : nopWork (begun s t) = .go ((begun s t).setPc s.cur (next4 s)) := by
  simp [nopWork, State.adv, next4]

/-- Settles O8: by the branches of the shared issue, and the FIFOs of each role. -/
theorem tokensMoveBetweenNeighbours : Obligations.TokensMoveBetweenNeighbours := by
  unfold Obligations.TokensMoveBetweenNeighbours
  intro s t b on
  refine ⟨fun h => ⟨_, exec_nop t s, ?moves⟩, fun hcan hissued htok hpop => ?waits, fun h hfull => ⟨_, exec_nop t s, ?owes⟩,
    fun hcan htok => ⟨_, exec_nop t s, ?misuse⟩⟩
  case moves =>
    obtain ⟨helse, hslot, hseq⟩ :=
      issueShort_becomes (f := formAll t []) (pre := preGo) h rfl rfl rfl rfl (nopWork_begun s t)
    have htok := ((ready_iff _ _ _).1 h).2.2.1
    refine ⟨helse, ?_, hseq⟩
    rw [hslot]
    exact moved_tokens (mine s) (Nat.mod_lt s.cur (by decide)) htok
  case waits =>
    rw [exec_nop, issueShort_waits (formAll t []) _ _ s hcan rfl rfl htok hissued (.inl hpop)]
  case owes =>
    obtain ⟨helse, hslot, hseq⟩ :=
      issueShort_owes (f := formAll t []) (pre := preGo) h hfull rfl rfl rfl rfl rfl (nopWork_begun s t)
    refine ⟨⟨helse, hslot, hseq⟩, canIssue_of_owed ?_⟩
    rw [← cur_of_elsewhere helse]
    exact (congrArg Seq.owed hseq).trans_ne (by simp)
  case misuse =>
    rw [issueShort_misuse (formAll t []) _ _ s hcan rfl rfl htok]
    exact trapped_trapAt (stopping_of_canIssue hcan) (by decide) (by decide)

end Sys2Proof.Claims
end

section
/-! SUPPORT. What each part of COMMAND_RETIRE does to the state (R28, R128, R200, R406), and the proof of O32. -/

namespace Sys2Proof.Claims
open Sys2Proof.Machine

/-! ### The generation of a TBLOAD's bank -/

/-- The value that the retirement of a command writes to its rd: a TBLOAD's is its bank's generation, raised by one (R200). -/
def retireValue (s : State) (c : Cmd) : Word :=
  if c.isTbload then ((s.core (c.seqk / 32)).gen (c.v2.toNat / 2048) + 1).setWidth 64 else c.result

/-- The cores after the retirement of a command: a TBLOAD raises its bank's generation. -/
def raised (s : State) (c : Cmd) : State :=
  if c.isTbload then s.modCore (c.seqk / 32) (·.raiseGen (c.v2.toNat / 2048)) else s

theorem gen_raiseGen (x : CoreSt) (b : Nat) : (x.raiseGen b).gen b = x.gen b + 1 := by
  unfold CoreSt.gen CoreSt.raiseGen
  split <;> rfl

theorem raiseGen_eq (x : CoreSt) (b : Nat) :
    x.raiseGen b = if b = 0 then { x with gen0 := x.gen b + 1 } else { x with gen1 := x.gen b + 1 } := by
  unfold CoreSt.raiseGen CoreSt.gen
  by_cases hb : b = 0
  · simp only [hb, if_true]
  · simp only [hb, if_false]

theorem risen_eq (s : State) (c : Cmd) : s.risen c = (raised s c, { c with result := retireValue s c }) := by
  unfold State.risen raised retireValue
  split
  · simp only [coreOf, bankOf, State.modCore_core_self, gen_raiseGen, BitVec.ofNat_toNat]
  · rfl

theorem raised_frame (s : State) (c : Cmd) : raised s c = { s with cores := (raised s c).cores } := by
  unfold raised
  split <;> rfl

theorem raised_core (s : State) (c : Cmd) (j : Nat) :
    (raised s c).core j =
      if j = c.seqk / 32 ∧ c.isTbload = true then (s.core j).raiseGen (c.v2.toNat / 2048) else s.core j := by
  unfold raised
  by_cases ht : c.isTbload = true
  · by_cases hj : j = c.seqk / 32
    · simp [ht, hj]
    · simp [ht, hj, State.modCore_core_ne]
  · simp [ht]

/-! ### When a command may retire -/

/-- A command may retire, its pushes' turn included. -/
def mayRetire (s : State) (c : Cmd) : Prop :=
  c.phase = .done ∧ s.behindInQueue c = false ∧ (∀ u ∈ s.unacked, u.1 ≠ c.uid) ∧
    (s.owesPushes c = true ∨ s.room c.seqk c.ext.t = true ∧ s.pushTurn c = true)

/-- The guard of `State.retire` is `mayRetire`. -/
theorem retire_guard (s : State) (c : Cmd) :
    ¬ (s.retirable c = false ∨ (s.pushTurn c || s.owesPushes c) = false) ↔ mayRetire s c := by
  simp only [State.retirable, mayRetire, not_or, Bool.not_eq_false, Bool.and_eq_true, Bool.or_eq_true, decide_eq_true_eq,
    Bool.not_eq_true', List.any_eq_false]
  tauto

/-- Neither the cores nor the command's result say whether it may retire. -/
theorem mayRetire_raised (s : State) (c : Cmd) (v : Word) : mayRetire (raised s c) { c with result := v } ↔ mayRetire s c := by
  rw [raised_frame]
  rfl

/-! ### The pushes, the post and rd -/

/-- A command's pushes: made where they have room, else owed by its sequencer, which owes none yet (R28). -/
def pushed (s : State) (c : Cmd) : State :=
  if s.room c.seqk c.ext.t then s.pushTokens c.seqk c.ext.t else s.modSeq c.seqk fun q => { q with owed := [c.ext.t] }

/-- A command's post of one to its event counter. -/
def posted (s : State) (c : Cmd) : State :=
  if c.ext.post = 1 then s.modSlot (slotKey c.seqk) (·.post c.ext.ev.toNat 1) else s

/-- A command has written rd, and is in flight no more. -/
def written (s : State) (c : Cmd) : State :=
  { s with cmds := s.cmds.filter fun x => x.uid != c.uid }.setReg c.seqk c.rd c.result

/-- A command has written rd, pushed and posted, and is in flight no more. -/
def worked (s : State) (c : Cmd) : State := posted (pushed (written s c) c) c

/-- The slot of a command after its pushes, where they have room. -/
def pushedSlot (s : State) (c : Cmd) : Slot :=
  if s.room c.seqk c.ext.t then (s.slot (slotKey c.seqk)).push (roleOf c.seqk) c.ext.t else s.slot (slotKey c.seqk)

theorem pushed_frame (s : State) (c : Cmd) : pushed s c = { s with seqs := (pushed s c).seqs, slots := (pushed s c).slots } := by
  unfold pushed
  split <;> rfl

theorem pushed_slot (s : State) (c : Cmd) (j : Nat) :
    (pushed s c).slot j = if j = slotKey c.seqk then pushedSlot s c else s.slot j := by
  unfold pushed pushedSlot
  by_cases hr : s.room c.seqk c.ext.t = true
  · by_cases hj : j = slotKey c.seqk
    · simp [hr, hj, State.pushTokens]
    · simp [hr, hj, State.pushTokens, State.modSlot_slot_ne]
  · by_cases hj : j = slotKey c.seqk <;> simp [hr, hj]

theorem pushed_seq_self (s : State) (c : Cmd) (ho : (s.seq c.seqk).owed = []) :
    (pushed s c).seq c.seqk =
      { s.seq c.seqk with owed := if s.room c.seqk c.ext.t then [] else [c.ext.t] } := by
  unfold pushed
  by_cases hr : s.room c.seqk c.ext.t = true
  · simp [hr, State.pushTokens, ← ho]
  · simp [hr]

theorem pushed_seq_ne (s : State) (c : Cmd) {j : Nat} (hj : j ≠ c.seqk) : (pushed s c).seq j = s.seq j := by
  unfold pushed
  split
  · rfl
  · exact State.modSeq_seq_ne _ _ _ _ hj

theorem posted_frame (s : State) (c : Cmd) : posted s c = { s with slots := (posted s c).slots } := by
  unfold posted
  split <;> rfl

theorem posted_slot (s : State) (c : Cmd) (j : Nat) :
    (posted s c).slot j =
      if j = slotKey c.seqk ∧ c.ext.post = 1 then (s.slot j).post c.ext.ev.toNat 1 else s.slot j := by
  unfold posted
  by_cases hp : c.ext.post = 1
  · by_cases hj : j = slotKey c.seqk
    · simp [hp, hj]
    · simp [hp, hj, State.modSlot_slot_ne]
  · rw [if_neg hp, if_neg fun h => hp h.2]

theorem posted_seq (s : State) (c : Cmd) (j : Nat) : (posted s c).seq j = s.seq j := by
  rw [posted_frame]
  rfl

/-- Posts leave the FIFOs' room as it is. -/
theorem posted_room (s : State) (c : Cmd) (t : BitVec 4) : (posted s c).room c.seqk t = s.room c.seqk t := by
  unfold posted State.room
  split
  · rw [State.modSlot_slot_self]; rfl
  · rfl

theorem written_frame (s : State) (c : Cmd) :
    written s c = { s with seqs := (written s c).seqs, cmds := s.cmds.filter fun x => x.uid != c.uid } := State.setReg_frame _ _ _ _

theorem written_slot (s : State) (c : Cmd) (j : Nat) : (written s c).slot j = s.slot j := State.setReg_slot _ _ _ _ _

theorem written_room (s : State) (c : Cmd) (t : BitVec 4) : (written s c).room c.seqk t = s.room c.seqk t := by
  rw [State.room, written_slot]
  rfl

theorem written_seq_self (s : State) (c : Cmd) :
    (written s c).seq c.seqk = { s.seq c.seqk with regs := ((written s c).seq c.seqk).regs } := State.setReg_seq_self _ _ _ _

theorem worked_frame (s : State) (c : Cmd) :
    worked s c = { s with seqs := (worked s c).seqs, slots := (worked s c).slots
                          cmds := s.cmds.filter fun x => x.uid != c.uid } := by
  unfold worked
  rw [posted_frame, pushed_frame, written_frame]

theorem worked_slot (s : State) (c : Cmd) (j : Nat) :
    (worked s c).slot j =
      if j = slotKey c.seqk then (if c.ext.post = 1 then (pushedSlot s c).post c.ext.ev.toNat 1 else pushedSlot s c)
      else s.slot j := by
  have hpushed : pushedSlot (written s c) c = pushedSlot s c := by simp only [pushedSlot, written_room, written_slot]
  rw [worked, posted_slot, pushed_slot, hpushed, written_slot]
  by_cases hj : j = slotKey c.seqk
  · simp only [hj, true_and, if_true]
  · simp only [hj, false_and, if_false]

theorem worked_seq_ne (s : State) (c : Cmd) {j : Nat} (hj : j ≠ c.seqk) : (worked s c).seq j = s.seq j := by
  rw [worked, posted_seq, pushed_seq_ne _ _ hj]
  exact State.setReg_seq_ne _ _ _ _ _ hj

/-- Of the command's stream, the registers change and the pushes that found no room. -/
theorem worked_seq_self (s : State) (c : Cmd) (ho : (s.seq c.seqk).owed = []) :
    (worked s c).seq c.seqk =
      { s.seq c.seqk with
        regs := ((written s c).seq c.seqk).regs, owed := if s.room c.seqk c.ext.t then [] else [c.ext.t] } := by
  have howed : ((written s c).seq c.seqk).owed = [] := by rw [written_seq_self, ho]
  rw [worked, posted_seq, pushed_seq_self _ _ howed, written_room, written_seq_self]

theorem worked_reg (s : State) (c : Cmd) (ho : (s.seq c.seqk).owed = []) (r : BitVec 5) :
    (worked s c).reg c.seqk r = if r = c.rd ∧ c.rd ≠ 0 then c.result else s.reg c.seqk r := by
  refine Eq.trans ?_ (State.setReg_reg { s with cmds := s.cmds.filter fun x => x.uid != c.uid } c.seqk c.rd r c.result)
  rw [State.reg, State.reg, worked_seq_self s c ho]
  rfl

/-- A FIFO that has no room for the command's pushes has none afterwards. -/
theorem worked_full (s : State) (c : Cmd) (h : s.room c.seqk c.ext.t = false) : (worked s c).room c.seqk c.ext.t = false := by
  have hpushed : pushedSlot (written s c) c = s.slot (slotKey c.seqk) := by simp [pushedSlot, written_room, h, written_slot]
  rw [worked, posted_room, State.room, pushed_slot, if_pos rfl, hpushed]
  exact h

/-! ### What is left of the stream's queues -/

/-- A stream whose queues are empty, and which owes a push only where there is no room for it, has nothing to settle. -/
theorem settle_idle (s : State) (k : Nat) (hl : (s.seq k).loads = []) (hf : (s.seq k).fences = [])
    (ho : ∀ t ∈ (s.seq k).owed, s.room k t = false) (n : Nat) : s.settle k n = s := by
  have howe : s.oweStep k = none := by
    unfold State.oweStep
    cases h : (s.seq k).owed with
    | nil => rfl
    | cons t rest => simp [ho t (by simp [h])]
  have hmark : s.markStep k = none := by simp [State.markStep, hl]
  have hfence : s.fenceStep k = none := by simp [State.fenceStep, hf]
  cases n with
  | zero => rfl
  | succ n => simp only [State.settle, howe, hmark, hfence]

theorem ovRetire_frame (s : State) (uid k : Nat) (t : BitVec 4) (ev : Option Nat) :
    s.ovRetire uid k t ev = { s with ovl := (s.ovRetire uid k t ev).ovl } := by
  unfold State.ovRetire
  dsimp only
  split <;> rfl

/-- A command's retirement, what the overlap checker remembers of it included (R293). -/
def remembered (s : State) (c : Cmd) : State :=
  (worked s c).ovRetire c.uid c.seqk c.ext.t (if c.ext.post = 1 then some c.ext.ev.toNat else none)

theorem remembered_frame (s : State) (c : Cmd) : remembered s c = { worked s c with ovl := (remembered s c).ovl } :=
  ovRetire_frame _ _ _ _ _

/-- The pushes of a command that may retire are `pushed`. -/
theorem pushes_eq {s w : State} {c : Cmd} (h : s.owesPushes c = true ∨ s.room c.seqk c.ext.t = true)
    (ho : (w.seq c.seqk).owed = []) (hr : w.room c.seqk c.ext.t = s.room c.seqk c.ext.t) :
    (if s.owesPushes c then w.pushOwe c.seqk c.ext.t else w.pushTokens c.seqk c.ext.t) = pushed w c := by
  by_cases hroom : s.room c.seqk c.ext.t = true
  · simp [pushed, State.pushOwe, ho, hr, hroom]
  · have howes := h.resolve_right hroom
    simp [pushed, State.pushOwe, State.modSeq, ho, hr, hroom, howes]

/-- A command that may retire, in a stream whose queues are empty. -/
theorem retire_eq {s : State} {c : Cmd} (h : mayRetire s c) (hl : (s.seq c.seqk).loads = []) (hf : (s.seq c.seqk).fences = [])
    (ho : (s.seq c.seqk).owed = []) : s.retire c = some (remembered s c) := by
  have hpush : s.owesPushes c = true ∨ s.room c.seqk c.ext.t = true := by
    obtain ⟨-, -, -, howes | ⟨hroom, -⟩⟩ := h
    · exact .inl howes
    · exact .inr hroom
  have hwritten : ((written s c).seq c.seqk).owed = [] := by rw [written_seq_self, ho]
  have hidle : (remembered s c).settle c.seqk 40 = remembered s c := by
    have hseq : (remembered s c).seq c.seqk = (worked s c).seq c.seqk := by rw [remembered_frame]; rfl
    rw [worked_seq_self s c ho] at hseq
    refine settle_idle _ _ ?_ ?_ (fun t ht => ?_) _
    · rw [hseq, hl]
    · rw [hseq, hf]
    · rw [hseq] at ht
      obtain ⟨hfull, rfl⟩ : s.room c.seqk c.ext.t = false ∧ t = c.ext.t := by
        split at ht
        next => simp at ht
        next hfull => exact ⟨by simpa using hfull, by simpa using ht⟩
      rw [remembered_frame]
      exact worked_full s c hfull
  rw [State.retire, if_neg ((retire_guard s c).2 h)]
  refine congrArg some (Eq.trans ?_ hidle)
  have hpushes := pushes_eq hpush hwritten (written_room s c _)
  rw [remembered, worked, posted, ← hpushes]
  rfl

theorem retire_eq_none {s : State} {c : Cmd} (h : ¬ mayRetire s c) : s.retire c = none := by
  rw [State.retire, if_pos]
  exact not_not.1 (mt (retire_guard s c).1 h)

/-! ### Stall counts and the span of a graph -/

theorem spanTo_frame (s : State) (sk : Nat) : s.spanTo sk = { s with graphs := (s.spanTo sk).graphs } := by
  unfold State.spanTo
  split <;> rfl

theorem noteStall_eq {s : State} {c : Cmd} {n m : Nat} (hsub : c.sub = none) (h1 : (s.slot (slotKey c.seqk)).mode ≠ 1)
    (h2 : (s.slot (slotKey c.seqk)).mode ≠ 2) :
    s.noteStall c n m =
      (s.spanTo (slotKey c.seqk)).modSlot (slotKey c.seqk) fun sl => { sl with cstall := BitVec.ofNat 64 (n + m * 2 ^ 32) } := by
  have hslot : (s.spanTo (slotKey c.seqk)).slot (slotKey c.seqk) = s.slot (slotKey c.seqk) := by rw [spanTo_frame]; rfl
  simp only [State.noteStall, State.recordStall, State.noteReplay, hslot, h1, h2, hsub, ne_eq, not_false_eq_true, if_true]

theorem spanTo_graphs_none {s : State} {sk : Nat} (h : s.graph (s.slot sk).graph = none) : (s.spanTo sk).graphs = s.graphs := by
  simp [State.spanTo, h]

theorem spanTo_graphs {s : State} {sk : Nat} {g : Graph} (h : s.graph (s.slot sk).graph = some g) :
    (s.spanTo sk).graphs = s.graphs.map fun x =>
      if x.id = g.id ∧ x.settled = g.settled then { g with finish := (Kv.get 0 s.cycles g.clock).toNat } else x := by
  simp only [State.spanTo, h, State.setGraph]

/-! ### The retirement -/

/-- The slot of a retiring command, but for its count of stalls. -/
def retiredSlot (s : State) (c : Cmd) : Slot :=
  if c.ext.post = 1 then (pushedSlot s c).post c.ext.ev.toNat 1 else pushedSlot s c

/-- The state after a command's retirement, but for its stall count and its graph's span. -/
def gone (s : State) (c : Cmd) : State :=
  { remembered (raised s c) { c with result := retireValue s c } with stalls := s.stalls.drop 1 }

/-- The state after a command's retirement, with a stall count of `x`. -/
def retiredCmd (s : State) (c : Cmd) (x : Word) : State :=
  ((gone s c).spanTo (slotKey c.seqk)).modSlot (slotKey c.seqk) fun sl => { sl with cstall := x }

theorem gone_frame (s : State) (c : Cmd) :
    gone s c = { s with seqs := (gone s c).seqs, slots := (gone s c).slots, cores := (raised s c).cores
                        cmds := s.cmds.filter fun x => x.uid != c.uid, ovl := (gone s c).ovl, stalls := s.stalls.drop 1 } := by
  unfold gone
  rw [remembered_frame, worked_frame, raised_frame]

theorem gone_core (s : State) (c : Cmd) (j : Nat) : (gone s c).core j = (raised s c).core j := by
  rw [gone_frame]
  rfl

theorem gone_slot (s : State) (c : Cmd) (j : Nat) :
    (gone s c).slot j = if j = slotKey c.seqk then retiredSlot s c else s.slot j := by
  have h : (gone s c).slot j = (worked (raised s c) { c with result := retireValue s c }).slot j := by
    rw [gone, remembered_frame]
    rfl
  rw [h, worked_slot, raised_frame]
  rfl

theorem gone_seq (s : State) (c : Cmd) (j : Nat) :
    (gone s c).seq j = (worked (raised s c) { c with result := retireValue s c }).seq j := by
  rw [gone, remembered_frame]
  rfl

theorem gone_seq_ne (s : State) (c : Cmd) {j : Nat} (hj : j ≠ c.seqk) : (gone s c).seq j = s.seq j := by
  rw [gone_seq, worked_seq_ne _ { c with result := retireValue s c } hj, raised_frame]
  rfl

theorem gone_seq_self (s : State) (c : Cmd) (ho : (s.seq c.seqk).owed = []) :
    (gone s c).seq c.seqk =
      { s.seq c.seqk with
        regs := ((gone s c).seq c.seqk).regs, owed := if s.room c.seqk c.ext.t then [] else [c.ext.t] } := by
  have ho' : ((raised s c).seq c.seqk).owed = [] := by rw [raised_frame]; exact ho
  have h := (gone_seq s c c.seqk).trans (worked_seq_self (raised s c) { c with result := retireValue s c } ho')
  rw [h, raised_frame]
  rfl

theorem gone_reg (s : State) (c : Cmd) (ho : (s.seq c.seqk).owed = []) (r : BitVec 5) :
    (gone s c).reg c.seqk r = if r = c.rd ∧ c.rd ≠ 0 then retireValue s c else s.reg c.seqk r := by
  have ho' : ((raised s c).seq c.seqk).owed = [] := by rw [raised_frame]; exact ho
  have h : (gone s c).reg c.seqk r = (worked (raised s c) { c with result := retireValue s c }).reg c.seqk r := by
    rw [State.reg, State.reg, gone_seq]
  rw [h, worked_reg _ { c with result := retireValue s c } ho', raised_frame]
  rfl

/-- A stall count and the span of a graph leave the sequencers alone. -/
theorem retiredCmd_seq (s : State) (c : Cmd) (x : Word) (j : Nat) : (retiredCmd s c x).seq j = (gone s c).seq j := by
  rw [retiredCmd, spanTo_frame]
  rfl

theorem retiredCmd_reg (s : State) (c : Cmd) (x : Word) (k : Nat) (r : BitVec 5) :
    (retiredCmd s c x).reg k r = (gone s c).reg k r := by
  rw [State.reg, State.reg, retiredCmd_seq]

theorem retiredCmd_core (s : State) (c : Cmd) (x : Word) (j : Nat) : (retiredCmd s c x).core j = (gone s c).core j := by
  rw [retiredCmd, spanTo_frame]
  rfl

theorem retiredCmd_graphs (s : State) (c : Cmd) (x : Word) :
    (retiredCmd s c x).graphs = ((gone s c).spanTo (slotKey c.seqk)).graphs := rfl

theorem retiredCmd_slot (s : State) (c : Cmd) (x : Word) (j : Nat) :
    (retiredCmd s c x).slot j = if j = slotKey c.seqk then { retiredSlot s c with cstall := x } else s.slot j := by
  have hspan : ((gone s c).spanTo (slotKey c.seqk)).slot j = (gone s c).slot j := by rw [spanTo_frame]; rfl
  by_cases hj : j = slotKey c.seqk
  · subst hj
    rw [retiredCmd, State.modSlot_slot_self, hspan, gone_slot, if_pos rfl, if_pos rfl]
  · rw [retiredCmd, State.modSlot_slot_ne _ _ _ _ hj, hspan, gone_slot, if_neg hj, if_neg hj]

theorem retiredCmd_frame (s : State) (c : Cmd) (x : Word) :
    let u := retiredCmd s c x
    u = { s with seqs := u.seqs, slots := u.slots, cores := u.cores, cmds := s.cmds.filter fun x => x.uid != c.uid
                 ovl := u.ovl, stalls := s.stalls.drop 1, graphs := u.graphs } := by
  intro u
  simp only [u, retiredCmd]
  rw [spanTo_frame, gone_frame]
  rfl

/-- Neither pushes nor a post change what kind of graph task a slot holds. -/
theorem retiredSlot_graph (s : State) (c : Cmd) :
    (retiredSlot s c).graph = (s.slot (slotKey c.seqk)).graph ∧ (retiredSlot s c).mode = (s.slot (slotKey c.seqk)).mode := by
  have h : (pushedSlot s c).graph = (s.slot (slotKey c.seqk)).graph ∧ (pushedSlot s c).mode = (s.slot (slotKey c.seqk)).mode := by
    unfold pushedSlot
    split
    · rw [push_frame]; exact ⟨rfl, rfl⟩
    · exact ⟨rfl, rfl⟩
  unfold retiredSlot
  split <;> exact h

theorem gone_graph (s : State) (c : Cmd) :
    (gone s c).graph ((gone s c).slot (slotKey c.seqk)).graph = s.graph (s.slot (slotKey c.seqk)).graph := by
  rw [gone_slot, if_pos rfl, (retiredSlot_graph s c).1, gone_frame]
  rfl

/-- A command that may retire, outside recordings, replays and the forcer, retires. -/
theorem retireCmd_eq {s : State} {c : Cmd} (h : mayRetire s c) (hi1 : c.inj ≠ 1) (hi3 : c.inj ≠ 3) (hsub : c.sub = none)
    (h1 : (s.slot (slotKey c.seqk)).mode ≠ 1) (h2 : (s.slot (slotKey c.seqk)).mode ≠ 2) (hl : (s.seq c.seqk).loads = [])
    (hf : (s.seq c.seqk).fences = []) (ho : (s.seq c.seqk).owed = []) : ∃ x, s.retireCmd c = some (retiredCmd s c x) := by
  have hseq : (raised s c).seq c.seqk = s.seq c.seqk := by rw [raised_frame]; rfl
  have hret : (raised s c).retire { c with result := retireValue s c } =
      some (remembered (raised s c) { c with result := retireValue s c }) :=
    retire_eq ((mayRetire_raised s c _).2 h) (by rw [hseq, hl]) (by rw [hseq, hf]) (by rw [hseq, ho])
  have hstalls : (remembered (raised s c) { c with result := retireValue s c }).stalls = s.stalls := by
    rw [remembered_frame, worked_frame, raised_frame]
  have hmode : ((gone s c).slot (slotKey c.seqk)).mode = (s.slot (slotKey c.seqk)).mode := by
    rw [gone_slot, if_pos rfl, (retiredSlot_graph s c).2]
  simp only [State.retireCmd, hi1, hi3, or_self, if_false, risen_eq, hret, hstalls]
  exact ⟨_, congrArg some (noteStall_eq (s := gone s c) hsub (hmode ▸ h1) (hmode ▸ h2))⟩

theorem retireCmd_eq_none {s : State} {c : Cmd} (h : ¬ mayRetire s c) : s.retireCmd c = none := by
  have hret := retire_eq_none (mt (mayRetire_raised s c (retireValue s c)).1 h)
  simp only [State.retireCmd, risen_eq, hret, ite_self]

theorem exec_commandRetire {s : State} {c : Cmd} (h : s.cmd c.uid = some c) :
    exec (.commandRetire c.uid) s = .next ((s.retireCmd c).getD s) := by
  change execCommandRetire c.uid s = _
  rw [execCommandRetire, h]
  cases hr : s.retireCmd c <;> simp [hr]

/-- `mayRetire` in the words of the statement. -/
theorem mayRetire_iff (s : State) (c : Cmd) :
    mayRetire s c ↔ c.phase = .done ∧ s.behindInQueue c = false ∧ (∀ u ∈ s.unacked, u.1 ≠ c.uid) ∧
      (((s.slot (slotKey c.seqk)).stopping ≠ none ∧ runsToEnd c.ins = true) ∨
        (s.slot (slotKey c.seqk)).pushOk (roleOf c.seqk) c.ext.t = true ∧ s.pushTurn c = true) := by
  simp only [mayRetire, State.owesPushes, State.room, Bool.and_eq_true, Option.isSome_iff_ne_none]

/-- Settles O32: by the parts of a retirement, each with what it changes. -/
theorem commandsRetireInOrderWithTheirPushes : Obligations.CommandsRetireInOrderWithTheirPushes := by
  unfold Obligations.CommandsRetireInOrderWithTheirPushes
  intro s c hc k sk p owes room base may bank risen
  refine ⟨fun hmay hi1 hi3 hsub h1 h2 hl _ hf ho => ?retires, fun hmay => ?waits⟩
  case waits =>
    rw [exec_commandRetire hc, retireCmd_eq_none fun h => hmay ((mayRetire_iff s c).1 h), Option.getD_none]
  case retires =>
    obtain ⟨x, hx⟩ := retireCmd_eq ((mayRetire_iff s c).2 hmay) hi1 hi3 hsub h1 h2 hl hf ho
    refine ⟨retiredCmd s c x, by rw [exec_commandRetire hc, hx, Option.getD_some], retiredCmd_frame s c x,
      fun hg => ?nograph, fun g hg => ?graph, fun r => ?reg, fun j => ?core, ?seq, fun j hj => ?other, fun j => ?slot⟩
    case nograph =>
      rw [retiredCmd_graphs, spanTo_graphs_none ((gone_graph s c).trans hg), gone_frame]
    case graph =>
      rw [retiredCmd_graphs, spanTo_graphs ((gone_graph s c).trans hg), gone_frame]
    case reg => exact (retiredCmd_reg s c x k r).trans (gone_reg s c ho r)
    case core =>
      rw [retiredCmd_core, gone_core, raised_core, raiseGen_eq]
      split
      next h => obtain ⟨rfl, -⟩ := h; rfl
      next => rfl
    case seq =>
      rw [retiredCmd_seq]
      exact gone_seq_self s c ho
    case other => rw [retiredCmd_seq, gone_seq_ne s c hj]
    case slot =>
      have hstall : ((retiredCmd s c x).slot sk).cstall = x := by rw [retiredCmd_slot, if_pos rfl]
      rw [hstall]
      exact retiredCmd_slot s c x j

end Sys2Proof.Claims
end

section
/-! SUPPORT. A write of THA while a handle is live (R269, R271), and the refutation of O44: no record that a slot being killed
takes governs its fate (R351, R358). -/

namespace Sys2Proof.Claims
open Sys2Proof.Machine

/-- A write of THA while a handle of the slot is live is a precise trap (R269). -/
theorem exec_thaWrite_live {s : State} (h : s.liveHandles (slotKey s.cur) ≠ []) (v : BitVec 64) :
    exec (.thaWrite v) s = .next (s.trapAt s.cur 6 6 0 5) := by
  change writeStep (s.writeTha s.cur v) = _
  rw [State.writeTha, if_neg (by simpa using h)]
  rfl

/-- A slot that is being killed goes on being killed: a trap in it does not begin a fault stop. -/
theorem trapAt_stopping_of_killed {s : State} {k : Nat} (h : (s.slot (slotKey k)).stopping = some ⟨killReason⟩)
    (code engine addr status : Nat) :
    ((s.trapAt k code engine addr status).slot (slotKey k)).stopping = some ⟨killReason⟩ := by
  have hgov : (s.slot (slotKey k)).governs = false := by simp [Slot.governs, h]
  rw [State.trapAt_slot_self, hgov]
  exact h

/-- A task that is being killed, with an arena of 64 KiB at 0x10000 whose directory names one live handle. -/
def killedWithHandle : State :=
  { State.reset with
    cur := 1
    slots := [(0, { Slot.init 0 with
      busy := true, stopping := some ⟨killReason⟩, tha := 0x4000010000, swin := [(0, 0x4200010000)] })]
    scratch := Mem.write [] 0x10000 (leBytes 16 (2 ^ 126)) }

theorem killedWithHandle_live : killedWithHandle.liveHandles (slotKey killedWithHandle.cur) ≠ [] := by decide +kernel

/-- Refutes O44: in a slot that is being killed, the trap of a write to THA under a live handle begins no fault stop, where
`Trapped` has the first record of every slot begin one. The clause asks nothing of the slot; for one that does not stop,
`trapped_trapAt` gives it. -/
theorem not_specialRegisterWriteEvents : ¬ Obligations.SpecialRegisterWriteEvents := by
  unfold Obligations.SpecialRegisterWriteEvents
  intro h
  obtain ⟨-, -, -, -, -, hlive⟩ := h.2 killedWithHandle 0 false
  obtain ⟨u, hu, r, -, -, -, -, hmine, -⟩ := hlive killedWithHandle_live
  rw [exec_thaWrite_live killedWithHandle_live] at hu
  cases hu
  have hstops : (mine (killedWithHandle.trapAt killedWithHandle.cur 6 6 0 5)).stopping = some ⟨3⟩ := by rw [hmine]; rfl
  exact absurd ((trapAt_stopping_of_killed rfl 6 6 0 5).symm.trans hstops) (by decide)

end Sys2Proof.Claims
end

section
/-! SUPPORT. Finite exact values as rational numbers: the operations on them are those of the rational numbers (R63, R64, R178). -/

namespace Sys2Proof.Claims
open Sys2Proof.Machine

/-! ### The number of a finite value -/

/-- The number (-1)^n × m × 2^e. -/
def ratOf (n : Bool) (m : Nat) (e : ℤ) : ℚ := (if n then -1 else 1) * (m : ℚ) * (2 : ℚ) ^ e

/-- What stands for a number is a sign, a mantissa and an exponent of it. -/
theorem Is.exists_num {x : FVal} {q : ℚ} (h : Is x q) : ∃ n m e, x = .num n m e ∧ q = ratOf n m e := h

theorem is_num (n : Bool) (m : Nat) (e : ℤ) : Is (.num n m e) (ratOf n m e) := ⟨n, m, e, rfl, rfl⟩

@[simp] theorem is_num_iff {n : Bool} {m : Nat} {e : ℤ} {q : ℚ} : Is (.num n m e) q ↔ q = ratOf n m e := by
  refine ⟨fun ⟨n', m', e', h, hq⟩ => ?_, fun h => h ▸ is_num n m e⟩
  cases h
  exact hq

@[simp] theorem not_is_nan (q : ℚ) : ¬ Is .nan q := fun ⟨_, _, _, h, _⟩ => by cases h
@[simp] theorem not_is_inf (n : Bool) (q : ℚ) : ¬ Is (.inf n) q := fun ⟨_, _, _, h, _⟩ => by cases h

theorem ratOf_false (m : Nat) (e : ℤ) : ratOf false m e = m * 2 ^ e := by simp [ratOf]

@[simp] theorem ratOf_zero (n : Bool) (e : ℤ) : ratOf n 0 e = 0 := by simp [ratOf]

theorem two_zpow_pos (e : ℤ) : (0 : ℚ) < 2 ^ e := zpow_pos two_pos e

theorem abs_ratOf (n : Bool) (m : Nat) (e : ℤ) : |ratOf n m e| = m * 2 ^ e := by
  cases n <;> simp [ratOf, abs_mul, abs_of_pos (two_zpow_pos e)]

@[simp] theorem ratOf_eq_zero {n : Bool} {m : Nat} {e : ℤ} : ratOf n m e = 0 ↔ m = 0 := by
  rw [← abs_eq_zero, abs_ratOf]
  simp [(two_zpow_pos e).ne']

theorem ratOf_pos {n : Bool} {m : Nat} {e : ℤ} : 0 < ratOf n m e ↔ n = false ∧ m ≠ 0 := by
  cases n <;> simp [ratOf, two_zpow_pos, Nat.pos_iff_ne_zero]

theorem ratOf_neg (n : Bool) (m : Nat) (e : ℤ) : ratOf (!n) m e = -ratOf n m e := by
  cases n <;> simp [ratOf]

theorem ratOf_mul (n n' : Bool) (m m' : Nat) (e e' : ℤ) :
    ratOf (n != n') (m * m') (e + e') = ratOf n m e * ratOf n' m' e' := by
  have hpow : (2 : ℚ) ^ (e + e') = 2 ^ e * 2 ^ e' := zpow_add₀ two_ne_zero e e'
  cases n <;> cases n' <;> simp [ratOf, hpow] <;> ring

/-- Powers of two with an exponent that is no less than another differ by a power with a natural exponent. -/
theorem two_zpow_eq {e q : ℤ} (h : q ≤ e) : (2 : ℚ) ^ e = 2 ^ (e - q).toNat * 2 ^ q := by
  rw [← zpow_natCast, Int.toNat_of_nonneg (by omega), ← zpow_add₀ two_ne_zero, sub_add_cancel]

/-- A value at a lower exponent is the same number. -/
theorem scaled_mul (n : Bool) (m : Nat) {e q : ℤ} (h : q ≤ e) : (scaled n m e q : ℚ) * 2 ^ q = ratOf n m e := by
  rw [ratOf, two_zpow_eq h]
  cases n <;> simp [scaled] <;> ring

theorem ofInt_is (i e : ℤ) (z : Bool) : Is (ofInt i e z) (i * 2 ^ e) := by
  unfold ofInt
  split
  next h => simp [h]
  next h =>
    rcases lt_or_gt_of_ne h with hi | hi
    · simp [ratOf, hi, Nat.cast_natAbs, abs_of_neg hi]
    · simp [ratOf, hi.not_gt, Nat.cast_natAbs, abs_of_pos hi]

/-! ### Sums, differences and products -/

theorem neg_is {x : FVal} {p : ℚ} (h : Is x p) : Is x.neg (-p) := by
  obtain ⟨n, m, e, rfl, rfl⟩ := h.exists_num
  exact is_num_iff.2 (ratOf_neg n m e).symm

theorem add_is {x y : FVal} {p q : ℚ} (hx : Is x p) (hy : Is y q) : Is (x.add y) (p + q) := by
  obtain ⟨n, m, e, rfl, rfl⟩ := hx.exists_num
  obtain ⟨n', m', e', rfl, rfl⟩ := hy.exists_num
  simp only [FVal.add]
  split
  next h => simp [h.1, h.2]
  split
  next h => simp [h]
  split
  next h => simp [h]
  next =>
    have hsum := ofInt_is (scaled n m e (min e e') + scaled n' m' e' (min e e')) (min e e') false
    rwa [Int.cast_add, add_mul, scaled_mul n m (min_le_left e e'), scaled_mul n' m' (min_le_right e e')] at hsum

theorem sub_is {x y : FVal} {p q : ℚ} (hx : Is x p) (hy : Is y q) : Is (x.sub y) (p - q) :=
  sub_eq_add_neg p q ▸ add_is hx (neg_is hy)

theorem mul_is {x y : FVal} {p q : ℚ} (hx : Is x p) (hy : Is y q) : Is (x.mul y) (p * q) := by
  obtain ⟨n, m, e, rfl, rfl⟩ := hx.exists_num
  obtain ⟨n', m', e', rfl, rfl⟩ := hy.exists_num
  simp only [FVal.mul]
  split
  next h => rcases h with rfl | rfl <;> simp
  next => exact is_num_iff.2 (ratOf_mul n n' m m' e e').symm

/-! ### Comparisons, minimum and maximum -/

theorem lt_is {x y : FVal} {p q : ℚ} (hx : Is x p) (hy : Is y q) : x.lt y = true ↔ p < q := by
  obtain ⟨n, m, e, rfl, rfl⟩ := hx.exists_num
  obtain ⟨n', m', e', rfl, rfl⟩ := hy.exists_num
  rw [← scaled_mul n m (min_le_left e e'), ← scaled_mul n' m' (min_le_right e e'),
    mul_lt_mul_iff_of_pos_right (two_zpow_pos _), Int.cast_lt]
  simp [FVal.lt]

theorem eq_is {x y : FVal} {p q : ℚ} (hx : Is x p) (hy : Is y q) : x.eq y = true ↔ p = q := by
  obtain ⟨n, m, e, rfl, rfl⟩ := hx.exists_num
  obtain ⟨n', m', e', rfl, rfl⟩ := hy.exists_num
  rw [← scaled_mul n m (min_le_left e e'), ← scaled_mul n' m' (min_le_right e e'),
    mul_left_inj' (two_zpow_pos _).ne', Int.cast_inj]
  simp [FVal.eq]

theorem le_is {x y : FVal} {p q : ℚ} (hx : Is x p) (hy : Is y q) : x.le y = true ↔ p ≤ q := by
  rw [FVal.le, Bool.or_eq_true, lt_is hx hy, eq_is hx hy, le_iff_lt_or_eq]

/-- The sign bit of a finite value: a negative number has it, a positive one has not, and a zero may have it. -/
theorem isNeg_is {x : FVal} {p : ℚ} (hx : Is x p) : if x.isNeg then p ≤ 0 else 0 ≤ p := by
  obtain ⟨n, m, e, rfl, rfl⟩ := hx.exists_num
  have := mul_nonneg (Nat.cast_nonneg (α := ℚ) m) (two_zpow_pos e).le
  cases n <;> simp [FVal.isNeg, ratOf] <;> linarith

theorem abs_is {x : FVal} {p : ℚ} (hx : Is x p) : Is x.abs |p| := by
  have hsign := isNeg_is hx
  unfold FVal.abs
  split
  next h =>
    rw [if_pos h] at hsign
    exact abs_of_nonpos hsign ▸ neg_is hx
  next h =>
    rw [if_neg h] at hsign
    exact (abs_of_nonneg hsign).symm ▸ hx

/-- The minimum of two finite values is the first when it is less, the second when that is less, and of equal values either. -/
theorem min_is {x y : FVal} {p q : ℚ} (hx : Is x p) (hy : Is y q) : Is (x.min y) (min p q) := by
  have hmin : x.min y = if x.lt y then x else if y.lt x then y else if x.isNeg then x else y := by
    obtain ⟨n, m, e, rfl, -⟩ := hx.exists_num
    obtain ⟨n', m', e', rfl, -⟩ := hy.exists_num
    rfl
  simp only [hmin, lt_is hx hy, lt_is hy hx]
  split
  next h => rwa [min_eq_left h.le]
  split
  next h => rwa [min_eq_right h.le]
  next h1 h2 =>
    obtain rfl : p = q := le_antisymm (not_lt.1 h2) (not_lt.1 h1)
    rw [min_self]
    split <;> assumption

theorem max_is {x y : FVal} {p q : ℚ} (hx : Is x p) (hy : Is y q) : Is (x.max y) (max p q) := by
  have hmax : x.max y = if x.lt y then y else if y.lt x then x else if x.isNeg then y else x := by
    obtain ⟨n, m, e, rfl, -⟩ := hx.exists_num
    obtain ⟨n', m', e', rfl, -⟩ := hy.exists_num
    rfl
  simp only [hmax, lt_is hx hy, lt_is hy hx]
  split
  next h => rwa [max_eq_right h.le]
  split
  next h => rwa [max_eq_left h.le]
  next h1 h2 =>
    obtain rfl : p = q := le_antisymm (not_lt.1 h2) (not_lt.1 h1)
    rw [max_self]
    split <;> assumption

end Sys2Proof.Claims
end

section
/-! SUPPORT. Quotients, roots, powers of two and logarithms of finite exact values (R178, R214). -/

namespace Sys2Proof.Claims
open Sys2Proof.Machine

/-! ### Results whose last bit says whether they are exact -/

/-- A number of units rounded down to `r`, doubled, with its last bit set where that is not exact. -/
theorem sticky_of_floor {f g : ℚ → ℚ} {neg : Bool} {r : Nat} {e : ℤ} (exact : Prop) [Decidable exact] (hr : 2 ^ 49 ≤ r)
    (hfg : ∀ x : ℚ, f (2 * x * 2 ^ e) = g x) (heq : exact → g r = 1) (hne : ¬ exact → g r < 1 ∧ 1 < g (r + 1)) :
    Sticky neg (.num neg (2 * r + if exact then 0 else 1) e) f := by
  refine ⟨_, e, rfl, by omega, ?_⟩
  by_cases h : exact
  · simp [h, hfg, heq]
  · have hsucc : (2 * (r : ℚ) + 1 + 1) = 2 * (r + 1) := by ring
    simp [h, Nat.add_mod, hsucc, hfg, hne]

/-! ### Quotients -/

/-- Dividing a number scaled by 2^k, k being 72 above the divisor's leading bit, leaves more than 50 bits. -/
theorem scaled_div_large {m m' : Nat} (hm : m ≠ 0) (hm' : m' ≠ 0) : 2 ^ 49 ≤ m * 2 ^ (Nat.log2 m' + 72) / m' := by
  have hlog : m' < 2 ^ (Nat.log2 m' + 1) := Nat.lt_log2_self
  rw [Nat.le_div_iff_mul_le (Nat.pos_of_ne_zero hm')]
  calc 2 ^ 49 * m' ≤ 2 ^ 71 * 2 ^ (Nat.log2 m' + 1) := Nat.mul_le_mul (by norm_num) hlog.le
    _ = 2 ^ (Nat.log2 m' + 72) := by ring
    _ ≤ m * 2 ^ (Nat.log2 m' + 72) := Nat.le_mul_of_pos_left _ (Nat.pos_of_ne_zero hm)

theorem div_num {n n' : Bool} {m m' k : Nat} (e e' : ℤ) (hm : m ≠ 0) (hm' : m' ≠ 0) (hk : k = Nat.log2 m' + 72) :
    (FVal.num n m e).div (.num n' m' e') =
      .num (n != n') (2 * (m * 2 ^ k / m') + (if m * 2 ^ k % m' = 0 then 0 else 1)) (e - e' - k - 1) := by
  simp only [FVal.div, if_neg hm, if_neg hm', hk]

theorem div_sticky {n n' : Bool} {m m' : Nat} (e e' : ℤ) (hm : m ≠ 0) (hm' : m' ≠ 0) :
    Sticky (n != n') ((FVal.num n m e).div (.num n' m' e')) fun z => z * |ratOf n' m' e'| / |ratOf n m e| := by
  obtain ⟨k, hk⟩ : ∃ k, k = Nat.log2 m' + 72 := ⟨_, rfl⟩
  rw [div_num e e' hm hm' hk]
  have hlarge : 2 ^ 49 ≤ m * 2 ^ k / m' := hk ▸ scaled_div_large hm hm'
  have hm0 : (0 : ℚ) < m := by positivity
  have ht : (0 : ℚ) < m * 2 ^ k := by positivity
  have hmod := Nat.div_add_mod (m * 2 ^ k) m'
  refine sticky_of_floor (g := fun x => m' * x / (m * 2 ^ k)) _ hlarge (fun x => ?units) (fun h => ?exact) fun h => ?between
  case units =>
    have hexp : (2 : ℚ) ^ e = 2 ^ (e - e' - k - 1) * 2 ^ e' * 2 ^ k * 2 := by
      rw [← zpow_natCast 2 k, ← zpow_add₀ two_ne_zero, ← zpow_add₀ two_ne_zero, ← zpow_add_one₀ two_ne_zero]
      congr 1; ring
    have := (two_zpow_pos (e - e' - k - 1)).ne'
    have := (two_zpow_pos e').ne'
    rw [abs_ratOf, abs_ratOf, hexp]
    field_simp
  case exact =>
    rw [h, add_zero] at hmod
    rw [div_eq_one_iff_eq ht.ne']
    exact_mod_cast hmod
  case between =>
    have hlt := Nat.mod_lt (m * 2 ^ k) (Nat.pos_of_ne_zero hm')
    rw [div_lt_one ht, one_lt_div ht]
    constructor
    · have : m' * (m * 2 ^ k / m') < m * 2 ^ k := by omega
      exact_mod_cast this
    · have : m * 2 ^ k < m' * (m * 2 ^ k / m' + 1) := by rw [Nat.mul_succ]; omega
      exact_mod_cast this

theorem div_zero_is {x y : FVal} {q : ℚ} (hx : Is x 0) (hy : Is y q) (hq : q ≠ 0) : Is (x.div y) 0 := by
  obtain ⟨n, m, e, rfl, hm⟩ := hx.exists_num
  obtain ⟨n', m', e', rfl, rfl⟩ := hy.exists_num
  obtain rfl : m = 0 := ratOf_eq_zero.1 hm.symm
  have hm' : m' ≠ 0 := mt ratOf_eq_zero.2 hq
  simp [FVal.div, hm']

/-! ### Roots -/

/-- The root found bit by bit is the root rounded down. -/
theorem isqrt_floor (x : Nat) : ∀ n r, r * r ≤ x → x < (r + 2 ^ n) * (r + 2 ^ n) →
    isqrt x n r * isqrt x n r ≤ x ∧ x < (isqrt x n r + 1) * (isqrt x n r + 1)
  | 0, r, hle, hlt => ⟨hle, hlt⟩
  | n + 1, r, hle, hlt => by
    rw [isqrt]
    split
    next h => exact isqrt_floor x n _ h (by rwa [Nat.add_assoc, ← Nat.two_mul, ← Nat.pow_succ'])
    next h => exact isqrt_floor x n r hle (not_le.1 h)

/-- The root of a number, rounded down. -/
def floorRoot (t : Nat) : Nat := isqrt t (Nat.log2 t / 2 + 1) 0

theorem floorRoot_spec (t : Nat) : floorRoot t * floorRoot t ≤ t ∧ t < (floorRoot t + 1) * (floorRoot t + 1) := by
  refine isqrt_floor t _ 0 (Nat.zero_le t) ?_
  calc t < 2 ^ (Nat.log2 t + 1) := Nat.lt_log2_self
    _ ≤ 2 ^ (Nat.log2 t / 2 + 1 + (Nat.log2 t / 2 + 1)) := Nat.pow_le_pow_right two_pos (by omega)
    _ = _ := by rw [Nat.pow_add, Nat.zero_add]

theorem floorRoot_large {t : Nat} (h : 2 ^ 98 ≤ t) : 2 ^ 49 ≤ floorRoot t := by
  by_contra hlt
  have hle := Nat.mul_self_le_mul_self (show floorRoot t + 1 ≤ 2 ^ 49 by omega)
  have := (floorRoot_spec t).2
  omega

theorem sqrt_num {m k : Nat} {e : ℤ} (hm : m ≠ 0) (hk : k = 100 + (e % 2).toNat) :
    (FVal.num false m e).sqrt =
      .num false (2 * floorRoot (m * 2 ^ k) + (if floorRoot (m * 2 ^ k) * floorRoot (m * 2 ^ k) = m * 2 ^ k then 0 else 1))
        ((e - k) / 2 - 1) := by
  simp only [FVal.sqrt, floorRoot, if_neg hm, Bool.false_eq_true, if_false, hk]

theorem sqrt_sticky {m : Nat} (e : ℤ) (hm : m ≠ 0) :
    Sticky false (FVal.num false m e).sqrt fun z => z ^ 2 / ratOf false m e := by
  obtain ⟨k, hk⟩ : ∃ k, k = 100 + (e % 2).toNat := ⟨_, rfl⟩
  rw [sqrt_num hm hk]
  obtain ⟨hle, hlt⟩ := floorRoot_spec (m * 2 ^ k)
  have hlarge : 2 ^ 98 ≤ m * 2 ^ k :=
    (Nat.pow_le_pow_right two_pos (by omega)).trans (Nat.le_mul_of_pos_left _ (Nat.pos_of_ne_zero hm))
  have ht : (0 : ℚ) < m * 2 ^ k := by positivity
  refine sticky_of_floor (g := fun x => x * x / (m * 2 ^ k)) _ (floorRoot_large hlarge) (fun x => ?units) (fun h => ?exact)
    fun h => ?between
  case units =>
    have hexp : (2 : ℚ) ^ e = 2 ^ ((e - k) / 2 - 1) * 2 ^ ((e - k) / 2 - 1) * 2 ^ k * 2 * 2 := by
      rw [← zpow_natCast 2 k, ← zpow_add₀ two_ne_zero, ← zpow_add₀ two_ne_zero, ← zpow_add_one₀ two_ne_zero,
        ← zpow_add_one₀ two_ne_zero]
      congr 1; omega
    have := (two_zpow_pos ((e - k) / 2 - 1)).ne'
    rw [ratOf_false, hexp]
    field_simp
  case exact =>
    rw [div_eq_one_iff_eq ht.ne']
    exact_mod_cast h
  case between =>
    rw [div_lt_one ht, one_lt_div ht]
    exact ⟨by exact_mod_cast lt_of_le_of_ne hle h, by exact_mod_cast hlt⟩

/-- The reciprocal root of m × 2^e for an even exponent e, with k bits below its point. -/
def evenRsqrt (m k : Nat) (e : ℤ) : FVal :=
  let r := floorRoot (2 ^ (2 * k) / m)
  .num false (2 * r + if r * r * m = 2 ^ (2 * k) then 0 else 1) (-(k : ℤ) - e / 2 - 1)

/-- The reciprocal root is formed of the mantissa with an even exponent. -/
theorem rsqrt_num {m : Nat} (e : ℤ) (hm : m ≠ 0) :
    (FVal.num false m e).rsqrt =
      if e % 2 = 0 then evenRsqrt m (120 + Nat.log2 m) e else evenRsqrt (2 * m) (120 + Nat.log2 (2 * m)) (e - 1) := by
  simp only [FVal.rsqrt, if_neg hm, Bool.false_eq_true, if_false]
  by_cases he : e % 2 = 0
  · simp only [if_pos he]; rfl
  · simp only [if_neg he]; rfl

theorem evenRsqrt_sticky {m k : Nat} {e : ℤ} (hm : m ≠ 0) (he : e % 2 = 0) (hk : k = 120 + Nat.log2 m) :
    Sticky false (evenRsqrt m k e) fun z => z ^ 2 * ratOf false m e := by
  obtain ⟨hle, hlt⟩ := floorRoot_spec (2 ^ (2 * k) / m)
  have hlarge : 2 ^ 98 ≤ 2 ^ (2 * k) / m := by
    rw [Nat.le_div_iff_mul_le (Nat.pos_of_ne_zero hm)]
    calc 2 ^ 98 * m ≤ 2 ^ 98 * 2 ^ (Nat.log2 m + 1) := Nat.mul_le_mul_left _ Nat.lt_log2_self.le
      _ = 2 ^ (98 + (Nat.log2 m + 1)) := (Nat.pow_add _ _ _).symm
      _ ≤ 2 ^ (2 * k) := Nat.pow_le_pow_right two_pos (by omega)
  have ht : (0 : ℚ) < 2 ^ (2 * k) := by positivity
  refine sticky_of_floor (g := fun x => x * x * m / 2 ^ (2 * k)) _ (floorRoot_large hlarge) (fun x => ?units) (fun h => ?exact)
    fun h => ?between
  case units =>
    have hexp : (2 : ℚ) ^ (2 * k) * (2 ^ (-(k : ℤ) - e / 2 - 1) * 2 ^ (-(k : ℤ) - e / 2 - 1)) * 2 ^ e * 2 * 2 = 1 := by
      rw [← zpow_natCast 2 (2 * k), ← zpow_add₀ two_ne_zero, ← zpow_add₀ two_ne_zero, ← zpow_add₀ two_ne_zero,
        ← zpow_add_one₀ two_ne_zero, ← zpow_add_one₀ two_ne_zero, ← zpow_zero (2 : ℚ)]
      congr 1; push_cast; omega
    rw [ratOf_false, eq_div_iff ht.ne']
    linear_combination x ^ 2 * m * hexp
  case exact =>
    rw [div_eq_one_iff_eq ht.ne']
    exact_mod_cast h
  case between =>
    have hmod := Nat.div_mul_le_self (2 ^ (2 * k)) m
    have hbelow := (Nat.mul_le_mul_right m hle).trans hmod
    have habove : 2 ^ (2 * k) < (floorRoot (2 ^ (2 * k) / m) + 1) * (floorRoot (2 ^ (2 * k) / m) + 1) * m :=
      (Nat.div_lt_iff_lt_mul (Nat.pos_of_ne_zero hm)).1 hlt
    rw [div_lt_one ht, one_lt_div ht]
    exact ⟨by exact_mod_cast lt_of_le_of_ne hbelow h, by exact_mod_cast habove⟩

theorem rsqrt_sticky {m : Nat} (e : ℤ) (hm : m ≠ 0) :
    Sticky false (FVal.num false m e).rsqrt fun z => z ^ 2 * ratOf false m e := by
  rw [rsqrt_num e hm]
  split
  next he => exact evenRsqrt_sticky hm he rfl
  next he =>
    have hrat : ratOf false m e = ratOf false (2 * m) (e - 1) := by
      rw [ratOf_false, ratOf_false, zpow_sub_one₀ two_ne_zero]
      push_cast
      ring
    rw [hrat]
    exact evenRsqrt_sticky (by omega) (by omega) rfl

/-! ### Powers of two and logarithms -/

@[simp] theorem ratOf_one (e : ℤ) : ratOf false 1 e = 2 ^ e := by simp [ratOf]

/-- The leading bit of a mantissa is no more than its number. -/
theorem leading_le {m : Nat} (hm : m ≠ 0) (n : Bool) (e : ℤ) : (2 : ℚ) ^ ((Nat.log2 m : ℤ) + e) ≤ |ratOf n m e| := by
  rw [abs_ratOf, zpow_add₀ two_ne_zero, zpow_natCast]
  have hle : ((2 ^ Nat.log2 m : Nat) : ℚ) ≤ m := Nat.cast_le.2 (Nat.log2_self_le hm)
  push_cast at hle
  gcongr

theorem exp2_is {x : FVal} {k : ℤ} (hx : Is x k) (hlo : -256 < k) (hhi : k < 256) : Is x.exp2 (2 ^ k) := by
  obtain ⟨n, m, e, rfl, hk⟩ := hx.exists_num
  simp only [FVal.exp2]
  split
  next hm =>
    rw [hm, ratOf_zero, Int.cast_eq_zero] at hk
    simp [hk]
  next hm =>
  split
  next hbig =>
    have hle : (2 : ℚ) ^ (8 : ℤ) ≤ |(k : ℚ)| :=
      (zpow_le_zpow_right₀ one_le_two hbig).trans (hk ▸ leading_le hm n e)
    have hlt : |(k : ℚ)| < 256 := by exact_mod_cast abs_lt.2 ⟨hlo, hhi⟩
    norm_num at hle
    linarith
  next =>
  split
  next he => -- a whole number
    have hscaled : scaled n m e 0 = k := by
      have := scaled_mul n m he
      rw [zpow_zero, mul_one, ← hk] at this
      exact_mod_cast this
    simp [hscaled]
  next he => -- a number with a point, whose part below it is zero
    set den : Nat := 2 ^ (-e).toNat with hden
    have hden0 : (den : ℤ) ≠ 0 := by positivity
    have ha : (if n then -(m : ℤ) else m) = k * den := by
      have hpow : (2 : ℚ) ^ e * den = 1 := by
        rw [hden, Nat.cast_pow, Nat.cast_two, ← zpow_natCast, Int.toNat_of_nonneg (by omega), ← zpow_add₀ two_ne_zero]
        simp
      have : ((if n then -(m : ℤ) else m : ℤ) : ℚ) = k * den := by
        rw [hk, ratOf, mul_assoc, hpow]
        cases n <;> simp
      exact_mod_cast this
    simp [ha, Int.mul_ediv_cancel _ hden0]

theorem log2_is {x : FVal} {k : ℤ} (hx : Is x (2 ^ k)) : Is x.log2 k := by
  obtain ⟨n, m, e, rfl, hk⟩ := hx.exists_num
  obtain ⟨rfl, hm⟩ := ratOf_pos.1 (hk ▸ two_zpow_pos k)
  have hm2 : (m : ℚ) = 2 ^ (k - e) := by
    rw [zpow_sub₀ two_ne_zero, hk, ratOf_false, mul_div_cancel_right₀ _ (two_zpow_pos e).ne']
  have hke : 0 ≤ k - e := by
    have h1 : (2 : ℚ) ^ (0 : ℤ) ≤ 2 ^ (k - e) := by
      rw [← hm2, zpow_zero]
      exact_mod_cast Nat.pos_of_ne_zero hm
    exact (zpow_le_zpow_iff_right₀ one_lt_two).1 h1
  have hpow : m = 2 ^ (k - e).toNat := by
    rw [← Int.toNat_of_nonneg hke, zpow_natCast] at hm2
    exact_mod_cast hm2
  have hlog : Nat.log2 m = (k - e).toNat := by rw [hpow, Nat.log2_two_pow]
  simp only [FVal.log2, if_neg hm, Bool.false_eq_true, if_false]
  rw [hlog, if_pos hpow, Int.toNat_of_nonneg hke, sub_add_cancel]
  simpa using ofInt_is k 0 false

/-! ### What the statement asks of the operations -/

theorem exactOnNumbers : ExactOnNumbers := by
  unfold ExactOnNumbers
  refine ⟨fun x y p q hx hy => ⟨add_is hx hy, sub_is hx hy, mul_is hx hy, neg_is hx, abs_is hx, min_is hx hy, max_is hx hy,
    lt_is hx hy, eq_is hx hy, le_is hx hy, fun hq hp => div_zero_is (hp ▸ hx) hy hq, fun hq hp => ?div, fun hp => ?sqrt,
    fun hp => ?rsqrt⟩, fun x k => ⟨exp2_is, log2_is⟩⟩
  case div =>
    obtain ⟨n, m, e, rfl, rfl⟩ := hx.exists_num
    obtain ⟨n', m', e', rfl, rfl⟩ := hy.exists_num
    exact div_sticky e e' (mt ratOf_eq_zero.2 hp) (mt ratOf_eq_zero.2 hq)
  case sqrt =>
    obtain ⟨n, m, e, rfl, rfl⟩ := hx.exists_num
    obtain ⟨rfl, hm⟩ := ratOf_pos.1 hp
    exact sqrt_sticky e hm
  case rsqrt =>
    obtain ⟨n, m, e, rfl, rfl⟩ := hx.exists_num
    obtain ⟨rfl, hm⟩ := ratOf_pos.1 hp
    exact rsqrt_sticky e hm

/-! ### The special values (R63, R64, R178, R214) -/

theorem inf_add_inf (n n' : Bool) : (FVal.inf n).add (.inf n') = if n = n' then .inf n else .nan := rfl

theorem zero_add_zero (n n' : Bool) (e e' : ℤ) : (FVal.num n 0 e).add (.num n' 0 e') = .num (n && n') 0 0 := by
  simp [FVal.add]

/-- A zero is neither below nor above another. -/
theorem zero_lt_zero (n n' : Bool) (e e' : ℤ) : (FVal.num n 0 e).lt (.num n' 0 e') = false := by
  simp [FVal.lt, scaled]

theorem zero_min_zero (n n' : Bool) (e e' : ℤ) :
    (FVal.num n 0 e).min (.num n' 0 e') = if n then .num n 0 e else .num n' 0 e' := by
  cases n <;> simp [FVal.min, zero_lt_zero, FVal.isNeg]

theorem zero_max_zero (n n' : Bool) (e e' : ℤ) :
    (FVal.num n 0 e).max (.num n' 0 e') = if n then .num n' 0 e' else .num n 0 e := by
  cases n <;> simp [FVal.max, zero_lt_zero, FVal.isNeg]

theorem scaled_not (n : Bool) (m : Nat) (e q : ℤ) : scaled (!n) m e q = -scaled n m e q := by cases n <;> simp [scaled]

/-- A number and its negative cancel to +0. -/
theorem add_opposite (n : Bool) {m : Nat} (e : ℤ) (hm : m ≠ 0) : (FVal.num n m e).add (.num (!n) m e) = .num false 0 0 := by
  simp [FVal.add, hm, scaled_not, ofInt]

theorem mul_zero_num {n n' : Bool} {m m' : Nat} (e e' : ℤ) (h : m = 0 ∨ m' = 0) :
    (FVal.num n m e).mul (.num n' m' e') = .num (n != n') 0 0 := by
  simp only [FVal.mul, if_pos h]

theorem exactOnSpecials : ExactOnSpecials := by
  unfold ExactOnSpecials
  refine ⟨fun x => ?nan, ⟨rfl, rfl, rfl, rfl, rfl, rfl⟩, fun n n' m m' e e' => ⟨?infs, ?opposite, rfl, rfl, rfl, rfl, rfl,
    rfl, ?byZero, ?byNumber, ?zeros, mul_zero_num e e', add_opposite n e, ?ofZero, ?ofNegative, ?sqrtInf, ?rcpInf, ?exp2Inf,
    rfl⟩, rfl, rfl⟩
  case nan => cases x <;> exact ⟨rfl, rfl, rfl, rfl, rfl, rfl, rfl, rfl, rfl, rfl, rfl, rfl, rfl, rfl⟩
  case infs => simp [inf_add_inf]
  case opposite => simp [inf_add_inf]
  case byZero =>
    rintro rfl
    exact ⟨rfl, rfl, fun hm => by simp [FVal.div, hm], fun hm => by simp [FVal.div, hm]⟩
  case byNumber => exact fun hm => by simp [FVal.mul, hm]
  case zeros =>
    rintro rfl rfl
    exact ⟨zero_add_zero n n' e e', zero_add_zero n (!n') e e', zero_min_zero n n' e e', zero_max_zero n n' e e'⟩
  case ofZero =>
    rintro rfl
    exact ⟨rfl, rfl, by simp [FVal.rcp, FVal.div], rfl, rfl, rfl⟩
  case ofNegative =>
    rintro hm rfl
    simp [FVal.sqrt, FVal.rsqrt, FVal.log2, hm]
  case sqrtInf => cases n <;> rfl
  case rcpInf => cases n <;> rfl
  case exp2Inf => cases n <;> rfl

end Sys2Proof.Claims
end

section
/-! SUPPORT. The codes of the IEEE formats with eight exponent bits, the rounding of their values to FP32 (R54, R66, R69), and the
numbers that FP32 has. -/

namespace Sys2Proof.Claims
open Sys2Proof.Machine

/-! ### Codes and their fields -/

/-- The IEEE format with eight exponent bits and `b` mantissa bits; FP32 has 23 of them and BF16 has 7. -/
def wide (b : Nat) : Fmt := ⟨8, b, 127, true⟩

theorem fp32_eq : fp32 = wide 23 := rfl

/-- The code of a sign, an exponent field and a mantissa field. -/
def codeOf (b : Nat) (neg : Bool) (ex m : Nat) : Nat := bit neg * 2 ^ (8 + b) + ex * 2 ^ b + m

theorem codeOf_mod {b ex m : Nat} (neg : Bool) (hm : m < 2 ^ b) : codeOf b neg ex m % 2 ^ b = m := by
  rw [codeOf, Nat.pow_add, ← Nat.mul_assoc, ← Nat.add_mul, Nat.mul_add_mod_self_right, Nat.mod_eq_of_lt hm]

theorem codeOf_div {b ex m : Nat} (neg : Bool) (hm : m < 2 ^ b) : codeOf b neg ex m / 2 ^ b = bit neg * 2 ^ 8 + ex := by
  rw [codeOf, Nat.pow_add, ← Nat.mul_assoc, ← Nat.add_mul, Nat.add_comm, Nat.add_mul_div_right _ _ (Nat.two_pow_pos b),
    Nat.div_eq_of_lt hm, Nat.zero_add]

theorem codeOf_exponent {b ex m : Nat} (neg : Bool) (hm : m < 2 ^ b) (hex : ex < 256) : codeOf b neg ex m / 2 ^ b % 2 ^ 8 = ex := by
  rw [codeOf_div neg hm]
  omega

theorem codeOf_sign {b ex m : Nat} (neg : Bool) (hm : m < 2 ^ b) (hex : ex < 256) :
    codeOf b neg ex m / 2 ^ (8 + b) % 2 = bit neg := by
  have hbit : bit neg < 2 := by cases neg <;> decide
  rw [Nat.add_comm 8 b, Nat.pow_add, ← Nat.div_div_eq_div_mul, codeOf_div neg hm]
  omega

/-- The value of a sign, an exponent field other than all ones, and a mantissa field. -/
def finite (b : Nat) (neg : Bool) (ex m : Nat) : FVal :=
  if ex = 0 then .num neg m (-126 - b) else .num neg (2 ^ b + m) (ex - 127 - b)

theorem decodeF_codeOf {b ex m : Nat} (neg : Bool) (hm : m < 2 ^ b) (hex : ex < 256) :
    decodeF (wide b) (codeOf b neg ex m) = if ex = 255 then (if m = 0 then .inf neg else .nan) else finite b neg ex m := by
  have hsign := codeOf_sign neg hm hex
  have hexp := codeOf_exponent neg hm hex
  have hman := codeOf_mod (ex := ex) neg hm
  have hneg : decide (bit neg = 1) = neg := by cases neg <;> rfl
  simp only [decodeF, wide, hsign, hexp, hman, hneg]
  by_cases h : ex = 255
  · simp [h]
  · simp [h, finite]

theorem exists_bit {x : Nat} (hx : x < 512) : ∃ neg, x = bit neg * 2 ^ 8 + x % 256 := by
  by_cases h : x < 256
  · exact ⟨false, by simp only [bit_false]; omega⟩
  · exact ⟨true, by simp only [bit, if_true]; omega⟩

/-- Every code has its fields. -/
theorem exists_codeOf {b c : Nat} (hc : c < 2 ^ (9 + b)) :
    ∃ neg ex m, ex < 256 ∧ m < 2 ^ b ∧ c / 2 ^ b % 2 ^ 8 = ex ∧ c % 2 ^ b = m ∧ c = codeOf b neg ex m := by
  have hhigh : c / 2 ^ b < 512 := Nat.div_lt_of_lt_mul (by rwa [Nat.pow_add, Nat.mul_comm] at hc)
  obtain ⟨neg, hneg⟩ := exists_bit hhigh
  refine ⟨neg, _, _, Nat.mod_lt _ (by norm_num), Nat.mod_lt _ (Nat.two_pow_pos b), rfl, rfl, ?_⟩
  rw [codeOf, Nat.pow_add, ← Nat.mul_assoc, ← Nat.add_mul, ← hneg, Nat.div_add_mod']

/-! ### Rounding a value that FP32 holds -/

theorem quantum_fp32 (m : Nat) (e : ℤ) : quantum fp32 m e = max ((Nat.log2 m : ℤ) + e) (-126) - 23 := rfl

theorem packF_fp32 (n : Nat) (q : ℤ) : packF fp32 n q = if n < 2 ^ 23 then n else ((q + 127 + 23).toNat - 1) * 2 ^ 23 + n := rfl

theorem round32_zero (rm : Rm) (neg : Bool) (e : ℤ) : round32 rm (.num neg 0 e) = codeOf 23 neg 0 0 := by
  simp [round32, roundF, codeOf, fp32]

theorem round32_inf (rm : Rm) (neg : Bool) : round32 rm (.inf neg) = codeOf 23 neg 255 0 := by
  simp [round32, roundF, infCode, codeOf, fp32]

/-- A number rounded to FP32: the code of its rounded mantissa where that is the code of a finite number. -/
theorem round32_num {rm : Rm} {neg : Bool} {m : Nat} {e q : ℤ} (hm : m ≠ 0) (hq : quantum fp32 m e = q) :
    round32 rm (.num neg m e) =
      if packF fp32 (roundAt rm m e q) q ≤ maxCode fp32 false then bit neg * 2 ^ 31 + packF fp32 (roundAt rm m e q) q
      else match rm with
        | .rz => maxCode fp32 neg
        | _ => infCode fp32 neg := by
  subst hq
  simp only [round32, roundF, if_neg hm]
  split
  · rfl
  · rfl

theorem maxCode_fp32 : maxCode fp32 false = 0x7F7FFFFF := rfl

/-- A number with no bits below the last place of FP32 keeps its bits in every rounding mode. -/
theorem round32_exact {rm : Rm} {neg : Bool} {m c : Nat} {e q : ℤ} (hm : m ≠ 0) (hq : quantum fp32 m e = q) (hqe : q ≤ e)
    (hc : packF fp32 (m * 2 ^ (e - q).toNat) q = c) (hmax : c ≤ 0x7F7FFFFF) :
    round32 rm (.num neg m e) = bit neg * 2 ^ 31 + c := by
  have hround : roundAt rm m e q = m * 2 ^ (e - q).toNat := by rw [roundAt, if_pos hqe]
  rw [round32_num hm hq, hround, hc, maxCode_fp32, if_pos hmax]

/-- A finite value of a format of `b` mantissa bits rounds to the FP32 code of its own fields, `d` zero bits below them. -/
theorem round32_finite {b d : Nat} (hbd : b + d = 23) (rm : Rm) (neg : Bool) {ex m : Nat} (hm : m < 2 ^ b) (hex : ex < 255) :
    round32 rm (finite b neg ex m) = codeOf 23 neg ex (m * 2 ^ d) := by
  have hpow : 2 ^ b * 2 ^ d = 2 ^ 23 := by rw [← Nat.pow_add, hbd]
  have hmd : m * 2 ^ d < 2 ^ 23 := hpow ▸ Nat.mul_lt_mul_of_pos_right hm (Nat.two_pow_pos d)
  unfold finite
  split
  next h0 => -- zero and the subnormals
    subst h0
    by_cases hm0 : m = 0
    · rw [hm0, Nat.zero_mul, round32_zero]
    · rw [codeOf, Nat.zero_mul, Nat.add_zero]
      have hlog : Nat.log2 m < b := (Nat.log2_lt hm0).2 hm
      have hsh : (-126 - (b : ℤ) - -149).toNat = d := by omega
      exact round32_exact hm0 (q := -149) (by rw [quantum_fp32]; omega) (by omega)
        (by rw [hsh, packF_fp32, if_pos hmd]) (by omega)
  next h0 => -- the normal numbers
    have hlog : Nat.log2 (2 ^ b + m) = b :=
      (Nat.log2_eq_iff (by positivity)).2 ⟨Nat.le_add_right _ _, by rw [Nat.pow_succ]; omega⟩
    have hsh : ((ex : ℤ) - 127 - b - (ex - 150)).toNat = d := by omega
    have hfield : ((ex : ℤ) - 150 + 127 + 23).toNat - 1 = ex - 1 := by omega
    rw [codeOf, Nat.add_assoc]
    refine round32_exact (by positivity) (q := ex - 150) (by rw [quantum_fp32, hlog]; omega) (by omega) ?_ (by omega)
    rw [hsh, Nat.add_mul, hpow, packF_fp32, if_neg (by omega), hfield]
    omega

/-- A code of a format of `b` mantissa bits that is no NaN rounds to itself, `d` zero bits below it (R66, R69). -/
theorem round32_decodeF {b d c : Nat} (hbd : b + d = 23) (rm : Rm) (hc : c < 2 ^ (9 + b))
    (hnan : ¬ (c / 2 ^ b % 2 ^ 8 = 255 ∧ c % 2 ^ b ≠ 0)) : round32 rm (decodeF (wide b) c) = c * 2 ^ d := by
  obtain ⟨neg, ex, m, hex, hm, hexc, hmc, rfl⟩ := exists_codeOf hc
  rw [hexc, hmc] at hnan
  have hpow : 2 ^ b * 2 ^ d = 2 ^ 23 := by rw [← Nat.pow_add, hbd]
  have hscale : codeOf b neg ex m * 2 ^ d = codeOf 23 neg ex (m * 2 ^ d) := by
    simp only [codeOf, Nat.pow_add 2 8, Nat.add_mul, Nat.mul_assoc, hpow]
  rw [hscale, decodeF_codeOf neg hm hex]
  split
  next h255 =>
    obtain rfl : m = 0 := by tauto
    rw [if_pos rfl, Nat.zero_mul, h255, round32_inf]
  next h255 => exact round32_finite hbd rm neg hm (by omega)

theorem round32_val32_nan (rm : Rm) {c : Nat} (hc : c < 2 ^ 32) (h : c / 2 ^ 23 % 256 = 255 ∧ c % 2 ^ 23 ≠ 0) :
    round32 rm (val32 c) = 0x7FC00000 := by
  obtain ⟨neg, ex, m, hex, hm, hexc, hmc, rfl⟩ := exists_codeOf (b := 23) hc
  rw [hmc] at h
  rw [val32, fp32_eq, decodeF_codeOf neg hm hex, if_pos (hexc.symm.trans h.1), if_neg h.2]
  rfl

/-! ### The numbers of FP32 -/

/-- A finite code: its magnitude is below 2^24 units of a place from 2^-149 to 2^104. -/
theorem val32_grid {c : Nat} {w : ℚ} (hc : c < 2 ^ 32) (hw : Is (val32 c) w) :
    ∃ (n : Bool) (j : Nat) (x : ℤ), w = ratOf n j x ∧ j < 2 ^ 24 ∧ -149 ≤ x ∧ x ≤ 104 := by
  obtain ⟨neg, ex, m, hex, hm, -, -, rfl⟩ := exists_codeOf (b := 23) hc
  rw [val32, fp32_eq, decodeF_codeOf neg hm hex] at hw
  split at hw
  next h255 => split at hw <;> simp at hw
  next h255 =>
    unfold finite at hw
    split at hw
    · exact ⟨neg, m, _, is_num_iff.1 hw, by omega, by omega, by omega⟩
    · exact ⟨neg, _, _, is_num_iff.1 hw, by omega, by omega, by omega⟩

/-- Seen from a place q of FP32, a number of FP32 is a whole number of units or is below 2^23 of them. -/
theorem val32_units {c : Nat} {w : ℚ} {q : ℤ} (hc : c < 2 ^ 32) (hw : Is (val32 c) w) (hq : -149 ≤ q) :
    (∃ j : ℤ, w = j * 2 ^ q) ∨ (-149 < q ∧ |w| < 2 ^ 23 * 2 ^ q) := by
  obtain ⟨n, j, x, rfl, hj, hx, -⟩ := val32_grid hc hw
  rcases le_or_gt q x with hqx | hxq
  · exact .inl ⟨scaled n j x q, (scaled_mul n j hqx).symm⟩
  · refine .inr ⟨by omega, ?_⟩
    have hj' : (j : ℚ) < 2 ^ 24 := by exact_mod_cast hj
    calc |ratOf n j x| = j * 2 ^ x := abs_ratOf n j x
      _ < 2 ^ 24 * 2 ^ x := mul_lt_mul_of_pos_right hj' (two_zpow_pos x)
      _ = 2 ^ 23 * 2 ^ (x + 1) := by rw [zpow_add_one₀ two_ne_zero]; ring
      _ ≤ 2 ^ 23 * 2 ^ q := by gcongr; exacts [one_le_two, by omega]

theorem val32_abs_le {c : Nat} {w : ℚ} (hc : c < 2 ^ 32) (hw : Is (val32 c) w) : |w| ≤ (2 ^ 24 - 1) * 2 ^ (104 : ℤ) := by
  obtain ⟨n, j, x, rfl, hj, -, hx⟩ := val32_grid hc hw
  have hj' : (j : ℚ) ≤ 2 ^ 24 - 1 := by
    rw [le_sub_iff_add_le]
    exact_mod_cast Nat.succ_le_of_lt hj
  rw [abs_ratOf]
  have := zpow_le_zpow_right₀ (one_le_two (α := ℚ)) hx
  have := (two_zpow_pos x).le
  nlinarith

/-- The code that a rounded mantissa packs to has its value: `n` units of the place q. -/
theorem val32_packF {neg : Bool} {n : Nat} {q : ℤ} (hn : n ≤ 2 ^ 24) (hq : -149 ≤ q) (hnq : 2 ^ 23 ≤ n ∨ q = -149)
    (hmax : packF fp32 n q ≤ maxCode fp32 false) : Is (val32 (bit neg * 2 ^ 31 + packF fp32 n q)) (ratOf neg n q) := by
  obtain ⟨k, rfl⟩ : ∃ k : Nat, q = (k : ℤ) - 149 := ⟨(q + 149).toNat, by omega⟩
  have hpack : packF fp32 n (k - 149) = k * 2 ^ 23 + n := by
    rw [packF_fp32]
    split <;> omega
  rw [hpack, maxCode_fp32] at hmax
  rw [hpack]
  have hval {ex m : Nat} (hm : m < 2 ^ 23) (hex : ex < 255) (hcode : k * 2 ^ 23 + n = ex * 2 ^ 23 + m) :
      val32 (bit neg * 2 ^ 31 + (k * 2 ^ 23 + n)) = finite 23 neg ex m := by
    have hfields : bit neg * 2 ^ 31 + (k * 2 ^ 23 + n) = codeOf 23 neg ex m := by rw [hcode, codeOf]; ring
    rw [hfields, val32, fp32_eq, decodeF_codeOf neg hm (by omega), if_neg (by omega)]
  rcases lt_or_ge n (2 ^ 23) with hlow | hhigh
  · -- a subnormal
    obtain rfl : k = 0 := by omega
    rw [hval (ex := 0) hlow (by omega) rfl, finite, if_pos rfl]
    exact is_num _ _ _
  rcases lt_or_ge n (2 ^ 24) with hlt | hge
  · -- a normal number
    rw [hval (ex := k + 1) (m := n - 2 ^ 23) (by omega) (by omega) (by omega), finite, if_neg (by omega), is_num_iff]
    have hplace : ((k + 1 : Nat) : ℤ) - 127 - (23 : Nat) = k - 149 := by push_cast; ring
    rw [hplace, Nat.add_sub_cancel' hhigh]
  · -- a carry out of the mantissa
    obtain rfl : n = 2 ^ 24 := by omega
    rw [hval (ex := k + 2) (m := 0) (by omega) (by omega) (by omega), finite, if_neg (by omega), is_num_iff, ratOf, ratOf]
    have hplace : ((k + 2 : Nat) : ℤ) - 127 - (23 : Nat) = k - 149 + 1 := by push_cast; ring
    rw [hplace, zpow_add_one₀ two_ne_zero]
    push_cast
    ring

end Sys2Proof.Claims
end

section
/-! SUPPORT. A value rounded to FP32 among the numbers of FP32, all seen in units of its last place (R66), and the proof of O17. -/

namespace Sys2Proof.Claims
open Sys2Proof.Machine

/-! ### Rounding to units of the last place -/

/-- The magnitude m × 2^e in units of 2^q. -/
def unitsOf (m : Nat) (e q : ℤ) : ℚ := m * 2 ^ (e - q)

theorem unitsOf_mul (m : Nat) (e q : ℤ) : unitsOf m e q * 2 ^ q = m * 2 ^ e := by
  rw [unitsOf, mul_assoc, ← zpow_add₀ two_ne_zero, sub_add_cancel]

theorem roundAt_of_le (rm : Rm) {m : Nat} {e q : ℤ} (h : q ≤ e) : (roundAt rm m e q : ℚ) = unitsOf m e q := by
  rw [roundAt, if_pos h, unitsOf, ← Int.toNat_of_nonneg (sub_nonneg.2 h), zpow_natCast]
  push_cast [Int.toNat_of_nonneg (sub_nonneg.2 h)]
  rfl

/-- Bits below the unit: the units are a whole number and a fraction of 2^sh. -/
theorem unitsOf_of_gt {m : Nat} {e q : ℤ} (h : e < q) :
    let sh := (q - e).toNat
    unitsOf m e q = (m / 2 ^ sh : Nat) + ((m % 2 ^ sh : Nat) : ℚ) / 2 ^ sh := by
  intro sh
  have hpow : (2 : ℚ) ^ (e - q) = (2 ^ sh)⁻¹ := by
    rw [← zpow_natCast, ← zpow_neg, Int.toNat_of_nonneg (by omega), neg_sub]
  have hm : (m : ℚ) = 2 ^ sh * (m / 2 ^ sh : Nat) + (m % 2 ^ sh : Nat) := by exact_mod_cast (Nat.div_add_mod m (2 ^ sh)).symm
  rw [unitsOf, hpow]
  conv_lhs => rw [hm]
  field_simp

/-- RZ drops what lies below the unit. -/
theorem roundAt_rz (m : Nat) (e q : ℤ) :
    (roundAt .rz m e q : ℚ) ≤ unitsOf m e q ∧ unitsOf m e q < roundAt .rz m e q + 1 := by
  rcases le_or_gt q e with h | h
  · rw [roundAt_of_le _ h]
    exact ⟨le_rfl, lt_add_one _⟩
  · have hround : roundAt .rz m e q = m / 2 ^ (q - e).toNat := by rw [roundAt, if_neg h.not_ge]; rfl
    have hfrac : ((m % 2 ^ (q - e).toNat : Nat) : ℚ) / 2 ^ (q - e).toNat < 1 := by
      rw [div_lt_one (by positivity)]
      exact_mod_cast Nat.mod_lt _ (Nat.two_pow_pos _)
    rw [unitsOf_of_gt h, hround]
    exact ⟨le_add_of_nonneg_right (by positivity), add_lt_add_right hfrac _⟩

theorem roundUp_rne (n r sh : Nat) : roundUp .rne n r sh = true ↔ 2 ^ sh < 2 * r ∨ 2 * r = 2 ^ sh ∧ n % 2 = 1 := by
  simp [roundUp]

/-- Rounding up exactly from an odd half and from above a half gives a nearest whole number, on a tie the even one. -/
theorem roundUp_rne_nearest {n r sh : Nat} (hr : r < 2 ^ sh) :
    let x : ℚ := (if roundUp .rne n r sh then n + 1 else n : Nat)
    |x - (n + r / 2 ^ sh)| ≤ 1 / 2 ∧
      (|x - (n + r / 2 ^ sh)| = 1 / 2 → (if roundUp .rne n r sh then n + 1 else n) % 2 = 0) := by
  have hd : (0 : ℚ) < 2 ^ sh := by positivity
  have hf1 : (r : ℚ) / 2 ^ sh < 1 := (div_lt_one hd).2 (by exact_mod_cast hr)
  have hf0 : (0 : ℚ) ≤ r / 2 ^ sh := by positivity
  have hhalf : (r : ℚ) / 2 ^ sh = 1 / 2 → 2 * r = 2 ^ sh := fun h => by
    rw [div_eq_div_iff hd.ne' two_ne_zero, one_mul, mul_comm] at h
    exact_mod_cast h
  by_cases hup : roundUp .rne n r sh = true
  · have hge : (1 : ℚ) / 2 ≤ r / 2 ^ sh := by
      rw [div_le_div_iff₀ two_pos hd, one_mul, mul_comm]
      have : 2 ^ sh ≤ 2 * r := by rcases (roundUp_rne n r sh).1 hup with h | h <;> omega
      exact_mod_cast this
    have hdist : |((n + 1 : Nat) : ℚ) - (n + r / 2 ^ sh)| = 1 - r / 2 ^ sh := by
      rw [abs_of_nonneg (by push_cast; linarith)]
      push_cast
      ring
    simp only [hup, if_true, hdist]
    refine ⟨by linarith, fun htie => ?_⟩
    have := hhalf (by linarith)
    rcases (roundUp_rne n r sh).1 hup with h | h <;> omega
  · have hle : (r : ℚ) / 2 ^ sh ≤ 1 / 2 := by
      rw [div_le_div_iff₀ hd two_pos, one_mul, mul_comm]
      have : 2 * r ≤ 2 ^ sh := not_lt.1 fun h => hup ((roundUp_rne n r sh).2 (.inl h))
      exact_mod_cast this
    have hdist : |(n : ℚ) - (n + r / 2 ^ sh)| = r / 2 ^ sh := by rw [sub_add_cancel_left, abs_neg, abs_of_nonneg hf0]
    simp only [hup, if_false, hdist, Bool.false_eq_true]
    refine ⟨hle, fun htie => ?_⟩
    have := mt (fun h => (roundUp_rne n r sh).2 (.inr h)) hup
    have := hhalf htie
    omega

/-- RNE gives a nearest whole number of units, on a tie the even one. -/
theorem roundAt_rne (m : Nat) (e q : ℤ) :
    |roundAt .rne m e q - unitsOf m e q| ≤ 1 / 2 ∧
      (|roundAt .rne m e q - unitsOf m e q| = 1 / 2 → roundAt .rne m e q % 2 = 0) := by
  rcases le_or_gt q e with h | h
  · rw [roundAt_of_le _ h]
    norm_num
  · have hnear := roundUp_rne_nearest (n := m / 2 ^ (q - e).toNat) (Nat.mod_lt m (Nat.two_pow_pos (q - e).toNat))
    rw [unitsOf_of_gt h, roundAt, if_neg h.not_ge]
    exact hnear

/-- The last place of FP32 for a number: no place is below 2^-149, the number has fewer than 2^24 units of it, and at least 2^23
where the place is above 2^-149. -/
theorem quantum_units {m : Nat} {e q : ℤ} (hm : m ≠ 0) (hq : quantum fp32 m e = q) :
    -149 ≤ q ∧ unitsOf m e q < 2 ^ 24 ∧ (2 ^ 23 ≤ unitsOf m e q ∨ q = -149) := by
  rw [quantum_fp32] at hq
  have hlow : ((2 ^ Nat.log2 m : Nat) : ℚ) ≤ m := Nat.cast_le.2 (Nat.log2_self_le hm)
  have hhigh : (m : ℚ) < (2 ^ (Nat.log2 m + 1) : Nat) := Nat.cast_lt.2 Nat.lt_log2_self
  rw [Nat.cast_pow, Nat.cast_two, ← zpow_natCast] at hlow hhigh
  have hpos := two_zpow_pos (e - q)
  refine ⟨by omega, ?_, ?_⟩
  · calc unitsOf m e q < 2 ^ ((Nat.log2 m + 1 : Nat) : ℤ) * 2 ^ (e - q) := mul_lt_mul_of_pos_right hhigh hpos
      _ = 2 ^ ((Nat.log2 m + 1 : Nat) + (e - q)) := (zpow_add₀ two_ne_zero _ _).symm
      _ ≤ 2 ^ (24 : ℤ) := zpow_le_zpow_right₀ one_le_two (by push_cast; omega)
      _ = 2 ^ 24 := by norm_num
  · rcases le_or_gt (-126) ((Nat.log2 m : ℤ) + e) with h | h
    · left
      calc (2 : ℚ) ^ 23 = 2 ^ ((Nat.log2 m : ℤ) + (e - q)) := by rw [← zpow_natCast]; congr 1; push_cast; omega
        _ = 2 ^ (Nat.log2 m : ℤ) * 2 ^ (e - q) := zpow_add₀ two_ne_zero _ _
        _ ≤ unitsOf m e q := mul_le_mul_of_nonneg_right hlow hpos.le
    · right; omega

/-- A mantissa rounded to within one unit has the range of `val32_packF`. -/
theorem rounded_range {m n : Nat} {e q : ℤ} (hm : m ≠ 0) (hq : quantum fp32 m e = q) (hn : |n - unitsOf m e q| < 1) :
    n ≤ 2 ^ 24 ∧ (2 ^ 23 ≤ n ∨ q = -149) := by
  obtain ⟨-, hhigh, hlow⟩ := quantum_units hm hq
  rw [abs_lt] at hn
  constructor
  · have : (n : ℚ) < (2 ^ 24 + 1 : Nat) := by push_cast; linarith
    have := Nat.cast_lt.1 this
    omega
  · refine hlow.imp_left fun h => ?_
    have : ((2 ^ 23 : Nat) : ℚ) < (n + 1 : Nat) := by push_cast; linarith
    have := Nat.cast_lt.1 this
    omega

/-! ### Signed values in units of the last place -/

/-- A value of either sign in units of 2^q: what has the sign of the value counts as positive. -/
def signedUnits (neg : Bool) (x : ℚ) (q : ℤ) : ℚ := (if neg then -1 else 1) * x * 2 ^ q

theorem ratOf_eq_signedUnits (neg : Bool) (n : Nat) (q : ℤ) : ratOf neg n q = signedUnits neg n q := rfl

theorem ratOf_eq_signedUnits_units (neg : Bool) (m : Nat) (e q : ℤ) : ratOf neg m e = signedUnits neg (unitsOf m e q) q := by
  rw [ratOf, signedUnits, mul_assoc, mul_assoc, unitsOf_mul]

theorem abs_signedUnits (neg : Bool) (x : ℚ) (q : ℤ) : |signedUnits neg x q| = |x| * 2 ^ q := by
  cases neg <;> simp [signedUnits, abs_mul, abs_of_pos (two_zpow_pos q)]

theorem abs_signedUnits_sub (neg : Bool) (x y : ℚ) (q : ℤ) : |signedUnits neg x q - signedUnits neg y q| = |x - y| * 2 ^ q := by
  rw [← abs_signedUnits neg (x - y)]
  congr 1
  simp only [signedUnits]
  ring

theorem signedUnits_mul_nonneg (neg : Bool) {x y : ℚ} (q q' : ℤ) (hx : 0 ≤ x) (hy : 0 ≤ y) :
    0 ≤ signedUnits neg x q * signedUnits neg y q' := by
  have := mul_nonneg (mul_nonneg hx (two_zpow_pos q).le) (mul_nonneg hy (two_zpow_pos q').le)
  cases neg <;> simp only [signedUnits, if_true, if_false, Bool.false_eq_true] <;> linarith

/-- A number of FP32 in units of a place, relative to a sign: a whole number, or one below 2^23 where the place is not the
lowest. -/
theorem val32_signed {c : Nat} {w : ℚ} {q : ℤ} (hc : c < 2 ^ 32) (hw : Is (val32 c) w) (hq : -149 ≤ q) (neg : Bool) :
    ∃ x, w = signedUnits neg x q ∧ ((∃ j : ℤ, x = j) ∨ (q ≠ -149 ∧ |x| < 2 ^ 23)) := by
  have hpos := two_zpow_pos q
  have hself : w = signedUnits neg (signedUnits neg w 0 / 2 ^ q) q := by
    cases neg <;> simp [signedUnits, hpos.ne']
  refine ⟨_, hself, (val32_units hc hw hq).imp (fun ⟨j, hj⟩ => ⟨if neg then -j else j, ?whole⟩)
    fun ⟨hlt, hw⟩ => ⟨hlt.ne', ?below⟩⟩
  case whole => cases neg <;> simp [signedUnits, hj, hpos.ne', neg_div]
  case below =>
    rw [abs_div, abs_signedUnits, abs_of_pos hpos, div_lt_iff₀ hpos]
    simpa using hw

/-! ### The neighbours of a rounded value (R66) -/

/-- What rounds to the nearest whole number of units: no number of FP32 is nearer, and one as near is on the other side of a
half. -/
theorem nearest_of_half {P x : ℚ} {n : Nat} (hn : |n - P| ≤ 1 / 2)
    (hx : (∃ j : ℤ, x = j) ∨ (2 ^ 23 ≤ P ∧ |x| < 2 ^ 23)) :
    |n - P| ≤ |x - P| ∧ (|n - P| = |x - P| → (n : ℚ) ≠ x → |n - P| = 1 / 2) := by
  have hwhole (j : ℤ) : (n : ℚ) = j ∨ 1 / 2 ≤ |j - P| := by
    refine or_iff_not_imp_left.2 fun hne => ?_
    have hone : (1 : ℚ) ≤ |(n : ℚ) - j| := by
      have : (1 : ℤ) ≤ |(n : ℤ) - j| := Int.one_le_abs (sub_ne_zero.2 fun h => hne (by exact_mod_cast h))
      exact_mod_cast this
    have := abs_sub_le (n : ℚ) P j
    rw [abs_sub_comm P] at this
    linarith
  rcases hx with ⟨j, rfl⟩ | ⟨hP, hx⟩
  · rcases hwhole j with h | h
    · exact ⟨h ▸ le_rfl, fun _ hne => absurd h hne⟩
    · exact ⟨hn.trans h, fun heq _ => le_antisymm hn (heq ▸ h)⟩
  · have hlt : |n - P| < |x - P| := by
      have hx := (abs_lt.1 hx).2
      have hdist : |x - P| = P - x := by rw [abs_sub_comm, abs_of_nonneg (by linarith)]
      have hedge : |((2 ^ 23 : ℤ) : ℚ) - P| = P - 2 ^ 23 := by
        rw [abs_sub_comm, abs_of_nonneg (by push_cast; linarith)]
        push_cast
        rfl
      have := hwhole (2 ^ 23)
      rw [hedge] at this
      rcases this with h | h
      · rw [h, hedge, hdist]; linarith
      · linarith
    exact ⟨hlt.le, fun heq => absurd heq hlt.ne⟩

theorem val32_infCode (neg : Bool) : val32 (infCode fp32 neg) = .inf neg := by
  have hcode : infCode fp32 neg = codeOf 23 neg 255 0 := by simp [infCode, codeOf, fp32]
  rw [hcode, val32, fp32_eq, decodeF_codeOf neg (by norm_num) (by norm_num), if_pos rfl, if_pos rfl]

theorem val32_maxCode (neg : Bool) : Is (val32 (maxCode fp32 neg)) (signedUnits neg (2 ^ 24 - 1) 104) := by
  have hcode : maxCode fp32 neg = codeOf 23 neg 254 (2 ^ 23 - 1) := by cases neg <;> rfl
  rw [hcode, val32, fp32_eq, decodeF_codeOf neg (by norm_num) (by norm_num), if_neg (by norm_num), finite, if_neg (by norm_num),
    is_num_iff, ratOf_eq_signedUnits]
  norm_num

theorem is_unique {x : FVal} {p q : ℚ} (hp : Is x p) (hq : Is x q) : p = q := by
  obtain ⟨n, m, e, rfl, rfl⟩ := hp.exists_num
  exact (is_num_iff.1 hq).symm

/-- The code of a number packed in units has the parity of the units. -/
theorem packF_parity (neg : Bool) (n : Nat) (q : ℤ) : (bit neg * 2 ^ 31 + packF fp32 n q) % 2 = n % 2 := by
  rw [packF_fp32]
  split <;> omega

/-- A zero rounds to a zero of its sign. -/
theorem val32_round32_zero (rm : Rm) (neg : Bool) (e : ℤ) : Is (val32 (round32 rm (.num neg 0 e))) 0 := by
  rw [round32_zero, val32, fp32_eq, decodeF_codeOf neg (by norm_num) (by norm_num), if_neg (by norm_num), finite, if_pos rfl]
  simp

/-- A number rounded RNE to a finite number: the nearest whole number of units. -/
theorem round32_rne_finite {neg : Bool} {m : Nat} {e q : ℤ} {v : ℚ} (hm : m ≠ 0) (hq : quantum fp32 m e = q)
    (hv : Is (val32 (round32 .rne (.num neg m e))) v) :
    v = signedUnits neg (roundAt .rne m e q) q ∧ round32 .rne (.num neg m e) % 2 = roundAt .rne m e q % 2 := by
  obtain ⟨hlow, -, -⟩ := quantum_units hm hq
  obtain ⟨hn, hnq⟩ := rounded_range hm hq ((roundAt_rne m e q).1.trans_lt (by norm_num))
  rw [round32_num hm hq] at hv ⊢
  split at hv
  next hmax =>
    rw [if_pos hmax]
    exact ⟨is_unique hv (val32_packF hn hlow hnq hmax), packF_parity neg _ q⟩
  next => rw [val32_infCode] at hv; simp at hv

theorem rne_nearest {x : FVal} {p v w : ℚ} {c : Nat} (hc : c < 2 ^ 32) (hx : Is x p) (hw : Is (val32 c) w)
    (hv : Is (val32 (round32 .rne x)) v) : |v - p| ≤ |w - p| ∧ (|v - p| = |w - p| → v ≠ w → round32 .rne x % 2 = 0) := by
  obtain ⟨neg, m, e, rfl, rfl⟩ := hx.exists_num
  by_cases hm : m = 0
  · subst hm
    obtain rfl : v = 0 := is_unique hv (val32_round32_zero _ _ _)
    rw [ratOf_zero, sub_self, abs_zero, sub_zero]
    exact ⟨abs_nonneg _, fun h hne => absurd (abs_eq_zero.1 h.symm).symm hne⟩
  · obtain ⟨q, hq⟩ : ∃ q, quantum fp32 m e = q := ⟨_, rfl⟩
    obtain ⟨hlow, -, hunits⟩ := quantum_units hm hq
    obtain ⟨rfl, hpar⟩ := round32_rne_finite hm hq hv
    obtain ⟨y, rfl, hy⟩ := val32_signed hc hw hlow neg
    obtain ⟨hhalf, heven⟩ := roundAt_rne m e q
    obtain ⟨hnear, htie⟩ := nearest_of_half hhalf (hy.imp_right fun ⟨hne, hlt⟩ => ⟨hunits.resolve_right hne, hlt⟩)
    rw [ratOf_eq_signedUnits_units neg m e q, abs_signedUnits_sub, abs_signedUnits_sub, hpar]
    refine ⟨mul_le_mul_of_nonneg_right hnear (two_zpow_pos q).le, fun heq hne => heven (htie ?_ fun h => hne (h ▸ rfl))⟩
    exact mul_right_cancel₀ (two_zpow_pos q).ne' heq

/-- A number rounded RZ: the whole units toward zero, or the largest finite number where the number is beyond it. -/
theorem round32_rz_cases {neg : Bool} {m : Nat} {e q : ℤ} {v : ℚ} (hm : m ≠ 0) (hq : quantum fp32 m e = q)
    (hv : Is (val32 (round32 .rz (.num neg m e))) v) :
    v = signedUnits neg (roundAt .rz m e q) q ∨
      (v = signedUnits neg (2 ^ 24 - 1) 104 ∧ (2 ^ 24 - 1) * 2 ^ (104 : ℤ) ≤ unitsOf m e q * 2 ^ q) := by
  obtain ⟨hlow, hhigh, -⟩ := quantum_units hm hq
  obtain ⟨hle, hlt⟩ := roundAt_rz m e q
  obtain ⟨hn, hnq⟩ := rounded_range hm hq (abs_sub_lt_iff.2 ⟨by linarith, by linarith⟩)
  rw [round32_num hm hq] at hv
  split at hv
  next hmax => exact .inl (is_unique hv (val32_packF hn hlow hnq hmax))
  next hmax =>
    refine .inr ⟨is_unique hv (val32_maxCode neg), ?_⟩
    have hn' : roundAt .rz m e q < 2 ^ 24 := by exact_mod_cast hle.trans_lt hhigh
    have hbig : 105 ≤ q ∧ 2 ^ 23 ≤ roundAt .rz m e q := by
      rw [packF_fp32, maxCode_fp32] at hmax
      split at hmax <;> omega
    have hunits : (2 : ℚ) ^ 23 ≤ unitsOf m e q := le_trans (by exact_mod_cast hbig.2) hle
    calc ((2 : ℚ) ^ 24 - 1) * 2 ^ (104 : ℤ) ≤ 2 ^ 23 * 2 ^ (105 : ℤ) := by norm_num
      _ ≤ unitsOf m e q * 2 ^ q :=
        mul_le_mul hunits (zpow_le_zpow_right₀ one_le_two hbig.1) (two_zpow_pos _).le (by linarith)

/-- Whole units toward zero: no number of FP32 lies between them and the value. -/
theorem floor_of_units {P x : ℚ} {n : Nat} (hn : P < n + 1) (hx : (∃ j : ℤ, x = j) ∨ (2 ^ 23 ≤ P ∧ |x| < 2 ^ 23))
    (hle : |x| ≤ P) : |x| ≤ n := by
  rcases hx with ⟨j, rfl⟩ | ⟨hP, hx⟩
  · have : ((|j| : ℤ) : ℚ) < (n + 1 : ℤ) := by push_cast; linarith
    have := Int.lt_add_one_iff.1 (Int.cast_lt.1 this)
    exact_mod_cast this
  · have : ((2 ^ 23 : Nat) : ℚ) < (n + 1 : Nat) := by push_cast; linarith
    have : ((2 ^ 23 : Nat) : ℚ) ≤ n := Nat.cast_le.2 (Nat.lt_succ_iff.1 (Nat.cast_lt.1 this))
    push_cast at this
    linarith

theorem rz_toward_zero {x : FVal} {p v w : ℚ} {c : Nat} (hc : c < 2 ^ 32) (hx : Is x p) (hw : Is (val32 c) w)
    (hv : Is (val32 (round32 .rz x)) v) : |v| ≤ |p| ∧ 0 ≤ v * p ∧ (|w| ≤ |p| → |w| ≤ |v|) := by
  obtain ⟨neg, m, e, rfl, rfl⟩ := hx.exists_num
  by_cases hm : m = 0
  · subst hm
    obtain rfl : v = 0 := is_unique hv (val32_round32_zero _ _ _)
    simp
  · obtain ⟨q, hq⟩ : ∃ q, quantum fp32 m e = q := ⟨_, rfl⟩
    obtain ⟨hlow, -, hunits⟩ := quantum_units hm hq
    obtain ⟨hle, hlt⟩ := roundAt_rz m e q
    have hP : 0 ≤ unitsOf m e q := mul_nonneg (Nat.cast_nonneg m) (two_zpow_pos _).le
    have hpos := two_zpow_pos q
    rw [ratOf_eq_signedUnits_units neg m e q, abs_signedUnits, abs_of_nonneg hP]
    rcases round32_rz_cases hm hq hv with rfl | ⟨rfl, hmax⟩
    · rw [abs_signedUnits, Nat.abs_cast]
      refine ⟨mul_le_mul_of_nonneg_right hle hpos.le, signedUnits_mul_nonneg neg q q (Nat.cast_nonneg _) hP, fun hwp => ?_⟩
      obtain ⟨y, rfl, hy⟩ := val32_signed hc hw hlow neg
      rw [abs_signedUnits] at hwp ⊢
      exact mul_le_mul_of_nonneg_right (floor_of_units hlt (hy.imp_right fun ⟨hne, hlt⟩ => ⟨hunits.resolve_right hne, hlt⟩)
        (le_of_mul_le_mul_right hwp hpos)) hpos.le
    · have hmaxpos : (0 : ℚ) ≤ 2 ^ 24 - 1 := by norm_num
      rw [abs_signedUnits, abs_of_nonneg hmaxpos]
      exact ⟨hmax, signedUnits_mul_nonneg neg _ q hmaxpos hP, fun _ => val32_abs_le hc hw⟩

theorem roundsToNeighbours : RoundsToNeighbours := fun _ _ _ _ c hx hw =>
  ⟨rne_nearest c.isLt hx hw, rz_toward_zero c.isLt hx hw⟩

/-- Settles O17: the operations on exact values one by one, and their rounding seen in units of the last place. -/
theorem roundingKeepsRepresentableValues : Obligations.RoundingKeepsRepresentableValues := by
  unfold Obligations.RoundingKeepsRepresentableValues
  refine ⟨exactOnNumbers, exactOnSpecials, roundsToNeighbours, fun rm x => ⟨round32_val32_nan rm x.isLt, fun h => ?fp32⟩,
    fun x h => ?bf16⟩
  case fp32 => exact (round32_decodeF (b := 23) (d := 0) rfl rm x.isLt h).trans (Nat.mul_one _)
  case bf16 => exact round32_decodeF (b := 7) (d := 16) rfl .rne x.isLt h

end Sys2Proof.Claims
end

section
/-! SUPPORT. What INSTRUCTION_FETCH, PAGE_WALK, the policy core's answers and SHOOTDOWN lead to (R85, R87 to R90, R170), and
PATROL_SCRUB (R98, R369); with the proof of O49. -/

namespace Sys2Proof.Machine

/-! ### Stores whose values are all changed by one function -/

theorem Kv.get_map {α β : Type} (f : α → β) (d : α) (l : List (Nat × α)) (a : Nat) :
    Kv.get (f d) (l.map fun c => (c.1, f c.2)) a = f (Kv.get d l a) := by
  induction l with
  | nil => rfl
  | cons c r ih =>
    obtain ⟨k, v⟩ := c
    simp only [List.map_cons, Kv.get, ih]
    split <;> rfl

/-! ### A fetch through an entry of the TLB -/

/-- One word fetched through an entry that has been used, from a line that verifies, of whatever memory (R95, R170). -/
theorem State.fetchWord_verified (s : State) (k va : Nat) (e : TlbEntry) (hwait : s.waitsOn (.fetch k) = none)
    (htroot : bits (s.slot (slotKey k)).troot 0 1 = 1)
    (htlb : tlbHit (s.seq k).tlb (bits (s.slot (slotKey k)).troot 52 12) va { kind := 2 } = some e) (hacc : e.acc = true)
    (hline : s.verify .main (memKey (e.base + va % 2 ^ 16)) 4 = none) :
    s.fetchWord k va = (s.setSeq k (s.seq k), .ok (leNat (s.bytes .main (memKey (e.base + va % 2 ^ 16)) 4))) := by
  have hv : (s.setSeq k (s.seq k)).verify .main (memKey (e.base + va % 2 ^ 16)) 4 = none := hline
  rw [State.fetchWord, s.xlateSeq_hit k va (.fetch k) 2 { kind := 2 } e hwait htroot htlb hacc]
  simp only [readVia, hv]
  rfl

/-- A page that a used entry translates, and in it the word at the PC and the next, in lines that verify: the fetch gives words
and writes nothing but the sequencer's place in the list of sequencers (R24, R25, R87, R170). -/
theorem State.fetch_hit (s : State) (k : Nat) (e : TlbEntry) (hvirt : (s.pc k).toNat < 2 ^ 55)
    (hpage : (s.pc k).toNat % 2 ^ 16 + 4 < 2 ^ 16) (hwait : s.waitsOn (.fetch k) = none)
    (htroot : bits (s.slot (slotKey k)).troot 0 1 = 1)
    (htlb : tlbHit (s.seq k).tlb (bits (s.slot (slotKey k)).troot 52 12) (s.pc k).toNat { kind := 2 } = some e)
    (hacc : e.acc = true) (hline : s.verify .main (memKey (e.base + (s.pc k).toNat % 2 ^ 16)) 4 = none)
    (hline4 : s.verify .main (memKey (e.base + ((s.pc k).toNat + 4) % 2 ^ 16)) 4 = none) :
    ∃ t w x, s.fetch k = .words t w x ∧ t = { s with seqs := t.seqs } ∧ ∀ j, t.seq j = s.seq j := by
  have hpc4 : (s.pc k + 4).toNat = (s.pc k).toNat + 4 := by
    rw [BitVec.toNat_add_of_lt (by simp; omega)]
    rfl
  have hfirst := s.fetchWord_verified k _ e hwait htroot htlb hacc hline
  rw [State.fetch]
  simp only [virtOk_of_lt hvirt, hfirst, Bool.not_true, Bool.false_eq_true, if_false]
  generalize leNat (s.bytes .main (memKey (e.base + (s.pc k).toNat % 2 ^ 16)) 4) = w
  split
  case isTrue => exact ⟨_, _, _, rfl, rfl, s.setSeq_seq_same k⟩
  case isFalse =>
    let s1 := s.setSeq k (s.seq k)
    have hseq (j : Nat) : s1.seq j = s.seq j := s.setSeq_seq_same k j
    have hsecond := s1.fetchWord_verified k (s.pc k + 4).toNat e hwait htroot
      (by rw [hseq, hpc4, tlbHit_page _ _ _ (s.pc k).toNat _ (by omega)]; exact htlb) hacc (by rw [hpc4]; exact hline4)
    simp only [virtOk_of_lt (show (s.pc k + 4).toNat < 2 ^ 55 by omega), Bool.not_true, Bool.false_eq_true, if_false]
    rw [hsecond]
    exact ⟨_, _, _, rfl, rfl, fun j => (s1.setSeq_seq_same k j).trans (hseq j)⟩

theorem virtOk_of_le {v : Word} (h : 2 ^ 55 ≤ v.toNat) : virtOk v = false := by
  have := v.isLt
  have hhigh : bits v 55 9 ≠ 0 := by simp only [bits]; omega
  simpa [virtOk] using hhigh

/-- A PC beyond bit 54 takes the scratch bounds trap (R81, R170). -/
theorem State.fetch_beyond (s : State) (k : Nat) (h : 2 ^ 55 ≤ (s.pc k).toNat) :
    s.fetch k = .stop (s.trapAt k 3 0 (s.pc k).toNat) := by
  simp [State.fetch, virtOk_of_le h]

/-- The state that a fetch leaves. -/
def Fetched.state : Fetched → State
  | .words s _ _ => s
  | .hold s => s
  | .stop s => s

theorem exec_instructionFetch (s : State) (k : Nat) (h : s.canIssue k = true) :
    exec (.instructionFetch k) s = .next (s.fetch k).state := by
  change execInstructionFetch k s = _
  rw [execInstructionFetch, if_pos h]
  cases s.fetch k <;> rfl

/-! ### A TLB with one more entry -/

theorem tlbAdd_getLast? {n : Nat} (hn : 0 < n) (tlb : List TlbEntry) (e : TlbEntry) : (tlbAdd n tlb e).getLast? = some e := by
  simp only [tlbAdd, List.getLast?_drop, List.length_append, List.length_singleton]
  rw [if_neg (by omega)]
  simp

theorem tlbAdd_length_le (n : Nat) (tlb : List TlbEntry) (e : TlbEntry) : (tlbAdd n tlb e).length ≤ n := by
  simp only [tlbAdd, List.length_drop]
  omega

theorem exec_pageWalk_leaf {s t : State} {k n : Nat} {va : Word} {write : Bool} {e : TlbEntry}
    (h : s.walkFor (s.slot (slotKey k)).troot (va.toNat % 2 ^ 55) { kind := bit write, copy := true } = .ok (t, some e, n)) :
    exec (.pageWalk k va write) s = .next (t.modSeq k fun q => { q with tlb := tlbAdd 32 q.tlb e }) := by
  change execPageWalk k va write s = _
  rw [execPageWalk, h]

theorem exec_pageWalk_none {s : State} {k : Nat} {va : Word} {write : Bool}
    (h : ∀ t e n, s.walkFor (s.slot (slotKey k)).troot (va.toNat % 2 ^ 55) { kind := bit write, copy := true } ≠
      .ok (t, some e, n)) : exec (.pageWalk k va write) s = .next s := by
  change execPageWalk k va write s = _
  rw [execPageWalk]
  split
  case h_1 hwalk => exact absurd hwalk (h _ _ _)
  case h_2 => rfl

/-! ### DECLINE (R89) -/

/-- A request answered: what waits on it may take the answer. -/
def Request.decline (r : Request) : Request := { r with declined := true }

/-- The state in which the requests of a number are declined. -/
def State.declining (s : State) (req : Nat) : State :=
  { s with requests := s.requests.map fun x => if x.id = req then x.decline else x }

/-- A request that stands under its number alone is the one that the policy core's answer names. -/
theorem State.find_request {s : State} {r : Request} {req : Nat} (hr : r ∈ s.requests) (hid : r.id = req)
    (hone : ∀ x ∈ s.requests, x.id = req → x = r) : (s.requests.find? fun x => x.id == req) = some r := by
  cases h : s.requests.find? fun x => x.id == req with
  | none => exact absurd hid (by simpa using List.find?_eq_none.1 h r hr)
  | some x => rw [hone x (List.mem_of_find?_eq_some h) (by simpa using List.find?_some h)]

theorem exec_decline {s : State} {r : Request} {req : Nat} (hfind : (s.requests.find? fun x => x.id == req) = some r) :
    exec (.decline req) s =
      .next (if s.host.updating || r.declined then s
        else State.sweepRequests (r.waiters.foldl (fun s w => s.declineWaiter w) (s.declining req))) := by
  change execDecline req s = _
  rw [execDecline, hfind]
  rfl

/-- Only commands and fetches take the fault at once. -/
theorem State.foldl_declineWaiter {ws : List Waiter} (h : ∀ w ∈ ws, ∀ j, w ≠ .command j ∧ w ≠ .fetch j) (s : State) :
    ws.foldl (fun s w => s.declineWaiter w) s = s := by
  induction ws with
  | nil => rfl
  | cons w ws ih =>
    have hw : s.declineWaiter w = s := by
      unfold State.declineWaiter
      split
      case h_1 u => exact absurd rfl (h _ (by simp) u).1
      case h_2 j => exact absurd rfl (h _ (by simp) j).2
      case h_3 => rfl
    rw [List.foldl_cons, hw, ih fun w hw => h w (List.mem_cons_of_mem _ hw)]

theorem State.mem_sweepRequests (s : State) (x : Request) :
    x ∈ s.sweepRequests.requests ↔ x ∈ s.requests ∧ ¬ (x.declined = true ∧ x.waiters = []) := by
  simp only [State.sweepRequests, List.mem_filter, Bool.not_eq_true', Bool.and_eq_false_iff, List.isEmpty_eq_false_iff,
    not_and_or, Bool.not_eq_true, ne_eq]

/-- The first element with a property is also the first with a stronger one, when it has it. -/
theorem find?_of_imp {α : Type} {l : List α} {p q : α → Bool} {r : α} (h : l.find? q = some r) (hp : p r = true)
    (himp : ∀ x, p x = true → q x = true) : l.find? p = some r := by
  rw [List.find?_eq_some_iff_append] at h ⊢
  obtain ⟨-, l₁, l₂, rfl, hne⟩ := h
  refine ⟨hp, l₁, l₂, rfl, fun x hx => ?_⟩
  have := hne x hx
  cases hpx : p x with
  | false => rfl
  | true => simp [himp x hpx] at this

/-- The request that a source waits on, when it is declined and is for the page of its access, is the answer it finds. -/
theorem State.waitsPage_declining {s : State} {w : Waiter} {r : Request} {asid va : Nat} (hwait : s.waitsOn w = some r)
    (hasid : r.asid = asid) (hva : r.va.toNat / 2 ^ 16 = va / 2 ^ 16) :
    (s.declining r.id).waitsPage w asid va = some r.decline := by
  have hwaits : r.waiters.contains w = true := List.find?_some (p := fun x : Request => x.waiters.contains w) hwait
  have hfields (x : Request) : (if x.id = r.id then x.decline else x).waiters = x.waiters ∧
      (if x.id = r.id then x.decline else x).asid = x.asid ∧ (if x.id = r.id then x.decline else x).va = x.va := by
    split <;> exact ⟨rfl, rfl, rfl⟩
  simp only [State.waitsPage, State.declining, List.find?_map, Function.comp_def, hfields]
  rw [find?_of_imp hwait (by rw [hwaits, hasid, hva]; simp) fun x hx => by
    simp only [Bool.and_eq_true] at hx
    exact hx.1.1]
  simp

/-- A source that asks again for the page of a declined request takes the answer as a fault (R89). -/
theorem State.xlateSeq_declined {s : State} {k va engine : Nat} {w : Waiter} {a : Acc} {r : Request}
    (hpage : s.waitsPage w (bits (s.slot (slotKey k)).troot 52 12) va = some r) (hdecl : r.declined = true) :
    s.xlateSeq k va w engine a =
      ((s.takeAnswer w).setSeq k (s.seq k), .fault (reasonCode r.reason) r.reason) := by
  simp [State.xlateSeq, State.xlate, hpage, hdecl]
  rfl

/-- The state in which a fetch has taken the answer to its request. -/
def State.answerTaken (s : State) (k : Nat) : State := (s.takeAnswer (.fetch k)).setSeq k (s.seq k)

/-- A fetch whose request has been declined is a precise trap at its PC: page fault for reasons 1, 5 and 6, else protection
(R89, R170). -/
theorem State.fetch_declined {s : State} {k : Nat} {r : Request} (hvirt : (s.pc k).toNat < 2 ^ 55)
    (hpage : s.waitsPage (.fetch k) (bits (s.slot (slotKey k)).troot 52 12) (s.pc k).toNat = some r)
    (hdecl : r.declined = true) :
    s.fetch k = .stop ((s.answerTaken k).trapAt k (reasonCode r.reason) 0 (s.pc k).toNat) := by
  simp only [State.fetch, State.fetchWord, s.xlateSeq_declined hpage hdecl, virtOk_of_lt hvirt, readVia, Bool.not_true,
    Bool.false_eq_true, if_false]
  rfl

theorem State.declineWaiter_fetch {s : State} {k : Nat} (h : s.canIssue k = true) :
    s.declineWaiter (.fetch k) = (s.fetch k).state := by
  rw [State.declineWaiter, if_pos h]
  cases s.fetch k <;> rfl

/-- A declined request that one fetch alone waited on is over once the fetch has taken its answer. -/
theorem State.requests_answerTaken {s : State} {k req : Nat} (h : ∀ x ∈ s.requests, x.id = req → x.waiters = [.fetch k]) :
    ∀ x ∈ ((s.declining req).answerTaken k).requests, x.id ≠ req := by
  intro x hx
  change x ∈ State.requests (State.sweepRequests _) at hx
  obtain ⟨hx, hstays⟩ := (State.mem_sweepRequests _ _).1 hx
  simp only [State.declining, List.map_map, List.mem_map, Function.comp_def] at hx
  obtain ⟨y, hy, rfl⟩ := hx
  intro hid
  by_cases hyid : y.id = req
  · rw [if_pos hyid] at hstays
    exact hstays ⟨rfl, by simp [Request.decline, h y hy hyid]⟩
  · rw [if_neg hyid] at hid
    exact hyid hid

/-! ### SHOOTDOWN (R90) -/

theorem shotDown_iff (asid : BitVec 12) (lo hi : Word) (e : TlbEntry) :
    shotDown asid lo hi e = true ↔ e.asid = asid.toNat ∧ lo.toNat / 2 ^ 16 ≤ e.page ∧ e.page ≤ hi.toNat / 2 ^ 16 := by
  simp [shotDown, and_assoc]

/-- What a shootdown leaves of a TLB. -/
def dropShot (asid : BitVec 12) (lo hi : Word) (l : List TlbEntry) : List TlbEntry := l.filter fun e => !shotDown asid lo hi e

theorem mem_dropShot (asid : BitVec 12) (lo hi : Word) (l : List TlbEntry) (e : TlbEntry) :
    e ∈ dropShot asid lo hi l ↔
      e ∈ l ∧ ¬ (e.asid = asid.toNat ∧ lo.toNat / 2 ^ 16 ≤ e.page ∧ e.page ≤ hi.toNat / 2 ^ 16) := by
  rw [← shotDown_iff, Bool.not_eq_true, dropShot, List.mem_filter, Bool.not_eq_true']

/-- A sequencer and a core whose TLBs a shootdown has been through. -/
def Seq.afterShot (asid : BitVec 12) (lo hi : Word) (q : Seq) : Seq := { q with tlb := dropShot asid lo hi q.tlb }
def CoreSt.afterShot (asid : BitVec 12) (lo hi : Word) (c : CoreSt) : CoreSt :=
  { c with etlb := c.etlb.map fun t => (t.1, dropShot asid lo hi t.2) }

/-- A shootdown as it begins: what it names, and what is under way that it waits for. -/
def State.newShot (s : State) (asid : BitVec 12) (lo hi : Word) : Shot :=
  ⟨asid, lo, hi, s.mainEntries, (s.contribs.filterMap fun c => if c.uid = 0 then none else some c.uid) ++ s.unacked.map (·.1)⟩

/-- The state in which every TLB and every command has dropped the entries and the shootdown is under way. -/
def State.shooting (s : State) (asid : BitVec 12) (lo hi : Word) : State :=
  { s with
    seqs := s.seqs.map fun q => (q.1, q.2.afterShot asid lo hi)
    cores := s.cores.map fun c => (c.1, c.2.afterShot asid lo hi)
    cmds := s.cmds.map fun (c : Cmd) => { c with ops := dropShot asid lo hi c.ops }
    shots := s.shots ++ [s.newShot asid lo hi] }

theorem exec_shootdown (s : State) (asid : BitVec 12) (lo hi : Word) :
    exec (.shootdown asid lo hi) s = .next (s.shooting asid lo hi).endShots := rfl

theorem State.shooting_seq (s : State) (asid : BitVec 12) (lo hi : Word) (j : Nat) :
    (s.shooting asid lo hi).seq j = (s.seq j).afterShot asid lo hi := Kv.get_map (Seq.afterShot asid lo hi) {} s.seqs j

theorem State.shooting_core (s : State) (asid : BitVec 12) (lo hi : Word) (j : Nat) :
    (s.shooting asid lo hi).core j = (s.core j).afterShot asid lo hi := Kv.get_map (CoreSt.afterShot asid lo hi) {} s.cores j

theorem CoreSt.mem_etlb_afterShot (c : CoreSt) (asid : BitVec 12) (lo hi : Word) (n : Nat) (e : TlbEntry) :
    e ∈ Kv.get [] (c.afterShot asid lo hi).etlb n ↔ e ∈ Kv.get [] c.etlb n ∧
      ¬ (e.asid = asid.toNat ∧ lo.toNat / 2 ^ 16 ≤ e.page ∧ e.page ≤ hi.toNat / 2 ^ 16) := by
  have hget : Kv.get [] (c.afterShot asid lo hi).etlb n = dropShot asid lo hi (Kv.get [] c.etlb n) :=
    Kv.get_map (dropShot asid lo hi) [] c.etlb n
  rw [hget, mem_dropShot]

/-- Shootdowns that complete change the shootdowns under way and the policy core's records alone. -/
theorem State.endShots_eq (s : State) :
    s.endShots = { s with
      shots := s.shots.filter fun x => !s.shotOver x
      policy := s.policy ++ (s.shots.filter fun x => s.shotOver x).map fun x => PolicyRec.event "shootdown complete" x.lo x.hi } := by
  rw [State.endShots]
  split
  case isTrue h =>
    simp only [List.isEmpty_iff.1 h, List.filter_nil, List.map_nil, List.append_nil]
    rw [← List.isEmpty_iff.1 h]
  case isFalse => rfl

/-- With no access translated and not performed, a shootdown waits for nothing. -/
theorem State.newShot_over {s : State} (hstores : ∀ q ∈ s.seqs, q.2.stores = []) (hcontribs : s.contribs = [])
    (hunacked : s.unacked = []) (asid : BitVec 12) (lo hi : Word) :
    (s.shooting asid lo hi).shotOver (s.newShot asid lo hi) = true := by
  have hentries : s.mainEntries = [] := by
    simp only [State.mainEntries, List.flatMap_eq_nil_iff]
    intro q hq
    simp [hstores q hq]
  simp [State.shotOver, State.newShot, hentries, hcontribs, hunacked]

/-- A shootdown waits for every write at a peer that is not acknowledged. -/
theorem State.newShot_waits {s : State} (h : s.unacked ≠ []) (asid : BitVec 12) (lo hi : Word) :
    (s.shooting asid lo hi).shotOver (s.newShot asid lo hi) = false := by
  obtain ⟨y, hy⟩ := List.exists_mem_of_ne_nil _ h
  have hcmd : y.1 ∈ (s.newShot asid lo hi).cmds := List.mem_append_right _ (List.mem_map_of_mem hy)
  have hwaits : (s.shooting asid lo hi).unacked.any (fun u => u.1 == y.1) = true := List.any_eq_true.2 ⟨y, hy, by simp⟩
  cases hover : (s.shooting asid lo hi).shotOver (s.newShot asid lo hi) with
  | false => rfl
  | true =>
    simp only [State.shotOver, Bool.and_eq_true, List.all_eq_true] at hover
    have := hover.2 y.1 hcmd
    simp [hwaits] at this

/-! ### PATROL_SCRUB (R98, R369) -/

/-- Each core of a list changed by a function, once. -/
theorem State.foldl_modCore (f : CoreSt → CoreSt) {l : List Nat} (hl : l.Nodup) (s : State) :
    let u := l.foldl (fun s c => s.modCore c f) s
    u = { s with cores := u.cores } ∧ ∀ c, u.core c = if c ∈ l then f (s.core c) else s.core c := by
  induction l generalizing s with
  | nil => exact ⟨rfl, fun c => by simp⟩
  | cons x l ih =>
    obtain ⟨hx, hl⟩ := List.nodup_cons.1 hl
    obtain ⟨hframe, hcore⟩ := ih hl (s.modCore x f)
    refine ⟨hframe, fun c => ?_⟩
    rw [List.foldl_cons, hcore]
    by_cases hc : c = x
    · subst hc
      simp [hx, State.modCore]
    · rw [State.modCore_core_ne _ _ _ _ hc]
      simp [hc]

theorem coresOf_nodup (o : Nat) : (coresOf o).Nodup := by
  refine List.Nodup.filterMap (fun i j n hi hj => ?_) List.nodup_range
  simp only [Option.mem_def, Option.ite_none_right_eq_some, Option.some.injEq] at hi hj
  omega

/-- The line that a scrub visits. -/
def scrubKey (line : BitVec 52) : Nat := lineKey .main (memKey (line.toNat / 128 * 128))

/-- The state in which a scrub has counted an error at the cores of the line's octant. -/
def State.scrubbed (s : State) (line : BitVec 52) (unc : Bool) : State :=
  (coresOf (line.toNat / 128 * 128 % 2 ^ 40 / Config.octantBytes)).foldl
    (fun s c => s.modCore c fun x => { x with serrd := countErr x.serrd unc }) s

/-- The state in which a scrub has reported an uncorrectable error of a line, which stays. -/
def State.scrubReported (s : State) (line : BitVec 52) : State :=
  { s.scrubbed line true with
    policy := (s.scrubbed line true).policy ++ [PolicyRec.event "scrub" (zx line) 0]
    ecc := (s.scrubbed line true).ecc.filter (fun k => k != scrubKey line) ++ [scrubKey line] }

/-- A scrub that finds an uncorrectable error, now or from before, and one that finds none. -/
theorem exec_patrolScrub {s : State} {line : BitVec 52} {found : BitVec 2} {unc : Bool}
    (h : (decide (2 ≤ found.toNat) || s.ecc.contains (scrubKey line)) = unc) :
    exec (.patrolScrub line found) s =
      if s.host.updating = true ∨ (found = 0 ∧ unc = false) then .next s
      else .next (if unc then s.scrubReported line else s.scrubbed line false) := by
  change execPatrolScrub line found s = _
  rw [execPatrolScrub]
  simp only [← scrubKey.eq_1, h, ← State.scrubbed.eq_1, ← apply_ite]
  cases unc with
  | false => simp only [Bool.false_eq_true, if_false]
  | true => simp only [if_true, ← State.scrubReported.eq_1]

end Sys2Proof.Machine
end

section
/-! SUPPORT. The events of translation in the words of the statement, and the proof of O49. -/

namespace Sys2Proof.Claims
open Sys2Proof.Machine

/-- The entry of a translation root's address space, as a field. -/
theorem bits_asid (v : Word) : bits v 52 12 = v.toNat / 2 ^ 52 := Nat.mod_eq_of_lt (by have := v.isLt; omega)

/-! ### INSTRUCTION_FETCH -/

/-- A precise trap of any sequencer, whose slot does not stop, is what `Trapped` says of it as the one that issues. -/
theorem trapped_trapAt_withCur {s : State} {k code engine addr status : Nat} (hstop : (s.slot (slotKey k)).stopping = none)
    (hcode : code < 256) (hengine : engine < 16) :
    Trapped { s with cur := k } { s.trapAt k code engine addr status with cur := k } (s.slot (slotKey k)) code engine addr
      status := by
  refine ⟨s.preciseRec k code engine addr status, rfl, ?frame, fun j hj => s.trapAt_seq_ne _ _ _ _ _ j hj,
    fun j hj => s.trapAt_slot_ne _ _ _ _ _ j hj, ?slot, s.trapAt_seq_self _ _ _ _ _⟩
  case frame => exact congrArg (fun t : State => { t with cur := k }) (s.trapAt_frame k code engine addr status)
  case slot =>
    refine (s.trapAt_slot_self k code engine addr status).trans ?_
    rw [Slot.governs_of_running _ hstop, Nat.mod_eq_of_lt hcode, Nat.mod_eq_of_lt hengine]
    simp only [Option.isNone_iff_eq_none]

theorem instructionFetch_beyond {s : State} {k : Nat} (hi : s.canIssue k = true) (hpc : 2 ^ 55 ≤ (s.pc k).toNat) :
    Leads (.instructionFetch k) s fun u =>
      Trapped { s with cur := k } { u with cur := k } (s.slot (slotKey k)) 3 0 (s.pc k).toNat 0 := by
  refine ⟨s.trapAt k 3 0 (s.pc k).toNat, ?_, trapped_trapAt_withCur (stopping_of_canIssue hi) (by decide) (by decide)⟩
  rw [exec_instructionFetch s k hi, s.fetch_beyond k hpc, Fetched.state]

theorem instructionFetch_hit {s : State} {k : Nat} {e : TlbEntry} (hi : s.canIssue k = true)
    (hpc : (s.pc k).toNat < 2 ^ 55) (hpage : (s.pc k).toNat % 2 ^ 16 + 4 < 2 ^ 16) (hwait : s.waitsOn (.fetch k) = none)
    (htroot : (s.slot (slotKey k)).troot.getLsbD 0 = true) (hacc : e.acc = true)
    (htlb : tlbHit (s.seq k).tlb ((s.slot (slotKey k)).troot.toNat / 2 ^ 52) (s.pc k).toNat { kind := 2 } = some e)
    (hline : s.verify .main (memKey (e.base + (s.pc k).toNat % 2 ^ 16)) 4 = none)
    (hline4 : s.verify .main (memKey (e.base + ((s.pc k).toNat + 4) % 2 ^ 16)) 4 = none) :
    Leads (.instructionFetch k) s fun u => u = { s with seqs := u.seqs } ∧ ∀ j, u.seq j = s.seq j := by
  rw [← bits_asid] at htlb
  obtain ⟨t, w, x, hfetch, hframe, hseq⟩ :=
    s.fetch_hit k e hpc hpage hwait (bits_zero_one_eq_one htroot) htlb hacc hline hline4
  exact ⟨t, by rw [exec_instructionFetch s k hi, hfetch, Fetched.state], hframe, hseq⟩

/-! ### PAGE_WALK -/

theorem pageWalk_leaf {s t : State} {k n : Nat} {va : Word} {write : Bool} {e : TlbEntry}
    (h : s.walkFor (s.slot (slotKey k)).troot (va.toNat % 2 ^ 55) { kind := bit write, copy := true } = .ok (t, some e, n)) :
    Leads (.pageWalk k va write) s fun u => u = { t with seqs := u.seqs } ∧
      (∀ j, u.seq j = if j = k then { t.seq k with tlb := (u.seq k).tlb } else t.seq j) ∧
      (u.seq k).tlb.getLast? = some e ∧ (u.seq k).tlb.length ≤ 32 := by
  refine ⟨_, exec_pageWalk_leaf h, rfl, fun j => ?_, ?_, ?_⟩
  · split
    next hj => rw [hj, State.modSeq_seq_self]
    next hj => exact State.modSeq_seq_ne _ _ _ _ hj
  · rw [State.modSeq_seq_self]
    exact tlbAdd_getLast? (by decide) _ e
  · rw [State.modSeq_seq_self]
    exact tlbAdd_length_le 32 _ e

/-! ### RETRY and DECLINE -/

theorem retry_leads {s : State} (h : s.host.updating = false) (req : Nat) :
    Leads (.retry req) s fun u => u = { s with requests := u.requests } ∧
      ∀ x, x ∈ u.requests ↔ x ∈ s.requests ∧ x.id ≠ req := by
  refine ⟨{ s with requests := s.requests.filter fun r => r.id != req }, ?_, rfl, fun x => ?_⟩
  · change execRetry req s = _
    simp [execRetry, h]
  · simp

theorem exec_retry_updating {s : State} (h : s.host.updating = true) (req : Nat) : exec (.retry req) s = .next s := by
  change execRetry req s = _
  simp [execRetry, h]

theorem exec_decline_updating {s : State} (h : s.host.updating = true) (req : Nat) : exec (.decline req) s = .next s := by
  change execDecline req s = _
  unfold execDecline
  split
  case h_1 => rfl
  case h_2 => simp [h]

/-- A decline that no command and no fetch waits for is kept for those that do wait. -/
theorem decline_keeps {s : State} {r : Request} {req : Nat} (hup : s.host.updating = false)
    (hfind : (s.requests.find? fun x => x.id == req) = some r) (hdecl : r.declined = false)
    (hw : ∀ w ∈ r.waiters, ∀ j, w ≠ .command j ∧ w ≠ .fetch j) :
    Leads (.decline req) s fun u => u = { s with requests := u.requests } ∧
      ∀ x, x ∈ u.requests ↔ (∃ y ∈ s.requests, x = (if y.id = req then { y with declined := true } else y) ∧
        ¬ (x.declined = true ∧ x.waiters = [])) := by
  refine ⟨(s.declining req).sweepRequests, ?_, rfl, fun x => ?_⟩
  · rw [exec_decline hfind, hup, hdecl, State.foldl_declineWaiter hw]
    rfl
  · rw [State.mem_sweepRequests]
    simp only [State.declining, List.mem_map, ← exists_and_right, and_assoc, eq_comm (a := x)]
    rfl

/-- A decline of the request that a fetch waits on for the page of its PC is a precise trap there. -/
theorem decline_traps {s : State} {r : Request} {k req : Nat} (hup : s.host.updating = false)
    (hfind : (s.requests.find? fun x => x.id == req) = some r) (hone : ∀ x ∈ s.requests, x.id = req → x = r)
    (hdecl : r.declined = false) (hw : r.waiters = [.fetch k]) (hwait : s.waitsOn (.fetch k) = some r)
    (hi : s.canIssue k = true) (hpc : (s.pc k).toNat < 2 ^ 55) (hasid : r.asid = (s.slot (slotKey k)).troot.toNat / 2 ^ 52)
    (hva : r.va.toNat / 2 ^ 16 = (s.pc k).toNat / 2 ^ 16) :
    Leads (.decline req) s fun u => (∀ x ∈ u.requests, x.id ≠ req) ∧ u.mem = s.mem ∧ (u.seq k).stopped = true ∧
      ∃ t : TrapRec, u.policy = s.policy ++ [.trap t] ∧ t.prec = true ∧ t.pc = s.pc k ∧ t.engine = 0 ∧
        t.code = if r.reason = 1 ∨ r.reason = 5 ∨ r.reason = 6 then 5 else 6 := by
  have hid : r.id = req := by simpa using List.find?_some hfind
  let d := s.declining req
  let a := d.answerTaken k
  have hpage : d.waitsPage (.fetch k) (bits (d.slot (slotKey k)).troot 52 12) (d.pc k).toNat = some r.decline := by
    rw [bits_asid]
    subst hid
    exact State.waitsPage_declining hwait hasid hva
  have hfetch : d.fetch k = .stop (a.trapAt k (reasonCode r.reason) 0 (s.pc k).toNat) :=
    State.fetch_declined (r := r.decline) hpc hpage rfl
  have hdecline : d.declineWaiter (.fetch k) = a.trapAt k (reasonCode r.reason) 0 (s.pc k).toNat := by
    rw [State.declineWaiter_fetch (s := d) hi, hfetch, Fetched.state]
  refine ⟨(a.trapAt k (reasonCode r.reason) 0 (s.pc k).toNat).sweepRequests, ?_, fun x hx => ?_, rfl, ?_,
    a.preciseRec k (reasonCode r.reason) 0 (s.pc k).toNat 0, rfl, rfl, ?_, rfl, rfl⟩
  · rw [exec_decline hfind, hup, hdecl, hw]
    exact congrArg (fun t => Host.Outcome.next (State.sweepRequests t)) hdecline
  · obtain ⟨hx, -⟩ := (State.mem_sweepRequests _ x).1 hx
    exact State.requests_answerTaken (fun y hy hy' => by rw [hone y hy hy', hw]) x hx
  · exact congrArg Seq.stopped (State.trapAt_seq_self a k (reasonCode r.reason) 0 (s.pc k).toNat 0)
  · exact congrArg Seq.pc (State.setSeq_seq_self (d.takeAnswer (.fetch k)) k (d.seq k))

/-! ### SHOOTDOWN -/

theorem shootdown_leads (s : State) (asid : BitVec 12) (lo hi : Word) :
    Leads (.shootdown asid lo hi) s (fun u =>
      let hit (e : TlbEntry) : Prop := e.asid = asid.toNat ∧ lo.toNat / 2 ^ 16 ≤ e.page ∧ e.page ≤ hi.toNat / 2 ^ 16
      u = { s with seqs := u.seqs, cores := u.cores, cmds := u.cmds, shots := u.shots, policy := u.policy } ∧
      (∀ j, u.seq j = { s.seq j with tlb := (u.seq j).tlb } ∧ ∀ e, e ∈ (u.seq j).tlb ↔ e ∈ (s.seq j).tlb ∧ ¬ hit e) ∧
      (∀ j, u.core j = { s.core j with etlb := (u.core j).etlb } ∧
        ∀ n e, e ∈ Kv.get [] (u.core j).etlb n ↔ e ∈ Kv.get [] (s.core j).etlb n ∧ ¬ hit e) ∧
      (∃ l : Cmd → List TlbEntry, u.cmds = s.cmds.map (fun c => { c with ops := l c }) ∧
        ∀ c e, e ∈ l c ↔ e ∈ c.ops ∧ ¬ hit e) ∧
      (s.shots = [] → (∀ q ∈ s.seqs, q.2.stores = []) → s.contribs = [] → s.unacked = [] →
        u.shots = [] ∧ u.policy = s.policy ++ [.event "shootdown complete" lo hi]) ∧
      (s.shots = [] → s.unacked ≠ [] → u.policy = s.policy ∧ ∃ x, u.shots = [x] ∧ ∀ y ∈ s.unacked, y.1 ∈ x.cmds)) := by
  refine ⟨_, exec_shootdown s asid lo hi, ?_⟩
  rw [State.endShots_eq]
  refine ⟨rfl, fun j => ?seqs, fun j => ?cores, ⟨fun c => dropShot asid lo hi c.ops, rfl, fun c e => mem_dropShot _ _ _ _ e⟩,
    fun hshots hstores hcontribs hunacked => ?completes, fun hshots hunacked => ?waits⟩
  case seqs =>
    have hseq := s.shooting_seq asid lo hi j
    refine ⟨?_, fun e => ?_⟩
    · exact hseq.trans (congrArg (fun q : Seq => { s.seq j with tlb := q.tlb }) hseq.symm)
    · exact (congrArg (fun q : Seq => e ∈ q.tlb) hseq).to_iff.trans (mem_dropShot asid lo hi _ e)
  case cores =>
    have hcore := s.shooting_core asid lo hi j
    refine ⟨?_, fun n e => ?_⟩
    · exact hcore.trans (congrArg (fun c : CoreSt => { s.core j with etlb := c.etlb }) hcore.symm)
    · exact (congrArg (fun c : CoreSt => e ∈ Kv.get [] c.etlb n) hcore).to_iff.trans (CoreSt.mem_etlb_afterShot _ asid lo hi n e)
  case completes =>
    have hover := State.newShot_over hstores hcontribs hunacked asid lo hi
    have hall : (s.shooting asid lo hi).shots = [s.newShot asid lo hi] := by simp [State.shooting, hshots]
    simp only [hall, List.filter_cons, hover]
    exact ⟨rfl, rfl⟩
  case waits =>
    have hover := State.newShot_waits hunacked asid lo hi
    have hall : (s.shooting asid lo hi).shots = [s.newShot asid lo hi] := by simp [State.shooting, hshots]
    simp only [hall, List.filter_cons, hover]
    exact ⟨List.append_nil _, _, rfl, fun y hy => List.mem_append_right _ (List.mem_map_of_mem hy)⟩

/-! ### PATROL_SCRUB -/

/-- Of the module a scrub that counts an error changes SERRD of the cores of the line's octant (R369, R370). -/
theorem scrubbed_spec (s : State) (line : BitVec 52) (unc : Bool) :
    s.scrubbed line unc = { s with cores := (s.scrubbed line unc).cores } ∧ ∀ c, (s.scrubbed line unc).core c =
      if c ∈ coresOf (line.toNat / 128 * 128 % 2 ^ 40 / Config.octantBytes) then
        { s.core c with serrd := BitVec.ofNat 64 (counted (s.core c).serrd unc) }
      else s.core c := State.foldl_modCore _ (coresOf_nodup _) s

theorem patrolScrub_nothing {s : State} {line : BitVec 52} {found : BitVec 2}
    (h : s.host.updating = true ∨ (found = 0 ∧ s.ecc.contains (scrubKey line) = false)) :
    exec (.patrolScrub line found) s = .next s := by
  rw [exec_patrolScrub rfl]
  refine if_pos (h.imp_right fun ⟨hfound, hecc⟩ => ⟨hfound, ?_⟩)
  rw [hfound, hecc]
  rfl

theorem patrolScrub_corrected {s : State} {line : BitVec 52} {found : BitVec 2} (hup : s.host.updating = false)
    (hfound : found = 1) (hecc : s.ecc.contains (scrubKey line) = false) :
    exec (.patrolScrub line found) s = .next (s.scrubbed line false) := by
  subst hfound
  rw [exec_patrolScrub (unc := false) (by rw [hecc]; rfl), if_neg (by simp [hup])]
  rfl

theorem patrolScrub_uncorrectable {s : State} {line : BitVec 52} {found : BitVec 2} (hup : s.host.updating = false)
    (h : 2 ≤ found.toNat ∨ s.ecc.contains (scrubKey line) = true) :
    exec (.patrolScrub line found) s = .next (s.scrubReported line) := by
  rw [exec_patrolScrub (unc := true) (by rwa [Bool.or_eq_true, decide_eq_true_eq]), if_neg (by simp [hup])]
  rfl

/-- Of the module a reported error changes SERRD, the lines with an uncorrectable error and the policy core's records. -/
theorem scrubReported_spec (s : State) (line : BitVec 52) :
    s.scrubReported line = { s with
      cores := (s.scrubReported line).cores
      ecc := (s.scrubReported line).ecc
      policy := s.policy ++ [.event "scrub" (line.setWidth 64) 0] } ∧
    (∀ c, (s.scrubReported line).core c =
      if c ∈ coresOf (line.toNat / 128 * 128 % 2 ^ 40 / Config.octantBytes) then
        { s.core c with serrd := BitVec.ofNat 64 (counted (s.core c).serrd true) }
      else s.core c) ∧
    ∀ n, n ∈ (s.scrubReported line).ecc ↔ n = scrubKey line ∨ n ∈ s.ecc := by
  obtain ⟨hframe, hcores⟩ := scrubbed_spec s line true
  rw [State.scrubReported]
  generalize s.scrubbed line true = t at hframe hcores
  refine ⟨?frame, hcores, fun n => ?ecc⟩
  case frame =>
    rw [hframe]
    rfl
  case ecc =>
    have hecc : t.ecc = s.ecc := by rw [hframe]
    simp only [hecc, List.mem_append, List.mem_filter, bne_iff_ne, ne_eq, List.mem_singleton]
    tauto

/-! ### O49 -/

/-- Settles O49: every clause is the lemma of its event. -/
theorem translationEvents : Obligations.TranslationEvents := by
  unfold Obligations.TranslationEvents
  intro s k req va lo hi write asid line found
  refine ⟨fun hi => ?idle, instructionFetch_beyond, fun e hi hpc hpage hwait htroot hacc htlb hline hline4 =>
    instructionFetch_hit hi hpc hpage hwait htroot hacc htlb hline hline4, ⟨fun t e n h => pageWalk_leaf h, exec_pageWalk_none⟩,
    fun hup => ⟨exec_retry_updating hup req, exec_decline_updating hup req⟩, fun hup => retry_leads hup req,
    fun r hup hr hid hone => ?decline, shootdown_leads s asid lo hi, patrolScrub_nothing, fun hup hfound hecc => ?corrected,
    fun hup h => ?uncorrectable⟩
  case idle =>
    change execInstructionFetch k s = _
    simp [execInstructionFetch, hi]
  case decline =>
    have hfind := State.find_request hr hid hone
    refine ⟨fun hdecl => ?_, decline_keeps hup hfind, fun hdecl hw hwait hi hpc hasid hva =>
      decline_traps hup hfind hone hdecl hw hwait hi hpc hasid hva⟩
    rw [exec_decline hfind, hdecl, Bool.or_true]
    rfl
  case corrected => exact ⟨_, patrolScrub_corrected hup hfound hecc, scrubbed_spec s line false⟩
  case uncorrectable => exact ⟨_, patrolScrub_uncorrectable hup h, scrubReported_spec s line⟩

end Sys2Proof.Claims
end

section
/-! SUPPORT. Lines of main memory as they are written, verified and sent (R93 to R96, R381), what packets of the fabric do to them,
and the stop notice (R343). -/

namespace Sys2Proof.Machine

/-! ### Stores without a key -/

theorem Kv.get_del {α : Type} (d : α) (l : List (Nat × α)) (a b : Nat) :
    Kv.get d (Kv.del l a) b = if b = a then d else Kv.get d l b := by
  split
  next h => exact Kv.get_none _ _ _ fun c hc => by simpa [h] using (List.mem_filter.1 hc).2
  next h => exact Kv.get_filter _ _ _ _ fun v => by simpa using h

theorem Kv.has_iff {α : Type} (l : List (Nat × α)) (a : Nat) : Kv.has l a = true ↔ ∃ c ∈ l, c.1 = a := by
  induction l with
  | nil => simp [Kv.has]
  | cons c r ih =>
    obtain ⟨k, v⟩ := c
    simp only [Kv.has, List.mem_cons, exists_eq_or_imp, ← ih]
    split <;> simp_all

theorem Kv.has_filter_ne {α : Type} (l : List (Nat × α)) (k a : Nat) :
    Kv.has (l.filter fun c => c.1 != k) a = (a != k && Kv.has l a) := by
  rw [Bool.eq_iff_iff, Bool.and_eq_true, Kv.has_iff, Kv.has_iff]
  constructor
  · rintro ⟨c, hc, rfl⟩
    obtain ⟨hc, hne⟩ := List.mem_filter.1 hc
    exact ⟨hne, c, hc, rfl⟩
  · rintro ⟨hne, c, hc, rfl⟩
    exact ⟨c, List.mem_filter.2 ⟨hc, hne⟩, rfl⟩

theorem Kv.has_put_self {α : Type} (l : List (Nat × α)) (a : Nat) (v : α) : Kv.has (Kv.put l a v) a = true := by
  induction l with
  | nil => simp [Kv.put, Kv.has]
  | cons c r ih =>
    obtain ⟨k, w⟩ := c
    simp only [Kv.put]
    split
    · simp [Kv.has]
    · split
      · simp [Kv.has]
      · simp only [Kv.has, ih, ite_self]

theorem Mem.read_write_out (m : List Host.Cell) (a : Nat) (bs : List Byte) (b n : Nat) (h : b + n ≤ a ∨ a + bs.length ≤ b) :
    Mem.read (Mem.write m a bs) b n = Mem.read m b n := by
  rw [Mem.read_eq, Mem.read_eq]
  refine List.map_congr_left fun i hi => Mem.get_write_out m a bs (b + i) ?_
  have := List.mem_range.1 hi
  omega

/-! ### One line written whole -/

/-- What stands at a line of main memory: its bytes, its origin tag, and what verification reports of it. -/
def State.lineAt (s : State) (x : Nat) : List Byte × BitVec 16 × Option BadLine :=
  (Mem.read s.mem x 128, s.tag .main x, s.verifyLine .main x)

/-- The origin tags with one line's set; the reset fill's is not listed. -/
def setTag (tags : List (Nat × BitVec 16)) (k : Nat) (tag : BitVec 16) : List (Nat × BitVec 16) :=
  if tag = 0x6000 then Kv.del tags k else Kv.put tags k tag

theorem get_setTag (tags : List (Nat × BitVec 16)) (k j : Nat) (tag : BitVec 16) :
    Kv.get 0x6000 (setTag tags k tag) j = if j = k then tag else Kv.get 0x6000 tags j := by
  rw [setTag]
  split
  next h => rw [Kv.get_del, h]
  next h => rw [Kv.get_put]

theorem lineKey_main_inj {x a : Nat} (hx : x % 128 = 0) (ha : a % 128 = 0) : lineKey .main x = lineKey .main a ↔ x = a := by
  simp only [lineKey, Space.num]
  omega

/-- A write of a whole line (R96): its bytes, a check word made anew, and its tag. -/
theorem State.poke_line (s : State) {a : Nat} {bs : List Byte} (tag : BitVec 16) (ha : a % 128 = 0) (hbs : bs.length = 128) :
    s.poke .main a bs tag = { s with
      mem := Mem.write s.mem a bs
      bad := s.bad.filter fun c => c.1 != lineKey .main a
      ecc := s.ecc.filter fun c => c != lineKey .main a
      tags := setTag s.tags (lineKey .main a) tag } := by
  have hone : (a + bs.length + 127) / 128 - a / 128 = 1 := by omega
  have haddr : (a / 128 + 0) * 128 = a := by omega
  simp only [State.poke, hone, List.range_one, List.map_cons, List.map_nil, haddr, List.foldl_cons, List.foldl_nil,
    List.contains_cons, List.contains_nil, Bool.or_false, State.put]
  rfl

theorem State.tag_poke_line (s : State) {a x : Nat} {bs : List Byte} (tag : BitVec 16) (ha : a % 128 = 0) (hx : x % 128 = 0)
    (hbs : bs.length = 128) : (s.poke .main a bs tag).tag .main x = if x = a then tag else s.tag .main x := by
  rw [s.poke_line tag ha hbs, State.tag, get_setTag]
  simp only [lineKey_main_inj hx ha, State.tag]

/-- A line that is listed neither with an error nor with a check word verifies. -/
theorem State.verifyLine_sound {s : State} {x : Nat} (hecc : s.ecc.contains (lineKey .main x) = false)
    (hbad : Kv.has s.bad (lineKey .main x) = false) : s.verifyLine .main x = none := by
  simp only [State.verifyLine, hecc, hbad, Bool.false_eq_true, if_false]

theorem State.verifyLine_poke_line_self (s : State) {a : Nat} {bs : List Byte} (tag : BitVec 16) (ha : a % 128 = 0)
    (hbs : bs.length = 128) : (s.poke .main a bs tag).verifyLine .main a = none := by
  rw [s.poke_line tag ha hbs]
  exact State.verifyLine_sound (by simp) (by simp [Kv.has_filter_ne])

theorem State.verifyLine_poke_line_ne (s : State) {a x : Nat} {bs : List Byte} (tag : BitVec 16) (ha : a % 128 = 0)
    (hx : x % 128 = 0) (hbs : bs.length = 128) (h : x ≠ a) :
    (s.poke .main a bs tag).verifyLine .main x = s.verifyLine .main x := by
  have hkey : lineKey .main x ≠ lineKey .main a := fun hk => h ((lineKey_main_inj hx ha).1 hk)
  have htag := s.tag_poke_line tag ha hx hbs
  rw [if_neg h] at htag
  have hread : Mem.read (Mem.write s.mem a bs) (x / 128 * 128) 128 = Mem.read s.mem (x / 128 * 128) 128 :=
    Mem.read_write_out _ _ _ _ _ (by omega)
  have hget : Kv.get 0 (s.bad.filter fun c => c.1 != lineKey .main a) (lineKey .main x) = Kv.get 0 s.bad (lineKey .main x) :=
    Kv.get_filter _ _ _ _ fun v => by simpa using hkey
  have hhas : Kv.has (s.bad.filter fun c => c.1 != lineKey .main a) (lineKey .main x) = Kv.has s.bad (lineKey .main x) := by
    simp [Kv.has_filter_ne, hkey]
  have hecc : (s.ecc.filter fun c => c != lineKey .main a).contains (lineKey .main x) = s.ecc.contains (lineKey .main x) := by
    simp [hkey]
  unfold State.verifyLine
  rw [htag, s.poke_line tag ha hbs]
  simp only [State.bytes, hread, hget, hhas, hecc]

/-- The line written has its new bytes and tag, and verifies; every other line stands as it was. -/
theorem State.lineAt_poke_line (s : State) {a x : Nat} {bs : List Byte} (tag : BitVec 16) (ha : a % 128 = 0)
    (hx : x % 128 = 0) (hbs : bs.length = 128) :
    (s.poke .main a bs tag).lineAt x = if x = a then (bs, tag, none) else s.lineAt x := by
  have htag := s.tag_poke_line tag ha hx hbs
  split at htag
  next h =>
    subst h
    have hread : Mem.read (s.poke .main x bs tag).mem x 128 = bs := hbs ▸ s.bytes_poke_main x bs tag
    rw [State.lineAt, htag, hread, s.verifyLine_poke_line_self tag ha hbs, if_pos rfl]
  next h =>
    have hread : Mem.read (s.poke .main a bs tag).mem x 128 = Mem.read s.mem x 128 := Mem.read_write_out _ _ _ _ _ (by omega)
    rw [State.lineAt, htag, hread, s.verifyLine_poke_line_ne tag ha hx hbs h, if_neg h, State.lineAt]

/-! ### Lines that leave and enter (R95, R381) -/

/-- A line as it leaves, its check word made there. -/
def State.leavingLine (s : State) (x : Nat) : FlitLine := ⟨Mem.read s.mem x 128, crc32c (Mem.read s.mem x 128), s.tag .main x⟩

theorem State.egress_verified {s : State} {x : Nat} (h : s.verifyLine .main x = none) : s.egress x = some (s.leavingLine x) := by
  simp only [State.egress, h]
  rfl

theorem State.egress_bad {s : State} {x : Nat} (h : s.verifyLine .main x ≠ none) : s.egress x = none := by
  obtain ⟨b, hb⟩ := Option.ne_none_iff_exists'.1 h
  simp only [State.egress, hb]

theorem flitIntact_iff (l : FlitLine) : flitIntact l = true ↔ l.bytes.length = 128 ∧ crc32c l.bytes = l.crc := by
  simp [flitIntact]

/-- Intact lines of a rank are all put at their places, with tags that name it; nothing else is touched. -/
theorem State.ingress_intact {src : Nat} {ls : List FlitLine} (h : ∀ l ∈ ls, flitIntact l = true) {a : Nat} (ha : a % 128 = 0)
    (s : State) :
    ∃ t, s.ingress src a ls = (t, true) ∧ t = { s with mem := t.mem, bad := t.bad, ecc := t.ecc, tags := t.tags } ∧
      (∀ (i : Nat) (l : FlitLine), ls[i]? = some l → t.lineAt (a + 128 * i) = (l.bytes, fabricTag (a + 128 * i) src, none)) ∧
      (∀ x, x % 128 = 0 → x < a → t.lineAt x = s.lineAt x) ∧
      ∀ b, (b < a ∨ a + 128 * ls.length ≤ b) → Mem.get t.mem b = Mem.get s.mem b := by
  induction ls generalizing s a with
  | nil => exact ⟨s, rfl, rfl, by simp, fun _ _ _ => rfl, fun _ _ => rfl⟩
  | cons l ls ih =>
    have hl := h l (by simp)
    have hlen : l.bytes.length = 128 := ((flitIntact_iff l).1 hl).1
    let p := s.poke .main a l.bytes (fabricTag a src)
    obtain ⟨t, hingress, hframe, hlines, hbelow, hbytes⟩ :=
      ih (fun x hx => h x (List.mem_cons_of_mem _ hx)) (a := a + 128) (by omega) p
    refine ⟨t, by rw [State.ingress, if_pos hl]; exact hingress, hframe, fun i x hx => ?lines, fun x hx hxa => ?below,
      fun b hb => ?bytes⟩
    case lines =>
      cases i with
      | zero =>
        obtain rfl : l = x := by simpa using hx
        rw [Nat.mul_zero, Nat.add_zero, hbelow a ha (by omega), s.lineAt_poke_line _ ha ha hlen, if_pos rfl]
      | succ i =>
        have := hlines i x (by simpa using hx)
        rwa [show a + 128 + 128 * i = a + 128 * (i + 1) by omega] at this
    case below => rw [hbelow x hx (by omega), s.lineAt_poke_line _ ha hx hlen, if_neg (by omega)]
    case bytes =>
      rw [List.length_cons] at hb
      rw [hbytes b (by omega)]
      exact Mem.get_write_out _ _ _ _ (by omega)

/-- A line of a peer as this module sees it from a response on: one that fails keeps its check word and its tag (R95). -/
def State.seeLine (s : State) (src a : Nat) (l : FlitLine) : State :=
  let p := s.poke .main a l.bytes (if flitIntact l then fabricTag a src else l.tag)
  if flitIntact l then p else { p with bad := Kv.put p.bad (lineKey .main a) l.crc }

theorem State.seeLine_frame (s : State) (src a : Nat) (l : FlitLine) :
    s.seeLine src a l = { s with
      mem := Mem.write s.mem a l.bytes
      bad := (s.seeLine src a l).bad
      ecc := (s.seeLine src a l).ecc
      tags := (s.seeLine src a l).tags } := by
  unfold State.seeLine
  split <;> rfl

theorem State.lineAt_seeLine_intact (s : State) (src : Nat) {a : Nat} {l : FlitLine} (ha : a % 128 = 0) (h : flitIntact l = true) :
    (s.seeLine src a l).lineAt a = (l.bytes, fabricTag a src, none) := by
  simp only [State.seeLine, h, if_true]
  rw [s.lineAt_poke_line _ ha ha ((flitIntact_iff l).1 h).1, if_pos rfl]

theorem State.lineAt_seeLine_bad (s : State) (src : Nat) {a : Nat} {l : FlitLine} (ha : a % 128 = 0) (hlen : l.bytes.length = 128)
    (h : flitIntact l = false) : (s.seeLine src a l).lineAt a =
      (l.bytes, l.tag, some ⟨a, l.crc, crc32c l.bytes, l.tag, false, lineKey .main a⟩) := by
  have hbase : a / 128 * 128 = a := by omega
  have htag := s.tag_poke_line l.tag ha ha hlen
  rw [if_pos rfl] at htag
  have hread : Mem.read (s.poke .main a l.bytes l.tag).mem a 128 = l.bytes := hlen ▸ s.bytes_poke_main a l.bytes l.tag
  have hecc : (s.poke .main a l.bytes l.tag).ecc.contains (lineKey .main a) = false := by simp [s.poke_line l.tag ha hlen]
  simp only [State.seeLine, h, Bool.false_eq_true, if_false]
  generalize s.poke .main a l.bytes l.tag = p at htag hread hecc
  have htag' : State.tag { p with bad := Kv.put p.bad (lineKey .main a) l.crc } .main a = l.tag := htag
  simp only [State.lineAt, State.verifyLine, htag', hecc, Kv.has_put_self, Kv.get_put_self, hbase, hread, State.bytes,
    Bool.false_eq_true, if_false, if_true]

/-- Of the module an answer to a lookup changes the reads at peers and what lookups have found. -/
theorem State.answerLookup_frame (s : State) (src a n : Nat) :
    s.answerLookup src a n = { s with
      peerReads := (s.answerLookup src a n).peerReads
      peerIndex := (s.answerLookup src a n).peerIndex } := by
  unfold State.answerLookup
  split <;> rfl

end Sys2Proof.Machine
end

section
/-! SUPPORT. The packets of the fabric in the words of the statement (R95, R142, R346, R381). -/

namespace Sys2Proof.Claims
open Sys2Proof.Machine

/-- A packet that is not let through, or a line that fails as it leaves or enters, is a record for the policy core alone. -/
def OnlyRecorded (i : Instr) (s : State) : Prop := Leads i s fun u => ∃ e, u = { s with policy := s.policy ++ [e] }

theorem onlyRecorded_of_event {i : Instr} {s : State} {name : String} {x y : Word} (h : exec i s = .next (s.event name x y)) :
    OnlyRecorded i s := ⟨_, h, _, rfl⟩

theorem contains_eq_false {α : Type} [BEq α] [LawfulBEq α] {l : List α} {a : α} : l.contains a = false ↔ a ∉ l := by
  rw [← Bool.not_eq_true, List.contains_iff_mem]

/-! ### Reads -/

theorem adoshRead_answers {s : State} {src : BitVec 8} {pa : BitVec 52} {lines : Nat} (hpeer : src.toNat ∈ s.peers)
    (hroom : packetAddr pa + 128 * Min.min lines 32 ≤ Config.dramBytes)
    (hlines : ∀ i, i < Min.min lines 32 → s.verifyLine .main (packetAddr pa + 128 * i) = none) :
    Leads (.adoshRead src pa lines) s fun u => ∃ p : Packet, u = { s with fabricOut := s.fabricOut ++ [p] } ∧
      p.typ = 3 ∧ p.src = s.host.rank ∧ p.dst = src.toNat ∧ p.pa = pa.toNat ∧ p.data.length = Min.min lines 32 ∧
      ∀ i, i < Min.min lines 32 → p.data[i]? = some (s.leavingLine (packetAddr pa + 128 * i)) := by
  let line (i : Nat) : FlitLine := s.leavingLine (packetAddr pa + 128 * i)
  have hleave : ((List.range (Min.min lines 32)).map fun i => s.egress (packetAddr pa + 128 * i)) =
      (List.range (Min.min lines 32)).map fun i => some (line i) :=
    List.map_congr_left fun i hi => State.egress_verified (hlines i (List.mem_range.1 hi))
  refine ⟨{ s with fabricOut := s.fabricOut ++ [{ typ := 3, cls := 2, src := s.host.rank, dst := src.toNat, pa := pa.toNat
                                                  data := (List.range (Min.min lines 32)).map line }] },
    ?_, _, rfl, rfl, rfl, rfl, rfl, by simp, fun i hi => by simp [hi, line]⟩
  change execAdoshRead src pa lines s = _
  have hrefused : ¬ (s.peers.contains src.toNat = false ∨ Config.dramBytes < packetAddr pa + 128 * Min.min lines 32) := by
    rw [contains_eq_false]
    exact fun h => h.elim (fun h => h hpeer) (fun h => absurd hroom (by omega))
  simp only [execAdoshRead, hleave, if_neg hrefused]
  rw [if_neg (by simp), List.filterMap_map]
  simp only [Function.comp_def, id_eq, List.filterMap_eq_map', Function.comp_def]

theorem adoshRead_refused {s : State} {src : BitVec 8} {pa : BitVec 52} {lines : Nat}
    (h : src.toNat ∉ s.peers ∨ Config.dramBytes < packetAddr pa + 128 * Min.min lines 32 ∨
      ∃ i, i < Min.min lines 32 ∧ s.verifyLine .main (packetAddr pa + 128 * i) ≠ none) :
    OnlyRecorded (.adoshRead src pa lines) s := by
  by_cases hrefused : s.peers.contains src.toNat = false ∨ Config.dramBytes < packetAddr pa + 128 * Min.min lines 32
  · refine onlyRecorded_of_event (name := "fabric read refused") (x := zx src) (y := zx pa) ?_
    change execAdoshRead src pa lines s = _
    simp only [execAdoshRead, if_pos hrefused]
  · obtain ⟨i, hi, hbad⟩ : ∃ i, i < Min.min lines 32 ∧ s.verifyLine .main (packetAddr pa + 128 * i) ≠ none := by
      rw [contains_eq_false] at hrefused
      tauto
    have hnone : ((List.range (Min.min lines 32)).map fun i => s.egress (packetAddr pa + 128 * i)).any Option.isNone = true := by
      rw [List.any_map, List.any_eq_true]
      exact ⟨i, List.mem_range.2 hi, by simp [State.egress_bad hbad]⟩
    refine onlyRecorded_of_event (name := "egress verification") (x := zx src) (y := zx pa) ?_
    change execAdoshRead src pa lines s = _
    simp only [execAdoshRead, if_neg hrefused, if_pos hnone]

/-! ### Writes -/

theorem adoshWrite_performs {s : State} {src : BitVec 8} {pa : BitVec 52} {data : List FlitLine} (hpeer : src.toNat ∈ s.peers)
    (hroom : packetAddr pa + 128 * data.length ≤ Config.dramBytes) (hclass : pa.toNat / 2 ^ 40 % 4 = 0)
    (hdata : ∀ l ∈ data, flitIntact l = true) :
    Leads (.adoshWrite src pa data) s fun u =>
      u = { s with mem := u.mem, bad := u.bad, ecc := u.ecc, tags := u.tags, fabricOut := u.fabricOut } ∧
      (∃ p : Packet, u.fabricOut = s.fabricOut ++ [p] ∧ p.typ = 4 ∧ p.dst = src.toNat ∧ p.pa = pa.toNat) ∧
      (∀ (i : Nat) (l : FlitLine), data[i]? = some l → Mem.read u.mem (packetAddr pa + 128 * i) 128 = l.bytes ∧
        u.tag .main (packetAddr pa + 128 * i) = fabricTag (packetAddr pa + 128 * i) src.toNat ∧
        u.verifyLine .main (packetAddr pa + 128 * i) = none) ∧
      ∀ b, (b < packetAddr pa ∨ packetAddr pa + 128 * data.length ≤ b) → Mem.get u.mem b = Mem.get s.mem b := by
  have haligned : packetAddr pa % 128 = 0 := by simp only [packetAddr]; omega
  obtain ⟨t, hingress, hframe, hlines, -, hbytes⟩ := State.ingress_intact (src := src.toNat) hdata haligned s
  let p : Packet := { typ := 4, cls := 2, src := t.host.rank, dst := src.toNat, pa := pa.toNat, data := [] }
  refine ⟨{ t with fabricOut := t.fabricOut ++ [p] }, ?exec, ?frame, ⟨p, ?sent, rfl, rfl, rfl⟩, fun i l hl => ?lines, hbytes⟩
  case exec =>
    change execAdoshWrite src pa data s = _
    have hrefused : ¬ (s.peers.contains src.toNat = false ∨ Config.dramBytes < packetAddr pa + 128 * data.length ∨
        pa.toNat / 2 ^ 40 % 4 ≠ 0) := by
      rw [contains_eq_false]
      exact fun h => h.elim (fun h => h hpeer) fun h => h.elim (fun h => absurd hroom (by omega)) fun h => h hclass
    simp only [execAdoshWrite, if_neg hrefused, hingress, p]
  case frame => rw [hframe]
  case sent => rw [hframe]
  case lines =>
    obtain ⟨hread, htag, hverify⟩ : Mem.read t.mem (packetAddr pa + 128 * i) 128 = l.bytes ∧
        t.tag .main (packetAddr pa + 128 * i) = _ ∧ t.verifyLine .main (packetAddr pa + 128 * i) = none := by
      simpa only [State.lineAt, Prod.mk.injEq] using hlines i l hl
    exact ⟨hread, htag, hverify⟩

theorem adoshWrite_refused {s : State} {src : BitVec 8} {pa : BitVec 52} {data : List FlitLine}
    (h : src.toNat ∉ s.peers ∨ Config.dramBytes < packetAddr pa + 128 * data.length ∨ pa.toNat / 2 ^ 40 % 4 ≠ 0) :
    OnlyRecorded (.adoshWrite src pa data) s := by
  refine onlyRecorded_of_event (name := "fabric write refused") (x := zx src) (y := zx pa) ?_
  rw [← contains_eq_false] at h
  change execAdoshWrite src pa data s = _
  simp only [execAdoshWrite, if_pos h]

/-! ### Responses -/

/-- Where a line of a peer stands in this module's view. -/
def peerLine (src : BitVec 8) (pa : BitVec 52) : Nat := 3 * 2 ^ 50 + src.toNat * 2 ^ 42 + pa.toNat % 2 ^ 42 / 128 * 128

/-- A read of the line at `a` has its answer. -/
def answersRead (a : Nat) (r : Nat × Nat × Bool) : Nat × Nat × Bool :=
  if a ≤ r.2.1 ∧ r.2.1 < a + 128 then (r.1, r.2.1, true) else r

/-- A read of the line at `a` that has no answer. -/
def awaitsLine (a : Nat) (r : Nat × Nat × Bool) : Bool := !r.2.2 && (decide (a ≤ r.2.1) && decide (r.2.1 < a + 128))

/-- The state in which a response's one line is seen and the reads that asked for it are answered. -/
def responseSeen (s : State) (src : BitVec 8) (pa : BitVec 52) (l : FlitLine) : State :=
  { s.seeLine src.toNat (peerLine src pa) l with
    peerReads := (s.seeLine src.toNat (peerLine src pa) l).peerReads.map (answersRead (peerLine src pa)) }

theorem slice_whole {l : List Byte} {n : Nat} (h : l.length = n) : slice l 0 n = l := by
  subst h
  simp [slice, zeros]

/-- A response of one line that may answer a lookup, when the line is one of the CA pool and no read of it waits. -/
theorem exec_adoshReadResponse_line {s : State} {src : BitVec 8} {pa : BitVec 52} {l : FlitLine} (hlen : l.bytes.length = 128) :
    ∃ lookup : Bool, (pa.toNat / 2 ^ 40 % 4 ≠ 1 → lookup = false) ∧ exec (.adoshReadResponse src pa [l]) s =
      .next (if lookup then (responseSeen s src pa l).answerLookup src.toNat (peerLine src pa) 1 else responseSeen s src pa l) := by
  have hkind : peerLine src pa / 2 ^ 40 % 4 = pa.toNat / 2 ^ 40 % 4 := by simp only [peerLine]; omega
  refine ⟨decide (peerLine src pa / 2 ^ 40 % 4 = 1 ∧ s.peerReads.any (awaitsLine (peerLine src pa)) = false), ?_, ?_⟩
  · rw [hkind]
    exact fun h => decide_eq_false fun hl => h hl.1
  · change execAdoshReadResponse src pa [l] s = _
    simp only [execAdoshReadResponse, ← peerLine.eq_1, List.zipIdx_cons, List.zipIdx_nil, List.foldl_cons, List.foldl_nil,
      slice_whole hlen, Nat.mul_zero, Nat.add_zero, List.length_singleton, ← State.seeLine.eq_1, decide_eq_true_eq,
      Bool.and_eq_true, Nat.mul_one, ← answersRead.eq_1, ← awaitsLine.eq_1, ← responseSeen.eq_1]

theorem responseSeen_frame (s : State) (src : BitVec 8) (pa : BitVec 52) (l : FlitLine) :
    responseSeen s src pa l = { s with
      mem := Mem.write s.mem (peerLine src pa) l.bytes
      bad := (responseSeen s src pa l).bad
      ecc := (responseSeen s src pa l).ecc
      tags := (responseSeen s src pa l).tags
      peerReads := s.peerReads.map (answersRead (peerLine src pa)) } := by
  rw [responseSeen, s.seeLine_frame]

/-- The line that a peer has answered with, as the module now sees it (R95, R381). -/
theorem adoshReadResponse_line {s : State} {src : BitVec 8} {pa : BitVec 52} {l : FlitLine} (hlen : l.bytes.length = 128) :
    Leads (.adoshReadResponse src pa [l]) s fun u =>
      u = { s with mem := u.mem, bad := u.bad, ecc := u.ecc, tags := u.tags, peerReads := u.peerReads
                   peerIndex := u.peerIndex, choices := u.choices } ∧
      Mem.read u.mem (peerLine src pa) 128 = l.bytes ∧
      (pa.toNat / 2 ^ 40 % 4 ≠ 1 → u.peerIndex = s.peerIndex ∧ u.choices = s.choices ∧
        u.peerReads = s.peerReads.map (answersRead (peerLine src pa))) ∧
      (l.bytes.length = 128 ∧ crc32c l.bytes = l.crc →
        u.verifyLine .main (peerLine src pa) = none ∧ u.tag .main (peerLine src pa) = fabricTag (peerLine src pa) src.toNat) ∧
      (¬ (l.bytes.length = 128 ∧ crc32c l.bytes = l.crc) → u.tag .main (peerLine src pa) = l.tag ∧
        ∃ b, u.verifyLine .main (peerLine src pa) = some b ∧ b.stored = l.crc ∧ b.computed = crc32c l.bytes) ∧
      ∀ b, (b < peerLine src pa ∨ peerLine src pa + 128 ≤ b) → Mem.get u.mem b = Mem.get s.mem b := by
  obtain ⟨lookup, hlookup, hexec⟩ := exec_adoshReadResponse_line (s := s) (src := src) (pa := pa) hlen
  have haligned : peerLine src pa % 128 = 0 := by simp only [peerLine]; omega
  obtain ⟨v, hv⟩ : ∃ v, v = responseSeen s src pa l := ⟨_, rfl⟩
  obtain ⟨u, hu⟩ : ∃ u, u = if lookup then v.answerLookup src.toNat (peerLine src pa) 1 else v := ⟨_, rfl⟩
  have hline : v.lineAt (peerLine src pa) = (s.seeLine src.toNat (peerLine src pa) l).lineAt (peerLine src pa) := by
    rw [hv]
    rfl
  have hvframe := responseSeen_frame s src pa l
  rw [← hv] at hexec hvframe
  have hframe : u = { v with peerReads := u.peerReads, peerIndex := u.peerIndex } := by
    cases lookup with
    | false => rw [hu]; rfl
    | true => rw [hu, if_pos rfl]; exact State.answerLookup_frame _ _ _ _
  have hmem : u.mem = Mem.write s.mem (peerLine src pa) l.bytes := by rw [hframe, hvframe]
  have hat : (u.tag .main (peerLine src pa), u.verifyLine .main (peerLine src pa)) =
      (v.lineAt (peerLine src pa)).2 := by
    rw [hframe]
    rfl
  refine ⟨u, by rw [hexec, hu], ?frame, ?read, fun hkind => ?answered, fun h => ?intact, fun h => ?bad, fun b hb => ?bytes⟩
  case frame =>
    rw [hframe, hvframe]
  case read => rw [hmem, ← hlen, Mem.read_write]
  case answered =>
    rw [hlookup hkind] at hu
    rw [hu, hvframe]
    exact ⟨rfl, rfl, rfl⟩
  case intact =>
    rw [hline, State.lineAt_seeLine_intact s src.toNat haligned ((flitIntact_iff l).2 h), Prod.mk.injEq] at hat
    exact hat.symm
  case bad =>
    rw [hline, State.lineAt_seeLine_bad s src.toNat haligned hlen (by rwa [← flitIntact_iff, Bool.not_eq_true] at h),
      Prod.mk.injEq] at hat
    exact ⟨hat.1, _, hat.2, rfl, rfl⟩
  case bytes =>
    rw [hmem]
    exact Mem.get_write_out _ _ _ _ (by omega)

/-! ### Acknowledgements and contributions -/

/-- An acknowledgement of a rank names this write. -/
def acknowledges (src : BitVec 8) (pa : BitVec 52) (u : Nat × Nat × Nat) : Bool :=
  decide (u.2.1 = src.toNat) && decide (u.2.2 % 2 ^ 42 / 128 = pa.toNat % 2 ^ 42 / 128)

theorem exec_adoshWriteAcknowledgement (s : State) (src : BitVec 8) (pa : BitVec 52) :
    exec (.adoshWriteAcknowledgement src pa) s = .next ((s.unacked.find? (acknowledges src pa)).elim s
      fun u => { s with unacked := s.unacked.erase u }) := by
  change execAdoshWriteAcknowledgement src pa s = _
  rw [execAdoshWriteAcknowledgement, ← show acknowledges src pa = _ from funext fun u => acknowledges.eq_1 src pa u]
  cases s.unacked.find? (acknowledges src pa) <;> rfl

theorem adoshWriteAcknowledgement_only {s : State} {src : BitVec 8} {uid at' : Nat} (pa : BitVec 52)
    (h : s.unacked = [(uid, src.toNat, at')]) :
    Leads (.adoshWriteAcknowledgement src pa) s fun u =>
      u = { s with unacked := if at' % 2 ^ 42 / 128 = pa.toNat % 2 ^ 42 / 128 then [] else s.unacked } := by
  refine ⟨_, exec_adoshWriteAcknowledgement s src pa, ?_⟩
  have hacks : acknowledges src pa (uid, src.toNat, at') = decide (at' % 2 ^ 42 / 128 = pa.toNat % 2 ^ 42 / 128) := by
    rw [acknowledges, decide_eq_true rfl, Bool.true_and]
  split
  next hat =>
    have hfind : s.unacked.find? (acknowledges src pa) = some (uid, src.toNat, at') := by
      rw [h, List.find?_cons_of_pos (hacks.trans (decide_eq_true hat))]
    rw [hfind, h]
    simp only [Option.elim, List.erase_cons_head]
  next hat =>
    have hfind : s.unacked.find? (acknowledges src pa) = none := by
      rw [h, List.find?_cons_of_neg (by rw [hacks, decide_eq_true_eq]; exact hat), List.find?_nil]
    rw [hfind]
    rfl

theorem adoshReductionContribution_kept {s : State} {src : BitVec 8} {win : Nat} {pa : BitVec 52} {values : List (BitVec 64)}
    {w : Nat × RedWin} (hwin : (s.host.redwins.find? fun x => x.1 == win) = some w) (hrank : w.2.ranks.contains src.toNat = true)
    (hpeer : src.toNat ∈ s.peers) :
    Leads (.adoshReductionContribution src win pa values) s fun u => ∃ k : Contribution,
      u = { s with contribs := s.contribs ++ [k] } ∧ k.win = win ∧ k.rank = src.toNat ∧ k.base = pa.toNat % 2 ^ 40 ∧
      k.elems.length = values.length ∧ ∀ i v, values[i]? = some v → k.elems[i]? = some (⟨k.base, i, v, none⟩ : RedElem) := by
  refine ⟨_, ?_, ⟨win, src.toNat, 0, 0, pa.toNat % 2 ^ 40,
    values.zipIdx.map fun x => { at' := pa.toNat % 2 ^ 40, num := x.2, value := x.1 }⟩, rfl, rfl, rfl, rfl, by simp,
    fun i v hv => by simp [hv]⟩
  change execAdoshReductionContribution src win pa values s = _
  simp only [execAdoshReductionContribution, hwin, hrank, List.contains_iff_mem.2 hpeer, Bool.and_self, if_true]

theorem adoshReductionContribution_refused {s : State} {src : BitVec 8} {win : Nat} {pa : BitVec 52} {values : List (BitVec 64)}
    (h : src.toNat ∉ s.peers ∨
      ∀ w, (s.host.redwins.find? fun x => x.1 == win) = some w → w.2.ranks.contains src.toNat = false) :
    exec (.adoshReductionContribution src win pa values) s = .next s := by
  change execAdoshReductionContribution src win pa values s = _
  unfold execAdoshReductionContribution
  split
  next w hwin =>
    have hnot : (w.2.ranks.contains src.toNat && s.peers.contains src.toNat) = false := by
      rw [Bool.and_eq_false_iff, contains_eq_false (l := s.peers)]
      exact h.symm.imp_left fun h => h w hwin
    simp only [hnot, Bool.false_eq_true, if_false]
  next => rfl

/-! ### TRACE_FETCH -/

theorem exec_traceFetch_none {s : State} {shape : BitVec 128} (h : s.dirFind shape = none) (src : BitVec 8) :
    exec (.traceFetch src shape) s = .next s := by
  change execTraceFetch src shape s = _
  simp only [execTraceFetch, h]

theorem exec_traceFetch_waits {s : State} {shape : BitVec 128} {e : Nat} (h : s.dirFind shape = some e)
    (hw : s.host.updating = true ∨ s.dirField e 44 1 ≠ 2) (src : BitVec 8) : exec (.traceFetch src shape) s = .next s := by
  change execTraceFetch src shape s = _
  simp only [execTraceFetch, h, if_pos hw.symm]

/-- An entry in state 2, when no image starts: its line leaves if it verifies. -/
theorem exec_traceFetch {s : State} {shape : BitVec 128} {e : Nat} (h : s.dirFind shape = some e)
    (hup : s.host.updating = false) (hstate : s.dirField e 44 1 = 2) (src : BitVec 8) :
    exec (.traceFetch src shape) s = .next ((s.egress (s.dirAt e / 128 * 128)).elim
      (s.event "egress verification" (zx src) (BitVec.ofNat 64 (s.dirAt e / 128 * 128)))
      fun l => { s with fabricOut := s.fabricOut ++ [{
        typ := 3, cls := 3, src := s.host.rank, dst := src.toNat, pa := s.dirAt e / 128 * 128, data := [l], shape := shape }] }) := by
  change execTraceFetch src shape s = _
  simp only [execTraceFetch, h]
  rw [if_neg (by simp [hup, hstate])]
  cases s.egress (s.dirAt e / 128 * 128) <;> rfl

theorem traceFetch_sends {s : State} {shape : BitVec 128} {e : Nat} (h : s.dirFind shape = some e)
    (hup : s.host.updating = false) (hstate : s.dirField e 44 1 = 2) (src : BitVec 8)
    (hline : s.verifyLine .main (s.dirAt e / 128 * 128) = none) :
    Leads (.traceFetch src shape) s fun u => ∃ p : Packet, u = { s with fabricOut := s.fabricOut ++ [p] } ∧ p.typ = 3 ∧
      p.dst = src.toNat ∧ p.pa = s.dirAt e / 128 * 128 ∧ p.shape = shape ∧
      p.data = [s.leavingLine (s.dirAt e / 128 * 128)] := by
  have hexec := exec_traceFetch h hup hstate src
  rw [State.egress_verified hline] at hexec
  exact ⟨_, hexec, _, rfl, rfl, rfl, rfl, rfl, rfl⟩

theorem traceFetch_refused {s : State} {shape : BitVec 128} {e : Nat} (h : s.dirFind shape = some e)
    (hup : s.host.updating = false) (hstate : s.dirField e 44 1 = 2) (src : BitVec 8)
    (hline : s.verifyLine .main (s.dirAt e / 128 * 128) ≠ none) : OnlyRecorded (.traceFetch src shape) s :=
  onlyRecorded_of_event (by rw [exec_traceFetch h hup hstate src, State.egress_bad hline, Option.elim])

end Sys2Proof.Claims
end

section
/-! SUPPORT. What a stop notice does to the replays of its shape and version (R335, R343), and the proof of O51. -/

namespace Sys2Proof.Machine

/-! ### A slot's replay ends (R343) -/

/-- A slot of the handed-over graph's task leaves its replay for mode 3; another slot keeps its mode. -/
structure Slot.HandedOver (g : Graph) (c d : Slot) : Prop where
  busy : d.busy = c.busy
  graph : d.graph = c.graph
  mode : d.mode = c.mode ∨ d.mode = 3 ∧ c.mode ≠ 0 ∧ c.busy = true ∧ c.graph = g.id

theorem State.leaveReplay_frame (s : State) (g : Graph) (gid sk : Nat) :
    s.leaveReplay g gid sk = { s with slots := (s.leaveReplay g gid sk).slots, cmds := (s.leaveReplay g gid sk).cmds } := by
  unfold State.leaveReplay
  split <;> rfl

theorem State.leaveReplay_slot_ne (s : State) (g : Graph) (gid sk j : Nat) (h : j ≠ sk) :
    (s.leaveReplay g gid sk).slot j = s.slot j := by
  unfold State.leaveReplay
  split
  · rfl
  · exact Kv.get_put_ne _ _ _ _ _ h

theorem State.leaveReplay_slot_self (s : State) (g : Graph) (gid sk : Nat) :
    ∃ d, (s.leaveReplay g gid sk).slot sk = d ∧ d.busy = (s.slot sk).busy ∧ d.graph = (s.slot sk).graph ∧
      (d.mode = (s.slot sk).mode ∨ d.mode = 3 ∧ (s.slot sk).mode = 2) := by
  unfold State.leaveReplay
  split
  case isTrue => exact ⟨_, rfl, rfl, rfl, .inl rfl⟩
  case isFalse h => exact ⟨_, State.modSlot_slot_self _ _ _, rfl, rfl, .inr ⟨rfl, not_not.1 h⟩⟩

/-- The slots of a list that run a task of the graph leave its replay. -/
def State.leaveReplays (s : State) (g : Graph) (gid : Nat) (l : List (Nat × Slot)) : State :=
  l.foldl (fun s c => if c.2.busy && decide (c.2.graph = g.id) then s.leaveReplay g gid c.1 else s) s

theorem State.leaveReplays_frame (s : State) (g : Graph) (gid : Nat) (l : List (Nat × Slot)) :
    s.leaveReplays g gid l = { s with slots := (s.leaveReplays g gid l).slots, cmds := (s.leaveReplays g gid l).cmds } := by
  induction l generalizing s with
  | nil => rfl
  | cons c l ih =>
    rw [State.leaveReplays, List.foldl_cons, ← State.leaveReplays, ih]
    split
    · rw [s.leaveReplay_frame]
    · rfl

/-- When the list shows the slots as they were at first, each is handed over or keeps its mode. -/
theorem State.leaveReplays_handedOver {s₀ : State} {g : Graph} {l : List (Nat × Slot)} (hl : ∀ x ∈ l, s₀.slot x.1 = x.2)
    (gid : Nat) {s : State} (h : ∀ j, (s₀.slot j).HandedOver g (s.slot j)) (j : Nat) :
    (s₀.slot j).HandedOver g ((s.leaveReplays g gid l).slot j) := by
  induction l generalizing s with
  | nil => exact h j
  | cons c l ih =>
    rw [State.leaveReplays, List.foldl_cons, ← State.leaveReplays]
    refine ih (fun x hx => hl x (List.mem_cons_of_mem _ hx)) fun i => ?_
    split
    case isFalse => exact h i
    case isTrue hc =>
      rw [← hl c (by simp), Bool.and_eq_true, decide_eq_true_eq] at hc
      by_cases hi : i = c.1
      case neg =>
        rw [s.leaveReplay_slot_ne g gid c.1 i hi]
        exact h i
      case pos =>
        subst hi
        obtain ⟨d, hd, hbusy, hgraph, hmode⟩ := s.leaveReplay_slot_self g gid c.1
        obtain ⟨hbusy₀, hgraph₀, hmode₀⟩ := h c.1
        rw [hd]
        refine ⟨hbusy.trans hbusy₀, hgraph.trans hgraph₀, ?_⟩
        rcases hmode with hmode | ⟨hmode, htwo⟩
        · rwa [hmode]
        · have hsame : (s₀.slot c.1).mode = 2 := by omega
          exact .inr ⟨hmode, by omega, hc⟩

/-- The slot with the mode that a handover sets where it runs a task of the graph. -/
def Slot.endReplay (g gid : Nat) (c : Slot) : Slot :=
  if c.busy && decide (c.graph = g) && decide (c.mode ≠ 0 ∨ 3 ≠ 3) then { c with mode := 3, gid := gid } else c

theorem State.setModes_slot (s : State) (g gid j : Nat) : (s.setModes g 3 gid).slot j = (s.slot j).endReplay g gid :=
  Kv.get_map (Slot.endReplay g gid) (Slot.init j) s.slots j

theorem Slot.HandedOver.endReplay_mode {g : Graph} {c d : Slot} (h : c.HandedOver g d) (gid : Nat) :
    (d.endReplay g.id gid).mode = if c.busy = true ∧ c.graph = g.id ∧ c.mode ≠ 0 then 3 else c.mode := by
  obtain ⟨hbusy, hgraph, hmode⟩ := h
  simp only [Slot.endReplay, hbusy, hgraph, Bool.and_eq_true, decide_eq_true_eq, and_assoc, ne_eq, not_true_eq_false, or_false]
  rcases hmode with hmode | ⟨hmode, hnz, hb, hg⟩
  · rw [hmode]
    split
    · rfl
    · exact hmode
  · simp [hmode, hnz, hb, hg]

/-! ### The handover of a graph (R343) -/

/-- The graph after a handover at which all its tasks had started: nothing of it is left to rebuild. -/
def Graph.handedOver (g : Graph) (gid : Nat) : Graph := { g with mode := 3, gid := gid, ahead := [], posts := [], toRelease := [] }

theorem State.pumpReleases_none {s : State} (h : ∀ g ∈ s.graphs, g.toRelease = []) : s.pumpReleases = s := by
  have hnone : (s.graphs.flatMap fun g => if g.settled then [] else g.toRelease.map fun t => (g.id, t)) = [] := by
    rw [List.flatMap_eq_nil_iff]
    intro g hg
    simp [h g hg]
  rw [State.pumpReleases, hnone, List.foldl_nil]

theorem State.setGraph_only {s : State} {g h : Graph} (hs : s.graphs = [g]) (hid : h.id = g.id) (hset : h.settled = g.settled) :
    s.setGraph h = { s with graphs := [h] } := by
  simp [State.setGraph, hs, hid, hset]

/-- The one graph, all of whose tasks have started, is handed over: its slots' replays end, and nothing is rebuilt. -/
theorem State.handOver_started {s : State} {g : Graph} (hgraphs : s.graphs = [g])
    (hstarted : ∀ t, t < g.tcbs.length → t ∈ g.started) (gid : Nat) :
    s.handOver g gid = { (s.leaveReplays g gid s.slots).setModes g.id 3 gid with graphs := [g.handedOver gid] } := by
  have hrest : ((List.range g.tcbs.length).filter fun t => !g.started.contains t) = [] := by
    rw [List.filter_eq_nil_iff]
    intro t ht
    simp [hstarted t (List.mem_range.1 ht)]
  have hone : ((s.leaveReplays g gid s.slots).setModes g.id 3 gid).graphs = [g] := by
    rw [s.leaveReplays_frame]
    exact hgraphs
  rw [State.handOver, hrest, ← State.leaveReplays, ← Graph.handedOver, State.setGraph_only (h := g.handedOver gid) hone rfl rfl]
  exact State.pumpReleases_none fun h hh => by rw [List.mem_singleton.1 hh]; rfl

theorem State.handOver_frame {s : State} {g : Graph} (hgraphs : s.graphs = [g])
    (hstarted : ∀ t, t < g.tcbs.length → t ∈ g.started) (gid : Nat) :
    s.handOver g gid = { s with
      graphs := [g.handedOver gid], slots := (s.handOver g gid).slots, cmds := (s.handOver g gid).cmds } := by
  rw [State.handOver_started hgraphs hstarted, s.leaveReplays_frame]
  rfl

theorem State.handOver_mode {s : State} {g : Graph} (hgraphs : s.graphs = [g])
    (hstarted : ∀ t, t < g.tcbs.length → t ∈ g.started) (hslots : ∀ x ∈ s.slots, s.slot x.1 = x.2) (gid j : Nat) :
    ((s.handOver g gid).slot j).mode =
      if (s.slot j).busy = true ∧ (s.slot j).graph = g.id ∧ (s.slot j).mode ≠ 0 then 3 else (s.slot j).mode := by
  have hleft := State.leaveReplays_handedOver hslots gid (fun i => ⟨rfl, rfl, .inl rfl⟩) j (g := g)
  rw [State.handOver_started hgraphs hstarted, ← hleft.endReplay_mode gid, ← State.setModes_slot]
  rfl

/-! ### The directory's failure count (R335) -/

theorem State.dirField_setDirField (s : State) (e o n x : Nat) : (s.setDirField e o n x).dirField e o n = x % 256 ^ n := by
  have hread := s.bytes_poke_main (s.dirAt e + o) (leBytes n x) (originTag 0 0)
  rw [leBytes_length] at hread
  exact (congrArg leNat hread).trans (leNat_leBytes n x)

theorem State.countFail_few {s : State} {e : Nat} (h : s.dirField e 40 4 < 3) :
    s.countFail e = s.setDirField e 40 4 (s.dirField e 40 4 + 1) := by
  rw [State.countFail, if_neg (by omega)]

/-! ### STOP_NOTICE (R343) -/

/-- A notice of another module under guard ID 0x3FF takes a choice of the run. -/
def State.noticeTaken (s : State) (gid : Nat) : State :=
  { s with choices := if gid ≠ 0x3FF then s.choices else s.choices.drop 1 }

/-- The replays that a notice ends. -/
def State.replaysOf (s : State) (shape : BitVec 128) (ver : BitVec 32) : List Graph :=
  s.graphs.filter fun g => decide (g.mode = 2) && decide (g.shape = shape) && decide (g.ver = ver)

theorem State.stopNotice_none {s : State} {shape : BitVec 128} {ver : BitVec 32} (hnotices : s.notices = [])
    (hnone : s.replaysOf shape ver = []) (task gid : Nat) : s.stopNotice shape ver task gid = s.noticeTaken gid := by
  have hown (p : BitVec 128 × BitVec 32 × Nat × Nat × Bool → Bool) : s.notices.find? p = none := by rw [hnotices, List.find?_nil]
  simp only [State.stopNotice, hown, Option.isSome_none, Bool.false_eq_true, false_or, ← State.replaysOf.eq_1, hnone]
  rfl

theorem State.stopNotice_one {s : State} {shape : BitVec 128} {ver : BitVec 32} {g : Graph} (hnotices : s.notices = [])
    (hone : s.replaysOf shape ver = [g]) (task gid : Nat) :
    s.stopNotice shape ver task gid =
      if gid ≠ 0x3FF ∨ (s.choices.headD 0).testBit 0 = true then ((s.noticeTaken gid).handOver g gid).countFail g.entry
      else (s.noticeTaken gid).handOver g gid := by
  have hown (p : BitVec 128 × BitVec 32 × Nat × Nat × Bool → Bool) : s.notices.find? p = none := by rw [hnotices, List.find?_nil]
  simp only [State.stopNotice, hown, Option.isSome_none, Bool.false_eq_true, false_or, ← State.replaysOf.eq_1, hone,
    List.foldl_cons, List.foldl_nil, if_false, Bool.or_eq_true, decide_eq_true_eq, ← State.noticeTaken.eq_1]

end Sys2Proof.Machine
end

section
/-! SUPPORT. Stop notices in the words of the statement (R343), and the proof of O51. -/

namespace Sys2Proof.Claims
open Sys2Proof.Machine

theorem exec_stopNotice_updating {s : State} (h : s.host.updating = true) (shape : BitVec 128) (ver : BitVec 32) (task : Nat)
    (gid : BitVec 10) : exec (.stopNotice shape ver task gid) s = .next s := by
  change execStopNotice shape ver task gid s = _
  rw [execStopNotice, if_pos h]

theorem exec_stopNotice {s : State} (h : s.host.updating = false) (shape : BitVec 128) (ver : BitVec 32) (task : Nat)
    (gid : BitVec 10) : exec (.stopNotice shape ver task gid) s = .next (s.stopNotice shape ver task gid.toNat) := by
  change execStopNotice shape ver task gid s = _
  rw [execStopNotice, if_neg (by simp [h])]

theorem replaysOf_eq_nil {s : State} {shape : BitVec 128} {ver : BitVec 32}
    (h : ∀ g ∈ s.graphs, ¬ (g.mode = 2 ∧ g.shape = shape ∧ g.ver = ver)) : s.replaysOf shape ver = [] := by
  rw [State.replaysOf, List.filter_eq_nil_iff]
  intro g hg
  simpa [and_assoc] using h g hg

theorem replaysOf_eq_singleton {s : State} {g : Graph} (h : s.graphs = [g]) (hmode : g.mode = 2) :
    s.replaysOf g.shape g.ver = [g] := by
  simp [State.replaysOf, h, hmode]

theorem exec_stopNotice_none {s : State} {shape : BitVec 128} {ver : BitVec 32} (hnotices : s.notices = [])
    (hnone : ∀ g ∈ s.graphs, ¬ (g.mode = 2 ∧ g.shape = shape ∧ g.ver = ver)) (task : Nat) (gid : BitVec 10) :
    exec (.stopNotice shape ver task gid) s =
      .next (if s.host.updating = true ∨ gid.toNat ≠ 0x3FF then s else { s with choices := s.choices.drop 1 }) := by
  by_cases hup : s.host.updating = true
  · rw [exec_stopNotice_updating hup, if_pos (.inl hup)]
  · rw [exec_stopNotice (Bool.not_eq_true _ ▸ hup), State.stopNotice_none hnotices (replaysOf_eq_nil hnone), State.noticeTaken]
    by_cases hgid : gid.toNat = 0x3FF
    · rw [if_neg (by simp [hgid]), if_neg (by simp [hgid, hup])]
    · rw [if_pos hgid, if_pos (.inr hgid)]

/-- The graph has been handed over, and with it every slot that runs a task of it under the replay (R343). -/
def GraphEnded (s u : State) (g : Graph) (gid : BitVec 10) : Prop :=
  u.graphs = [{ g with mode := 3, gid := gid.toNat, ahead := [], posts := [], toRelease := [] }] ∧
    ∀ j, (u.slot j).mode =
      if (s.slot j).busy = true ∧ (s.slot j).graph = g.id ∧ (s.slot j).mode ≠ 0 then 3 else (s.slot j).mode

section
variable {s : State} {g : Graph} (hup : s.host.updating = false) (hnotices : s.notices = []) (hgraphs : s.graphs = [g])
  (hmode : g.mode = 2) (hstarted : ∀ t, t < g.tcbs.length → t ∈ g.started) (hslots : ∀ x ∈ s.slots, s.slot x.1 = x.2)

include hgraphs hstarted hslots in
/-- What a notice leaves of the one replay that it names. -/
theorem graphEnded_handOver (gid : BitVec 10) : GraphEnded s ((s.noticeTaken gid.toNat).handOver g gid.toNat) g gid := by
  have hgraphs' : (s.noticeTaken gid.toNat).graphs = [g] := hgraphs
  refine ⟨?_, State.handOver_mode hgraphs' hstarted hslots gid.toNat⟩
  rw [State.handOver_frame hgraphs' hstarted]
  rfl

include hup hnotices hgraphs hmode hstarted hslots in
theorem stopNotice_uncounted {gid : BitVec 10} (task : Nat) (hgid : gid.toNat = 0x3FF)
    (hchoice : (s.choices.headD 0).testBit 0 = false) :
    Leads (.stopNotice g.shape g.ver task gid) s fun u =>
      u = { s with graphs := u.graphs, slots := u.slots, cmds := u.cmds, choices := s.choices.drop 1 } ∧
      GraphEnded s u g gid := by
  refine ⟨(s.noticeTaken gid.toNat).handOver g gid.toNat, ?_, ?_, graphEnded_handOver hgraphs hstarted hslots gid⟩
  · rw [exec_stopNotice hup, State.stopNotice_one hnotices (replaysOf_eq_singleton hgraphs hmode), if_neg]
    rw [hchoice, hgid]
    simp
  · have htaken : s.noticeTaken gid.toNat = { s with choices := s.choices.drop 1 } := by
      rw [State.noticeTaken, if_neg (by simp [hgid])]
    rw [State.handOver_frame (s := s.noticeTaken gid.toNat) hgraphs hstarted, htaken]

include hup hnotices hgraphs hmode hstarted hslots in
theorem stopNotice_counted {gid : BitVec 10} (task : Nat) (hgid : gid.toNat ≠ 0x3FF) (hfew : s.dirField g.entry 40 4 < 3) :
    Leads (.stopNotice g.shape g.ver task gid) s fun u =>
      u = { s with graphs := u.graphs, slots := u.slots, cmds := u.cmds, mem := u.mem, bad := u.bad, ecc := u.ecc, tags := u.tags } ∧
      GraphEnded s u g gid ∧ u.dirField g.entry 40 4 = s.dirField g.entry 40 4 + 1 := by
  have htaken : s.noticeTaken gid.toNat = s := by rw [State.noticeTaken, if_pos hgid]
  have hended := graphEnded_handOver hgraphs hstarted hslots gid
  rw [htaken] at hended
  have hframe := State.handOver_frame hgraphs hstarted gid.toNat
  have hcount : (s.handOver g gid.toNat).dirField g.entry 40 4 = s.dirField g.entry 40 4 := by
    rw [hframe]
    rfl
  refine ⟨(s.handOver g gid.toNat).setDirField g.entry 40 4 (s.dirField g.entry 40 4 + 1), ?exec, ?frame, hended, ?count⟩
  case exec =>
    rw [exec_stopNotice hup, State.stopNotice_one hnotices (replaysOf_eq_singleton hgraphs hmode), if_pos (.inl hgid), htaken,
      State.countFail_few (by rwa [hcount]), hcount]
  case frame =>
    rw [hframe]
    rfl
  case count =>
    rw [State.dirField_setDirField]
    omega

end

/-- Settles O51: every clause is the lemma of its packet or notice. -/
theorem fabricPacketsAndNotices : Obligations.FabricPacketsAndNotices := by
  unfold Obligations.FabricPacketsAndNotices
  intro s src pa lines win data values shape ver task gid
  refine ⟨adoshRead_answers, adoshRead_refused, fun hpeer hroom hclass hdata => ?write, adoshWrite_refused,
    fun l => adoshReadResponse_line, fun uid at' => adoshWriteAcknowledgement_only pa, ?kept,
    adoshReductionContribution_refused, fun e he => ⟨fun hup hstate =>
      ⟨traceFetch_sends he hup hstate src, traceFetch_refused he hup hstate src⟩, fun hw => exec_traceFetch_waits he hw src⟩,
    fun h => exec_traceFetch_none h src, fun hnotices hnone => exec_stopNotice_none hnotices hnone task gid,
    fun hup => exec_stopNotice_updating hup shape ver task gid, ?notice⟩
  case write => exact adoshWrite_performs hpeer hroom hclass fun l hl => (flitIntact_iff l).2 (hdata l hl)
  case kept =>
    rintro ⟨w, hwin, hrank⟩ hpeer
    exact adoshReductionContribution_kept hwin hrank hpeer
  case notice =>
    rintro g hup hnotices hgraphs hmode rfl rfl - hstarted hslots
    exact ⟨stopNotice_uncounted hup hnotices hgraphs hmode hstarted hslots task,
      stopNotice_counted hup hnotices hgraphs hmode hstarted hslots task⟩

end Sys2Proof.Claims
end

section
/-! SUPPORT. Numbers read back from memory (R2), writes that lie in one line (R96), blocks in memory that the module reads and
writes (R298), and commands that are replaced, completed or trapped (R347, R352). -/

namespace Sys2Proof.Machine

/-! ### Numbers in bytes -/

theorem leNat_lt (l : List Byte) : leNat l < 256 ^ l.length := by
  induction l with
  | nil => decide
  | cons b l ih =>
    have hb := b.isLt
    rw [leNat, List.length_cons, Nat.pow_succ']
    omega

/-- The bytes of the number of a list of bytes. -/
theorem leBytes_leNat (l : List Byte) : leBytes l.length (leNat l) = l := by
  induction l with
  | nil => rfl
  | cons b l ih =>
    have hb := b.isLt
    have hlow : BitVec.ofNat 8 (b.toNat + 256 * leNat l) = b := by
      apply BitVec.eq_of_toNat_eq
      rw [BitVec.toNat_ofNat]
      omega
    have hhigh : (b.toNat + 256 * leNat l) / 256 = leNat l := by omega
    rw [List.length_cons, leNat, leBytes, hlow, hhigh, ih]

theorem leAt_lt (l : List Byte) (o n : Nat) : leAt l o n < 256 ^ n :=
  (leNat_lt _).trans_le (Nat.pow_le_pow_right (by decide) (List.length_take_le _ _))

/-- A field of a record that is read from memory. -/
theorem leAt_read (m : List Host.Cell) (a : Nat) {o k n : Nat} (h : o + k ≤ n) :
    leAt (Mem.read m a n) o k = leNat (Mem.read m (a + o) k) := by
  have hpart : ((Mem.read m a n).drop o).take k = Mem.read m (a + o) k := by
    simp only [Mem.read_eq]
    refine List.ext_getElem (by simp; omega) fun i _ _ => ?_
    simp [Nat.add_assoc]
  rw [leAt, hpart]

/-- A number is read back as its low bytes. -/
theorem leNat_read_write (m : List Host.Cell) (a n x : Nat) :
    leNat (Mem.read (Mem.write m a (leBytes n x)) a n) = x % 256 ^ n := by
  have h := Mem.read_write m a (leBytes n x)
  rw [leBytes_length] at h
  rw [h, leNat_leBytes]

/-! ### Lines that verify -/

/-- Verification is of a line, whichever of its bytes names it. -/
theorem State.verifyLine_congr (s : State) (sp : Space) {a b : Nat} (h : a / 128 = b / 128) :
    s.verifyLine sp a = s.verifyLine sp b := by
  unfold State.verifyLine State.tag lineKey
  rw [h]

/-- Each line of a run of bytes that verifies does (R95). -/
theorem State.verifyLine_of_verify {s : State} {sp : Space} {a n x : Nat} (h : s.verify sp a n = none) (ha : a ≤ x)
    (hx : x < a + n) : s.verifyLine sp x = none := by
  rw [State.verify] at h
  split at h
  next hclean =>
    have hboth : s.bad = [] ∧ s.ecc = [] := by simpa using hclean
    simp [State.verifyLine, hboth.1, hboth.2, Kv.has]
  next =>
    have hline := List.findSome?_eq_none_iff.1 h (x / 128 - a / 128) (List.mem_range.2 (by omega))
    rwa [State.verifyLine_congr s sp (b := x) (by omega)] at hline

/-! ### Writes that lie in one line -/

theorem pieces_line {a n : Nat} (hn : 0 < n) (h : a % 128 + n ≤ 128) : pieces a n = [(a, n)] := by
  have hone : (a + n + 127) / 128 - a / 128 = 1 := by omega
  simp only [pieces, hone, List.range_one, List.map_cons, List.map_nil, Nat.add_zero, List.cons.injEq, Prod.mk.injEq, and_true]
  omega

/-- A part of a line that verifies is written with the tag of a merge (R96). -/
theorem State.store_part {s : State} {sp : Space} {a : Nat} {bs : List Byte} (whole part : BitVec 16)
    (h : s.verifyLine sp a = none) (hbs : bs.length ≠ 128) : s.store sp a bs whole part = .ok (s.poke sp a bs part) := by
  rw [State.store, if_neg (by simp [hbs]), h]

/-- A line that verifies takes a write of one tag, whole or partial. -/
theorem State.store_tag {s : State} {sp : Space} {a : Nat} (bs : List Byte) (tag : BitVec 16) (h : s.verifyLine sp a = none) :
    s.store sp a bs tag tag = .ok (s.poke sp a bs tag) := by
  rw [State.store, h]
  split <;> rfl

theorem State.storeAll_line {s : State} {sp : Space} {a : Nat} {bs : List Byte} (whole part : BitVec 16) (hpos : 0 < bs.length)
    (hline : a % 128 + bs.length ≤ 128) (hpart : bs.length ≠ 128) (h : s.verifyLine sp a = none) :
    s.storeAll sp a bs whole part = .ok (s.poke sp a bs part) := by
  rw [State.storeAll, pieces_line hpos hline]
  simp [State.store_part whole part h hpart]

/-- The module's own write to a line of main memory that verifies: it is made, and a peer is sent it (R96, R381). -/
theorem State.putMain_line {s : State} {a : Nat} {bs : List Byte} (hpos : 0 < bs.length) (hline : a % 128 + bs.length ≤ 128)
    (h : s.verifyLine .main a = none) :
    s.putMain a bs = (s.poke .main a bs (originTag 0 0)).sendWrite 0 2 a bs.length := by
  have hwrite : s.writeLines .main a bs (originTag 0 0) (originTag 0 0) = (s.poke .main a bs (originTag 0 0), none) := by
    rw [State.writeLines]
    split
    · rfl
    · simp [pieces_line hpos hline, State.storeLines, State.store_tag _ _ h]
  rw [State.putMain, hwrite]

/-- Packets that carry a write leave the module's own state as it is. -/
theorem State.sendWrite_frame (s : State) (uid cls pa n : Nat) :
    s.sendWrite uid cls pa n =
      { s with unacked := (s.sendWrite uid cls pa n).unacked, fabricOut := (s.sendWrite uid cls pa n).fabricOut } := by
  unfold State.sendWrite
  split <;> rfl

@[simp] theorem State.sendWrite_mem (s : State) (uid cls pa n : Nat) : (s.sendWrite uid cls pa n).mem = s.mem := by
  rw [s.sendWrite_frame]

/-! ### Blocks of 256 bytes -/

/-- A block that is found has been verified (R419). -/
theorem State.verify_of_blockAt {s t : State} {src : Source} {troot : Word} {va m : Nat} {write : Bool}
    (h : s.blockAt src troot va write = (t, .ok m)) : t.verify .main m 256 = none := by
  rw [State.blockAt] at h
  split at h
  case h_4 =>
    split at h
    case h_1 => simp at h
    case h_2 hv =>
      simp only [Prod.mk.injEq, VRes.ok.injEq] at h
      obtain ⟨rfl, rfl⟩ := h
      exact hv
  all_goals simp at h

/-- A field of a verified block, in one of its two lines, is written. -/
theorem State.blockSet_mem {s : State} {m o n x : Nat} (hv : s.verify .main m 256 = none) (hm : m % 256 = 0) (hn : 0 < n)
    (ho : o < 256) (hline : o % 128 + n ≤ 128) : (s.blockSet m o n x).mem = Mem.write s.mem (m + o) (leBytes n x) := by
  have hv' : s.verifyLine .main (m + o) = none := State.verifyLine_of_verify hv (by omega) (by omega)
  rw [State.blockSet, State.putMain_line (by simpa) (by simp only [leBytes_length]; omega) hv', State.sendWrite_mem]
  rfl

/-- The field written is read back, as far as its bytes hold the number. -/
theorem State.leAt_block_of_mem {s : State} {mem : List Host.Cell} {m o n x : Nat} (h : s.mem = Mem.write mem (m + o) (leBytes n x))
    (hon : o + n ≤ 256) : leAt (s.block m) o n = x % 256 ^ n := by
  rw [State.block, State.bytes, h, leAt_read _ _ hon, leNat_read_write]

/-! ### Commands replaced, completed and trapped -/

theorem find?_map_replace {α : Type} {l : List α} {p : α → Bool} {x : α} (hx : p x = true) (h : (l.find? p).isSome = true) :
    (l.map fun y => if p y then x else y).find? p = some x := by
  induction l with
  | nil => simp at h
  | cons y l ih =>
    by_cases hy : p y = true
    · simp [hy, hx]
    · have hl : (l.find? p).isSome = true := by simpa [hy] using h
      simpa [hy] using ih hl

/-- A command of a number that is there is the one it is replaced by. -/
theorem State.cmd_setCmd {s : State} {c : Cmd} (h : (s.cmd c.uid).isSome = true) : (s.setCmd c).cmd c.uid = some c := by
  have := find?_map_replace (l := s.cmds) (p := (·.uid == c.uid)) (x := c) (by simp) h
  simpa [State.cmd, State.setCmd] using this

end Sys2Proof.Machine
end

section
/-! SUPPORT. The events of the CA pool's reclaimers, of futures and of the vector engine's choice, in the words of the statement
(R20, R21, R107, R117, R207, R305, R311). -/

namespace Sys2Proof.Claims
open Sys2Proof.Machine

/-! ### A command that faults -/

/-- A trap against a command that no demand of the forcer has made is its slot's (R347, R352). -/
theorem trapCmd_of_sub_eq_none {s : State} {c : Cmd} (hsub : c.sub = none) (r : TrapRec) :
    s.trapCmd c r = (s.takeTrap (slotKey c.seqk) { r with
      seq := c.num, pc := c.pc, stream := roleOf c.seqk, prec := r.prec || decide (caSub c.ins = 7) }).setCmd { c with failed := true } := by
  unfold State.trapCmd
  split
  next hsome => simp [hsub] at hsome
  next => rfl

theorem commandTraps_trapCmd {s : State} {c : Cmd} {r : TrapRec} {code engine status : Nat} (hsub : c.sub = none)
    (hc : (s.cmd c.uid).isSome = true) (hecc : r.ecc = false) (hcode : r.code = code) (hengine : r.engine = engine)
    (hstatus : r.status = BitVec.ofNat 32 status) : CommandTraps s (s.trapCmd c r) c code engine status := by
  rw [trapCmd_of_sub_eq_none hsub]
  simp only [State.takeTrap, State.countSoft, hecc, Bool.false_eq_true, if_false]
  exact ⟨State.cmd_setCmd (c := { c with failed := true }) (by exact hc), rfl, rfl, _, rfl, hcode, hengine, hstatus, rfl, rfl⟩

/-! ### RECLAIMER (R107) -/

theorem exec_reclaimer_none {s : State} {octant : Nat} (h : (s.reclaimQ.find? fun n => decide (nameHome n = octant)) = none) :
    exec (.reclaimer octant) s = .next s := by
  change Host.Outcome.next (s.reclaim octant) = _
  rw [State.reclaim, h]

theorem exec_reclaimer_absent {s : State} {octant : Nat} {n : BitVec 128}
    (h : (s.reclaimQ.find? fun n => decide (nameHome n = octant)) = some n) (he : s.entryOf n = none) :
    exec (.reclaimer octant) s = .next { s with reclaimQ := s.reclaimQ.erase n } := by
  have he' : ({ s with reclaimQ := s.reclaimQ.erase n } : State).entryOf n = none := he
  change Host.Outcome.next (s.reclaim octant) = _
  simp only [State.reclaim, h, he']

/-- The entry that the index holds for a name is of that name. -/
theorem name_of_entryOf {s : State} {n : BitVec 128} {e : CaEntry} (h : s.entryOf n = some e) : e.name = n := by
  have := List.find?_some h
  simp only [Bool.and_eq_true, decide_eq_true_eq] at this
  exact this.1

/-- An entry whose count has risen is live again; a leaf's that has not is free. -/
theorem exec_reclaimer_entry {s : State} {octant : Nat} {n : BitVec 128} {e : CaEntry}
    (h : (s.reclaimQ.find? fun n => decide (nameHome n = octant)) = some n) (he : s.entryOf n = some e)
    (hleaf : e.count ≠ 0 ∨ nameKind n ≠ 1) :
    exec (.reclaimer octant) s =
      .next ({ s with reclaimQ := s.reclaimQ.erase n }.setEntry { e with state := if e.count ≠ 0 then 0 else 2 }) := by
  have he' : ({ s with reclaimQ := s.reclaimQ.erase n } : State).entryOf n = some e := he
  change Host.Outcome.next (s.reclaim octant) = _
  simp only [State.reclaim, h, he']
  by_cases hcount : e.count ≠ 0
  · rw [if_pos hcount, if_pos hcount]
  · rw [if_neg hcount, if_neg hcount, if_neg (hleaf.resolve_left hcount)]
    rfl

/-! ### CA_POOL_WAIT_TIMEOUT (R117) -/

/-- CAPUT and CANODE are commands of the CA unit. -/
theorem engineOf_of_caSub {i : Instr} (h : caSub i ≠ 0) : engineOf i = 7 := by
  unfold caSub at h
  split at h <;> simp_all [engineOf]

theorem exec_caPoolWaitTimeout_late {s : State} {c : Cmd} (hc : s.cmd c.uid = some c) (hsent : c.sent = 1)
    (hfailed : c.failed = false) (hins : caSub c.ins = 1 ∨ caSub c.ins = 2)
    (hlate : c.parN 1 + s.twoBeats (coreOf c.seqk) ≤ s.time.toNat) :
    exec (.caPoolWaitTimeout c.uid) s = .next (s.trapCa { c with sent := 0 } 6 0 0 0) := by
  have hengine : engineOf c.ins = 7 := engineOf_of_caSub (by omega)
  change execCaPoolWaitTimeout c.uid s = _
  simp only [execCaPoolWaitTimeout, hc]
  rw [if_pos ⟨hsent, hfailed, hengine, hins, hlate⟩]

theorem exec_caPoolWaitTimeout_early {s : State} {c : Cmd} (hc : s.cmd c.uid = some c)
    (hearly : s.time.toNat < c.parN 1 + s.twoBeats (coreOf c.seqk)) : exec (.caPoolWaitTimeout c.uid) s = .next s := by
  change execCaPoolWaitTimeout c.uid s = _
  simp only [execCaPoolWaitTimeout, hc]
  rw [if_neg (by omega)]

/-! ### FUTURE_WAITER_DECREMENT (R305, R311) -/

/-- The source of the accesses that a waiter's decrement makes. -/
def wakeSource (w : Wake) : Source := { waiter := .wake w.id, core := w.slot / 8, slot := w.slot % 8, engine := 5 }

/-- The waiters left once that of an entry is served: its list goes on at the waiter that its link names. -/
def servedWakes (w : Wake) (link : Nat) (l : List Wake) : List Wake :=
  l.flatMap fun x => if x.id ≠ w.id then [x] else if link = 0 then [] else [{ w with tcb := BitVec.ofNat 64 link }]

theorem exec_futureWaiterDecrement (s : State) : exec .futureWaiterDecrement s = .next (s.wakeStep s.wakes) := rfl

theorem exec_futureWaiterDecrement_served {s t v : State} {w : Wake} {rest : List Wake} {m : Nat} (hw : s.wakes = w :: rest)
    (hblock : s.blockAt (wakeSource w) w.troot w.tcb.toNat true = (t, .ok m))
    (hdec : (t.blockSet m 192 8 0).decrement (wakeSource w) w.troot w.tcb.toNat w.ids = (v, .ok false)) :
    exec .futureWaiterDecrement s = .next { v with wakes := servedWakes w (leAt (t.block m) 192 8) v.wakes } := by
  have hserve : s.serveWake w =
      ({ v with wakes := v.wakes.flatMap fun x => if x.id = w.id then if leAt (t.block m) 192 8 = 0 then [] else
        [{ w with tcb := BitVec.ofNat 64 (leAt (t.block m) 192 8) }] else [x] }, true) := by
    simp only [wakeSource] at hblock hdec
    simp only [State.serveWake, slotNum, hblock, hdec]
    rfl
  rw [exec_futureWaiterDecrement, hw]
  simp only [State.wakeStep, hserve, servedWakes, ne_eq, ite_not]

theorem exec_futureWaiterDecrement_waits {s t : State} {w : Wake} (hw : s.wakes = [w])
    (hblock : s.blockAt (wakeSource w) w.troot w.tcb.toNat true = (t, .hold)) : exec .futureWaiterDecrement s = .next t := by
  simp only [wakeSource] at hblock
  rw [exec_futureWaiterDecrement, hw]
  simp only [State.wakeStep, State.serveWake, slotNum, hblock]

/-- A counter above 1 goes down by one (R305). -/
theorem decrement_above_one {s v : State} {src : Source} {troot : Word} {va m : Nat} (ids : List Nat)
    (hblock : s.blockAt src troot va true = (v, .ok m)) (hn : 1 < leAt (v.block m) 8 4) :
    s.decrement src troot va ids = ((v.depEdge m ids).blockSet m 8 4 (leAt (v.block m) 8 4 - 1), .ok false) := by
  have hne : leAt (v.block m) 8 4 ≠ 0 := by omega
  simp only [State.decrement, hblock, hne, hn, if_false, true_or, if_true]

/-- An edge of the overlap checker is no write to memory. -/
theorem depEdge_frame (s : State) (pa : Nat) (ids : List Nat) : s.depEdge pa ids = { s with deps := (s.depEdge pa ids).deps } := by
  unfold State.depEdge
  split <;> rfl

theorem leAt_blockSet_link {t : State} {m : Nat} (hv : t.verify .main m 256 = none) (hm : m % 256 = 0) :
    leAt ((t.blockSet m 192 8 0).block m) 192 8 = 0 := by
  rw [State.leAt_block_of_mem (State.blockSet_mem hv hm (by decide) (by decide) (by decide)) (by decide)]
  rfl

/-- The decrement of a verified block's counter, and of no other byte. -/
theorem blockSet_counter {v : State} {m : Nat} (ids : List Nat) (hv : v.verify .main m 256 = none) (hm : m % 256 = 0) :
    let u := (v.depEdge m ids).blockSet m 8 4 (leAt (v.block m) 8 4 - 1)
    leAt (u.block m) 8 4 = leAt (v.block m) 8 4 - 1 ∧ ∀ a, (a < m + 8 ∨ m + 12 ≤ a) → Mem.get u.mem a = Mem.get v.mem a := by
  have hv' : (v.depEdge m ids).verify .main m 256 = none := by rw [depEdge_frame]; exact hv
  have hmem' : (v.depEdge m ids).mem = v.mem := by rw [depEdge_frame]
  have hmem := State.blockSet_mem (x := leAt (v.block m) 8 4 - 1) (n := 4) (o := 8) hv' hm (by decide) (by decide) (by decide)
  have hlt : leAt (v.block m) 8 4 < 256 ^ 4 := leAt_lt _ _ _
  refine ⟨?counter, fun a ha => ?others⟩
  case counter => rw [State.leAt_block_of_mem hmem (by decide), Nat.mod_eq_of_lt (by omega)]
  case others =>
    rw [hmem, hmem', Mem.get_write_out _ _ _ _ (by rw [leBytes_length]; omega)]

/-! ### VECTOR_RUN_SWITCH (R20, R21, R207) -/

theorem exec_vectorRunSwitch (core : Nat) (s : State) : exec (.vectorRunSwitch core) s = execVectorRunSwitch core s := rfl

/-- The engine's better one of two commands, the older of two of one rank. -/
def better (s : State) (best : Option Cmd) (c : Cmd) : Option Cmd :=
  match best with
  | none => some c
  | some b => if s.rank (slotKey c.seqk) < s.rank (slotKey b.seqk) then some c else some b

/-- What is chosen was there to choose, and nothing outranks it. -/
theorem foldl_better (s : State) (cs : List Cmd) (b : Cmd) :
    ∃ x, cs.foldl (better s) (some b) = some x ∧ (x = b ∨ x ∈ cs) ∧
      ∀ y, (y = b ∨ y ∈ cs) → s.rank (slotKey x.seqk) ≤ s.rank (slotKey y.seqk) := by
  induction cs generalizing b with
  | nil => exact ⟨b, rfl, .inl rfl, by simp⟩
  | cons c cs ih =>
    by_cases hc : s.rank (slotKey c.seqk) < s.rank (slotKey b.seqk)
    · obtain ⟨x, hx, hmem, hle⟩ := ih c
      refine ⟨x, by simpa [better, hc] using hx, by simp only [List.mem_cons]; tauto, ?_⟩
      rintro y (rfl | hy)
      · exact (hle c (.inl rfl)).trans hc.le
      · exact hle y (by simpa using hy)
    · obtain ⟨x, hx, hmem, hle⟩ := ih b
      refine ⟨x, by simpa [better, hc] using hx, by simp only [List.mem_cons]; tauto, ?_⟩
      rintro y (rfl | hy)
      · exact hle y (.inl rfl)
      · rcases List.mem_cons.1 hy with rfl | hy
        · exact (hle b (.inl rfl)).trans (not_lt.1 hc)
        · exact hle y (.inr hy)

theorem chooseCmd_spec {s : State} {cs : List Cmd} (h : cs ≠ []) :
    ∃ x ∈ cs, s.chooseCmd cs = some x ∧ ∀ y ∈ cs, s.rank (slotKey x.seqk) ≤ s.rank (slotKey y.seqk) := by
  cases cs with
  | nil => exact absurd rfl h
  | cons c cs =>
    obtain ⟨x, hx, hmem, hle⟩ := foldl_better s cs c
    exact ⟨x, by simpa using hmem, hx, fun y hy => hle y (by simpa using hy)⟩

theorem vectorRunSwitch_chooses {s : State} {core : Nat} {c : Cmd} (hcur : s.current core = some c) (hb : s.runBlocked c = true)
    (hfree : ((s.runs core).filter fun r => !s.runBlocked r) ≠ []) :
    Leads (.vectorRunSwitch core) s fun u => ∃ x ∈ (s.runs core).filter fun r => !s.runBlocked r,
      u = { s with cores := u.cores } ∧ (∀ j, u.core j = if j = core then { s.core j with vrun := some x.uid } else s.core j) ∧
      ∀ y ∈ (s.runs core).filter fun r => !s.runBlocked r, s.rank (slotKey x.seqk) ≤ s.rank (slotKey y.seqk) := by
  obtain ⟨x, hx, hchoice, hle⟩ := chooseCmd_spec (s := s) hfree
  refine ⟨s.modCore core fun y => { y with vrun := some x.uid }, ?_, x, hx, rfl, fun j => ?_, hle⟩
  · rw [exec_vectorRunSwitch, execVectorRunSwitch]
    simp only [hcur, hb, hchoice, if_true]
  · by_cases hj : j = core
    · rw [if_pos hj, hj]
      exact State.setCore_core_self _ _ _
    · rw [if_neg hj]
      exact State.setCore_core_ne _ _ _ _ hj

theorem vectorRunSwitch_keeps {s : State} {core : Nat} {c : Cmd} (hcur : s.current core = some c)
    (h : s.runBlocked c = false ∨ ((s.runs core).filter fun r => !s.runBlocked r) = []) :
    exec (.vectorRunSwitch core) s = .next s := by
  rw [exec_vectorRunSwitch, execVectorRunSwitch]
  simp only [hcur]
  rcases h with h | h
  · simp [h]
  · simp [h, State.chooseCmd]

end Sys2Proof.Claims
end

section
/-! SUPPORT. The start of a command of the CA unit that nothing stops (R112 to R114). -/

namespace Sys2Proof.Claims
open Sys2Proof.Machine

/-! ### The start of a CA command -/

/-- The command as its engine has taken it up, its operands read (R114). -/
def caStarted (s : State) (c : Cmd) : Cmd := { c with phase := .running, par := caLatch s c }

/-- The state in which a CA command that has passed its checks does its work. -/
def caStart (s : State) (c : Cmd) : State := s.setCmd (caStarted s c)

/-- The operand of a CA command lies in its slot's slices, aligned (R112). -/
def CaSlice (s : State) (c : Cmd) (a n align : Nat) : Prop :=
  sliceOk a n = true ∧ s.window (slotKey c.seqk) a n = true ∧ a % align = 0

/-- The checks of R113 pass. -/
theorem checkCa_ok {s : State} {c : Cmd} (hsub : caSub c.ins ∈ [1, 3, 6, 9])
    (hops : ∀ o ∈ caOperands c, CaSlice s c o.1 o.2.1 o.2.2) (hlen : caSub c.ins = 3 → 1 ≤ c.v3.toNat ∧ c.v3.toNat ≤ 65536)
    (hcells : ∀ a ∈ caCells c, s.verify .scratch a 16 = none ∧ nameOk (s.nameAt a) = true) : s.checkCa c = .ok := by
  have hin : ((caOperands c).find? fun o => !(sliceOk o.1 o.2.1 && s.window (slotKey c.seqk) o.1 o.2.1)) = none :=
    List.find?_eq_none.2 fun o ho => by simp [(hops o ho).1, (hops o ho).2.1]
  have haligned : ((caOperands c).find? fun o => decide (o.1 % o.2.2 ≠ 0)) = none :=
    List.find?_eq_none.2 fun o ho => by simp [(hops o ho).2.2]
  have hverify : ((caCells c).findSome? fun a => s.verify .scratch a 16) = none :=
    List.findSome?_eq_none_iff.2 fun a ha => (hcells a ha).1
  have hnames : (((caCells c).map s.nameAt).any fun n => !(nameOk n || (decide (caSub c.ins = 7) && decide (n = 0)))) = false := by
    simp only [List.any_eq_false, List.mem_map, forall_exists_index, and_imp, forall_apply_eq_imp_iff₂]
    exact fun a ha => by simp [(hcells a ha).2]
  have hsize : ¬ (caSub c.ins = 3 ∧ (c.v3.toNat = 0 ∨ 65536 < c.v3.toNat)) := by omega
  simp only [List.mem_cons, List.not_mem_nil, or_false] at hsub
  have h7 : caSub c.ins ≠ 7 := by omega
  have h8 : caSub c.ins ≠ 8 := by omega
  have h4 : caSub c.ins ≠ 4 := by omega
  have h5 : caSub c.ins ≠ 5 := by omega
  simp only [State.checkCa, hin, haligned, hverify, h7, h8, h4, h5, if_false, hsize, Nat.zero_mod, ne_eq, not_true_eq_false,
    decide_false, Bool.or_false, Bool.false_eq_true, false_and, false_or]
  simp only [h7, decide_false] at hnames
  rw [if_neg (by simpa using hnames)]

/-- A command that its engine takes up now starts, and the checker of overlaps and the forcer have nothing to do first. -/
theorem forceCmd_of_starts {s : State} {c : Cmd} (h : Starts s c) (feet : List Foot) :
    s.forceCmd (caStarted s c) feet = .ok s := by
  obtain ⟨-, -, -, -, -, -, hsub, -, -, hnodes, hdemands, -, hovl, -⟩ := h
  have hstart (uid : Nat) (l : List OvFoot) : s.ovStart uid l = (s, false) := by rw [State.ovStart, hovl]; rfl
  have hforce : s.forceWrites (caStarted s c).force feet = .met s := by
    rw [State.forceWrites, show (caStarted s c).force.sk = slotKey c.seqk from rfl, hnodes, hdemands]; rfl
  rw [State.forceCmd, hstart]
  simp only [hforce, ite_self]

theorem failed_of_starts {s : State} {c : Cmd} (h : Starts s c) : c.failed = false := by
  obtain ⟨-, -, -, -, -, -, -, hcan, -⟩ := h
  simp only [State.canStart, Bool.and_eq_true, Bool.not_eq_true'] at hcan
  tauto

theorem cmd_caStart {s : State} {c : Cmd} (h : Starts s c) : (caStart s c).cmd c.uid = some (caStarted s c) :=
  State.cmd_setCmd (c := caStarted s c) (Option.isSome_of_eq_some h.1)

theorem canRun_of_starts {s : State} {c : Cmd} (h : Starts s c) : s.canRun c = true := by
  have hf := failed_of_starts h
  obtain ⟨-, hphase, -, hinj, -, -, -, hcan, hturn, -, -, -, -, hpool⟩ := h
  simp [State.canRun, State.mayStart, hf, hphase, hinj, hcan, hturn, hpool]

/-- The event COMMAND_START of a CA command whose graph is not recorded. -/
theorem exec_commandStart_ca {s u : State} {c : Cmd} (h : Starts s c) (hengine : engineOf c.ins = 7) (hrun : s.runCa c 1 = u)
    (hmode : (u.slot (slotKey c.seqk)).mode = 0) : exec (.commandStart c.uid 1) s = .next u := by
  have hcan := canRun_of_starts h
  obtain ⟨hcmd, hphase, -, -, -, hresumed, hsub, -⟩ := h
  have hbegun : c.begun = false := by simp [Cmd.begun, hphase, hresumed]
  have hshape : s.putShape c = s := by
    unfold State.putShape
    split
    next hx => simp [hsub] at hx
    next => rfl
  have hrecord : u.recordCommand c = u := by
    rw [State.recordCommand]
    split
    · rfl
    · simp [hmode]
  have hrun' : s.runCmd c 1 = u := by rw [State.runCmd, hengine, ← hrun]; rfl
  change Host.Outcome.next (s.startCmd c.uid 1) = _
  simp [State.startCmd, hcmd, hcan, hbegun, hshape, hrun', hrecord]

/-- What the CA unit does with a command that has passed its checks. -/
theorem runCa_started {s : State} {c : Cmd} (h : Starts s c) (h8 : caSub c.ins ≠ 8) (hcheck : s.checkCa c = .ok) (n : Nat) :
    s.runCa c n = match caSub c.ins with
      | 1 => (caStart s c).caIntern (caStarted s c)
      | 2 => (caStart s c).caIntern (caStarted s c)
      | 3 => (caStart s c).caHash (caStarted s c)
      | 4 => (caStart s c).caGet (caStarted s c)
      | 5 => (caStart s c).caWalkCmd (caStarted s c)
      | 7 => (caStart s c).caSwap (caStarted s c)
      | 8 => (caStart s c).caOutLoop c.uid n
      | _ => (caStart s c).caRef (caStarted s c) := by
  have hf := failed_of_starts h
  have hphase : c.phase = .waiting := h.2.1
  unfold State.runCa
  rw [if_neg (by simp [hphase, hf]), if_neg (by simp [hphase]), hcheck]
  simp only [h8, if_false]
  have hforce := forceCmd_of_starts h (caFeet (caStarted s c))
  simp only [caStarted] at hforce
  rw [hforce]
  rfl

end Sys2Proof.Claims
end

section
/-! SUPPORT. Counts of the CA index and lookups by content (R106, R107, R110), and the mode of a slot that takes a trap. -/

namespace Sys2Proof.Machine

/-! ### Counts (R106) -/

theorem State.addCount_kept {s : State} {e : CaEntry} {d : Int} (h : e.count = pinned ∨ d = 0) : s.addCount e d = some s := by
  rw [State.addCount, if_pos h]

theorem State.addCount_underflow {s : State} {e : CaEntry} {d : Int} (hpin : e.count ≠ pinned) (h : (e.count.toNat : Int) + d < 0) :
    s.addCount e d = none := by
  rw [State.addCount, if_neg (not_or.2 ⟨hpin, by omega⟩)]
  exact if_pos h

/-- A count that comes to 0 waits for the reclaimer (R107). -/
theorem State.addCount_zero {s : State} {e : CaEntry} {d : Int} (hpin : e.count ≠ pinned) (hd : d ≠ 0)
    (h : (e.count.toNat : Int) + d = 0) :
    s.addCount e d = some { s.setEntry { e with count := 0, state := 1 } with
      reclaimQ := if s.reclaimQ.contains e.name then s.reclaimQ else s.reclaimQ ++ [e.name] } := by
  simp only [State.addCount, if_neg (not_or.2 ⟨hpin, hd⟩), h, lt_self_iff_false, if_false, if_true]

theorem State.addCount_pos {s : State} {e : CaEntry} {d : Int} (hpin : e.count ≠ pinned) (hd : d ≠ 0)
    (h : 0 < (e.count.toNat : Int) + d) :
    s.addCount e d = some (s.setEntry
      { e with count := BitVec.ofNat 32 (Min.min ((e.count.toNat : Int) + d).toNat pinned.toNat), state := 0 }) := by
  simp only [State.addCount, if_neg (not_or.2 ⟨hpin, hd⟩), not_lt.2 h.le, h.ne', if_false]

/-- One more for a count that is not pinned is below the pinned count's overflow. -/
theorem State.addCount_one {s : State} {e : CaEntry} (hpin : e.count ≠ pinned) :
    s.addCount e 1 = some (s.setEntry { e with count := e.count + 1, state := 0 }) := by
  have hle : e.count.toNat + 1 ≤ pinned.toNat := by
    have hne : e.count.toNat ≠ pinned.toNat := fun h => hpin (BitVec.eq_of_toNat_eq h)
    have hlt := e.count.isLt
    have hpinned : pinned.toNat = 2 ^ 32 - 1 := rfl
    omega
  have hcount : BitVec.ofNat 32 (Min.min ((e.count.toNat : Int) + 1).toNat pinned.toNat) = e.count + 1 := by
    rw [Int.toNat_natCast_add_one, min_eq_left hle, BitVec.ofNat_add, BitVec.ofNat_toNat, BitVec.setWidth_eq]; rfl
  rw [State.addCount_pos hpin one_ne_zero (by omega), hcount]

/-- A lookup by content does not depend on the commands in flight. -/
theorem State.probe_setCmd (s : State) (x : Cmd) (h : BitVec 112) (l : List Byte) (n ord : Nat) (free : Option Nat)
    (cs : List (BitVec 128)) : (s.setCmd x).probe h l n ord free cs = s.probe h l n ord free cs := by
  induction n generalizing ord free cs with
  | zero => rfl
  | succ n ih =>
    simp only [State.probe, ih]
    rfl

theorem State.lookup_setCmd (s : State) (x : Cmd) (h : BitVec 112) (l : List Byte) : (s.setCmd x).lookup h l = s.lookup h l :=
  s.probe_setCmd x h l _ _ _ _

/-- A trap against a command that no demand has made leaves its slot's mode. -/
theorem State.slot_mode_takeTrap {s : State} {sk : Nat} {r : TrapRec} (h : r.ecc = false) :
    ((s.takeTrap sk r).slot sk).mode = (s.slot sk).mode := by
  simp only [State.takeTrap, State.countSoft, h, Bool.false_eq_true, if_false, State.modSlot_slot_self]
  rfl

end Sys2Proof.Machine
end

section
/-! SUPPORT. What CAHASH leaves (R116), and the parts that the CA commands share: their end and the name that they write. -/

namespace Sys2Proof.Claims
open Sys2Proof.Machine

/-! ### What a CA command leaves -/

theorem done_complete {t : State} {c c' : Cmd} (v : Word) (huid : c'.uid = c.uid) (ht : t.cmd c.uid = some c')
    (hf : c'.failed = false) (st : Nat) : Done (t.complete { c' with sent := st } v) c v := by
  have hset : (t.complete { c' with sent := st } v).cmd c.uid = some { c' with sent := st, phase := .done, result := v } := by
    rw [← huid] at ht ⊢
    exact State.cmd_setCmd (c := { c' with sent := st, phase := .done, result := v }) (Option.isSome_of_eq_some ht)
  rw [Done, hset]
  simp [hf]

/-- A command whose engine has taken it up, in a state whose commands are those at its start. -/
theorem done_of_started {s t : State} {c : Cmd} (h : Starts s c) (ht : t.cmds = (caStart s c).cmds) (v : Word) :
    Done (t.complete (caStarted s c) v) c v := by
  have hcmd : t.cmd c.uid = some (caStarted s c) := by rw [State.cmd, ht]; exact cmd_caStart h
  exact done_complete (c' := caStarted s c) v rfl hcmd (failed_of_starts (c := c) h) c.sent

/-- A name written to a cell of a slice (R115, R116). -/
def named (t : State) (a : Nat) (n : BitVec 128) : State := t.poke .scratch a (leBytes 16 n.toNat) (originTag 5 (a / 2 ^ 23))

theorem putName_eq {t : State} {c : Cmd} {a : Nat} (n : BitVec 128) (ha : a % 16 = 0) (hv : t.verifyLine .scratch a = none) :
    t.putName c a n = .ok (named t a n) :=
  State.storeAll_line _ _ (by simp) (by simp only [leBytes_length]; omega) (by simp) hv

/-- The name stands in its cell, and every other byte of the slices is as it was. -/
theorem named_stores (t : State) (a : Nat) (n : BitVec 128) : leNat ((named t a n).bytes .scratch a 16) = n.toNat ∧
    ∀ y, y < a ∨ a + 16 ≤ y → byteAt (named t a n) .scratch y = byteAt t .scratch y := by
  refine ⟨?cell, fun y hy => ?others⟩
  case cell =>
    have h := State.bytes_poke_scratch t a (leBytes 16 n.toNat) (originTag 5 (a / 2 ^ 23))
    rw [leBytes_length] at h
    rw [named, h, leNat_leBytes, Nat.mod_eq_of_lt (by exact n.isLt)]
  case others =>
    have h := State.poke_scratch_get t a (leBytes 16 n.toNat) (originTag 5 (a / 2 ^ 23)) y
    rw [leBytes_length, if_neg (by omega)] at h
    simp only [byteAt, State.bytes, Mem.read_eq, List.range_one, List.map_cons, List.map_nil, Nat.add_zero, named, h]

/-! ### CAHASH (R116) -/

theorem commandStart_cahash {s : State} {c : Cmd} (h : Starts s c) (hsub : caSub c.ins = 3) (hpos : 1 ≤ c.v3.toNat)
    (hmax : c.v3.toNat ≤ 65536) (hin : CaSlice s c c.v1.toNat c.v3.toNat 1) (hv : s.verify .scratch c.v1.toNat c.v3.toNat = none)
    (hout : CaSlice s c c.v2.toNat 16 16) (hline : s.verifyLine .scratch c.v2.toNat = none) :
    exec (.commandStart c.uid 1) s = .next ((named (caStart s c) c.v2.toNat
      (recordName (s.bytes .scratch c.v1.toNat c.v3.toNat))).complete (caStarted s c) 0) := by
  have hcheck : s.checkCa c = .ok := checkCa_ok (by simp [hsub])
    (by simp only [caOperands, hsub, List.mem_cons, List.not_mem_nil, or_false, forall_eq_or_imp, forall_eq]; exact ⟨hin, hout⟩)
    (fun _ => ⟨hpos, hmax⟩) (by simp [caCells, hsub])
  have hhash : (caStart s c).caHash (caStarted s c) = (named (caStart s c) c.v2.toNat
      (recordName (s.bytes .scratch c.v1.toNat c.v3.toNat))).complete (caStarted s c) 0 := by
    have hv' : (caStart s c).verify .scratch (caStarted s c).v1.toNat (caStarted s c).v3.toNat = none := hv
    rw [State.caHash, hv']
    simp only [putName_eq (t := caStart s c) (a := (caStarted s c).v2.toNat) _ hout.2.2 hline]
    rfl
  refine exec_commandStart_ca h (engineOf_of_caSub (by omega)) ?_ h.2.2.2.2.2.2.2.2.2.2.2.1
  rw [runCa_started h (by omega) hcheck, hsub]
  exact hhash

end Sys2Proof.Claims
end

section
/-! SUPPORT. What CAREF, CAPIN and CAPUT leave (R106, R115, R118). -/

namespace Sys2Proof.Claims
open Sys2Proof.Machine

/-! ### CAREF and CAPIN (R118) -/

/-- The name in the cell that a command names first, and what R112 and R113 ask of it. -/
def CaNamed (s : State) (c : Cmd) : Prop :=
  CaSlice s c c.v1.toNat 16 16 ∧ s.verify .scratch c.v1.toNat 16 = none ∧ nameOk (s.nameAt c.v1.toNat) = true ∧
    s.nameAt c.v1.toNat ≠ zeroName

/-- CAREF and CAPIN do their work at once. -/
theorem commandStart_caRef {s u : State} {c : Cmd} (h : Starts s c) (hsub : caSub c.ins = 6 ∨ caSub c.ins = 9) (hn : CaNamed s c)
    (hu : (caStart s c).caRef (caStarted s c) = u) (hmode : (u.slot (slotKey c.seqk)).mode = (s.slot (slotKey c.seqk)).mode) :
    exec (.commandStart c.uid 1) s = .next u := by
  obtain ⟨hin, hv, hok, -⟩ := hn
  have hops : caOperands c = [(c.v1.toNat, 16, 16)] := by rcases hsub with hsub | hsub <;> simp [caOperands, hsub]
  have hcells : caCells c = [c.v1.toNat] := by rcases hsub with hsub | hsub <;> simp [caCells, hsub]
  have hcheck : s.checkCa c = .ok := checkCa_ok (by simpa using by omega) (by simpa [hops] using hin) (fun _ => by omega)
    (by simpa [hcells] using ⟨hv, hok⟩)
  have hm : (s.slot (slotKey c.seqk)).mode = 0 := h.2.2.2.2.2.2.2.2.2.2.2.1
  refine exec_commandStart_ca h (engineOf_of_caSub (by omega)) ?_ (hmode.trans hm)
  rw [runCa_started h (by omega) hcheck, ← hu]
  rcases hsub with hsub | hsub <;> (rw [hsub]; rfl)

/-- The entry of the name that CAREF and CAPIN are given (R118). -/
theorem caRef_named {s : State} {c : Cmd} {x : CaEntry} (hn : CaNamed s c) (hx : s.entryOf (s.nameAt c.v1.toNat) = some x) :
    (caStart s c).caRef (caStarted s c) = if caSub c.ins = 9
      then ((caStart s c).setEntry { x with count := pinned, state := 0 }).complete (caStarted s c) (zx x.count)
      else match (caStart s c).addCount x (c.v2.setWidth 32).toInt with
        | none => (caStart s c).trapCa (caStarted s c) 9 0 0 0
        | some t => t.complete (caStarted s c) (zx x.count) := by
  obtain ⟨-, -, -, hne⟩ := hn
  have hname : (caStart s c).nameAt (caStarted s c).v1.toNat = s.nameAt c.v1.toNat := rfl
  have hentry : (caStart s c).entryOf (s.nameAt c.v1.toNat) = some x := hx
  rw [State.caRef]
  simp only [hname, hne, if_false, hentry]
  rfl

theorem caref_counts {s t : State} {c : Cmd} {x : CaEntry} (h : Starts s c) (hsub : caSub c.ins = 6) (hn : CaNamed s c)
    (hx : s.entryOf (s.nameAt c.v1.toNat) = some x) (ht : (caStart s c).addCount x (c.v2.setWidth 32).toInt = some t)
    (hslots : t.slots = s.slots) :
    exec (.commandStart c.uid 1) s = .next (t.complete (caStarted s c) (zx x.count)) := by
  have hu : (caStart s c).caRef (caStarted s c) = t.complete (caStarted s c) (zx x.count) := by
    rw [caRef_named hn hx, if_neg (by omega), ht]
  refine commandStart_caRef h (.inl hsub) hn hu ?_
  rw [State.slot, State.slot, ← hslots]
  rfl

/-- A count that would fall below 0 is an error of the program (R106, R118). -/
theorem caref_traps {s : State} {c : Cmd} {x : CaEntry} (h : Starts s c) (hsub : caSub c.ins = 6) (hn : CaNamed s c)
    (hx : s.entryOf (s.nameAt c.v1.toNat) = some x) (ht : (caStart s c).addCount x (c.v2.setWidth 32).toInt = none) :
    Leads (.commandStart c.uid 1) s fun u => CommandTraps s u (caStarted s c) 9 7 9 := by
  have hsubNone : (caStarted s c).sub = none := h.2.2.2.2.2.2.1
  have hu : (caStart s c).caRef (caStarted s c) = (caStart s c).trapCa (caStarted s c) 9 0 0 0 := by
    rw [caRef_named hn hx, if_neg (by omega), ht]
  refine ⟨_, commandStart_caRef h (.inl hsub) hn hu ?mode, ?traps⟩
  case mode =>
    rw [State.trapCa, trapCmd_of_sub_eq_none hsubNone]
    exact State.slot_mode_takeTrap rfl
  case traps =>
    have hcmd : ((caStart s c).cmd (caStarted s c).uid).isSome = true := Option.isSome_of_eq_some (cmd_caStart h)
    exact commandTraps_trapCmd (s := caStart s c) hsubNone hcmd rfl rfl rfl rfl

theorem capin_pins {s : State} {c : Cmd} {x : CaEntry} (h : Starts s c) (hsub : caSub c.ins = 9) (hn : CaNamed s c)
    (hx : s.entryOf (s.nameAt c.v1.toNat) = some x) :
    exec (.commandStart c.uid 1) s =
      .next (((caStart s c).setEntry { x with count := pinned, state := 0 }).complete (caStarted s c) (zx x.count)) :=
  commandStart_caRef h (.inr hsub) hn (by rw [caRef_named hn hx, if_pos hsub]) rfl

/-! ### CAPUT (R115) -/

/-- The line that CAPUT keeps is the one in its slice. -/
theorem caStarted_line {s : State} {c : Cmd} (hsub : caSub c.ins = 1) :
    leBytes 128 ((caStarted s c).parN 0) = s.bytes .scratch c.v1.toNat 128 := by
  have hlen : (s.bytes .scratch c.v1.toNat 128).length = 128 := Mem.read_length _ _ _
  have hpar : (caStarted s c).parN 0 = leNat (s.bytes .scratch c.v1.toNat 128) := by
    have hlatch : caLatch s c = [(leNat (s.bytes .scratch c.v1.toNat 128) : Int)] := if_pos (.inl hsub)
    rw [Cmd.parN, show (caStarted s c).par = caLatch s c from rfl, hlatch]
    rfl
  have hbytes := leBytes_leNat (s.bytes .scratch c.v1.toNat 128)
  rw [hlen] at hbytes
  rw [hpar, hbytes]

theorem commandStart_caput {s u : State} {c : Cmd} (h : Starts s c) (hsub : caSub c.ins = 1) (hin : CaSlice s c c.v1.toNat 128 128)
    (hout : CaSlice s c c.v2.toNat 16 16) (hu : (caStart s c).caIntern (caStarted s c) = u) (hslots : u.slots = s.slots) :
    exec (.commandStart c.uid 1) s = .next u := by
  have hcheck : s.checkCa c = .ok := checkCa_ok (by simp [hsub])
    (by simp only [caOperands, hsub, List.mem_cons, List.not_mem_nil, or_false, forall_eq_or_imp, forall_eq]; exact ⟨hin, hout⟩)
    (fun _ => by omega) (by simp [caCells, hsub])
  have hm : (s.slot (slotKey c.seqk)).mode = 0 := h.2.2.2.2.2.2.2.2.2.2.2.1
  refine exec_commandStart_ca h (engineOf_of_caSub (by omega)) ?_ (by rw [State.slot, hslots]; exact hm)
  rw [runCa_started h (by omega) hcheck, hsub]
  exact hu

theorem caIntern_zero {s : State} {c : Cmd} (hsub : caSub c.ins = 1) (hout : c.v2.toNat % 16 = 0)
    (hline : s.verifyLine .scratch c.v2.toNat = none) (hzero : s.bytes .scratch c.v1.toNat 128 = zeros 128) :
    (caStart s c).caIntern (caStarted s c) =
      (named (caStart s c) c.v2.toNat zeroName).complete { caStarted s c with sent := 0 } (BitVec.ofNat 64 0) := by
  have hkind : caSub (caStarted s c).ins = 1 := hsub
  have hbytes : leBytes 128 ((caStarted s c).parN 0) = zeros 128 := (caStarted_line hsub).trans hzero
  have hput : (caStart s c).putName (caStarted s c) (caStarted s c).v2.toNat zeroName = .ok (named (caStart s c) c.v2.toNat zeroName) :=
    putName_eq (t := caStart s c) _ hout hline
  simp only [State.caIntern, hkind, hbytes, hput]
  rfl

theorem caIntern_hit {s : State} {c : Cmd} {x : CaEntry} (hsub : caSub c.ins = 1) (hsent : c.sent = 0) (hout : c.v2.toNat % 16 = 0)
    (hline : s.verifyLine .scratch c.v2.toNat = none) (hv : s.verify .scratch c.v1.toNat 128 = none)
    (hne : s.bytes .scratch c.v1.toNat 128 ≠ zeros 128)
    (hx : s.lookup (contentHash 0 (s.bytes .scratch c.v1.toNat 128)) (s.bytes .scratch c.v1.toNat 128) = .hit x [])
    (hpin : x.count ≠ pinned) :
    (caStart s c).caIntern (caStarted s c) =
      (named ((caStart s c).setEntry { x with count := x.count + 1, state := 0 }) c.v2.toNat
        (mkName (contentHash 0 (s.bytes .scratch c.v1.toNat 128)) (nameOrd x.name) 0)).complete
        { caStarted s c with sent := 0 } (BitVec.ofNat 64 (nameOrd x.name * 16)) := by
  have hkind : caSub (caStarted s c).ins = 1 := hsub
  have hbytes : leBytes 128 ((caStarted s c).parN 0) = s.bytes .scratch c.v1.toNat 128 := caStarted_line hsub
  have hsent' : (caStarted s c).sent = 0 := hsent
  have hv' : (caStart s c).verify .scratch (caStarted s c).v1.toNat 128 = none := hv
  have hintern : (caStart s c).intern (s.bytes .scratch c.v1.toNat 128) 0 (coreOf (caStarted s c).seqk) true =
      .ok ((caStart s c).setEntry { x with count := x.count + 1, state := 0 })
        (mkName (contentHash 0 (s.bytes .scratch c.v1.toNat 128)) (nameOrd x.name) 0) (nameOrd x.name * 16) := by
    simp only [State.intern, caStart, State.lookup_setCmd, hx, State.collide, List.foldl_nil, if_true, State.addCount_one hpin,
      Option.getD_some]
  have hput := putName_eq (t := (caStart s c).setEntry { x with count := x.count + 1, state := 0 }) (c := caStarted s c)
    (mkName (contentHash 0 (s.bytes .scratch c.v1.toNat 128)) (nameOrd x.name) 0) hout hline
  simp only [State.caIntern, hkind, hbytes, hsent', hv', hne, Nat.sub_self, decide_true, hintern, if_true, and_false, false_and, or_self,
    if_false, zero_ne_one, List.zipIdx_nil, List.find?_nil]
  rw [show (caStarted s c).v2 = c.v2 from rfl, hput]

end Sys2Proof.Claims
end

section
/-! SUPPORT. The CA commands in the words of the statement, and the proof of O54. -/

namespace Sys2Proof.Claims
open Sys2Proof.Machine

theorem bytes_eq_zeros {s : State} {a : Nat} (h : ∀ i < 128, byteAt s .scratch (a + i) = 0) : s.bytes .scratch a 128 = zeros 128 := by
  have hget (i : Nat) (hi : i < 128) : Mem.get s.scratch (a + i) = 0 := by
    have := h i hi
    simp only [byteAt, State.bytes, Mem.read_eq, List.range_one, List.map_cons, List.map_nil, Nat.add_zero, leNat] at this
    exact BitVec.eq_of_toNat_eq (by simpa using this)
  rw [State.bytes, Mem.read_eq, zeros, List.map_congr_left fun i hi => hget i (List.mem_range.1 hi), List.map_const',
    List.length_range]

theorem caCommandsKeepTheIndex : CaCommandsKeepTheIndex := by
  intro s c d a b e h sk slice name isNamed stores out entry delta
  have hsent : c.sent = 0 := by obtain ⟨-, -, -, -, hsent, -⟩ := h; exact hsent
  refine ⟨?cahash, ?caref, ?capin, ?zero, ?hit⟩
  case cahash =>
    intro hins hpos hmax hin hv hout
    obtain ⟨hslice, hline⟩ := hout
    have hcell := named_stores (caStart s c) c.v2.toNat (recordName (s.bytes .scratch c.v1.toNat c.v3.toNat))
    exact ⟨_, commandStart_cahash h (by rw [hins]; rfl) hpos hmax hin hv hslice hline, done_of_started h rfl 0, rfl, rfl, hcell⟩
  case caref =>
    intro x hins hn hx sum
    have hsub : caSub c.ins = 6 := by rw [hins]; rfl
    obtain ⟨hin, hv, hok, hne⟩ := hn
    have hnamed : CaNamed s c := ⟨hin, hv, hok, hne⟩
    refine ⟨fun hkeep => ?kept, fun hpin hd hsum => ?positive, fun hpin hd hsum => ?dead, fun hpin hsum => ?negative⟩
    case kept =>
      exact ⟨_, caref_counts h hsub hnamed hx (State.addCount_kept hkeep) rfl, done_of_started h rfl _, rfl⟩
    case positive =>
      exact ⟨_, caref_counts h hsub hnamed hx (State.addCount_pos hpin hd hsum) rfl, done_of_started h rfl _, rfl, rfl⟩
    case dead =>
      refine ⟨_, caref_counts h hsub hnamed hx (State.addCount_zero hpin hd hsum) rfl, done_of_started h rfl _, rfl, ?_, rfl⟩
      change x.name ∈ if s.reclaimQ.contains x.name then s.reclaimQ else s.reclaimQ ++ [x.name]
      split
      next hin => simpa using hin
      next => simp
    case negative =>
      have hlatch : caLatch s c = [(name.toNat : Int)] := by
        rw [caLatch, if_neg (by omega)]
        simp only [caCells, hsub, List.map_cons, List.map_nil]
        rfl
      have htrap := caref_traps h hsub hnamed hx (State.addCount_underflow hpin hsum)
      rwa [caStarted, hlatch] at htrap
  case capin =>
    intro x hins hn hx
    obtain ⟨hin, hv, hok, hne⟩ := hn
    exact ⟨_, capin_pins h (by rw [hins]; rfl) ⟨hin, hv, hok, hne⟩ hx, done_of_started h rfl _, rfl, rfl⟩
  case zero =>
    intro hins hin hout hzero
    have hsub : caSub c.ins = 1 := by rw [hins]; rfl
    obtain ⟨hslice, hline⟩ := hout
    have hintern := caIntern_zero hsub hslice.2.2 hline (bytes_eq_zeros hzero)
    exact ⟨_, commandStart_caput h hsub hin hslice hintern rfl,
      done_complete (t := named (caStart s c) c.v2.toNat zeroName) (c' := caStarted s c) _ rfl (cmd_caStart (c := c) h) (failed_of_starts (c := c) h) 0,
      rfl, rfl, named_stores (caStart s c) c.v2.toNat zeroName⟩
  case hit =>
    intro x hins hin hout hv line hne hx hpin
    have hsub : caSub c.ins = 1 := by rw [hins]; rfl
    obtain ⟨hslice, hline⟩ := hout
    have hintern := caIntern_hit hsub hsent hslice.2.2 hline hv hne hx hpin
    exact ⟨_, commandStart_caput h hsub hin hslice hintern rfl,
      done_complete (t := named ((caStart s c).setEntry { x with count := x.count + 1, state := 0 }) c.v2.toNat _) (c' := caStarted s c) _ rfl
        (cmd_caStart (c := c) h) (failed_of_starts (c := c) h) 0,
      rfl, named_stores ((caStart s c).setEntry { x with count := x.count + 1, state := 0 }) c.v2.toNat _, rfl⟩

/-- Settles O54: every clause is the lemma of its event. -/
theorem reclaimersFuturesAndRunSwitches : Obligations.ReclaimersFuturesAndRunSwitches := by
  unfold Obligations.ReclaimersFuturesAndRunSwitches
  refine ⟨caCommandsKeepTheIndex, fun s octant core c => ?_⟩
  intro next
  refine ⟨exec_reclaimer_none, ?reclaimed, ?timeout, ?noWakes, ?served, ?decremented, ?waits, ?noRun, ?switch⟩
  case reclaimed =>
    intro n hn becomes
    refine ⟨exec_reclaimer_absent hn, fun e he => ⟨fun hcount => ?live, fun hcount hkind => ?free⟩⟩
    case live =>
      simp only [becomes, exec_reclaimer_entry hn he (.inl hcount), if_pos hcount, State.setEntry, name_of_entryOf he]
    case free =>
      simp only [becomes, exec_reclaimer_entry hn he (.inr hkind), if_neg (not_not.2 hcount), State.setEntry, name_of_entryOf he]
  case timeout =>
    intro hc hsent hfailed hsub hins limit
    refine ⟨fun hlate => ?late, exec_caPoolWaitTimeout_early hc⟩
    case late =>
      exact ⟨_, exec_caPoolWaitTimeout_late hc hsent hfailed hins hlate,
        commandTraps_trapCmd hsub (Option.isSome_of_eq_some hc) rfl rfl rfl rfl⟩
  case noWakes =>
    intro h
    rw [exec_futureWaiterDecrement, h]
    rfl
  case served =>
    intro w rest t m v src hw hblock hdec
    exact exec_futureWaiterDecrement_served hw hblock hdec
  case decremented =>
    intro w rest t m v src hw hblock hm hblock' hcount
    have hdec := decrement_above_one w.ids hblock' hcount
    exact ⟨leAt_blockSet_link (State.verify_of_blockAt hblock) hm, _, exec_futureWaiterDecrement_served hw hblock hdec,
      blockSet_counter w.ids (State.verify_of_blockAt hblock') hm⟩
  case waits => exact fun w t hw hblock => exec_futureWaiterDecrement_waits hw hblock
  case noRun =>
    intro h
    rw [exec_vectorRunSwitch, execVectorRunSwitch, h]
  case switch => exact fun hcur => ⟨vectorRunSwitch_keeps hcur, vectorRunSwitch_chooses hcur⟩

end Sys2Proof.Claims
end

section
/-! SUPPORT. The commands of the mailbox: which of them run and how they are refused (R374), and what CONFIG, GANG and POOLRST leave
(R109, R379, R380). -/

namespace Sys2Proof.Claims
open Sys2Proof.Machine

/-! ### A command that runs (R374) -/

theorem command_of_busy {s : State} {code : Nat} (hready : s.host.ready = true) (hup : s.host.updating = false)
    (hbusy : s.host.busy = true) (hcode : leAt s.host.cmd 0 1 = code) : s.command code = some s := by
  simp [State.command, hready, hup, hbusy, hcode]

theorem mailbox_of_mailRuns {s : State} {code : Nat} {needs : Bool} (f : State → List Byte → State) (h : mailRuns s code)
    (hneeds : needs = true → 2 ≤ code ∧ code ≤ 7) : s.mailbox code needs f = f s s.host.cmd := by
  obtain ⟨hready, hup, hbusy, hcode, hok, hconf⟩ := h
  have hgo : (needs && !s.host.configured) = false := by
    cases needs with
    | false => rfl
    | true =>
      have := hneeds rfl
      simp [hconf (by omega)]
  simp [State.mailbox, command_of_busy hready hup hbusy hcode, hok, hgo]

/-- Bytes out of range (R374). -/
theorem mailbox_refuses {s : State} {code : Nat} {needs : Bool} {f : State → List Byte → State} (hready : s.host.ready = true)
    (hup : s.host.updating = false) (hbusy : s.host.busy = true) (hcode : leAt s.host.cmd 0 1 = code)
    (hbad : mboxOk s.host.cmd = false) : s.mailbox code needs f = answered s 1 := by
  simp only [State.mailbox, command_of_busy hready hup hbusy hcode, hbad]
  rfl

/-- A command before CONFIG (R374). -/
theorem mailbox_before_config {s : State} {code : Nat} {f : State → List Byte → State} (hready : s.host.ready = true)
    (hup : s.host.updating = false) (hbusy : s.host.busy = true) (hcode : leAt s.host.cmd 0 1 = code)
    (hok : mboxOk s.host.cmd = true) (hconf : s.host.configured = false) : s.mailbox code true f = answered s 2 := by
  simp only [State.mailbox, command_of_busy hready hup hbusy hcode, hok, hconf]
  rfl

/-- The commands that the first clause of the statement names, by their codes: whether they wait for CONFIG, and what they do. -/
theorem exec_mailbox {p : Nat × Instr}
    (h : p ∈ [(1, Instr.config), (2, .load), (3, .gang), (4, .redwin), (5, .poolrst), (6, .release), (8, .patch), (9, .update)]) :
    ∃ (needs : Bool) (f : State → List Byte → State), (needs = true ↔ 2 ≤ p.1 ∧ p.1 ≤ 6) ∧
      ∀ s : State, exec p.2 s = .next (s.mailbox p.1 needs f) := by
  simp only [List.mem_cons, List.not_mem_nil, or_false] at h
  rcases h with rfl | rfl | rfl | rfl | rfl | rfl | rfl | rfl
  all_goals exact ⟨_, _, by decide, fun s => rfl⟩

theorem mailbox_refusals {s : State} {p : Nat × Instr}
    (h : p ∈ [(1, Instr.config), (2, .load), (3, .gang), (4, .redwin), (5, .poolrst), (6, .release), (8, .patch), (9, .update)])
    (hready : s.host.ready = true) (hup : s.host.updating = false) (hbusy : s.host.busy = true) (hcode : leAt s.host.cmd 0 1 = p.1) :
    (mboxOk s.host.cmd = false → exec p.2 s = .next (answered s 1)) ∧
      (mboxOk s.host.cmd = true → 2 ≤ p.1 → p.1 ≤ 6 → s.host.configured = false → exec p.2 s = .next (answered s 2)) := by
  obtain ⟨needs, f, hneeds, hexec⟩ := exec_mailbox h
  refine ⟨fun hbad => ?bytes, fun hok hlow hhigh hconf => ?config⟩
  case bytes => rw [hexec, mailbox_refuses hready hup hbusy hcode hbad]
  case config =>
    rw [hexec, hneeds.2 ⟨hlow, hhigh⟩, mailbox_before_config hready hup hbusy hcode hok hconf]

/-! ### CONFIG (R379) -/

/-- What CONFIG leaves of one core: its boot slots, slot 5's H sequencer and HBPER. -/
def CoreConfigured (s u : State) (r : List Byte) (c : Nat) : Prop :=
  (u.slot (c * 8 + 4)).troot = trootOf (leAt r 32 8) ∧ (u.slot (c * 8 + 5)).troot = trootOf (leAt r 32 8) ∧
    Kv.get 0 (u.slot (c * 8 + 4)).swin 0 = BitVec.ofNat 64 (leAt r 40 8 + c * 2 ^ 23) &&& 0xF3FFFFF000 ∧
    Kv.get 0 (u.slot (c * 8 + 5)).swin 0 = BitVec.ofNat 64 (leAt r 48 8 + c * 2 ^ 23) &&& 0xF3FFFFF000 ∧
    (u.slot (c * 8 + 5)).busy = true ∧ u.seq (c * 32 + 23) = { active := true, pc := Config.runtimeEntry c } ∧
    (u.core c).hbper.toNat = leAt r 56 2 ∧ (u.core c).hblast = (s.core c).hblast

theorem configCore_slot_other (s : State) (r : List Byte) {c k : Nat} (h4 : k ≠ c * 8 + 4) (h5 : k ≠ c * 8 + 5) :
    (s.configCore r c).slot k = s.slot k := by
  simp [State.configCore, State.modSlot_slot_ne, h4, h5]

theorem configCore_core (s : State) (r : List Byte) (c j : Nat) : (s.configCore r c).core j =
    if j = c then { s.core c with hbper := BitVec.ofNat 16 (leAt r 56 2), hbmark := s.time } else s.core j := by
  split
  next h => simp [State.configCore, h, State.modCore]
  next h => simp [State.configCore, State.modCore, State.setCore_core_ne _ _ _ _ h]

theorem configCore_hblast (s : State) (r : List Byte) (c j : Nat) : ((s.configCore r c).core j).hblast = (s.core j).hblast := by
  rw [configCore_core]
  split
  next h => rw [h]
  next => rfl

theorem configCore_seq_other (s : State) (r : List Byte) {c k : Nat} (h : k ≠ c * 32 + 23) : (s.configCore r c).seq k = s.seq k := by
  simp [State.configCore, State.setSeq_seq_ne _ _ _ _ h]

theorem coreConfigured_self {s u : State} {r : List Byte} {c : Nat} (h : (u.core c).hblast = (s.core c).hblast) :
    CoreConfigured s (u.configCore r c) r c := by
  have hper : leAt r 56 2 < 2 ^ 16 := leAt_lt r 56 2
  have hwin (x : Nat) : BitVec.ofNat 64 (x &&& 0xF3FFFFF000) = BitVec.ofNat 64 x &&& 0xF3FFFFF000 := BitVec.ofNat_and
  refine ⟨?_, ?_, ?_, ?_, ?_, ?_, ?_, ?_⟩
  · simp [State.configCore, State.modSlot_slot_ne]
  · simp [State.configCore]
  · simp [State.configCore, State.modSlot_slot_ne, hwin]
  · simp [State.configCore, hwin]
  · simp [State.configCore]
  · simp [State.configCore]
  · simpa [configCore_core] using hper
  · rw [configCore_hblast, h]

theorem CoreConfigured.configCore_other {s u : State} {r : List Byte} {c d : Nat} (hne : c ≠ d) (h : CoreConfigured s u r c) :
    CoreConfigured s (u.configCore r d) r c := by
  have hslot4 := configCore_slot_other u r (c := d) (k := c * 8 + 4) (by omega) (by omega)
  have hslot5 := configCore_slot_other u r (c := d) (k := c * 8 + 5) (by omega) (by omega)
  have hseq := configCore_seq_other u r (c := d) (k := c * 32 + 23) (by omega)
  have hcore : (u.configCore r d).core c = u.core c := by rw [configCore_core, if_neg hne]
  rw [CoreConfigured, hslot4, hslot5, hseq, hcore]
  exact h

/-- The cores are set up one after another. -/
def configCores (s : State) (r : List Byte) (l : List Nat) : State := l.foldl (fun s c => s.configCore r c) s

theorem coreConfigured_configCores {s : State} {r : List Byte} {c : Nat} (l : List Nat) (u : State)
    (hblast : ∀ j, (u.core j).hblast = (s.core j).hblast) (h : c ∈ l ∨ CoreConfigured s u r c) :
    CoreConfigured s (configCores u r l) r c := by
  induction l generalizing u with
  | nil => simpa [configCores] using h
  | cons d l ih =>
    refine ih (u.configCore r d) (fun j => (configCore_hblast u r d j).trans (hblast j)) ?_
    by_cases hcd : c = d
    · exact .inr (hcd ▸ coreConfigured_self (hblast c))
    · exact h.imp (fun hin => (List.mem_cons.1 hin).resolve_left hcd) (·.configCore_other hcd)

theorem configCores_frame (u : State) (r : List Byte) (l : List Nat) : configCores u r l =
    { u with slots := (configCores u r l).slots, cores := (configCores u r l).cores, seqs := (configCores u r l).seqs } := by
  induction l generalizing u with
  | nil => rfl
  | cons d l ih => exact ih (u.configCore r d)

theorem configCores_slot_task (u : State) (r : List Byte) (l : List Nat) {j : Nat} (hj : j % 8 < 4) :
    (configCores u r l).slot j = u.slot j := by
  induction l generalizing u with
  | nil => rfl
  | cons d l ih => exact (ih (u.configCore r d)).trans (configCore_slot_other u r (by omega) (by omega))

/-- A choice made takes one off the list of choices. -/
theorem choose_frame (s : State) (n : Nat) : (s.choose n).1 = { s with choices := (s.choose n).1.choices } := by
  unfold State.choose
  split <;> rfl

/-- The pages that firmware takes for the pool (R379). -/
def configPages (s : State) (r : List Byte) : List (List Nat) :=
  (List.range 8).map fun o => takePages (configAreas r) o 0x180000 (s.choose 0x180000).2 (leAt r 4 4) []

/-- The record of a CONFIG. -/
def configRec (s : State) : List Byte := hostBytes s (boxField s 8 8) 128

/-- CONFIG is accepted. -/
def ConfigAccepted (s : State) : Prop :=
  s.host.configured = false ∧ configOk (configRec s) = true ∧ ∀ l ∈ configPages s (configRec s), l.length = leAt (configRec s) 4 4

/-- The state of the module before its cores are set up. -/
def configStart (s : State) : State :=
  let r := configRec s
  let t := (s.choose 0x180000).1
  { t with
    pool := (configPages s r).flatten, dirBase := leAt r 8 8, dirEntries := leAt r 16 4, captureBase := leAt r 24 8
    spillBase := leAt r 64 8, spillBytes := leAt r 72 4, host := { t.host with configured := true, configuredAt := s.time } }

theorem exec_config {s : State} (h : mailRuns s 1) : exec .config s = .next (
    if s.host.configured || !configOk (configRec s) then answered s 1
    else if (configPages s (configRec s)).any fun l => decide (l.length ≠ leAt (configRec s) 4 4) then answered s 1
    else answered ((configCores (configStart s) (configRec s) allCores).measure 5 (configRec s)) 0) := by
  change execConfig s = _
  rw [execConfig, mailbox_of_mailRuns _ h (by simp)]
  simp only [configPages, configRec, configCores, configStart, answered, hostBytes, boxField, State.busRead, State.bytes, busKey,
    State.answer]
  rfl

theorem config_refused {s : State} (h : mailRuns s 1) (hno : ¬ ConfigAccepted s) : exec .config s = .next (answered s 1) := by
  rw [exec_config h]
  split
  · rfl
  next hok =>
    rw [if_pos ?_]
    simp only [Bool.or_eq_true, Bool.not_eq_true', not_or, Bool.not_eq_true, Bool.not_eq_false] at hok
    simpa [ConfigAccepted, hok.1, hok.2] using hno

theorem config_accepted {s : State} (h : mailRuns s 1) (hyes : ConfigAccepted s) : exec .config s =
    .next (answered ((configCores (configStart s) (configRec s) allCores).measure 5 (configRec s)) 0) := by
  obtain ⟨hfirst, hok, hpages⟩ := hyes
  have hall : ((configPages s (configRec s)).any fun l => decide (l.length ≠ leAt (configRec s) 4 4)) = false :=
    List.any_eq_false.2 fun l hl => by rw [hpages l hl]; simp
  rw [exec_config h, hfirst, hok, hall]
  rfl

/-- What an accepted CONFIG leaves, by its record and the pool's pages. -/
def ConfigLeaves (s u : State) (r : List Byte) (pages : List Nat) : Prop :=
  u.host.configured = true ∧ u.host.configuredAt = s.time ∧ u.host.busy = false ∧ u.host.result = 0 ∧ u.pool = pages ∧
    u.mem = s.mem ∧ u.dirBase = leAt r 8 8 ∧ u.dirEntries = leAt r 16 4 ∧ u.captureBase = leAt r 24 8 ∧
    u.spillBase = leAt r 64 8 ∧ u.spillBytes = leAt r 72 4 ∧ (∀ c ∈ allCores, CoreConfigured s u r c) ∧
    ∀ j, j % 8 < 4 → u.slot j = s.slot j

theorem configLeaves_answered {s t : State} {r : List Byte} {pages : List Nat} (hframe : t = { t with
      mem := s.mem, pool := pages, dirBase := leAt r 8 8, dirEntries := leAt r 16 4, captureBase := leAt r 24 8
      spillBase := leAt r 64 8, spillBytes := leAt r 72 4, host := { s.host with configured := true, configuredAt := s.time } })
    (hcore : ∀ c ∈ allCores, CoreConfigured s t r c) (hslot : ∀ j, j % 8 < 4 → t.slot j = s.slot j) :
    ConfigLeaves s (answered (t.measure 5 r) 0) r pages := by
  refine ⟨?_, ?_, rfl, rfl, ?_, ?_, ?_, ?_, ?_, ?_, ?_, hcore, hslot⟩ <;> rw [hframe] <;> rfl

theorem configStart_core (s : State) (j : Nat) : (configStart s).core j = s.core j := by
  rw [configStart, choose_frame]
  rfl

theorem configStart_slot (s : State) (j : Nat) : (configStart s).slot j = s.slot j := by
  rw [configStart, choose_frame]
  rfl

theorem config_leaves {s : State} (h : mailRuns s 1) (hyes : ConfigAccepted s) :
    Leads .config s fun u => ConfigLeaves s u (configRec s) (configPages s (configRec s)).flatten := by
  refine ⟨_, config_accepted h hyes, configLeaves_answered ?frame (fun c hc => ?cores) fun j hj => ?slots⟩
  case frame => rw [configCores_frame, configStart, choose_frame]
  case cores => exact coreConfigured_configCores allCores _ (fun j => by rw [configStart_core]) (.inl hc)
  case slots => rw [configCores_slot_task _ _ _ hj, configStart_slot]

/-! ### GANG (R380) -/

theorem exec_gang {s : State} (h : mailRuns s 3) :
    let x := s.choose (2 ^ 256)
    let b := hostBytes s (boxField s 16 8) (8 * boxField s 10 2)
    exec .gang s = .next (answered { x.1 with
      peers := (List.range (boxField s 10 2)).filter fun r => decide (r ≠ boxField s 8 2) && !x.2.testBit r
      host := { x.1.host with
        rank := boxField s 8 2, gang := (List.range (boxField s 10 2)).map fun r => BitVec.ofNat 64 (leAt b (8 * r) 8) } } 0) := by
  change execGang s = _
  rw [execGang, mailbox_of_mailRuns _ h (by simp)]
  rfl

theorem gang_leaves {s : State} (h : mailRuns s 3) : Leads .gang s fun u =>
    let b := hostBytes s (boxField s 16 8) (8 * boxField s 10 2)
    let x := s.choose (2 ^ 256)
    u = { answered s 0 with peers := u.peers, choices := x.1.choices, host := u.host } ∧
      u.host = { (answered s 0).host with rank := boxField s 8 2, gang := u.host.gang } ∧ u.host.gang.length = boxField s 10 2 ∧
      (∀ r, r < boxField s 10 2 → (u.host.gang.getD r 0).toNat = leAt b (8 * r) 8) ∧
      ∀ r, r ∈ u.peers ↔ r < boxField s 10 2 ∧ r ≠ boxField s 8 2 ∧ x.2.testBit r = false := by
  have hchoice := choose_frame s (2 ^ 256)
  refine ⟨_, exec_gang h, ?_, ?_, by simp [answered], fun r hr => ?_, fun r => by simp [answered]⟩
  · rw [hchoice]; rfl
  · rw [hchoice]; rfl
  · have hlt := leAt_lt (hostBytes s (boxField s 16 8) (8 * boxField s 10 2)) (8 * r) 8
    simp only [answered, List.getD_eq_getElem?_getD, List.getElem?_map, List.getElem?_range hr, Option.map_some, Option.getD_some,
      BitVec.toNat_ofNat]
    exact Nat.mod_eq_of_lt hlt

/-! ### POOLRST (R109) -/

/-- What a reset of the pool waits for. -/
def PoolHeld (s : State) : Prop :=
  (∃ c ∈ s.cmds, caSub c.ins ≠ 0 ∧ c.phase ≠ .waiting ∧ c.failed = false) ∨ ∃ g ∈ s.graphs, g.mode = 2 ∧ g.reserved = true

theorem poolHeld_iff (s : State) : s.poolHeld = true ↔ PoolHeld s := by
  simp [State.poolHeld, PoolHeld, and_assoc]

theorem exec_poolrst_free {s : State} (h : mailRuns s 5) (hheld : ¬ PoolHeld s) : exec .poolrst s = .next { answered s 0 with
    caIndex := [], reclaimQ := [], graphs := s.graphs.map fun g => if g.mode = 2 then { g with image := [] } else g } := by
  change execPoolrst s = _
  rw [execPoolrst, mailbox_of_mailRuns _ h (by simp), if_neg (mt (poolHeld_iff s).1 hheld)]
  rfl

theorem exec_poolrst_held {s : State} (h : mailRuns s 5) (hheld : PoolHeld s) : exec .poolrst s = .next { s with
    host := { s.host with poolrst := true }
    graphs := s.graphs.map fun g => if g.mode = 2 ∧ g.reserved = false then { g with image := [] } else g } := by
  change execPoolrst s = _
  rw [execPoolrst, mailbox_of_mailRuns _ h (by simp), if_pos ((poolHeld_iff s).2 hheld)]

end Sys2Proof.Claims
end

section
/-! SUPPORT. What an access of the module that holds no TLB can change (R84 to R89), writes that take several lines (R96), and LOAD's
write of bytes (R374). -/

namespace Sys2Proof.Machine

/-! ### Accesses -/

/-- Memory has been written, and requests to the policy core made or answered; nothing else has changed. -/
def State.Accessed (s u : State) : Prop :=
  u = { s with mem := u.mem, bad := u.bad, ecc := u.ecc, tags := u.tags, requests := u.requests, nextReq := u.nextReq }

theorem State.Accessed.refl (s : State) : s.Accessed s := rfl

theorem State.Accessed.trans {s t u : State} (h : s.Accessed t) (h' : t.Accessed u) : s.Accessed u := by
  rw [State.Accessed] at *
  rw [h', h]

theorem State.accessed_poke (s : State) (a : Nat) (bs : List Byte) (tag : BitVec 16) : s.Accessed (s.poke .main a bs tag) := rfl

theorem State.accessed_store {s u : State} {a : Nat} {bs : List Byte} {whole part : BitVec 16}
    (h : s.store .main a bs whole part = .ok u) : s.Accessed u := by
  rw [State.store] at h
  split at h
  · cases h
    exact s.accessed_poke _ _ _
  · split at h
    · cases h
    · cases h
      exact s.accessed_poke _ _ _

theorem State.accessed_orPte {s u : State} {a : Nat} {e : Word} {write : Bool} (h : s.orPte a e write = .ok u) : s.Accessed u := by
  simp only [State.orPte] at h
  split at h
  · cases h
    exact .refl s
  · exact State.accessed_store h

theorem State.accessed_walkFor {s u : State} {troot : Word} {va : Nat} {a : Acc} {e : Option TlbEntry} {r : Nat}
    (h : s.walkFor troot va a = .ok (u, e, r)) : s.Accessed u := by
  rw [State.walkFor] at h
  split at h
  · cases h
    exact .refl s
  split at h
  · cases h
    exact .refl s
  split at h
  · cases h
  · cases h
    exact .refl s
  split at h
  · cases h
    exact .refl s
  split at h
  · cases h
  next ht =>
    cases h
    exact State.accessed_orPte ht

theorem State.accessed_setAccessed {s u : State} {e : TlbEntry} (h : s.setAccessed e = .ok u) : s.Accessed u := by
  rw [State.setAccessed] at h
  split at h
  · cases h
    exact .refl s
  · split at h
    · cases h
    · exact State.accessed_orPte h

theorem State.accessed_request (s : State) (q : Source) (asid va : Nat) (a : Acc) (reason : Nat) :
    s.Accessed (s.request q asid va a reason) := by
  rw [State.request]
  split <;> rfl

theorem State.accessed_xlate (s : State) (q : Source) (troot : Word) (tlb : List TlbEntry) (n va : Nat) (a : Acc) :
    s.Accessed (s.xlate q troot tlb n va a).1 := by
  rw [State.xlate]
  split
  · split <;> rfl
  split
  · rfl
  split
  · split
    · rfl
    next h => exact State.accessed_setAccessed h
  · split
    · rfl
    next h => exact State.accessed_walkFor h
    next h => exact (State.accessed_walkFor h).trans (State.accessed_request _ _ _ _ _ _)

theorem State.accessed_xlatePlain (s : State) (q : Source) (troot : Word) (va : Nat) (a : Acc) :
    s.Accessed (s.xlatePlain q troot va a).1 := s.accessed_xlate q troot [] 0 va a

/-! ### Writes line by line -/

theorem State.accessed_storeLines (s : State) (a : Nat) (bs : List Byte) (whole part : BitVec 16) (ps : List (Nat × Nat)) :
    s.Accessed (s.storeLines .main a bs whole part ps).1 := by
  induction ps generalizing s with
  | nil => exact .refl s
  | cons p ps ih =>
    rw [State.storeLines]
    split
    · exact .refl s
    next h => exact (State.accessed_store h).trans (ih _)

theorem State.accessed_writeLines (s : State) (a : Nat) (bs : List Byte) (whole part : BitVec 16) :
    s.Accessed (s.writeLines .main a bs whole part).1 := by
  rw [State.writeLines]
  split
  · exact s.accessed_poke _ _ _
  · exact s.accessed_storeLines _ _ _ _ _

/-- A line that verifies still does after a write, wherever it goes. -/
theorem State.verifyLine_poke {s : State} {a x : Nat} {bs : List Byte} {tag : BitVec 16} (h : s.verifyLine .main x = none) :
    (s.poke .main a bs tag).verifyLine .main x = none := by
  have hecc : lineKey .main x ∉ s.ecc := by
    intro hin
    simp [State.verifyLine, hin] at h
  have hbad : Kv.has s.bad (lineKey .main x) = false := by
    by_contra hin
    simp [State.verifyLine, hecc, hin] at h
  refine State.verifyLine_sound ?_ ?_
  · simp [State.poke, State.put, hecc]
  · rw [Bool.eq_false_iff, Ne, Kv.has_iff] at hbad ⊢
    rintro ⟨c, hc, hkey⟩
    exact hbad ⟨c, (List.mem_filter.1 hc).1, hkey⟩

theorem State.store_verified {s : State} {a : Nat} {bs : List Byte} {whole part : BitVec 16} (h : s.verifyLine .main a = none) :
    ∃ tag, s.store .main a bs whole part = .ok (s.poke .main a bs tag) := by
  rw [State.store, h]
  split
  · exact ⟨_, rfl⟩
  · exact ⟨_, rfl⟩

/-- The bytes that pieces of a write cover are written, when each piece's line verifies. -/
theorem State.storeLines_verified {s : State} {a : Nat} {bs : List Byte} {whole part : BitVec 16} {ps : List (Nat × Nat)}
    (hps : ∀ p ∈ ps, a ≤ p.1 ∧ p.1 + p.2 ≤ a + bs.length ∧ s.verifyLine .main p.1 = none) :
    ∃ t, s.storeLines .main a bs whole part ps = (t, none) ∧
      ∀ y, Mem.get t.mem y = if ∃ p ∈ ps, p.1 ≤ y ∧ y < p.1 + p.2 then bs.getD (y - a) 0 else Mem.get s.mem y := by
  induction ps generalizing s with
  | nil => exact ⟨s, rfl, fun y => by simp⟩
  | cons p ps ih =>
    obtain ⟨hlow, hhigh, hv⟩ := hps p (by simp)
    obtain ⟨tag, hstore⟩ := State.store_verified (bs := (bs.drop (p.1 - a)).take p.2) (whole := whole) (part := part) hv
    obtain ⟨t, ht, hget⟩ := ih (s := s.poke .main p.1 ((bs.drop (p.1 - a)).take p.2) tag) fun q hq => by
      obtain ⟨hqlow, hqhigh, hqv⟩ := hps q (by simp [hq])
      exact ⟨hqlow, hqhigh, State.verifyLine_poke hqv⟩
    refine ⟨t, by rw [State.storeLines, hstore]; exact ht, fun y => ?_⟩
    have hlen : ((bs.drop (p.1 - a)).take p.2).length = p.2 := by simp; omega
    rw [hget, State.poke_main_get, hlen]
    simp only [List.mem_cons, exists_eq_or_imp]
    by_cases hrest : ∃ q ∈ ps, q.1 ≤ y ∧ y < q.1 + q.2
    · simp [hrest]
    · by_cases hp : p.1 ≤ y ∧ y < p.1 + p.2
      · have hidx : p.1 - a + (y - p.1) = y - a := by omega
        simp only [hrest, hp, if_false, and_self, true_or, if_true, List.getD_eq_getElem?_getD, List.getElem?_take, List.getElem?_drop,
          hidx]
        rw [if_pos (by omega)]
      · simp [hrest, hp]

/-- The pieces of a run of bytes cover it, and lie in it. -/
theorem mem_pieces_iff {a n y : Nat} : (∃ p ∈ pieces a n, p.1 ≤ y ∧ y < p.1 + p.2) ↔ a ≤ y ∧ y < a + n := by
  simp only [pieces, List.mem_map, List.mem_range, exists_exists_and_eq_and]
  constructor
  · rintro ⟨i, hi, hlow, hhigh⟩
    omega
  · rintro ⟨hlow, hhigh⟩
    exact ⟨y / 128 - a / 128, by omega, by omega, by omega⟩

theorem pieces_within {a n : Nat} {p : Nat × Nat} (hn : 0 < n) (hp : p ∈ pieces a n) : a ≤ p.1 ∧ p.1 + p.2 ≤ a + n ∧ p.1 < a + n := by
  simp only [pieces, List.mem_map, List.mem_range] at hp
  obtain ⟨i, hi, rfl⟩ := hp
  refine ⟨by simp, ?_, ?_⟩ <;> simp only <;> omega

/-- A write over lines that all verify is made whole (R96). -/
theorem State.writeLines_verified {s : State} {a : Nat} {bs : List Byte} (whole part : BitVec 16) (hbs : bs ≠ [])
    (h : ∀ j, j < bs.length → s.verifyLine .main (a + j) = none) :
    ∃ t, s.writeLines .main a bs whole part = (t, none) ∧ s.Accessed t ∧
      ∀ y, Mem.get t.mem y = if a ≤ y ∧ y < a + bs.length then bs.getD (y - a) 0 else Mem.get s.mem y := by
  have hframe := s.accessed_writeLines a bs whole part
  rw [State.writeLines] at hframe ⊢
  split
  · exact ⟨_, rfl, s.accessed_poke _ _ _, s.poke_main_get a bs whole⟩
  next hdirty =>
    rw [if_neg hdirty] at hframe
    obtain ⟨t, ht, hget⟩ := State.storeLines_verified (s := s) (a := a) (bs := bs) (whole := whole) (part := part)
      (ps := pieces a bs.length) fun p hp => by
        obtain ⟨hlow, hhigh, hin⟩ := pieces_within (List.length_pos_iff.2 hbs) hp
        have hv := h (p.1 - a) (by omega)
        rw [Nat.add_sub_cancel' hlow] at hv
        exact ⟨hlow, hhigh, hv⟩
    rw [ht] at hframe
    exact ⟨t, ht, hframe, fun y => by rw [hget y]; simp only [mem_pieces_iff]⟩

end Sys2Proof.Machine
end

section
/-! SUPPORT. A line that fails under a mailbox command, and the mailbox's LOAD (R97, R374, R381). -/

namespace Sys2Proof.Claims
open Sys2Proof.Machine

/-! ### A line that fails (R97, R351) -/

theorem countLine_frame (s : State) (core line : Nat) : s.countLine core line = { s with cores := (s.countLine core line).cores } := by
  rw [State.countLine]
  split
  · exact (State.foldl_modCore _ (coresOf_nodup _) s).1
  · rfl

theorem countSoft_frame (s : State) (r : TrapRec) : s.countSoft r = { s with cores := (s.countSoft r).cores } := by
  rw [State.countSoft]
  split
  · exact countLine_frame s _ _
  · rfl

theorem failsLine_mailBad (t : State) (b : BadLine) (result : Nat) : FailsLine t (t.mailBad b result) b result := by
  rw [State.mailBad, countSoft_frame]
  refine ⟨rfl, fun hecc => ?_, _, rfl, rfl, rfl, rfl, rfl, rfl, rfl⟩
  change (t.countSoft _).cores = t.cores
  rw [State.countSoft, if_neg (by simp [TrapRec.withBad, hecc])]

/-! ### Writes to virtual memory -/

theorem accessed_host {s u : State} (h : s.Accessed u) : u.host = s.host := by rw [h]

theorem writeVirt_host (s : State) (src : Source) (troot : Word) (tag : BitVec 16) (uid n va : Nat) (bs : List Byte) (d : Nat) :
    (s.writeVirt src troot tag uid n va bs d).1.host = s.host := by
  induction n generalizing s va bs d with
  | zero => rfl
  | succ n ih =>
    rw [State.writeVirt]
    split
    · rfl
    have hx := accessed_host (s.accessed_xlatePlain src troot va { kind := 1 })
    split
    case h_4 t pa z hok =>
      rw [hok] at hx
      have hw := accessed_host (t.accessed_writeLines (memKey pa) (bs.take (65536 - va % 65536)) tag (originTag 0 src.core))
      dsimp only
      split
      next hbad =>
        rw [hbad] at hw
        exact hw.trans hx
      next hdone =>
        rw [hdone] at hw
        rw [ih, State.sendWrite_frame]
        exact hw.trans hx
    all_goals
      next hstop =>
        rw [hstop] at hx
        exact hx

theorem sendWrite_own {s : State} {uid cls pa n : Nat} (h : pa / 2 ^ 50 ≠ 3) : s.sendWrite uid cls pa n = s := by
  rw [State.sendWrite, if_pos h]

/-- Bytes that lie in one page of memory, on lines that verify, are written at the bytes that its translation names. -/
theorem writeVirt_page {s t : State} {src : Source} {troot : Word} {tag : BitVec 16} {uid n va pa z d : Nat} {bs : List Byte}
    (hpage : va % 65536 + bs.length ≤ 65536) (hbs : bs ≠ []) (hx : s.xlatePlain src troot va { kind := 1 } = (t, .ok pa z))
    (hown : memKey pa / 2 ^ 50 ≠ 3) (hv : ∀ j, j < bs.length → t.verifyLine .main (memKey pa + j) = none) :
    ∃ w, s.writeVirt src troot tag uid (n + 2) va bs d = (w, d + bs.length, .ok ()) ∧ t.Accessed w ∧
      ∀ y, Mem.get w.mem y = if memKey pa ≤ y ∧ y < memKey pa + bs.length then bs.getD (y - memKey pa) 0 else Mem.get t.mem y := by
  obtain ⟨w, hw, hframe, hget⟩ := State.writeLines_verified tag (originTag 0 src.core) hbs hv
  have htake : bs.take (65536 - va % 65536) = bs := List.take_of_length_le (by omega)
  have hdrop : bs.drop (65536 - va % 65536) = [] := List.drop_eq_nil_of_le (by omega)
  refine ⟨w, ?_, hframe, hget⟩
  have hne : bs.isEmpty = false := by simpa using hbs
  rw [State.writeVirt]
  simp only [hne, Bool.false_eq_true, if_false, hx, htake, hdrop, hw, sendWrite_own hown]
  rfl

/-! ### LOAD (R374) -/

/-- The number under which a LOAD awaits acknowledgements, and the state in which it has it. -/
def loadUid (s : State) : Nat := if s.host.loadUid = 0 then s.nextUid else s.host.loadUid
def loadState (s : State) : State :=
  if s.host.loadUid = 0 then { s with nextUid := s.nextUid + 1, host := { s.host with loadUid := loadUid s } } else s

/-- The bytes that a LOAD has still to write, and their address. -/
def loadBytes (s : State) : List Byte := (hostBytes s (boxField s 8 8) (boxField s 24 4)).drop s.host.moved
def loadAt (s : State) : Nat := boxField s 16 8 + s.host.moved

/-- How far a LOAD comes. -/
def loadWrite (s : State) : State × Nat × VRes Unit :=
  (loadState s).writeVirt mailSource (BitVec.ofNat 64 (boxField s 32 8)) (originTag 3 0) (loadUid s) (boxField s 24 4 / 65536 + 2)
    (loadAt s) (loadBytes s) s.host.moved

/-- LOAD keeps how many bytes are written. -/
def loadKept (t : State) (d : Nat) : State := { t with host := { t.host with moved := d } }

/-- What a LOAD leaves, by how far it has come. -/
def loadLeaves (uid : Nat) : State × Nat × VRes Unit → State
  | (t, d, .hold) => loadKept t d
  | (t, d, .ok _) => if t.unacked.any fun u => u.1 == uid then loadKept t d else answered t 0
  | (t, _, .bad b) => t.mailBad b 5
  | (t, _, .fault _ _) => answered t 5

theorem loadNumber_eq (s : State) : s.loadNumber = loadState s := by
  by_cases h : s.host.loadUid = 0
  · simp only [State.loadNumber, loadState, loadUid, h, ne_eq, not_true_eq_false, if_false, if_true]
  · simp only [State.loadNumber, loadState, h, ne_eq, not_false_eq_true, if_true, if_false]

theorem loadState_loadUid (s : State) : (loadState s).host.loadUid = loadUid s := by
  rw [loadState]
  split
  · rfl
  next h => rw [loadUid, if_neg h]

theorem exec_load {s : State} (h : mailRuns s 2) : exec .load s = .next (loadLeaves (loadUid s) (loadWrite s)) := by
  have huid : (loadWrite s).1.host.loadUid = loadUid s := by
    rw [loadWrite, writeVirt_host, loadState_loadUid]
  change execLoad s = _
  rw [execLoad, mailbox_of_mailRuns _ h (by simp)]
  simp only [loadNumber_eq, loadState_loadUid]
  change Host.Outcome.next (match loadWrite s with
    | (s, d, .hold) => { s with host := { s.host with moved := d } }
    | (s, d, .ok _) =>
      if s.unacked.any fun u => u.1 == s.host.loadUid then { s with host := { s.host with moved := d } } else s.answer 0
    | (s, _, .bad b) => s.mailBad b 5
    | (s, _, .fault _ _) => s.answer 5) = _
  generalize loadWrite s = x at huid ⊢
  obtain ⟨t, d, r⟩ := x
  dsimp only at huid
  cases r
  case ok =>
    change Host.Outcome.next (if t.unacked.any fun u => u.1 == t.host.loadUid then loadKept t d else answered t 0) = _
    rw [huid]
    rfl
  all_goals rfl

end Sys2Proof.Claims
end

section
/-! SUPPORT. The mailbox's RELEASE and HOLDEND (R353, R354, R374). -/

namespace Sys2Proof.Claims
open Sys2Proof.Machine

/-! ### RELEASE (R353) -/

/-- What RELEASE leaves, by what the node's page gives it. -/
def releaseLeaves : State × VRes Nat → State
  | (t, .hold) => t
  | (t, .fault _ _) => answered t 5
  | (t, .bad b) => t.mailBad b 1
  | (t, .ok node) =>
    if !t.haltedRegions.contains node then answered t 1
    else answered ((t.orphans node).foldl (fun s o => s.returnGrants o false)
      { t with haltedRegions := t.haltedRegions.filter (· ≠ node) }) 0

theorem exec_release {s : State} (h : mailRuns s 6) : exec .release s =
    .next (releaseLeaves (s.blockAt mailSource (BitVec.ofNat 64 (boxField s 16 8)) (boxField s 8 8) false)) := by
  change execRelease s = _
  rw [execRelease, mailbox_of_mailRuns _ h (by simp)]
  rfl

/-! ### HOLDEND (R354) -/

/-- The held task of a TCB. -/
def heldAt (t : State) (at' : Nat) : Option Saved := t.saved.find? fun v => v.held.isSome && decide (v.slot.tcbAt = at')

/-- What HOLDEND leaves, by what the TCB's page gives it; `f` ends the hold. -/
def holdLeaves (f : State → Saved → State) : State × VRes Nat → State
  | (t, .hold) => t
  | (t, .fault _ _) => answered t 5
  | (t, .bad b) => t.mailBad b 1
  | (t, .ok at') => (heldAt t at').elim (answered t 1) fun v => answered (f t v) 0

/-- The end of a hold that HOLDEND asks for. -/
def holdWork (s : State) : State → Saved → State := if boxField s 24 1 = 0 then State.holdResume else State.holdEnd

theorem holdEndWith_runs {s : State} (f : State → Saved → State) (h : mailRuns s 7) : s.holdEndWith (boxField s 24 1) f =
    holdLeaves f (s.blockAt mailSource (BitVec.ofNat 64 (boxField s 16 8)) (boxField s 8 8) true) := by
  rw [State.holdEndWith, mailbox_of_mailRuns _ h (by simp), if_neg (by simp [boxField])]
  change (match s.blockAt mailSource (BitVec.ofNat 64 (boxField s 16 8)) (boxField s 8 8) true with
    | (s, .hold) => s
    | (s, .fault _ _) => s.answer 5
    | (s, .bad b) => s.mailBad b 1
    | (s, .ok at') =>
      match s.saved.find? fun (v : Saved) => v.held.isSome && decide (v.slot.tcbAt = at') with
      | none => s.answer 1
      | some v => (f s v).answer 0) = _
  obtain ⟨t, r⟩ := s.blockAt mailSource (BitVec.ofNat 64 (boxField s 16 8)) (boxField s 8 8) true
  cases r
  case ok at' =>
    rw [holdLeaves, heldAt]
    simp only
    cases t.saved.find? fun (v : Saved) => v.held.isSome && decide (v.slot.tcbAt = at') <;> rfl
  all_goals rfl

theorem exec_holdend {s : State} (h : mailRuns s 7) : exec (if boxField s 24 1 = 0 then .holdendResume else .holdendEnd) s =
    .next (holdLeaves (holdWork s) (s.blockAt mailSource (BitVec.ofNat 64 (boxField s 16 8)) (boxField s 8 8) true)) := by
  have hlast : boxField s 24 1 ≤ 1 := by
    obtain ⟨-, -, -, hcode, hok, -⟩ := h
    simp only [mboxOk, hcode, Bool.and_eq_true, decide_eq_true_eq] at hok
    exact hok.2.2
  rw [← holdEndWith_runs _ h, holdWork]
  split
  next h0 => rw [h0]; rfl
  next h0 => rw [show boxField s 24 1 = 1 by omega]; rfl

/-- A hold that ends with the task's resumption (R354). -/
theorem holdResume_leaves {t : State} {v : Saved} {r : ReadyRec} (hr : v.slot.rcd = some r) :
    let u := answered (t.holdResume v) 0
    u = { answered t 0 with saved := u.saved, readies := u.readies, nextRec := t.nextRec + 1 } ∧
      (∃ x, u.readies = t.readies ++ [x] ∧ x.tcb = r.tcb ∧ x.prio = v.slot.prio ∧ x.resume = some v.core ∧ x.id = t.nextRec) ∧
      ∀ w ∈ u.saved, w.tcb = v.tcb → w.slot.owner = v.slot.owner → w.held = none := by
  intro u
  simp only [u, State.holdResume, hr]
  refine ⟨rfl, ⟨_, rfl, rfl, rfl, rfl, rfl⟩, fun w hw htcb howner => ?_⟩
  obtain ⟨x, -, rfl⟩ := List.mem_map.1 hw
  split
  next => rfl
  next hne =>
    rw [if_neg hne] at htcb howner
    exact absurd ⟨htcb, howner⟩ hne

theorem accessed_saved {s u : State} (h : s.Accessed u) : u.saved = s.saved := by rw [h]

theorem putMain_saved (s : State) (a : Nat) (bs : List Byte) : (s.putMain a bs).saved = s.saved := by
  have hw := accessed_saved (s.accessed_writeLines a bs (originTag 0 0) (originTag 0 0))
  rw [State.putMain]
  split
  next heq =>
    rw [heq] at hw
    rw [State.sendWrite_frame]
    exact hw
  next heq =>
    rw [heq] at hw
    simp only [State.event]
    split
    · rw [countLine_frame]
      exact hw
    · exact hw

theorem writeUsage_saved (s : State) (nodes : List Nat) : (s.writeUsage nodes).saved = s.saved := by
  rw [State.writeUsage]
  induction nodes generalizing s with
  | nil => rfl
  | cons m nodes ih => exact (ih _).trans (putMain_saved _ _ _)

theorem taskOver_saved (s : State) (graph : Nat) (tcb : Word) (faulted : Bool) : (s.taskOver graph tcb faulted).saved = s.saved := by
  rw [State.taskOver]
  split
  · rfl
  · simp only
    split <;> rfl

theorem endingOf_saved (s : State) (xroot : Word) (m core skip : Nat) (ids : List Nat) :
    (s.endingOf xroot m core skip ids).saved = s.saved := by
  rw [State.endingOf]
  split <;> rfl

/-- A task that ends out of its slot is no longer saved (R353). -/
theorem endTask_saved (t : State) (v : Saved) (code : Nat) :
    (t.endTask v code).saved = t.saved.filter fun w => decide (w.tcb ≠ v.tcb) || decide (w.slot.owner ≠ v.slot.owner) := by
  rw [State.endTask, State.returnGrants, writeUsage_saved]
  simp only
  split <;> simp only [endingOf_saved, taskOver_saved, State.blockSet, putMain_saved]

end Sys2Proof.Claims
end

section
/-! SUPPORT. The mailbox's REDWIN, and what becomes of the contributions to a window that ends (R142, R374, R382). -/

namespace Sys2Proof.Claims
open Sys2Proof.Machine

/-! ### Stores by key -/

theorem find?_put {α : Type} (l : List (Nat × α)) (i : Nat) (v : α) (j : Nat) :
    (Kv.put l i v).find? (fun w => w.1 == j) = if j = i then some (i, v) else l.find? fun w => w.1 == j := by
  induction l with
  | nil =>
    by_cases h : j = i
    · simp [Kv.put, h]
    · simp [Kv.put, h, Ne.symm h]
  | cons c l ih =>
    obtain ⟨k, w⟩ := c
    rw [Kv.put]
    by_cases h : j = i
    · subst h
      split
      · simp
      · split
        · simp
        · have hk : (k == j) = false := by rw [beq_eq_false_iff_ne]; omega
          simp only [List.find?_cons, hk, ih]
    · have hi : (i == j) = false := by simpa using Ne.symm h
      split
      · rw [List.find?_cons, hi]
      · split
        next heq => rw [List.find?_cons, List.find?_cons, ← heq, hi]
        next => simp only [List.find?_cons, ih, h, if_false]

theorem find?_filter_key {α : Type} (l : List (Nat × α)) {i j : Nat} (h : j ≠ i) :
    (l.filter fun w => w.1 != i).find? (fun w => w.1 == j) = l.find? fun w => w.1 == j := by
  rw [List.find?_filter]
  congr 1
  funext w
  by_cases hw : w.1 = j
  · simp [hw, h]
  · simp [hw]

theorem find?_filter_self {α : Type} (l : List (Nat × α)) (i : Nat) :
    (l.filter fun w => w.1 != i).find? (fun w => w.1 == i) = none := by
  simp [List.find?_eq_none]

/-! ### A trap against a command leaves the registers of the host -/

theorem takeTrap_host (s : State) (sk : Nat) (r : TrapRec) : (s.takeTrap sk r).host = s.host := by
  simp only [State.takeTrap, State.modSlot_host]
  rw [countSoft_frame]

theorem trapSeq_host (s : State) (k : Nat) (r : TrapRec) : (s.trapSeq k r).host = s.host := takeTrap_host s (slotKey k) r

theorem dropSubs_host (s : State) (sk : Nat) (b : Demander) : (s.dropSubs sk b).host = s.host := by
  simp only [State.dropSubs, State.dropBlock]
  split
  · split <;> rfl
  · rfl

theorem trapDemand_host (s : State) (sk : Nat) (b : Demander) (f : TrapRec → TrapRec) : (s.trapDemand sk b f).host = s.host := by
  simp only [State.trapDemand]
  split
  · split
    · exact dropSubs_host s sk _
    · exact (takeTrap_host _ sk _).trans (dropSubs_host s sk _)
  · split
    · exact dropSubs_host s sk _
    · simp only [State.endDemand, State.modDemands, State.dropAfter, State.modSlot_host, State.modSeq_host, trapSeq_host, dropSubs_host]
  · exact (trapSeq_host _ _ _).trans (dropSubs_host s sk _)

theorem trapCmd_host (s : State) (c : Cmd) (r : TrapRec) : (s.trapCmd c r).host = s.host := by
  rw [State.trapCmd]
  split
  · exact trapDemand_host _ _ _ _
  · exact takeTrap_host s (slotKey c.seqk) _

/-! ### A window that ends (R382) -/

/-- The protection fault of a contribution to a window that is gone. -/
def cutOff (s : State) (c : Cmd) : State :=
  s.trapCopyFault { c with sent := 0 } 6 (c.off / reduceBytes (cprOp c.ins).1) c.v1.toNat

/-- The state without the open rounds of a window. -/
def roundsGone (s : State) (i : Nat) : State := { s with contribs := s.contribs.filter fun c => c.win ≠ i }

theorem endWindow_none {s : State} {i : Nat} (h : (s.host.redwins.find? fun w => w.1 == i) = none) : s.endWindow i = s := by
  rw [State.endWindow, h]

theorem endWindow_some {s : State} {i : Nat} {w : Nat × RedWin} (h : (s.host.redwins.find? fun w => w.1 == i) = some w) :
    s.endWindow i = (s.cmds.filter (s.toWindow i w.2)).foldl cutOff (roundsGone s i) := by
  rw [State.endWindow, h]
  rfl

theorem endWindow_host (s : State) (i : Nat) : (s.endWindow i).host = s.host := by
  have hfold (l : List Cmd) (t : State) : (l.foldl cutOff t).host = t.host := by
    induction l generalizing t with
    | nil => rfl
    | cons c l ih => exact (ih _).trans (trapCmd_host _ _ _)
  cases h : s.host.redwins.find? fun w => w.1 == i with
  | none => rw [endWindow_none h]
  | some w => rw [endWindow_some h, hfold, roundsGone]

/-- A CPR whose next element goes to a window: one has been sent, or its page is one of the window's (R142). -/
def Contributes (s : State) (i : Nat) (w : RedWin) (c : Cmd) : Prop :=
  let leaf := s.walkAhead (s.slot (slotKey c.seqk)).troot c.v1.toNat { kind := 1, copy := true, atomic := true }
  engineOf c.ins = 1 ∧ (cpMember c.ins).1 = 0 ∧ (cprOp c.ins).2 = false ∧ c.failed = false ∧
    ((∃ x ∈ s.contribs, x.win = i ∧ x.uid = c.uid) ∨
      w.base ≤ c.v1.toNat ∧ c.v1.toNat < w.base + w.size ∧ leaf.reason = 0 ∧ leaf.cls = 2)

theorem toWindow_iff (s : State) (i : Nat) (w : RedWin) (c : Cmd) : s.toWindow i w c = true ↔ Contributes s i w c := by
  simp only [State.toWindow, Contributes, Bool.and_eq_true, Bool.or_eq_true, decide_eq_true_eq, Bool.not_eq_true', List.any_eq_true,
    and_assoc]

theorem endWindow_unused {s : State} {i : Nat} {w : Nat × RedWin} (h : (s.host.redwins.find? fun w => w.1 == i) = some w)
    (hno : ∀ c ∈ s.cmds, ¬ Contributes s i w.2 c) : s.endWindow i = roundsGone s i := by
  have hnil : s.cmds.filter (s.toWindow i w.2) = [] :=
    List.filter_eq_nil_iff.2 fun c hc hin => hno c hc ((toWindow_iff s i w.2 c).1 hin)
  rw [endWindow_some h, hnil, List.foldl_nil]

theorem endWindow_traps {s : State} {i : Nat} {w : Nat × RedWin} {c : Cmd} (h : (s.host.redwins.find? fun w => w.1 == i) = some w)
    (hcmds : s.cmds = [c]) (hin : Contributes s i w.2 c) (hsub : c.sub = none) :
    CommandTraps s (s.endWindow i) { c with sent := 0 } 6 1 (c.off / reduceBytes (cprOp c.ins).1 * 256) := by
  have hone : s.cmds.filter (s.toWindow i w.2) = [c] := by
    rw [hcmds, List.filter_cons_of_pos ((toWindow_iff s i w.2 c).2 hin), List.filter_nil]
  have hmember : (cpMember c.ins).1 = 0 := by
    obtain ⟨-, hmember, -⟩ := hin
    exact hmember
  have hcmd : ((roundsGone s i).cmd c.uid).isSome = true := by simp [State.cmd, roundsGone, hcmds]
  rw [endWindow_some h, hone, List.foldl_cons, List.foldl_nil, cutOff, State.trapCopyFault]
  exact commandTraps_trapCmd (s := roundsGone s i) (c := { c with sent := 0 }) hsub hcmd rfl rfl rfl
    (by simp only [State.cmdRec, hmember, Nat.zero_mul, Nat.zero_add])

/-! ### REDWIN (R382) -/

/-- The record of a REDWIN, and the ranks that it names. -/
def redRec (s : State) : List Byte := hostBytes s (boxField s 16 8) 64
def redRanks (s : State) : List Nat := (List.range 256).filter fun k => (leAt (redRec s) 32 32).testBit k

/-- The record of a REDWIN is good. -/
def RedGood (s : State) : Prop :=
  let r := redRec s
  (redRanks s).length = leAt r 16 2 ∧ (∀ k ∈ redRanks s, k < s.host.gang.length) ∧ (leAt r 16 2 = 0 ∨ leAt r 18 2 < leAt r 16 2) ∧
    leAt r 0 8 % 65536 = 0 ∧ leAt r 8 8 % 65536 = 0 ∧ leAt r 20 12 = 0

/-- The windows without one. -/
def otherWindows (s : State) (i : Nat) : List (Nat × RedWin) := s.host.redwins.filter fun w => w.1 != i

/-- The windows after a REDWIN. -/
def newWindows (s : State) : List (Nat × RedWin) :=
  let r := redRec s
  let i := boxField s 8 1
  if leAt r 16 2 = 0 then otherWindows s i
  else Kv.put (otherWindows s i) i ⟨leAt r 0 8, leAt r 8 8, leAt r 18 2, redRanks s, []⟩

theorem redRanks_eq (s : State) :
    ((List.range 256).filter fun k => decide (leAt (redRec s) 32 32 / 2 ^ k % 2 = 1)) = redRanks s := by
  simp only [redRanks, Nat.testBit_eq_decide_div_mod_eq]

/-- What REDWIN leaves, by the ranks of its record. -/
def redLeaves (s : State) (ranks : List Nat) : State :=
  let r := redRec s
  let i := boxField s 8 1
  let n := leAt r 16 2
  if ranks.length ≠ n ∨ ranks.any (fun k => decide (s.host.gang.length ≤ k)) = true ∨ (n ≠ 0 ∧ n ≤ leAt r 18 2) ∨
      leAt r 0 8 % 65536 ≠ 0 ∨ leAt r 8 8 % 65536 ≠ 0 ∨ zeroAt r 20 32 = false then answered s 1
  else if n = 0 then answered { s.endWindow i with host := { s.host with redwins := otherWindows s i } } 0
  else answered { s.endWindow i with host := { s.host with
    redwins := Kv.put (otherWindows s i) i ⟨leAt r 0 8, leAt r 8 8, leAt r 18 2, ranks, []⟩ } } 0

theorem exec_redwin {s : State} (h : mailRuns s 4) : exec .redwin s = .next (redLeaves s (redRanks s)) := by
  change execRedwin s = _
  rw [execRedwin, mailbox_of_mailRuns _ h (by simp), ← redRanks_eq]
  rfl

theorem redGood_iff (s : State) : RedGood s ↔
    let r := redRec s
    ¬ ((redRanks s).length ≠ leAt r 16 2 ∨ (redRanks s).any (fun k => decide (s.host.gang.length ≤ k)) = true ∨
      (leAt r 16 2 ≠ 0 ∧ leAt r 16 2 ≤ leAt r 18 2) ∨ leAt r 0 8 % 65536 ≠ 0 ∨ leAt r 8 8 % 65536 ≠ 0 ∨ zeroAt r 20 32 = false) := by
  simp only [RedGood, zeroAt, not_or, ne_eq, not_not, Bool.not_eq_true, List.any_eq_false, decide_eq_true_eq, decide_eq_false_iff_not,
    not_and_or, not_le]

theorem redwin_refused {s : State} (h : mailRuns s 4) (hbad : ¬ RedGood s) : exec .redwin s = .next (answered s 1) := by
  rw [exec_redwin h, redLeaves, if_pos (by simpa only [redGood_iff, not_not] using hbad)]

theorem redwin_accepted {s : State} (h : mailRuns s 4) (hgood : RedGood s) : exec .redwin s =
    .next (answered { s.endWindow (boxField s 8 1) with host := { s.host with redwins := newWindows s } } 0) := by
  rw [exec_redwin h, redLeaves, if_neg ((redGood_iff s).1 hgood), newWindows]
  split <;> rfl

theorem find?_newWindows (s : State) (j : Nat) : ((newWindows s).find? fun w => w.1 == j) =
    if j ≠ boxField s 8 1 then s.host.redwins.find? fun w => w.1 == j
    else if leAt (redRec s) 16 2 = 0 then none
    else some (boxField s 8 1, ⟨leAt (redRec s) 0 8, leAt (redRec s) 8 8, leAt (redRec s) 18 2, redRanks s, []⟩) := by
  rw [newWindows]
  by_cases hj : j = boxField s 8 1
  · rw [if_neg (not_not.2 hj), hj]
    split
    · exact find?_filter_self _ _
    · rw [find?_put, if_pos rfl]
  · rw [if_pos hj]
    split
    · exact find?_filter_key _ hj
    · rw [find?_put, if_neg hj]
      exact find?_filter_key _ hj

theorem redwin_leaves {s : State} (h : mailRuns s 4) (hgood : RedGood s) : Leads .redwin s fun u =>
    u = { answered (s.endWindow (boxField s 8 1)) 0 with
      host := { (answered (s.endWindow (boxField s 8 1)) 0).host with redwins := u.host.redwins } } ∧
    ∀ j, (u.host.redwins.find? fun w => w.1 == j) = if j ≠ boxField s 8 1 then s.host.redwins.find? fun w => w.1 == j
      else if leAt (redRec s) 16 2 = 0 then none
      else some (boxField s 8 1, ⟨leAt (redRec s) 0 8, leAt (redRec s) 8 8, leAt (redRec s) 18 2, redRanks s, []⟩) := by
  refine ⟨_, redwin_accepted h hgood, ?_, find?_newWindows s⟩
  rw [← endWindow_host s (boxField s 8 1)]
  rfl

end Sys2Proof.Claims
end

section
/-! SUPPORT. The mailbox's commands in the words of the statement, and the proof of O47. -/

namespace Sys2Proof.Claims
open Sys2Proof.Machine

/-! ### The ends of a LOAD (R374) -/

theorem exec_load_of {s : State} {x : State × Nat × VRes Unit} (h : mailRuns s 2) (hw : loadWrite s = x) :
    exec .load s = .next (loadLeaves (loadUid s) x) := hw ▸ exec_load h

theorem load_done {s t : State} {d : Nat} (h : mailRuns s 2) (hw : loadWrite s = (t, d, .ok ()))
    (hacked : ∀ x ∈ t.unacked, x.1 ≠ loadUid s) : exec .load s = .next (answered t 0) := by
  have hno : (t.unacked.any fun x => x.1 == loadUid s) = false := List.any_eq_false.2 fun x hx => by simpa using hacked x hx
  rw [exec_load_of h hw, loadLeaves, hno]
  rfl

theorem load_unacked {s t : State} {d : Nat} (h : mailRuns s 2) (hw : loadWrite s = (t, d, .ok ()))
    (hacked : ∃ x ∈ t.unacked, x.1 = loadUid s) : exec .load s = .next (loadKept t d) := by
  have hyes : (t.unacked.any fun x => x.1 == loadUid s) = true := by simpa using hacked
  rw [exec_load_of h hw, loadLeaves, if_pos hyes]

theorem loadWrite_page {s t : State} {pa z : Nat} (hpage : loadAt s % 65536 + (loadBytes s).length ≤ 65536) (hbs : loadBytes s ≠ [])
    (hx : (loadState s).xlatePlain mailSource (BitVec.ofNat 64 (boxField s 32 8)) (loadAt s) { kind := 1 } = (t, .ok pa z))
    (hown : memKey pa / 2 ^ 50 ≠ 3) (hv : ∀ j, j < (loadBytes s).length → t.verifyLine .main (memKey pa + j) = none) :
    ∃ w, loadWrite s = (w, s.host.moved + (loadBytes s).length, .ok ()) ∧ t.Accessed w ∧
      ∀ a, Mem.get w.mem a =
        if memKey pa ≤ a ∧ a < memKey pa + (loadBytes s).length then (loadBytes s).getD (a - memKey pa) 0 else Mem.get t.mem a :=
  writeVirt_page hpage hbs hx hown hv

/-- A LOAD of bytes that lie in one page of the module's own memory, on lines that verify. -/
theorem load_page {s t : State} {pa z : Nat} (h : mailRuns s 2) (hpage : loadAt s % 65536 + (loadBytes s).length ≤ 65536)
    (hbs : loadBytes s ≠ [])
    (hx : (loadState s).xlatePlain mailSource (BitVec.ofNat 64 (boxField s 32 8)) (loadAt s) { kind := 1 } = (t, .ok pa z))
    (hown : memKey pa / 2 ^ 50 ≠ 3) (hacked : ∀ x ∈ t.unacked, x.1 ≠ loadUid s)
    (hv : ∀ j, j < (loadBytes s).length → t.verifyLine .main (memKey pa + j) = none) :
    Leads .load s fun u => u.host = (answered t 0).host ∧
      ∀ a, Mem.get u.mem a =
        if memKey pa ≤ a ∧ a < memKey pa + (loadBytes s).length then (loadBytes s).getD (a - memKey pa) 0 else Mem.get t.mem a := by
  obtain ⟨w, hw, hframe, hget⟩ := loadWrite_page hpage hbs hx hown hv
  have hunacked : w.unacked = t.unacked := by rw [hframe]
  have hhost : (answered w 0).host = (answered t 0).host := by rw [answered, accessed_host hframe, answered]
  exact ⟨_, load_done h hw (hunacked ▸ hacked), hhost, hget⟩

/-- Settles O47: every clause is the lemma of its command. -/
theorem configurationAndMemoryMailbox : Obligations.ConfigurationAndMemoryMailbox := by
  unfold Obligations.ConfigurationAndMemoryMailbox
  intro s h box
  refine ⟨?refused, ?config, ?load, gang_leaves, ?redwin, fun hruns => ⟨exec_poolrst_free hruns, exec_poolrst_held hruns⟩, ?release,
    ?holdend⟩
  case refused => exact fun p hp hready hup hbusy hcode => mailbox_refusals hp hready hup hbusy hcode
  case config => exact fun hruns => ⟨config_refused hruns, config_leaves hruns⟩
  case load =>
    intro hruns
    exact ⟨fun t d => load_done hruns, fun t d => load_unacked hruns, fun t d => exec_load_of hruns,
      fun t d code reason => exec_load_of hruns, fun t d b hw => ⟨_, exec_load_of hruns hw, failsLine_mailBad t b 5⟩,
      fun hpage hbs t pa z => load_page hruns hpage hbs⟩
  case redwin =>
    intro hruns
    exact ⟨redwin_refused hruns, redwin_leaves hruns, endWindow_none, fun w hw => ⟨endWindow_unused hw, fun c => endWindow_traps hw⟩⟩
  case release =>
    intro hruns b
    have hexec {x : State × VRes Nat} (hb : b = x) : exec .release s = .next (releaseLeaves x) := hb ▸ exec_release hruns
    refine ⟨fun t node hb => ⟨fun hnot => ?running, fun hhalted => ?halted⟩, fun t hb => hexec hb, fun t code reason hb => hexec hb,
      fun t l hb => ⟨_, hexec hb, failsLine_mailBad t l 1⟩⟩
    case running => rw [hexec hb, releaseLeaves, hnot]; rfl
    case halted => rw [hexec hb, releaseLeaves, hhalted]; rfl
  case holdend =>
    intro hruns i b
    have hexec {x : State × VRes Nat} (hb : b = x) : exec i s = .next (holdLeaves (holdWork s) x) := hb ▸ exec_holdend hruns
    refine ⟨fun t hb => hexec hb, fun t code reason hb => hexec hb, fun t l hb => ⟨_, hexec hb, failsLine_mailBad t l 1⟩,
      fun t at' hb => ⟨fun hnone => ?none, fun v hv => ⟨fun h0 r hr => ?resume, fun h1 => ?ends⟩⟩⟩
    case none =>
      have hat : heldAt t at' = none := hnone
      rw [hexec hb, holdLeaves, hat]
      rfl
    case resume =>
      have hat : heldAt t at' = some v := hv
      have hrun := hexec hb
      rw [holdLeaves, hat, holdWork, if_pos h0, show i = .holdendResume from if_pos h0] at hrun
      exact ⟨_, hrun, holdResume_leaves hr⟩
    case ends =>
      have hat : heldAt t at' = some v := hv
      have hrun := hexec hb
      have hne : boxField s 24 1 ≠ 0 := by simp only [box] at h1; omega
      rw [holdLeaves, hat, holdWork, if_neg hne, show i = .holdendEnd from if_neg hne] at hrun
      refine ⟨hrun, fun w hw => ?_⟩
      rw [endTask_saved, List.mem_filter, Bool.or_eq_true, decide_eq_true_eq, decide_eq_true_eq] at hw
      exact ⟨hw.1, by tauto⟩

end Sys2Proof.Claims
end

section
/-! SUPPORT. The refutation of O55: a demand whose maker is no stream of its slot (R340, R341, R292). -/

namespace Sys2Proof.Claims
open Sys2Proof.Machine

/-- A demand whose maker is a command, or one of its slot's four sequencers, puts nothing into the list of a slot that the
checker does not watch. -/
theorem ovSub_of_not_ovOn {s : State} {sk : Nat} (h : s.ovOn sk = false) (uid : Nat) {b : Demander} (num : BitVec 16)
    (hrole : ∀ role, b = .store role ∨ b = .access role → role < 4) : s.ovSub sk uid b num = s := by
  have henter (role : Nat) (hlt : role < 4) : s.ovEnter uid (sk * 4 + role) num 7 [] [] true = s := by
    have hkey : slotKey (sk * 4 + role) = sk := by rw [slotKey]; omega
    simp only [State.ovEnter, hkey, h, Bool.not_false, if_true]
  cases b with
  | cmd => rfl
  | store role => exact henter role (hrole role (.inl rfl))
  | access role => exact henter role (hrole role (.inr rfl))

/-- A trace image with one stream, stream 2 of core 1, that holds one record: of a sub-command of task 0 in slot 0, with number 0
and ordinal 0. The record is the image's first 64 bytes. -/
def strayImage : List Byte := [1, 0, 2, 0, 0, 0, 0, 0, 1] ++ zeros 43 ++ [1] ++ zeros 11

/-- A replay of that image whose task 0 has started. -/
def strayGraph : Graph := { id := 1, tcbs := [0], troot := 0, mode := 2, image := strayImage, reserved := true, started := [0] }

/-- Slot 0 of core 1 runs the replay's task outside a deterministic region, and has a demand made by its store queue of role 4.
A slot has the roles 0 to 3 only, so that queue is counted as slot 1's, whose region is deterministic. -/
def strayDemand : State :=
  { State.reset with
    graphs := [strayGraph]
    slots := [(8, { Slot.init 8 with busy := true, demands := [{ by' := .store 4, kind := 0, seq := 0 }] }),
      (9, { Slot.init 9 with det := true })] }

/-- The sub-command enters the overlap checker's list all the same. -/
theorem strayDemand_injects : (strayDemand.injectFirst 1 2 strayDemand.graphs).map (·.ovl.length) = some 1 := by decide +kernel

/-- Refutes O55: a sub-command that a replay injects for the demand of a store enters the overlap checker's list under the slot that
the store queue's number names. The clause has the list stay as it is when the slot of the record is in no deterministic region,
for every maker of the demand; for a maker that is a sequencer of the slot, or a command, `ovSub_of_not_ovOn` gives it. -/
theorem not_graphsTracesAndReplays : ¬ Obligations.GraphsTracesAndReplays := by
  unfold Obligations.GraphsTracesAndReplays
  intro h
  obtain ⟨-, -, -, -, -, hinject, -⟩ := h strayDemand 1 2 0 0 0 [] [] strayGraph
  obtain ⟨-, hsub, -⟩ := hinject rfl (by decide +kernel) rfl
  obtain ⟨-, hdemand⟩ := hsub (slice strayImage 0 64) [] (by decide +kernel) (by decide +kernel) (by decide +kernel)
  obtain ⟨-, hleads⟩ := hdemand (by decide +kernel) rfl (by decide +kernel) (by decide +kernel)
  obtain ⟨u, hu, c, x, -, hkept, -⟩ := hleads { by' := .store 4, kind := 0, seq := 0 } (by decide +kernel)
  have hnone : u.ovl = [] := hkept (by decide +kernel)
  have hexec : exec (.commandInjection 1 2) strayDemand = .next ((strayDemand.injectFirst 1 2 strayDemand.graphs).getD strayDemand) := rfl
  obtain ⟨t, ht, hlen⟩ := Option.map_eq_some_iff.1 strayDemand_injects
  rw [hexec, ht] at hu
  cases hu
  rw [Option.getD_some] at hnone
  simp [hnone] at hlen

end Sys2Proof.Claims
end

section
/-! SUPPORT. Stores by key after a write, verification of runs of bytes, and the engines' writes to main memory and to the slices, which
may take several lines (R95, R96). -/

namespace Sys2Proof.Machine

/-! ### Stores whose unlisted keys have values of their own -/

theorem Kv.has_put {α : Type} (l : List (Nat × α)) (a b : Nat) (v : α) : Kv.has (Kv.put l a v) b = (decide (b = a) || Kv.has l b) := by
  by_cases hb : b = a
  · subst hb
    simp [Kv.has_put_self]
  · have ha : a ≠ b := Ne.symm hb
    induction l with
    | nil => simp [Kv.put, Kv.has, ha, hb]
    | cons c r ih =>
      obtain ⟨k, w⟩ := c
      simp only [Kv.put]
      split
      · simp [Kv.has, ha, hb]
      · split
        next hk => simp [Kv.has, ← hk, ha, hb]
        next => simp only [Kv.has, ih, hb, decide_false, Bool.false_or]

/-- What stands at a key, where an unlisted key has a value of its own. -/
theorem Kv.listed_put {α : Type} (d z : α) (l : List (Nat × α)) (a b : Nat) (v : α) :
    (if Kv.has (Kv.put l a v) b = true then Kv.get d (Kv.put l a v) b else z) =
      if b = a then v else if Kv.has l b = true then Kv.get d l b else z := by
  rw [Kv.has_put, Kv.get_put]
  by_cases h : b = a <;> simp [h]

/-! ### Verification -/

theorem State.verifyLine_eq_none {s : State} {sp : Space} {x : Nat} :
    s.verifyLine sp x = none ↔ lineKey sp x ∉ s.ecc ∧ Kv.has s.bad (lineKey sp x) = false := by
  rw [State.verifyLine]
  by_cases hecc : lineKey sp x ∈ s.ecc
  · simp [hecc]
  · by_cases hbad : Kv.has s.bad (lineKey sp x) = true <;> simp [hecc, hbad]

/-- A run of bytes verifies when the line of each of them does (R95). -/
theorem State.verify_eq_none {s : State} {sp : Space} {a n : Nat} (hn : 0 < n) :
    s.verify sp a n = none ↔ ∀ x, a ≤ x → x < a + n → s.verifyLine sp x = none := by
  refine ⟨fun h x ha hx => State.verifyLine_of_verify h ha hx, fun h => ?_⟩
  rw [State.verify]
  split
  · rfl
  · refine List.findSome?_eq_none_iff.2 fun i hi => ?_
    have hi := List.mem_range.1 hi
    rw [State.verifyLine_congr s sp (b := max a ((a / 128 + i) * 128)) (by omega)]
    exact h _ (by omega) (by omega)

/-- A part of a run of bytes that verifies does. -/
theorem State.verify_part {s : State} {sp : Space} {a n b k : Nat} (h : s.verify sp a n = none) (hk : 0 < k) (hb : a ≤ b)
    (hbk : b + k ≤ a + n) : s.verify sp b k = none :=
  (State.verify_eq_none hk).2 fun _ _ _ => State.verifyLine_of_verify h (by omega) (by omega)

/-- Every line that verifies in one state does in the other. -/
def State.Sound (s t : State) : Prop := ∀ sp x, s.verifyLine sp x = none → t.verifyLine sp x = none

theorem State.Sound.verify {s t : State} {sp : Space} {a n : Nat} (hs : s.Sound t) (hn : 0 < n) (h : s.verify sp a n = none) :
    t.verify sp a n = none :=
  (State.verify_eq_none hn).2 fun _ ha hx => hs _ _ (State.verifyLine_of_verify h ha hx)

/-- A write makes check words anew, and spoils none. -/
theorem State.sound_poke (s : State) (sp : Space) (a : Nat) (bs : List Byte) (tag : BitVec 16) : s.Sound (s.poke sp a bs tag) := by
  intro sp' x h
  obtain ⟨hecc, hbad⟩ := State.verifyLine_eq_none.1 h
  refine State.verifyLine_eq_none.2 ⟨by simp [State.poke, hecc], ?_⟩
  rw [Bool.eq_false_iff, Ne, Kv.has_iff] at hbad ⊢
  rintro ⟨c, hc, hkey⟩
  exact hbad ⟨c, (List.mem_filter.1 hc).1, hkey⟩

/-! ### Writes -/

/-- The memories that are held as cells. -/
def State.cells (s : State) : Space → List Host.Cell
  | .main => s.mem
  | .scratch => s.scratch
  | .tile => []

/-- A state with one memory, and what is kept of the lines, as another has them. -/
def State.withSpace (s u : State) : Space → State
  | .main => { s with mem := u.mem, bad := u.bad, ecc := u.ecc, tags := u.tags }
  | .scratch => { s with scratch := u.scratch, bad := u.bad, ecc := u.ecc, tags := u.tags }
  | .tile => { s with tiles := u.tiles, bad := u.bad, ecc := u.ecc, tags := u.tags }

/-- Bytes have been written to a memory from an address; nothing else has changed but what is kept of its lines. -/
structure State.Wrote (s t : State) (sp : Space) (a : Nat) (bs : List Byte) : Prop where
  frame : t = s.withSpace t sp
  sound : s.Sound t
  get : ∀ y, Mem.get (t.cells sp) y = if a ≤ y ∧ y < a + bs.length then bs.getD (y - a) 0 else Mem.get (s.cells sp) y

theorem State.poke_withSpace (s : State) (sp : Space) (a : Nat) (bs : List Byte) (tag : BitVec 16) :
    s.poke sp a bs tag = s.withSpace (s.poke sp a bs tag) sp := by
  cases sp <;> rfl

theorem State.wrote_poke {s : State} {sp : Space} (hsp : sp ≠ .tile) (a : Nat) (bs : List Byte) (tag : BitVec 16) :
    s.Wrote (s.poke sp a bs tag) sp a bs := by
  refine ⟨s.poke_withSpace sp a bs tag, s.sound_poke sp a bs tag, ?_⟩
  cases sp with
  | main => exact s.poke_main_get a bs tag
  | scratch => exact s.poke_scratch_get a bs tag
  | tile => exact absurd rfl hsp

section
variable {s t : State} {sp : Space} {a : Nat} {bs : List Byte}

theorem State.Wrote.read (h : s.Wrote t sp a bs) : Mem.read (t.cells sp) a bs.length = bs := by
  rw [Mem.read_eq]
  refine List.ext_getElem (by simp) fun i _ hi => ?_
  simp [h.get, hi]

theorem State.Wrote.read_out (h : s.Wrote t sp a bs) {b n : Nat} (hout : b + n ≤ a ∨ a + bs.length ≤ b) :
    Mem.read (t.cells sp) b n = Mem.read (s.cells sp) b n := by
  rw [Mem.read_eq, Mem.read_eq]
  refine List.map_congr_left fun i hi => ?_
  have := List.mem_range.1 hi
  rw [h.get, if_neg (by omega)]

theorem State.Wrote.get_out (h : s.Wrote t sp a bs) {y : Nat} (hout : y < a ∨ a + bs.length ≤ y) :
    Mem.get (t.cells sp) y = Mem.get (s.cells sp) y := by
  rw [h.get, if_neg (by omega)]

end

theorem State.withSpace_trans {s t u : State} {sp : Space} (ht : t = s.withSpace t sp) (hu : u = t.withSpace u sp) :
    u = s.withSpace u sp := by
  cases sp <;> (rw [ht] at hu; exact hu)

/-- One piece of a write, in a line that verifies. -/
theorem State.store_wrote {s : State} {sp : Space} (hsp : sp ≠ .tile) {a : Nat} (bs : List Byte) (whole part : BitVec 16)
    (h : s.verifyLine sp a = none) : ∃ t, s.store sp a bs whole part = .ok t ∧ s.Wrote t sp a bs := by
  rw [State.store, h]
  split
  · exact ⟨_, rfl, State.wrote_poke hsp a bs whole⟩
  · exact ⟨_, rfl, State.wrote_poke hsp a bs part⟩

/-- Pieces of a write, in lines that verify. -/
theorem State.storeLines_wrote {s : State} {sp : Space} (hsp : sp ≠ .tile) {a : Nat} {bs : List Byte} {whole part : BitVec 16}
    {ps : List (Nat × Nat)} (hps : ∀ p ∈ ps, a ≤ p.1 ∧ p.1 + p.2 ≤ a + bs.length ∧ s.verifyLine sp p.1 = none) :
    ∃ t, s.storeLines sp a bs whole part ps = (t, none) ∧ t = s.withSpace t sp ∧ s.Sound t ∧
      ∀ y, Mem.get (t.cells sp) y =
        if ∃ p ∈ ps, p.1 ≤ y ∧ y < p.1 + p.2 then bs.getD (y - a) 0 else Mem.get (s.cells sp) y := by
  induction ps generalizing s with
  | nil => exact ⟨s, rfl, by cases sp <;> rfl, fun _ _ h => h, fun y => by simp⟩
  | cons p ps ih =>
    obtain ⟨hlow, hhigh, hv⟩ := hps p (by simp)
    obtain ⟨u, hstore, hframe, hsound, hput⟩ := State.store_wrote hsp ((bs.drop (p.1 - a)).take p.2) whole part hv
    obtain ⟨t, ht, hframe', hsound', hget⟩ := ih (s := u) fun q hq => by
      obtain ⟨hqlow, hqhigh, hqv⟩ := hps q (by simp [hq])
      exact ⟨hqlow, hqhigh, hsound _ _ hqv⟩
    refine ⟨t, by rw [State.storeLines, hstore]; exact ht, State.withSpace_trans hframe hframe',
      fun sp x h => hsound' sp x (hsound sp x h), fun y => ?_⟩
    have hlen : ((bs.drop (p.1 - a)).take p.2).length = p.2 := by simp; omega
    rw [hget, hput, hlen]
    simp only [List.mem_cons, exists_eq_or_imp]
    by_cases hrest : ∃ q ∈ ps, q.1 ≤ y ∧ y < q.1 + q.2
    · simp [hrest]
    · by_cases hp : p.1 ≤ y ∧ y < p.1 + p.2
      · have hidx : p.1 - a + (y - p.1) = y - a := by omega
        simp only [hrest, hp, if_false, and_self, true_or, if_true, List.getD_eq_getElem?_getD, List.getElem?_take, List.getElem?_drop,
          hidx]
        rw [if_pos (by omega)]
      · simp [hrest, hp]

/-- A write over lines that verify is made whole, whatever tags it gives them. -/
theorem State.storeLines_pieces {s : State} {sp : Space} (hsp : sp ≠ .tile) {a : Nat} {bs : List Byte} (whole part : BitVec 16)
    (hbs : bs ≠ []) (hv : s.verify sp a bs.length = none) :
    ∃ t, s.storeLines sp a bs whole part (pieces a bs.length) = (t, none) ∧ s.Wrote t sp a bs := by
  obtain ⟨t, ht, hframe, hsound, hget⟩ := State.storeLines_wrote hsp (s := s) (a := a) (bs := bs) (whole := whole) (part := part)
    (ps := pieces a bs.length) fun p hp => by
      obtain ⟨hlow, hhigh, hin⟩ := pieces_within (List.length_pos_iff.2 hbs) hp
      exact ⟨hlow, hhigh, State.verifyLine_of_verify hv hlow hin⟩
  exact ⟨t, ht, hframe, hsound, fun y => by rw [hget y]; simp only [mem_pieces_iff]⟩

/-- A write that stops before the first line that fails answers what the line-by-line one leaves. -/
theorem State.foldlM_store {s t : State} {sp : Space} {a : Nat} {bs : List Byte} {whole part : BitVec 16} {ps : List (Nat × Nat)}
    (h : s.storeLines sp a bs whole part ps = (t, none)) :
    ps.foldlM (fun s p => s.store sp p.1 ((bs.drop (p.1 - a)).take p.2) whole part) s = .ok t := by
  induction ps generalizing s with
  | nil =>
    cases h
    rfl
  | cons p ps ih =>
    rw [State.storeLines] at h
    rw [List.foldlM_cons]
    split at h
    · simp at h
    next hstore =>
      rw [hstore]
      exact ih h

theorem State.storeAll_wrote {s : State} {sp : Space} (hsp : sp ≠ .tile) {a : Nat} {bs : List Byte} (whole part : BitVec 16)
    (hbs : bs ≠ []) (hv : s.verify sp a bs.length = none) : ∃ t, s.storeAll sp a bs whole part = .ok t ∧ s.Wrote t sp a bs := by
  obtain ⟨t, ht, hwrote⟩ := State.storeLines_pieces hsp whole part hbs hv
  exact ⟨t, State.foldlM_store ht, hwrote⟩

theorem State.writeLines_wrote {s : State} {sp : Space} (hsp : sp ≠ .tile) {a : Nat} {bs : List Byte} (whole part : BitVec 16)
    (hbs : bs ≠ []) (hv : s.verify sp a bs.length = none) :
    ∃ t, s.writeLines sp a bs whole part = (t, none) ∧ s.Wrote t sp a bs := by
  rw [State.writeLines]
  split
  · exact ⟨_, rfl, State.wrote_poke hsp a bs whole⟩
  · exact State.storeLines_pieces hsp whole part hbs hv

end Sys2Proof.Machine
end

section
/-! SUPPORT. The start of a command that nothing stops, and a command that goes on (R126); what TBLOAD leaves (R200, R203). -/

namespace Sys2Proof.Claims
open Sys2Proof.Machine

/-! ### Commands that start, and commands that go on -/

@[simp] theorem complete_core (s : State) (c : Cmd) (v : Word) (j : Nat) : (s.complete c v).core j = s.core j := rfl

section
variable {s : State} {c : Cmd} (h : Starts s c)
include h

theorem cmd_of_starts : s.cmd c.uid = some c := by
  obtain ⟨hcmd, -⟩ := h
  exact hcmd

theorem phase_of_starts : c.phase = .waiting := by
  obtain ⟨-, hphase, -⟩ := h
  exact hphase

theorem sub_of_starts : c.sub = none := by
  obtain ⟨-, -, -, -, -, -, hsub, -⟩ := h
  exact hsub

theorem mode_of_starts : (s.slot (slotKey c.seqk)).mode = 0 := by
  obtain ⟨-, -, -, -, -, -, -, -, -, -, -, hmode, -⟩ := h
  exact hmode

end

/-- COMMAND_START of a command whose engine takes it up now, and whose graph is not recorded. -/
theorem exec_commandStart_starts {s u : State} {c : Cmd} {n : Nat} (h : Starts s c) (hrun : s.runCmd c n = u)
    (hmode : (u.slot (slotKey c.seqk)).mode = 0) : exec (.commandStart c.uid n) s = .next u := by
  have hcan := canRun_of_starts h
  obtain ⟨hcmd, hphase, -, -, -, hresumed, hsub, -⟩ := h
  have hbegun : c.begun = false := by simp [Cmd.begun, hphase, hresumed]
  have hshape : s.putShape c = s := by
    unfold State.putShape
    split
    next hx => simp [hsub] at hx
    next => rfl
  have hrecord : u.recordCommand c = u := by
    rw [State.recordCommand]
    split
    · rfl
    · simp [hmode]
  change Host.Outcome.next (s.startCmd c.uid n) = _
  simp [State.startCmd, hcmd, hcan, hbegun, hshape, hrun, hrecord]

/-- COMMAND_START of a command that has started: its engine goes on with it. -/
theorem exec_commandStart_goes {s : State} {c : Cmd} (h : Goes s c) (n : Nat) :
    exec (.commandStart c.uid n) s = .next (s.runCmd c n) := by
  obtain ⟨hcmd, hphase, hfailed, -, hstop⟩ := h
  have hcan : s.canRun c = true := by simp [State.canRun, hfailed, hphase, hstop]
  have hbegun : c.begun = true := by simp [Cmd.begun, hphase]
  change Host.Outcome.next (s.startCmd c.uid n) = _
  simp [State.startCmd, hcmd, hcan, hbegun]

/-- A command that its engine takes up now has nothing to force first, and overlaps nothing that is compared. -/
theorem forceCmd_starts {s : State} {c : Cmd} (h : Starts s c) (feet more : List Foot) (dests : List OvFoot) :
    s.forceCmd c feet more dests = .ok s := by
  obtain ⟨-, -, -, -, -, -, hsub, -, -, hnodes, hdemands, -, hovl, -⟩ := h
  have hstart (uid : Nat) (l : List OvFoot) : s.ovStart uid l = (s, false) := by
    rw [State.ovStart, hovl]
    rfl
  have hforce : s.forceWrites c.force feet = .met s := by
    rw [State.forceWrites, show c.force.sk = slotKey c.seqk from rfl, hnodes, hdemands]
    rfl
  simp only [State.forceCmd, hstart, hsub, hforce, Option.isSome_none, Bool.false_eq_true, if_false]

/-! ### Traps of the vector engine (R210) -/

/-- The record of a trap of the vector engine for an operand of a command. -/
def operandRec (s : State) (c : Cmd) (code status addr : Nat) : TrapRec :=
  { s.cmdRec c code 2 status 0 addr with
    seq := c.num, pc := c.pc, stream := roleOf c.seqk, prec := false || decide (caSub c.ins = 7) }

theorem trapVec_operand {s : State} {c : Cmd} (hsub : c.sub = none) (code status addr : Nat) :
    s.trapVec c code status 0 addr 0 none = ((s.takeTrap (slotKey c.seqk) (operandRec s c code status addr)).setCmd
      { c with failed := true }).chooseRun (coreOf c.seqk) := by
  simp only [State.trapVec, trapCmd_of_sub_eq_none hsub, Nat.zero_mul, Nat.add_zero]
  rfl

theorem chooseRun_core (s : State) (k j : Nat) : (s.chooseRun k).core j = { s.core j with vrun := ((s.chooseRun k).core j).vrun } := by
  rw [State.chooseRun]
  by_cases hj : j = k
  · rw [hj, State.modCore_core_self]
  · rw [State.modCore_core_ne _ _ _ _ hj]

/-- A trap of the vector engine for an operand: its record, and no more of a core than the run that it executes next. -/
theorem trapVec_leaves {s : State} {c : Cmd} (hsub : c.sub = none) (hc : s.cmd c.uid = some c) (code status addr : Nat) :
    let u := s.trapVec c code status 0 addr 0 none
    u = { s with slots := u.slots, cores := u.cores, cmds := u.cmds,
                 policy := s.policy ++ [.trap (operandRec s c code status addr)] } ∧
      (u.slot (slotKey c.seqk)).mode = (s.slot (slotKey c.seqk)).mode ∧
      (∀ j, u.core j = { s.core j with vrun := (u.core j).vrun }) ∧ u.cmd c.uid = some { c with failed := true } := by
  rw [trapVec_operand hsub]
  exact ⟨rfl, State.slot_mode_takeTrap rfl, chooseRun_core _ _,
    State.cmd_setCmd (c := { c with failed := true }) (Option.isSome_of_eq_some hc)⟩

/-! ### TBLOAD -/

/-- Words in the micro-order store, and the words it has had. -/
theorem microWord_putMicro (s : State) (core dst : Nat) (ws : List (BitVec 32)) (i : Nat) :
    (s.modCore core (·.putMicro dst ws)).microWord core i =
      if dst ≤ i ∧ i < dst + ws.length then ws.getD (i - dst) 0 else s.microWord core i := by
  simp only [State.microWord, State.modCore_core_self, CoreSt.putMicro]
  induction ws using List.reverseRecOn with
  | nil =>
    have hnone : ¬ (dst ≤ i ∧ i < dst + 0) := by omega
    rw [List.length_nil, if_neg hnone]
    rfl
  | append_singleton ws w ih =>
    simp only [List.zipIdx_append, List.foldl_append, Nat.zero_add, List.zipIdx_cons, List.zipIdx_nil, List.foldl_cons, List.foldl_nil,
      Kv.listed_put, ih, List.length_append, List.length_cons, List.length_nil]
    by_cases hlast : i = dst + ws.length
    · have hidx : i - dst = ws.length := by omega
      rw [if_pos hlast, if_pos (by omega), hidx]
      simp
    · by_cases hin : dst ≤ i ∧ i < dst + ws.length
      · have hin' : dst ≤ i ∧ i < dst + (ws.length + 1) := by omega
        rw [if_neg hlast, if_pos hin, if_pos hin', List.getD_append _ _ _ _ (by omega)]
      · have hin' : ¬ (dst ≤ i ∧ i < dst + (ws.length + 1)) := by omega
        rw [if_neg hlast, if_neg hin, if_neg hin']

/-- The words that a TBLOAD reads. -/
def tableWords (s : State) (src n : Nat) : List (BitVec 32) :=
  (List.range n).map fun i => BitVec.ofNat 32 (leNat (s.bytes .scratch (src + 4 * i) 4))

theorem getD_tableWords (s : State) {src n i : Nat} (h : i < n) :
    (tableWords s src n).getD i 0 = BitVec.ofNat 32 (leNat (Mem.read s.scratch (src + 4 * i) 4)) := by
  simp [tableWords, h, State.bytes]

/-- The source of a TBLOAD lies in a window, aligned (R203). -/
def TableReads (s : State) (c : Cmd) : Prop :=
  sliceOk c.v1.toNat (4 * c.v3.toNat) = true ∧ s.window (slotKey c.seqk) c.v1.toNat (4 * c.v3.toNat) = true ∧ c.v1.toNat % 4 = 0

/-- The destination of a TBLOAD lies in one bank (R203). -/
def TableFits (c : Cmd) : Prop :=
  c.v2.toNat < 4096 ∧ 1 ≤ c.v3.toNat ∧ c.v3.toNat ≤ 2048 ∧ (c.v2.toNat + c.v3.toNat - 1) / 2048 = c.v2.toNat / 2048

theorem runCmd_tbload {s : State} {c : Cmd} {d a b e : BitVec 5} (h : Starts s c) (hins : c.ins = .tbload d a b e c.ext) (n : Nat) :
    s.runCmd c n = s.runTbload c := by
  have hsub : c.sub.isSome = false := by rw [sub_of_starts h, Option.isSome_none]
  simp [State.runCmd, hins, engineOf, hsub, isVrun]

theorem runTbload_reads {s : State} {c : Cmd} (h : Starts s c) (hreads : TableReads s c) (hfits : TableFits c)
    (hv : s.verify .scratch c.v1.toNat (4 * c.v3.toNat) = none) :
    s.runTbload c = (s.modCore (coreOf c.seqk) (·.putMicro c.v2.toNat (tableWords s c.v1.toNat c.v3.toNat))).complete c 0 := by
  have hforce := forceCmd_starts h [⟨.scratch, c.v1.toNat, 4 * c.v3.toNat, false⟩] [] []
  obtain ⟨-, hphase, hpar, -⟩ := h
  obtain ⟨hslice, hwindow, haligned⟩ := hreads
  obtain ⟨hdst, hpos, hmax, hbank⟩ := hfits
  have hfit : ¬ (4095 < c.v2.toNat ∨ c.v3.toNat = 0 ∨ 2048 < c.v3.toNat ∨
      bankOf c.v2.toNat ≠ bankOf (c.v2.toNat + c.v3.toNat - 1)) := by
    rw [bankOf, bankOf, hbank]
    omega
  simp only [State.runTbload, hphase, hpar, hslice, hwindow, haligned, if_neg hfit, hforce, hv]
  rfl

theorem runTbload_badSource {s : State} {c : Cmd} (h : Starts s c) (hreads : ¬ TableReads s c) :
    s.runTbload c = s.trapVec c 3 7 0 c.v1.toNat 0 none := by
  obtain ⟨-, hphase, hpar, -⟩ := h
  have hbad : (!sliceOk c.v1.toNat (4 * c.v3.toNat) || !s.window (slotKey c.seqk) c.v1.toNat (4 * c.v3.toNat) ||
      decide (c.v1.toNat % 4 ≠ 0)) = true := by
    simp only [TableReads] at hreads
    simp only [Bool.or_eq_true, Bool.not_eq_true', decide_eq_true_eq]
    simp only [← Bool.not_eq_true]
    tauto
  simp only [State.runTbload, hphase, hpar, hbad]
  rfl

theorem runTbload_badPlace {s : State} {c : Cmd} (h : Starts s c) (hreads : TableReads s c) (hfits : ¬ TableFits c) :
    s.runTbload c = s.trapVec c 6 8 0 0 0 none := by
  obtain ⟨-, hphase, hpar, -⟩ := h
  obtain ⟨hslice, hwindow, haligned⟩ := hreads
  have hbad : 4095 < c.v2.toNat ∨ c.v3.toNat = 0 ∨ 2048 < c.v3.toNat ∨
      bankOf c.v2.toNat ≠ bankOf (c.v2.toNat + c.v3.toNat - 1) := by
    simp only [TableFits] at hfits
    simp only [bankOf]
    omega
  simp only [State.runTbload, hphase, hpar, hslice, hwindow, haligned, if_pos hbad]
  rfl

theorem tbload_loads {s : State} {c : Cmd} {d a b e : BitVec 5} (h : Starts s c) (hins : c.ins = .tbload d a b e c.ext) (n : Nat)
    (hreads : TableReads s c) (hfits : TableFits c)
    (hv : s.verify .scratch c.v1.toNat (4 * c.v3.toNat) = none) : Leads (.commandStart c.uid n) s fun u =>
      u = { s with cores := u.cores, cmds := u.cmds } ∧
      (∀ i, u.microWord (c.seqk / 32) i = if c.v2.toNat ≤ i ∧ i < c.v2.toNat + c.v3.toNat then
        BitVec.ofNat 32 (leNat (Mem.read s.scratch (c.v1.toNat + 4 * (i - c.v2.toNat)) 4)) else s.microWord (c.seqk / 32) i) ∧
      (∀ j, u.core j = if j = c.seqk / 32 then { s.core j with micro := (u.core j).micro } else s.core j) ∧
      u.cmd c.uid = some { c with phase := .done, result := 0 } := by
  have hrun := (runCmd_tbload h hins n).trans (runTbload_reads h hreads hfits hv)
  have hmode := mode_of_starts h
  refine ⟨_, exec_commandStart_starts h hrun hmode, rfl, fun i => ?words, fun j => ?cores, ?cmd⟩
  case words =>
    have hput := microWord_putMicro s (coreOf c.seqk) c.v2.toNat (tableWords s c.v1.toNat c.v3.toNat) i
    have hlen : (tableWords s c.v1.toNat c.v3.toNat).length = c.v3.toNat := by simp [tableWords]
    rw [hlen] at hput
    refine hput.trans ?_
    by_cases hin : c.v2.toNat ≤ i ∧ i < c.v2.toNat + c.v3.toNat
    · rw [if_pos hin, if_pos hin, getD_tableWords s (by omega)]
    · rw [if_neg hin, if_neg hin]
      rfl
  case cores =>
    simp only [complete_core]
    by_cases hj : j = c.seqk / 32
    · rw [if_pos hj, hj, coreOf, State.modCore_core_self]
      rfl
    · rw [if_neg hj]
      exact State.modCore_core_ne _ _ _ _ hj
  case cmd => exact State.cmd_setCmd (c := { c with phase := .done, result := 0 }) (Option.isSome_of_eq_some h.1)

theorem tbload_traps {s : State} {c : Cmd} {d a b e : BitVec 5} (h : Starts s c) (hins : c.ins = .tbload d a b e c.ext) (n : Nat)
    (hbad : ¬ (TableReads s c ∧ TableFits c)) : Leads (.commandStart c.uid n) s fun u => ∃ r : TrapRec,
    u = { s with slots := u.slots, cores := u.cores, cmds := u.cmds, policy := s.policy ++ [.trap r] } ∧ r.engine = 2 ∧
    (¬ TableReads s c → r.code = 3 ∧ r.status = 7) ∧ (TableReads s c → r.code = 6 ∧ r.status = 8) ∧
    u.cmd c.uid = some { c with failed := true } ∧
    ∀ i, u.microWord (c.seqk / 32) i = s.microWord (c.seqk / 32) i ∧ (u.core (c.seqk / 32)).gen i = (s.core (c.seqk / 32)).gen i := by
  have hrun := runCmd_tbload h hins n
  have hcmd := cmd_of_starts h
  have hsub := sub_of_starts h
  have hmode := mode_of_starts h
  have hkeeps {u : State} (hcore : ∀ j, u.core j = { s.core j with vrun := (u.core j).vrun }) (i : Nat) :
      u.microWord (c.seqk / 32) i = s.microWord (c.seqk / 32) i ∧ (u.core (c.seqk / 32)).gen i = (s.core (c.seqk / 32)).gen i := by
    simp only [State.microWord]
    rw [hcore]
    exact ⟨rfl, rfl⟩
  by_cases hreads : TableReads s c
  · obtain ⟨hframe, hmode', hcore, hfail⟩ := trapVec_leaves hsub hcmd 6 8 0
    have hplace := runTbload_badPlace h hreads fun hfits => hbad ⟨hreads, hfits⟩
    exact ⟨_, exec_commandStart_starts h (hrun.trans hplace) (hmode'.trans hmode), _, hframe, rfl, fun hno => absurd hreads hno,
      fun _ => ⟨rfl, rfl⟩, hfail, hkeeps hcore⟩
  · obtain ⟨hframe, hmode', hcore, hfail⟩ := trapVec_leaves hsub hcmd 3 7 c.v1.toNat
    exact ⟨_, exec_commandStart_starts h (hrun.trans (runTbload_badSource h hreads)) (hmode'.trans hmode), _, hframe, rfl,
      fun _ => ⟨rfl, rfl⟩, fun hyes => absurd hyes hreads, hfail, hkeeps hcore⟩

end Sys2Proof.Claims
end

section
/-! SUPPORT. One piece of a copy between slices (R95, R132). -/

namespace Sys2Proof.Machine

/-- A command of a number that is changed by a function. -/
theorem State.cmd_modCmd (s : State) (uid : Nat) {f : Cmd → Cmd} (hf : ∀ x, (f x).uid = x.uid) :
    (s.modCmd uid f).cmd uid = (s.cmd uid).map f := by
  have hsame : ((fun x : Cmd => x.uid == uid) ∘ fun x => if x.uid = uid then f x else x) = fun x => x.uid == uid := by
    funext x
    by_cases hx : x.uid = uid <;> simp [hx, hf]
  rw [State.cmd, State.modCmd, List.find?_map, hsame, State.cmd]
  cases hx : s.cmds.find? fun x => x.uid == uid with
  | none => rfl
  | some x =>
    have huid := List.find?_some hx
    simp only [Option.map_some, if_pos (beq_iff_eq.1 huid)]

end Sys2Proof.Machine

namespace Sys2Proof.Claims
open Sys2Proof.Machine

/-! ### Pieces that lie in one line of a slice -/

theorem byteAt_scratch (s : State) (y : Nat) : byteAt s .scratch y = (Mem.get s.scratch y).toNat := by
  simp [byteAt, State.bytes, Mem.read_eq, leNat]

theorem readPiece_within {s : State} {c : Cmd} {a : Int} {n : Nat} (h : Within s c a n) (index : Nat) :
    s.readPiece c true a n index =
      .ok s (s.bytes .scratch a.toNat n, s.tag .scratch a.toNat, lineKey .scratch a.toNat) := by
  obtain ⟨hpos, hslice, hwindow, hline⟩ := h
  have hin : ¬ (a < 0 ∨ sliceOk a.toNat n = false ∨ s.window (slotKey c.seqk) a.toNat n = false) := by simp [hpos, hslice, hwindow]
  simp only [State.readPiece, if_true, if_neg hin, hline]

theorem writePiece_within {s : State} {c : Cmd} {a : Int} {bs : List Byte} (h : Within s c a bs.length) (whole : BitVec 16)
    (index : Nat) : ∃ t, s.writePiece c true a bs whole index =
        .ok t (lineKey .scratch a.toNat, s.tag .scratch a.toNat, s.bytes .scratch a.toNat bs.length) ∧
      s.Wrote t .scratch a.toNat bs := by
  obtain ⟨hpos, hslice, hwindow, hline⟩ := h
  have hin : ¬ (a < 0 ∨ sliceOk a.toNat bs.length = false ∨ s.window (slotKey c.seqk) a.toNat bs.length = false) := by
    simp [hpos, hslice, hwindow]
  obtain ⟨t, ht, hwrote⟩ := State.store_wrote (by decide) bs whole (originTag 5 (coreOf c.seqk)) hline
  exact ⟨t, by simp only [State.writePiece, if_true, if_neg hin, ht], hwrote⟩

/-- The bytes of a piece: as many as lie in one line at its source and at its destination (R132). -/
def pieceLen (fill : Bool) (src dst : Int) (left : Nat) : Nat :=
  Min.min left (Min.min (128 - (dst % 128).toNat) (if fill then left else 128 - (src % 128).toNat))

/-- What a piece carries: the fill's pattern, or the bytes of its source. -/
def pieceBytes (s : State) (c : Cmd) (fill : Bool) (src : Int) (n : Nat) : List Byte :=
  if fill then fillBytes c.v2 c.off n else s.bytes .scratch src.toNat n

@[simp] theorem pieceBytes_length (s : State) (c : Cmd) (fill : Bool) (src : Int) (n : Nat) :
    (pieceBytes s c fill src n).length = n := by
  cases fill <;> simp [pieceBytes, fillBytes, State.bytes]

theorem getD_pieceBytes (s : State) (c : Cmd) (fill : Bool) (src : Int) {n i : Nat} (h : i < n) :
    ((pieceBytes s c fill src n).getD i 0).toNat =
      if fill then c.v2.toNat / 256 ^ ((c.off + i) % 8) % 256 else byteAt s .scratch (src.toNat + i) := by
  cases fill <;> simp [pieceBytes, fillBytes, State.bytes, byteAt_scratch, Mem.read_eq, h]

/-- No byte of a piece has a source that the command has overwritten, or overwrites before it in the piece (R132). -/
def Fresh (c : Cmd) (src dst : Int) (n : Nat) : Prop :=
  ¬ (src < dst ∧ dst < src + n) ∧
    ∀ q ∈ (Kv.get (0, []) c.old (lineKey .scratch src.toNat)).2, ¬ (src % 128 ≤ q.1 ∧ (q.1 : Int) < src % 128 + n)

theorem pickNeeded_fresh {c : Cmd} {src dst : Int} {n : Nat} (hsrc : 0 ≤ src) (hdst : 0 ≤ dst) (h : Fresh c src dst n) :
    pickNeeded c (lineKey .scratch src.toNat) (src % 128).toNat (lineKey .scratch dst.toNat) (dst % 128).toNat n = false := by
  obtain ⟨hahead, hold⟩ := h
  simp only [pickNeeded, Bool.or_eq_false_iff, List.any_eq_false, Bool.and_eq_false_iff, Bool.and_eq_true, decide_eq_true_eq,
    decide_eq_false_iff_not, beq_eq_false_iff_ne, lineKey]
  refine ⟨by omega, fun q hq hin => hold q hq ?_⟩
  omega

/-- A piece has been moved: its bytes stand at its destination, and of the module nothing else that a copy of slices shows has changed. -/
structure PieceMoved (s t : State) (c : Cmd) (dst : Nat) (bs : List Byte) : Prop where
  mem : t.mem = s.mem
  slots : t.slots = s.slots
  cmd : (t.cmd c.uid).map (fun x => (x.off, x.phase)) = some (c.off, c.phase)
  get : ∀ y, Mem.get t.scratch y = if dst ≤ y ∧ y < dst + bs.length then bs.getD (y - dst) 0 else Mem.get s.scratch y

theorem pieceMoved_of_wrote {s t : State} {c : Cmd} {dst : Nat} {bs : List Byte} (hc : s.cmd c.uid = some c)
    (h : s.Wrote t .scratch dst bs) : PieceMoved s t c dst bs := by
  obtain ⟨hframe, -, hget⟩ := h
  refine ⟨by rw [hframe]; rfl, by rw [hframe]; rfl, ?_, hget⟩
  have hcmd : t.cmd c.uid = s.cmd c.uid := by rw [hframe]; rfl
  rw [hcmd, hc]
  rfl

/-- The command's own record of what it has overwritten is no part of what it moves. -/
theorem PieceMoved.overwrote {s t : State} {c : Cmd} {dst : Nat} {bs : List Byte} (h : PieceMoved s t c dst bs) (k : Nat)
    (tag : BitVec 16) (dof : Nat) (was : List Byte) : PieceMoved s (t.setCmd (c.overwrote k tag dof was)) c dst bs := by
  obtain ⟨hmem, hslots, hcmd, hget⟩ := h
  refine ⟨hmem, hslots, ?_, hget⟩
  have hsome : (t.cmd c.uid).isSome = true := by
    cases hc : t.cmd c.uid with
    | none => simp [hc] at hcmd
    | some x => rfl
  have hset : (t.setCmd (c.overwrote k tag dof was)).cmd c.uid = some (c.overwrote k tag dof was) :=
    State.cmd_setCmd (c := c.overwrote k tag dof was) hsome
  rw [hset]
  rfl

section
variable {s : State} {c : Cmd} {src dst : Int} {left : Nat}

theorem movePiece_fill (hm : cpMember c.ins = (6, true, true)) (hc : s.cmd c.uid = some c)
    (hdst : Within s c dst (pieceLen true src dst left)) (index : Nat) :
    ∃ t, s.movePiece c src dst left index = .ok t (pieceLen true src dst left) ∧
      PieceMoved s t c dst.toNat (pieceBytes s c true src (pieceLen true src dst left)) := by
  have hlen := pieceBytes_length s c true src (pieceLen true src dst left)
  rw [← hlen] at hdst
  obtain ⟨t, ht, hwrote⟩ := writePiece_within hdst (originTag 0 (coreOf c.seqk)) index
  refine ⟨t, ?_, pieceMoved_of_wrote hc hwrote⟩
  simp only [pieceBytes, pieceLen, if_true] at ht
  simp only [State.movePiece, hm, if_true, toLineEnd, ht, pieceLen]

theorem movePiece_copy (hm : (cpMember c.ins).1 ≠ 6) (hsides : (cpMember c.ins).2 = (true, true)) (hc : s.cmd c.uid = some c)
    (hdst : Within s c dst (pieceLen false src dst left)) (hsrc : Within s c src (pieceLen false src dst left))
    (hfresh : Fresh c src dst (pieceLen false src dst left)) (index : Nat) :
    ∃ t, s.movePiece c src dst left index = .ok t (pieceLen false src dst left) ∧
      PieceMoved s t c dst.toNat (pieceBytes s c false src (pieceLen false src dst left)) := by
  have hlen := pieceBytes_length s c false src (pieceLen false src dst left)
  have hdst' := hdst
  rw [← hlen] at hdst'
  have hneeded := pickNeeded_fresh hsrc.1 hdst.1 hfresh
  have hread := readPiece_within hsrc index
  obtain ⟨t, ht, hwrote⟩ := writePiece_within hdst'
    (if src % 128 ≠ 0 then originTag 0 (coreOf c.seqk) else s.tag .scratch src.toNat) index
  have hchoices : ({ t with choices := s.choices } : State) = t := by
    rw [hwrote.frame]
    rfl
  refine ⟨_, ?_, (pieceMoved_of_wrote hc hwrote).overwrote (lineKey .scratch dst.toNat) (s.tag .scratch dst.toNat)
    (dst % 128).toNat (s.bytes .scratch dst.toNat (pieceLen false src dst left))⟩
  simp only [pieceBytes_length] at ht
  simp only [pieceBytes, pieceLen, Bool.false_eq_true, if_false] at ht hread hneeded
  simp only [State.movePiece, hm, hsides, if_false, toLineEnd, pieceLen, Bool.false_eq_true, Bool.not_true, Bool.false_and, hread,
    State.lineOf, beq_self_eq_true, Option.getD_some, hneeded, if_true, ht, hchoices]

end

/-- A command that has moved a piece has its next byte offset past it, which is all that its claim asks. -/
theorem movesPiece_of_moved {s : State} {c : Cmd} {fill : Bool} {src dst : Int} {left : Nat} (hphase : c.phase = .running)
    (h : Within s c dst (pieceLen fill src dst left) →
      (fill = false → Within s c src (pieceLen fill src dst left) ∧ Fresh c src dst (pieceLen fill src dst left)) →
      ∃ t, exec (.commandStart c.uid 1) s =
          .next (t.modCmd c.uid fun x => { x with off := x.off + pieceLen fill src dst left }) ∧
        PieceMoved s t c dst.toNat (pieceBytes s c fill src (pieceLen fill src dst left))) :
    MovesPiece s c fill src dst left := by
  rw [MovesPiece]
  intro hdst hsrc
  obtain ⟨t, hexec, hmem, hslots, hcmd, hget⟩ := h hdst hsrc
  refine ⟨_, hexec, hmem, hslots, ?cmd, fun y => ?bytes⟩
  case cmd =>
    have hpast := t.cmd_modCmd c.uid (f := fun x => { x with off := x.off + pieceLen fill src dst left }) fun _ => rfl
    rw [hpast, Option.map_map, ← hphase]
    have hadd := congrArg (Option.map fun p : Nat × Phase => (p.1 + pieceLen fill src dst left, p.2)) hcmd
    rwa [Option.map_map] at hadd
  case bytes =>
    rw [byteAt_scratch]
    change (Mem.get t.scratch y).toNat = _
    rw [hget, pieceBytes_length]
    have hpos : 0 ≤ dst := hdst.1
    by_cases hin : dst ≤ y ∧ (y : Int) < dst + pieceLen fill src dst left
    · rw [if_pos (by omega), getD_pieceBytes _ _ _ _ (by omega)]
      exact (if_pos hin).symm
    · rw [if_neg (by omega)]
      exact (byteAt_scratch s y).symm.trans (if_neg hin).symm

end Sys2Proof.Claims
end

section
/-! SUPPORT. The copies of CPY, CPY2, CPY3, CPF, CPG and CPS between slices, CPM's record and CPQ's vectors (R131 to R137). -/

namespace Sys2Proof.Claims
open Sys2Proof.Machine

/-! ### A copy command goes on -/

/-- A command of the CP family, its checks passed, goes on. -/
structure CopyGoes (s : State) (c : Cmd) : Prop where
  goes : Goes s c
  engine : engineOf c.ins = 1
  member : (cpMember c.ins).1 ≠ 0
  checked : c.par ≠ []

/-- Every byte of a copy, or every vector of a CPQ, has been moved. -/
def CopyEnds (c : Cmd) : Prop := if (cpMember c.ins).1 = 8 then 512 * c.parN 0 ≤ c.off else c.total ≤ c.off

/-- The next piece of a copy, by its member. -/
def nextPiece (s : State) (c : Cmd) : Piece Nat :=
  if (cpMember c.ins).1 = 8 then s.cpqPiece c
  else if (cpMember c.ins).1 = 4 ∨ (cpMember c.ins).1 = 5 then s.indexedPiece c
  else s.stridedPiece c

section
variable {s : State} {c : Cmd} (h : CopyGoes s c)
include h

theorem exec_commandStart_copy (n : Nat) : exec (.commandStart c.uid n) s = .next (s.copyLoop c.uid n) := by
  obtain ⟨hgoes, hengine, hmember, hchecked⟩ := h
  have hphase : c.phase = .running := hgoes.2.1
  rw [exec_commandStart_goes hgoes, State.runCmd, hengine]
  simp only [hmember, if_false, State.runCopy, hphase, hchecked, reduceCtorEq]

theorem exec_copy_ends (hend : CopyEnds c) (m : Nat) : exec (.commandStart c.uid (m + 1)) s =
    .next (if (cpMember c.ins).1 = 7 then s.sendMessage c else s.complete c 0) := by
  obtain ⟨hcmd, -, hfailed, hsent, -⟩ := h.goes
  have hdone : (if (cpMember c.ins).1 = 8 then decide (512 * c.parN 0 ≤ c.off) else decide (c.total ≤ c.off)) = true := by
    rw [CopyEnds] at hend
    split at hend <;> simp_all
  rw [exec_commandStart_copy h, State.copyLoop]
  simp only [hcmd, hfailed, hsent, hdone, if_true, Bool.false_or, Nat.zero_ne_one, decide_false, Bool.false_eq_true, if_false]

theorem exec_copy_piece (hend : ¬ CopyEnds c) {t : State} {k : Nat} (hpiece : nextPiece s c = .ok t k) :
    exec (.commandStart c.uid 1) s = .next (t.modCmd c.uid fun x => { x with off := x.off + k }) := by
  obtain ⟨hcmd, -, hfailed, hsent, -⟩ := h.goes
  have hdone : (if (cpMember c.ins).1 = 8 then decide (512 * c.parN 0 ≤ c.off) else decide (c.total ≤ c.off)) = false := by
    rw [CopyEnds] at hend
    split at hend <;> simp_all
  rw [nextPiece] at hpiece
  rw [exec_commandStart_copy h, State.copyLoop]
  simp only [hcmd, hfailed, hsent, hdone, Bool.false_or, Nat.zero_ne_one, decide_false, Bool.false_eq_true, if_false, hpiece,
    State.copyLoop]

end

/-! ### CPY, CPY2, CPY3 and CPF -/

section
variable {s : State} {c : Cmd} {a b e : BitVec 5} {run n1 n2 : Nat} {ss1 ds1 ss2 ds2 : Int}

/-- The members of the strided copies between slices. -/
theorem strided_member (hins : c.ins ∈ [Instr.cpy 1 1 a b e c.ext, .cpy2 1 1 a b e c.ext, .cpy3 1 1 a b e c.ext, .cpf 1 a b e c.ext]) :
    engineOf c.ins = 1 ∧ (cpMember c.ins).1 ∈ [1, 2, 3, 6] ∧ (cpMember c.ins).2 = (true, true) ∧
      ((cpMember c.ins).1 = 6 ↔ c.ins = .cpf 1 a b e c.ext) := by
  simp only [List.mem_cons, List.not_mem_nil, or_false] at hins
  rcases hins with hins | hins | hins | hins <;> rw [hins] <;> simp [engineOf, cpMember]

theorem strided_goes (h : Goes s c) (hpar : c.par = [(run : Int), n1, n2, ss1, ds1, ss2, ds2])
    (hins : c.ins ∈ [Instr.cpy 1 1 a b e c.ext, .cpy2 1 1 a b e c.ext, .cpy3 1 1 a b e c.ext, .cpf 1 a b e c.ext]) : CopyGoes s c := by
  obtain ⟨hengine, hmember, -, -⟩ := strided_member hins
  simp only [List.mem_cons, List.not_mem_nil, or_false] at hmember
  exact ⟨h, hengine, by omega, by simp [hpar]⟩

theorem strided_ends (hpar : c.par = [(run : Int), n1, n2, ss1, ds1, ss2, ds2])
    (hins : c.ins ∈ [Instr.cpy 1 1 a b e c.ext, .cpy2 1 1 a b e c.ext, .cpy3 1 1 a b e c.ext, .cpf 1 a b e c.ext]) :
    CopyEnds c ↔ run * n1 * n2 ≤ c.off := by
  obtain ⟨-, hmember, -, -⟩ := strided_member hins
  simp only [List.mem_cons, List.not_mem_nil, or_false] at hmember
  have htotal : c.total = run * n1 * n2 := by
    unfold Cmd.total
    split
    · omega
    · omega
    · simp [Cmd.parN, hpar]
  rw [CopyEnds, if_neg (by omega), htotal]

theorem strided_moves (h : Goes s c) (hpar : c.par = [(run : Int), n1, n2, ss1, ds1, ss2, ds2])
    (hins : c.ins ∈ [Instr.cpy 1 1 a b e c.ext, .cpy2 1 1 a b e c.ext, .cpy3 1 1 a b e c.ext, .cpf 1 a b e c.ext])
    (hleft : c.off < run * n1 * n2) :
    MovesPiece s c (c.ins = .cpf 1 a b e c.ext)
      (c.v2.toNat + (c.off / run / n1 : Nat) * ss2 + (c.off / run % n1 : Nat) * ss1 + (c.off % run : Nat))
      (c.v1.toNat + (c.off / run / n1 : Nat) * ds2 + (c.off / run % n1 : Nat) * ds1 + (c.off % run : Nat)) (run - c.off % run) := by
  obtain ⟨-, hmember, hsides, hfill⟩ := strided_member hins
  simp only [List.mem_cons, List.not_mem_nil, or_false] at hmember
  have hgoes := strided_goes h hpar hins
  have hend : ¬ CopyEnds c := by rw [strided_ends hpar hins]; omega
  have hnext : nextPiece s c = s.movePiece c
      (c.v2.toNat + (c.off / run / n1 : Nat) * ss2 + (c.off / run % n1 : Nat) * ss1 + (c.off % run : Nat))
      (c.v1.toNat + (c.off / run / n1 : Nat) * ds2 + (c.off / run % n1 : Nat) * ds1 + (c.off % run : Nat)) (run - c.off % run)
      (c.off / run) := by
    rw [nextPiece, if_neg (by omega), if_neg (by omega)]
    simp only [State.stridedPiece, Cmd.parN, hpar]
    rfl
  refine movesPiece_of_moved h.2.1 fun hdst hsrc => ?_
  by_cases hcpf : c.ins = .cpf 1 a b e c.ext
  · rw [decide_eq_true hcpf] at hdst ⊢
    obtain ⟨t, ht, hmoved⟩ := movePiece_fill (Prod.ext (hfill.2 hcpf) hsides) h.1 hdst (c.off / run)
    exact ⟨t, exec_copy_piece hgoes hend (hnext.trans ht), hmoved⟩
  · rw [decide_eq_false hcpf] at hdst hsrc ⊢
    obtain ⟨hsrc, hfresh⟩ := hsrc rfl
    obtain ⟨t, ht, hmoved⟩ := movePiece_copy (fun h6 => hcpf (hfill.1 h6)) hsides h.1 hdst hsrc hfresh (c.off / run)
    exact ⟨t, exec_copy_piece hgoes hend (hnext.trans ht), hmoved⟩

end

/-! ### CPG and CPS -/

section
variable {s : State} {c : Cmd} {a b e : BitVec 5} {esize count list : Nat} {stride : Int}

/-- The members of the indexed copies between slices. -/
theorem indexed_member (hins : c.ins ∈ [Instr.cpg 1 1 a b e c.ext, .cps 1 1 a b e c.ext]) :
    engineOf c.ins = 1 ∧ (cpMember c.ins).2 = (true, true) ∧ ((cpMember c.ins).1 = 4 ∨ (cpMember c.ins).1 = 5) ∧
      ((cpMember c.ins).1 = 4 ↔ c.ins = .cpg 1 1 a b e c.ext) := by
  simp only [List.mem_cons, List.not_mem_nil, or_false] at hins
  rcases hins with hins | hins <;> rw [hins] <;> simp [engineOf, cpMember]

theorem indexed_goes (h : Goes s c) (hpar : c.par = [(esize : Int), count, list, stride])
    (hins : c.ins ∈ [Instr.cpg 1 1 a b e c.ext, .cps 1 1 a b e c.ext]) : CopyGoes s c := by
  obtain ⟨hengine, -, hmember, -⟩ := indexed_member hins
  exact ⟨h, hengine, by omega, by simp [hpar]⟩

theorem indexed_ends (hpar : c.par = [(esize : Int), count, list, stride])
    (hins : c.ins ∈ [Instr.cpg 1 1 a b e c.ext, .cps 1 1 a b e c.ext]) : CopyEnds c ↔ esize * count ≤ c.off := by
  obtain ⟨-, -, hm, -⟩ := indexed_member hins
  have htotal : c.total = esize * count := by rcases hm with hm | hm <;> simp [Cmd.total, hm, Cmd.parN, hpar]
  rw [CopyEnds, if_neg (by omega), htotal]

/-- The command with the index of the element that it has come to (R133). -/
def withIndex (s : State) (c : Cmd) (list j : Nat) : Cmd :=
  { c with par := c.par.take 4 ++ [(j : Int) + 1, (leNat (s.bytes .scratch (list + 4 * j) 4) : Int)] }

theorem indexOf_read (hpar : c.par = [(esize : Int), count, list, stride]) (j : Nat) (hin : Within s c (list + 4 * j : Nat) 4) :
    s.indexOf c j = .ok (s.setCmd (withIndex s c list j)) (withIndex s c list j) := by
  have hnone : ¬ c.par.getD 4 0 = (j : Int) + 1 := by
    rw [hpar]
    simp only [List.getD_cons_succ, List.getD_nil]
    omega
  have hlist : c.parN 2 = list := by simp [Cmd.parN, hpar]
  rw [State.indexOf, if_neg hnone, hlist, readPiece_within hin]
  rfl

/-- A piece of an element whose index has been read and whose bytes lie in a window. -/
theorem indexedPiece_read {t : State} {x : Cmd} {elem : Int} (hsides : (cpMember c.ins).2 = (true, true))
    (hread : s.indexOf c (c.off / c.parN 0) = .ok t x)
    (helem : elem = (if (cpMember c.ins).1 = 4 then (x.v2.toNat : Int) else x.v1.toNat) + x.par.getD 5 0 * x.par.getD 3 0)
    (hextent : t.extentOk x (elem, c.parN 0) = true) :
    let j := c.off / c.parN 0
    let at' := c.off % c.parN 0
    s.indexedPiece c =
      if (cpMember c.ins).1 = 4 then t.movePiece x (elem + at') (x.v1.toNat + j * c.parN 0 + at') (c.parN 0 - at') j
      else t.movePiece x (x.v2.toNat + j * c.parN 0 + at') (elem + at') (c.parN 0 - at') j := by
  intro j at'
  simp only [State.indexedPiece, hread, hsides, ← helem, hextent, ite_self, Bool.not_true, Bool.and_false, Bool.false_eq_true, if_false]
  rfl

/-- A piece of an element, once its index has been read. -/
theorem indexed_piece (h : Goes s c) (hpar : c.par = [(esize : Int), count, list, stride])
    (hins : c.ins ∈ [Instr.cpg 1 1 a b e c.ext, .cps 1 1 a b e c.ext]) (hleft : c.off < esize * count) {src dst : Int} {left j : Nat}
    (hnext : nextPiece s c = (s.setCmd (withIndex s c list j)).movePiece (withIndex s c list j) src dst left j) :
    MovesPiece s c false src dst left := by
  obtain ⟨-, hsides, hm, -⟩ := indexed_member hins
  have hend : ¬ CopyEnds c := by rw [indexed_ends hpar hins]; omega
  have hm6 : (cpMember c.ins).1 ≠ 6 := by omega
  have hcmd : (s.setCmd (withIndex s c list j)).cmd c.uid = some (withIndex s c list j) :=
    State.cmd_setCmd (c := withIndex s c list j) (Option.isSome_of_eq_some h.1)
  refine movesPiece_of_moved h.2.1 fun hdst hsrc => ?_
  obtain ⟨hsrc, hfresh⟩ := hsrc rfl
  obtain ⟨t, ht, hmoved⟩ := movePiece_copy (s := s.setCmd (withIndex s c list j)) (c := withIndex s c list j) hm6 hsides hcmd hdst hsrc
    hfresh j
  exact ⟨t, exec_copy_piece (indexed_goes h hpar hins) hend (hnext.trans ht), hmoved.mem, hmoved.slots, hmoved.cmd, hmoved.get⟩

theorem indexed_moves (h : Goes s c) (hpar : c.par = [(esize : Int), count, list, stride])
    (hins : c.ins ∈ [Instr.cpg 1 1 a b e c.ext, .cps 1 1 a b e c.ext]) (hleft : c.off < esize * count)
    (hindex : Within s c (list + 4 * (c.off / esize) : Nat) 4) :
    let gather := c.ins = .cpg 1 1 a b e c.ext
    let elem : Int := ((if gather then c.v2.toNat else c.v1.toNat : Nat) : Int) +
      leNat (s.bytes .scratch (list + 4 * (c.off / esize)) 4) * stride
    let flat : Int := ((if gather then c.v1.toNat else c.v2.toNat) + c.off / esize * esize + c.off % esize : Nat)
    0 ≤ elem → sliceOk elem.toNat esize = true → s.window (slotKey c.seqk) elem.toNat esize = true →
    if gather then MovesPiece s c false (elem + (c.off % esize : Nat)) flat (esize - c.off % esize)
    else MovesPiece s c false flat (elem + (c.off % esize : Nat)) (esize - c.off % esize) := by
  intro gather elem flat hpos hslice hwindow
  obtain ⟨-, hsides, hm, hfour⟩ := indexed_member hins
  have hsize : c.parN 0 = esize := by simp [Cmd.parN, hpar]
  have hread := indexOf_read hpar (c.off / esize) hindex
  have hextent : (s.setCmd (withIndex s c list (c.off / esize))).extentOk (withIndex s c list (c.off / esize)) (elem, esize) = true := by
    have hwindow' : (s.setCmd (withIndex s c list (c.off / esize))).window (slotKey c.seqk) elem.toNat esize = true := hwindow
    simp only [State.extentOk, hpos, hslice, decide_true, Bool.true_and]
    exact hwindow'
  have hindexed : nextPiece s c = s.indexedPiece c := by rw [nextPiece, if_neg (by omega), if_pos hm]
  have hvalue : (withIndex s c list (c.off / esize)).par.getD 5 0 * (withIndex s c list (c.off / esize)).par.getD 3 0 =
      leNat (s.bytes .scratch (list + 4 * (c.off / esize)) 4) * stride := by simp [withIndex, hpar]
  have hpiece := indexedPiece_read (elem := elem) hsides (hsize.symm ▸ hread)
    (by simp only [hsize, hvalue, elem, gather, hfour, Nat.cast_ite]; rfl) (hsize.symm ▸ hextent)
  simp only [hsize, hfour] at hpiece
  by_cases hg : gather
  · have hflat : flat = c.v1.toNat + (c.off / esize : Nat) * (esize : Int) + (c.off % esize : Nat) := by
      simp only [flat, if_pos hg, Nat.cast_add, Nat.cast_mul]
    rw [if_pos hg] at hpiece ⊢
    rw [hflat]
    exact indexed_piece h hpar hins hleft (hindexed.trans hpiece)
  · have hflat : flat = c.v2.toNat + (c.off / esize : Nat) * (esize : Int) + (c.off % esize : Nat) := by
      simp only [flat, if_neg hg, Nat.cast_add, Nat.cast_mul]
    rw [if_neg hg] at hpiece ⊢
    rw [hflat]
    exact indexed_piece h hpar hins hleft (hindexed.trans hpiece)

end

/-! ### CPM and CPQ -/

theorem cpm_sends {s : State} {c : Cmd} {a b e : BitVec 5} {ss : BitVec 1} {len handler user : Nat} (h : Goes s c)
    (hins : c.ins = .cpm ss a b e c.ext) (hpar : c.par = [(len : Int), 1, 1, 0, 0, 0, 0, (handler : Int), (user : Int)])
    (hlen : len ≤ c.off) (hroom : (s.core (c.v1.toNat / 2 ^ 23)).hq.length < 16) :
    Leads (.commandStart c.uid 1) s fun u => Done u c 0 ∧ u = { s with cores := u.cores, cmds := u.cmds } ∧
      ∀ j, u.core j = if j = c.v1.toNat / 2 ^ 23 then { s.core j with hq := (s.core j).hq ++
        [{ payload := c.v1, length := len, sender := c.seqk / 32, user := BitVec.ofNat 64 user, handler := BitVec.ofNat 64 handler }] }
      else s.core j := by
  have hm : cpMember c.ins = (7, true, decide (ss = 1)) := by rw [hins]; rfl
  have hgoes : CopyGoes s c := ⟨h, by rw [hins]; rfl, by simp [hm], by simp [hpar]⟩
  have hend : CopyEnds c := by
    rw [CopyEnds, hm]
    simpa [Cmd.total, hm, Cmd.parN, hpar] using hlen
  have hexec := exec_copy_ends hgoes hend 0
  simp only [hm, if_true, State.sendMessage, if_pos hroom] at hexec
  refine ⟨_, hexec, ?done, rfl, fun j => ?cores⟩
  case done =>
    exact done_complete (c' := c) (st := c.sent) 0 rfl h.1 h.2.2.1
  case cores =>
    rw [complete_core]
    by_cases hj : j = c.v1.toNat / 2 ^ 23
    · rw [if_pos hj, hj, State.modCore_core_self]
      simp [Cmd.parN, hpar, coreOf, BitVec.ofInt_natCast]
    · rw [if_neg hj, State.modCore_core_ne _ _ _ _ hj]

/-- The lines of a vector that lie in a window and verify are read in their order (R136). -/
theorem cpqLines_within {s : State} {c : Cmd} {j : Nat} (hside : (cpMember c.ins).2.2 = true)
    (hin : ∀ i < 4, Within s c (c.v2.toNat + 512 * j + 128 * i : Nat) 128) {n : Nat} (hn : n ≤ 4) (acc : List Byte) :
    s.cpqLines c j n acc =
      .ok s (acc ++ (List.range' (4 - n) n).flatMap fun i => s.bytes .scratch (c.v2.toNat + 512 * j + 128 * i) 128) := by
  induction n generalizing acc with
  | zero => simp [State.cpqLines]
  | succ n ih =>
    have hnext : 4 - (n + 1) + 1 = 4 - n := by omega
    have hfirst : 3 - n = 4 - (n + 1) := by omega
    have hplace : c.v2.toNat + (512 * j + 128 * (4 - (n + 1))) = c.v2.toNat + 512 * j + 128 * (4 - (n + 1)) := by omega
    have hread := readPiece_within (c := { c with off := 512 * j + 128 * (4 - (n + 1)) }) (hin (4 - (n + 1)) (by omega)) j
    simp only [State.cpqLines, hside, hfirst, hplace, hread]
    rw [ih (by omega), List.range'_succ, hnext, List.flatMap_cons, List.append_assoc]
    rfl

/-- The vector of 512 bytes at an address of the slices. -/
def vectorAt (s : State) (a : Nat) : List Byte := (List.range 4).flatMap fun i => s.bytes .scratch (a + 128 * i) 128

/-- A slot with a vector pushed into one of its queues. -/
def queued (q ticket : Nat) (v : List Byte) (x : Slot) : Slot :=
  { x with queues := Kv.put x.queues q (Kv.get [] x.queues q ++ [DqEntry.mk ticket (some v)]) }

/-- A vector has been pushed into a load queue of the command's slot, which stands at that vector. -/
def vectorPushed (s : State) (c : Cmd) (q j : Nat) (v : List Byte) : State :=
  (({ s with fresh := s.fresh + 1 } : State).modSlot (slotKey c.seqk) (queued q s.fresh v)).modCmd c.uid
    fun x => { x with off := 512 * j }

theorem cpqPiece_pushes {s : State} {c : Cmd} {q j : Nat} (hm : cpMember c.ins = (8, true, true)) (hq : cpqQueue c.ins = q)
    (hoff : c.off = 512 * j)
    (hloads : ∀ x ∈ (s.seq (slotKey c.seqk * 4)).loads, ∀ v w, x.op = .vload v w → v ≠ q)
    (hcmds : ∀ x ∈ s.cmds, slotKey x.seqk = slotKey c.seqk → cpqQueue x.ins = q → (cpMember x.ins).1 = 8 → x.phase ≠ .done →
      issuedBefore x c = false)
    (hroom : (Kv.get [] (s.slot (slotKey c.seqk)).queues q).length < 8)
    (hin : ∀ i < 4, Within s c (c.v2.toNat + 512 * j + 128 * i : Nat) 128) :
    s.cpqPiece c = .ok (vectorPushed s c q j (vectorAt s (c.v2.toNat + 512 * j))) 512 := by
  have hvector : c.off / 512 = j := by omega
  have hnocmd : (s.cmds.any fun x => decide (slotKey x.seqk = slotKey c.seqk) && decide ((cpMember x.ins).1 = 8) &&
      decide (cpqQueue x.ins = q) && decide (x.phase ≠ .done) && issuedBefore x c) = false := by
    rw [List.any_eq_false]
    intro x hx hall
    simp only [Bool.and_eq_true, decide_eq_true_eq] at hall
    obtain ⟨⟨⟨⟨hslot, hmember⟩, hqueue⟩, hphase⟩, hbefore⟩ := hall
    rw [hcmds x hx hslot hqueue hmember hphase] at hbefore
    exact Bool.false_ne_true hbefore
  have hlines : s.cpqLines c j 4 [] = .ok s (vectorAt s (c.v2.toNat + 512 * j)) := by
    rw [cpqLines_within (by rw [hm]) hin (le_refl 4), vectorAt, List.range_eq_range']
    rfl
  simp only [State.cpqPiece, hq, hvector, hnocmd, not_le.2 hroom, hlines, Bool.false_eq_true, if_false]
  refine if_neg fun hany => ?_
  obtain ⟨x, hx, hload⟩ := List.any_eq_true.1 hany
  split at hload
  next v w hop => exact hloads x hx v w hop (of_decide_eq_true hload)
  next => exact Bool.false_ne_true hload

theorem cpq_pushes {s : State} {c : Cmd} {b e : BitVec 5} {q : BitVec 2} {n j : Nat} (h : Goes s c)
    (hins : c.ins = .cpq 1 q b e c.ext) (hpar : c.par = [(n : Int)]) (hoff : c.off = 512 * j) (hj : j < n)
    (hpiece : s.cpqPiece c = .ok (vectorPushed s c q.toNat j (vectorAt s (c.v2.toNat + 512 * j))) 512) :
    Leads (.commandStart c.uid 1) s fun u => (u.cmd c.uid).map (·.off) = some (512 * (j + 1)) ∧
      u = { s with slots := u.slots, cmds := u.cmds, fresh := s.fresh + 1 } ∧
      ∀ k, u.slot k = if k = slotKey c.seqk then queued q.toNat s.fresh (vectorAt s (c.v2.toNat + 512 * j)) (s.slot k)
        else s.slot k := by
  have hm : cpMember c.ins = (8, true, true) := by rw [hins]; rfl
  have hgoes : CopyGoes s c := ⟨h, by rw [hins]; rfl, by simp [hm], by simp [hpar]⟩
  have hend : ¬ CopyEnds c := by
    rw [CopyEnds, hm, if_pos rfl, hoff]
    simp only [Cmd.parN, hpar, List.getD_cons_zero, Int.toNat_natCast]
    omega
  have hnext : nextPiece s c = s.cpqPiece c := by rw [nextPiece, hm, if_pos rfl]
  refine ⟨_, exec_copy_piece hgoes hend (hnext.trans hpiece), ?off, rfl, fun k => ?slots⟩
  case off =>
    have hpast := State.cmd_modCmd (vectorPushed s c q.toNat j (vectorAt s (c.v2.toNat + 512 * j))) c.uid
      (f := fun x => { x with off := x.off + 512 }) fun _ => rfl
    have hat := State.cmd_modCmd (({ s with fresh := s.fresh + 1 } : State).modSlot (slotKey c.seqk)
      (queued q.toNat s.fresh (vectorAt s (c.v2.toNat + 512 * j)))) c.uid (f := fun x => { x with off := 512 * j }) fun _ => rfl
    have hcmd : (({ s with fresh := s.fresh + 1 } : State).modSlot (slotKey c.seqk)
      (queued q.toNat s.fresh (vectorAt s (c.v2.toNat + 512 * j)))).cmd c.uid = some c := h.1
    rw [hpast, vectorPushed, hat, hcmd]
    rfl
  case slots =>
    change (({ s with fresh := s.fresh + 1 } : State).modSlot (slotKey c.seqk) _).slot k = _
    by_cases hk : k = slotKey c.seqk
    · rw [if_pos hk, hk, State.modSlot_slot_self]
      rfl
    · rw [if_neg hk, State.modSlot_slot_ne _ _ _ _ hk]
      rfl

/-- Copies between slices, CPM's record and CPQ's vectors: every clause is the lemma of its member. -/
theorem copiesMoveTheirBytes : CopiesMoveTheirBytes := by
  intro s c a b e q h
  refine ⟨fun run n1 n2 ss1 ds1 ss2 ds2 hpar hins => ⟨strided_moves h hpar hins, fun hend m => ?strided⟩,
    fun esize count list stride hpar hins => ⟨indexed_moves h hpar hins, fun hend m => ?indexed⟩,
    fun len handler user ss hins hpar => cpm_sends h hins hpar, fun n j hins hpar hoff hj hloads hcmds hroom hin => ?cpq⟩
  case strided =>
    obtain ⟨-, hmember, -, -⟩ := strided_member hins
    simp only [List.mem_cons, List.not_mem_nil, or_false] at hmember
    rw [exec_copy_ends (strided_goes h hpar hins) ((strided_ends hpar hins).2 hend), if_neg (by omega)]
  case indexed =>
    obtain ⟨-, -, hmember, -⟩ := indexed_member hins
    rw [exec_copy_ends (indexed_goes h hpar hins) ((indexed_ends hpar hins).2 hend), if_neg (by omega)]
  case cpq =>
    exact cpq_pushes h hins hpar hoff hj
      (cpqPiece_pushes (by rw [hins]; rfl) (by rw [hins]; rfl) hoff hloads hcmds hroom hin)

end Sys2Proof.Claims
end

section
/-! SUPPORT. Lines carried between a slice and a tile with their check words, and TLD and TST (R95, R249, R250). -/

namespace Sys2Proof.Claims
open Sys2Proof.Machine

/-! ### Bytes of a line -/

theorem getD_slice (l : List Byte) (o n : Nat) {i : Nat} (h : i < n) : (slice l o n).getD i 0 = l.getD (o + i) 0 := by
  simp only [slice, zeros, List.getD_eq_getElem?_getD, List.getElem?_append, List.length_take, List.length_drop, List.getElem?_take,
    List.getElem?_drop, List.getElem?_replicate]
  by_cases hin : o + i < l.length
  · rw [if_pos (by omega), if_pos h]
  · rw [if_neg (by omega), List.getElem?_eq_none (by omega : l.length ≤ o + i)]
    split <;> rfl

@[simp] theorem slice_length (l : List Byte) (o n : Nat) : (slice l o n).length = n := by
  simp only [slice, zeros, List.length_append, List.length_take, List.length_drop, List.length_replicate]
  omega

/-- Bytes of a tile that lie in one line are those of the line. -/
theorem bytes_tile (s : State) {a n : Nat} (hn : 0 < n) (h : a % 128 + n ≤ 128) :
    s.bytes .tile a n = slice (s.tileLine (a / 128)) (a % 128) n := by
  have hone : (a + n + 127) / 128 - a / 128 = 1 := by omega
  simp only [State.bytes, hone, List.range_one, List.flatMap_cons, List.flatMap_nil, List.append_nil, Nat.add_zero]

theorem byteAt_tile (s : State) (y : Nat) : byteAt s .tile y = ((s.tileLine (y / 128)).getD (y % 128) 0).toNat := by
  have hbyte : s.bytes .tile y 1 = [(s.tileLine (y / 128)).getD (y % 128) 0] := by
    rw [bytes_tile s (by decide) (by omega)]
    refine List.ext_getElem (by simp) fun i hi _ => ?_
    have h0 : i = 0 := by simpa using hi
    have hget := getD_slice (s.tileLine (y / 128)) (y % 128) 1 (i := i) (by omega)
    rw [List.getD_eq_getElem _ _ hi] at hget
    subst h0
    rw [hget]
    rfl
  rw [byteAt, hbyte]
  simp [leNat]

@[simp] theorem bytes_line_length (s : State) (sp : Space) (a : Nat) (ha : a % 128 = 0) : (s.bytes sp a 128).length = 128 := by
  cases sp with
  | main => exact Mem.read_length _ _ _
  | scratch => exact Mem.read_length _ _ _
  | tile => rw [bytes_tile s (by decide) (by omega), slice_length]

theorem getD_bytes_line (s : State) (sp : Space) {a k : Nat} (ha : a % 128 = 0) (hk : k < 128) :
    ((s.bytes sp a 128).getD k 0).toNat = byteAt s sp (a + k) := by
  cases sp with
  | main => simp [State.bytes, byteAt, Mem.read_eq, leNat, hk]
  | scratch => simp [State.bytes, byteAt, Mem.read_eq, leNat, hk]
  | tile =>
    have hline : (a + k) / 128 = a / 128 := by omega
    have hoff : (a + k) % 128 = a % 128 + k := by omega
    rw [byteAt_tile, bytes_tile s (by decide) (by omega), getD_slice _ _ _ hk, hline, hoff]

/-! ### A line written whole, and a line carried -/

theorem tileLine_poke (s : State) {b : Nat} {bs : List Byte} (tag : BitVec 16) (hb : b % 128 = 0) (hbs : bs.length = 128) (k : Nat) :
    (s.poke .tile b bs tag).tileLine k = if k = b / 128 then bs else s.tileLine k := by
  have hone : (b + bs.length + 127) / 128 - b / 128 = 1 := by omega
  have hnew : slice (patch (s.tileLine (b / 128)) (b % 128) bs) 0 128 = bs := by
    refine List.ext_getElem (by simp [hbs]) fun i hi hi' => ?_
    have hget := getD_slice (patch (s.tileLine (b / 128)) (b % 128) bs) 0 128 (i := i) (by omega)
    rw [List.getD_eq_getElem _ _ (by simpa using hi)] at hget
    rw [hget, patch, hb, List.take_zero, List.nil_append]
    simp only [Nat.zero_add]
    rw [List.getD_append _ _ _ _ hi', List.getD_eq_getElem _ _ hi']
  have htiles : (s.poke .tile b bs tag).tiles = Kv.put s.tiles (b / 128) bs := by
    simp only [State.poke, State.put, hone, List.range_one, List.flatMap_cons, List.flatMap_nil, List.append_nil, Nat.add_zero,
      List.foldl_cons, List.foldl_nil, Nat.mul_zero, hnew]
  have hgrant : (s.poke .tile b bs tag).tileGrant = s.tileGrant := rfl
  simp only [State.tileLine, htiles, hgrant, Kv.listed_put]

/-- A whole line written to a space. -/
theorem byteAt_poke_line (s : State) (sp : Space) {b : Nat} {bs : List Byte} (tag : BitVec 16) (hb : b % 128 = 0)
    (hbs : bs.length = 128) (y : Nat) :
    byteAt (s.poke sp b bs tag) sp y = if b ≤ y ∧ y < b + 128 then (bs.getD (y - b) 0).toNat else byteAt s sp y := by
  cases sp with
  | main =>
    have hget := s.poke_main_get b bs tag y
    simp only [byteAt, State.bytes, Mem.read_eq, List.range_one, List.map_cons, List.map_nil, Nat.add_zero, leNat, Nat.mul_zero]
    rw [hget, hbs]
    split <;> rfl
  | scratch =>
    have hget := s.poke_scratch_get b bs tag y
    rw [byteAt_scratch, byteAt_scratch, hget, hbs]
    split <;> rfl
  | tile =>
    rw [byteAt_tile, byteAt_tile, tileLine_poke s tag hb hbs]
    by_cases hin : b ≤ y ∧ y < b + 128
    · have hline : y / 128 = b / 128 := by omega
      have hoff : y % 128 = y - b := by omega
      rw [if_pos hin, if_pos hline, hoff]
    · rw [if_neg hin, if_neg (by omega)]

theorem byteAt_withSpace (s u : State) {sp dst : Space} (h : sp ≠ dst) (y : Nat) : byteAt (s.withSpace u dst) sp y = byteAt s sp y :=
  match sp, dst with
  | .main, .scratch | .main, .tile | .scratch, .main | .scratch, .tile | .tile, .main | .tile, .scratch => rfl
  | .main, .main | .scratch, .scratch | .tile, .tile => absurd rfl h

theorem carryLine_frame (s : State) (sp : Space) (a : Nat) (dst : Space) (b : Nat) :
    s.carryLine sp a dst b = s.withSpace (s.carryLine sp a dst b) dst := by
  rw [State.carryLine]
  split <;> cases dst <;> rfl

/-- A line carried stands at its destination. -/
theorem byteAt_carryLine (s : State) (sp dst : Space) {a b : Nat} (ha : a % 128 = 0) (hb : b % 128 = 0) (y : Nat) :
    byteAt (s.carryLine sp a dst b) dst y = if b ≤ y ∧ y < b + 128 then byteAt s sp (a + (y - b)) else byteAt s dst y := by
  have haddr : a / 128 * 128 = a := by omega
  have hcarried : byteAt (s.carryLine sp a dst b) dst y = byteAt (s.poke dst b (s.bytes sp a 128) (s.tag sp a)) dst y := by
    rw [State.carryLine, haddr]
    split <;> cases dst <;> rfl
  rw [hcarried, byteAt_poke_line s dst _ hb (bytes_line_length s sp a ha)]
  by_cases hin : b ≤ y ∧ y < b + 128
  · rw [if_pos hin, if_pos hin, getD_bytes_line s sp ha (by omega)]
  · rw [if_neg hin, if_neg hin]

/-! ### The lines of TLD and TST -/

/-- The space that a move of lines reads, and the one that it writes. -/
def moveFrom (load : Bool) : Space := if load then .scratch else .tile
def moveTo (load : Bool) : Space := if load then .tile else .scratch

theorem moveFrom_ne (load : Bool) : moveFrom load ≠ moveTo load := by cases load <;> decide

/-- A line may be carried: TLD verifies its source, TST asks that it have no error that was not corrected (R95, R250). -/
def Carries (load : Bool) (s : State) (t a : Nat) : Prop :=
  if load then s.verifyLine .scratch a = none else lineKey .tile t ∉ s.ecc

theorem ecc_carryLine (s : State) (sp : Space) (a : Nat) (dst : Space) (b : Nat) {k : Nat} (h : k ∉ s.ecc) :
    k ∉ (s.carryLine sp a dst b).ecc := by
  have hpoke : (s.carryLine sp a dst b).ecc = (s.poke dst b (s.bytes sp (a / 128 * 128) 128) (s.tag sp a)).ecc := by
    rw [State.carryLine]
    split <;> rfl
  rw [hpoke]
  simp [State.poke, h]

/-- A line that is carried changes neither bytes nor verification of the space it comes from. -/
theorem carries_carryLine {load : Bool} {s : State} {t a x y : Nat} (h : Carries load s t a)
    (hline : load = true → s.verifyLine .scratch x = none) : Carries load (s.carryLine (moveFrom load) x (moveTo load) y) t a := by
  cases load with
  | false => exact ecc_carryLine s _ _ _ _ h
  | true =>
    obtain ⟨-, hbad⟩ := State.verifyLine_eq_none.1 (hline rfl)
    have hpoke : s.carryLine .scratch x .tile y = s.poke .tile y (s.bytes .scratch (x / 128 * 128) 128) (s.tag .scratch x) := by
      rw [State.carryLine, if_neg (by simp [hbad])]
    have hsound := s.sound_poke .tile y (s.bytes .scratch (x / 128 * 128) 128) (s.tag .scratch x) .scratch a h
    rw [← hpoke] at hsound
    exact hsound

/-- The address in the space read, and in the space written, of byte 0 of a move. -/
def moveSrc (load : Bool) (tile slice' : Nat) : Nat := if load then slice' else tile
def moveDst (load : Bool) (tile slice' : Nat) : Nat := if load then tile else slice'

theorem moveLines_succ {load : Bool} {s : State} {tile slice' i : Nat} (h : Carries load s (tile + 128 * i) (slice' + 128 * i)) (n : Nat) :
    s.moveLines load tile slice' i (n + 1) =
      (s.carryLine (moveFrom load) (moveSrc load tile slice' + 128 * i) (moveTo load) (moveDst load tile slice' + 128 * i)).moveLines
        load tile slice' (i + 1) n := by
  rw [State.moveLines]
  cases load with
  | false =>
    have hecc : lineKey .tile (tile + 128 * i) ∉ s.ecc := h
    simp [hecc, moveFrom, moveTo, moveSrc, moveDst]
  | true =>
    have hline : s.verifyLine .scratch (slice' + 128 * i) = none := h
    simp [hline, moveFrom, moveTo, moveSrc, moveDst]

theorem moveLines_carries (load : Bool) {tile slice' : Nat} (htile : tile % 128 = 0) (hslice : slice' % 128 = 0) (n : Nat) {s : State}
    {i : Nat} (h : ∀ k, i ≤ k → k < i + n → Carries load s (tile + 128 * k) (slice' + 128 * k)) :
    ∃ t, s.moveLines load tile slice' i n = (t, i + n, none) ∧ t = s.withSpace t (moveTo load) ∧
      ∀ y, byteAt t (moveTo load) y =
        if moveDst load tile slice' + 128 * i ≤ y ∧ y < moveDst load tile slice' + 128 * (i + n)
        then byteAt s (moveFrom load) (moveSrc load tile slice' + (y - moveDst load tile slice'))
        else byteAt s (moveTo load) y := by
  induction n generalizing s i with
  | zero =>
    refine ⟨s, rfl, by cases load <;> rfl, fun y => ?_⟩
    rw [if_neg (by omega)]
  | succ n ih =>
    have hfirst := h i (le_refl i) (by omega)
    have hsrc : (moveSrc load tile slice' + 128 * i) % 128 = 0 := by
      cases load <;> simp only [moveSrc, if_true, Bool.false_eq_true, if_false] <;> omega
    have hdst : (moveDst load tile slice' + 128 * i) % 128 = 0 := by
      cases load <;> simp only [moveDst, if_true, Bool.false_eq_true, if_false] <;> omega
    have hframe := carryLine_frame s (moveFrom load) (moveSrc load tile slice' + 128 * i) (moveTo load)
      (moveDst load tile slice' + 128 * i)
    obtain ⟨t, ht, htframe, hbytes⟩ := ih (s := s.carryLine (moveFrom load) (moveSrc load tile slice' + 128 * i) (moveTo load)
      (moveDst load tile slice' + 128 * i)) (i := i + 1) fun k hk hkn => carries_carryLine (h k (by omega) (by omega)) fun hl => by
        subst hl
        exact hfirst
    refine ⟨t, ?run, State.withSpace_trans hframe htframe, fun y => ?bytes⟩
    case run => rw [moveLines_succ hfirst, ht, Nat.add_right_comm]; rfl
    case bytes =>
      have hfrom (z : Nat) := byteAt_withSpace s (s.carryLine (moveFrom load) (moveSrc load tile slice' + 128 * i) (moveTo load)
        (moveDst load tile slice' + 128 * i)) (moveFrom_ne load) z
      rw [← hframe] at hfrom
      rw [hbytes, hfrom, byteAt_carryLine s _ _ hsrc hdst]
      generalize moveDst load tile slice' = d at *
      generalize moveSrc load tile slice' = a at *
      by_cases hrest : d + 128 * (i + 1) ≤ y ∧ y < d + 128 * (i + 1 + n)
      · rw [if_pos hrest, if_pos (by omega)]
      · rw [if_neg hrest]
        by_cases hline : d + 128 * i ≤ y ∧ y < d + 128 * i + 128
        · have hidx : a + 128 * i + (y - (d + 128 * i)) = a + (y - d) := by omega
          rw [if_pos hline, if_pos (by omega), hidx]
        · rw [if_neg hline, if_neg (by omega)]

end Sys2Proof.Claims
end

section
/-! SUPPORT. The moves of TMOV in the words of the statement (R249, R250), and the proof of O34. -/

namespace Sys2Proof.Claims
open Sys2Proof.Machine

/-! ### A move that passes its checks -/

/-- A move run whole, which changes no slot and no command. -/
theorem tmov_runs {s t : State} {c : Cmd} {k : Nat} (h : Starts s c) (hengine : engineOf c.ins = 4)
    (hcheck : s.tmovCheck (slotKey c.seqk) (tmovParts c.ins).1 (tmovParts c.ins).2 c.v1 c.v2 c.v3 = none)
    (hrun : s.tmovRun (slotKey c.seqk) (tmovParts c.ins).1 (tmovParts c.ins).2 c.v1 c.v2 c.v3 c.seed c.num.toNat = (t, k, none))
    (hslots : t.slots = s.slots) (hcmds : t.cmds = s.cmds) :
    exec (.commandStart c.uid 1) s = .next (t.complete c 0) ∧ Done (t.complete c 0) c 0 := by
  have hphase := phase_of_starts h
  have hforce := forceCmd_starts h (s.tmovFeet (slotKey c.seqk) (tmovParts c.ins).1 (tmovParts c.ins).2 c.v1 c.v2 c.v3)
    (if (tmovParts c.ins).1 = 2 then
      [⟨.tile, s.tileAddr (slotKey c.seqk) (tmovParts c.ins).2 c.v2.toNat, c.v3.toNat, false⟩]
    else if 3 ≤ (tmovParts c.ins).1 then [s.accFoot (slotKey c.seqk) (tmovParts c.ins).2 (decide ((tmovParts c.ins).1 = 3))] else []) []
  have hmove : s.runCmd c 1 = t.complete c 0 := by
    rw [State.runCmd, hengine]
    simp only [State.runTmov, hphase, reduceCtorEq, if_false, hcheck, hforce, hrun]
  refine ⟨exec_commandStart_starts h hmove ?_, ?_⟩
  · change (t.slot (slotKey c.seqk)).mode = 0
    rw [State.slot, hslots]
    exact mode_of_starts h
  · have hcmd : t.cmd c.uid = some c := by
      rw [State.cmd, hcmds]
      exact cmd_of_starts h
    exact done_complete (c' := c) (st := c.sent) 0 rfl hcmd (failed_of_starts h)

/-! ### TLD and TST -/

/-- The operands of TLD and TST pass their checks (R249, R250). -/
def LinesOk (s : State) (c : Cmd) (lit : Nat) : Prop :=
  lit < (s.slot (slotKey c.seqk)).tmap.length ∧ c.v2.toNat + c.v3.toNat ≤ 32768 ∧ c.v1.toNat % 128 = 0 ∧ c.v2.toNat % 128 = 0 ∧
    c.v3.toNat % 128 = 0 ∧ 128 ≤ c.v3.toNat ∧ sliceOk c.v1.toNat c.v3.toNat = true ∧
    s.window (slotKey c.seqk) c.v1.toNat c.v3.toNat = true

theorem tmovCheck_lines {s : State} {c : Cmd} {member lit : Nat} (hmember : member ≤ 2) (h : LinesOk s c lit) :
    s.tmovCheck (slotKey c.seqk) member lit c.v1 c.v2 c.v3 = none := by
  obtain ⟨htile, hsize, hslice, hoff, hlen, hpos, hok, hwindow⟩ := h
  have h2 : ¬ ((s.slot (slotKey c.seqk)).tmap.length ≤ lit ∨ 32768 < c.v2.toNat + c.v3.toNat) := by omega
  have h3 : ¬ (c.v1.toNat % 128 ≠ 0 ∨ sliceOk c.v1.toNat c.v3.toNat = false ∨
      s.window (slotKey c.seqk) c.v1.toNat c.v3.toNat = false) := by simp [hslice, hok, hwindow]
  have h10 : ¬ (c.v2.toNat % 128 ≠ 0 ∨ c.v3.toNat % 128 ≠ 0 ∨ c.v3.toNat < 128) := by omega
  simp only [State.tmovCheck, if_pos hmember, if_neg h2, if_neg h3, if_neg h10]

/-- The lines of a TLD or TST that passes its checks, each of which may be carried, stand at their destination. -/
theorem lines_moved {s : State} {c : Cmd} {load : Bool} {lit : Nat} (h : Starts s c) (hengine : engineOf c.ins = 4)
    (hparts : tmovParts c.ins = (if load then 1 else 2, lit)) (hok : LinesOk s c lit)
    (hgood : ∀ k < c.v3.toNat / 128, Carries load s (s.tileAddr (slotKey c.seqk) lit c.v2.toNat + 128 * k) (c.v1.toNat + 128 * k)) :
    let src := moveSrc load (s.tileAddr (slotKey c.seqk) lit c.v2.toNat) c.v1.toNat
    let dst := moveDst load (s.tileAddr (slotKey c.seqk) lit c.v2.toNat) c.v1.toNat
    ∃ t, exec (.commandStart c.uid 1) s = .next (t.complete c 0) ∧ Done (t.complete c 0) c 0 ∧ t = s.withSpace t (moveTo load) ∧
      ∀ y, byteAt t (moveTo load) y =
        if dst ≤ y ∧ y < dst + c.v3.toNat then byteAt s (moveFrom load) (src + (y - dst)) else byteAt s (moveTo load) y := by
  intro src dst
  have hcheck : s.tmovCheck (slotKey c.seqk) (tmovParts c.ins).1 (tmovParts c.ins).2 c.v1 c.v2 c.v3 = none := by
    rw [hparts]
    exact tmovCheck_lines (by dsimp only; split <;> decide) hok
  obtain ⟨htile, hsize, hslice, hoff, hlen, hpos, -⟩ := hok
  have haligned : s.tileAddr (slotKey c.seqk) lit c.v2.toNat % 128 = 0 := by rw [State.tileAddr]; omega
  obtain ⟨t, ht, hframe, hbytes⟩ := moveLines_carries load haligned hslice (c.v3.toNat / 128) (s := s) (i := 0)
    fun k _ hk => hgood k (by omega)
  have hall : 128 * (0 + c.v3.toNat / 128) = c.v3.toNat := by omega
  simp only [hall, Nat.mul_zero, Nat.add_zero] at hbytes
  have hrun : s.tmovRun (slotKey c.seqk) (tmovParts c.ins).1 (tmovParts c.ins).2 c.v1 c.v2 c.v3 c.seed c.num.toNat =
      (t, 0 + c.v3.toNat / 128, none) := by
    rw [State.tmovRun, hparts]
    cases load <;> exact ht
  obtain ⟨hexec, hdone⟩ := tmov_runs h hengine hcheck hrun (by rw [hframe]; cases load <;> rfl) (by rw [hframe]; cases load <;> rfl)
  exact ⟨t, hexec, hdone, hframe, hbytes⟩

theorem tld_carries {s : State} {c : Cmd} {n : BitVec 3} {a b e : BitVec 5} (h : Starts s c) (hins : c.ins = .tld n a b e c.ext)
    (hok : LinesOk s c n.toNat) (hv : s.verify .scratch c.v1.toNat c.v3.toNat = none) :
    let at' := s.tileAddr (slotKey c.seqk) n.toNat c.v2.toNat
    Leads (.commandStart c.uid 1) s fun u => Done u c 0 ∧ u.mem = s.mem ∧ u.scratch = s.scratch ∧ u.accs = s.accs ∧
      ∀ y, byteAt u .tile y =
        if at' ≤ y ∧ y < at' + c.v3.toNat then byteAt s .scratch (c.v1.toNat + (y - at')) else byteAt s .tile y := by
  intro at'
  obtain ⟨t, hexec, hdone, hframe, hbytes⟩ := lines_moved (load := true) h (by rw [hins]; rfl) (by rw [hins]; rfl) hok
    fun k hk => State.verifyLine_of_verify hv (by omega) (by omega)
  have hmem : t.mem = s.mem := by rw [hframe]; rfl
  have hscratch : t.scratch = s.scratch := by rw [hframe]; rfl
  have haccs : t.accs = s.accs := by rw [hframe]; rfl
  exact ⟨_, hexec, hdone, hmem, hscratch, haccs, hbytes⟩

theorem tst_carries {s : State} {c : Cmd} {n : BitVec 3} {a b e : BitVec 5} (h : Starts s c) (hins : c.ins = .tst n a b e c.ext)
    (hok : LinesOk s c n.toNat)
    (hecc : ∀ i < c.v3.toNat / 128, lineKey .tile (s.tileAddr (slotKey c.seqk) n.toNat c.v2.toNat + 128 * i) ∉ s.ecc) :
    let at' := s.tileAddr (slotKey c.seqk) n.toNat c.v2.toNat
    Leads (.commandStart c.uid 1) s fun u => Done u c 0 ∧ u.mem = s.mem ∧ u.accs = s.accs ∧
      (∀ y, byteAt u .tile y = byteAt s .tile y) ∧
      ∀ y, byteAt u .scratch y =
        if c.v1.toNat ≤ y ∧ y < c.v1.toNat + c.v3.toNat then byteAt s .tile (at' + (y - c.v1.toNat)) else byteAt s .scratch y := by
  intro at'
  obtain ⟨t, hexec, hdone, hframe, hbytes⟩ := lines_moved (load := false) h (by rw [hins]; rfl) (by rw [hins]; rfl) hok hecc
  have htile (y : Nat) : byteAt t .tile y = byteAt s .tile y := by
    rw [hframe]
    exact byteAt_withSpace s t (moveFrom_ne false) y
  have hmem : t.mem = s.mem := by rw [hframe]; rfl
  have haccs : t.accs = s.accs := by rw [hframe]; rfl
  exact ⟨_, hexec, hdone, hmem, haccs, htile, hbytes⟩

/-! ### AFILL -/

/-- A row of an accumulator with words in some of its columns. -/
def filledRow (row : List (BitVec 32)) (col0 cols : Nat) (d : List Byte) : List (BitVec 32) :=
  row.mapIdx fun j x => if col0 ≤ j ∧ j < col0 + cols then BitVec.ofNat 32 (leAt d (4 * (j - col0)) 4) else x

theorem getD_filledRow (row : List (BitVec 32)) (col0 cols : Nat) (d : List Byte) {k : Nat} (hk : k < row.length) :
    (filledRow row col0 cols d).getD k 0 =
      if col0 ≤ k ∧ k < col0 + cols then BitVec.ofNat 32 (leAt d (4 * (k - col0)) 4) else row.getD k 0 := by
  simp [filledRow, hk]

theorem accRow_setAccRow (s : State) (sk acc row r : Nat) (l : List (BitVec 32)) :
    (s.setAccRow sk acc row l).accRow sk acc r = if r = row then l else s.accRow sk acc r := by
  have hkey : s.accKey sk acc r = s.accKey sk acc row ↔ r = row := by simp only [State.accKey]; omega
  have hkey' : (s.setAccRow sk acc row l).accKey sk acc r = s.accKey sk acc r := rfl
  have haccs : (s.setAccRow sk acc row l).accs = Kv.put s.accs (s.accKey sk acc row) l := rfl
  have hgrant : (s.setAccRow sk acc row l).accGrant = s.accGrant := rfl
  simp only [State.accRow, hkey', haccs, hgrant, Kv.listed_put, hkey]

theorem fillRows_verified {sk acc row0 col0 cols src pitch : Nat} (n : Nat) {s : State} {i : Nat}
    (h : ∀ k, i ≤ k → k < i + n → s.verify .scratch (src + k * pitch) (4 * cols) = none) :
    ∃ t, s.fillRows sk acc row0 col0 cols src pitch i n = (t, i + n, none) ∧ t = { s with accs := t.accs } ∧
      ∀ r, t.accRow sk acc r = if row0 + i ≤ r ∧ r < row0 + (i + n)
        then filledRow (s.accRow sk acc r) col0 cols (s.bytes .scratch (src + (r - row0) * pitch) (4 * cols))
        else s.accRow sk acc r := by
  induction n generalizing s i with
  | zero =>
    refine ⟨s, rfl, rfl, fun r => ?_⟩
    rw [if_neg (by omega)]
  | succ n ih =>
    have hfirst := h i (le_refl i) (by omega)
    obtain ⟨t, ht, hframe, hrows⟩ := ih (s := s.setAccRow sk acc (row0 + i) (filledRow (s.accRow sk acc (row0 + i)) col0 cols
      (s.bytes .scratch (src + i * pitch) (4 * cols)))) (i := i + 1) fun k hk hkn => h k (by omega) (by omega)
    refine ⟨t, ?run, hframe, fun r => ?rows⟩
    case run =>
      simp only [State.fillRows, hfirst, Option.elim_none]
      rw [Nat.add_right_comm] at ht
      exact ht
    case rows =>
      rw [hrows, accRow_setAccRow]
      by_cases hr : r = row0 + i
      · subst hr
        have hidx : row0 + i - row0 = i := by omega
        rw [if_neg (by omega), if_pos rfl, if_pos (by omega), hidx]
      · rw [if_neg hr]
        by_cases hin : row0 + (i + 1) ≤ r ∧ r < row0 + (i + 1 + n)
        · rw [if_pos hin, if_pos (by omega)]
          rfl
        · rw [if_neg hin, if_neg (by omega)]

theorem bits_low (w : Word) : bits w 0 7 = w.toNat % 2 ^ 7 := by rw [bits, Nat.pow_zero, Nat.div_one]

/-- A window word without a fault names a window that lies in the accumulator (R249). -/
theorem window_inside {w : Word} (h : windowBad w = false) :
    0 < w.toNat / 2 ^ 16 % 2 ^ 8 ∧ 0 < w.toNat / 2 ^ 24 % 2 ^ 8 ∧ w.toNat % 2 ^ 7 + w.toNat / 2 ^ 16 % 2 ^ 8 ≤ 128 ∧
      w.toNat / 2 ^ 8 % 2 ^ 7 + w.toNat / 2 ^ 24 % 2 ^ 8 ≤ 128 := by
  simp only [windowBad, Bool.or_eq_false_iff] at h
  obtain ⟨⟨⟨⟨-, hrows⟩, hcols⟩, hrow⟩, hcol⟩ := h
  have hrow := of_decide_eq_false hrow
  rw [bits_low] at hrow
  exact ⟨Nat.pos_of_ne_zero (of_decide_eq_false hrows), Nat.pos_of_ne_zero (of_decide_eq_false hcols), not_lt.1 hrow,
    not_lt.1 (of_decide_eq_false hcol)⟩

/-- The rows of an AFILL's source are the slot's, aligned, and verify. -/
def FillSource (s : State) (c : Cmd) : Prop :=
  ∀ i < c.v2.toNat / 2 ^ 16 % 2 ^ 8, (c.v1.toNat + i * c.v3.toNat) % 4 = 0 ∧
    sliceOk (c.v1.toNat + i * c.v3.toNat) (4 * (c.v2.toNat / 2 ^ 24 % 2 ^ 8)) = true ∧
    s.window (slotKey c.seqk) (c.v1.toNat + i * c.v3.toNat) (4 * (c.v2.toNat / 2 ^ 24 % 2 ^ 8)) = true ∧
    s.verify .scratch (c.v1.toNat + i * c.v3.toNat) (4 * (c.v2.toNat / 2 ^ 24 % 2 ^ 8)) = none

theorem tmovCheck_fill {s : State} {c : Cmd} {lit : Nat} (hlit : lit < (s.slot (slotKey c.seqk)).amap.length)
    (hwin : windowBad c.v2 = false) (hpitch : c.v3.toNat % 4 = 0) (hsrc : FillSource s c) :
    s.tmovCheck (slotKey c.seqk) 3 lit c.v1 c.v2 c.v3 = none := by
  have hrows : s.rowsBad (slotKey c.seqk) c.v1.toNat c.v3.toNat (bits c.v2 16 8) (4 * bits c.v2 24 8) 4 = none := by
    rw [State.rowsBad, List.findSome?_eq_none_iff]
    intro i hi
    obtain ⟨haligned, hslice, hwindow, -⟩ := hsrc i (List.mem_range.1 hi)
    refine if_neg ?_
    simp only [bits, haligned, hslice, hwindow, ne_eq, not_true_eq_false, Bool.true_eq_false, or_self, not_false_eq_true]
  simp only [State.tmovCheck, not_le.2 hlit, hrows, hpitch, hwin]
  rfl

theorem afill_fills {s : State} {c : Cmd} {m : BitVec 2} {a b e : BitVec 5} (h : Starts s c) (hins : c.ins = .afill m a b e c.ext)
    (hlit : m.toNat < (s.slot (slotKey c.seqk)).amap.length) (hwin : windowBad c.v2 = false) (hpitch : c.v3.toNat % 4 = 0)
    (hsrc : FillSource s c) (hlen : ∀ r < 128, (s.accRow (slotKey c.seqk) m.toNat r).length = 128) :
    let row0 := c.v2.toNat % 2 ^ 7
    let col0 := c.v2.toNat / 2 ^ 8 % 2 ^ 7
    let rows := c.v2.toNat / 2 ^ 16 % 2 ^ 8
    let cols := c.v2.toNat / 2 ^ 24 % 2 ^ 8
    let here (i : Nat) : Nat := c.v1.toNat + i * c.v3.toNat
    Leads (.commandStart c.uid 1) s fun u => Done u c 0 ∧ u.mem = s.mem ∧ u.scratch = s.scratch ∧
      ∀ r < 128, ∀ k < 128, (u.accRow (slotKey c.seqk) m.toNat r).getD k 0 =
        if row0 ≤ r ∧ r < row0 + rows ∧ col0 ≤ k ∧ k < col0 + cols then
          BitVec.ofNat 32 (leNat (s.bytes .scratch (here (r - row0) + 4 * (k - col0)) 4))
        else (s.accRow (slotKey c.seqk) m.toNat r).getD k 0 := by
  intro row0 col0 rows cols here
  have hparts : tmovParts c.ins = (3, m.toNat) := by rw [hins]; rfl
  have hcheck : s.tmovCheck (slotKey c.seqk) (tmovParts c.ins).1 (tmovParts c.ins).2 c.v1 c.v2 c.v3 = none := by
    rw [hparts]
    exact tmovCheck_fill hlit hwin hpitch hsrc
  obtain ⟨t, ht, hframe, hrows⟩ := fillRows_verified (sk := slotKey c.seqk) (acc := m.toNat) (row0 := row0) (col0 := col0)
    (cols := cols) (src := c.v1.toNat) (pitch := c.v3.toNat) rows (s := s) (i := 0) fun k _ hk => by
      obtain ⟨-, -, -, hv⟩ := hsrc k (by omega)
      exact hv
  have hrun : s.tmovRun (slotKey c.seqk) (tmovParts c.ins).1 (tmovParts c.ins).2 c.v1 c.v2 c.v3 c.seed c.num.toNat =
      (t, 0 + rows, none) := by
    rw [State.tmovRun, hparts, bits_low]
    exact ht
  obtain ⟨hexec, hdone⟩ := tmov_runs h (by rw [hins]; rfl) hcheck hrun (by rw [hframe]) (by rw [hframe])
  have hmem : t.mem = s.mem := by rw [hframe]
  have hscratch : t.scratch = s.scratch := by rw [hframe]
  refine ⟨_, hexec, hdone, hmem, hscratch, fun r hr k hk => ?_⟩
  change (t.accRow (slotKey c.seqk) m.toNat r).getD k 0 = _
  rw [hrows, Nat.add_zero, Nat.zero_add]
  by_cases hrow : row0 ≤ r ∧ r < row0 + rows
  · rw [if_pos hrow, getD_filledRow _ _ _ _ (by rw [hlen r hr]; exact hk)]
    by_cases hcol : col0 ≤ k ∧ k < col0 + cols
    · rw [if_pos hcol, if_pos ⟨hrow.1, hrow.2, hcol.1, hcol.2⟩, State.bytes, leAt_read _ _ (by omega)]
      rfl
    · rw [if_neg hcol, if_neg fun hall => hcol hall.2.2]
  · rw [if_neg hrow, if_neg fun hall => hrow ⟨hall.1, hall.2.1⟩]

/-! ### ADRN in FP32 -/

/-- The little-endian bytes of a run of words. -/
def wordBytes (l : List (BitVec 32)) : List Byte := l.flatMap fun x => leBytes 4 x.toNat

@[simp] theorem wordBytes_length (l : List (BitVec 32)) : (wordBytes l).length = 4 * l.length := by
  simp [wordBytes, List.length_flatMap, Nat.mul_comm]

theorem leAt_wordBytes (l : List (BitVec 32)) {k : Nat} (h : k < l.length) : leAt (wordBytes l) (4 * k) 4 = (l.getD k 0).toNat := by
  induction l generalizing k with
  | nil => simp at h
  | cons x l ih =>
    cases k with
    | zero =>
      have hx := x.isLt
      rw [leAt, wordBytes, List.flatMap_cons, Nat.mul_zero, List.drop_zero, List.take_left' (leBytes_length 4 x.toNat), leNat_leBytes,
        Nat.mod_eq_of_lt (by omega)]
      rfl
    | succ k =>
      have hdrop : 4 * (k + 1) = (leBytes 4 x.toNat).length + 4 * k := by rw [leBytes_length]; omega
      rw [leAt, wordBytes, List.flatMap_cons, hdrop, List.drop_length_add_append]
      exact ih (by simpa using h)

theorem tmovCheck_drain {s : State} {c : Cmd} {lit : Nat} (hlit : lit < (s.slot (slotKey c.seqk)).amap.length)
    (hwin : windowBad c.v2 = false) (hrows : c.v2.toNat / 2 ^ 16 % 2 ^ 8 = 1) (hcfg : c.v3 = 0) (haligned : c.v1.toNat % 4 = 0)
    (hslice : sliceOk c.v1.toNat (4 * (c.v2.toNat / 2 ^ 24 % 2 ^ 8)) = true)
    (hwindow : s.window (slotKey c.seqk) c.v1.toNat (4 * (c.v2.toNat / 2 ^ 24 % 2 ^ 8)) = true) :
    s.tmovCheck (slotKey c.seqk) 4 lit c.v1 c.v2 c.v3 = none := by
  have hbytes : (adrnCfg (slotKey c.seqk) lit c.v1 c.v2 c.v3 0 0).rowBytes = 4 * (c.v2.toNat / 2 ^ 24 % 2 ^ 8) := by
    rw [hcfg, Nat.mul_comm]
    rfl
  have hsize : drainSize (adrnCfg (slotKey c.seqk) lit c.v1 c.v2 c.v3 0 0).dfmt = 4 := by
    rw [hcfg]
    rfl
  have hplace : s.drainBad (adrnCfg (slotKey c.seqk) lit c.v1 c.v2 c.v3 0 0) = none := by
    rw [State.drainBad, List.findSome?_eq_none_iff]
    intro i hi
    have hi : i < c.v2.toNat / 2 ^ 16 % 2 ^ 8 := List.mem_range.1 hi
    obtain rfl : i = 0 := by omega
    have haddr : (adrnCfg (slotKey c.seqk) lit c.v1 c.v2 c.v3 0 0).dst +
        (0 * (adrnCfg (slotKey c.seqk) lit c.v1 c.v2 c.v3 0 0).pitch : Nat) = c.v1.toNat := by
      rw [Nat.zero_mul]
      exact Int.add_zero _
    have hwindow' : s.window (adrnCfg (slotKey c.seqk) lit c.v1 c.v2 c.v3 0 0).sk c.v1.toNat
        (4 * (c.v2.toNat / 2 ^ 24 % 2 ^ 8)) = true := hwindow
    refine if_neg ?_
    simp only [haddr, hsize, hbytes, Int.toNat_natCast, haligned, hslice, hwindow']
    simp
  have hzero : bits c.v3 0 4 = 0 ∧ bits c.v3 4 2 = 0 ∧ bits c.v3 7 1 = 0 ∧ bits c.v3 14 2 = 0 ∧ bits c.v3 24 8 = 0 := by
    rw [hcfg]
    decide
  obtain ⟨h0, h4, h7, h14, h24⟩ := hzero
  rw [State.tmovCheck, if_neg (by decide), if_neg (not_le.2 hlit), if_neg (by decide)]
  simp only [hplace, hwin, h0, h4, h7, h14, h24]
  rfl

/-- A row drained in FP32 is its words as they stand: nothing is rounded, and nothing saturates (R241). -/
theorem row_fp32 {d : DrainCfg} (hfmt : d.dfmt = 0) (r : Nat) (xs : List (BitVec 32)) :
    (d.row r xs).1 = wordBytes ((xs.drop d.col0).take d.cols) ∧ (d.row r xs).2.2 = 0 := by
  have hplain (l : List (BitVec 32)) : (l.mapIdx fun i x =>
      if d.dfmt = 0 then (x.toNat, false) else roundF (drainFmt d.dfmt) (d.rm r (d.col0 + i)) (val32 x.toNat)) =
        l.map fun x => (x.toNat, false) := by
    refine List.ext_getElem (by simp) fun i _ _ => ?_
    simp [hfmt]
  have hno : ¬ 5 ≤ d.dfmt := by omega
  have hsize : drainSize d.dfmt = 4 := by rw [hfmt]; rfl
  rw [DrainCfg.row, if_neg hno]
  simp only [hplain, hsize, List.flatMap_map]
  refine ⟨rfl, ?_⟩
  rw [List.filter_map, List.length_map, List.length_eq_zero_iff]
  exact List.filter_eq_nil_iff.2 fun _ _ => Bool.false_ne_true

/-- One row drained in FP32, over lines that take it. -/
theorem drainRows_fp32 {s t : State} {d : DrainCfg} {i x : Nat} (hfmt : d.dfmt = 0) (hhisto : d.histo = false)
    (hto : (d.dst + i * d.pitch).toNat = x) {bs : List Byte}
    (hbs : wordBytes (((s.accRow d.sk d.acc (d.row0 + i)).drop d.col0).take d.cols) = bs)
    (ht : s.storeLines .scratch x bs (originTag 1 (d.sk / 8)) (originTag 5 (x / 2 ^ 23)) (pieces x bs.length) = (t, none)) :
    s.drainRows d i 1 = (t, none) := by
  obtain ⟨hbytes, hsats⟩ := row_fp32 hfmt (d.row0 + i) (s.accRow d.sk d.acc (d.row0 + i))
  have hcount : t.countSats d.sk d.tid 0 = t := by rw [State.countSats, if_pos (.inl rfl)]
  simp only [State.drainRows, hto, hbytes, hbs, ht, hsats, hcount, hhisto]
  rfl

theorem adrn_drains {s : State} {c : Cmd} {m : BitVec 2} {a b e : BitVec 5} (h : Starts s c) (hins : c.ins = .adrn m a b e c.ext)
    (hlit : m.toNat < (s.slot (slotKey c.seqk)).amap.length) (hwin : windowBad c.v2 = false)
    (hrows : c.v2.toNat / 2 ^ 16 % 2 ^ 8 = 1) (hcfg : c.v3 = 0) (haligned : c.v1.toNat % 4 = 0)
    (hslice : sliceOk c.v1.toNat (4 * (c.v2.toNat / 2 ^ 24 % 2 ^ 8)) = true)
    (hwindow : s.window (slotKey c.seqk) c.v1.toNat (4 * (c.v2.toNat / 2 ^ 24 % 2 ^ 8)) = true)
    (hv : s.verify .scratch c.v1.toNat (4 * (c.v2.toNat / 2 ^ 24 % 2 ^ 8)) = none)
    (hlen : (s.accRow (slotKey c.seqk) m.toNat (c.v2.toNat % 2 ^ 7)).length = 128) :
    let row0 := c.v2.toNat % 2 ^ 7
    let col0 := c.v2.toNat / 2 ^ 8 % 2 ^ 7
    let cols := c.v2.toNat / 2 ^ 24 % 2 ^ 8
    Leads (.commandStart c.uid 1) s fun u => Done u c 0 ∧ u.mem = s.mem ∧ u.accs = s.accs ∧ u.slots = s.slots ∧
      (∀ k < cols, leNat (u.bytes .scratch (c.v1.toNat + 4 * k) 4) =
        ((s.accRow (slotKey c.seqk) m.toNat row0).getD (col0 + k) 0).toNat) ∧
      ∀ y, y < c.v1.toNat ∨ c.v1.toNat + 4 * cols ≤ y → byteAt u .scratch y = byteAt s .scratch y := by
  intro row0 col0 cols
  obtain ⟨-, hcols, -, hcolumns⟩ := window_inside hwin
  have hparts : tmovParts c.ins = (4, m.toNat) := by rw [hins]; rfl
  have hcheck : s.tmovCheck (slotKey c.seqk) (tmovParts c.ins).1 (tmovParts c.ins).2 c.v1 c.v2 c.v3 = none := by
    rw [hparts]
    exact tmovCheck_drain hlit hwin hrows hcfg haligned hslice hwindow
  set bs := wordBytes (((s.accRow (slotKey c.seqk) m.toNat row0).drop col0).take cols) with hbs
  have hcount : (((s.accRow (slotKey c.seqk) m.toNat row0).drop col0).take cols).length = cols := by
    rw [List.length_take, List.length_drop, hlen]
    omega
  have hbytes : bs.length = 4 * cols := by rw [hbs, wordBytes_length, hcount]
  obtain ⟨t, ht, hwrote⟩ := State.storeLines_pieces (s := s) (sp := .scratch) (by decide) (a := c.v1.toNat) (bs := bs)
    (originTag 1 (slotKey c.seqk / 8)) (originTag 5 (c.v1.toNat / 2 ^ 23)) (by rw [← List.length_pos_iff, hbytes]; omega)
    (by rw [hbytes]; exact hv)
  have hframe := hwrote.frame
  have hto : ((adrnCfg (slotKey c.seqk) m.toNat c.v1 c.v2 c.v3 c.seed c.num.toNat).dst +
      (0 : Nat) * (adrnCfg (slotKey c.seqk) m.toNat c.v1 c.v2 c.v3 c.seed c.num.toNat).pitch).toNat = c.v1.toNat := by
    simp [adrnCfg]
  have hwords : wordBytes (((s.accRow (slotKey c.seqk) m.toNat (bits c.v2 0 7 + 0)).drop col0).take cols) = bs := by
    rw [bits_low]
    rfl
  have hrun : s.tmovRun (slotKey c.seqk) (tmovParts c.ins).1 (tmovParts c.ins).2 c.v1 c.v2 c.v3 c.seed c.num.toNat =
      (t, 1, none) := by
    have hone : (adrnCfg (slotKey c.seqk) m.toNat c.v1 c.v2 c.v3 c.seed c.num.toNat).rows = 1 := hrows
    have hdrain : s.drainRows (adrnCfg (slotKey c.seqk) m.toNat c.v1 c.v2 c.v3 c.seed c.num.toNat) 0 1 = (t, none) :=
      drainRows_fp32 (by rw [hcfg]; rfl) (by rw [hcfg]; rfl) hto hwords ht
    rw [State.tmovRun, hparts]
    simp only [Nat.reduceLeDiff, Nat.reduceEqDiff, if_false, hone, hdrain]
  obtain ⟨hexec, hdone⟩ := tmov_runs h (by rw [hins]; rfl) hcheck hrun (by rw [hframe]; rfl) (by rw [hframe]; rfl)
  have hmem : t.mem = s.mem := by rw [hframe]; rfl
  have haccs : t.accs = s.accs := by rw [hframe]; rfl
  have hslots : t.slots = s.slots := by rw [hframe]; rfl
  refine ⟨_, hexec, hdone, hmem, haccs, hslots, fun k hk => ?words, fun y hy => ?others⟩
  case words =>
    have hread := hwrote.read
    change leNat (Mem.read (t.cells .scratch) (c.v1.toNat + 4 * k) 4) = _
    rw [← leAt_read (t.cells .scratch) c.v1.toNat (n := bs.length) (by omega), hread, hbs, leAt_wordBytes _ (by omega)]
    simp [List.getD_eq_getElem?_getD, hk]
  case others =>
    have hout := hwrote.get_out (y := y) (by omega)
    rw [byteAt_scratch, byteAt_scratch]
    exact congrArg BitVec.toNat hout

/-! ### The obligation -/

theorem tileMovesCarryTheirBytes : TileMovesCarryTheirBytes := fun _ _ _ _ _ _ _ h =>
  ⟨fun hins hok hv => tld_carries h hins hok hv, fun hins hok hecc => tst_carries h hins hok hecc,
    fun hins hlit hwin hpitch hsrc hlen => afill_fills h hins hlit hwin hpitch hsrc hlen,
    fun hins hlit hwin hrows hcfg haligned hslice hwindow hv hlen =>
      adrn_drains h hins hlit hwin hrows hcfg haligned hslice hwindow hv hlen⟩

/-- Settles O34: TBLOAD by its checks and its words, copies piece by piece, and tile moves by lines, rows and words. -/
theorem tableLoadsWriteTheMicroStore : Obligations.TableLoadsWriteTheMicroStore := by
  unfold Obligations.TableLoadsWriteTheMicroStore
  exact ⟨copiesMoveTheirBytes, tileMovesCarryTheirBytes, fun s c d a b e n h hins =>
    ⟨tbload_loads h hins n, tbload_traps h hins n⟩⟩

end Sys2Proof.Claims
end

section
/-! SUPPORT. Contributions applied element by element at their home slice, and the traps of contributions (R140, R144). -/

namespace Sys2Proof.Claims
open Sys2Proof.Machine

/-! ### Elements of a slice -/

/-- Element `k`, of `w` bytes, from a slice address. -/
def elemAt (s : State) (x w k : Nat) : Nat := leNat (Mem.read s.scratch (x + k * w) w)

theorem leNat_bytes_scratch (s : State) (x w k : Nat) : leNat (s.bytes .scratch (x + k * w) w) = elemAt s x w k := rfl

theorem elemAt_congr {s t : State} {x w k : Nat}
    (h : ∀ b, x + k * w ≤ b → b < x + k * w + w → Mem.get t.scratch b = Mem.get s.scratch b) : elemAt t x w k = elemAt s x w k := by
  rw [elemAt, elemAt, Mem.read_eq, Mem.read_eq]
  refine congrArg leNat (List.map_congr_left fun i hi => h _ (by omega) ?_)
  have := List.mem_range.1 hi
  omega

theorem reduceBytes_pos (op : Nat) : 0 < reduceBytes op := by
  rw [reduceBytes]
  split <;> decide

@[simp] theorem leBytes_ne_nil (op x : Nat) : leBytes (reduceBytes op) x ≠ [] := by
  rw [← List.length_pos_iff, leBytes_length]
  exact reduceBytes_pos op

theorem leNat_leBytes_bits (w x : Nat) : leNat (leBytes w x) = x % 2 ^ (8 * w) := by rw [leNat_leBytes, Nat.pow_mul]

/-- An element combined and stored, over lines that verify (R140). -/
theorem storeSlice_wrote {s : State} {a op : Nat} (x src : Nat) (hv : s.verify .scratch a (reduceBytes op) = none) :
    ∃ t, s.storeSlice a (leBytes (reduceBytes op) x) src = .ok t ∧ s.Wrote t .scratch a (leBytes (reduceBytes op) x) :=
  State.storeAll_wrote (by decide) _ _ (leBytes_ne_nil op x) (by rw [leBytes_length]; exact hv)

/-- Elements `i` to `i + n - 1` applied: nothing but their bytes has changed, and each holds the combination of its old value with
its source, as the source stood before if no element applied before reached it, and as it stands after if none applied since did. -/
structure Combined (s t : State) (op a b n i : Nat) : Prop where
  frame : t = s.withSpace t .scratch
  others : ∀ y, y < a + i * reduceBytes op ∨ a + (i + n) * reduceBytes op ≤ y → Mem.get t.scratch y = Mem.get s.scratch y
  before : ∀ k, i ≤ k → k < i + n →
    (b + k * reduceBytes op + reduceBytes op ≤ a + i * reduceBytes op ∨ a + k * reduceBytes op ≤ b + k * reduceBytes op) →
    elemAt t a (reduceBytes op) k =
      reduceOp op (elemAt s a (reduceBytes op) k) (elemAt s b (reduceBytes op) k) % 2 ^ (8 * reduceBytes op)
  after : ∀ k, i ≤ k → k < i + n → b + k * reduceBytes op + reduceBytes op ≤ a + k * reduceBytes op →
    elemAt t a (reduceBytes op) k =
      reduceOp op (elemAt s a (reduceBytes op) k) (elemAt t b (reduceBytes op) k) % 2 ^ (8 * reduceBytes op)

theorem combined_zero (s : State) (op a b i : Nat) : Combined s s op a b 0 i :=
  ⟨rfl, fun _ _ => rfl, fun _ h h' => absurd h' (by omega), fun _ h h' => absurd h' (by omega)⟩

/-- One element stored, and the rest applied after it. -/
theorem combined_succ {s u t : State} {op a b n i : Nat}
    (hu : s.Wrote u .scratch (a + i * reduceBytes op)
      (leBytes (reduceBytes op) (reduceOp op (elemAt s a (reduceBytes op) i) (elemAt s b (reduceBytes op) i))))
    (ht : Combined u t op a b n (i + 1)) : Combined s t op a b (n + 1) i := by
  obtain ⟨hframe, hothers, hbefore, hafter⟩ := ht
  have hpos := reduceBytes_pos op
  have hend : (i + (n + 1)) * reduceBytes op = (i + 1 + n) * reduceBytes op := by rw [Nat.add_right_comm, Nat.add_assoc]
  have hstep : (i + 1) * reduceBytes op = i * reduceBytes op + reduceBytes op := Nat.succ_mul _ _
  have hle : (i + 1) * reduceBytes op ≤ (i + 1 + n) * reduceBytes op := Nat.mul_le_mul_right _ (by omega)
  have hsame {y : Nat} (hy : y < a + i * reduceBytes op ∨ a + i * reduceBytes op + reduceBytes op ≤ y) :
      Mem.get u.scratch y = Mem.get s.scratch y := hu.get_out (by rw [leBytes_length]; exact hy)
  have hfirst : elemAt t a (reduceBytes op) i =
      reduceOp op (elemAt s a (reduceBytes op) i) (elemAt s b (reduceBytes op) i) % 2 ^ (8 * reduceBytes op) := by
    have hread := hu.read
    rw [leBytes_length] at hread
    rw [elemAt_congr (s := u) fun y _ hy => hothers y (by omega), elemAt]
    change leNat (Mem.read (u.cells .scratch) _ _) = _
    rw [hread, leNat_leBytes_bits]
  refine ⟨State.withSpace_trans hu.frame hframe, fun y hy => ?others, fun k hk hkn hsrc => ?before, fun k hk hkn hsrc => ?after⟩
  case others => rw [hothers y (by omega), hsame (by omega)]
  case before =>
    rcases Nat.eq_or_lt_of_le hk with rfl | hik
    · exact hfirst
    · have hmul : (i + 1) * reduceBytes op ≤ k * reduceBytes op := Nat.mul_le_mul_right _ hik
      rw [hbefore k hik (by omega) (by omega), elemAt_congr (s := s) (t := u) (x := a) fun y hy _ => hsame (by omega),
        elemAt_congr (s := s) (t := u) (x := b) fun y hy hy' => hsame (by omega)]
  case after =>
    rcases Nat.eq_or_lt_of_le hk with rfl | hik
    · rw [hfirst, elemAt_congr (s := s) (t := t) (x := b) fun y hy hy' => by rw [hothers y (by omega), hsame (by omega)]]
    · have hmul : (i + 1) * reduceBytes op ≤ k * reduceBytes op := Nat.mul_le_mul_right _ hik
      rw [hafter k hik (by omega) hsrc, elemAt_congr (s := s) (t := u) (x := a) fun y hy _ => hsame (by omega)]

/-- Elements whose lines verify are applied in order, and the command is done (R140). -/
theorem applySlice_combines {c : Cmd} (n : Nat) {s : State} {i : Nat}
    (hsrc : ∀ k, i ≤ k → k < i + n →
      s.verify .scratch (c.v2.toNat + k * reduceBytes (cprOp c.ins).1) (reduceBytes (cprOp c.ins).1) = none)
    (hdst : ∀ k, i ≤ k → k < i + n →
      s.verify .scratch (c.v1.toNat + k * reduceBytes (cprOp c.ins).1) (reduceBytes (cprOp c.ins).1) = none) :
    ∃ t, s.applySlice c n i = t.complete { c with off := (i + n) * reduceBytes (cprOp c.ins).1 } 0 ∧
      Combined s t (cprOp c.ins).1 c.v1.toNat c.v2.toNat n i := by
  induction n generalizing s i with
  | zero => exact ⟨s, rfl, combined_zero ..⟩
  | succ n ih =>
    have hv := hdst i (le_refl i) (by omega)
    obtain ⟨u, hstore, hu⟩ := storeSlice_wrote (op := (cprOp c.ins).1)
      (reduceOp (cprOp c.ins).1 (elemAt s c.v1.toNat (reduceBytes (cprOp c.ins).1) i) (elemAt s c.v2.toNat (reduceBytes (cprOp c.ins).1) i))
      (coreOf c.seqk) hv
    have hpos := reduceBytes_pos (cprOp c.ins).1
    obtain ⟨t, ht, hcombined⟩ := ih (s := u) (i := i + 1)
      (fun k hk hkn => hu.sound.verify hpos (hsrc k (by omega) (by omega)))
      fun k hk hkn => hu.sound.verify hpos (hdst k (by omega) (by omega))
    refine ⟨t, ?_, combined_succ hu hcombined⟩
    have helem : s.cprElem c i = .ok (elemAt s c.v2.toNat (reduceBytes (cprOp c.ins).1) i) := by
      simp only [State.cprElem, hsrc i (le_refl i) (by omega)]
      rfl
    have hend : i + (n + 1) = i + 1 + n := by omega
    rw [State.applySlice]
    simp only [helem, hv, leNat_bytes_scratch, hstore]
    rw [hend, ← ht]

/-- A contribution without a table, over lines that verify, is applied (R140). -/
theorem applyCpr_combines {s : State} {c : Cmd} (hsrc : s.verify .scratch c.v2.toNat (c.parN 0 * reduceBytes (cprOp c.ins).1) = none)
    (hdst : s.verify .scratch c.v1.toNat (c.parN 0 * reduceBytes (cprOp c.ins).1) = none) :
    ∃ t, s.applyCpr c = t.complete { c with sent := 0, off := c.parN 0 * reduceBytes (cprOp c.ins).1 } 0 ∧
      Combined s t (cprOp c.ins).1 c.v1.toNat c.v2.toNat (c.parN 0) 0 := by
  have hpart {x : Nat} (hx : s.verify .scratch x (c.parN 0 * reduceBytes (cprOp c.ins).1) = none) {k : Nat} (hk : k < 0 + c.parN 0) :
      s.verify .scratch (x + k * reduceBytes (cprOp c.ins).1) (reduceBytes (cprOp c.ins).1) = none := by
    have hmul : (k + 1) * reduceBytes (cprOp c.ins).1 ≤ c.parN 0 * reduceBytes (cprOp c.ins).1 := Nat.mul_le_mul_right _ (by omega)
    rw [Nat.succ_mul] at hmul
    exact State.verify_part hx (reduceBytes_pos _) (by omega) (by omega)
  obtain ⟨t, ht, hcombined⟩ := applySlice_combines (c := { c with sent := 0 }) (c.parN 0) (s := s) (i := 0)
    (fun _ _ hk => hpart hsrc hk) fun _ _ hk => hpart hdst hk
  rw [Nat.zero_add] at ht
  exact ⟨t, ht, hcombined⟩

/-! ### Traps of a contribution to a slice (R144) -/

theorem sliceCpr_member {i : Instr} (h : sliceCpr i = true) : (cpMember i).1 = 0 := by
  simp only [sliceCpr, Bool.and_eq_true, decide_eq_true_eq] at h
  obtain ⟨⟨-, hmember⟩, -⟩ := h
  exact hmember

theorem trapCopy_traps {s : State} {c : Cmd} (hcpr : sliceCpr c.ins = true) (hsub : c.sub = none) (hc : (s.cmd c.uid).isSome = true)
    (status index addr : Nat) : CommandTraps s (s.trapCopy c status index addr) c (copyCode status) 1 (status + index * 256) :=
  commandTraps_trapCmd hsub hc rfl rfl rfl (by
    change BitVec.ofNat 32 (status + (cpMember c.ins).1 * 16 + index * 256) = _
    rw [sliceCpr_member hcpr, Nat.zero_mul, Nat.add_zero])

theorem trapCopyBad_traps {s : State} {c : Cmd} (hcpr : sliceCpr c.ins = true) (hsub : c.sub = none) (hc : (s.cmd c.uid).isSome = true)
    (b : BadLine) : CommandTraps s (s.trapCopyBad c 0 b) c 7 1 6 := by
  rw [State.trapCopyBad, trapCmd_of_sub_eq_none hsub, State.takeTrap, countSoft_frame, sliceCpr_member hcpr]
  exact ⟨State.cmd_setCmd (c := { c with failed := true }) hc, rfl, rfl, _, rfl, rfl, rfl, rfl, rfl, rfl⟩

end Sys2Proof.Claims
end

section
/-! SUPPORT. Contributions at their home: without a table, with one, admitted, held and refused (R139, R140). -/

namespace Sys2Proof.Claims
open Sys2Proof.Machine

/-! ### Rounds and their cursors -/

/-- Taking a round's table up keeps everything else. -/
theorem roundOf_frame {s t : State} {table : Nat} {l : List Nat} (h : s.roundOf table = (t, l)) : t = { s with rounds := t.rounds } := by
  rw [State.roundOf] at h
  split at h <;> (cases h; rfl)

/-- A byte of a slice read back after it is written. -/
theorem leNat_read_byte {s t : State} {a x : Nat} (h : s.Wrote t .scratch a [BitVec.ofNat 8 x]) (hx : x < 256) :
    leNat (Mem.read t.scratch a 1) = x := by
  have hread := h.read
  change leNat (Mem.read (t.cells .scratch) a [BitVec.ofNat 8 x].length) = x
  rw [hread]
  simp [leNat, hx]

/-- A round that goes on: its cursor is one further. -/
theorem advanceRound_goes {s : State} {table m : Nat} (hm : m < 256) (h : s.cursor table + 1 < m) :
    (s.advanceRound table m).cmds = s.cmds ∧ (s.advanceRound table m).cursor table = s.cursor table + 1 := by
  simp only [State.advanceRound, if_pos h]
  exact ⟨rfl, leNat_read_byte (State.wrote_poke (by decide) _ _ _) (by omega)⟩

/-- A round that closes: its cursor is 0 again, its table is read afresh next, and it is counted. -/
theorem advanceRound_closes {s : State} {table m : Nat} (h : m ≤ s.cursor table + 1) :
    let u := s.advanceRound table m
    u.cmds = s.cmds ∧ u.cursor table = 0 ∧ u.rounds = Kv.del s.rounds table ∧
      leNat (Mem.read u.scratch (table + 4) 4) = (leNat (Mem.read s.scratch (table + 4) 4) + 1) % 2 ^ 32 := by
  intro u
  have hcursor := State.wrote_poke (s := s) (sp := .scratch) (by decide) (table + 8) [BitVec.ofNat 8 0] (originTag 5 (table / 2 ^ 23))
  have hcount := State.wrote_poke (s := s.poke .scratch (table + 8) [BitVec.ofNat 8 0] (originTag 5 (table / 2 ^ 23))) (sp := .scratch)
    (by decide) (table + 4) (leBytes 4 (leNat (s.bytes .scratch (table + 4) 4) + 1)) (originTag 5 (table / 2 ^ 23))
  have hu : u = { (s.poke .scratch (table + 8) [BitVec.ofNat 8 0] (originTag 5 (table / 2 ^ 23))).poke .scratch (table + 4)
      (leBytes 4 (leNat (s.bytes .scratch (table + 4) 4) + 1)) (originTag 5 (table / 2 ^ 23)) with
      rounds := Kv.del s.rounds table } := by
    simp only [u, State.advanceRound, if_neg (not_lt.2 h)]
    rfl
  rw [hu]
  refine ⟨rfl, ?cursor, rfl, ?count⟩
  case cursor =>
    have hout := hcount.read_out (b := table + 8) (n := 1) (by rw [leBytes_length]; omega)
    exact (congrArg leNat hout).trans (leNat_read_byte hcursor (by decide))
  case count =>
    have hread := hcount.read
    rw [leBytes_length] at hread
    exact (congrArg leNat hread).trans (leNat_leBytes 4 _)

/-- What an event that admits a contribution leads to (R140). -/
theorem admits_of_exec {i : Instr} {s t : State} {c : Cmd} {m : Nat} (hexec : exec i s = .next (t.admitCpr c m))
    (ht : t = { s with rounds := t.rounds }) (hc : s.cmd c.uid = some c) (hcpr : sliceCpr c.ins = true) (hsub : c.sub = none)
    (hm : m < 256) :
    (t.verify .scratch (c.parN 2) 16 ≠ none → Leads i s fun u => CommandTraps s u { c with sent := 0 } 7 1 6) ∧
    let v := t.applyCpr c
    (t.verify .scratch (c.parN 2) 16 = none → (v.cmd c.uid).any (·.failed) = true → exec i s = .next v) ∧
    (t.verify .scratch (c.parN 2) 16 = none → (v.cmd c.uid).any (·.failed) = false → Leads i s fun u => u.cmds = v.cmds ∧
      (v.cursor (c.parN 2) + 1 < m → u.cursor (c.parN 2) = v.cursor (c.parN 2) + 1) ∧
      (m ≤ v.cursor (c.parN 2) + 1 → u.cursor (c.parN 2) = 0 ∧ u.rounds = Kv.del v.rounds (c.parN 2) ∧
        leNat (Mem.read u.scratch ((c.parN 2) + 4) 4) = (leNat (Mem.read v.scratch ((c.parN 2) + 4) 4) + 1) % 2 ^ 32)) := by
  refine ⟨fun hbad => ?bad, fun hgood hfails => ?fails, fun hgood hholds => ?holds⟩
  case bad =>
    obtain ⟨b, hb⟩ := Option.ne_none_iff_exists'.1 hbad
    have htc : t.cmd c.uid = some c := by rw [ht]; exact hc
    have htraps := trapCopyBad_traps (s := t) (c := { c with sent := 0 }) hcpr hsub (Option.isSome_of_eq_some htc) b
    have hrun : t.admitCpr c m = t.trapCopyBad { c with sent := 0 } 0 b := by simp only [State.admitCpr, hb]
    refine ⟨_, hexec, ?_⟩
    rw [hrun]
    obtain ⟨hcmd, hmem, hscratch, r, hpolicy, hrest⟩ := htraps
    exact ⟨hcmd, hmem.trans (by rw [ht]), hscratch.trans (by rw [ht]), r, hpolicy.trans (by rw [ht]), hrest⟩
  case fails => rw [hexec, State.admitCpr, hgood]; simp only [hfails, if_true]
  case holds =>
    have hrun : t.admitCpr c m = (t.applyCpr c).advanceRound (c.parN 2) m := by
      simp only [State.admitCpr, hgood, hholds, Bool.false_eq_true, if_false]
    refine ⟨_, hexec, ?_⟩
    rw [hrun]
    by_cases hnext : (t.applyCpr c).cursor (c.parN 2) + 1 < m
    · obtain ⟨hcmds, hcursor⟩ := advanceRound_goes hm hnext
      exact ⟨hcmds, fun _ => hcursor, fun h => absurd h (by omega)⟩
    · obtain ⟨hcmds, hcloses⟩ := advanceRound_closes (not_lt.1 hnext)
      exact ⟨hcmds, fun h => absurd h hnext, fun _ => hcloses⟩

/-! ### CPR_ARRIVAL -/

theorem exec_cprArrival {s : State} {c : Cmd} (hc : s.cmd c.uid = some c) : exec (.cprArrival c.uid) s = .next (s.cprArrive c) := by
  change Host.Outcome.next (match s.cmd c.uid with | some c => s.cprArrive c | none => s) = _
  rw [hc]

section
variable {s : State} {c : Cmd} (hsent : c.sent = 1) (hcpr : sliceCpr c.ins = true) (hf : c.failed = false)
include hsent hcpr hf

/-- A contribution without a table: combined at once, but for a floating sum. -/
theorem cprArrive_alone (htable : c.parN 2 = 0) :
    s.cprArrive c = if (cprOp c.ins).1 = 1 then s.trapCopy c 5 0 c.v1.toNat else s.applyCpr c := by
  simp only [State.cprArrive, hsent, hcpr, hf, htable, ne_eq, not_true_eq_false, Bool.true_eq_false, Bool.false_eq_true, or_self, if_false,
    if_true]

/-- A contribution whose table stands in another slice than its place. -/
theorem cprArrive_elsewhere (htable : c.parN 2 ≠ 0) (hhome : c.parN 2 / 2 ^ 23 ≠ c.v1.toNat / 2 ^ 23) :
    s.cprArrive c = s.trapCopy c 4 0 (c.parN 2) := by
  simp only [State.cprArrive, hsent, hcpr, hf, htable, hhome, ne_eq, not_true_eq_false, Bool.true_eq_false, Bool.false_eq_true, or_self,
    not_false_eq_true, if_false, if_true]

/-- A contribution with a table whose lines verify. -/
theorem cprArrive_round (htable : c.parN 2 ≠ 0) (hhome : c.parN 2 / 2 ^ 23 = c.v1.toNat / 2 ^ 23)
    (hv : s.verify .scratch (c.parN 2) 144 = none) {t : State} {m : Nat} {es : List Nat} (hround : s.roundOf (c.parN 2) = (t, m :: es)) :
    s.cprArrive c =
      if c.parN 1 < m ∧ coreExists (es.getD (c.parN 1) 0) = false then s.trapCopy c 1 (c.parN 1) (c.parN 2)
      else if m ≤ c.parN 1 ∨ es.getD (c.parN 1) 0 ≠ coreOf c.seqk then s.trapCopy c 4 (c.parN 1) (c.parN 2)
      else if s.cursor (c.parN 2) = c.parN 1 then t.admitCpr c m
      else if ((s.cmds.filter fun x => decide (x.sent = 2) && decide (x.v1.toNat / 2 ^ 23 = c.v1.toNat / 2 ^ 23)).length) < 16 then
        t.setCmd { c with sent := 2 }
      else t.setCmd { c with sent := 3 } := by
  simp only [State.cprArrive, hsent, hcpr, hf, htable, hhome, hv, hround, List.headD_cons, List.getD_cons_succ, ne_eq, not_true_eq_false,
    Bool.true_eq_false, Bool.false_eq_true, or_self, if_false]

end

/-! ### CPR_REFUSED_RETRY -/

theorem exec_cprRefusedRetry {s : State} {c : Cmd} (hc : s.cmd c.uid = some c) (hcpr : sliceCpr c.ins = true) :
    exec (.cprRefusedRetry c.uid) s = .next (if c.sent = 3 then s.setCmd { c with sent := 1 } else s) := by
  change Host.Outcome.next (match s.cmd c.uid with
    | some c => if c.sent = 3 ∧ sliceCpr c.ins = true then s.setCmd { c with sent := 1 } else s
    | none => s) = _
  rw [hc]
  simp only [hcpr, and_true]

end Sys2Proof.Claims
end

section
/-! SUPPORT. Handler records and their handlers (R134, R135). -/

namespace Sys2Proof.Claims
open Sys2Proof.Machine

/-! ### HANDLER_QUEUE_ACCEPT -/

theorem handlerQueueAccept_accepts {s : State} {core : Nat} {c : Cmd} {r : HandlerRec} {rest : List (Nat × HandlerRec)}
    (hwait : (s.core core).hqWait = (c.uid, r) :: rest) (hc : s.cmd c.uid = some c) (hroom : (s.core core).hq.length < 16) :
    Leads (.handlerQueueAccept core) s fun u => u = { s with cores := u.cores, cmds := u.cmds } ∧
      (∀ j, u.core j = if j = core then { s.core j with hq := (s.core j).hq ++ [r], hqWait := rest } else s.core j) ∧
      u.cmd c.uid = some { c with sent := 0, phase := .done, result := 0 } := by
  have hexec : exec (.handlerQueueAccept core) s =
      .next ((s.modCore core fun x => { x with hq := x.hq ++ [r], hqWait := rest }).complete { c with sent := 0 } 0) := by
    change execHandlerQueueAccept core s = _
    have hcmd : (s.modCore core fun x => { x with hq := x.hq ++ [r], hqWait := rest }).cmd c.uid = some c := hc
    simp only [execHandlerQueueAccept, hwait, if_neg (not_le.2 hroom), hcmd]
  refine ⟨_, hexec, rfl, fun j => ?_, State.cmd_setCmd (c := { c with sent := 0, phase := .done, result := 0 }) (Option.isSome_of_eq_some hc)⟩
  rw [complete_core]
  by_cases hj : j = core
  · rw [if_pos hj, hj, State.modCore_core_self]
  · rw [if_neg hj, State.modCore_core_ne _ _ _ _ hj]

theorem handlerQueueAccept_idle {s : State} {core : Nat} (h : (s.core core).hqWait = [] ∨ 16 ≤ (s.core core).hq.length) :
    exec (.handlerQueueAccept core) s = .next s := by
  change execHandlerQueueAccept core s = _
  rw [execHandlerQueueAccept]
  cases hwait : (s.core core).hqWait with
  | nil => rfl
  | cons x rest =>
    have hfull : 16 ≤ (s.core core).hq.length := h.resolve_left (by simp [hwait])
    simp only [if_pos hfull]

/-! ### HANDLER_START -/

/-- The H sequencer of a handler that starts: it keeps its TLB. -/
def handlerSeq (q : Seq) (r : HandlerRec) : Seq :=
  { active := true, pc := r.handler, tlb := q.tlb
    regs := [(1, r.payload), (2, BitVec.ofNat 64 r.length), (3, BitVec.ofNat 64 r.sender), (4, r.user)] }

theorem get_handlerSeq (q : Seq) (r : HandlerRec) (x : BitVec 5) :
    (if x = 0 then 0 else Kv.get 0 (handlerSeq q r).regs x.toNat) = if x = 1 then r.payload else if x = 2 then BitVec.ofNat 64 r.length
      else if x = 3 then BitVec.ofNat 64 r.sender else if x = 4 then r.user else 0 := by
  have hnum (n : BitVec 5) : n.toNat = x.toNat ↔ x = n := ⟨fun h => (BitVec.eq_of_toNat_eq h).symm, fun h => by rw [h]⟩
  have h1 : 1 = x.toNat ↔ x = 1 := hnum 1
  have h2 : 2 = x.toNat ↔ x = 2 := hnum 2
  have h3 : 3 = x.toNat ↔ x = 3 := hnum 3
  have h4 : 4 = x.toNat ↔ x = 4 := hnum 4
  simp only [handlerSeq, Kv.get, h1, h2, h3, h4]
  by_cases h0 : x = 0
  · subst h0
    rfl
  · rw [if_neg h0]

theorem handlerStart_starts {s : State} {core : Nat} {r : HandlerRec} {rest : List HandlerRec} (hq : (s.core core).hq = r :: rest)
    (hbusy : (s.slot (core * 8 + 4)).busy = false) (hstop : (s.slot (core * 8 + 4)).stopping = none)
    (hhalted : (s.core core).halted = false) :
    let sk := core * 8 + 4
    Leads (.handlerStart core) s fun u => u = { s with cores := u.cores, slots := u.slots, seqs := u.seqs } ∧
      (∀ j, u.core j = if j = core then { s.core j with hq := rest } else s.core j) ∧
      (∀ j, u.slot j = if j = sk then { s.slot j with busy := true, nextCmd := 0, trap := none } else s.slot j) ∧
      (∀ j, j ≠ sk * 4 + 3 → u.seq j = s.seq j) ∧ (u.seq (sk * 4 + 3)).active = true ∧ u.pc (sk * 4 + 3) = r.handler ∧
      (∀ x : BitVec 5, u.reg (sk * 4 + 3) x = if x = 1 then r.payload else if x = 2 then BitVec.ofNat 64 r.length
        else if x = 3 then BitVec.ofNat 64 r.sender else if x = 4 then r.user else 0) := by
  intro sk
  have hexec : exec (.handlerStart core) s = .next (((s.modCore core fun x => { x with hq := rest }).modSlot sk fun c =>
      { c with busy := true, nextCmd := 0, trap := none }).setSeq (sk * 4 + 3) (handlerSeq (s.seq (sk * 4 + 3)) r)) := by
    change execHandlerStart core s = _
    simp only [execHandlerStart, hq, hbusy, hstop, hhalted, Option.isSome_none, Bool.or_self, Bool.false_eq_true, if_false]
    rfl
  refine ⟨_, hexec, rfl, fun j => ?cores, fun j => ?slots, fun j hj => ?seqs, ?active, ?pc, fun x => ?regs⟩
  case cores =>
    rw [State.setSeq_core, State.modSlot_core]
    by_cases hj : j = core
    · rw [if_pos hj, hj, State.modCore_core_self]
    · rw [if_neg hj, State.modCore_core_ne _ _ _ _ hj]
  case slots =>
    rw [State.setSeq_slot]
    by_cases hj : j = sk
    · rw [if_pos hj, hj, State.modSlot_slot_self, State.modCore_slot]
    · rw [if_neg hj, State.modSlot_slot_ne _ _ _ _ hj, State.modCore_slot]
  case seqs => rw [State.setSeq_seq_ne _ _ _ _ hj, State.modSlot_seq, State.modCore_seq]
  case active => rw [State.setSeq_seq_self]; rfl
  case pc => rw [State.pc, State.setSeq_seq_self]; rfl
  case regs => rw [State.reg, State.setSeq_seq_self, get_handlerSeq]

theorem handlerStart_idle {s : State} {core : Nat} (h : (s.core core).hq = [] ∨ (s.slot (core * 8 + 4)).busy = true) :
    exec (.handlerStart core) s = .next s := by
  change execHandlerStart core s = _
  rw [execHandlerStart]
  cases hq : (s.core core).hq with
  | nil => rfl
  | cons r rest =>
    have hbusy : (s.slot (core * 8 + 4)).busy = true := h.resolve_left (by simp [hq])
    simp only [hbusy, Bool.true_or, if_true]

end Sys2Proof.Claims
end

section
/-! SUPPORT. A round of a window of two ranks, whose home is this module (R142, R143), and the proof of O50. -/

namespace Sys2Proof.Claims
open Sys2Proof.Machine

/-! ### The two contributions of a round -/

/-- This rank's contribution to one element: element `i` of a CPR, of operator `k`, which stands at `e` at the home. -/
def ownShare (win rank uid k b e i : Nat) (x : BitVec 64) : Contribution := ⟨win, rank, uid, k, b, [⟨e, i, x, none⟩]⟩

/-- Another rank's contribution to the element at `e`, as its packet tells it. -/
def peerShare (win rank e : Nat) (y : BitVec 64) : Contribution := ⟨win, rank, 0, 0, e, [⟨e, 0, y, none⟩]⟩

theorem eq_peerShare {p : Contribution} {win rank e : Nat} {y : BitVec 64} (hwin : p.win = win) (hrank : p.rank = rank) (huid : p.uid = 0)
    (hop : p.op = 0) (helems : p.elems = [⟨p.base, 0, y, none⟩]) (hbase : p.base = e) : p = peerShare win rank e y := by
  rw [hbase] at helems
  obtain ⟨win', rank', uid, op, base, elems⟩ := p
  rw [peerShare, Contribution.mk.injEq]
  exact ⟨hwin, hrank, huid, hop, hbase, helems⟩

section
variable {s : State} {win rank0 rank uid k b e i : Nat} {x y : BitVec 64} (hk : k ≠ 0) (hrank : rank ≠ rank0)
  (hs : s.contribs = [ownShare win rank0 uid k b e i x, peerShare win rank e y])
include hs

section
include hk

theorem contributed_own (w : Nat) : s.contributed win rank0 w e = some (ownShare win rank0 uid k b e i x, ⟨e, i, x, none⟩) := by
  simp [State.contributed, hs, ownShare, Contribution.addr, hk]

theorem ownElems_pair : s.ownElems win = [(k, e)] := by
  simp [State.ownElems, hs, ownShare, peerShare, hk]

end

include hrank in
theorem contributed_peer (w : Nat) : s.contributed win rank w e = some (peerShare win rank e y, ⟨e, 0, y, none⟩) := by
  simp [State.contributed, hs, ownShare, peerShare, Contribution.addr, hrank.symm]

/-- This rank's element is taken off, and its CPR is done: it waits for no other. -/
theorem takeElem_own {c : Cmd} (hpos : uid ≠ 0) (hc : s.cmd uid = some c) (hf : c.failed = false) :
    s.takeElem (ownShare win rank0 uid k b e i x, ⟨e, i, x, none⟩) =
      { s with contribs := [peerShare win rank e y] }.complete { c with sent := 0, off := cprLen c } 0 := by
  have herase : s.contribs.erase (ownShare win rank0 uid k b e i x) = [peerShare win rank e y] := by
    rw [hs, List.erase_cons_head]
  have hnone : [peerShare win rank e y].any (·.uid == uid) = false := by simp [peerShare, hpos.symm]
  have hcmd : State.cmd { s with contribs := [peerShare win rank e y] } uid = some c := hc
  rw [State.takeElem, herase]
  simp [ownShare, hnone, hpos, hcmd, hf]

end

/-- The other rank's element is taken off. -/
theorem takeElem_peer {s : State} {win rank e : Nat} {y : BitVec 64} (hs : s.contribs = [peerShare win rank e y]) :
    s.takeElem (peerShare win rank e y, ⟨e, 0, y, none⟩) = { s with contribs := [] } := by
  have herase : s.contribs.erase (peerShare win rank e y) = [] := by rw [hs, List.erase_cons_head]
  rw [State.takeElem, herase]
  simp [peerShare]

theorem reduceTree_one (op n p : Nat) : reduceTree op n [p] = p := by
  cases n <;> rfl

theorem reduceTree_pair (op n p q : Nat) : reduceTree op (n + 1) [p, q] = reduceOp op p q := by
  have hhalf : 2 ^ Nat.log2 ([p, q].length - 1) = 1 := rfl
  rw [reduceTree, if_neg (by simp), hhalf]
  exact congrArg₂ (reduceOp op) (reduceTree_one op n p) (reduceTree_one op n q)

theorem ownElems_nil {s : State} {win : Nat} (h : s.contribs = []) : s.ownElems win = [] := by
  simp [State.ownElems, h]

/-! ### The home's write -/

/-- A write of the module's own to main memory, over lines that verify. -/
theorem putMain_wrote {s : State} {a : Nat} {bs : List Byte} (hbs : bs ≠ []) (hv : s.verify .main a bs.length = none)
    (ha : a / 2 ^ 50 ≠ 3) : s.Wrote (s.putMain a bs) .main a bs := by
  obtain ⟨t, ht, hwrote⟩ := State.writeLines_wrote (s := s) (sp := .main) (by decide) (originTag 0 0) (originTag 0 0) hbs hv
  have hput : s.putMain a bs = t := by
    rw [State.putMain, ht]
    exact sendWrite_own ha
  rw [hput]
  exact hwrote

/-! ### The round -/

/-- Both contributions have been taken off, and this rank's CPR is done. -/
def sharesTaken (s : State) (c : Cmd) : State := { s with contribs := [] }.complete { c with sent := 0, off := cprLen c } 0

/-- The state when a round of two ranks has closed, before the home's write. -/
def roundTaken (s : State) (c : Cmd) (win e : Nat) : State := (sharesTaken s c).countRound win e

/-- The result of a round of two ranks at the home. -/
def roundResult (s : State) (k e : Nat) (x y : BitVec 64) : Nat :=
  reduceOp k (leNat (s.bytes .main e (reduceBytes k)))
    (reduceOp k (x.toNat % 2 ^ (8 * reduceBytes k)) (y.toNat % 2 ^ (8 * reduceBytes k)))

/-- The home writes the result of the round at its element. -/
theorem putMain_roundTaken {s : State} {k e : Nat} (hv : s.verify .main e (reduceBytes k) = none) (he : e < 2 ^ 40) (x y : BitVec 64)
    {c : Cmd} {win : Nat} : (roundTaken s c win e).Wrote
      ((roundTaken s c win e).putMain e (leBytes (reduceBytes k) (roundResult s k e x y))) .main e
      (leBytes (reduceBytes k) (roundResult s k e x y)) :=
  putMain_wrote (leBytes_ne_nil k _) (by rw [leBytes_length]; exact hv) (by omega)

section
variable {s : State} {c : Cmd} {r : RedWin} {win rank k b e i : Nat} {x y : BitVec 64} (hk : k ≠ 0) (hrank : rank ≠ s.host.rank)
  (hs : s.contribs = [ownShare win s.host.rank c.uid k b e i x, peerShare win rank e y]) (hranks : r.ranks = [s.host.rank, rank])
  (hhome : r.home = 0) (hpos : c.uid ≠ 0) (hc : s.cmd c.uid = some c) (hf : c.failed = false)
  (hv : s.verify .main e (reduceBytes k) = none)
include hk hrank hs hranks hhome hpos hc hf hv

theorem closeElem_pair :
    s.closeElem win r k e = some ((roundTaken s c win e).putMain e (leBytes (reduceBytes k) (roundResult s k e x y))) := by
  have htaken : (s.takeElem (ownShare win s.host.rank c.uid k b e i x, ⟨e, i, x, none⟩)).takeElem
      (peerShare win rank e y, ⟨e, 0, y, none⟩) = sharesTaken s c := by
    rw [takeElem_own hs hpos hc hf]
    exact takeElem_peer rfl
  have hfull : (leBytes (reduceBytes k) (roundResult s k e x y)).take (reduceBytes k) = leBytes (reduceBytes k) (roundResult s k e x y) :=
    List.take_of_length_le (by rw [leBytes_length])
  have hplaces : RedElem.places ⟨e, i, x, none⟩ e (reduceBytes k) = [(e, reduceBytes k)] := rfl
  have hmine : (ownShare win s.host.rank c.uid k b e i x).rank = s.host.rank := rfl
  rw [State.closeElem]
  simp only [hranks, hhome, List.map_cons, List.map_nil, contributed_own hk hs, contributed_peer hrank hs, List.any_cons, List.any_nil,
    Option.isNone_some, Bool.or_self, Bool.false_eq_true, if_false, List.filterMap_cons, List.filterMap_nil, id, reduceTree_pair,
    List.foldl_cons, List.foldl_nil, htaken, List.getD_cons_zero, ne_eq, not_true_eq_false, hmine, decide_true, List.find?_cons_of_pos,
    Option.elim_some, hplaces, List.findSome?_cons, List.findSome?_nil, hv, List.flatMap_cons, List.flatMap_nil, List.append_nil,
    State.putPlaces]
  exact congrArg (fun bs => some ((roundTaken s c win e).putMain e bs)) hfull

/-- A round of two ranks is the only one to close. -/
theorem closeRounds_pair (he : e < 2 ^ 40) :
    s.closeRounds win r 2 = (roundTaken s c win e).putMain e (leBytes (reduceBytes k) (roundResult s k e x y)) := by
  have hnone : ((roundTaken s c win e).putMain e (leBytes (reduceBytes k) (roundResult s k e x y))).contribs = [] := by
    have hframe := (putMain_roundTaken hv he x y (c := c) (win := win)).frame
    rw [hframe]
    rfl
  simp only [State.closeRounds, ownElems_pair hk hs, ownElems_nil hnone, List.findSome?_cons, List.findSome?_nil,
    closeElem_pair hk hrank hs hranks hhome hpos hc hf hv]

end

/-! ### ROUND_CLOSE -/

theorem roundClose_idle {s : State} {win : Nat} (h : (s.host.redwins.find? fun x => x.1 == win) = none) :
    exec (.roundClose win) s = .next s := by
  change execRoundClose win s = _
  simp only [execRoundClose, h]

theorem roundClose_closes {s : State} {c : Cmd} {r : RedWin} {win rank k b e i : Nat} {x y : BitVec 64}
    (hwin : (s.host.redwins.find? fun z => z.1 == win) = some (win, r)) (hranks : r.ranks = [s.host.rank, rank]) (hhome : r.home = 0)
    (hrank : rank ≠ s.host.rank) (hk : k ≠ 0) (hpos : c.uid ≠ 0) (he : e < 2 ^ 40)
    (hs : s.contribs = [ownShare win s.host.rank c.uid k b e i x, peerShare win rank e y]) (hc : s.cmd c.uid = some c)
    (hf : c.failed = false) (hv : s.verify .main e (reduceBytes k) = none) :
    let m := 8 * reduceBytes k
    Leads (.roundClose win) s fun u =>
      u = { s with contribs := [], cmds := u.cmds, mem := u.mem, bad := u.bad, ecc := u.ecc, tags := u.tags, host := u.host } ∧
      u.host = { s.host with redwins := s.host.redwins.map fun z =>
        if z.1 = win then (z.1, { z.2 with closed := Kv.put z.2.closed e (Kv.get 0 z.2.closed e + 1) }) else z } ∧
      u.cmd c.uid = some { c with sent := 0, off := cprLen c, phase := .done, result := 0 } ∧
      leNat (Mem.read u.mem e (reduceBytes k)) =
        reduceOp k (leNat (Mem.read s.mem e (reduceBytes k))) (reduceOp k (x.toNat % 2 ^ m) (y.toNat % 2 ^ m)) % 2 ^ m ∧
      ∀ z, (z < e ∨ e + reduceBytes k ≤ z) → Mem.get u.mem z = Mem.get s.mem z := by
  intro m
  have hcount : ((s.contribs.filter fun c => decide (c.win = win)).map fun c => c.elems.length).foldl (· + ·) 0 = 2 := by
    simp [hs, ownShare, peerShare]
  have hexec : exec (.roundClose win) s =
      .next ((roundTaken s c win e).putMain e (leBytes (reduceBytes k) (roundResult s k e x y))) := by
    change execRoundClose win s = _
    simp only [execRoundClose, hwin, hcount, closeRounds_pair hk hrank hs hranks hhome hpos hc hf hv he]
  have hwrote := putMain_roundTaken hv he x y (c := c) (win := win)
  have hframe := hwrote.frame
  refine ⟨_, hexec, ?frame, ?host, ?cmd, ?result, fun z hz => ?others⟩
  case frame => rw [hframe]; rfl
  case host => rw [hframe]; rfl
  case cmd =>
    rw [hframe]
    exact State.cmd_setCmd (s := { s with contribs := [] }) (c := { c with sent := 0, off := cprLen c, phase := .done, result := 0 })
      (Option.isSome_of_eq_some hc)
  case result =>
    have hread := hwrote.read
    rw [leBytes_length] at hread
    exact (congrArg leNat hread).trans (leNat_leBytes_bits _ _)
  case others => exact hwrote.get_out (by rw [leBytes_length]; exact hz)

/-! ### CPR_ARRIVAL, CPR_REFUSED_RETRY and CPR_ADMIT -/

/-- CPR_ARRIVAL of a contribution without a table that is combined. -/
theorem cprArrival_applies {s : State} {c : Cmd} (hc : s.cmd c.uid = some c) (hcpr : sliceCpr c.ins = true) (hf : c.failed = false)
    (hsent : c.sent = 1) (htable : c.parN 2 = 0) (hop : (cprOp c.ins).1 ≠ 1)
    (hsrc : s.verify .scratch c.v2.toNat (c.parN 0 * reduceBytes (cprOp c.ins).1) = none)
    (hdst : s.verify .scratch c.v1.toNat (c.parN 0 * reduceBytes (cprOp c.ins).1) = none) :
    Leads (.cprArrival c.uid) s fun u =>
      u = { s with scratch := u.scratch, bad := u.bad, ecc := u.ecc, tags := u.tags, cmds := u.cmds } ∧
      u.cmd c.uid = some { c with sent := 0, off := c.parN 0 * reduceBytes (cprOp c.ins).1, phase := .done, result := 0 } ∧
      (c.v2.toNat + c.parN 0 * reduceBytes (cprOp c.ins).1 ≤ c.v1.toNat ∨ c.v1.toNat ≤ c.v2.toNat → ∀ i, i < c.parN 0 →
        elemAt u c.v1.toNat (reduceBytes (cprOp c.ins).1) i = reduceOp (cprOp c.ins).1 (elemAt s c.v1.toNat (reduceBytes (cprOp c.ins).1) i)
          (elemAt s c.v2.toNat (reduceBytes (cprOp c.ins).1) i) % 2 ^ (8 * reduceBytes (cprOp c.ins).1)) ∧
      (c.v1.toNat = c.v2.toNat + reduceBytes (cprOp c.ins).1 → ∀ i, i + 1 < c.parN 0 →
        elemAt u c.v1.toNat (reduceBytes (cprOp c.ins).1) (i + 1) =
          reduceOp (cprOp c.ins).1 (elemAt s c.v1.toNat (reduceBytes (cprOp c.ins).1) (i + 1))
            (elemAt u c.v1.toNat (reduceBytes (cprOp c.ins).1) i) % 2 ^ (8 * reduceBytes (cprOp c.ins).1)) ∧
      ∀ b, (b < c.v1.toNat ∨ c.v1.toNat + c.parN 0 * reduceBytes (cprOp c.ins).1 ≤ b) →
        Mem.get u.scratch b = Mem.get s.scratch b := by
  obtain ⟨t, ht, hframe, hothers, hbefore, hafter⟩ := applyCpr_combines hsrc hdst
  have hexec : exec (.cprArrival c.uid) s =
      .next (t.complete { c with sent := 0, off := c.parN 0 * reduceBytes (cprOp c.ins).1 } 0) := by
    rw [exec_cprArrival hc, cprArrive_alone hsent hcpr hf htable, if_neg hop, ht]
  have hcmd : (t.cmd c.uid).isSome = true := by
    rw [hframe]
    exact Option.isSome_of_eq_some hc
  simp only [Nat.zero_mul, Nat.zero_add, Nat.add_zero] at hothers hbefore hafter
  refine ⟨_, hexec, ?frame,
    State.cmd_setCmd (c := { c with sent := 0, off := c.parN 0 * reduceBytes (cprOp c.ins).1, phase := .done, result := 0 }) hcmd,
    fun hplace i hi => ?apart, fun hplace i hi => ?shifted, hothers⟩
  case frame =>
    rw [hframe]
    rfl
  case apart =>
    have hmul : (i + 1) * reduceBytes (cprOp c.ins).1 ≤ c.parN 0 * reduceBytes (cprOp c.ins).1 := Nat.mul_le_mul_right _ hi
    rw [Nat.succ_mul] at hmul
    exact hbefore i (Nat.zero_le _) hi (by omega)
  case shifted =>
    have hsucc : (i + 1) * reduceBytes (cprOp c.ins).1 = i * reduceBytes (cprOp c.ins).1 + reduceBytes (cprOp c.ins).1 := Nat.succ_mul _ _
    have haddr : c.v2.toNat + (i + 1) * reduceBytes (cprOp c.ins).1 = c.v1.toNat + i * reduceBytes (cprOp c.ins).1 := by omega
    have hsame : elemAt t c.v2.toNat (reduceBytes (cprOp c.ins).1) (i + 1) = elemAt t c.v1.toNat (reduceBytes (cprOp c.ins).1) i := by
      rw [elemAt, elemAt, haddr]
    have helem := hafter (i + 1) (Nat.zero_le _) hi (by omega)
    rw [hsame] at helem
    exact helem

section
variable {s t : State} {c : Cmd} {m : Nat} {es : List Nat} (hc : s.cmd c.uid = some c) (hcpr : sliceCpr c.ins = true)
  (hf : c.failed = false) (hsent : c.sent = 1) (htable : c.parN 2 ≠ 0) (hhome : c.parN 2 / 2 ^ 23 = c.v1.toNat / 2 ^ 23)
  (hv : s.verify .scratch (c.parN 2) 144 = none) (hround : s.roundOf (c.parN 2) = (t, m :: es))
include hc hcpr hf hsent htable hhome hv hround

/-- A contribution whose place in the table is of a core that is not there (R144 status 1). -/
theorem cprArrival_absent (hsub : c.sub = none) (habsent : c.parN 1 < m ∧ coreExists (es.getD (c.parN 1) 0) = false) :
    Leads (.cprArrival c.uid) s fun u => CommandTraps s u c 3 1 (1 + c.parN 1 * 256) := by
  refine ⟨_, exec_cprArrival hc, ?_⟩
  rw [cprArrive_round hsent hcpr hf htable hhome hv hround, if_pos habsent]
  exact trapCopy_traps hcpr hsub (Option.isSome_of_eq_some hc) 1 _ _

/-- A contribution whose place in the table is another core's (R144 status 4). -/
theorem cprArrival_foreign (hsub : c.sub = none) (hthere : ¬ (c.parN 1 < m ∧ coreExists (es.getD (c.parN 1) 0) = false))
    (hmine : ¬ (c.parN 1 < m ∧ es.getD (c.parN 1) 0 = c.seqk / 32)) :
    Leads (.cprArrival c.uid) s fun u => CommandTraps s u c 6 1 (4 + c.parN 1 * 256) := by
  have hforeign : m ≤ c.parN 1 ∨ es.getD (c.parN 1) 0 ≠ coreOf c.seqk := by
    rw [← not_lt]
    exact not_and_or.1 hmine
  refine ⟨_, exec_cprArrival hc, ?_⟩
  rw [cprArrive_round hsent hcpr hf htable hhome hv hround, if_neg hthere, if_pos hforeign]
  exact trapCopy_traps hcpr hsub (Option.isSome_of_eq_some hc) 4 _ _

variable (hthere : ¬ (c.parN 1 < m ∧ coreExists (es.getD (c.parN 1) 0) = false))
  (hmine : c.parN 1 < m ∧ es.getD (c.parN 1) 0 = c.seqk / 32)
include hthere hmine

/-- A contribution in its turn is admitted. -/
theorem exec_cprArrival_turn (hturn : s.cursor (c.parN 2) = c.parN 1) : exec (.cprArrival c.uid) s = .next (t.admitCpr c m) := by
  obtain ⟨hslot, hcore⟩ := hmine
  have hown : ¬ (m ≤ c.parN 1 ∨ es.getD (c.parN 1) 0 ≠ coreOf c.seqk) := not_or.2 ⟨not_le.2 hslot, not_not.2 hcore⟩
  rw [exec_cprArrival hc, cprArrive_round hsent hcpr hf htable hhome hv hround, if_neg hthere, if_neg hown, if_pos hturn]

/-- A contribution before its turn is held, or refused when 16 are held. -/
theorem cprArrival_early (hturn : s.cursor (c.parN 2) ≠ c.parN 1) :
    Leads (.cprArrival c.uid) s fun u => u = { s with rounds := u.rounds, cmds := u.cmds } ∧
      u.cmd c.uid = some { c with sent := if (s.cmds.filter fun x => decide (x.sent = 2) && decide (x.v1.toNat / 2 ^ 23 = c.v1.toNat / 2 ^ 23)).length < 16
        then 2 else 3 } := by
  obtain ⟨hslot, hcore⟩ := hmine
  have hown : ¬ (m ≤ c.parN 1 ∨ es.getD (c.parN 1) 0 ≠ coreOf c.seqk) := not_or.2 ⟨not_le.2 hslot, not_not.2 hcore⟩
  have hframe := roundOf_frame hround
  have hheld (n : Nat) : t.setCmd { c with sent := n } = { s with rounds := t.rounds, cmds := (t.setCmd { c with sent := n }).cmds } ∧
      (t.setCmd { c with sent := n }).cmd c.uid = some { c with sent := n } := by
    have htc : t.cmd c.uid = some c := by
      rw [hframe]
      exact hc
    refine ⟨?_, State.cmd_setCmd (c := { c with sent := n }) (Option.isSome_of_eq_some htc)⟩
    rw [hframe]
    rfl
  refine ⟨_, exec_cprArrival hc, ?_⟩
  rw [cprArrive_round hsent hcpr hf htable hhome hv hround, if_neg hthere, if_neg hown, if_neg hturn]
  split
  · exact hheld 2
  · exact hheld 3

end

/-- A refused contribution is sent again. -/
theorem cprRefusedRetry_sends {s : State} {c : Cmd} (hc : s.cmd c.uid = some c) (hcpr : sliceCpr c.ins = true) (hsent : c.sent = 3) :
    Leads (.cprRefusedRetry c.uid) s fun u => u = { s with cmds := u.cmds } ∧ u.cmd c.uid = some { c with sent := 1 } := by
  refine ⟨_, exec_cprRefusedRetry hc hcpr, ?_⟩
  rw [if_pos hsent]
  exact ⟨rfl, State.cmd_setCmd (c := { c with sent := 1 }) (Option.isSome_of_eq_some hc)⟩

theorem exec_cprAdmit_none {s : State} {core : Nat} (h : s.admissible core = none) : exec (.cprAdmit core) s = .next s := by
  change execCprAdmit core s = _
  simp only [execCprAdmit, h]

theorem exec_cprAdmit_some {s t : State} {c : Cmd} {core m : Nat} {es : List Nat} (h : s.admissible core = some c)
    (hround : s.roundOf (c.parN 2) = (t, m :: es)) : exec (.cprAdmit core) s = .next (t.admitCpr c m) := by
  change execCprAdmit core s = _
  simp only [execCprAdmit, h, hround, List.headD_cons]

/-! ### The obligation -/

/-- Settles O50: handler records and their handlers, contributions to slices in their turns, and a round of a window. -/
theorem messagesAndContributionsTravel : Obligations.MessagesAndContributionsTravel := by
  unfold Obligations.MessagesAndContributionsTravel
  intro s core c sk op w n a table word applied admits
  refine ⟨fun r rest => handlerQueueAccept_accepts, handlerQueueAccept_idle, fun r rest => handlerStart_starts, handlerStart_idle,
    fun hc hcpr hf hsub => ⟨fun hsent => ⟨?alone, fun htable hop => ?sum, fun htable hhome => ?elsewhere,
      fun htable hhome hv t m es hround => ?round⟩, cprRefusedRetry_sends hc hcpr, fun hsent => ?kept⟩,
    exec_cprAdmit_none, fun t m es hcore hround hm hcpr hsub hc => ?admission, roundClose_idle, ?closes⟩
  case alone => exact cprArrival_applies hc hcpr hf hsent
  case sum =>
    refine ⟨_, exec_cprArrival hc, ?_⟩
    rw [cprArrive_alone hsent hcpr hf htable, if_pos hop]
    exact trapCopy_traps hcpr hsub (Option.isSome_of_eq_some hc) 5 0 _
  case elsewhere =>
    refine ⟨_, exec_cprArrival hc, ?_⟩
    rw [cprArrive_elsewhere hsent hcpr hf htable hhome]
    exact trapCopy_traps hcpr hsub (Option.isSome_of_eq_some hc) 4 0 _
  case round =>
    exact ⟨cprArrival_absent hc hcpr hf hsent htable hhome hv hround hsub,
      fun hmine hthere hturn hm => admits_of_exec (exec_cprArrival_turn hc hcpr hf hsent htable hhome hv hround hthere hmine hturn)
        (roundOf_frame hround) hc hcpr hsub hm,
      fun hmine hthere => cprArrival_foreign hc hcpr hf hsent htable hhome hv hround hsub hthere hmine,
      fun hmine hthere => cprArrival_early hc hcpr hf hsent htable hhome hv hround hthere hmine⟩
  case kept => rw [exec_cprRefusedRetry hc hcpr, if_neg hsent]
  case admission => exact admits_of_exec (exec_cprAdmit_some hcore hround) (roundOf_frame hround) hc hcpr hsub hm
  case closes =>
    intro r rank k e b i x y me peer hwin hranks hhome hrank hme hk hpos he hpwin hprank hpuid hpop hpelems hpbase hs hc hf hv
    rw [hme, eq_peerShare hpwin hprank hpuid hpop hpelems hpbase] at hs
    exact roundClose_closes hwin hranks hhome hrank (Nat.one_le_iff_ne_zero.1 hk) hpos he hs hc hf hv

end Sys2Proof.Claims
end

section
/-! SUPPORT. The run that a core's vector engine executes, and what a micro-order of it leads to: guarded off, executed, waiting or
faulting (R196, R206, R207, R210, R212). -/

namespace Sys2Proof.Machine

/-- A trap whose record names no line with an error leaves its slot's vector state. -/
theorem State.slot_vec_takeTrap {s : State} {sk : Nat} {r : TrapRec} (h : r.ecc = false) :
    ((s.takeTrap sk r).slot sk).vec = (s.slot sk).vec := by
  simp only [State.takeTrap, State.countSoft, h, Bool.false_eq_true, if_false, State.modSlot_slot_self]
  rfl

end Sys2Proof.Machine

namespace Sys2Proof.Claims
open Sys2Proof.Machine

/-! ### The current run (R207) -/

theorem mem_of_chooseCmd {s : State} {cs : List Cmd} {c : Cmd} (h : s.chooseCmd cs = some c) : c ∈ cs := by
  by_cases hcs : cs = []
  · rw [hcs] at h
    exact absurd h nofun
  · obtain ⟨x, hx, hchosen, -⟩ := chooseCmd_spec (s := s) hcs
    rw [h, Option.some.injEq] at hchosen
    exact hchosen ▸ hx

theorem mem_runs {s : State} {core : Nat} {c : Cmd} (h : c ∈ s.runs core) : c ∈ s.cmds ∧ s.runLive c = true := by
  obtain ⟨hmem, hlive⟩ := List.mem_filter.1 h
  exact ⟨hmem, (Bool.and_eq_true_iff.1 hlive).2⟩

/-- The run that an engine executes is one of the commands, and live. -/
theorem mem_of_current {s : State} {core : Nat} {c : Cmd} (h : s.current core = some c) : c ∈ s.cmds ∧ s.runLive c = true := by
  unfold State.current at h
  split at h
  next x hx =>
    split at h
    next hlive =>
      obtain ⟨uid, -, hfind⟩ := Option.bind_eq_some_iff.1 hx
      cases h
      exact ⟨List.mem_of_find?_eq_some hfind, hlive⟩
    next => exact mem_runs (mem_of_chooseCmd h)
  next => exact mem_runs (mem_of_chooseCmd h)

theorem caSub_of_runLive {s : State} {c : Cmd} (h : s.runLive c = true) : caSub c.ins = 0 := by
  have hvrun := (Bool.and_eq_true_iff.1 h).2
  split at hvrun
  next hins => rw [hins]; rfl
  next => exact absurd hvrun Bool.false_ne_true

section
variable {s : State} {c : Cmd} (hrun : s.run = some c)
include hrun

theorem sub_of_run : c.sub = none := Option.isNone_iff_eq_none.1 (Option.filter_eq_some_iff.1 hrun).2

theorem caSub_of_run : caSub c.ins = 0 := caSub_of_runLive (mem_of_current (Option.filter_eq_some_iff.1 hrun).1).2

theorem cmd_isSome_of_run : (s.cmd c.uid).isSome = true :=
  List.find?_isSome.2 ⟨c, (mem_of_current (Option.filter_eq_some_iff.1 hrun).1).1, beq_self_eq_true _⟩

end

/-! ### Guards (R196) -/

theorem predOn_eq_not_guardedOff (s : State) (c : Cmd) (g : Nat) : s.predOn (slotKey c.seqk) g = !guardedOff s c g := by
  have hzero : decide (g = 0) = !decide (1 ≤ g) := by
    rw [← decide_not]
    exact decide_eq_decide.2 (by omega)
  have hmask : decide (8 ≤ g) = !decide (g ≤ 7) := by
    rw [← decide_not]
    exact decide_eq_decide.2 (by omega)
  rw [State.predOn, guardedOff, vec, hzero, hmask]
  simp only [Bool.not_and, Bool.not_not]

theorem getLsbD_guardMask (s : State) (c : Cmd) (g : Nat) {j : Nat} (hj : j < 128) :
    (s.guardMask (slotKey c.seqk) g).getLsbD j = permits s c g j := by
  by_cases hg : g ≤ 7
  · rw [State.guardMask, if_pos (Nat.lt_succ_of_le hg), BitVec.getLsbD_allOnes]
    simp [permits, hg, hj]
  · simp [State.guardMask, permits, hg, show ¬ g < 8 by omega]

/-- A guard field of three bits names no mask. -/
theorem permits_pred (s : State) (c : Cmd) (g : BitVec 3) (j : Nat) : permits s c g.toNat j = true := by
  have hg : g.toNat ≤ 7 := Nat.le_of_lt_succ g.isLt
  simp [permits, hg]

/-! ### What a micro-order leads to (R210, R212) -/

section
variable {i : Instr} {s : State} {c : Cmd} {g : Nat} {eff : State → Cmd → MRes} (hexec : exec i s = .next (Machine.microOrder g eff s))
  (hrun : s.run = some c)
include hexec hrun

theorem exec_microOrder_off (hg : guardedOff s c g = true) : exec i s = .next (s.advRun c) := by
  simp [hexec, Machine.microOrder, hrun, predOn_eq_not_guardedOff, hg]

theorem exec_microOrder_hold (hg : guardedOff s c g = false) (heff : eff s c = .hold) : exec i s = .next s := by
  simp [hexec, Machine.microOrder, hrun, predOn_eq_not_guardedOff, hg, heff]

theorem executes_microOrder {p : State → Prop} (heff : ∃ u, eff s c = .ok u ∧ p u) : Executes i s c g p := by
  obtain ⟨u, hok, hp⟩ := heff
  refine ⟨exec_microOrder_off hexec hrun, fun hg => ⟨u, ?_, hp⟩⟩
  simp [hexec, Machine.microOrder, hrun, predOn_eq_not_guardedOff, hg, hok]

theorem microTraps_microOrder {code status addr : Nat} (hg : guardedOff s c g = false)
    (heff : eff s c = .fault code status addr none) : MicroTraps i s c code status := by
  have hcmd := cmd_isSome_of_run hrun
  refine ⟨s.trapVec c code status (vec s c).upc.toNat addr (s.runState c) none, ?_, ?_⟩
  · simp [hexec, Machine.microOrder, hrun, predOn_eq_not_guardedOff, hg, heff, vec]
  · rw [State.trapVec, trapCmd_of_sub_eq_none (sub_of_run hrun), caSub_of_run hrun]
    exact ⟨_, rfl, rfl, rfl, rfl, rfl, rfl, rfl, rfl, State.cmd_setCmd (c := { c with failed := true }) hcmd,
      State.slot_vec_takeTrap rfl⟩

end

end Sys2Proof.Claims
end

section
/-! SUPPORT. Vector registers and index registers after a write, a register as bytes, and what a row of a tile or of an accumulator
leads to (R194, R195, R196, R222). -/

namespace Sys2Proof.Machine

/-! ### Lanes and bytes of a register (R194) -/

theorem lane_map_range (f : Nat → BitVec 32) {j : Nat} (hj : j < 128) : lane ((List.range 128).map f) j = f j := by
  simp [lane, hj]

theorem lane_mergeLanes (m : BitVec 128) (old new : VReg) {j : Nat} (hj : j < 128) :
    lane (mergeLanes m old new) j = if m.getLsbD j = true then lane new j else lane old j := lane_map_range _ hj

theorem lane_vregOf (b : List Byte) {j : Nat} (hj : j < 128) : lane (vregOf b) j = BitVec.ofNat 32 (leAt b (4 * j) 4) :=
  lane_map_range _ hj

theorem vregBytes_eq_wordBytes (v : VReg) : vregBytes v = Claims.wordBytes ((List.range 128).map (lane v)) := by
  rw [vregBytes, Claims.wordBytes, List.flatMap_map]

@[simp] theorem vregBytes_length (v : VReg) : (vregBytes v).length = 512 := by simp [vregBytes_eq_wordBytes]

theorem leAt_vregBytes (v : VReg) {j : Nat} (hj : j < 128) : leAt (vregBytes v) (4 * j) 4 = (lane v j).toNat := by
  rw [vregBytes_eq_wordBytes, Claims.leAt_wordBytes _ (by simpa using hj)]
  exact congrArg BitVec.toNat (lane_map_range (lane v) hj)

/-! ### Writes of a slot's vector state -/

theorem State.modSlot_slot (s : State) (sk j : Nat) (f : Slot → Slot) :
    (s.modSlot sk f).slot j = if j = sk then f (s.slot j) else s.slot j := by
  split
  next h => rw [h, State.modSlot_slot_self]
  next h => exact State.modSlot_slot_ne _ _ _ _ h

theorem State.modVec_slot (s : State) (sk j : Nat) (f : VecSt → VecSt) :
    (s.modVec sk f).slot j = if j = sk then { s.slot j with vec := f (s.slot j).vec } else s.slot j := s.modSlot_slot sk j _

/-- Two names reach one physical register only when they are one (R195). -/
theorem physReg_inj (rot : Nat) {r d : BitVec 7} : physReg rot r.toNat = physReg rot d.toNat ↔ r = d := by
  have hr := r.isLt
  have hd := d.isLt
  rw [← BitVec.toNat_inj]
  unfold physReg
  split <;> split <;> omega

/-- Lanes read after a write of the lanes that a mask permits (R196). -/
theorem lane_setVreg (s : State) (sk : Nat) (d r : BitVec 7) (m : BitVec 128) (v : VReg) {j : Nat} (hj : j < 128) :
    lane ((s.setVreg sk d m v).vreg sk r) j = if r = d ∧ m.getLsbD j = true then lane v j else lane (s.vreg sk r) j := by
  simp only [State.vreg, State.setVreg, State.modVec, State.modSlot_slot_self, Kv.get_put, physReg_inj]
  by_cases hr : r = d
  · rw [if_pos hr, lane_mergeLanes _ _ _ hj, hr]
    simp only [true_and]
  · rw [if_neg hr, if_neg fun h => hr h.1]

theorem State.index_setIndex (s : State) (sk x y : Nat) (v : BitVec 16) :
    (s.setIndex sk x v).index sk y = if y = x then v else s.index sk y := by
  simp only [State.index, State.setIndex, State.modVec, State.modSlot_slot_self, Kv.get_put]

@[simp] theorem State.index_setVreg (s : State) (sk y : Nat) (d : BitVec 7) (m : BitVec 128) (v : VReg) :
    (s.setVreg sk d m v).index sk y = s.index sk y := by
  simp only [State.index, State.setVreg, State.modVec, State.modSlot_slot_self]

@[simp] theorem State.vreg_setIndex (s : State) (sk x : Nat) (v : BitVec 16) (r : BitVec 7) :
    (s.setIndex sk x v).vreg sk r = s.vreg sk r := by
  simp only [State.vreg, State.setIndex, State.modVec, State.modSlot_slot_self]

@[simp] theorem State.accRow_setIndex (s : State) (sk x a row : Nat) (v : BitVec 16) :
    (s.setIndex sk x v).accRow sk a row = s.accRow sk a row := by
  simp only [State.accRow, State.accKey, State.setIndex, State.modVec, State.modSlot_slot_self]
  rfl

/-! ### Rows in range (R222) -/

theorem toInt_within_iff {i : BitVec 16} {n : Nat} (hn : n ≤ 2 ^ 15) :
    0 ≤ i.toInt ∧ i.toInt < n ↔ i.toNat < n := by
  have hi := i.isLt
  rw [BitVec.toInt_eq_toNat_cond]
  split <;> omega

theorem State.rowOk_tile {s : State} {sk n : Nat} {row : BitVec 16} :
    s.rowOk sk n false row = true ↔ n < (s.slot sk).tmap.length ∧ row.toNat < 64 := by
  rw [← toInt_within_iff (n := 64) (by decide)]
  simp [State.rowOk, and_assoc]

theorem State.rowOk_acc {s : State} {sk n : Nat} {row : BitVec 16} :
    s.rowOk sk n true row = true ↔ n < (s.slot sk).amap.length ∧ row.toNat < 128 := by
  rw [← toInt_within_iff (n := 128) (by decide)]
  simp [State.rowOk, and_assoc]

end Sys2Proof.Machine

namespace Sys2Proof.Claims
open Sys2Proof.Machine

/-! ### An access to a row -/

section
variable {i : Instr} {acc : Bool} {n x p : Nat} {g : BitVec 4} {f : State → Cmd → Nat → MRes} {s : State} {c : Cmd}
  (hexec : exec i s = .next (rowOp acc n x p g f s)) (hrun : s.run = some c)
include hexec hrun

/-- An access to a row in range leaves what it says, and then its index register moves on (R222). -/
theorem executes_rowOp {P : State → Prop} {w : State}
    (hrow : s.rowOk (slotKey c.seqk) n acc (s.index (slotKey c.seqk) x) = true)
    (hok : f s c (s.index (slotKey c.seqk) x).toNat = .ok w)
    (hP : P (w.setIndex (slotKey c.seqk) x (s.index (slotKey c.seqk) x + BitVec.ofNat 16 p))) :
    Executes i s c g.toNat P :=
  executes_microOrder hexec hrun ⟨_, by simp only [hrow, hok, Bool.not_true, Bool.false_eq_true, if_false], hP⟩

theorem microTraps_rowOp (hg : guardedOff s c g.toNat = false)
    (hrow : ¬ s.rowOk (slotKey c.seqk) n acc (s.index (slotKey c.seqk) x) = true) : MicroTraps i s c 3 4 :=
  microTraps_microOrder hexec hrun hg (addr := 0) (by
    simp only [Bool.not_eq_true] at hrow
    simp only [hrow, Bool.not_false, if_true])

end

/-- The index register of a row has moved on by the step, and no other has (R222). -/
def IndexSteps (s u : State) (sk : Nat) (x p : BitVec 3) : Prop :=
  ∀ y, u.index sk y = if y = x.toNat then s.index sk x.toNat + BitVec.ofNat 16 p.toNat else s.index sk y

theorem indexSteps_setIndex {s w : State} {sk : Nat} (x p : BitVec 3) (h : ∀ y, w.index sk y = s.index sk y) :
    IndexSteps s (w.setIndex sk x.toNat (s.index sk x.toNat + BitVec.ofNat 16 p.toNat)) sk x p := fun y => by
  rw [State.index_setIndex, h]

/-- A row has been read into the lanes of register `d` that the guard permits, its index register has moved on, and nothing else has
changed. -/
def RowRead (s u : State) (c : Cmd) (d : BitVec 7) (x p : BitVec 3) (g : BitVec 4) (f : Nat → BitVec 32) : Prop :=
  VectorOnly s u c { vec s c with regs := (vec u c).regs, ix := (vec u c).ix } ∧ IndexSteps s u (slotKey c.seqk) x p ∧
    ∀ (r : BitVec 7) (j : Nat), j < 128 → lane (u.vreg (slotKey c.seqk) r) j =
      if r = d ∧ permits s c g.toNat j = true then f j else lane (s.vreg (slotKey c.seqk) r) j

theorem rowRead_setVreg {s : State} {c : Cmd} {f : Nat → BitVec 32} {v : VReg} (d : BitVec 7) (x p : BitVec 3) (g : BitVec 4)
    (hv : ∀ j, j < 128 → lane v j = f j) :
    RowRead s ((s.setVreg (slotKey c.seqk) d (s.guardMask (slotKey c.seqk) g.toNat) v).setIndex (slotKey c.seqk) x.toNat
      (s.index (slotKey c.seqk) x.toNat + BitVec.ofNat 16 p.toNat)) c d x p g f := by
  refine ⟨⟨rfl, fun j => ?slots⟩, indexSteps_setIndex x p fun y => State.index_setVreg _ _ _ _ _ _, fun r j hj => ?lanes⟩
  case slots =>
    simp only [vec, State.setIndex, State.setVreg, State.modVec_slot, if_true]
    split
    next h => rw [h]
    next => rfl
  case lanes => rw [State.vreg_setIndex, lane_setVreg _ _ _ _ _ _ hj, getLsbD_guardMask _ _ _ hj, hv j hj]

end Sys2Proof.Claims
end

section
/-! SUPPORT. The lines of a tile that VTW writes, whole or merged, with their tags and check words (R94, R96, R222). -/

namespace Sys2Proof.Machine

/-! ### A line of a tile written whole -/

/-- What a whole line of a tile makes of check words and tags (R94, R95). -/
theorem State.poke_tile_line (s : State) {a : Nat} {bs : List Byte} (tag : BitVec 16) (ha : a % 128 = 0) (hbs : bs.length = 128) :
    (s.poke .tile a bs tag).ecc = s.ecc.filter (fun c => c != lineKey .tile a) ∧
      (s.poke .tile a bs tag).bad = s.bad.filter (fun c => c.1 != lineKey .tile a) ∧
      (s.poke .tile a bs tag).tags = setTag s.tags (lineKey .tile a) tag := by
  have hone : (a + bs.length + 127) / 128 - a / 128 = 1 := by omega
  have haddr : (a / 128 + 0) * 128 = a := by omega
  simp only [State.poke, hone, List.range_one, List.map_cons, List.map_nil, haddr, List.foldl_cons, List.foldl_nil,
    List.contains_cons, List.contains_nil, Bool.or_false]
  exact ⟨rfl, rfl, rfl⟩

theorem State.tag_poke_tile_line (s : State) {a : Nat} {bs : List Byte} (tag : BitVec 16) (ha : a % 128 = 0) (hbs : bs.length = 128)
    (k : Nat) : (s.poke .tile a bs tag).tag .tile (k * 128) = if k = a / 128 then tag else s.tag .tile (k * 128) := by
  have hkey : lineKey .tile (k * 128) = lineKey .tile a ↔ k = a / 128 := by
    simp only [lineKey, Space.num]
    omega
  obtain ⟨-, -, htags⟩ := s.poke_tile_line tag ha hbs
  simp only [State.tag, htags, get_setTag, hkey]

theorem State.verifyLine_poke_tile_line (s : State) {a : Nat} {bs : List Byte} (tag : BitVec 16) (ha : a % 128 = 0)
    (hbs : bs.length = 128) : (s.poke .tile a bs tag).verifyLine .tile a = none := by
  obtain ⟨hecc, hbad, -⟩ := s.poke_tile_line tag ha hbs
  exact State.verifyLine_eq_none.2 ⟨by simp [hecc], by simp [hbad, Kv.has_filter_ne]⟩

/-! ### The lines of a row -/

/-- The tag of a line of a row: kind 0 for a whole line, 5 for a merged one (R94, R222). -/
def rowTag (m : BitVec 128) (core l : Nat) : BitVec 16 := originTag (if lineMask m l = BitVec.allOnes 32 then 0 else 5) core

/-- A row's line `l` written where the mask touches it. -/
def State.writeRowLine (a : Nat) (m : BitVec 128) (b : List Byte) (core : Nat) (s : State) (l : Nat) : State :=
  if lineMask m l = 0 then s else s.poke .tile (a + 128 * l) (slice b (128 * l) 128) (rowTag m core l)

/-- The first `n` lines of a row have been written, and of the module nothing else has changed. -/
structure State.RowWritten (s u : State) (a : Nat) (m : BitVec 128) (b : List Byte) (core n : Nat) : Prop where
  frame : u = s.withSpace u .tile
  written : ∀ l, l < n → lineMask m l ≠ 0 → u.tileLine (a / 128 + l) = slice b (128 * l) 128 ∧
    u.tag .tile (a + 128 * l) = rowTag m core l ∧ u.verifyLine .tile (a + 128 * l) = none
  kept : ∀ k, (∀ l, l < n → lineMask m l ≠ 0 → k ≠ a / 128 + l) →
    u.tileLine k = s.tileLine k ∧ u.tag .tile (k * 128) = s.tag .tile (k * 128)

section
variable {s u : State} {a n core : Nat} {m : BitVec 128} {b : List Byte}

/-- A line that the mask does not touch stays as it was. -/
theorem State.RowWritten.untouched (h : s.RowWritten u a m b core n) (hl : lineMask m n = 0) : s.RowWritten u a m b core (n + 1) where
  frame := h.frame
  written l hln htouched := by
    have hne : l ≠ n := fun heq => htouched (heq ▸ hl)
    exact h.written l (by omega) htouched
  kept k hk := h.kept k fun l hln => hk l (by omega)

/-- A line that the mask touches is written, and the others stay as they were. -/
theorem State.RowWritten.touched (h : s.RowWritten u a m b core n) (ha : a % 128 = 0) (hl : lineMask m n ≠ 0) :
    s.RowWritten (u.poke .tile (a + 128 * n) (slice b (128 * n) 128) (rowTag m core n)) a m b core (n + 1) := by
  have haddr : (a + 128 * n) % 128 = 0 := by omega
  have hlen := Claims.slice_length b (128 * n) 128
  have hdiv (l : Nat) : (a + 128 * l) / 128 = a / 128 + l := by omega
  have hmul (l : Nat) : a + 128 * l = (a / 128 + l) * 128 := by omega
  have hline := Claims.tileLine_poke u (rowTag m core n) haddr hlen
  have htag := u.tag_poke_tile_line (rowTag m core n) haddr hlen
  rw [hdiv] at hline htag
  refine ⟨State.withSpace_trans h.frame (u.poke_withSpace _ _ _ _), fun l hln htouched => ?written, fun k hk => ?kept⟩
  case written =>
    by_cases hlast : l = n
    · rw [hlast, hline, if_pos rfl]
      refine ⟨rfl, ?_, u.verifyLine_poke_tile_line _ haddr hlen⟩
      have := htag (a / 128 + n)
      rwa [if_pos rfl, ← hmul] at this
    · obtain ⟨hbytes, hold, hverified⟩ := h.written l (by omega) htouched
      rw [hline, if_neg (by omega), hbytes]
      refine ⟨rfl, ?_, u.sound_poke _ _ _ _ _ _ hverified⟩
      have := htag (a / 128 + l)
      rwa [if_neg (by omega), ← hmul, hold] at this
  case kept =>
    rw [hline, htag, if_neg (hk n (by omega) hl), if_neg (hk n (by omega) hl)]
    exact h.kept k fun l hln => hk l (by omega)

end

theorem State.rowWritten_foldl (s : State) {a : Nat} (m : BitVec 128) (b : List Byte) (core : Nat) (ha : a % 128 = 0) (n : Nat) :
    s.RowWritten ((List.range n).foldl (State.writeRowLine a m b core) s) a m b core n := by
  induction n with
  | zero => exact ⟨rfl, fun l hl => absurd hl (Nat.not_lt_zero l), fun k _ => ⟨rfl, rfl⟩⟩
  | succ n ih =>
    rw [List.range_succ, List.foldl_append, List.foldl_cons, List.foldl_nil]
    unfold State.writeRowLine
    split
    next hl => exact ih.untouched hl
    next hl => exact ih.touched ha hl

/-! ### The lanes of a line -/

theorem getLsbD_lineMask (m : BitVec 128) (l : Nat) {i : Nat} (hi : i < 32) : (lineMask m l).getLsbD i = m.getLsbD (32 * l + i) := by
  rw [lineMask, bits, BitVec.getLsbD_ofNat, Nat.testBit_mod_two_pow, Nat.testBit_div_two_pow, Nat.add_comm]
  simp [hi, BitVec.getLsbD]

/-- A property of the lanes of a line, by their places in it. -/
theorem forall_lane_of_line {P : Nat → Prop} (l : Nat) :
    (∀ j, 32 * l ≤ j → j < 32 * l + 32 → P j) ↔ ∀ i, i < 32 → P (32 * l + i) := by
  refine ⟨fun h i hi => h _ (by omega) (by omega), fun h j hlow hhigh => ?_⟩
  have := h (j - 32 * l) (by omega)
  rwa [Nat.add_sub_cancel' hlow] at this

theorem lineMask_eq_zero_iff (m : BitVec 128) (l : Nat) :
    lineMask m l = 0 ↔ ∀ j, 32 * l ≤ j → j < 32 * l + 32 → m.getLsbD j = false := by
  rw [forall_lane_of_line]
  constructor
  · intro h i hi
    rw [← getLsbD_lineMask m l hi, h]
    exact BitVec.getLsbD_zero
  · intro h
    refine BitVec.eq_of_getLsbD_eq fun i hi => ?_
    rw [getLsbD_lineMask m l hi, h i hi]
    exact BitVec.getLsbD_zero.symm

theorem lineMask_eq_allOnes_iff (m : BitVec 128) (l : Nat) :
    lineMask m l = BitVec.allOnes 32 ↔ ∀ j, 32 * l ≤ j → j < 32 * l + 32 → m.getLsbD j = true := by
  rw [forall_lane_of_line]
  constructor
  · intro h i hi
    rw [← getLsbD_lineMask m l hi, h, BitVec.getLsbD_allOnes]
    exact decide_eq_true hi
  · intro h
    refine BitVec.eq_of_getLsbD_eq fun i hi => ?_
    rw [getLsbD_lineMask m l hi, h i hi, BitVec.getLsbD_allOnes]
    exact (decide_eq_true hi).symm

theorem leAt_slice (b : List Byte) {o n k w : Nat} (hb : o + n ≤ b.length) (hk : k + w ≤ n) :
    leAt (slice b o n) k w = leAt b (o + k) w := by
  have hfull : n - ((b.drop o).take n).length = 0 := by
    rw [List.length_take, List.length_drop]
    omega
  rw [leAt, leAt, slice, hfull, zeros, List.replicate_zero, List.append_nil, List.drop_take, List.take_take, List.drop_drop,
    Nat.min_eq_left (by omega)]

/-! ### A row written -/

/-- The bytes of a row with the lanes that a mask permits taken from a register. -/
def State.mergedRow (s : State) (a : Nat) (m : BitVec 128) (v : VReg) : List Byte :=
  vregBytes (mergeLanes m (vregOf (s.bytes .tile a 512)) v)

@[simp] theorem State.mergedRow_length (s : State) (a : Nat) (m : BitVec 128) (v : VReg) : (s.mergedRow a m v).length = 512 :=
  vregBytes_length _

theorem State.leAt_mergedRow (s : State) (a : Nat) (m : BitVec 128) (v : VReg) {j : Nat} (hj : j < 128) :
    leAt (s.mergedRow a m v) (4 * j) 4 = if m.getLsbD j = true then (lane v j).toNat else leAt (s.bytes .tile a 512) (4 * j) 4 := by
  have hlt := leAt_lt (s.bytes .tile a 512) (4 * j) 4
  rw [State.mergedRow, leAt_vregBytes _ hj, lane_mergeLanes _ _ _ hj, lane_vregOf _ hj]
  split
  · rfl
  · rw [BitVec.toNat_ofNat]
    exact Nat.mod_eq_of_lt hlt

theorem State.tileAddr_row (s : State) (sk t row : Nat) : s.tileAddr sk t (row * 512) % 128 = 0 := by
  rw [State.tileAddr]
  omega

/-- A row whose merged lines verify is written, line by line (R96, R222). -/
theorem State.writeTileRow_verified {s : State} {sk t row : Nat} {m : BitVec 128} (v : VReg)
    (hv : ∀ l, l < 4 → lineMask m l ≠ 0 → lineMask m l ≠ BitVec.allOnes 32 →
      s.verifyLine .tile (s.tileAddr sk t (row * 512) + 128 * l) = none) :
    ∃ w, s.writeTileRow sk t row m v = .ok w ∧
      s.RowWritten w (s.tileAddr sk t (row * 512)) m (s.mergedRow (s.tileAddr sk t (row * 512)) m v) (sk / 8) 4 := by
  have hnone : (((List.range 4).filter fun l => decide (lineMask m l ≠ 0) && decide (lineMask m l ≠ BitVec.allOnes 32)).findSome?
      fun l => s.verifyLine .tile (s.tileAddr sk t (row * 512) + 128 * l)) = none := by
    refine List.findSome?_eq_none_iff.2 fun l hl => ?_
    simp only [List.mem_filter, List.mem_range, Bool.and_eq_true, decide_eq_true_eq] at hl
    obtain ⟨hl4, htouched, hpart⟩ := hl
    exact hv l hl4 htouched hpart
  refine ⟨_, ?_, s.rowWritten_foldl m _ (sk / 8) (s.tileAddr_row sk t row) 4⟩
  simp only [State.writeTileRow, hnone]
  rfl

end Sys2Proof.Machine
end

section
/-! SUPPORT. The micro-orders that move vectors through the data queues and rows of tiles and accumulators (R165, R221, R222); with the
proof of O42. -/

namespace Sys2Proof.Claims
open Sys2Proof.Machine

/-! ### VPOP and VPUSH (R221) -/

/-- A data queue of a slot without its head entry. -/
def unqueued (q : Nat) (r : List DqEntry) (x : Slot) : Slot := { x with queues := Kv.put x.queues q r }

section
variable {s : State} {c : Cmd} (hrun : s.run = some c)
include hrun

theorem vpop_moves (d : BitVec 7) (q : BitVec 2) (g : BitVec 3) (hslot : slotKey c.seqk % 8 < 4) {t : Nat} {b : List Byte}
    {r : List DqEntry} (hhead : Kv.get [] (s.slot (slotKey c.seqk)).queues q.toNat = ⟨t, some b⟩ :: r) :
    Executes (.vpop d q g) s c g.toNat fun u =>
      u = { s with slots := u.slots } ∧
      (∀ j, u.slot j = if j = slotKey c.seqk then
        { s.slot j with vec := { vec s c with regs := (vec u c).regs }, queues := (u.slot j).queues } else s.slot j) ∧
      (∀ n, Kv.get [] (u.slot (slotKey c.seqk)).queues n =
        if n = q.toNat then r else Kv.get [] (s.slot (slotKey c.seqk)).queues n) ∧
      ∀ (x : BitVec 7) (j : Nat), j < 128 → lane (u.vreg (slotKey c.seqk) x) j =
        if x = d then BitVec.ofNat 32 (leAt b (4 * j) 4) else lane (s.vreg (slotKey c.seqk) x) j := by
  have hslot' : ¬ 4 ≤ slotNum (slotKey c.seqk) := Nat.not_le.2 hslot
  refine executes_microOrder rfl hrun ⟨(s.modSlot (slotKey c.seqk) (unqueued q.toNat r)).setVreg (slotKey c.seqk) d
    (BitVec.allOnes 128) (vregOf b), ?effect, rfl, fun j => ?slots, fun n => ?queues, fun x j hj => ?lanes⟩
  case effect =>
    simp only [if_neg hslot', hhead]
    rfl
  case slots =>
    simp only [vec, State.setVreg, State.modVec_slot, State.modSlot_slot, unqueued, if_true]
    split
    next h => rw [h]
    next => rfl
  case queues => simp only [State.setVreg, State.modVec_slot, State.modSlot_slot, unqueued, if_true, Kv.get_put]
  case lanes =>
    have hkept : (s.modSlot (slotKey c.seqk) (unqueued q.toNat r)).vreg (slotKey c.seqk) x = s.vreg (slotKey c.seqk) x := by
      simp only [State.vreg, State.modSlot_slot_self, unqueued]
    rw [lane_setVreg _ _ _ _ _ _ hj, lane_vregOf _ hj, hkept, BitVec.getLsbD_allOnes]
    simp only [hj, decide_true, and_true]

theorem vpop_waits (d : BitVec 7) (q : BitVec 2) {g : BitVec 3} (hg : guardedOff s c g.toNat = false) (hslot : slotKey c.seqk % 8 < 4)
    (hhead : Kv.get [] (s.slot (slotKey c.seqk)).queues q.toNat = [] ∨
      ∃ t r, Kv.get [] (s.slot (slotKey c.seqk)).queues q.toNat = ⟨t, none⟩ :: r) : exec (.vpop d q g) s = .next s := by
  have hslot' : ¬ 4 ≤ slotNum (slotKey c.seqk) := Nat.not_le.2 hslot
  refine exec_microOrder_hold rfl hrun hg ?_
  rcases hhead with hempty | ⟨t, r, hunfilled⟩
  · simp only [if_neg hslot', hempty]
  · simp only [if_neg hslot', hunfilled]

theorem vpush_moves (q : BitVec 1) (a : BitVec 7) (g : BitVec 3) (hslot : slotKey c.seqk % 8 < 4)
    (hroom : (Kv.get [] (s.slot (slotKey c.seqk)).queues (4 + q.toNat)).length < 8) :
    Executes (.vpush q a g) s c g.toNat fun u => ∃ b : List Byte,
      u = { s with slots := u.slots } ∧
      (∀ j, u.slot j = if j = slotKey c.seqk then { s.slot j with queues := (u.slot j).queues } else s.slot j) ∧
      (∀ n, Kv.get [] (u.slot (slotKey c.seqk)).queues n = if n = 4 + q.toNat then
        Kv.get [] (s.slot (slotKey c.seqk)).queues n ++ [⟨0, some b⟩] else Kv.get [] (s.slot (slotKey c.seqk)).queues n) ∧
      b.length = 512 ∧ ∀ j, j < 128 → leAt b (4 * j) 4 = (lane (s.vreg (slotKey c.seqk) a) j).toNat := by
  have hslot' : ¬ 4 ≤ slotNum (slotKey c.seqk) := Nat.not_le.2 hslot
  refine executes_microOrder rfl hrun
    ⟨s.modSlot (slotKey c.seqk) (queued (4 + q.toNat) 0 (vregBytes (s.vreg (slotKey c.seqk) a))), ?effect,
      vregBytes (s.vreg (slotKey c.seqk) a), rfl, fun j => ?slots, fun n => ?queues, vregBytes_length _, fun j => leAt_vregBytes _⟩
  case effect =>
    simp only [if_neg hslot', if_neg (Nat.not_le.2 hroom)]
    rfl
  case slots =>
    simp only [State.modSlot_slot]
    split <;> rfl
  case queues =>
    simp only [State.modSlot_slot_self, queued, Kv.get_put]
    split
    next h => rw [h]
    next => rfl

theorem vpush_waits (a : BitVec 7) {q : BitVec 1} {g : BitVec 3} (hg : guardedOff s c g.toNat = false)
    (hslot : slotKey c.seqk % 8 < 4) (hfull : 8 ≤ (Kv.get [] (s.slot (slotKey c.seqk)).queues (4 + q.toNat)).length) :
    exec (.vpush q a g) s = .next s :=
  exec_microOrder_hold rfl hrun hg (by simp only [if_neg (Nat.not_le.2 hslot : ¬ 4 ≤ slotNum (slotKey c.seqk)), if_pos hfull])

theorem vpop_traps (d : BitVec 7) (q : BitVec 2) {g : BitVec 3} (hg : guardedOff s c g.toNat = false) (hslot : 4 ≤ slotKey c.seqk % 8) :
    MicroTraps (.vpop d q g) s c 1 3 :=
  microTraps_microOrder (addr := 0) rfl hrun hg (if_pos hslot)

theorem vpush_traps (q : BitVec 1) (a : BitVec 7) {g : BitVec 3} (hg : guardedOff s c g.toNat = false)
    (hslot : 4 ≤ slotKey c.seqk % 8) : MicroTraps (.vpush q a g) s c 1 3 :=
  microTraps_microOrder (addr := 0) rfl hrun hg (if_pos hslot)

end

/-! ### Rows of tiles and accumulators (R222) -/

/-- The row that an index register names. -/
def indexedRow (s : State) (c : Cmd) (x : BitVec 3) : Nat := (s.index (slotKey c.seqk) x.toNat).toNat

/-- The address of that row of a granted tile. -/
def indexedRowAddr (s : State) (c : Cmd) (t x : BitVec 3) : Nat := s.tileAddr (slotKey c.seqk) t.toNat (indexedRow s c x * 512)

/-- A tile that the run's slot holds, and a row in range. -/
def HeldTile (s : State) (c : Cmd) (t x : BitVec 3) : Prop := t.toNat < (s.slot (slotKey c.seqk)).tmap.length ∧ indexedRow s c x < 64

/-- An accumulator that the run's slot holds, and a row in range. -/
def HeldAcc (s : State) (c : Cmd) (t : BitVec 2) (x : BitVec 3) : Prop :=
  t.toNat < (s.slot (slotKey c.seqk)).amap.length ∧ indexedRow s c x < 128

/-- The guard permits a lane of line `l` of a row. -/
def SomeLane (s : State) (c : Cmd) (g : BitVec 4) (l : Nat) : Prop :=
  ∃ j, 32 * l ≤ j ∧ j < 32 * l + 32 ∧ permits s c g.toNat j = true

/-- The guard permits every lane of line `l` of a row. -/
def EveryLane (s : State) (c : Cmd) (g : BitVec 4) (l : Nat) : Prop :=
  ∀ j, 32 * l ≤ j → j < 32 * l + 32 → permits s c g.toNat j = true

theorem lineMask_guardMask_ne_zero {s : State} {c : Cmd} {g : BitVec 4} {l : Nat} (hl : l < 4) :
    lineMask (s.guardMask (slotKey c.seqk) g.toNat) l ≠ 0 ↔ SomeLane s c g l := by
  rw [Ne, lineMask_eq_zero_iff, SomeLane]
  push Not
  refine exists_congr fun j => and_congr_right fun _ => and_congr_right fun hj => ?_
  rw [getLsbD_guardMask _ _ _ (by omega), Ne, Bool.not_eq_false]

theorem lineMask_guardMask_eq_allOnes {s : State} {c : Cmd} {g : BitVec 4} {l : Nat} (hl : l < 4) :
    lineMask (s.guardMask (slotKey c.seqk) g.toNat) l = BitVec.allOnes 32 ↔ EveryLane s c g l := by
  rw [lineMask_eq_allOnes_iff]
  refine forall_congr' fun j => forall_congr' fun _ => forall_congr' fun hj => ?_
  rw [getLsbD_guardMask _ _ _ (by omega)]

/-- An index register written where the slots are as they were. -/
theorem slot_setIndex {s w : State} (hslots : w.slots = s.slots) (c : Cmd) (x j : Nat) (v : BitVec 16) :
    let u := w.setIndex (slotKey c.seqk) x v
    u.slot j = if j = slotKey c.seqk then { s.slot j with vec := { vec s c with ix := (vec u c).ix } } else s.slot j := by
  have hslot (k : Nat) : w.slot k = s.slot k := by simp only [State.slot, hslots]
  simp only [vec, State.setIndex, State.modVec_slot, hslot, if_true]
  split
  next h => rw [h]
  next => rfl

section
variable {s : State} {c : Cmd} (hrun : s.run = some c)
include hrun

theorem vtr_reads (d : BitVec 7) (t x p : BitVec 3) (g : BitVec 4) (hheld : HeldTile s c t x)
    (hv : s.verify .tile (indexedRowAddr s c t x) 512 = none) : Executes (.vtr d t x p g) s c g.toNat fun u =>
      RowRead s u c d x p g fun j => BitVec.ofNat 32 (leAt (s.bytes .tile (indexedRowAddr s c t x) 512) (4 * j) 4) := by
  refine executes_rowOp rfl hrun (State.rowOk_tile.2 hheld) ?effect (rowRead_setVreg d x p g fun j => lane_vregOf _)
  simp only [indexedRowAddr, indexedRow] at hv
  simp only [hv]
  rfl

theorem var_reads (d : BitVec 7) (t : BitVec 2) (x p : BitVec 3) (g : BitVec 4) (hheld : HeldAcc s c t x) :
    Executes (.var d t x p g) s c g.toNat fun u =>
      RowRead s u c d x p g fun j => lane (s.accRow (slotKey c.seqk) t.toNat (indexedRow s c x)) j :=
  executes_rowOp rfl hrun (State.rowOk_acc.2 hheld) rfl (rowRead_setVreg d x p g fun _ _ => rfl)

theorem vaw_writes (d : BitVec 7) (t : BitVec 2) (x p : BitVec 3) (g : BitVec 4) (hheld : HeldAcc s c t x) :
    Executes (.vaw d t x p g) s c g.toNat fun u =>
      u = { s with slots := u.slots, accs := u.accs } ∧ IndexSteps s u (slotKey c.seqk) x p ∧
      (∀ j, u.slot j = if j = slotKey c.seqk then { s.slot j with vec := { vec s c with ix := (vec u c).ix } } else s.slot j) ∧
      (∀ k, k ≠ s.accKey (slotKey c.seqk) t.toNat (indexedRow s c x) →
        Kv.get [] u.accs k = Kv.get [] s.accs k ∧ Kv.has u.accs k = Kv.has s.accs k) ∧
      ∀ j, j < 128 → lane (u.accRow (slotKey c.seqk) t.toNat (indexedRow s c x)) j =
        if permits s c g.toNat j then lane (s.vreg (slotKey c.seqk) d) j
        else lane (s.accRow (slotKey c.seqk) t.toNat (indexedRow s c x)) j := by
  refine executes_rowOp rfl hrun (State.rowOk_acc.2 hheld)
    (w := s.setAccRow (slotKey c.seqk) t.toNat (indexedRow s c x) (mergeLanes (s.guardMask (slotKey c.seqk) g.toNat)
      (s.accRow (slotKey c.seqk) t.toNat (indexedRow s c x)) (s.vreg (slotKey c.seqk) d))) rfl
    ⟨rfl, indexSteps_setIndex x p fun y => rfl, fun j => slot_setIndex rfl c _ j _, fun k hk => ?others, fun j hj => ?lanes⟩
  case others =>
    refine ⟨Kv.get_put_ne _ _ _ _ _ hk, (Kv.has_put _ _ _ _).trans ?_⟩
    rw [decide_eq_false hk, Bool.false_or]
  case lanes =>
    rw [State.accRow_setIndex, accRow_setAccRow, if_pos rfl, lane_mergeLanes _ _ _ hj, getLsbD_guardMask _ _ _ hj]

/-- VTW writes the lines that its guard touches, and leaves the others and all else of the module (R94, R96, R222). -/
theorem vtw_writes (d : BitVec 7) (t x p : BitVec 3) (g : BitVec 4) (hheld : HeldTile s c t x)
    (hv : ∀ l, l < 4 → SomeLane s c g l → ¬ EveryLane s c g l → s.verifyLine .tile (indexedRowAddr s c t x + 128 * l) = none) :
    Executes (.vtw d t x p g) s c g.toNat fun u =>
      u = { s with slots := u.slots, tiles := u.tiles, bad := u.bad, ecc := u.ecc, tags := u.tags } ∧
      IndexSteps s u (slotKey c.seqk) x p ∧
      (∀ j, u.slot j = if j = slotKey c.seqk then { s.slot j with vec := { vec s c with ix := (vec u c).ix } } else s.slot j) ∧
      (∀ l, l < 4 → SomeLane s c g l → u.verifyLine .tile (indexedRowAddr s c t x + 128 * l) = none ∧
        (∀ k, k < 32 → leAt (u.tileLine (indexedRowAddr s c t x / 128 + l)) (4 * k) 4 = if permits s c g.toNat (32 * l + k) then
          (lane (s.vreg (slotKey c.seqk) d) (32 * l + k)).toNat
          else leAt (s.bytes .tile (indexedRowAddr s c t x) 512) (128 * l + 4 * k) 4) ∧
        (EveryLane s c g l → u.tag .tile (indexedRowAddr s c t x + 128 * l) = BitVec.ofNat 16 (slotKey c.seqk / 8 % 1024)) ∧
        (¬ EveryLane s c g l →
          u.tag .tile (indexedRowAddr s c t x + 128 * l) = BitVec.ofNat 16 (5 * 4096 + slotKey c.seqk / 8 % 1024))) ∧
      ∀ k, ¬ (∃ l, l < 4 ∧ SomeLane s c g l ∧ k = indexedRowAddr s c t x / 128 + l) → u.tileLine k = s.tileLine k ∧
        u.tag .tile (k * 128) = s.tag .tile (k * 128) := by
  obtain ⟨w, hw, hframe, hwritten, hkept⟩ := State.writeTileRow_verified (sk := slotKey c.seqk) (t := t.toNat) (row := indexedRow s c x)
    (m := s.guardMask (slotKey c.seqk) g.toNat) (s.vreg (slotKey c.seqk) d) fun l hl hsome hpart =>
      hv l hl ((lineMask_guardMask_ne_zero hl).1 hsome) fun hevery => hpart ((lineMask_guardMask_eq_allOnes hl).2 hevery)
  have hslots : w.slots = s.slots := by rw [hframe]; rfl
  refine executes_rowOp rfl hrun (State.rowOk_tile.2 hheld) (w := w) ?effect
    ⟨by rw [hframe]; rfl, indexSteps_setIndex x p fun y => by simp only [State.index, State.slot, hslots],
      fun j => slot_setIndex hslots c _ j _, fun l hl hsome => ?written,
      fun k hk => hkept k fun l hl hsome hkl => hk ⟨l, hl, (lineMask_guardMask_ne_zero hl).1 hsome, hkl⟩⟩
  case effect =>
    simp only [indexedRow] at hw
    simp only [hw]
  case written =>
    obtain ⟨hbytes, htag, hverified⟩ := hwritten l hl ((lineMask_guardMask_ne_zero hl).2 hsome)
    refine ⟨hverified, fun k hk => ?lanes, fun hevery => htag.trans ?whole, fun hpart => htag.trans ?merged⟩
    case lanes =>
      have hoff : 128 * l + 4 * k = 4 * (32 * l + k) := by omega
      refine (congrArg (leAt · (4 * k) 4) hbytes).trans ?_
      rw [leAt_slice _ (by rw [State.mergedRow_length]; omega) (by omega), hoff, State.leAt_mergedRow _ _ _ _ (by omega),
        getLsbD_guardMask _ _ _ (by omega)]
      rfl
    case whole =>
      rw [rowTag, if_pos ((lineMask_guardMask_eq_allOnes hl).2 hevery), originTag, Nat.zero_mul, Nat.zero_add]
    case merged =>
      rw [rowTag, if_neg fun hones => hpart ((lineMask_guardMask_eq_allOnes hl).1 hones), originTag]

theorem row_traps_tile (d : BitVec 7) {t x : BitVec 3} (p : BitVec 3) {g : BitVec 4} (hg : guardedOff s c g.toNat = false)
    (hheld : ¬ HeldTile s c t x) : MicroTraps (.vtr d t x p g) s c 3 4 ∧ MicroTraps (.vtw d t x p g) s c 3 4 :=
  have hrow := mt State.rowOk_tile.1 hheld
  ⟨microTraps_rowOp rfl hrun hg hrow, microTraps_rowOp rfl hrun hg hrow⟩

theorem row_traps_acc (d : BitVec 7) {t : BitVec 2} {x : BitVec 3} (p : BitVec 3) {g : BitVec 4}
    (hg : guardedOff s c g.toNat = false) (hheld : ¬ HeldAcc s c t x) :
    MicroTraps (.var d t x p g) s c 3 4 ∧ MicroTraps (.vaw d t x p g) s c 3 4 :=
  have hrow := mt State.rowOk_acc.1 hheld
  ⟨microTraps_rowOp rfl hrun hg hrow, microTraps_rowOp rfl hrun hg hrow⟩

end

/-! ### The obligation -/

/-- Settles O42: queues, tile rows and accumulator rows, each by what its effect leaves of the state. -/
theorem queueAndRowMicroOrders : Obligations.QueueAndRowMicroOrders := by
  unfold Obligations.QueueAndRowMicroOrders
  intro s c d a hrun
  refine ⟨fun q g hg => ⟨vpop_traps hrun d q hg, fun hslot t b r => vpop_moves hrun d q g hslot, vpop_waits hrun d q hg⟩,
    fun q g hg => ⟨vpush_traps hrun q a hg, vpush_moves hrun q a g, vpush_waits hrun a hg⟩,
    fun q g => exec_microOrder_off rfl hrun, fun q g => exec_microOrder_off rfl hrun, fun t t2 x p g => ?rows⟩
  exact ⟨vtr_reads hrun d t x p g, var_reads hrun d t2 x p g, vaw_writes hrun d t2 x p g, vtw_writes hrun d t x p g,
    fun hg => ⟨row_traps_tile hrun d p hg, row_traps_acc hrun d p hg⟩⟩

end Sys2Proof.Claims
end

section
/-! SUPPORT. The conditions and targets of BR (R38, R180), and the proof of O6. -/

namespace Sys2Proof.Claims
open Sys2Proof.Machine

/-! ### Words of BR -/

/-- An instruction of one word that the encoder writes is decoded from that word. -/
theorem decodeStream_of_encode {i : Instr} {v : BitVec 32} (hv : encode i = [v]) (hstream : streamWord i = true)
    (hwf : i.wf = true) (x : Nat) : decodeStream (isVst i) v.toNat x = i := by
  obtain ⟨w, he, hraw⟩ | ⟨w, y, he, -⟩ := reads_encode i hstream
  · obtain rfl : v = w := by simpa [hv] using he
    rw [decodeStream, hraw, if_pos hwf]
  · simp [hv] at he

/-- The word that R180 writes for cond3 `n` is the encoder's, whose fixed bits are the major and cond3. -/
theorem lay11_toNat_of_cond3 {n : Nat} (hn : n < 8) (x y : BitVec 5) (o : BitVec 13) :
    (lay11 (0x4C000000 + n * 2 ^ 13) x y o).toNat =
      0x4C000000 + x.toNat * 2 ^ 21 + y.toNat * 2 ^ 16 + n * 2 ^ 13 + o.toNat := by
  have hx := x.isLt
  have hy := y.isLt
  have ho := o.isLt
  simp only [lay11, BitVec.toNat_ofNat]
  omega

/-- What the list of branches says of each, as the encoder, the decoder and the condition of the model have it. -/
structure IsBranch (n : Nat) (i : BitVec 5 → BitVec 5 → BitVec 13 → Instr) (p : Word → Word → Prop) : Prop where
  cond3 : n < 8
  word : ∀ x y o, encode (i x y o) = [lay11 (0x4C000000 + n * 2 ^ 13) x y o]
  stream : ∀ x y o, streamWord (i x y o) = true
  wf : ∀ x y o, (i x y o).wf = true
  notVst : ∀ x y o, isVst (i x y o) = false
  runs : ∀ x y o s, exec (i x y o) s = branch n x y o s
  cond : ∀ v w, brCond n v w = true ↔ p v w

theorem branches_isBranch : ∀ b ∈ branches, IsBranch b.1 b.2.1 b.2.2 := by
  simp only [branches, List.forall_mem_cons, List.not_mem_nil, false_implies, implies_true, and_true]
  refine ⟨?beq, ?bne, ?blt, ?bge, ?bltu, ?bgeu⟩
  all_goals
    refine ⟨by decide, fun _ _ _ => rfl, fun _ _ _ => rfl, fun _ _ _ => rfl, fun _ _ _ => rfl, fun _ _ _ _ => rfl, fun v w => ?_⟩
    simp [brCond, BitVec.slt, BitVec.ult]

theorem IsBranch.decode {n : Nat} {i : BitVec 5 → BitVec 5 → BitVec 13 → Instr} {p : Word → Word → Prop} (h : IsBranch n i p)
    (x y : BitVec 5) (o : BitVec 13) :
    decodeStream false (0x4C000000 + x.toNat * 2 ^ 21 + y.toNat * 2 ^ 16 + n * 2 ^ 13 + o.toNat) 0 = i x y o := by
  rw [← lay11_toNat_of_cond3 h.cond3, ← h.notVst x y o]
  exact decodeStream_of_encode (h.word x y o) (h.stream x y o) (h.wf x y o) 0

/-! ### What BR leads to -/

/-- A word offset from the PC, in the arithmetic of the integers (R27). -/
theorem relTarget_eq_z64 {n : Nat} (pc : Word) (o : BitVec n) : relTarget pc o = z64 (pc.toNat + 4 * o.toInt) := by
  rw [z64, BitVec.ofInt_add, BitVec.ofInt_mul, relTarget, sx, BitVec.signExtend]
  simp

/-- The reach of a 13-bit word offset. -/
theorem offset13_bounds (o : BitVec 13) : -16384 ≤ 4 * o.toInt ∧ 4 * o.toInt ≤ 16384 := by
  have hlo : -2 ^ 12 ≤ o.toInt := o.le_toInt
  have hhi : o.toInt < 2 ^ 12 := o.toInt_lt
  omega

/-- A jump with nothing else is work that writes no register. -/
theorem writesAndGoes_setPc (s : State) (pc : Word) : WritesAndGoes s (s.setPc s.cur pc) 0 0 pc := by
  have h := writesAndGoes_setReg_setPc s 0 0 pc
  rwa [s.setReg_zero] at h

/-- A ready branch goes to its target when its condition holds of its operands, else to the next word. -/
theorem branch_leads {n : Nat} {x y : BitVec 5} {o : BitVec 13} {s : State} (h : ready s 0 [x, y] = true) :
    ∃ u, branch n x y o s = .next u ∧
      Retires s u 0 0 0 (if brCond n (s.reg s.cur x) (s.reg s.cur y) then relTarget (s.pc s.cur) o else next4 s) := by
  refine ⟨_, rfl, issueShort_retires (f := formAll 0 [x, y]) h rfl rfl rfl rfl rfl ?_⟩
  have hbegun := writesAndGoes_setPc (begun s 0)
  simp only [begun_cur, begun_pc, begun_reg, State.adv]
  split
  · exact hbegun _
  · exact hbegun _

/-- Settles O6: the words by the encoder, the targets by the condition. -/
theorem branchesCompareAllBits : Obligations.BranchesCompareAllBits := by
  unfold Obligations.BranchesCompareAllBits
  intro b hb x y o
  have hbr := branches_isBranch b hb
  obtain ⟨hlo, hhi⟩ := offset13_bounds o
  refine ⟨hbr.decode x y o, hlo, hhi, fun s hs => ?_⟩
  obtain ⟨u, hu, hret⟩ := branch_leads (n := b.1) (o := o) hs
  have hexec := (hbr.runs x y o s).trans hu
  refine ⟨fun hc => ⟨u, hexec, ?taken⟩, fun hc => ⟨u, hexec, ?next⟩⟩
  case taken => rwa [if_pos ((hbr.cond _ _).2 hc), relTarget_eq_z64] at hret
  case next => rwa [if_neg fun h => hc ((hbr.cond _ _).1 h)] at hret

end Sys2Proof.Claims
end

section
/-! SUPPORT. A command in flight that CWAIT names (R192), and the proof of O11. -/

namespace Sys2Proof.Claims
open Sys2Proof.Machine

/-- A ready instruction whose work changes nothing but its own sequencer, and owes no push by it: its tokens move, and it has
retired with the sequencer as that work leaves it. -/
theorem issueShort_becomes_own {f : Form} {pre eff : State → Res} {s w : State} (h : ready s f.t f.uses = true)
    (hok : f.ok = true) (hrole : f.roles (slotNum (slotKey s.cur)) (roleOf s.cur) = true) (hlate : f.late = false)
    (hpre : pre s = .go s) (heff : eff (begun s f.t) = .go w) (hframe : w = { begun s f.t with seqs := w.seqs })
    (hother : ∀ j, j ≠ s.cur → w.seq j = (begun s f.t).seq j) (howed : (w.seq s.cur).owed = (s.seq s.cur).owed) :
    Becomes s (issueShort f pre eff s) (moved (role s) f.t (mine s)) { w.seq s.cur with issued := false } := by
  have hslot (j : Nat) : w.slot j = (begun s f.t).slot j := by rw [hframe]; rfl
  have hcur : w.cur = s.cur := by rw [hframe]; rfl
  rw [issueShort_ready h hok hrole hlate hpre heff (by rw [hframe]; rfl) howed (by rw [hslot, begun_slot_self])]
  refine ⟨⟨?frame, fun j hj => ?seqs, fun j hj => ?slots⟩, ?slot, ?seq⟩
  case frame => rw [hframe]; rfl
  case seqs => rw [State.modSeq_seq_ne _ _ _ _ hj, State.pushTokens, State.modSlot_seq, hother j hj, begun_seq_ne s _ j hj]
  case slots => rw [State.modSeq_slot, State.pushTokens, State.modSlot_slot_ne _ _ _ _ hj, hslot, begun_slot_ne s _ j hj]
  case slot => simp [mine, State.pushTokens, hcur, hslot, moved, popped, role]
  case seq => simp [self, State.pushTokens, hcur]

/-- Noting a command that a CWAIT has seen retire changes the current sequencer's `seen` alone (R293). -/
theorem ovCwait_frame (s : State) (num : BitVec 16) :
    let u := s.ovCwait s.cur num
    u = { s with seqs := u.seqs } ∧ (∀ j, j ≠ s.cur → u.seq j = s.seq j) ∧
      ∃ l, u.seq s.cur = { s.seq s.cur with seen := l } := by
  simp only [State.ovCwait]
  split
  · exact ⟨rfl, fun _ _ => rfl, _, rfl⟩
  · split
    · exact ⟨rfl, fun j hj => State.modSeq_seq_ne _ _ _ _ hj, _, State.modSeq_seq_self _ _ _⟩
    · exact ⟨rfl, fun _ _ => rfl, _, rfl⟩

/-- A command of the slot in flight has the number that CWAIT's operand gives, and is in flight to its stream too. -/
def cwaitNames (s : State) (a : BitVec 5) : Bool :=
  (s.inFlight (slotKey s.cur)).any fun c => decide (c.num = (s.reg s.cur a).setWidth 16) && decide (c.inj ≠ 3)

theorem cwaitNames_iff (s : State) (a : BitVec 5) :
    cwaitNames s a = true ↔ ∃ c ∈ s.inFlight (slotKey s.cur), c.num = (s.reg s.cur a).setWidth 16 ∧ c.inj ≠ 3 := by
  simp [cwaitNames]

/-- CWAIT's condition, and its work, which is to go on. -/
def cwaitPre (a : BitVec 5) (s : State) : Res := if cwaitNames s a then .hold s else .go s
def cwaitWork (a : BitVec 5) (s : State) : Res := .go ((s.ovCwait s.cur ((s.reg s.cur a).setWidth 16)).adv s.cur 4)

theorem exec_cwait (a : BitVec 5) (t : BitVec 4) (s : State) :
    exec (.cwait a t) s = .next (issueShort (formAll t [a]) (cwaitPre a) (cwaitWork a) s) := rfl

/-- CWAIT's work goes on to the next word, and notes what it has seen retire. -/
theorem cwaitWork_begun (s : State) (a : BitVec 5) (t : BitVec 4) :
    ∃ w l, cwaitWork a (begun s t) = .go w ∧ w = { begun s t with seqs := w.seqs } ∧
      (∀ j, j ≠ s.cur → w.seq j = (begun s t).seq j) ∧ w.seq s.cur = { self s with issued := true, pc := next4 s, seen := l } := by
  obtain ⟨hframe, hother, l, hown⟩ := ovCwait_frame (begun s t) (((begun s t).reg (begun s t).cur a).setWidth 16)
  simp only [begun_cur, begun_seq_self] at hother hown
  refine ⟨_, l, rfl, ?frame, fun j hj => ?other, ?own⟩
  case frame =>
    rw [hframe]
    rfl
  case other => exact (State.setSeq_seq_ne _ _ _ _ hj).trans (hother j hj)
  case own =>
    simp only [begun_cur, State.adv, State.setPc, State.setSeq_seq_self, State.pc, hown]
    rfl

/-- Settles O11: the shared issue with CWAIT's own condition, which holds it back or lets it go on. -/
theorem cwaitWaitsForTheNamedCommand : Obligations.CwaitWaitsForTheNamedCommand := by
  unfold Obligations.CwaitWaitsForTheNamedCommand
  intro s a t
  rw [← cwaitNames_iff]
  refine ⟨fun h hnamed => ?waits, fun h hnamed => ⟨_, exec_cwait a t s, ?retires⟩⟩
  case waits =>
    obtain ⟨hcan, hissued, htok, hpop, huses⟩ := (issuable_iff _ _ _).1 h
    rw [exec_cwait, issueShort_goes (formAll t [a]) _ _ s hcan rfl rfl htok hissued hpop huses, cwaitPre, if_pos hnamed]
  case retires =>
    have hpre : cwaitPre a s = .go s := by rw [cwaitPre, if_neg hnamed]
    have hissued := ((ready_iff _ _ _).1 h).2.1
    obtain ⟨w, l, hwork, hframe, hother, hown⟩ := cwaitWork_begun s a t
    obtain ⟨helse, hslot, hseq⟩ :=
      issueShort_becomes_own (f := formAll t [a]) h rfl rfl rfl hpre hwork hframe hother (by rw [hown]; rfl)
    rw [hown] at hseq
    refine ⟨helse, hslot, ?_⟩
    rw [congrArg Seq.seen hseq, hseq, self, ← hissued]

end Sys2Proof.Claims
end

section
/-! SUPPORT. Quotients and remainders in the arithmetic of the integers (R174), an instruction that retires in a later cycle
(R171), and the proof of O2. -/

namespace Sys2Proof.Claims
open Sys2Proof.Machine

/-! ### The values of R174 -/

theorem divS_zero (x : Word) : divS x 0 = 0xFFFFFFFFFFFFFFFF := rfl
theorem divU_zero (x : Word) : divU x 0 = 0xFFFFFFFFFFFFFFFF := rfl
theorem remS_zero (x : Word) : remS x 0 = x := rfl
theorem remU_zero (x : Word) : remU x 0 = x := rfl

/-- The signed operations of bit vectors truncate toward zero, and wrap at the one quotient that has no 64 bits. -/
theorem divS_eq_sdiv {x y : Word} (hy : y ≠ 0) : divS x y = x.sdiv y := by
  rw [divS, if_neg hy]
  apply BitVec.eq_of_toInt_eq
  rw [BitVec.toInt_ofInt, BitVec.toInt_sdiv]

theorem remS_eq_srem {x y : Word} (hy : y ≠ 0) : remS x y = x.srem y := by
  rw [remS, if_neg hy, ← BitVec.toInt_srem, BitVec.ofInt_toInt]

theorem toInt_remS {x y : Word} (hy : y ≠ 0) : (remS x y).toInt = x.toInt.tmod y.toInt := by
  rw [remS_eq_srem hy, BitVec.toInt_srem]

theorem toInt_divS {x y : Word} (hy : y ≠ 0) (h : ¬(x.toInt = -2 ^ 63 ∧ y.toInt = -1)) :
    (divS x y).toInt = x.toInt.tdiv y.toInt := by
  rw [divS_eq_sdiv hy]
  refine BitVec.toInt_sdiv_of_ne_or_ne x y (not_and_or.1 fun hc => h ?_)
  obtain ⟨rfl, rfl⟩ := hc
  exact ⟨rfl, rfl⟩

theorem divS_overflow {x y : Word} (hx : x.toInt = -2 ^ 63) (hy : y.toInt = -1) :
    (divS x y).toInt = -2 ^ 63 ∧ remS x y = 0 := by
  obtain rfl : x = BitVec.intMin 64 := BitVec.eq_of_toInt_eq hx
  obtain rfl : y = -1 := BitVec.eq_of_toInt_eq hy
  exact ⟨rfl, rfl⟩

/-- A remainder truncated toward zero is zero or has the sign of the dividend. -/
theorem tmod_eq_zero_or_neg_iff (a b : Int) : a.tmod b = 0 ∨ (a.tmod b < 0 ↔ a < 0) := by
  have hsign := Int.sign_tmod a b
  split at hsign
  · exact .inl (Int.sign_eq_zero_iff_zero.1 hsign)
  · exact .inr (by rw [← Int.sign_eq_neg_one_iff_neg, hsign, Int.sign_eq_neg_one_iff_neg])

/-- The signed quotient and remainder within their limits. -/
theorem divS_remS {x y : Word} (hy : y ≠ 0) (h : ¬(x.toInt = -2 ^ 63 ∧ y.toInt = -1)) :
    x.toInt = (divS x y).toInt * y.toInt + (remS x y).toInt ∧ (remS x y).toInt.natAbs < y.toInt.natAbs ∧
      (remS x y = 0 ∨ ((remS x y).toInt < 0 ↔ x.toInt < 0)) := by
  have hy0 : y.toInt ≠ 0 := fun h0 => hy (BitVec.eq_of_toInt_eq h0)
  rw [toInt_divS hy h, toInt_remS hy]
  refine ⟨?eq, ?lt, ?sign⟩
  case eq =>
    rw [Int.mul_comm]
    exact (Int.mul_tdiv_add_tmod _ _).symm
  case lt =>
    rw [Int.natAbs_tmod]
    exact Nat.mod_lt _ (Int.natAbs_pos.2 hy0)
  case sign =>
    refine (tmod_eq_zero_or_neg_iff x.toInt y.toInt).imp_left fun h0 => BitVec.eq_of_toInt_eq ?_
    rw [toInt_remS hy, h0]
    rfl

theorem toNat_divU {x y : Word} (hy : y ≠ 0) : (divU x y).toNat = x.toNat / y.toNat := by
  rw [divU, if_neg hy, BitVec.toNat_ofNat, Nat.mod_eq_of_lt ((Nat.div_le_self _ _).trans_lt x.isLt)]

theorem toNat_remU {x y : Word} (hy : y ≠ 0) : (remU x y).toNat = x.toNat % y.toNat := by
  rw [remU, if_neg hy, BitVec.toNat_ofNat, Nat.mod_eq_of_lt ((Nat.mod_le _ _).trans_lt x.isLt)]

/-- The unsigned quotient and remainder. -/
theorem divU_remU {x y : Word} (hy : y ≠ 0) :
    x.toNat = (divU x y).toNat * y.toNat + (remU x y).toNat ∧ (remU x y).toNat < y.toNat := by
  have hy0 : 0 < y.toNat := Nat.pos_of_ne_zero fun h0 => hy (BitVec.eq_of_toNat_eq h0)
  rw [toNat_divU hy, toNat_remU hy]
  exact ⟨(Nat.div_add_mod' _ _).symm, Nat.mod_lt _ hy0⟩

/-! ### An instruction that retires in a later cycle -/

/-- An instruction that takes more than a cycle, and whose turn is one of a slow retirement, writes its register and takes its
pops at once; it stands in `late`, with its pushes, until its turn to retire (R171). -/
theorem issueShort_slow {f : Form} {pre eff : State → Res} {s w : State} {d : BitVec 5} {v pc : Word}
    (h : issuable s f.t f.uses = true) (hdelay : s.delay = true) (hok : f.ok = true)
    (hrole : f.roles (slotNum (slotKey s.cur)) (roleOf s.cur) = true) (hlate : f.late = false) (hslow : f.slow = some d)
    (hpre : pre s = .go s) (heff : eff (begun s f.t) = .go w) (hw : WritesAndGoes (begun s f.t) w d v pc) :
    Becomes s (issueShort f pre eff s) (popped (role s) f.t (mine s))
        { self s with
          pc := pc, regs := (self (issueShort f pre eff s)).regs, late := (self s).late ++ [(d, f.t)] } ∧
      Writes s (issueShort f pre eff s) d v := by
  obtain ⟨hcan, hissued, htok, hpop, huses⟩ := (issuable_iff _ _ _).1 h
  obtain ⟨hframe, hother, hown, hreg⟩ := hw
  simp only [begun_cur, begun_seq_self] at hother hown
  have hcur : w.cur = s.cur := by rw [hframe]; rfl
  have hslot (j : Nat) : w.slot j = (begun s f.t).slot j := by rw [hframe]; rfl
  have hpush : w.pushShort s.cur f = w.modSeq s.cur fun q => { q with late := q.late ++ [(d, f.t)] } := by
    have hd : w.delay = true := by rw [hframe]; exact hdelay
    simp [State.pushShort, hlate, hd, hslow]
  have hrun : issueShort f pre eff s = (w.modSeq s.cur fun q => { q with late := q.late ++ [(d, f.t)] }).modSeq s.cur
      fun q => { q with issued := false } := by
    rw [issueShort_goes f pre eff s hcan hok hrole htok hissued hpop huses, hpre, ← hpush]
    show finishShort f eff (begun s f.t) = _
    simp only [finishShort, heff, begun_cur]
  rw [hrun]
  refine ⟨⟨⟨?frame, fun j hj => ?seqs, fun j hj => ?slots⟩, ?slot, ?seq⟩, fun r => ?reg⟩
  case frame => rw [hframe]; rfl
  case seqs => rw [State.modSeq_seq_ne _ _ _ _ hj, State.modSeq_seq_ne _ _ _ _ hj, hother j hj, begun_seq_ne s _ j hj]
  case slots => rw [State.modSeq_slot, State.modSeq_slot, hslot, begun_slot_ne s _ j hj]
  case slot => simp [mine, hcur, hslot]
  case seq =>
    simp only [self, State.modSeq_cur, State.modSeq_seq_self, hcur]
    rw [hown, hissued]
  case reg =>
    refine Eq.trans ?_ ((hreg r).trans (by simp))
    simp [State.reg]

theorem exec_div (d a b : BitVec 5) (t : BitVec 4) (s : State) : exec (.div d a b t) s = mulDiv divS d a b t s := rfl
theorem exec_divu (d a b : BitVec 5) (t : BitVec 4) (s : State) : exec (.divu d a b t) s = mulDiv divU d a b t s := rfl
theorem exec_rem (d a b : BitVec 5) (t : BitVec 4) (s : State) : exec (.rem d a b t) s = mulDiv remS d a b t s := rfl
theorem exec_remu (d a b : BitVec 5) (t : BitVec 4) (s : State) : exec (.remu d a b t) s = mulDiv remU d a b t s := rfl

/-- A multiplication or a division that retires in a later cycle. -/
theorem mulDiv_slow {g : Word → Word → Word} {s : State} {d a b : BitVec 5} {t : BitVec 4} (h : issuable s t [d, a, b] = true)
    (hdelay : s.delay = true) :
    ∃ u, mulDiv g d a b t s = .next u ∧
      Becomes s u (popped (role s) t (mine s))
        { self s with pc := next4 s, regs := (self u).regs, late := (self s).late ++ [(d, t)] } ∧
      Writes s u d (g (s.reg s.cur a) (s.reg s.cur b)) := by
  refine ⟨_, rfl, issueShort_slow (f := formSlow t d [a, b]) h hdelay rfl rfl rfl rfl rfl rfl ?_⟩
  have hw := writesAndGoes_setReg_setPc (begun s t) d (g (s.reg s.cur a) (s.reg s.cur b)) (next4 s)
  simpa [State.adv, next4, formSlow] using hw

theorem retireLate_eq {s : State} {k n : Nat} {x : BitVec 5 × BitVec 4} (h : (s.seq k).late[n]? = some x) :
    s.retireLate k n = (s.modSeq k fun q => { q with late := q.late.eraseIdx n }).pushOwe k x.2 := by
  simp [State.retireLate, h]

/-- Settles O2: the four operations at once, then their values within and at the limits. -/
theorem divisionTruncatesTowardZero : Obligations.DivisionTruncatesTowardZero := by
  unfold Obligations.DivisionTruncatesTowardZero
  refine ⟨fun s d a b t h => ?ready, fun s d a b t h hdelay => ?slow, fun s k n x h => retireLate_eq h⟩
  case ready =>
    intro x y
    have leads {i : BitVec 5 → BitVec 5 → BitVec 5 → BitVec 4 → Instr} {g : Word → Word → Word}
        (hi : ∀ d a b t s, exec (i d a b t) s = mulDiv g d a b t s) :
        Leads (i d a b t) s fun u => Retires s u t d (g x y) (next4 s) :=
      computes_of_mulDiv hi (fun _ _ => rfl) s d a b t h
    refine ⟨divS x y, remS x y, divU x y, remU x y, leads exec_div, leads exec_rem, leads exec_divu, leads exec_remu,
      fun hy => ?zero, fun ⟨hx, hy⟩ => divS_overflow hx hy, fun ⟨hy, hlim⟩ => divS_remS hy hlim, fun hy => divU_remU hy⟩
    rw [hy]
    exact ⟨divS_zero x, remS_zero x, divU_zero x, remU_zero x⟩
  case slow =>
    rw [Leads, exec_divu]
    exact mulDiv_slow h hdelay

end Sys2Proof.Claims
end

section
/-! SUPPORT. What the module's own writes, and what a slot that its task leaves, change of the state (R96, R323, R353). -/

namespace Sys2Proof.Machine

/-! ### What the module notes and gives back of its own accord -/

/-- Memory has been written and packets sent, commands, grants and requests given back, and a core has counted or chosen
something; no record to the policy core is lost, and nothing else has changed. -/
def State.Notes (s u : State) : Prop :=
  u = { s with
    mem := u.mem, bad := u.bad, ecc := u.ecc, tags := u.tags, unacked := u.unacked, fabricOut := u.fabricOut
    requests := u.requests, nextReq := u.nextReq, cores := u.cores, allocs := u.allocs, holders := u.holders, cmds := u.cmds
    policy := u.policy } ∧
  s.policy <+: u.policy

theorem State.Notes.refl (s : State) : s.Notes s := ⟨rfl, List.prefix_refl _⟩

theorem State.Notes.trans {s t u : State} (h : s.Notes t) (h' : t.Notes u) : s.Notes u := by
  obtain ⟨hframe, hpolicy⟩ := h
  obtain ⟨hframe', hpolicy'⟩ := h'
  refine ⟨?_, hpolicy.trans hpolicy'⟩
  rw [hframe', hframe]

theorem State.Notes.slot {s u : State} (h : s.Notes u) (j : Nat) : u.slot j = s.slot j := by rw [h.1]; rfl
theorem State.Notes.graphs {s u : State} (h : s.Notes u) : u.graphs = s.graphs := by rw [h.1]
theorem State.Notes.chalt {s u : State} (h : s.Notes u) : u.chalt = s.chalt := by rw [h.1]
theorem State.Notes.saved {s u : State} (h : s.Notes u) : u.saved = s.saved := by rw [h.1]
theorem State.Notes.readies {s u : State} (h : s.Notes u) : u.readies = s.readies := by rw [h.1]

theorem State.Accessed.notes {s u : State} (h : s.Accessed u) : s.Notes u := by
  rw [State.Accessed] at h
  rw [h]
  exact ⟨rfl, List.prefix_refl _⟩

theorem State.notes_event (s : State) (name : String) (a b : Word) : s.Notes (s.event name a b) := ⟨rfl, List.prefix_append _ _⟩

theorem State.notes_countLine (s : State) (core line : Nat) : s.Notes (s.countLine core line) := by
  rw [Claims.countLine_frame]
  exact ⟨rfl, List.prefix_refl _⟩

theorem State.notes_countSoft (s : State) (r : TrapRec) : s.Notes (s.countSoft r) := by
  rw [Claims.countSoft_frame]
  exact ⟨rfl, List.prefix_refl _⟩

theorem State.notes_sendWrite (s : State) (uid cls pa n : Nat) : s.Notes (s.sendWrite uid cls pa n) := by
  rw [State.sendWrite_frame]
  exact ⟨rfl, List.prefix_refl _⟩

theorem State.notes_putMain (s : State) (a : Nat) (bs : List Byte) : s.Notes (s.putMain a bs) := by
  have hw := (s.accessed_writeLines a bs (originTag 0 0) (originTag 0 0)).notes
  rw [State.putMain]
  split
  next t heq =>
    rw [heq] at hw
    exact hw.trans (t.notes_sendWrite _ _ _ _)
  next t b heq =>
    rw [heq] at hw
    refine hw.trans (State.Notes.trans ?_ (State.notes_event _ _ _ _))
    split
    · exact t.notes_countLine _ _
    · exact .refl t

theorem State.notes_blockSet (s : State) (m o n x : Nat) : s.Notes (s.blockSet m o n x) := s.notes_putMain _ _

theorem State.notes_writeUsage (s : State) (nodes : List Nat) : s.Notes (s.writeUsage nodes) :=
  List.foldlRecOn nodes _ (.refl s) fun t ht _ _ => ht.trans (t.notes_putMain _ _)

theorem State.notes_returnGrants (s : State) (owner : Nat) (keepWindows : Bool) : s.Notes (s.returnGrants owner keepWindows) :=
  State.Notes.trans ⟨rfl, List.prefix_refl _⟩ (State.notes_writeUsage _ _)

theorem State.notes_dropWaiters (s : State) (sk : Nat) (us : List Nat) : s.Notes (s.dropWaiters sk us) := ⟨rfl, List.prefix_refl _⟩

theorem State.notes_dropBlock (s : State) (sk : Nat) (p : Demander → Bool) : s.Notes (s.dropBlock sk p) := by
  rw [State.dropBlock]
  split
  · split
    · exact ⟨rfl, List.prefix_refl _⟩
    · exact .refl s
  · exact .refl s

theorem State.notes_chooseRun (s : State) (core : Nat) : s.Notes (s.chooseRun core) := ⟨rfl, List.prefix_refl _⟩

/-! ### A slot that its task leaves (R353, R360) -/

theorem State.clearSlot_busy (s : State) (sk : Nat) : ((s.clearSlot sk).slot sk).busy = false := by
  have h : (s.clearSlot sk).slot sk =
      { Slot.init sk with flast := (s.slot sk).flast, cstall := (s.slot sk).cstall, nextCmd := (s.slot sk).nextCmd } :=
    Kv.get_put_self _ _ _ _
  rw [h]
  rfl

/-- The numbers of a slot's commands, sub-commands too. -/
def State.uidsOf (s : State) (sk : Nat) : List Nat := (s.cmds.filter fun c => decide (slotKey c.seqk = sk)).map (·.uid)

/-- A slot's commands, its block and its messages gone, as `leaveSlot` begins. -/
def State.withoutWork (s : State) (sk : Nat) : State :=
  { s.dropBlock sk (fun _ => true) with
    cmds := s.cmds.filter fun c => decide (slotKey c.seqk ≠ sk)
    cores := (s.dropBlock sk fun _ => true).cores.map fun (x : Nat × CoreSt) =>
      (x.1, { x.2 with hqWait := x.2.hqWait.filter fun h => !(s.uidsOf sk).contains h.1 }) }

theorem State.leaveSlot_eq (s : State) (sk : Nat) (keepWindows : Bool) :
    s.leaveSlot sk keepWindows = (((((s.withoutWork sk).dropWaiters sk (s.uidsOf sk)).returnGrants (s.slot sk).owner
      keepWindows).clearSlot sk).chooseRun (sk / 8)) := rfl

theorem State.notes_withoutWork (s : State) (sk : Nat) : s.Notes (s.withoutWork sk) :=
  (s.notes_dropBlock sk _).trans ⟨rfl, List.prefix_refl _⟩

/-- Leaving a slot changes neither what is saved nor what is ready, and frees the slot. -/
theorem State.leaveSlot_leaves (s : State) (sk : Nat) (keepWindows : Bool) :
    let u := s.leaveSlot sk keepWindows
    u.saved = s.saved ∧ u.readies = s.readies ∧ (u.slot sk).busy = false := by
  intro u
  have hu : u = _ := s.leaveSlot_eq sk keepWindows
  have hgiven := ((s.notes_withoutWork sk).trans (State.notes_dropWaiters _ sk (s.uidsOf sk))).trans
    (State.notes_returnGrants _ (s.slot sk).owner keepWindows)
  generalize ((s.withoutWork sk).dropWaiters sk (s.uidsOf sk)).returnGrants (s.slot sk).owner keepWindows = a at hu hgiven
  have hrun := (a.clearSlot sk).notes_chooseRun (sk / 8)
  rw [hu]
  exact ⟨hrun.saved.trans hgiven.saved, hrun.readies.trans hgiven.readies,
    (congrArg Slot.busy (hrun.slot sk)).trans (a.clearSlot_busy sk)⟩

theorem State.leaveSlot_busy (s : State) (sk : Nat) (keepWindows : Bool) : ((s.leaveSlot sk keepWindows).slot sk).busy = false :=
  (s.leaveSlot_leaves sk keepWindows).2.2

theorem State.terminate_busy (s : State) (sk code : Nat) : ((s.terminate sk code).slot sk).busy = false :=
  State.leaveSlot_busy _ _ _

end Sys2Proof.Machine
end

section
/-! SUPPORT. What beginning the stop of a task, of its team and of a region changes (R343, R352, R353, R357, R367). -/

namespace Sys2Proof.Machine

/-! ### Any stop -/

/-- The part of the state that no stop changes, but for the slots' own: which slots run a task, the regions that are halted,
and CHALT. -/
structure State.StopKeeps (s u : State) : Prop where
  busy : ∀ j, (u.slot j).busy = (s.slot j).busy
  haltedRegions : u.haltedRegions = s.haltedRegions
  chalt : u.chalt = s.chalt

theorem State.StopKeeps.refl (s : State) : s.StopKeeps s := ⟨fun _ => rfl, rfl, rfl⟩

theorem State.StopKeeps.trans {s t u : State} (h : s.StopKeeps t) (h' : t.StopKeeps u) : s.StopKeeps u :=
  ⟨fun j => (h'.busy j).trans (h.busy j), h'.haltedRegions.trans h.haltedRegions, h'.chalt.trans h.chalt⟩

theorem State.stopKeeps_foldl {α : Type} {f : State → α → State} (hf : ∀ (s : State) x, s.StopKeeps (f s x)) (l : List α) (s : State) :
    s.StopKeeps (l.foldl f s) :=
  List.foldlRecOn l f (.refl s) fun _ ht x _ => ht.trans (hf _ x)

theorem State.stopKeeps_modSlot (s : State) (sk : Nat) {f : Slot → Slot} (hf : ∀ c, (f c).busy = c.busy) :
    s.StopKeeps (s.modSlot sk f) where
  busy j := by
    by_cases hj : j = sk
    · subst hj
      rw [State.modSlot_slot_self, hf]
    · rw [State.modSlot_slot_ne _ _ _ _ hj]
  haltedRegions := rfl
  chalt := rfl

theorem State.stopKeeps_leaveReplay (s : State) (g : Graph) (gid sk : Nat) : s.StopKeeps (s.leaveReplay g gid sk) where
  busy j := by
    by_cases hj : j = sk
    · obtain ⟨d, hd, hbusy, -⟩ := s.leaveReplay_slot_self g gid sk
      rw [hj, hd, hbusy]
    · rw [s.leaveReplay_slot_ne g gid sk j hj]
  haltedRegions := by rw [s.leaveReplay_frame]
  chalt := by rw [s.leaveReplay_frame]

theorem State.stopKeeps_guardFail (s : State) (sk gid : Nat) (count : Bool) : s.StopKeeps (s.guardFail sk gid count) := by
  simp only [State.guardFail]
  split
  · exact .refl s
  · split
    · exact .refl s
    · have h := fun t => State.stopKeeps_leaveReplay t
      exact ⟨(h _ _ gid sk).busy, (h _ _ gid sk).haltedRegions, (h _ _ gid sk).chalt⟩

theorem State.stopKeeps_beginStop (s : State) (sk reason : Nat) : s.StopKeeps (s.beginStop sk reason) := by
  rw [State.beginStop]
  split
  · exact .refl s
  · exact (s.stopKeeps_guardFail sk _ _).trans (State.stopKeeps_modSlot _ _ fun _ => rfl)

theorem State.stopKeeps_stopTeam (s : State) (sk reason : Nat) : s.StopKeeps (s.stopTeam sk reason) := by
  simp only [State.stopTeam]
  split
  · exact .refl s
  · exact State.stopKeeps_foldl (fun t (x : Nat × Slot) => t.stopKeeps_beginStop x.1 reason) _ s

/-- A region that is halted is listed, and frees no slot and gives none a task (R353). -/
theorem State.haltRegion_halts (s : State) (node : Word) :
    node.toNat ∈ (s.haltRegion node).haltedRegions ∧ ∀ j, ((s.haltRegion node).slot j).busy = (s.slot j).busy := by
  have h := State.stopKeeps_foldl (f := fun (s : State) (c : Nat × Slot) => (s.beginStop c.1 5).stopTeam c.1 5)
    (fun t c => (t.stopKeeps_beginStop c.1 5).trans (State.stopKeeps_stopTeam _ _ _))
    (s.slots.filter fun c => decide (slotNum c.1 < 4) && c.2.busy && c.2.regions.contains node)
    { s with haltedRegions := (s.haltedRegions ++ [node.toNat]).eraseDups }
  refine ⟨?_, h.busy⟩
  have hlist : (s.haltRegion node).haltedRegions = (s.haltedRegions ++ [node.toNat]).eraseDups := h.haltedRegions
  rw [hlist]
  simp

/-! ### A stop with no graph -/

/-- A slot whose stop begins for a reason. -/
def Slot.stopped (c : Slot) (reason : Nat) : Slot := { c with stopping := some ⟨reason⟩, saved := 0 }

theorem State.guardFail_of_graphs {s : State} (h : s.graphs = []) (sk gid : Nat) (count : Bool) : s.guardFail sk gid count = s := by
  simp [State.guardFail, State.graph, h]

theorem State.dropRecording_of_graphs {s : State} (h : s.graphs = []) (sk : Nat) : s.dropRecording sk = s := by
  simp [State.dropRecording, State.graph, h]

theorem State.beginStop_of_graphs {s : State} (h : s.graphs = []) (sk reason : Nat) :
    s.beginStop sk reason =
      if (s.slot sk).busy = true ∧ (s.slot sk).stopping = none then s.modSlot sk (·.stopped reason) else s := by
  rw [State.beginStop, State.guardFail_of_graphs h]
  cases (s.slot sk).busy <;> cases (s.slot sk).stopping <;> rfl

/-- Stops begun in the slots of a list: each of them that runs a task and does not stop yet. -/
theorem State.foldl_beginStop {s : State} (hg : s.graphs = []) (l : List (Nat × Slot)) (reason : Nat) :
    let u := l.foldl (fun s x => s.beginStop x.1 reason) s
    u = { s with slots := u.slots } ∧
      ∀ j, u.slot j = if j ∈ l.map (·.1) ∧ (s.slot j).busy = true ∧ (s.slot j).stopping = none then (s.slot j).stopped reason
        else s.slot j := by
  induction l generalizing s with
  | nil => exact ⟨rfl, fun j => by simp⟩
  | cons x l ih =>
    rw [List.foldl_cons, State.beginStop_of_graphs hg]
    split
    next hx =>
      obtain ⟨hframe, hslot⟩ := ih (s := s.modSlot x.1 (·.stopped reason)) hg
      refine ⟨hframe, fun j => (hslot j).trans ?_⟩
      by_cases hj : j = x.1
      · subst hj
        simp [hx, Slot.stopped]
      · rw [State.modSlot_slot_ne _ _ _ _ hj]
        simp only [List.map_cons, List.mem_cons, hj, false_or]
    next hx =>
      obtain ⟨hframe, hslot⟩ := ih hg
      refine ⟨hframe, fun j => (hslot j).trans ?_⟩
      by_cases hj : j = x.1
      · subst hj
        simp [hx]
      · simp only [List.map_cons, List.mem_cons, hj, false_or]

/-- The stop of a team: of its members' slots, every other one that does not stop yet. -/
theorem State.stopTeam_of_graphs {s : State} (hg : s.graphs = []) (sk reason : Nat) :
    let u := s.stopTeam sk reason
    u = { s with slots := u.slots } ∧ u.slot sk = s.slot sk ∧
      ∀ j, u.slot j = s.slot j ∨ (s.slot j).stopping = none ∧ u.slot j = (s.slot j).stopped reason := by
  simp only [State.stopTeam]
  split
  · exact ⟨rfl, rfl, fun j => .inl rfl⟩
  · obtain ⟨hframe, hslot⟩ := State.foldl_beginStop hg (s.slots.filter fun x =>
      decide (x.1 ≠ sk) && decide (slotNum x.1 < 4) && x.2.busy && decide (x.2.teamId = (s.slot sk).teamId)) reason
    refine ⟨hframe, ?_, fun j => ?_⟩
    · rw [hslot, if_neg]
      simp
    · rw [hslot]
      split
      next h => exact .inr ⟨h.2.2, rfl⟩
      next => exact .inl rfl

end Sys2Proof.Machine
end

section
/-! SUPPORT. What CHECKPOINT leads to: a stop that begins, a kill and a checkpoint that end (R357, R358, R360, R366, R367). -/

namespace Sys2Proof.Claims
open Sys2Proof.Machine

/-! ### A stop begins -/

theorem exec_checkpoint (s : State) (sk : Nat) (reason : BitVec 8) :
    exec (.checkpoint sk reason) s = .next (s.checkpoint sk reason.toNat) := rfl

theorem checkpoint_of_runtime {s : State} {sk : Nat} (h : 4 ≤ sk % 8) (reason : Nat) : s.checkpoint sk reason = s := by
  rw [State.checkpoint, if_pos (show slotNum sk ≥ 4 from h)]

/-- A kill does not begin by CHECKPOINT. -/
theorem checkpoint_kill {s : State} {sk : Nat} (hstop : (s.slot sk).stopping = none) : s.checkpoint sk 7 = s := by
  simp [State.checkpoint, hstop, killReason]

theorem checkpoint_begins {s : State} {sk reason : Nat} (hsk : sk % 8 < 4) (hstop : (s.slot sk).stopping = none)
    (hreason : reason ≠ 7) :
    s.checkpoint sk reason = (s.beginStop sk reason).stopTeam sk (if reason = 3 then 2 else reason) := by
  rw [State.checkpoint, if_neg (show ¬ slotNum sk ≥ 4 by rw [slotNum]; omega), hstop]
  exact if_neg hreason

theorem checkpoint_goes {s : State} {sk n : Nat} (hsk : sk % 8 < 4) (hstop : (s.slot sk).stopping = some ⟨n⟩) (reason : Nat) :
    s.checkpoint sk reason = s.goStop sk n := by
  rw [State.checkpoint, if_neg (show ¬ slotNum sk ≥ 4 by rw [slotNum]; omega), hstop]

theorem stopTeam_of_single {s : State} {sk : Nat} (h : (s.slot sk).teamSize ≤ 1) (reason : Nat) : s.stopTeam sk reason = s := by
  simp [State.stopTeam, h]

theorem beginStop_of_free {s : State} {sk : Nat} (h : (s.slot sk).busy = false) (reason : Nat) : s.beginStop sk reason = s := by
  simp [State.beginStop, h]

theorem beginStop_of_running {s : State} {sk : Nat} (hbusy : (s.slot sk).busy = true) (hstop : (s.slot sk).stopping = none)
    (reason : Nat) : s.beginStop sk reason = (s.guardFail sk 0x3FF false).modSlot sk (·.stopped reason) := by
  simp only [State.beginStop, hbusy, hstop, Option.isSome_none, Bool.not_true, Bool.or_self, Bool.false_eq_true, if_false]
  rfl

/-- A slot that runs a task is listed. -/
theorem mem_slots_of_busy {s : State} {j : Nat} (h : (s.slot j).busy = true) : j ∈ s.slots.map (·.1) := by
  by_contra hno
  have hinit : s.slot j = Slot.init j := Kv.get_none _ _ _ fun c hc hj => hno (List.mem_map.2 ⟨c, hc, hj⟩)
  rw [hinit] at h
  exact Bool.noConfusion h

/-- The team of a slot stops with it, where the list of slots has one entry for each (R367). -/
theorem stopTeam_slots {s : State} (hg : s.graphs = []) {sk : Nat} (hlist : ∀ y ∈ s.slots, y.1 ≠ sk → s.slot y.1 = y.2)
    (reason : Nat) :
    let u := s.stopTeam sk reason
    u = { s with slots := u.slots } ∧ ∀ j, u.slot j =
      if 1 < (s.slot sk).teamSize ∧ j ≠ sk ∧ j % 8 < 4 ∧ (s.slot j).busy = true ∧ (s.slot j).teamId = (s.slot sk).teamId ∧
        (s.slot j).stopping = none then (s.slot j).stopped reason else s.slot j := by
  simp only [State.stopTeam]
  split
  next hsize => exact ⟨rfl, fun j => (if_neg fun h => by omega).symm⟩
  next hsize =>
    obtain ⟨hframe, hslot⟩ := State.foldl_beginStop hg (s.slots.filter fun x =>
      decide (x.1 ≠ sk) && decide (slotNum x.1 < 4) && x.2.busy && decide (x.2.teamId = (s.slot sk).teamId)) reason
    refine ⟨hframe, fun j => (hslot j).trans ?_⟩
    refine if_congr ?_ rfl rfl
    simp only [List.mem_map, List.mem_filter, Bool.and_eq_true, decide_eq_true_eq]
    constructor
    · rintro ⟨⟨x, ⟨hx, ⟨⟨hne, hnum⟩, -⟩, hteam⟩, rfl⟩, hbusy, hstop⟩
      rw [← hlist x hx hne] at hteam
      exact ⟨by omega, hne, hnum, hbusy, hteam, hstop⟩
    · rintro ⟨-, hne, hnum, hbusy, hteam, hstop⟩
      obtain ⟨x, hx, rfl⟩ := List.mem_map.1 (mem_slots_of_busy hbusy)
      have hx2 := hlist x hx hne
      rw [hx2] at hbusy hteam
      exact ⟨⟨x, ⟨hx, ⟨⟨hne, hnum⟩, hbusy⟩, hteam⟩, rfl⟩, by rw [hx2]; exact hbusy, hstop⟩

/-- A checkpoint of a member of a team stops the team. -/
theorem checkpoint_team {s : State} {sk reason : Nat} (hsk : sk % 8 < 4) (hbusy : (s.slot sk).busy = true)
    (hstop : (s.slot sk).stopping = none) (hreason : reason ≠ 7) (hg : s.graphs = []) (hlist : ∀ y ∈ s.slots, s.slot y.1 = y.2) :
    let u := s.checkpoint sk reason
    u = { s with slots := u.slots } ∧ ∀ j, u.slot j =
      if j = sk then (s.slot sk).stopped reason
      else if 1 < (s.slot sk).teamSize ∧ j % 8 < 4 ∧ (s.slot j).busy = true ∧ (s.slot j).teamId = (s.slot sk).teamId ∧
        (s.slot j).stopping = none then (s.slot j).stopped (if reason = 3 then 2 else reason)
      else s.slot j := by
  rw [checkpoint_begins hsk hstop hreason, beginStop_of_running hbusy hstop, State.guardFail_of_graphs hg]
  obtain ⟨hframe, hslot⟩ := stopTeam_slots (s := s.modSlot sk (·.stopped reason)) (sk := sk) hg
    (fun y hy hne => by
      obtain rfl | hy := Kv.mem_put _ _ _ _ hy
      · exact absurd rfl hne
      · rw [State.modSlot_slot_ne _ _ _ _ hne, hlist y hy])
    (if reason = 3 then 2 else reason)
  refine ⟨hframe, fun j => (hslot j).trans ?_⟩
  by_cases hj : j = sk
  · subst hj
    simp
  · rw [State.modSlot_slot_self, State.modSlot_slot_ne _ _ _ _ hj]
    simp only [hj, not_false_eq_true, ne_eq, true_and, if_false]
    rfl

theorem leaveReplay_slot {s : State} {g : Graph} {gid sk : Nat} (h : (s.slot sk).mode = 2) :
    (s.leaveReplay g gid sk).slot sk =
      { s.slot sk with mode := 3, gid := gid, kept := (s.slot sk).kept ++ s.keptOf g sk } := by
  rw [State.leaveReplay, if_neg (by simp [h])]
  exact State.modSlot_slot_self _ _ _

/-- The stop notice of a replayed task that is stopped (R343). -/
def State.stopNoticed (s : State) (sk : Nat) (g : Graph) : State :=
  { s with notices := s.notices ++ [(g.shape, g.ver, (s.slot sk).tix, 0x3FF, false)] }

theorem guardFail_of_replay {s : State} {sk : Nat} {g : Graph} (hg : s.graph (s.slot sk).graph = some g) (hgmode : g.mode = 2) :
    s.guardFail sk 0x3FF false = (State.stopNoticed s sk g).leaveReplay g 0x3FF sk := by
  simp only [State.guardFail, hg, hgmode]
  rfl

/-- A checkpoint of a replayed task ends its replay as a guard failure (R343). -/
theorem checkpoint_replay {s : State} {sk reason : Nat} {g : Graph} (hsk : sk % 8 < 4) (hbusy : (s.slot sk).busy = true)
    (hstop : (s.slot sk).stopping = none) (hreason : reason ≠ 7) (hteam : (s.slot sk).teamSize ≤ 1) (hmode : (s.slot sk).mode = 2)
    (hg : s.graph (s.slot sk).graph = some g) (hgmode : g.mode = 2) :
    let u := s.checkpoint sk reason
    u = { s with slots := u.slots, cmds := u.cmds, notices := s.notices ++ [(g.shape, g.ver, (s.slot sk).tix, 0x3FF, false)] } ∧
      (∀ j, j ≠ sk → u.slot j = s.slot j) ∧ ∃ kept,
        u.slot sk = { s.slot sk with mode := 3, gid := 0x3FF, kept := kept, stopping := some ⟨reason⟩, saved := 0 } := by
  have hslot := leaveReplay_slot (s := State.stopNoticed s sk g) (g := g) (gid := 0x3FF) hmode
  rw [checkpoint_begins hsk hstop hreason, beginStop_of_running hbusy hstop, guardFail_of_replay hg hgmode, stopTeam_of_single]
  · refine ⟨?_, fun j hj => ?_, (s.slot sk).kept ++ (State.stopNoticed s sk g).keptOf g sk, ?_⟩
    · rw [State.leaveReplay_frame]
      rfl
    · rw [State.modSlot_slot_ne _ _ _ _ hj, State.leaveReplay_slot_ne _ _ _ _ _ hj]
      rfl
    · rw [State.modSlot_slot_self, hslot]
      rfl
  · rw [State.modSlot_slot_self, hslot]
    exact hteam

/-! ### A stop goes on -/

theorem goStop_waits {s : State} {sk n : Nat} (h : n = 3 ∨ n = 6 ∨ s.stopped sk = false) : s.goStop sk n = s := by
  rw [State.goStop]
  split
  · rfl
  next hs =>
    have hn : n = 3 ∨ n = 6 := by tauto
    rw [if_neg (by rw [killReason]; omega), if_pos hn]

theorem goStop_kill {s : State} {sk : Nat} (h : s.stopped sk = true) : s.goStop sk 7 = s.finishKill sk := by
  simp [State.goStop, h, killReason]

theorem goStop_checkpoint {s : State} {sk n : Nat} (h : s.stopped sk = true) (h3 : n ≠ 3) (h6 : n ≠ 6) (h7 : n ≠ 7) :
    s.goStop sk n = s.finishCheckpoint sk n := by
  simp [State.goStop, h, killReason, h3, h6, h7]

/-- The record of a killed task is ready anew, with the time the task has run (R358, R370). -/
def killRequeued (s t : State) (sk : Nat) (r : ReadyRec) : State :=
  { t with
    nextRec := t.nextRec + 1
    readies := t.readies ++ [{ r with
      id := t.nextRec, prio := (s.slot sk).prio, rose := s.time, byDec := true, resume := none, victim := none, run := s.prunWord sk }] }

theorem finishKill_eq {s : State} {sk : Nat} {r : ReadyRec} (hr : (s.slot sk).rcd = some r) :
    s.finishKill sk = (killRequeued s (s.blockSet (s.slot sk).tcbAt 200 4 2) sk r).leaveSlot sk false := by
  simp only [State.finishKill, hr]
  rfl

/-- A kill that ends: the slot is free, nothing is saved, and the record that the task was launched from is ready anew. -/
theorem finishKill_leaves {s : State} {sk : Nat} {r : ReadyRec} (hr : (s.slot sk).rcd = some r) :
    let u := s.finishKill sk
    (u.slot sk).busy = false ∧ u.saved = s.saved ∧
      ∃ q ∈ u.readies, q.tcb = r.tcb ∧ q.resume = none ∧ q.ready = r.ready ∧ q.prio = (s.slot sk).prio ∧ q.run = s.prunWord sk := by
  rw [finishKill_eq hr]
  obtain ⟨hsaved, hreadies, hbusy⟩ :=
    State.leaveSlot_leaves (killRequeued s (s.blockSet (s.slot sk).tcbAt 200 4 2) sk r) sk false
  refine ⟨hbusy, hsaved.trans (s.notes_blockSet _ _ _ _).saved, ?_⟩
  rw [hreadies]
  exact ⟨_, List.mem_append_right _ (List.mem_singleton_self _), rfl, rfl, rfl, rfl, rfl⟩

/-- A save area written at once is complete, whatever number of bad lines it would be carried past. -/
theorem completeSave_of_writeSave {s t : State} {sk reason : Nat} (h : s.writeSave sk reason = (t, .ok ())) (n : Nat) :
    s.completeSave sk reason n = (t, s.tileEcc sk, .ok ()) := by
  cases n <;> rw [State.completeSave, h]

/-- A task of a slot kept beside its save area, and its TCB's status that of a checkpointed one (R298, R360). -/
def kept (t : State) (sk n : Nat) : State :=
  { t.blockSet (t.slot sk).tcbAt 200 4 (5 + (t.slot sk).marks) with
    saved := (t.blockSet (t.slot sk).tcbAt 200 4 (5 + (t.slot sk).marks)).saved ++ [t.keep sk n none] }

theorem kept_slot (t : State) (sk n j : Nat) : (kept t sk n).slot j = t.slot j := (t.notes_blockSet _ _ _ _).slot j

theorem finishCheckpoint_eq {s t : State} {sk n : Nat} (hsave : s.writeSave sk n = (t, .ok ())) (hecc : s.tileEcc sk = none) :
    s.finishCheckpoint sk n = ((kept t sk n).resumeRec sk).leaveSlot sk true := by
  rw [State.finishCheckpoint, completeSave_of_writeSave hsave, hecc]
  rfl

/-- A task whose save area and tiles are whole is saved, and its record is ready to resume on the same core. -/
theorem finishCheckpoint_saves {s t : State} {sk n : Nat} {r : ReadyRec} (hsave : s.writeSave sk n = (t, .ok ()))
    (hecc : s.tileEcc sk = none) (hr : (t.slot sk).rcd = some r) :
    let u := s.finishCheckpoint sk n
    (u.slot sk).busy = false ∧ (∃ v ∈ u.saved, v.tcb = (t.slot sk).tcb ∧ v.core = sk / 8 ∧ v.held = none ∧ v.reason = n) ∧
      ∃ q ∈ u.readies, q.tcb = r.tcb ∧ q.resume = some (sk / 8) ∧ q.ready = r.ready ∧ q.tokens = r.tokens := by
  have hr2 : ((kept t sk n).slot sk).rcd = some r := (congrArg Slot.rcd (kept_slot t sk n sk)).trans hr
  obtain ⟨hsaved, hreadies, hbusy⟩ := State.leaveSlot_leaves ((kept t sk n).resumeRec sk) sk true
  rw [finishCheckpoint_eq hsave hecc]
  refine ⟨hbusy, ?_, ?_⟩
  · rw [hsaved]
    simp only [State.resumeRec, hr2]
    exact ⟨_, List.mem_append_right _ (List.mem_singleton_self _), rfl, rfl, rfl, rfl⟩
  · rw [hreadies]
    simp only [State.resumeRec, hr2]
    exact ⟨_, List.mem_append_right _ (List.mem_singleton_self _), rfl, rfl, rfl, rfl⟩

theorem takeTrap_policy (s : State) (sk : Nat) (r : TrapRec) : (s.takeTrap sk r).policy = s.policy ++ [.trap r] := by
  simp only [State.takeTrap, State.modSlot_policy]

theorem takeTrap_slot (s : State) (sk : Nat) (r : TrapRec) :
    (s.takeTrap sk r).slot sk =
      { s.slot sk with
        trap := if (s.slot sk).governs then some r else (s.slot sk).trap
        stopping := if (s.slot sk).governs then some ⟨3⟩ else (s.slot sk).stopping
        saved := if (s.slot sk).governs then 0 else (s.slot sk).saved
        flast := r.flast } := by
  refine (State.modSlot_slot_self _ _ _).trans ?_
  rw [show State.slot { s.countSoft r with policy := s.policy ++ [PolicyRec.trap r] } sk = s.slot sk from (s.notes_countSoft r).slot sk]

/-- A task with a tile line that ECC cannot correct is saved all the same, and then faults with the line's address (R97, R360). -/
theorem finishCheckpoint_ecc {s t : State} {sk n : Nat} {b : BadLine} (hsave : s.writeSave sk n = (t, .ok ()))
    (hecc : s.tileEcc sk = some b) (hmode : (t.slot sk).mode ≠ 1) (hgov : (t.slot sk).governs = true) :
    let u := s.finishCheckpoint sk n
    (u.slot sk).busy = (t.slot sk).busy ∧ (u.slot sk).trap = some (t.eccRec sk b) ∧
      u.policy = t.policy ++ [.trap (t.eccRec sk b)] := by
  have hu : s.finishCheckpoint sk n = t.takeTrap sk (t.eccRec sk b) := by
    rw [State.finishCheckpoint, completeSave_of_writeSave hsave, hecc]
    simp only [State.dropRecording, hmode, ne_eq, not_false_eq_true, if_true]
  simp only [hu, takeTrap_slot, takeTrap_policy, if_pos hgov, and_self]

end Sys2Proof.Claims
end

section
/-! SUPPORT. What a core that halts leaves of its slots, its mark in CHALT and the records of its tasks (R355, R368). -/

namespace Sys2Proof.Claims
open Sys2Proof.Machine

/-! ### The parts of a halt -/

/-- Slots 4 and 5 of a core that halts: captured, their commands gone, their sequencers stopped. -/
def haltRuntime (s : State) (core : Nat) : State :=
  [4, 5].foldl (fun (s : State) i =>
    let own (c : Cmd) : Bool := decide (slotKey c.seqk = core * 8 + i)
    ({ s with cmds := s.cmds.filter fun c => !own c }.dropWaiters (core * 8 + i) ((s.cmds.filter own).map fun (c : Cmd) => c.uid)).modSeq
      ((core * 8 + i) * 4 + 3) fun q => { q with active := false, stopped := true, loads := [], stores := [] })
    ((s.captureSlot (core * 8 + 4) 1024).captureSlot (core * 8 + 5) 0)

/-- The record of a task that is stopped because its core halts. -/
def haltRec (s : State) (sk : Nat) : TrapRec := { s.trapBase (sk * 4 + 1) with stream := 4, engine := 11, code := 15 }

/-- Task slot `i` of a core that halts. -/
def haltTask (core : Nat) (s : State) (i : Nat) : State :=
  if !(s.slot (core * 8 + i)).busy || decide ((s.slot (core * 8 + i)).stopping = some ⟨killReason⟩) then s
  else
    ((((s.guardFail (core * 8 + i) 0x3FF false).takeTrap (core * 8 + i) (haltRec s (core * 8 + i))).modSlot (core * 8 + i)
      (·.stopped 6)).dropRecording (core * 8 + i)).stopTeam (core * 8 + i) 2

/-- The four task slots of a core that halts, after slots 4 and 5. -/
def haltTasks (s : State) (core : Nat) : State := (List.range 4).foldl (haltTask core) (haltRuntime s core)

/-- The mark of a core in CHALT. -/
def haltMark (core : Nat) : BitVec 48 := BitVec.ofNat 48 (2 ^ (6 * octantOf core + clusterOf core))

theorem haltCore_of_halted {s : State} {core : Nat} (h : (s.core core).halted = true) : s.haltCore core = s := by
  rw [State.haltCore, if_pos h]

theorem haltCore_eq {s : State} {core : Nat} (h : (s.core core).halted = false) :
    s.haltCore core =
      ({ haltTasks s core with chalt := (haltTasks s core).chalt ||| haltMark core }.modCore core fun c =>
          { c with halted := true, haltedAt := s.time }).event "core halted" (BitVec.ofNat 64 core) s.time := by
  rw [State.haltCore, if_neg (by simp [h])]
  rfl

/-- What a halt leaves of the core itself. -/
theorem haltCore_core {s : State} {core : Nat} (h : (s.core core).halted = false) :
    ((s.haltCore core).core core).halted = true ∧ ((s.haltCore core).core core).haltedAt = s.time := by
  rw [haltCore_eq h]
  generalize haltTasks s core = t
  have hcore := State.modCore_core_self { t with chalt := t.chalt ||| haltMark core } core fun c =>
    { c with halted := true, haltedAt := s.time }
  exact ⟨congrArg CoreSt.halted hcore, congrArg CoreSt.haltedAt hcore⟩

theorem haltCore_halts (s : State) (core : Nat) : ((s.haltCore core).core core).halted = true := by
  cases h : (s.core core).halted with
  | true => rw [haltCore_of_halted h, h]
  | false => exact (haltCore_core h).1

/-- What it leaves of the slots, and the records it adds to. -/
theorem haltCore_slots {s : State} {core : Nat} (h : (s.core core).halted = false) :
    (∀ j, (s.haltCore core).slot j = (haltTasks s core).slot j) ∧ (haltTasks s core).policy <+: (s.haltCore core).policy := by
  rw [haltCore_eq h]
  generalize haltTasks s core = t
  exact ⟨fun _ => rfl, List.prefix_append _ _⟩

/-! ### CHALT -/

theorem notes_captureSlot (s : State) (sk off : Nat) : s.Notes (s.captureSlot sk off) := by
  simp only [State.captureSlot]
  split
  · exact .refl s
  · split
    · exact (s.notes_putMain _ _).trans (State.notes_putMain _ _ _)
    · exact s.notes_putMain _ _

/-- Slots 4 and 5 halt with no change to a slot, a graph or CHALT. -/
theorem haltRuntime_keeps (s : State) (core : Nat) :
    (∀ j, (haltRuntime s core).slot j = s.slot j) ∧ (haltRuntime s core).graphs = s.graphs ∧ (haltRuntime s core).chalt = s.chalt := by
  have h := (notes_captureSlot s (core * 8 + 4) 1024).trans (notes_captureSlot _ (core * 8 + 5) 0)
  rw [haltRuntime]
  generalize (s.captureSlot (core * 8 + 4) 1024).captureSlot (core * 8 + 5) 0 = t at h
  exact ⟨h.slot, h.graphs, h.chalt⟩

theorem softDrop_chalt (s : State) (n : BitVec 128) : (s.softDrop n).chalt = s.chalt := by
  rw [State.softDrop]
  split
  · rfl
  split
  · rfl
  split
  next t h =>
    simp only [State.addCount] at h
    split_ifs at h <;> cases h <;> rfl
  · rfl

theorem setDirField_chalt (s : State) (e o n x : Nat) : (s.setDirField e o n x).chalt = s.chalt := by
  rw [State.setDirField, State.poke_frame]

theorem dirEmpty_chalt (s : State) (e : Nat) : (s.dirEmpty e).chalt = s.chalt := by
  rw [State.dirEmpty, setDirField_chalt, setDirField_chalt]
  simp only [State.dirDrop]
  split
  · rfl
  · rw [setDirField_chalt, softDrop_chalt]

theorem dropRecording_chalt (s : State) (sk : Nat) : (s.dropRecording sk).chalt = s.chalt := by
  rw [State.dropRecording]
  split
  · rfl
  split
  · rfl
  next g _ =>
    rw [State.abandon]
    split
    · rfl
    · exact dirEmpty_chalt ((s.setGraph _).setModes g.id 0 0) g.entry

theorem takeTrap_keeps (s : State) (sk : Nat) (r : TrapRec) :
    (s.takeTrap sk r).chalt = s.chalt ∧ (s.takeTrap sk r).graphs = s.graphs := by
  have h := s.notes_countSoft r
  exact ⟨h.chalt, h.graphs⟩

theorem haltTask_chalt (core : Nat) (s : State) (i : Nat) : (haltTask core s i).chalt = s.chalt := by
  rw [haltTask]
  split
  · rfl
  · rw [(State.stopKeeps_stopTeam _ _ _).chalt, dropRecording_chalt, State.modSlot_chalt, (takeTrap_keeps _ _ _).1,
      (State.stopKeeps_guardFail _ _ _ _).chalt]

theorem haltTasks_chalt (s : State) (core : Nat) : (haltTasks s core).chalt = s.chalt :=
  List.foldlRecOn (motive := fun u => State.chalt u = s.chalt) _ _ (haltRuntime_keeps s core).2.2
    fun t ht i _ => (haltTask_chalt core t i).trans ht

/-- The mark of a core that exists is one of the 48 bits, six for each octant (R15, R188). -/
theorem haltMark_getLsbD {core : Nat} (h : coreExists core = true) :
    (haltMark core).getLsbD (6 * octantOf core + clusterOf core) = true := by
  simp only [coreExists, Bool.and_eq_true, decide_eq_true_eq] at h
  have hlt : 6 * octantOf core + clusterOf core < 48 := by
    simp only [octantOf, clusterOf, rowOf, colOf] at h ⊢
    omega
  rw [haltMark, BitVec.getLsbD_ofNat, Nat.testBit_two_pow_self]
  simpa using hlt

/-- The marks of CHALT after a halt. -/
theorem haltCore_chalt {s : State} {core : Nat} (h : (s.core core).halted = false) :
    (s.haltCore core).chalt = s.chalt ||| haltMark core := by
  rw [haltCore_eq h, ← haltTasks_chalt s core]
  rfl

/-! ### Task slots, with no graph -/

/-- A task that has its record and its reason to stop. -/
def haltStopped (s : State) (sk : Nat) : State := (s.takeTrap sk (haltRec s sk)).modSlot sk (·.stopped 6)

theorem haltStopped_policy (s : State) (sk : Nat) : (haltStopped s sk).policy = s.policy ++ [.trap (haltRec s sk)] :=
  takeTrap_policy s sk (haltRec s sk)

theorem haltStopped_graphs (s : State) (sk : Nat) : (haltStopped s sk).graphs = s.graphs := (takeTrap_keeps s sk (haltRec s sk)).2

theorem haltStopped_slot_ne (s : State) {sk j : Nat} (hj : j ≠ sk) : (haltStopped s sk).slot j = s.slot j :=
  (State.modSlot_slot_ne _ _ _ _ hj).trans ((State.modSlot_slot_ne _ _ _ _ hj).trans ((s.notes_countSoft _).slot j))

theorem haltStopped_slot (s : State) (sk : Nat) :
    ∃ trap fl, (haltStopped s sk).slot sk = { s.slot sk with trap := trap, flast := fl, stopping := some ⟨6⟩, saved := 0 } := by
  rw [haltStopped, State.modSlot_slot_self, takeTrap_slot]
  exact ⟨_, _, rfl⟩

theorem haltTask_of_graphs {s : State} (hg : s.graphs = []) {core i : Nat} (hbusy : (s.slot (core * 8 + i)).busy = true)
    (hkill : (s.slot (core * 8 + i)).stopping ≠ some ⟨7⟩) :
    haltTask core s i = (haltStopped s (core * 8 + i)).stopTeam (core * 8 + i) 2 := by
  have hkill' : (s.slot (core * 8 + i)).stopping ≠ some ⟨killReason⟩ := hkill
  rw [haltTask, if_neg (by simp [hbusy, hkill']), State.guardFail_of_graphs hg]
  rw [State.dropRecording_of_graphs]
  · rfl
  · exact (haltStopped_graphs s (core * 8 + i)).trans hg

theorem haltTask_skips {core i : Nat} {s : State}
    (h : (s.slot (core * 8 + i)).busy = false ∨ (s.slot (core * 8 + i)).stopping = some ⟨7⟩) : haltTask core s i = s := by
  rw [haltTask, if_pos]
  rcases h with h | h <;> simp [h, killReason]

/-- What the halt of task slots leaves of any slot: its task, a kill that is under way, and a halt that has come to it. -/
structure SlotHalting (c d : Slot) : Prop where
  busy : d.busy = c.busy
  taskid : d.taskid = c.taskid
  killed : d.stopping = some ⟨7⟩ ↔ c.stopping = some ⟨7⟩
  halted : c.stopping = some ⟨6⟩ → d.stopping = some ⟨6⟩

theorem SlotHalting.refl (c : Slot) : SlotHalting c c := ⟨rfl, rfl, Iff.rfl, id⟩

theorem SlotHalting.trans {c d e : Slot} (h : SlotHalting c d) (h' : SlotHalting d e) : SlotHalting c e :=
  ⟨h'.busy.trans h.busy, h'.taskid.trans h.taskid, h'.killed.trans h.killed, h'.halted ∘ h.halted⟩

/-- The same of the state: no slot but as above, and no record is lost. -/
structure Halting (s u : State) : Prop where
  graphs : u.graphs = s.graphs
  policy : s.policy <+: u.policy
  slot : ∀ j, SlotHalting (s.slot j) (u.slot j)

theorem Halting.refl (s : State) : Halting s s := ⟨rfl, List.prefix_refl _, fun _ => .refl _⟩

theorem Halting.trans {s t u : State} (h : Halting s t) (h' : Halting t u) : Halting s u :=
  ⟨h'.graphs.trans h.graphs, h.policy.trans h'.policy, fun j => (h.slot j).trans (h'.slot j)⟩

theorem halting_haltStopped {s : State} {sk : Nat} (hkill : (s.slot sk).stopping ≠ some ⟨7⟩) : Halting s (haltStopped s sk) where
  graphs := haltStopped_graphs s sk
  policy := by
    rw [haltStopped_policy]
    exact List.prefix_append _ _
  slot j := by
    by_cases hj : j = sk
    · obtain ⟨trap, fl, hslot⟩ := haltStopped_slot s sk
      rw [hj, hslot]
      exact ⟨rfl, rfl, by simp [hkill], fun _ => rfl⟩
    · rw [haltStopped_slot_ne s hj]
      exact .refl _

theorem halting_stopTeam {s : State} (hg : s.graphs = []) (sk : Nat) : Halting s (s.stopTeam sk 2) where
  graphs := by rw [(State.stopTeam_of_graphs hg sk 2).1]
  policy := by rw [(State.stopTeam_of_graphs hg sk 2).1]
  slot j := by
    obtain h | ⟨hnone, h⟩ := (State.stopTeam_of_graphs hg sk 2).2.2 j
    · rw [h]
      exact .refl _
    · rw [h]
      exact ⟨rfl, rfl, by simp [Slot.stopped, hnone], by simp [hnone]⟩

/-- One task slot of a core that halts. -/
theorem haltTask_halting {s : State} (hg : s.graphs = []) (core i : Nat) :
    Halting s (haltTask core s i) ∧ ((s.slot (core * 8 + i)).busy = true → (s.slot (core * 8 + i)).stopping ≠ some ⟨7⟩ →
      ((haltTask core s i).slot (core * 8 + i)).stopping = some ⟨6⟩ ∧
        PolicyRec.trap (haltRec s (core * 8 + i)) ∈ (haltTask core s i).policy) := by
  by_cases h : (s.slot (core * 8 + i)).busy = true ∧ (s.slot (core * 8 + i)).stopping ≠ some ⟨7⟩
  case neg =>
    rw [haltTask_skips (by rw [← Bool.not_eq_true]; tauto)]
    exact ⟨.refl s, fun hb hk => absurd ⟨hb, hk⟩ h⟩
  case pos =>
    obtain ⟨hbusy, hkill⟩ := h
    rw [haltTask_of_graphs hg hbusy hkill]
    generalize core * 8 + i = sk at hbusy hkill
    have hteam := halting_stopTeam ((haltStopped_graphs s sk).trans hg) sk
    obtain ⟨trap, fl, hslot⟩ := haltStopped_slot s sk
    refine ⟨(halting_haltStopped hkill).trans hteam, fun _ _ => ⟨(hteam.slot sk).halted (by rw [hslot]), hteam.policy.subset ?_⟩⟩
    simp [haltStopped_policy]

/-- The record of a task slot of a core names the core and the task. -/
theorem haltRec_names (s : State) {core i : Nat} (hi : i < 4) :
    (haltRec s (core * 8 + i)).code = 15 ∧ (haltRec s (core * 8 + i)).engine = 11 ∧ (haltRec s (core * 8 + i)).core = core ∧
      (haltRec s (core * 8 + i)).task = (s.slot (core * 8 + i)).taskid.setWidth 32 := by
  refine ⟨rfl, rfl, ?_, ?_⟩
  · show ((core * 8 + i) * 4 + 1) / 32 = core
    omega
  · have hkey : slotKey ((core * 8 + i) * 4 + 1) = core * 8 + i := by
      rw [slotKey]
      omega
    show (s.slot (slotKey ((core * 8 + i) * 4 + 1))).taskid.setWidth 32 = _
    rw [hkey]

/-- What the halt of a core leaves of one of its task slots: a task that is not being killed stops for the halt, and its record
has gone to the policy core. -/
def TaskHalted (s u : State) (core i : Nat) : Prop :=
  (u.slot (core * 8 + i)).stopping = some ⟨6⟩ ∧ ∃ r : TrapRec, PolicyRec.trap r ∈ u.policy ∧ r.code = 15 ∧ r.engine = 11 ∧
    r.core = core ∧ r.task = (s.slot (core * 8 + i)).taskid.setWidth 32

theorem TaskHalted.later {s t u : State} {core i : Nat} (h : TaskHalted s t core i) (h' : Halting t u) : TaskHalted s u core i := by
  obtain ⟨hstop, r, hr, hnames⟩ := h
  exact ⟨(h'.slot _).halted hstop, r, h'.policy.subset hr, hnames⟩

/-- The task slots of a list, one after another. -/
theorem foldl_haltTask {s : State} (hg : s.graphs = []) (core : Nat) (l : List Nat) :
    Halting s (l.foldl (haltTask core) s) ∧ ∀ i ∈ l, i < 4 → (s.slot (core * 8 + i)).busy = true →
      (s.slot (core * 8 + i)).stopping ≠ some ⟨7⟩ → TaskHalted s (l.foldl (haltTask core) s) core i := by
  induction l generalizing s with
  | nil => exact ⟨.refl s, fun i hi => absurd hi (by simp)⟩
  | cons x l ih =>
    obtain ⟨hstep, hown⟩ := haltTask_halting hg core x
    obtain ⟨hrest, hthere⟩ := ih (hstep.graphs.trans hg)
    rw [List.foldl_cons]
    refine ⟨hstep.trans hrest, fun i hi hlt hbusy hkill => ?_⟩
    by_cases hx : i = x
    · subst hx
      obtain ⟨hstop, hrec⟩ := hown hbusy hkill
      exact TaskHalted.later ⟨hstop, _, hrec, haltRec_names s hlt⟩ hrest
    · have hslot := hstep.slot (core * 8 + i)
      have hmem : i ∈ l := by simpa [hx] using hi
      have h := hthere i hmem hlt (hslot.busy.trans hbusy) (fun hk => hkill (hslot.killed.1 hk))
      rwa [TaskHalted, hslot.taskid] at h

/-- The loss of a core whose module has no graph: each of its tasks stops, but one that is being killed. -/
theorem haltCore_tasks {s : State} {core i : Nat} (h : (s.core core).halted = false) (hi : i < 4) (hg : s.graphs = [])
    (hbusy : (s.slot (core * 8 + i)).busy = true) :
    ((s.slot (core * 8 + i)).stopping = some ⟨7⟩ → ((s.haltCore core).slot (core * 8 + i)).stopping = some ⟨7⟩) ∧
      ((s.slot (core * 8 + i)).stopping ≠ some ⟨7⟩ → TaskHalted s (s.haltCore core) core i) := by
  obtain ⟨hslot, hgraphs, -⟩ := haltRuntime_keeps s core
  obtain ⟨hall, htasks⟩ := foldl_haltTask (hgraphs.trans hg) core (List.range 4)
  rw [← haltTasks] at hall htasks
  obtain ⟨hafter, hpolicy⟩ := haltCore_slots h
  refine ⟨fun hk => ?killed, fun hk => ?halted⟩
  case killed =>
    rw [hafter]
    exact (hall.slot _).killed.2 (by rw [hslot, hk])
  case halted =>
    obtain ⟨hstop, r, hr, hnames⟩ := htasks i (List.mem_range.2 hi) hi (by rw [hslot, hbusy]) (by rw [hslot]; exact hk)
    rw [hslot] at hnames
    exact ⟨by rw [hafter, hstop], r, hpolicy.subset hr, hnames⟩

end Sys2Proof.Claims
end

section
/-! SUPPORT. What FAULT_STOP leads to: the policy of a saved task, a handler run that ends, and a fault of the runtime (R352 to
R355). -/

namespace Sys2Proof.Claims
open Sys2Proof.Machine

theorem exec_faultStop (s : State) (sk : Nat) : exec (.faultStop sk) s = .next (s.faultStop sk) := rfl

theorem faultStop_of_none {s : State} {sk : Nat} (h : (s.slot sk).trap = none) : s.faultStop sk = s := by
  simp [State.faultStop, h]

/-! ### A task slot (R353) -/

/-- A fault stop of a slot that is neither slot 4 nor slot 5, of a task that is in no graph and no team. -/
theorem faultStop_of_task {s : State} {sk : Nat} {r : TrapRec} (hr : (s.slot sk).trap = some r) (h4 : sk % 8 ≠ 4) (h5 : sk % 8 ≠ 5)
    (hg : s.graphs = []) (hteam : (s.slot sk).teamSize ≤ 1) :
    s.faultStop sk = if s.stopped sk = true then s.finishFault sk r else s := by
  have hn4 : slotNum sk ≠ 4 := h4
  have hn5 : slotNum sk ≠ 5 := h5
  simp only [State.faultStop, hr, hn4, hn5, if_false, State.guardFail_of_graphs hg, State.dropRecording_of_graphs hg,
    stopTeam_of_single hteam, State.teamSaved, hteam, decide_true, Bool.true_or, Bool.and_true]

/-- What each policy leaves of a faulted task: its slot is free, and it is held, or its region is halted. -/
theorem applyPolicy_leaves (s : State) (sk code : Nat) :
    let u := s.applyPolicy sk code
    (u.slot sk).busy = false ∧
      ((s.slot sk).policy = 1 → ∃ v ∈ u.saved, v.tcb = (s.slot sk).tcb ∧ v.core = sk / 8 ∧ v.held = some code) ∧
      ((s.slot sk).policy ≠ 1 → (s.slot sk).policy ≠ 2 → ((s.slot sk).regions.getLastD 0).toNat ∈ u.haltedRegions) := by
  simp only [State.applyPolicy]
  split
  case h_1 h2 =>
    exact ⟨State.terminate_busy _ _ _, fun h1 => absurd (h2.symm.trans h1) (by decide), fun _ hne => absurd h2 hne⟩
  case h_2 h1 =>
    refine ⟨State.leaveSlot_busy _ _ _, fun _ => ?_, fun hne => absurd h1 hne⟩
    rw [(State.leaveSlot_leaves _ _ _).1]
    exact ⟨_, List.mem_append_right _ (List.mem_singleton_self _), rfl, rfl, rfl⟩
  case h_3 h2 h1 =>
    obtain ⟨hhalted, hbusy⟩ := State.haltRegion_halts ((((s.blockSet (s.slot sk).tcbAt 200 4
      (7 + 16 * bit (s.slot sk).triggered + code * 65536)).taskOver (s.slot sk).graph (s.slot sk).tcb true).event "region halted"
      ((s.slot sk).regions.getLastD 0) (BitVec.ofNat 64 code)).leaveSlot sk true) ((s.slot sk).regions.getLastD 0)
    exact ⟨(hbusy sk).trans (State.leaveSlot_busy _ _ _), fun h => absurd h h1, fun _ _ => hhalted⟩

/-- A record after the first changes of its slot FLAST alone. -/
theorem takeTrap_slot_later {s : State} {sk : Nat} {r : TrapRec} (h : (s.slot sk).trap = some r) (r' : TrapRec) :
    (s.takeTrap sk r').slot sk = { s.slot sk with flast := r'.flast } := by
  have hgov : (s.slot sk).governs = false := by simp [Slot.governs, h]
  rw [takeTrap_slot, hgov]
  rfl

/-- A faulted task whose save area is complete has the fate of its policy, whatever its tiles hold. -/
theorem finishFault_fate {s t : State} {sk : Nat} {r : TrapRec}
    (hsave : s.writeSave sk (((s.slot sk).stopping.map (·.reason)).getD 3) = (t, .ok ())) (hr : (t.slot sk).trap = some r) :
    ∃ v : State, s.finishFault sk r = v.applyPolicy sk r.code ∧ ∃ fl, v.slot sk = { t.slot sk with flast := fl } := by
  simp only [State.finishFault, completeSave_of_writeSave hsave]
  split
  next b =>
    refine ⟨_, rfl, ?_⟩
    split
    · exact ⟨_, rfl⟩
    · exact ⟨_, takeTrap_slot_later hr _⟩
  next => exact ⟨t, rfl, _, rfl⟩

/-! ### Slots 4 and 5 (R355, R368) -/

/-- A fault of the runtime halts its core. -/
theorem faultStop_runtime {s : State} {sk : Nat} {r : TrapRec} (hr : (s.slot sk).trap = some r) (h5 : sk % 8 = 5) :
    ((s.faultStop sk).core (sk / 8)).halted = true ∧ ((s.faultStop sk).slot sk).trap = none := by
  have hu : s.faultStop sk = (s.haltCore (sk / 8)).modSlot sk fun c => { c with trap := none } := by
    simp only [State.faultStop, hr, if_pos (show slotNum sk = 5 from h5)]
  rw [hu, State.modSlot_core, State.modSlot_slot_self]
  exact ⟨haltCore_halts s _, rfl⟩

/-- Slot 4 with its run gone: its commands in flight, and what they waited for; its sequencer is as after reset but for its TLB. -/
def handlerDropped (s : State) (sk : Nat) : State :=
  let us := (s.inFlight sk).map (·.uid)
  (((({ s with cmds := s.cmds.filter fun c => !us.contains c.uid }.dropWaiters sk us).modSeq (sk * 4 + 3)
    fun q => { tlb := q.tlb }).modSlot sk fun c =>
      { c with busy := false, stopping := none, trap := none, exiting := none }).chooseRun (sk / 8))

/-- A faulted handler run that has come to its stop point leaves slot 4 dormant. -/
theorem faultStop_handler {s : State} {sk : Nat} {r : TrapRec} (hr : (s.slot sk).trap = some r) (h4 : sk % 8 = 4)
    (hstopped : s.stopped sk = true) : s.faultStop sk = handlerDropped s sk := by
  have hn4 : slotNum sk = 4 := h4
  simp only [State.faultStop, hr, hn4, hstopped, if_true]
  rfl

theorem handlerDropped_leaves (s : State) (sk : Nat) :
    let u := handlerDropped s sk
    u = { s with cmds := u.cmds, requests := u.requests, seqs := u.seqs, slots := u.slots, cores := u.cores } ∧
      (∀ y, y ∈ u.cmds → y ∈ s.cmds ∧ ∀ z ∈ s.inFlight sk, z.uid ≠ y.uid) ∧ (u.seq (sk * 4 + 3)).active = false ∧
      ∀ j, u.slot j = if j = sk then { s.slot sk with busy := false, stopping := none, trap := none, exiting := none } else s.slot j := by
  refine ⟨rfl, fun y hy => ?_, ?_, fun j => ?_⟩
  · obtain ⟨hmem, hno⟩ := List.mem_filter.1 hy
    exact ⟨hmem, fun z hz heq => by simp [← heq, List.mem_map_of_mem hz] at hno⟩
  · exact congrArg Seq.active (Kv.get_put_self _ _ _ _)
  · split
    next hj =>
      subst hj
      exact Kv.get_put_self _ _ _ _
    next hj => exact Kv.get_put_ne _ _ _ _ _ hj

theorem faultStop_handler_waits {s : State} {sk : Nat} (h4 : sk % 8 = 4) (hstopped : s.stopped sk = false) :
    s.faultStop sk = s := by
  have hn4 : slotNum sk = 4 := h4
  simp only [State.faultStop, hn4, hstopped]
  split <;> rfl

end Sys2Proof.Claims
end

section
/-! SUPPORT. Heartbeats, and what the loss of a core leads to (R188, R191, R355, R368). -/

namespace Sys2Proof.Claims
open Sys2Proof.Machine

/-! ### HEARTBEAT_TIMER (R191) -/

theorem exec_heartbeatTimer (s : State) (core : Nat) :
    exec (.heartbeatTimer core) s = .next
      (if s.time.toNat < (s.core core).hbmark.toNat + (s.core core).period then s
      else (s.modCore core fun c => { c with hbmark := BitVec.ofNat 64 (c.hbmark.toNat + (s.core core).period) }).modSlot
        (core * 8 + 5) (·.post 15 1)) := rfl

/-- A period over: the mark moves on by it, and slot 5's event 15 counts one. -/
theorem heartbeatTimer_posts {s : State} {core : Nat} (h : (s.core core).hbmark.toNat + (s.core core).period ≤ s.time.toNat) :
    Leads (.heartbeatTimer core) s fun u => u = { s with cores := u.cores, slots := u.slots } ∧
      (∀ j, u.core j = if j = core then
        { s.core core with hbmark := (s.core core).hbmark + BitVec.ofNat 64 (s.core core).period } else s.core j) ∧
      ∀ j, u.slot j = if j = core * 8 + 5 then (s.slot j).post 15 1 else s.slot j := by
  refine ⟨_, exec_heartbeatTimer s core, ?_⟩
  rw [if_neg (by omega)]
  refine ⟨rfl, fun j => ?_, fun j => ?_⟩
  · rw [State.modSlot_core]
    split
    next hj => rw [hj, State.modCore_core_self, BitVec.ofNat_add, BitVec.ofNat_toNat, BitVec.setWidth_eq]
    next hj => rw [State.modCore_core_ne _ _ _ _ hj]
  · split
    next hj => rw [hj, State.modSlot_slot_self, State.modCore_slot]
    next hj => rw [State.modSlot_slot_ne _ _ _ _ hj, State.modCore_slot]

/-! ### The loss of a core (R368) -/

theorem exec_heartbeatLoss (s : State) (core : Nat) :
    exec (.heartbeatLoss core) s = .next
      (if s.time.toNat < s.beatFrom core + 2 * (s.core core).period then s else s.haltCore core) := rfl

/-- With no beat for two periods since the last one, or since CONFIG, a core that is not halted halts. -/
theorem heartbeatLoss_of_running {s : State} {core : Nat} (h : s.beatFrom core + 2 * (s.core core).period ≤ s.time.toNat) :
    exec (.heartbeatLoss core) s = .next (s.haltCore core) := by
  rw [exec_heartbeatLoss, if_neg (by omega)]

theorem heartbeatLoss_waits {s : State} {core : Nat}
    (h : s.time.toNat < s.beatFrom core + 2 * (s.core core).period ∨ (s.core core).halted = true) :
    exec (.heartbeatLoss core) s = .next s := by
  rw [exec_heartbeatLoss]
  split
  · rfl
  next hlt => rw [haltCore_of_halted (h.resolve_left hlt)]

/-! ### CAPTURE_CHECKPOINT_TIMEOUT (R368) -/

theorem exec_captureCheckpointTimeout (s : State) (sk : Nat) :
    exec (.captureCheckpointTimeout sk) s = .next
      (if (s.core (sk / 8)).halted = true ∧ (s.slot sk).busy = true ∧ (s.slot sk).stopping = some ⟨6⟩ ∧
          (s.core (sk / 8)).haltedAt.toNat + 2 * (s.core (sk / 8)).period ≤ s.time.toNat then s.terminate sk 15
        else s) := by
  show Host.Outcome.next _ = _
  simp only [Bool.and_eq_true, decide_eq_true_eq, and_assoc]

end Sys2Proof.Claims
end

section
/-! SUPPORT. The proof of O53. -/

namespace Sys2Proof.Claims
open Sys2Proof.Machine

theorem reason_ne_kill {reason : BitVec 8} (h : reason ≠ 7) : reason.toNat ≠ 7 := fun hn => h (BitVec.eq_of_toNat_eq hn)

/-- Settles O53: each event by the lemma of its case. -/
theorem stopsAndHeartbeats : Obligations.StopsAndHeartbeats := by
  unfold Obligations.StopsAndHeartbeats
  intro s sk core reason c x per beat saved
  refine ⟨fun h => ?runtime, fun hsk => ⟨fun hfree hstop hteam => ?free, fun hbusy hstop hreason => ⟨fun hg hlist => ?team,
    fun g hteam hmode hg hgmode => ?replay⟩, fun hstop hreason => ?noKill, fun n hstop => ⟨fun h => ?waits,
    fun r hn hstopped hr => ?killed, fun t r h3 h6 h7 hstopped hsave hslot => ⟨fun hecc hr => ?whole, fun b hecc htrap hmode => ?badLine⟩⟩⟩,
    fun h => ?noFault, fun r hr hg hmode hteam => ⟨fun h5 hstopped => ?faultWaits, fun h5 => ⟨_, rfl, faultStop_runtime hr h5⟩,
    fun h4 hstopped => ?handler, fun t hsk hstopped hsave hslot => ?fate⟩, ⟨fun h => ?late, fun h => ?notLate⟩, fun h => ?early,
    heartbeatTimer_posts, heartbeatLoss_waits, fun h hrun hexists => ?loss⟩
  case runtime => rw [exec_checkpoint, checkpoint_of_runtime h]
  case free =>
    rw [exec_checkpoint]
    by_cases hreason : reason.toNat = 7
    · rw [hreason, checkpoint_kill hstop]
    · rw [checkpoint_begins hsk hstop hreason, beginStop_of_free hfree, stopTeam_of_single hteam]
  case team => exact ⟨_, rfl, checkpoint_team hsk hbusy hstop (reason_ne_kill hreason) hg hlist⟩
  case replay =>
    obtain ⟨hframe, hothers, kept, hkept⟩ := checkpoint_replay hsk hbusy hstop (reason_ne_kill hreason) hteam hmode hg hgmode
    exact ⟨_, rfl, hframe, hothers, by rw [hkept]⟩
  case noKill =>
    subst hreason
    exact congrArg Host.Outcome.next (checkpoint_kill hstop)
  case waits => rw [exec_checkpoint, checkpoint_goes hsk hstop, goStop_waits h]
  case killed =>
    subst hn
    refine ⟨_, rfl, ?_⟩
    rw [checkpoint_goes hsk hstop, goStop_kill hstopped]
    exact finishKill_leaves hr
  case whole =>
    refine ⟨_, rfl, ?_⟩
    rw [checkpoint_goes hsk hstop, goStop_checkpoint hstopped h3 h6 h7]
    have hsaves := finishCheckpoint_saves hsave hecc ((congrArg Slot.rcd hslot).trans hr)
    rwa [show (t.slot sk).tcb = c.tcb by rw [hslot]] at hsaves
  case badLine =>
    have hgov : (t.slot sk).governs = true := by
      rw [hslot]
      simp [Slot.governs, c, htrap, hstop, killReason, h7]
    refine ⟨_, rfl, t.eccRec sk b, ?_⟩
    rw [checkpoint_goes hsk hstop, goStop_checkpoint hstopped h3 h6 h7]
    obtain ⟨hbusy, htrap, hpolicy⟩ := finishCheckpoint_ecc hsave hecc (by rw [hslot]; exact hmode) hgov
    exact ⟨hbusy.trans (by rw [hslot]), htrap, hpolicy, rfl, rfl, rfl, rfl⟩
  case noFault => rw [exec_faultStop, faultStop_of_none h]
  case faultWaits =>
    rw [exec_faultStop]
    by_cases h4 : sk % 8 = 4
    · rw [faultStop_handler_waits h4 hstopped]
    · rw [faultStop_of_task hr h4 h5 hg hteam, if_neg (by simp [hstopped])]
  case handler =>
    refine ⟨_, rfl, ?_⟩
    rw [faultStop_handler hr h4 hstopped]
    exact handlerDropped_leaves s sk
  case fate =>
    obtain ⟨v, hv, fl, hvslot⟩ := finishFault_fate hsave ((congrArg Slot.trap hslot).trans hr)
    refine ⟨_, rfl, ?_⟩
    rw [faultStop_of_task hr (by omega) (by omega) hg hteam, if_pos hstopped, hv]
    have hleaves := applyPolicy_leaves v sk r.code
    rwa [hvslot, hslot] at hleaves
  case late => exact ⟨_, (exec_captureCheckpointTimeout s sk).trans (congrArg _ (if_pos h)), State.terminate_busy s sk 15⟩
  case notLate => exact (exec_captureCheckpointTimeout s sk).trans (congrArg _ (if_neg h))
  case early => exact (exec_heartbeatTimer s core).trans (congrArg _ (if_pos h))
  case loss =>
    obtain ⟨hhalted, hat⟩ := haltCore_core hrun
    refine ⟨_, heartbeatLoss_of_running h, hhalted, hat, ?mark, fun i hi => ?marks, fun i hi hg hbusy => haltCore_tasks hrun hi hg hbusy⟩
    case mark => rw [haltCore_chalt hrun, BitVec.getLsbD_or, haltMark_getLsbD hexists, Bool.or_true]
    case marks => rw [haltCore_chalt hrun, BitVec.getLsbD_or, hi, Bool.true_or]

end Sys2Proof.Claims
end

section
/-! SUPPORT. Numbers made of digits, and what the shared forms of the micro-orders leave: a register written lane by lane or element by
element, a mask written bit by bit, an index register (R194, R196, R212). -/

namespace Sys2Proof.Machine

/-! ### Digits, elements and mask bits (R194, R196) -/

/-- A number made of `n` digits of `w` bits, least first. -/
def digits (w : Nat) (f : Nat → Nat) (n : Nat) : Nat := (List.range n).foldl (fun a q => a + f q % 2 ^ w * 2 ^ (w * q)) 0

theorem digits_succ (w : Nat) (f : Nat → Nat) (n : Nat) : digits w f (n + 1) = digits w f n + f n % 2 ^ w * 2 ^ (w * n) := by
  simp [digits, List.range_succ]

theorem digits_lt (w : Nat) (f : Nat → Nat) (n : Nat) : digits w f n < 2 ^ (w * n) := by
  induction n with
  | zero => simp [digits]
  | succ n ih =>
    have hdigit : f n % 2 ^ w + 1 ≤ 2 ^ w := Nat.mod_lt _ (Nat.two_pow_pos w)
    calc digits w f (n + 1)
      _ = digits w f n + f n % 2 ^ w * 2 ^ (w * n) := digits_succ w f n
      _ < 2 ^ (w * n) + f n % 2 ^ w * 2 ^ (w * n) := Nat.add_lt_add_right ih _
      _ = (f n % 2 ^ w + 1) * 2 ^ (w * n) := by ring
      _ ≤ 2 ^ w * 2 ^ (w * n) := Nat.mul_le_mul_right _ hdigit
      _ = 2 ^ (w * (n + 1)) := by rw [← Nat.pow_add]; congr 1; ring

theorem digit_digits (w : Nat) (f : Nat → Nat) {n k : Nat} (hk : k < n) : digits w f n / 2 ^ (w * k) % 2 ^ w = f k % 2 ^ w := by
  induction n with
  | zero => omega
  | succ n ih =>
    rw [digits_succ]
    rcases Nat.lt_succ_iff_lt_or_eq.1 hk with hlt | rfl
    · obtain ⟨m, rfl⟩ := Nat.exists_eq_add_of_lt hlt
      have hhigh : f (k + m + 1) % 2 ^ w * 2 ^ (w * (k + m + 1)) =
          2 ^ (w * k) * (2 ^ w * (f (k + m + 1) % 2 ^ w * 2 ^ (w * m))) := by
        rw [show w * (k + m + 1) = w * k + w + w * m by ring, Nat.pow_add, Nat.pow_add]
        ring
      rw [hhigh, Nat.add_mul_div_left _ _ (Nat.two_pow_pos _), Nat.add_mul_mod_self_left]
      exact ih hlt
    · rw [Nat.add_mul_div_right _ _ (Nat.two_pow_pos _), Nat.div_eq_of_lt (digits_lt w f k), Nat.zero_add, Nat.mod_mod]

/-- A bit of a number made of bits. -/
theorem testBit_foldl_bit (f : Nat → Bool) {n k : Nat} (hk : k < n) :
    ((List.range n).foldl (fun a j => a + bit (f j) * 2 ^ j) 0).testBit k = f k := by
  have hbits : (List.range n).foldl (fun a j => a + bit (f j) * 2 ^ j) 0 = digits 1 (fun j => bit (f j)) n := by
    refine List.foldl_ext _ _ _ fun a j _ => ?_
    cases hf : f j <;> simp [bit, hf]
  have hdigit := digit_digits 1 (fun j => bit (f j)) hk
  rw [Nat.pow_one, Nat.one_mul] at hdigit
  rw [hbits, Nat.testBit_eq_decide_div_mod_eq, hdigit]
  cases f k <;> rfl

theorem getLsbD_maskOf (f : Nat → Bool) {j : Nat} (hj : j < 128) : (maskOf f).getLsbD j = f j := by
  rw [maskOf, BitVec.getLsbD_ofNat, testBit_foldl_bit f hj, decide_eq_true hj, Bool.true_and]

theorem lane_ofLanes (f : Nat → BitVec 32) {j : Nat} (hj : j < 128) : lane (ofLanes f) j = f j := lane_map_range f hj

theorem lane_ofElems (w : Nat) (f : Nat → Nat) {j : Nat} (hj : j < 128) :
    lane (ofElems w f) j = BitVec.ofNat 32 (digits w (fun q => f (j * (32 / w) + q)) (32 / w)) := lane_map_range _ hj

/-- The lane of an element (R194). -/
theorem laneOf_elem {w : Nat} (hw : w ∣ 32) (e : Nat) : e * w / 32 = e / (32 / w) := by
  obtain ⟨n, hn⟩ := hw
  have hpos : 0 < w := Nat.pos_of_ne_zero fun h => by simp [h] at hn
  rw [hn, Nat.mul_div_cancel_left _ hpos, Nat.mul_comm e w, Nat.mul_div_mul_left _ _ hpos]

/-- An element read from a register that elements make. -/
theorem elem_ofElems {w : Nat} (hw : w ∣ 32) (f : Nat → Nat) {e : Nat} (he : e * w < 4096) : elem w (ofElems w f) e = f e % 2 ^ w := by
  have hlane := laneOf_elem hw e
  have hj : e / (32 / w) < 128 := by omega
  have hmul : w * (32 / w) = 32 := Nat.mul_div_cancel' hw
  have hpos : 0 < 32 / w := Nat.pos_of_ne_zero fun h => by simp [h] at hmul
  have hlt := digits_lt w (fun q => f (e / (32 / w) * (32 / w) + q)) (32 / w)
  rw [hmul] at hlt
  rw [elem, lane_ofElems w f hj, BitVec.toNat_ofNat, Nat.mod_eq_of_lt hlt, digit_digits _ _ (Nat.mod_lt _ hpos), Nat.div_add_mod']

/-- Mask bits read after a write of the bits that a mask permits (R196). -/
theorem getLsbD_setVmask (s : State) (sk k n : Nat) (m v : BitVec 128) {j : Nat} (hj : j < 128) :
    ((s.setVmask sk k m v).vmask sk n).getLsbD j =
      if n = k ∧ m.getLsbD j = true then v.getLsbD j else (s.vmask sk n).getLsbD j := by
  simp only [State.vmask, State.setVmask, State.modVec, State.modSlot_slot_self, Kv.get_put]
  by_cases hn : n = k
  · rw [if_pos hn, hn]
    simp only [BitVec.getLsbD_or, BitVec.getLsbD_and, BitVec.getLsbD_not, hj, decide_true, Bool.true_and, true_and]
    cases m.getLsbD j <;> simp
  · rw [if_neg hn, if_neg fun h => hn h.1]

end Sys2Proof.Machine

namespace Sys2Proof.Claims
open Sys2Proof.Machine

/-! ### What a write of the vector state leaves -/

theorem VectorOnly.refl (s : State) (c : Cmd) : VectorOnly s s c (vec s c) := by
  refine ⟨rfl, fun j => ?_⟩
  split
  next h => rw [h, vec]
  next => rfl

theorem VectorOnly.modVec {s u : State} {c : Cmd} {v : VecSt} (h : VectorOnly s u c v) (f : VecSt → VecSt) :
    VectorOnly s (u.modVec (slotKey c.seqk) f) c (f v) := by
  obtain ⟨hframe, hslot⟩ := h
  refine ⟨by rw [hframe]; rfl, fun j => ?_⟩
  rw [State.modVec_slot, hslot]
  split <;> rfl

theorem vec_modVec (s : State) (c : Cmd) (f : VecSt → VecSt) : vec (s.modVec (slotKey c.seqk) f) c = f (vec s c) := by
  rw [vec, State.modVec_slot, if_pos rfl, vec]

theorem vectorOnly_setVreg (s : State) (c : Cmd) (d : BitVec 7) (m : BitVec 128) (v : VReg) :
    let u := s.setVreg (slotKey c.seqk) d m v
    VectorOnly s u c { vec s c with regs := (vec u c).regs } := by
  simp only [State.setVreg, vec_modVec]
  exact (VectorOnly.refl s c).modVec _

theorem vectorOnly_setVmask (s : State) (c : Cmd) (k : Nat) (m v : BitVec 128) :
    let u := s.setVmask (slotKey c.seqk) k m v
    VectorOnly s u c { vec s c with masks := (vec u c).masks } := by
  simp only [State.setVmask, vec_modVec]
  exact (VectorOnly.refl s c).modVec _

theorem vectorOnly_setIndex (s : State) (c : Cmd) (x : Nat) (v : BitVec 16) :
    let u := s.setIndex (slotKey c.seqk) x v
    VectorOnly s u c { vec s c with ix := (vec u c).ix } := by
  simp only [State.setIndex, vec_modVec]
  exact (VectorOnly.refl s c).modVec _

/-! ### Lanes, elements and mask bits written under a guard -/

theorem Executes.mono {i : Instr} {s : State} {c : Cmd} {g : Nat} {p q : State → Prop} (h : Executes i s c g p)
    (hpq : ∀ u, p u → q u) : Executes i s c g q := by
  obtain ⟨hoff, hon⟩ := h
  refine ⟨hoff, fun hg => ?_⟩
  obtain ⟨u, hu, hp⟩ := hon hg
  exact ⟨u, hu, hpq u hp⟩

/-- A write of lanes is a write of the elements that they hold (R194). -/
theorem fillsElems_of_fillsLanes {i : Instr} {s : State} {c : Cmd} {d : BitVec 7} {g w : Nat} (hw : w ∣ 32) {f : Nat → BitVec 32}
    {h : Nat → Nat} (hlanes : FillsLanes i s c d g f)
    (hf : ∀ e, e * w < 4096 → (f (e * w / 32)).toNat / 2 ^ (w * (e % (32 / w))) % 2 ^ w = h e % 2 ^ w) :
    FillsElems i s c d g w h := by
  refine hlanes.mono fun u ⟨honly, hu⟩ => ⟨honly, fun r e he => ?_⟩
  rw [elem, ← laneOf_elem hw, hu r _ (by omega)]
  split
  · exact hf e he
  · rw [elem, laneOf_elem hw]

section
variable {i : Instr} {s : State} {c : Cmd} (hrun : s.run = some c)
include hrun

theorem fillsLanes_setVreg {g : Nat} {d : BitVec 7} {eff : State → Cmd → MRes} {v : VReg} {f : Nat → BitVec 32}
    (hexec : exec i s = .next (Machine.microOrder g eff s))
    (heff : eff s c = .ok (s.setVreg (slotKey c.seqk) d (s.guardMask (slotKey c.seqk) g) v)) (hv : ∀ j, j < 128 → lane v j = f j) :
    FillsLanes i s c d g f :=
  executes_microOrder hexec hrun ⟨_, heff, vectorOnly_setVreg s c d _ v, fun r j hj => by
    rw [lane_setVreg _ _ _ _ _ _ hj, getLsbD_guardMask _ _ _ hj, hv j hj]⟩

theorem fillsLanes_vop {d : BitVec 7} {g : BitVec 4} {v : State → Cmd → VReg} {f : Nat → BitVec 32}
    (hexec : exec i s = .next (vop d g v s)) (hv : ∀ j, j < 128 → lane (v s c) j = f j) : FillsLanes i s c d g.toNat f :=
  fillsLanes_setVreg hrun hexec rfl hv

theorem fillsLanes_ofLanes {d : BitVec 7} {g : BitVec 4} {v : State → Cmd → Nat → BitVec 32} {f : Nat → BitVec 32}
    (hexec : exec i s = .next (vop d g (fun s c => ofLanes (v s c)) s)) (hv : ∀ j, j < 128 → v s c j = f j) :
    FillsLanes i s c d g.toNat f :=
  fillsLanes_vop hrun hexec fun j hj => (lane_ofLanes _ hj).trans (hv j hj)

theorem fillsElems_ofElems {w : Nat} (hw : w ∣ 32) {d : BitVec 7} {g : BitVec 4} {v : State → Cmd → Nat → Nat} {f : Nat → Nat}
    (hexec : exec i s = .next (vop d g (fun s c => ofElems w (v s c)) s)) (hv : ∀ e, v s c e % 2 ^ w = f e % 2 ^ w) :
    FillsElems i s c d g.toNat w f :=
  fillsElems_of_fillsLanes hw (fillsLanes_vop hrun hexec fun _ _ => rfl) fun e he => by
    rw [laneOf_elem hw, ← hv e, ← elem_ofElems hw _ he, elem]

theorem fillsMask_kop {k : BitVec 3} {g : BitVec 4} {v : State → Cmd → BitVec 128} {f : Nat → Bool}
    (hexec : exec i s = .next (kop k g v s)) (hv : ∀ j, j < 128 → (v s c).getLsbD j = f j) : FillsMask i s c k g.toNat f :=
  executes_microOrder hexec hrun ⟨_, rfl, vectorOnly_setVmask s c k.toNat _ (v s c), fun m j hj => by
    rw [getLsbD_setVmask _ _ _ _ _ _ hj, getLsbD_guardMask _ _ _ hj, hv j hj]⟩

end

end Sys2Proof.Claims
end

section
/-! SUPPORT. How a run moves on after a micro-order, and which run its engine chooses at a pass end (R206, R207, R210, R212, R224); with
the proof of O36. -/

namespace Sys2Proof.Machine

/-! ### The words of a run (R204, R206) -/

theorem Cmd.start_eq (c : Cmd) : c.start = c.v1.toNat % 2 ^ 12 := by simp [Cmd.start, bits]

theorem Cmd.trips_eq (c : Cmd) : c.trips = c.v2.toNat % 2 ^ 32 := by simp [Cmd.trips, bits]

theorem Cmd.tails_eq (c : Cmd) : c.tails = c.v3.toNat % 8 := by simp [Cmd.tails, bits]

theorem getLsbD_predsOf (p n : Nat) {k : Nat} (hk : k < 7) : (predsOf p n).getLsbD k = decide (k ≤ p ∧ p - k < n) := by
  rw [predsOf, BitVec.getLsbD_ofNat, testBit_foldl_bit (fun i => decide (i ≤ p) && decide (p - i < n)) hk, decide_eq_true hk,
    Bool.true_and, Bool.decide_and]

end Sys2Proof.Machine

namespace Sys2Proof.Claims
open Sys2Proof.Machine

/-! ### The engine chooses (R207) -/

/-- After a choice the engine has a run exactly when there is one, and no live run of its core outranks it. -/
theorem chooseRun_chooses (s : State) (core : Nat) :
    let u := s.chooseRun core
    ((u.core core).vrun = none → u.runs core = []) ∧
      ∀ m, (u.core core).vrun = some m →
        ∃ x ∈ u.runs core, x.uid = m ∧ ∀ y ∈ u.runs core, u.rank (slotKey x.seqk) ≤ u.rank (slotKey y.seqk) := by
  have hvrun : ((s.chooseRun core).core core).vrun = (s.chooseCmd (s.runs core)).map (·.uid) := by
    rw [State.chooseRun, State.modCore_core_self]
  simp only [hvrun]
  change (_ → s.runs core = []) ∧ ∀ m, _ → ∃ x ∈ s.runs core, x.uid = m ∧ ∀ y ∈ s.runs core, s.rank _ ≤ s.rank _
  by_cases hnone : s.runs core = []
  · simp [hnone, State.chooseCmd]
  · obtain ⟨x, hx, hchosen, hle⟩ := chooseCmd_spec (s := s) hnone
    rw [hchosen]
    refine ⟨nofun, fun m hm => ⟨x, hx, Option.some.inj hm, hle⟩⟩

theorem chooseRun_core_eq (s : State) (k j : Nat) :
    (s.chooseRun k).core j = if j = k then { s.core j with vrun := ((s.chooseRun k).core k).vrun } else s.core j := by
  split
  next h => rw [h, ← chooseRun_core]
  next h => rw [State.chooseRun, State.modCore_core_ne _ _ _ _ h]

/-! ### A micro-order has executed (R206) -/

/-- A run before the last micro-order of its body. -/
theorem advRun_inBody {s : State} {c : Cmd} (h : (vec s c).upc.toNat < c.last) :
    VectorOnly s (s.advRun c) c { vec s c with steps := (vec s c).steps + 1, upc := (vec s c).upc + 1 } := by
  have hadv : s.advRun c = (s.modVec (slotKey c.seqk) fun x => { x with steps := x.steps + 1 }).modVec (slotKey c.seqk) fun x =>
      { x with upc := x.upc + 1 } := if_pos h
  rw [hadv]
  exact ((VectorOnly.refl s c).modVec _).modVec _

/-- The vector state of a run's slot once its pass has ended. -/
def passEnd (v : VecSt) : VecSt := { v with steps := v.steps + 1, passes := v.passes + 1 }

/-- The vector state of a run's slot at the start of its next pass. -/
def nextPass (c : Cmd) (v : VecSt) : VecSt :=
  { passEnd v with rot := (v.passes + 1) % 96, pred := predsOf (v.passes + 1) c.trips, upc := BitVec.ofNat 12 c.start }

/-- A run after a pass that another follows. -/
theorem advRun_nextPass {s : State} {c : Cmd} (hlast : c.last ≤ (vec s c).upc.toNat) (hmore : (vec s c).passes + 1 < c.trips + c.tails) :
    ∃ u, s.advRun c = u.chooseRun (coreOf c.seqk) ∧ VectorOnly s u c (nextPass c (vec s c)) :=
  ⟨_, (if_neg (Nat.not_lt.2 hlast)).trans (congrArg (State.chooseRun · _) (if_pos hmore)),
    (((VectorOnly.refl s c).modVec _).modVec _).modVec _⟩

/-- A run after its last pass. -/
theorem advRun_lastPass {s : State} {c : Cmd} (hlast : c.last ≤ (vec s c).upc.toNat) (hdone : c.trips + c.tails ≤ (vec s c).passes + 1) :
    ∃ u, s.advRun c = (u.setCmd { c with phase := .done }).chooseRun (coreOf c.seqk) ∧ VectorOnly s u c (passEnd (vec s c)) :=
  ⟨_, (if_neg (Nat.not_lt.2 hlast)).trans (congrArg (State.chooseRun · _) (if_neg (Nat.not_lt.2 hdone))),
    ((VectorOnly.refl s c).modVec _).modVec _⟩

/-- At a pass end nothing has changed but the run's slot and command, and then the engine chooses (R206, R207). -/
theorem advRun_passEnd {s : State} {c : Cmd} (hlast : c.last ≤ (vec s c).upc.toNat) :
    ∃ w : State, s.advRun c = w.chooseRun (coreOf c.seqk) ∧ w = { s with slots := w.slots, cmds := w.cmds } := by
  rcases Nat.lt_or_ge ((vec s c).passes + 1) (c.trips + c.tails) with hmore | hdone
  · obtain ⟨u, hu, hframe, -⟩ := advRun_nextPass hlast hmore
    exact ⟨u, hu, by rw [hframe]⟩
  · obtain ⟨u, hu, hframe, -⟩ := advRun_lastPass hlast hdone
    exact ⟨_, hu, by rw [hframe]; rfl⟩

theorem exec_vnop {s : State} {c : Cmd} (hrun : s.run = some c) : exec .vnop s = .next (s.advRun c) := by
  obtain ⟨-, hon⟩ := executes_microOrder (i := .vnop) (g := 0) (p := (· = s)) rfl hrun ⟨s, rfl, rfl⟩
  obtain ⟨u, hu, rfl⟩ := hon rfl
  exact hu

/-! ### The obligation -/

/-- Settles O36: a micro-order leaves its run in its body, at its next pass, or done; the engine's choice is by rank. -/
theorem runsStepThroughTheirTable : Obligations.RunsStepThroughTheirTable := by
  unfold Obligations.RunsStepThroughTheirTable
  intro s c hrun
  refine ⟨exec_vnop hrun, fun hbody => ⟨_, exec_vnop hrun, advRun_inBody hbody⟩,
    fun hlast => ⟨_, exec_vnop hrun, ?frame, fun j => ?cores, ?choice, fun hmore => ?next, fun hdone => ?done⟩,
    fun w => microTraps_microOrder (addr := 0) rfl hrun rfl rfl⟩
  case frame =>
    obtain ⟨w, hw, hframe⟩ := advRun_passEnd hlast
    rw [hw, hframe]
    rfl
  case cores =>
    obtain ⟨w, hw, hframe⟩ := advRun_passEnd hlast
    have hcore : w.core j = s.core j := by rw [hframe]; rfl
    rw [hw, chooseRun_core_eq, hcore]
    rfl
  case choice =>
    obtain ⟨w, hw, -⟩ := advRun_passEnd hlast
    obtain ⟨hnone, hsome⟩ := chooseRun_chooses w (coreOf c.seqk)
    rw [hw]
    split
    next h => exact hnone h
    next m h => exact hsome m h
  case next =>
    rw [← Cmd.trips_eq, ← Cmd.tails_eq] at hmore
    obtain ⟨w, hw, hframe, hslot⟩ := advRun_nextPass hlast hmore
    rw [hw, ← Cmd.start_eq, ← Cmd.trips_eq]
    exact ⟨by rw [hframe]; rfl, _, hslot, fun k => getLsbD_predsOf _ _⟩
  case done =>
    rw [← Cmd.trips_eq, ← Cmd.tails_eq] at hdone
    obtain ⟨w, hw, hframe, hslot⟩ := advRun_lastPass hlast hdone
    rw [hw]
    exact ⟨by rw [hframe]; rfl, hslot⟩

end Sys2Proof.Claims
end

section
/-! SUPPORT. The floating micro-orders: for each table of the obligation its rows, as the shared form that each executes (R67, R212, R213,
R214); with the proof of O38. -/

namespace Sys2Proof.Claims
open Sys2Proof.Machine

theorem runRm_eq_rounding (s : State) (c : Cmd) (e : Nat) : s.runRm c e = rounding s c e := rfl

section
variable (d a b : BitVec 7) (g : BitVec 4) (s : State)

theorem exec_floatTwo : ∀ m ∈ floatTwo, exec (m.1 d a b g) s = .next (vFloat2 m.2.1 m.2.2 d a b g s) :=
  List.forall_iff_forall_mem.1 ⟨rfl, rfl, rfl, rfl, rfl, rfl, rfl, rfl, rfl, rfl, rfl, rfl, rfl, rfl, rfl⟩

theorem exec_floatFused : ∀ m ∈ floatFused, ∃ sub : Bool,
    exec (m.1 d a b g) s = .next (vFma m.2.1 sub d a b g s) ∧ ∀ x : FVal, (if sub then x.neg else x) = m.2.2 x :=
  List.forall_iff_forall_mem.1 ⟨⟨false, rfl, fun _ => rfl⟩, ⟨false, rfl, fun _ => rfl⟩, ⟨false, rfl, fun _ => rfl⟩,
    ⟨true, rfl, fun _ => rfl⟩, ⟨true, rfl, fun _ => rfl⟩, ⟨true, rfl, fun _ => rfl⟩⟩

theorem exec_floatOne : ∀ m ∈ floatOne, exec (m.1 d a g) s = .next (vFloat1 m.2.1 m.2.2 d a g s) :=
  List.forall_iff_forall_mem.1 ⟨rfl, rfl, rfl, rfl, rfl, rfl, rfl, rfl, rfl, rfl, rfl, rfl⟩

end

theorem width_floatTwo : ∀ m ∈ floatTwo, fmtWidth m.2.1 ∣ 32 := by decide
theorem width_floatFused : ∀ m ∈ floatFused, fmtWidth m.2.1 ∣ 32 := by decide
theorem width_floatOne : ∀ m ∈ floatOne, fmtWidth m.2.1 ∣ 32 := by decide

/-- Settles O38: each table row is a shared form, whose elements are rounded under the run's mode. -/
theorem floatingMicroOrders : Obligations.FloatingMicroOrders := by
  unfold Obligations.FloatingMicroOrders
  intro s c d a b g hrun
  refine ⟨fun m hm => ?two, fun m hm => ?fused, fun m hm => ?one⟩
  case two =>
    refine fillsElems_ofElems hrun (width_floatTwo m hm) (exec_floatTwo d a b g s m hm) fun e => ?_
    rw [runRm_eq_rounding]
    rfl
  case fused =>
    obtain ⟨sub, hexec, hsub⟩ := exec_floatFused d a b g s m hm
    refine fillsElems_ofElems hrun (width_floatFused m hm) hexec fun e => ?_
    simp only [runRm_eq_rounding, hsub]
    rfl
  case one =>
    refine fillsElems_ofElems hrun (width_floatOne m hm) (exec_floatOne d a g s m hm) fun e => ?_
    rw [runRm_eq_rounding]
    rfl

end Sys2Proof.Claims
end

section
/-! SUPPORT. The integer, lane, mask and permuting micro-orders, each as the shared form that it executes with what that form does to a lane
or an element (R196, R215, R216, R219, R220); with the proofs of O37, O39 and O40. -/

namespace Sys2Proof.Machine

/-! ### Halves of lanes (R220) -/

theorem toNat_and_lowHalf (x : BitVec 32) : (x &&& (0xFFFF : BitVec 32)).toNat = x.toNat % 2 ^ 16 :=
  (BitVec.toNat_and _ _).trans (Nat.and_two_pow_sub_one_eq_mod x.toNat 16)

theorem and_lowHalf (x : BitVec 32) : x &&& (0xFFFF : BitVec 32) = BitVec.ofNat 32 (x.toNat % 2 ^ 16) := by
  rw [← toNat_and_lowHalf, BitVec.ofNat_toNat, BitVec.setWidth_eq]

theorem or_halves (x y : BitVec 32) :
    (x &&& (0xFFFF : BitVec 32)) ||| (y <<< 16) = BitVec.ofNat 32 (x.toNat % 2 ^ 16 + y.toNat % 2 ^ 16 * 2 ^ 16) := by
  have hhigh : (y <<< 16).toNat = 2 ^ 16 * (y.toNat % 2 ^ 16) := by
    rw [BitVec.toNat_shiftLeft, Nat.shiftLeft_eq]
    omega
  have hlow : x.toNat % 2 ^ 16 < 2 ^ 16 := Nat.mod_lt _ (by decide)
  refine BitVec.eq_of_toNat_eq ?_
  rw [BitVec.toNat_or, toNat_and_lowHalf, hhigh, Nat.or_comm, ← Nat.two_pow_add_eq_or_of_lt hlow, BitVec.toNat_ofNat]
  omega

/-! ### Integers of `w` bits (R215) -/

theorem signedOf_eq_sgn {w x : Nat} (hw : 0 < w) (hx : x < 2 ^ w) : signedOf w x = Claims.sgn w x := by
  have hhalf : 2 ^ (w - 1) * 2 = 2 ^ w := Nat.pow_pred_mul hw
  rw [signedOf, Claims.sgn, BitVec.toInt_eq_toNat_cond, BitVec.toNat_ofNat, Nat.mod_eq_of_lt hx]
  by_cases hlow : 2 * x < 2 ^ w
  · rw [if_pos hlow, if_neg (by omega)]
  · rw [if_neg hlow, if_pos (by omega)]
    push_cast
    rfl

/-- Two operations on patterns of `w` bits that agree modulo 2^w. -/
def Agree (w : Nat) (op f : Nat → Nat → Nat) : Prop := ∀ x y, x < 2 ^ w → y < 2 ^ w → op x y % 2 ^ w = f x y % 2 ^ w

theorem agree_refl (w : Nat) (op : Nat → Nat → Nat) : Agree w op op := fun _ _ _ _ => rfl

theorem agree_intSub (w : Nat) : Agree w (intSub w) fun x y => x + 2 ^ w - y := fun _ _ _ _ => Nat.mod_mod _ _

section
variable {w : Nat} (hw : 0 < w)
include hw

theorem agree_intMin : Agree w (intMin w) fun x y => if Claims.sgn w x ≤ Claims.sgn w y then x else y := fun x y hx hy => by
  rw [intMin, signedOf_eq_sgn hw hx, signedOf_eq_sgn hw hy]

theorem agree_intMax : Agree w (intMax w) fun x y => if Claims.sgn w x ≤ Claims.sgn w y then y else x := fun x y hx hy => by
  rw [intMax, signedOf_eq_sgn hw hx, signedOf_eq_sgn hw hy]

theorem agree_intAdds : Agree w (intAdds w) fun x y => Claims.clampTo w (Claims.sgn w x + Claims.sgn w y) := fun x y hx hy => by
  rw [intAdds, signedOf_eq_sgn hw hx, signedOf_eq_sgn hw hy]
  rfl

end

theorem elem_lt (w : Nat) (v : VReg) (e : Nat) : elem w v e < 2 ^ w := Nat.mod_lt _ (Nat.two_pow_pos w)

/-! ### Shifts (R215) -/

theorem shiftLeft_eq_ofNat (x : BitVec 32) (n : Nat) : x <<< n = BitVec.ofNat 32 (x.toNat * 2 ^ n) := by
  rw [← Nat.shiftLeft_eq]
  rfl

theorem ushiftRight_eq_ofNat (x : BitVec 32) (n : Nat) : x >>> n = BitVec.ofNat 32 (x.toNat / 2 ^ n) := by
  rw [← Nat.shiftRight_eq_div_pow, ← BitVec.toNat_ushiftRight, BitVec.ofNat_toNat, BitVec.setWidth_eq]

theorem sshiftRight_eq_ofInt (x : BitVec 32) (n : Nat) : x.sshiftRight n = BitVec.ofInt 32 (x.toInt / 2 ^ n) := by
  rw [BitVec.sshiftRight, Int.shiftRight_eq_div_pow]
  rfl

end Sys2Proof.Machine

namespace Sys2Proof.Claims
open Sys2Proof.Machine

/-! ### The rows of the tables (R215, R216) -/

section
variable (d a b : BitVec 7) (k : BitVec 3) (g : BitVec 4) (s : State)

theorem width_packedInt : ∀ m ∈ packedInt, m.2.1 ∣ 32 := by decide

theorem exec_packedInt : ∀ m ∈ packedInt, ∃ op, exec (m.1 d a b g) s = .next (vInt2 m.2.1 op d a b g s) ∧ Agree m.2.1 op m.2.2 :=
  List.forall_iff_forall_mem.1 ⟨⟨_, rfl, agree_refl 32 _⟩, ⟨_, rfl, agree_refl 16 _⟩, ⟨_, rfl, agree_refl 8 _⟩,
    ⟨_, rfl, agree_intSub 32⟩, ⟨_, rfl, agree_intSub 16⟩, ⟨_, rfl, agree_intSub 8⟩,
    ⟨_, rfl, agree_refl 32 _⟩, ⟨_, rfl, agree_refl 16 _⟩, ⟨_, rfl, agree_refl 8 _⟩,
    ⟨_, rfl, agree_intMin (w := 32) (by decide)⟩, ⟨_, rfl, agree_intMin (w := 16) (by decide)⟩,
    ⟨_, rfl, agree_intMin (w := 8) (by decide)⟩,
    ⟨_, rfl, agree_intMax (w := 32) (by decide)⟩, ⟨_, rfl, agree_intMax (w := 16) (by decide)⟩,
    ⟨_, rfl, agree_intMax (w := 8) (by decide)⟩,
    ⟨_, rfl, agree_intAdds (w := 32) (by decide)⟩, ⟨_, rfl, agree_intAdds (w := 16) (by decide)⟩,
    ⟨_, rfl, agree_intAdds (w := 8) (by decide)⟩⟩

theorem exec_laneOps : ∀ m ∈ laneOps, ∃ op, exec (m.1 d a b g) s = .next (vLane2 op d a b g s) ∧ ∀ x y, op x y = m.2 x y :=
  List.forall_iff_forall_mem.1 ⟨⟨_, rfl, fun _ _ => rfl⟩, ⟨_, rfl, fun _ _ => rfl⟩, ⟨_, rfl, fun _ _ => rfl⟩,
    ⟨_, rfl, fun x _ => shiftLeft_eq_ofNat x _⟩, ⟨_, rfl, fun x _ => ushiftRight_eq_ofNat x _⟩,
    ⟨_, rfl, fun x _ => sshiftRight_eq_ofInt x _⟩⟩

theorem exec_compares : ∀ o ∈ compares, exec (o.1 k a b g) s = .next (vCmp o.2 k a b g s) :=
  List.forall_iff_forall_mem.1 ⟨rfl, rfl, rfl, rfl, rfl, rfl⟩

end

/-! ### The obligations -/

/-- Settles O37: each micro-order gives every lane one lane of its sources, or halves of two. -/
theorem vectorMovesPermutesAndPacks : Obligations.VectorMovesPermutesAndPacks := by
  unfold Obligations.VectorMovesPermutesAndPacks
  intro s c d a b l k g hrun
  have hpack := fillsLanes_ofLanes (i := .vpack d a b g) hrun rfl fun j _ =>
    or_halves (lane (s.vreg (slotKey c.seqk) a) j) (lane (s.vreg (slotKey c.seqk) b) j)
  refine ⟨fillsLanes_ofLanes hrun rfl fun _ _ => rfl, fillsLanes_setVreg (g := 0) hrun rfl rfl fun j hj => lane_mergeLanes _ _ _ hj,
    fillsLanes_ofLanes hrun rfl fun _ _ => rfl, fillsLanes_ofLanes hrun rfl fun _ _ => rfl, fillsLanes_ofLanes hrun rfl fun _ _ => rfl,
    hpack, fillsLanes_ofLanes hrun rfl fun _ _ => and_lowHalf _, fillsLanes_ofLanes hrun rfl fun _ _ => ushiftRight_eq_ofNat _ _,
    fillsElems_of_fillsLanes (by decide) hpack fun e _ => ?halves⟩
  have hlane : e * 16 / 32 = e / 2 := by omega
  rw [hlane, BitVec.toNat_ofNat]
  rcases Nat.mod_two_eq_zero_or_one e with heven | hodd
  · simp only [Nat.reduceDiv, heven, if_true, Nat.mul_zero]
    omega
  · simp only [Nat.reduceDiv, hodd, Nat.one_ne_zero, if_false]
    omega

/-- Settles O39: each table row is a shared form whose operation agrees with the table's. -/
theorem integerMicroOrders : Obligations.IntegerMicroOrders := by
  unfold Obligations.IntegerMicroOrders
  intro s c d a b g hrun
  refine ⟨fun m hm => ?packed, fun m hm => ?lanes⟩
  case packed =>
    obtain ⟨op, hexec, hop⟩ := exec_packedInt d a b g s m hm
    exact fillsElems_ofElems hrun (width_packedInt m hm) hexec fun e => hop _ _ (elem_lt _ _ _) (elem_lt _ _ _)
  case lanes =>
    obtain ⟨op, hexec, hop⟩ := exec_laneOps d a b g s m hm
    exact fillsLanes_ofLanes hrun hexec fun j _ => hop _ _

/-- Settles O40: a compare makes its mask bit by bit, and the mask operations act on each bit. -/
theorem comparesAndMaskMicroOrders : Obligations.ComparesAndMaskMicroOrders := by
  unfold Obligations.ComparesAndMaskMicroOrders
  intro s c k m n a b g hrun
  refine ⟨fun o ho => fillsMask_kop hrun (exec_compares a b k g s o ho) fun j hj => getLsbD_maskOf _ hj,
    fillsMask_kop hrun rfl fun j _ => BitVec.getLsbD_and .., fillsMask_kop hrun rfl fun j _ => BitVec.getLsbD_or ..,
    fillsMask_kop hrun rfl fun j hj => ?not, fillsMask_kop hrun rfl fun j hj => getLsbD_maskOf _ hj⟩
  rw [BitVec.getLsbD_not, decide_eq_true hj, Bool.true_and]

end Sys2Proof.Claims
end

section
/-! SUPPORT. The conversions, with the saturations that they count, and the reductions (R76, R205, R217, R218); with the proof of O41. -/

namespace Sys2Proof.Machine

/-! ### Saturations counted (R76, R205) -/

/-- The histograms of a slot with saturations counted against a tensor ID. -/
def satCounted (sk tid n : Nat) (x : Slot) : Slot :=
  if n = 0 ∨ 4 ≤ slotNum sk then x
  else { x with hist := Kv.put x.hist tid { Kv.get {} x.hist tid with sat := countTo32 (Kv.get {} x.hist tid).sat n } }

theorem State.countSats_slot (s : State) (sk tid n j : Nat) :
    (s.countSats sk tid n).slot j = if j = sk then satCounted sk tid n (s.slot j) else s.slot j := by
  rw [State.countSats]
  by_cases h : n = 0 ∨ 4 ≤ slotNum sk
  · simp only [satCounted, if_pos h, ite_self]
  · simp only [satCounted, if_neg h, State.modSlot_slot]

theorem State.countSats_frame (s : State) (sk tid n : Nat) :
    s.countSats sk tid n = { s with slots := (s.countSats sk tid n).slots } := by
  rw [State.countSats]
  split <;> rfl

theorem satCounted_frame (sk tid n : Nat) (x : Slot) : satCounted sk tid n x = { x with hist := (satCounted sk tid n x).hist } := by
  rw [satCounted]
  split <;> rfl

theorem satCounted_hist (sk tid n t : Nat) (x : Slot) :
    Kv.get {} (satCounted sk tid n x).hist t =
      if t = tid ∧ n ≠ 0 ∧ sk % 8 < 4 then
        { Kv.get {} x.hist t with sat := Min.min ((Kv.get {} x.hist t).sat + n) (2 ^ 32 - 1) } else Kv.get {} x.hist t := by
  rw [satCounted]
  by_cases h : n = 0 ∨ 4 ≤ slotNum sk
  · have hno : ¬ (t = tid ∧ n ≠ 0 ∧ sk % 8 < 4) := by
      rw [slotNum] at h
      omega
    rw [if_pos h, if_neg hno]
  · have hyes : n ≠ 0 ∧ sk % 8 < 4 := by
      rw [slotNum] at h
      omega
    rw [if_neg h, Kv.get_put]
    by_cases ht : t = tid
    · rw [if_pos ht, if_pos ⟨ht, hyes⟩, ht]
      rfl
    · rw [if_neg ht, if_neg fun hall => ht hall.1]

theorem State.countSats_vec (s : State) (sk tid n : Nat) : ((s.countSats sk tid n).slot sk).vec = (s.slot sk).vec := by
  rw [State.countSats_slot, if_pos rfl, satCounted_frame]

/-! ### Conversions (R217) -/

/-- A conversion of 32-bit lanes that agrees with another. -/
def Converts (f h : Rm → Nat → Nat × Bool) : Prop := ∀ m x, x < 2 ^ 32 → f m x = h m x

theorem converts_cvtFrom32 (f : Fmt) : Converts (cvtFrom32 f) fun m x => roundF f m (val32 x) := fun m x hx => by
  rw [cvtFrom32, Nat.mod_eq_of_lt hx]

theorem converts_cvtTo32 (f : Fmt) :
    Converts (cvtTo32 f) fun m x => (round32 m (decodeF f (x % 2 ^ fmtWidth f)), false) := fun _ _ _ => rfl

theorem converts_cvtI32F32 : Converts cvtI32F32 fun m x =>
    ((toSigned 32 (if m = Rm.rz then Rm.rz else Rm.rne) (val32 x) % 2 ^ 32).toNat, false) := fun m x _ => by
  cases m <;> rfl

theorem converts_cvtF32I32 : Converts cvtF32I32 fun m x => (round32 m (ofInt (Claims.sgn 32 x) 0 false), false) := fun m x hx => by
  rw [cvtF32I32, signedOf_eq_sgn (by decide) hx]

theorem converts_cvtF32Fp4 : Converts cvtF32Fp4 fun m x =>
    (if x / 256 % 256 = 255 then 0x7FC00000
     else round32 m ((decodeFp4 (x / 65536 % 256) (x % 16)).scale ((x / 256 % 256 : Nat) - 127 : Int)), false) := fun _ _ _ => by
  simp only [cvtF32Fp4]
  split <;> rfl

end Sys2Proof.Machine

namespace Sys2Proof.Claims
open Sys2Proof.Machine

section
variable (d a : BitVec 7) (g : BitVec 4) (s : State)

theorem exec_conversions : ∀ o ∈ conversions, ∃ f, exec (o.1 d a g) s = .next (vCvt f d a g s) ∧ Converts f o.2 :=
  List.forall_iff_forall_mem.1 ⟨⟨_, rfl, converts_cvtFrom32 bf16⟩, ⟨_, rfl, converts_cvtFrom32 fp16⟩,
    ⟨_, rfl, converts_cvtFrom32 fp8a⟩, ⟨_, rfl, converts_cvtFrom32 fp8b⟩, ⟨_, rfl, converts_cvtTo32 bf16⟩,
    ⟨_, rfl, converts_cvtTo32 fp16⟩, ⟨_, rfl, converts_cvtTo32 fp8a⟩, ⟨_, rfl, converts_cvtTo32 fp8b⟩, ⟨_, rfl, converts_cvtI32F32⟩, ⟨_, rfl, converts_cvtF32I32⟩, ⟨_, rfl, fun _ _ _ => rfl⟩,
    ⟨_, rfl, converts_cvtF32Fp4⟩⟩

end

/-- The lanes that a guard permits and whose conversion saturates. -/
def saturated (s : State) (c : Cmd) (g : Nat) (r : Nat → Nat × Bool) : Nat :=
  ((List.range 128).filter fun j => permits s c g j && (r j).2).length

/-- A conversion has written lane `j` of register `d` with `r j` where its guard permits, has counted the saturations of those lanes, and
has changed nothing else. -/
def Converted (s u : State) (c : Cmd) (d : BitVec 7) (g : Nat) (r : Nat → Nat × Bool) : Prop :=
  u = { s with slots := u.slots } ∧
  (∀ j, u.slot j = if j = slotKey c.seqk then
    { s.slot j with vec := { vec s c with regs := (vec u c).regs }, hist := (u.slot j).hist } else s.slot j) ∧
  (∀ t, Kv.get {} (u.slot (slotKey c.seqk)).hist t =
    if t = c.v1.toNat / 2 ^ 24 % 64 ∧ saturated s c g r ≠ 0 ∧ slotKey c.seqk % 8 < 4 then
      { Kv.get {} (s.slot (slotKey c.seqk)).hist t with
        sat := Min.min ((Kv.get {} (s.slot (slotKey c.seqk)).hist t).sat + saturated s c g r) (2 ^ 32 - 1) }
    else Kv.get {} (s.slot (slotKey c.seqk)).hist t) ∧
  ∀ (q : BitVec 7) (j : Nat), j < 128 → lane (u.vreg (slotKey c.seqk) q) j =
    if q = d ∧ permits s c g j = true then BitVec.ofNat 32 (r j).1 else lane (s.vreg (slotKey c.seqk) q) j

theorem converted_setVreg {s : State} {c : Cmd} {d : BitVec 7} {g : Nat} {r : Nat → Nat × Bool} {v : VReg}
    (hv : ∀ j, j < 128 → lane v j = BitVec.ofNat 32 (r j).1) :
    Converted s ((s.countSats (slotKey c.seqk) c.tid (saturated s c g r)).setVreg (slotKey c.seqk) d
      (s.guardMask (slotKey c.seqk) g) v) c d g r := by
  refine ⟨?frame, fun j => ?slots, fun t => ?hist, fun q j hj => ?lanes⟩
  case frame =>
    rw [State.countSats_frame]
    rfl
  case slots =>
    simp only [vec, State.setVreg, State.modVec_slot, if_true, State.countSats_slot]
    split
    next h =>
      rw [h, satCounted_frame]
    next => rfl
  case hist =>
    rw [State.setVreg, State.modVec_slot, if_pos rfl, State.countSats_slot, if_pos rfl]
    exact satCounted_hist ..
  case lanes =>
    have hkept : (s.countSats (slotKey c.seqk) c.tid (saturated s c g r)).vreg (slotKey c.seqk) q = s.vreg (slotKey c.seqk) q := by
      rw [State.vreg, State.vreg, State.countSats_vec]
    rw [lane_setVreg _ _ _ _ _ _ hj, getLsbD_guardMask _ _ _ hj, hv j hj, hkept]

/-- The saturations that the model counts, in its list of converted lanes. -/
theorem saturated_eq (s : State) (c : Cmd) (g : Nat) (r : Nat → Nat × Bool) :
    ((List.range 128).filter fun j => (s.guardMask (slotKey c.seqk) g).getLsbD j &&
      (((List.range 128).map r).getD j (0, false)).2).length = saturated s c g r := by
  rw [saturated]
  congr 1
  refine List.filter_congr fun j hj => ?_
  have hj := List.mem_range.1 hj
  rw [getLsbD_guardMask _ _ _ hj]
  simp [hj]

theorem converts_vCvt {i : Instr} {s : State} {c : Cmd} (hrun : s.run = some c) {f h : Rm → Nat → Nat × Bool} {d a : BitVec 7}
    {g : BitVec 4} (hexec : exec i s = .next (vCvt f d a g s)) (hf : Converts f h) :
    Executes i s c g.toNat fun u =>
      Converted s u c d g.toNat fun j => h (rounding s c j) (lane (s.vreg (slotKey c.seqk) a) j).toNat := by
  have hr : (fun j => f (s.runRm c j) (lane (s.vreg (slotKey c.seqk) a) j).toNat) =
      fun j => h (rounding s c j) (lane (s.vreg (slotKey c.seqk) a) j).toNat := by
    funext j
    rw [runRm_eq_rounding, hf _ _ (BitVec.isLt _)]
  refine executes_microOrder hexec hrun ⟨_, ?effect, converted_setVreg fun j hj => lane_ofLanes _ hj⟩
  simp only [hr, saturated_eq, List.map_map]
  rfl

/-! ### Reductions (R218) -/

/-- The leaves of a floating reduction, where an excluded lane has a value of its own. -/
theorem leaves_guarded (p : Nat → Bool) (x : Nat → BitVec 32) (out : FVal) (l : List Nat) :
    leaves out (l.map fun j => if p j then some (x j) else none) = l.map fun j => if p j then val32 (x j).toNat else out := by
  rw [leaves, List.map_map]
  refine List.map_congr_left fun j _ => ?_
  rw [Function.comp_apply]
  cases p j <;> rfl

/-- A sum modulo 2^32 of the lanes that pass a test. -/
theorem foldl_addPresent (p : Nat → Bool) (x : Nat → BitVec 32) (l : List Nat) (a : BitVec 32) :
    (l.map fun j => if p j then some (x j) else none).foldl (fun a y => a + y.getD 0) a =
      a + BitVec.ofNat 32 ((l.filter p).map fun j => (x j).toNat).sum := by
  induction l generalizing a with
  | nil => simp
  | cons j l ih =>
    rw [List.map_cons, List.foldl_cons, ih, List.filter_cons]
    cases p j
    · simp
    · simp [BitVec.add_assoc, BitVec.ofNat_add]

theorem fillsLanes_vReduce {i : Instr} {s : State} {c : Cmd} (hrun : s.run = some c) {f : List (Option (BitVec 32)) → BitVec 32}
    {d a : BitVec 7} {g : BitVec 4} (hexec : exec i s = .next (vReduce f d a g s)) :
    FillsLanes i s c d g.toNat fun _ => f ((List.range 128).map fun j =>
      if permits s c g.toNat j then some (lane (s.vreg (slotKey c.seqk) a) j) else none) :=
  fillsLanes_ofLanes hrun hexec fun _ _ => congrArg f <| List.map_congr_left fun j hj => by
    rw [getLsbD_guardMask _ _ _ (List.mem_range.1 hj)]

/-! ### The obligation -/

/-- Settles O41: each conversion is a table row's, with its count of saturations; each reduction folds the lanes that its guard permits. -/
theorem conversionsAndReductions : Obligations.ConversionsAndReductions := by
  unfold Obligations.ConversionsAndReductions
  intro s c d a g hrun
  refine ⟨fun o ho => ?conversion, ?sumF32, ?sumI32, ?most, ?least⟩
  case conversion =>
    obtain ⟨f, hexec, hf⟩ := exec_conversions d a g s o ho
    exact converts_vCvt hrun hexec hf
  case sumF32 =>
    have h := fillsLanes_vReduce (i := .vrsumF32 d a g) hrun rfl
    rwa [leaves_guarded] at h
  case sumI32 =>
    have h := fillsLanes_vReduce (i := .vrsumI32 d a g) hrun rfl
    rwa [foldl_addPresent, zero_add] at h
  case most =>
    have h := fillsLanes_vReduce (i := .vrmax d a g) hrun rfl
    rwa [leaves_guarded] at h
  case least =>
    have h := fillsLanes_vReduce (i := .vrmin d a g) hrun rfl
    rwa [leaves_guarded] at h

end Sys2Proof.Claims
end

section
/-! SUPPORT. Runs of words in a store by key, and records of fields of one size, as the spill words of a slot hold a register's lanes; with
the proof of O43 (R69, R160, R210, R223, R224). -/

namespace Sys2Proof.Machine

/-! ### Records of fields of one size -/

theorem leNat_append (l m : List Byte) : leNat (l ++ m) = leNat l + 256 ^ l.length * leNat m := by
  induction l with
  | nil => simp [leNat]
  | cons b l ih =>
    rw [List.cons_append, leNat, leNat, ih, List.length_cons, Nat.pow_succ]
    ring

/-- A field of a record in two parts. -/
theorem leAt_add (b : List Byte) {o m : Nat} (n : Nat) (h : o + m ≤ b.length) :
    leAt b o (m + n) = leAt b o m + 256 ^ m * leAt b (o + m) n := by
  have hlen : ((b.drop o).take m).length = m := by
    rw [List.length_take, List.length_drop]
    omega
  rw [leAt, List.take_add, leNat_append, hlen, List.drop_drop, leAt, leAt]

theorem take_leBytes {k n : Nat} (h : k ≤ n) (x : Nat) : (leBytes n x).take k = leBytes k x := by
  induction k generalizing n x with
  | zero => rfl
  | succ k ih =>
    obtain ⟨n, rfl⟩ := Nat.exists_eq_add_of_le' h
    exact congrArg _ (ih (n := n + k) (Nat.le_add_left ..) (x / 256))

theorem leAt_leBytes {n o k x : Nat} (h : o + k ≤ n) : leAt (leBytes n x) o k = x / 256 ^ o % 256 ^ k := by
  induction o generalizing n x with
  | zero =>
    rw [leAt, List.drop_zero, take_leBytes (by omega), leNat_leBytes, Nat.pow_zero, Nat.div_one]
  | succ o ih =>
    obtain ⟨n, rfl⟩ : ∃ m, n = m + 1 := ⟨n - 1, by omega⟩
    have htail := ih (n := n) (x := x / 256) (by omega)
    rw [Nat.div_div_eq_div_mul, ← Nat.pow_succ'] at htail
    exact htail

/-- A field within one of the records of one size that follow each other. -/
theorem leAt_flatMap {α : Type} {f : α → List Byte} {w : Nat} (hf : ∀ x, (f x).length = w) {l : List α} {k o n : Nat}
    (hk : k < l.length) (ho : o + n ≤ w) : leAt (l.flatMap f) (w * k + o) n = leAt (f l[k]) o n := by
  induction l generalizing k with
  | nil => exact absurd hk (Nat.not_lt_zero _)
  | cons x l ih =>
    rw [leAt, List.flatMap_cons]
    cases k with
    | zero =>
      rw [Nat.mul_zero, Nat.zero_add, List.drop_append_of_le_length (by rw [hf]; omega),
        List.take_append_of_le_length (by rw [List.length_drop, hf]; omega)]
      rfl
    | succ k =>
      have hskip : w * (k + 1) + o = (f x).length + (w * k + o) := by rw [hf]; ring
      rw [hskip, List.drop_length_add_append]
      exact ih (Nat.lt_of_succ_lt_succ hk)

/-- A run of keys put one after another. -/
theorem Kv.get_putRun {α : Type} (d : α) (l : List (Nat × α)) (b n k : Nat) (f : Nat → α) :
    Kv.get d ((List.range n).foldl (fun m w => Kv.put m (b + w) (f w)) l) k =
      if b ≤ k ∧ k < b + n then f (k - b) else Kv.get d l k := by
  induction n with
  | zero => simp
  | succ n ih =>
    rw [List.range_succ, List.foldl_append, List.foldl_cons, List.foldl_nil, Kv.get_put, ih]
    by_cases hlast : k = b + n
    · rw [if_pos hlast, if_pos (by omega), hlast, Nat.add_sub_cancel_left]
    · rw [if_neg hlast]
      exact if_congr (by omega) rfl rfl

/-! ### Spill words (R223) -/

/-- The 64 bits that a spill word takes of a register: two lanes. -/
theorem leAt_vregBytes_pair (v : VReg) {w : Nat} (hw : w < 64) :
    leAt (vregBytes v) (8 * w) 8 = (lane v (2 * w)).toNat + (lane v (2 * w + 1)).toNat * 2 ^ 32 := by
  have hpair : leAt (vregBytes v) (4 * (2 * w)) 8 = leAt (vregBytes v) (4 * (2 * w)) 4 + 256 ^ 4 * leAt (vregBytes v) (4 * (2 * w) + 4) 4 :=
    leAt_add _ 4 (by rw [vregBytes_length]; omega)
  have heven : 8 * w = 4 * (2 * w) := by omega
  have hodd : 4 * (2 * w) + 4 = 4 * (2 * w + 1) := by omega
  rw [heven, hpair, hodd, leAt_vregBytes v (by omega), leAt_vregBytes v (by omega)]
  omega

/-- A state with its spill words replaced. -/
def State.withSpill (s : State) (l : List (Nat × Word)) : State := { s with spill := l }

theorem State.withSpill_frame (s : State) (l : List (Nat × Word)) : s.withSpill l = { s with spill := (s.withSpill l).spill } := rfl

theorem State.withSpill_spill (s : State) (l : List (Nat × Word)) : (s.withSpill l).spill = l := rfl

/-- The spill words with a register written to the 64 from a word. -/
def spilled (l : List (Nat × Word)) (w0 : Nat) (v : VReg) : List (Nat × Word) :=
  (List.range 64).foldl (fun m w => Kv.put m (w0 + w) (BitVec.ofNat 64 (leAt (vregBytes v) (8 * w) 8))) l

theorem get_spilled (l : List (Nat × Word)) (w0 k : Nat) (v : VReg) :
    Kv.get 0 (spilled l w0 v) k = if w0 ≤ k ∧ k < w0 + 64 then BitVec.ofNat 64 (leAt (vregBytes v) (8 * (k - w0)) 8) else Kv.get 0 l k := by
  rw [spilled, Kv.get_putRun]

/-- The bytes of a slot's 64 spill words from a word. -/
def State.spillBytesAt (s : State) (w0 : Nat) : List Byte := (List.range 64).flatMap fun w => leBytes 8 (Kv.get 0 s.spill (w0 + w)).toNat

theorem lane_vregOf_spillBytesAt (s : State) (w0 : Nat) {j : Nat} (hj : j < 128) :
    lane (vregOf (s.spillBytesAt w0)) j = BitVec.ofNat 32 ((Kv.get 0 s.spill (w0 + j / 2)).toNat / 2 ^ (32 * (j % 2))) := by
  have hword : leAt (s.spillBytesAt w0) (4 * j) 4 = leAt (leBytes 8 (Kv.get 0 s.spill (w0 + j / 2)).toNat) (4 * (j % 2)) 4 := by
    rw [show 4 * j = 8 * (j / 2) + 4 * (j % 2) by omega, State.spillBytesAt,
      leAt_flatMap (fun _ => leBytes_length 8 _) (by rw [List.length_range]; omega) (by omega), List.getElem_range]
  rw [lane_vregOf _ hj, hword, leAt_leBytes (by omega), Nat.pow_mul, Nat.pow_mul]
  exact BitVec.eq_of_toNat_eq (by simp)

/-! ### Immediates (R224) -/

theorem toNat_sx_mod {w : Nat} (hw : w ≤ 32) (i : BitVec 16) : (sx i).toNat % 2 ^ w = (i.signExtend 32).toNat % 2 ^ w := by
  have hcut : (i.signExtend 64).setWidth 32 = i.signExtend 32 := by
    refine BitVec.eq_of_getLsbD_eq fun j hj => ?_
    have hj' : j < 64 := by omega
    simp only [BitVec.getLsbD_setWidth, BitVec.getLsbD_signExtend, hj, hj', decide_true, Bool.true_and]
  rw [← hcut, BitVec.toNat_setWidth, Nat.mod_mod_of_dvd _ (Nat.pow_dvd_pow 2 hw), sx]

end Sys2Proof.Machine

namespace Sys2Proof.Claims
open Sys2Proof.Machine

section
variable {s : State} {c : Cmd} (hrun : s.run = some c)
include hrun

theorem executes_setIndex {i : Instr} {eff : State → Cmd → MRes} {x : BitVec 3} {v : BitVec 16}
    (hexec : exec i s = .next (Machine.microOrder 0 eff s)) (heff : eff s c = .ok (s.setIndex (slotKey c.seqk) x.toNat v)) :
    Executes i s c 0 fun u => VectorOnly s u c { vec s c with ix := (vec u c).ix } ∧
      ∀ y, u.index (slotKey c.seqk) y = if y = x.toNat then v else s.index (slotKey c.seqk) y :=
  executes_microOrder hexec hrun ⟨_, heff, vectorOnly_setIndex s c x.toNat v, fun _ => State.index_setIndex ..⟩

theorem vspl_spills {d : BitVec 7} {v : BitVec 4} (h : 64 * v.toNat + 63 < (s.slot (slotKey c.seqk)).spillLimit) :
    Executes (.vspl d v) s c 0 fun u => u = { s with spill := u.spill } ∧
      (∀ w, w < 64 → Kv.get 0 u.spill (slotKey c.seqk * 1024 + (64 * v.toNat + w)) =
        BitVec.ofNat 64 ((lane (s.vreg (slotKey c.seqk) d) (2 * w)).toNat + (lane (s.vreg (slotKey c.seqk) d) (2 * w + 1)).toNat * 2 ^ 32)) ∧
      ∀ k, (k < slotKey c.seqk * 1024 + 64 * v.toNat ∨ slotKey c.seqk * 1024 + 64 * v.toNat + 64 ≤ k) →
        Kv.get 0 u.spill k = Kv.get 0 s.spill k := by
  have hok : s.spillOk (slotKey c.seqk) v.toNat = true := decide_eq_true h
  refine executes_microOrder rfl hrun
    ⟨s.withSpill (spilled s.spill (slotKey c.seqk * 1024 + 64 * v.toNat) (s.vreg (slotKey c.seqk) d)), ?effect,
      State.withSpill_frame s _, fun w hw => ?words, fun k hk => ?others⟩
  case effect =>
    simp only [hok, Bool.not_true, Bool.false_eq_true, if_false]
    rfl
  case words =>
    rw [State.withSpill_spill, get_spilled, if_pos (by omega), ← leAt_vregBytes_pair _ hw, ← Nat.add_assoc, Nat.add_sub_cancel_left]
  case others => rw [State.withSpill_spill, get_spilled, if_neg (by omega)]

theorem vfil_fills {d : BitVec 7} {v : BitVec 4} (h : 64 * v.toNat + 63 < (s.slot (slotKey c.seqk)).spillLimit) :
    FillsLanes (.vfil d v) s c d 0 fun j => BitVec.ofNat 32
      ((Kv.get 0 s.spill (slotKey c.seqk * 1024 + (64 * v.toNat + j / 2))).toNat / 2 ^ (32 * (j % 2))) := by
  have hok : s.spillOk (slotKey c.seqk) v.toNat = true := decide_eq_true h
  refine fillsLanes_setVreg (g := 0) hrun rfl (v := vregOf (s.spillBytesAt (slotKey c.seqk * 1024 + 64 * v.toNat))) ?effect
    fun j hj => ?lanes
  case effect =>
    simp only [hok, Bool.not_true, Bool.false_eq_true, if_false]
    rfl
  case lanes => rw [lane_vregOf_spillBytesAt _ _ hj, Nat.add_assoc]

theorem spill_traps (d : BitVec 7) {v : BitVec 4} (h : (s.slot (slotKey c.seqk)).spillLimit ≤ 64 * v.toNat + 63) :
    MicroTraps (.vspl d v) s c 4 5 ∧ MicroTraps (.vfil d v) s c 4 5 := by
  have hbad : s.spillOk (slotKey c.seqk) v.toNat = false := decide_eq_false (Nat.not_lt.2 h)
  constructor
  all_goals exact microTraps_microOrder (g := 0) (addr := 512 * v.toNat) rfl hrun rfl (by simp only [hbad, Bool.not_false, if_true])

end

/-! ### The obligation -/

/-- Settles O43: index registers and spill words by what a write leaves of the others, immediates element by element. -/
theorem indexSpillAndImmediateMicroOrders : Obligations.IndexSpillAndImmediateMicroOrders := by
  unfold Obligations.IndexSpillAndImmediateMicroOrders
  intro s c d x v i hrun
  exact ⟨executes_setIndex hrun rfl rfl, executes_setIndex hrun rfl rfl, fun h => ⟨vspl_spills hrun h, vfil_fills hrun h⟩,
    spill_traps hrun d,
    fillsElems_ofElems (g := 0) hrun (by decide) rfl fun _ => rfl, fillsElems_ofElems (g := 0) hrun (by decide) rfl fun _ => rfl,
    fillsElems_ofElems (g := 0) hrun (by decide) rfl fun _ => rfl,
    fillsElems_ofElems (g := 0) hrun (by decide) rfl fun _ => toNat_sx_mod (by decide) i,
    fillsElems_ofElems (g := 0) hrun (by decide) rfl fun _ => toNat_sx_mod (by decide) i,
    fillsElems_ofElems (g := 0) hrun (by decide) rfl fun _ => toNat_sx_mod (by decide) i⟩

end Sys2Proof.Claims
end

section
/-! SUPPORT. The start of a VRUN: the checks of its words, and the state of its first pass (R204, R205, R206, R210); with the proof of
O33. -/

namespace Sys2Proof.Claims
open Sys2Proof.Machine

/-! ### A VRUN that its engine may start -/

/-- A VRUN that may start and is no resumed one, in a slot without thunk nodes, recording or overlap checking. -/
structure RunStarts (s : State) (c : Cmd) (a b e : BitVec 5) : Prop where
  cmd : s.cmd c.uid = some c
  ins : c.ins = .vrun a b e c.ext
  phase : c.phase = .waiting
  resumed : c.resumed = false
  inj : c.inj = 0
  canStart : s.canStart c = true
  nodes : (s.slot (slotKey c.seqk)).nodes = []
  demands : (s.slot (slotKey c.seqk)).demands = []
  sub : c.sub = none
  mode : (s.slot (slotKey c.seqk)).mode = 0
  ovl : s.ovl = []

/-- The words of a run fail a check of R205. -/
def RunFails (c : Cmd) : Prop :=
  2 ^ 32 ≤ c.v1.toNat ∨ 2 ^ 32 ≤ c.v2.toNat ∨ 2 ^ 3 ≤ c.v3.toNat ∨ c.v1.toNat / 2 ^ 30 % 4 = 3 ∨ c.last < c.start ∨
    c.start / 2048 ≠ c.last / 2048

/-- Bits of a word that must be zero are so where the word is small. -/
theorem bits_high_ne_zero {x : Word} {lo len : Nat} (h : lo + len = 64) : bits x lo len ≠ 0 ↔ 2 ^ lo ≤ x.toNat := by
  have hx : x.toNat / 2 ^ lo < 2 ^ len := Nat.div_lt_of_lt_mul (by rw [← Nat.pow_add, h]; exact x.isLt)
  rw [bits, Nat.mod_eq_of_lt hx, Ne, Nat.div_eq_zero_iff_lt (Nat.two_pow_pos lo), Nat.not_lt]

theorem runFails_iff (c : Cmd) : RunFails c ↔ bits c.v1 32 32 ≠ 0 ∨ bits c.v2 32 32 ≠ 0 ∨ bits c.v3 3 61 ≠ 0 ∨ c.rmc = 3 ∨
    c.last < c.start ∨ bankOf c.start ≠ bankOf c.last := by
  rw [bits_high_ne_zero rfl, bits_high_ne_zero rfl, bits_high_ne_zero rfl]
  rfl

/-- The vector state of a run's slot at its start (R205, R206). -/
def startedVec (c : Cmd) (v : VecSt) : VecSt :=
  { v with
    masks := Kv.put v.masks 0 (maskOf fun j => decide (j < min c.lat.vlen 128))
    trip := BitVec.ofNat 32 c.trips, tail := BitVec.ofNat 3 c.tails, steps := 0, passes := 0, rot := 0
    pred := if c.trips = 0 then 0 else predsOf 0 c.trips
    upc := BitVec.ofNat 12 c.start, bank := decide (bankOf c.start = 1), cfg := BitVec.ofNat 32 (bits c.v1 0 32) }

/-- The command of a run that has started: it executes, or with no iteration its work is done. -/
def startedCmd (s : State) (c : Cmd) : Cmd :=
  { c with phase := if c.trips = 0 then .done else .running, gen := (s.core (coreOf c.seqk)).gen (bankOf c.start) }

/-! ### The first pass (R206) -/

theorem predsOf_zero {n : Nat} (hn : n ≠ 0) : predsOf 0 n = 1 := by
  refine BitVec.eq_of_getLsbD_eq fun k hk => ?_
  have hfirst : (k ≤ 0 ∧ 0 - k < n) ↔ k = 0 := by omega
  have hone : (1 : BitVec 7).getLsbD k = decide (k = 0) := by simp [BitVec.getLsbD_one]
  rw [getLsbD_predsOf 0 n hk, hone, decide_eq_decide]
  exact hfirst

theorem lanes_below (n j : Nat) : (maskOf fun j => decide (j < min n 128)).getLsbD j = decide (j < min n 128) := by
  by_cases hj : j < 128
  · exact getLsbD_maskOf _ hj
  · rw [BitVec.getLsbD_of_ge _ _ (Nat.le_of_not_lt hj), decide_eq_false (by omega)]

/-- The start of a run in the words of R204 and R205. -/
theorem startedVec_eq (c : Cmd) (v : VecSt) : startedVec c v = { v with
    masks := Kv.put v.masks 0 (maskOf fun j => decide (j < min c.lat.vlen 128)), trip := BitVec.ofNat 32 c.trips
    tail := BitVec.ofNat 3 c.v3.toNat, steps := 0, passes := 0, rot := 0, pred := if c.trips = 0 then 0 else 1
    upc := BitVec.ofNat 12 c.start, bank := decide (c.start / 2048 = 1), cfg := BitVec.ofNat 32 c.v1.toNat } := by
  have hpred : (if c.trips = 0 then 0 else predsOf 0 c.trips) = if c.trips = 0 then (0 : BitVec 7) else 1 := by
    split
    next => rfl
    next hsome => exact predsOf_zero hsome
  have htail : BitVec.ofNat 3 c.tails = BitVec.ofNat 3 c.v3.toNat := by
    rw [Cmd.tails_eq]
    exact BitVec.eq_of_toNat_eq (by simp)
  have hcfg : BitVec.ofNat 32 (bits c.v1 0 32) = BitVec.ofNat 32 c.v1.toNat := by
    rw [bits, Nat.pow_zero, Nat.div_one]
    exact BitVec.eq_of_toNat_eq (by simp)
  rw [startedVec, hpred, htail, hcfg]
  rfl

/-! ### What COMMAND_START leaves -/

section
variable {s : State} {c : Cmd} {a b e : BitVec 5} (h : RunStarts s c a b e)
include h

theorem RunStarts.canRun : s.canRun c = true := by
  have hfailed : c.failed = false := by
    have hcan := h.canStart
    simp only [State.canStart, Bool.and_eq_true, Bool.not_eq_true'] at hcan
    tauto
  simp [State.canRun, State.mayStart, State.engineTurn, unitOf, isVrun, caSub, hfailed, h.phase, h.canStart, h.inj, h.ins]

theorem RunStarts.exec_eq (n : Nat) (hmode : ((s.startVrun c).slot (slotKey c.seqk)).mode = 0) :
    exec (.commandStart c.uid n) s = .next (s.startVrun c) := by
  have hbegun : c.begun = false := by simp [Cmd.begun, h.phase, h.resumed]
  have hshape : s.putShape c = s := by
    unfold State.putShape
    split
    next hx => simp [h.sub] at hx
    next => rfl
  have hrun : s.runCmd c n = s.startVrun c := by simp [State.runCmd, h.ins, engineOf, h.sub, isVrun]
  have hrecord : (s.startVrun c).recordCommand c = s.startVrun c := by
    rw [State.recordCommand]
    split
    · rfl
    · simp [hmode]
  change Host.Outcome.next (s.startCmd c.uid n) = _
  simp [State.startCmd, h.cmd, h.canRun, hbegun, hshape, hrun, hrecord]

theorem RunStarts.forceCmd_eq (feet : List Foot) : s.forceCmd c feet = .ok s := by
  have hstart (uid : Nat) (l : List OvFoot) : s.ovStart uid l = (s, false) := by
    rw [State.ovStart, h.ovl]
    rfl
  have hforce : s.forceWrites c.force feet = .met s := by
    rw [State.forceWrites, show c.force.sk = slotKey c.seqk from rfl, h.nodes, h.demands]
    rfl
  simp only [State.forceCmd, hstart, h.sub, hforce, Option.isSome_none, Bool.false_eq_true, if_false]

theorem RunStarts.startVrun_fails (hfails : RunFails c) : s.startVrun c = s.trapVec c 6 2 0 0 0 none :=
  (if_neg (not_not.2 h.phase)).trans <| (if_neg (by simp [h.resumed])).trans <| if_pos ((runFails_iff c).1 hfails)

theorem RunStarts.startVrun_starts (hok : ¬ RunFails c) : s.startVrun c =
    ((s.modVec (slotKey c.seqk) (startedVec c)).setCmd (startedCmd s c)).chooseRun (coreOf c.seqk) := by
  refine (if_neg (not_not.2 h.phase)).trans <| (if_neg (by simp [h.resumed])).trans <| (if_neg (mt (runFails_iff c).2 hok)).trans ?_
  rw [h.forceCmd_eq]
  rfl

theorem RunStarts.fails (n : Nat) (hfails : RunFails c) : Leads (.commandStart c.uid n) s fun u => ∃ r : TrapRec,
    u = { s with slots := u.slots, cores := u.cores, cmds := u.cmds, policy := s.policy ++ [.trap r] } ∧
    r.code = 6 ∧ r.engine = 2 ∧ r.status = 2 ∧ r.seq = c.num ∧ r.pc = c.pc ∧ r.prec = false ∧
    u.cmd c.uid = some { c with failed := true } ∧ (u.slot (slotKey c.seqk)).vec = (s.slot (slotKey c.seqk)).vec ∧
    (u.core (c.seqk / 32)).micro = (s.core (c.seqk / 32)).micro := by
  have htrap := h.startVrun_fails hfails
  obtain ⟨hframe, hmode, hcore, hfail⟩ := trapVec_leaves h.sub h.cmd 6 2 0
  refine ⟨_, h.exec_eq n (by rw [htrap, hmode, h.mode]), ?_⟩
  rw [htrap]
  refine ⟨_, hframe, rfl, rfl, rfl, rfl, rfl, ?prec, hfail, ?vec, by rw [hcore]⟩
  case prec =>
    simp only [operandRec, h.ins]
    rfl
  case vec =>
    rw [trapVec_operand h.sub]
    exact State.slot_vec_takeTrap rfl

theorem RunStarts.starts (n : Nat) (hok : ¬ RunFails c) : Leads (.commandStart c.uid n) s fun u => ∃ g k0,
    u = { s with slots := u.slots, cores := u.cores, cmds := u.cmds } ∧
    u.cmd c.uid = some { c with phase := if c.trips = 0 then .done else .running, gen := g } ∧
    (∀ j, u.slot j = if j = slotKey c.seqk then
      { s.slot (slotKey c.seqk) with vec := { (s.slot (slotKey c.seqk)).vec with
          masks := Kv.put (s.slot (slotKey c.seqk)).vec.masks 0 k0, trip := BitVec.ofNat 32 c.trips
          tail := BitVec.ofNat 3 c.v3.toNat, steps := 0, passes := 0, rot := 0, pred := if c.trips = 0 then 0 else 1
          upc := BitVec.ofNat 12 c.start, bank := decide (c.start / 2048 = 1), cfg := BitVec.ofNat 32 c.v1.toNat } } else s.slot j) ∧
    ∀ j : Nat, k0.getLsbD j = decide (j < Min.min c.lat.vlen 128) := by
  have hstart := h.startVrun_starts hok
  obtain ⟨hframe, hslot⟩ := (VectorOnly.refl s c).modVec (startedVec c)
  have hmode : ((s.startVrun c).slot (slotKey c.seqk)).mode = 0 := by
    rw [hstart]
    refine (congrArg Slot.mode (hslot _)).trans ?_
    rw [if_pos rfl]
    exact h.mode
  refine ⟨_, h.exec_eq n hmode, (s.core (coreOf c.seqk)).gen (bankOf c.start), maskOf fun j => decide (j < min c.lat.vlen 128), ?_⟩
  rw [hstart]
  refine ⟨rfl, State.cmd_setCmd (c := startedCmd s c) (Option.isSome_of_eq_some h.cmd), fun j => (hslot j).trans ?slots, lanes_below _⟩
  rw [startedVec_eq]
  split
  next hj => rw [hj, vec]
  next => rfl

end

/-! ### The obligation -/

/-- Settles O33: a run whose words fail a check faults, and any other starts with its first pass. -/
theorem vectorRunsStartAfterTheirChecks : Obligations.VectorRunsStartAfterTheirChecks := by
  unfold Obligations.VectorRunsStartAfterTheirChecks
  refine ⟨fun s c a b e n hcmd hins hphase hresumed _ hinj hcan hnodes hdemands hsub hmode hovl => ?runs,
    fun s sk tid n hslot => if_pos (.inr hslot)⟩
  have h : RunStarts s c a b e := ⟨hcmd, hins, hphase, hresumed, hinj, hcan, hnodes, hdemands, hsub, hmode, hovl⟩
  simp only [← Cmd.start_eq, ← Cmd.trips_eq]
  exact ⟨h.fails n, h.starts n⟩

end Sys2Proof.Claims
end
